-- ==== Sys2Proof/Word.lean ====
section
/-! DEFINITION. The word types: a 64-bit register (03 R71), a byte of memory, a 32-bit instruction or configuration word. -/

namespace Sys2Proof

/-- A general register of a control core (03 R71). -/
abbrev Word := BitVec 64

/-- A byte of memory. -/
abbrev Byte := BitVec 8

/-- A 32-bit word: an instruction word, a configuration word, a lane of a vector cell. -/
abbrev W32 := BitVec 32

end Sys2Proof
end

