-- ==== Sys2Proof/Syntax.lean ====
section
/-! DEFINITION. The instructions and machine events of the Craex: one constructor for each row of the opcode table.
An encoded instruction carries its fields as numbers, as 03 R85 to R89 place them. A machine event carries the agents
it concerns (core c, district d, element e, block b, quarter q, hub queue q, list position n, host port) and what
comes in from outside the device (a value read elsewhere, a sensor reading, a message). -/

namespace Sys2Proof

/-- The sender of a message of a clock group and the message's sequence number (14 R377). -/
structure MsgHead where
  id  : Nat
  seq : Nat
  deriving DecidableEq, Repr

/-- What SILENT says: the member and the time of its removal (14 R381). -/
structure Removal where
  who : Nat
  tr  : Nat
  deriving DecidableEq, Repr

/-- What JOIN brings with it: the tm of the first member to answer and the identity of the device (18 R412). -/
structure Entry where
  tm : Nat
  id : Nat
  deriving DecidableEq, Repr

/-- One direction of a link (18 R407). -/
structure LinkSide where
  link : Nat
  dir  : Nat
  deriving DecidableEq, Repr

/-- A write of n bytes (18 R414). -/
structure WriteData where
  n : Nat
  v : Nat
  deriving DecidableEq, Repr

/-- A write of SEC_CMD: the party that writes and the port that the value names (18 R421, R422). -/
structure SecWrite where
  port : Nat
  p    : Nat
  deriving DecidableEq, Repr

/-- Of a packet of the reliable transport: the sender's identity, the packet's number and the number of packets that it acknowledges (18 R417). -/
structure PacketHead where
  id  : Nat
  seq : Nat
  ack : Nat
  deriving DecidableEq, Repr

/-- What a packet carries: `op` 1 a store of `bytes` at pa, 2 an atomic of w bytes there, else nothing (18 R417). -/
structure PacketOp where
  op    : Nat
  fn    : Nat
  w     : Nat
  pa    : Nat
  b     : Nat
  e     : Nat
  bytes : List Nat
  deriving DecidableEq, Repr

/-- The one inductive of instructions and machine events. -/
inductive Instr where
  /-- R103: Writes the 64-bit wrapping sum of two general registers. -/
  | add (rd ra rb g : Nat)
  /-- R103: Writes the 64-bit wrapping difference of two general registers. -/
  | sub (rd ra rb g : Nat)
  /-- R103: Writes the bitwise AND of two registers. -/
  | and (rd ra rb g : Nat)
  /-- R103: Writes the bitwise OR of two registers. -/
  | or (rd ra rb g : Nat)
  /-- R103: Writes the bitwise XOR of two registers. -/
  | xor (rd ra rb g : Nat)
  /-- R103: Writes X[RA] AND NOT X[RB]. -/
  | andn (rd ra rb g : Nat)
  /-- R103: Shifts a register left by the low six bits of another. -/
  | sll (rd ra rb g : Nat)
  /-- R103: Shifts a register logically right by the low six bits of another. -/
  | srl (rd ra rb g : Nat)
  /-- R103: Shifts a register arithmetically right by the low six bits of another. -/
  | sra (rd ra rb g : Nat)
  /-- R103: Writes the low 64 bits of the product of two registers. -/
  | mul (rd ra rb g : Nat)
  /-- R103: Writes the high 64 bits of the signed 128-bit product. -/
  | mulhI64 (rd ra rb g : Nat)
  /-- R103: Writes the high 64 bits of the unsigned 128-bit product. -/
  | mulhN64 (rd ra rb g : Nat)
  /-- R104: Writes the signed quotient rounded towards zero, never trapping. -/
  | divI64 (rd ra rb g : Nat)
  /-- R104: Writes the unsigned quotient, all ones on division by zero. -/
  | divN64 (rd ra rb g : Nat)
  /-- R104: Writes the signed remainder with the sign of the dividend. -/
  | remI64 (rd ra rb g : Nat)
  /-- R104: Writes the unsigned remainder. -/
  | remN64 (rd ra rb g : Nat)
  /-- R103: Writes the smaller of two registers as signed integers. -/
  | minI64 (rd ra rb g : Nat)
  /-- R103: Writes the larger of two registers as signed integers. -/
  | maxI64 (rd ra rb g : Nat)
  /-- R103: Writes the smaller of two registers as unsigned integers. -/
  | minN64 (rd ra rb g : Nat)
  /-- R103: Writes the larger of two registers as unsigned integers. -/
  | maxN64 (rd ra rb g : Nat)
  /-- R103: Writes the saturated 32-bit signed sum, sign-extended. -/
  | addsI32 (rd ra rb g : Nat)
  /-- R103: Writes the saturated 32-bit signed difference, sign-extended. -/
  | subsI32 (rd ra rb g : Nat)
  /-- R103: Writes the saturated 64-bit signed sum. -/
  | addsI64 (rd ra rb g : Nat)
  /-- R103: Writes the saturated 64-bit signed difference. -/
  | subsI64 (rd ra rb g : Nat)
  /-- R103: Counts leading zero bits of a register. -/
  | clz (rd ra g : Nat)
  /-- R103: Counts trailing zero bits of a register. -/
  | ctz (rd ra g : Nat)
  /-- R103: Counts the one bits of a register. -/
  | popc (rd ra g : Nat)
  /-- R105: Adds a sign-extended 12-bit immediate to a register. -/
  | addi (rd ra g imm : Nat)
  /-- R105: ANDs a register with a sign-extended immediate. -/
  | andi (rd ra g imm : Nat)
  /-- R105: ORs a register with a sign-extended immediate. -/
  | ori (rd ra g imm : Nat)
  /-- R105: XORs a register with a sign-extended immediate. -/
  | xori (rd ra g imm : Nat)
  /-- R106: Shifts a register left by an immediate amount. -/
  | slli (rd ra g n : Nat)
  /-- R106: Shifts a register logically right by an immediate amount. -/
  | srli (rd ra g n : Nat)
  /-- R106: Shifts a register arithmetically right by an immediate amount. -/
  | srai (rd ra g n : Nat)
  /-- R107: Loads a 20-bit immediate into bits 31:12, sign-extended. -/
  | ldhi (rd imm : Nat)
  /-- R107: Writes the program counter plus a shifted 20-bit immediate. -/
  | addpc (rd imm : Nat)
  /-- R108: Loads the sign-extended 32-bit extension word into a register. -/
  | li (rd g ext : Nat)
  /-- R108: Loads the extension word into the upper half of a register. -/
  | lih (rd g ext : Nat)
  /-- R110: Sets a predicate when two registers are equal. -/
  | cmpEq (rd ra rb g : Nat)
  /-- R110: Sets a predicate when two registers differ. -/
  | cmpNe (rd ra rb g : Nat)
  /-- R110: Sets a predicate on signed less-than. -/
  | cmpLtI64 (rd ra rb g : Nat)
  /-- R110: Sets a predicate on signed greater-or-equal. -/
  | cmpGeI64 (rd ra rb g : Nat)
  /-- R110: Sets a predicate on unsigned less-than. -/
  | cmpLtN64 (rd ra rb g : Nat)
  /-- R110: Sets a predicate on unsigned greater-or-equal. -/
  | cmpGeN64 (rd ra rb g : Nat)
  /-- R112: ANDs two predicates. -/
  | kand (rd ra rb g : Nat)
  /-- R112: ORs two predicates. -/
  | kor (rd ra rb g : Nat)
  /-- R112: XORs two predicates. -/
  | kxor (rd ra rb g : Nat)
  /-- R112: ANDs a predicate with the inverse of another. -/
  | kandn (rd ra rb g : Nat)
  /-- R112: Inverts a predicate. -/
  | knot (rd ra g : Nat)
  /-- R112: Copies a predicate. -/
  | kmov (rd ra g : Nat)
  /-- R112: Writes 1 or 0 to a general register from a predicate. -/
  | kget (rd ra g : Nat)
  /-- R113: Selects one of two registers by the predicate in the G field. -/
  | sel (rd ra rb kg : Nat)
  /-- R111: Sets a predicate when a register equals an immediate. -/
  | cmpiEq (rd ra g imm : Nat)
  /-- R111: Sets a predicate on signed less-than an immediate. -/
  | cmpiLtI64 (rd ra g imm : Nat)
  /-- R111: Sets a predicate on unsigned less-than an immediate. -/
  | cmpiLtN64 (rd ra g imm : Nat)
  /-- R114: Branches when two registers are equal. -/
  | beq (ra rb ofs : Nat)
  /-- R114: Branches when two registers differ. -/
  | bne (ra rb ofs : Nat)
  /-- R114: Branches on signed less-than. -/
  | bltI64 (ra rb ofs : Nat)
  /-- R114: Branches on signed greater-or-equal. -/
  | bgeI64 (ra rb ofs : Nat)
  /-- R114: Branches on unsigned less-than. -/
  | bltN64 (ra rb ofs : Nat)
  /-- R114: Branches on unsigned greater-or-equal. -/
  | bgeN64 (ra rb ofs : Nat)
  /-- R115: Branches when a predicate is true. -/
  | bk (ra ofs : Nat)
  /-- R115: Branches when a predicate is false. -/
  | bnk (ra ofs : Nat)
  /-- R116: Writes the return address and jumps PC-relative. -/
  | call (rd ofs : Nat)
  /-- R117: Writes the return address and jumps to a register plus immediate. -/
  | callr (rd ra g imm : Nat)
  /-- R119: Starts or skips a hardware loop level over a body of IMM12 words. -/
  | loop (lp ra g imm : Nat)
  /-- R141: Loads a sign-extended byte. -/
  | ldI8 (rd ra g imm : Nat)
  /-- R141: Loads a zero-extended byte. -/
  | ldN8 (rd ra g imm : Nat)
  /-- R141: Loads a sign-extended halfword. -/
  | ldI16 (rd ra g imm : Nat)
  /-- R141: Loads a zero-extended halfword. -/
  | ldN16 (rd ra g imm : Nat)
  /-- R141: Loads a sign-extended word. -/
  | ldI32 (rd ra g imm : Nat)
  /-- R141: Loads a zero-extended word. -/
  | ldN32 (rd ra g imm : Nat)
  /-- R141: Loads a doubleword. -/
  | ldI64 (rd ra g imm : Nat)
  /-- R142: The data of an outstanding load returns and completes the load, or raises POISON. -/
  | loadDataReturn (c v : Nat)
  /-- R141: Stores a byte, posted. -/
  | stN8 (rb ra g imm : Nat)
  /-- R141: Stores a halfword, posted. -/
  | stN16 (rb ra g imm : Nat)
  /-- R141: Stores a word, posted. -/
  | stN32 (rb ra g imm : Nat)
  /-- R141: Stores a doubleword, posted. -/
  | stN64 (rb ra g imm : Nat)
  /-- R142: A posted store to a peer cannot be delivered after link retries and raises RSTORE asynchronously. -/
  | remoteStoreFail (n : Nat)
  /-- R345: A request refused with MOVED is retranslated after the shootdown and sent again. -/
  | movedRetry (n : Nat)
  /-- R145: Waits for full, reads the tagged word and empties it. -/
  | tldTake (rd ra g : Nat)
  /-- R145: Waits for full and reads the tagged word. -/
  | tldKeep (rd ra g : Nat)
  /-- R145: Waits for empty, writes the word and sets it full. -/
  | tstFill (ra rb g : Nat)
  /-- R145: Writes the word and sets it full without waiting. -/
  | tstSet (ra rb g : Nat)
  /-- R145: Reads the full/empty tag of a word. -/
  | tagGet (rd ra g : Nat)
  /-- R145: Sets a word's tag empty. -/
  | tagClr (ra g : Nat)
  /-- R147: When a word changes state, the waiting keeps up to the first take, or the first fill, are served in order. -/
  | taggedWaiterServe (n : Nat)
  /-- R146: A tagged wait reaches CC_TAGWAIT.BOUND and raises TAGTIME. -/
  | tagWaitTimeout (c : Nat)
  /-- R149: Adds an operand to a memory word at its home engine. -/
  | amoAdd (rd ra rb g w : Nat)
  /-- R149: ANDs an operand into a memory word atomically. -/
  | amoAnd (rd ra rb g w : Nat)
  /-- R149: ORs an operand into a memory word atomically. -/
  | amoOr (rd ra rb g w : Nat)
  /-- R149: XORs an operand into a memory word atomically. -/
  | amoXor (rd ra rb g w : Nat)
  /-- R149: Keeps the signed minimum atomically. -/
  | amoMinSigned (rd ra rb g w : Nat)
  /-- R149: Keeps the signed maximum atomically. -/
  | amoMaxSigned (rd ra rb g w : Nat)
  /-- R149: Keeps the unsigned minimum atomically. -/
  | amoMinUnsigned (rd ra rb g w : Nat)
  /-- R149: Keeps the unsigned maximum atomically. -/
  | amoMaxUnsigned (rd ra rb g w : Nat)
  /-- R149: Swaps an operand with a memory word atomically. -/
  | amoSwap (rd ra rb g w : Nat)
  /-- R149: Compares with X[RD] and swaps atomically. -/
  | amoCas (rd ra rb g w : Nat)
  /-- R149: Adds an FP32 operand with RNE at the home engine. -/
  | amoAddF32 (rd ra rb g : Nat)
  /-- R153: Snapshots and clears a block of 16 counters, returning their sum. -/
  | amoSnap (rd ra rb g : Nat)
  /-- R152: Adds up to 16 words to consecutive targets indivisibly, wrapping. -/
  | amoVaddN32 (ra rb g : Nat)
  /-- R152: Adds up to 16 FP32 words to consecutive targets indivisibly. -/
  | amoVaddF32 (ra rb g : Nat)
  /-- R149: Reads a memory word at its home engine. -/
  | amoLd (rd ra g w : Nat)
  /-- R151: An atomic request reaches its home sync engine and is performed in the line's single order. -/
  | atomicAtHome (n : Nat)
  /-- R150: The old value of a waiting atomic returns and completes it. -/
  | atomicReply (c v : Nat)
  /-- R156: Orders the thread's accesses at a scope. -/
  | fence (g sc : Nat)
  /-- R156: Acquire of an object at a scope. -/
  | acq (ra g sc : Nat)
  /-- R156: Release of an object at a scope. -/
  | rel (ra g sc : Nat)
  /-- R156: Binds a device-memory region to an object in the bind table. -/
  | bind (rd ra rb g : Nat)
  /-- R156: Removes every bind entry for an object. -/
  | unbind (rd g : Nat)
  /-- R158: Sets an own barrier's target count and clears arrivals. -/
  | barInit (ra g n : Nat)
  /-- R158: Counts an arrival and flips the phase at the target. -/
  | barArrive (rd ra g n : Nat)
  /-- R158: Waits until the barrier phase differs from a value. -/
  | barWait (rd ra g n : Nat)
  /-- R158: Arrives and then waits on a barrier. -/
  | barSync (ra g n : Nat)
  /-- R158: A barrier wait overruns its bound and raises BARTIME. -/
  | barrierWaitTimeout (c : Nat)
  /-- R162: Requests a lock at a level and mode, waiting for the grant. -/
  | lkReq (rd ra g lv md : Nat)
  /-- R162: Requests a lock and returns BUSY if not grantable at once. -/
  | lkTry (rd ra g lv md : Nat)
  /-- R162: Upgrades a held lock to a covering mode. -/
  | lkUp (rd ra g lv md : Nat)
  /-- R163: Releases one lock record. -/
  | lkRel (ra g : Nat)
  /-- R163: Releases every explicit lock record of the thread, leaves first. -/
  | lkRelall (g : Nat)
  /-- R163: Returns the thread's record count and hold of a lock. -/
  | lkQuery (rd ra g : Nat)
  /-- R365: A lock request reaches its home engine and is granted or queued in age order, wounding younger holders. -/
  | lockRequestAtHome (n : Nat)
  /-- R367: A wound reaches the holder's core or save region and sets WPEND. -/
  | woundArrival (n : Nat)
  /-- R368: A wounded thread takes WOUND asynchronously at a boundary with IE = 1 after 2 µs. -/
  | woundAsyncEntry (c : Nat)
  /-- R369: A wounded holder still holding after REVOKE × 64 µs is revoked and takes LKREVOKE. -/
  | lockRevoke (n : Nat)
  /-- R164: Opens a transaction with a restart address. -/
  | txBegin (rd ra g : Nat)
  /-- R167: Commits the transaction once its writes are performed. -/
  | txEnd (rd g : Nat)
  /-- R166: Aborts the transaction with reason 2 and a code. -/
  | txAbort (ra g : Nat)
  /-- R164: Returns abort count, TXN and last abort status. -/
  | txStat (rd g : Nat)
  /-- R167: Home engines discard the undo log and release implicit locks once writes are performed. -/
  | txCommit (c : Nat)
  /-- R166: A pending wound aborts an open transaction at the next user boundary. -/
  | txWoundAbort (c : Nat)
  /-- R203: Releases and enqueues a copy of a continuation record. -/
  | spawn (rd ra g : Nat)
  /-- R203: A spawn waiting on a full queue overruns its bound and raises TASKQFULL. -/
  | spawnWaitTimeout (c : Nat)
  /-- R203: Waits for engine operations, releases, decrements the join counter and frees the core. -/
  | done (g : Nat)
  /-- R203: Initialises a join counter at its home. -/
  | joinInit (rd ra rb g : Nat)
  /-- R204: Claims a guided chunk from a loop descriptor at the central task queue. -/
  | chunk (rd ra g : Nat)
  /-- R174: Acquires a district of free blocks in the tenant zone. -/
  | dacq (rd ra rb g : Nat)
  /-- R174: A dacq waiting for room acquires its district once blocks free. -/
  | dacqWaitGrant (c : Nat)
  /-- R175: Releases the thread's district. -/
  | drel (g : Nat)
  /-- R176: Sends a configuration stream to the district controller. -/
  | cfgLoad (rd ra rb g : Nat)
  /-- R176: The configuration load ends with DONE or FAULT and sets its completion object. -/
  | cfgLoadEnd (d : Nat)
  /-- R177: Writes one constant directly, staged, or commits or abandons. -/
  | cfgConst (ra rb g : Nat)
  /-- R177: A waiting cfg.const is applied after earlier district commands. -/
  | cfgConstApply (c : Nat)
  /-- R178: Starts or queues an invocation of the configured datapath. -/
  | invoke (rd ra rb g : Nat)
  /-- R183: Binds or unbinds a stream handle to an element link. -/
  | sbind (rd ra g : Nat)
  /-- R184: Sends one token into a bound input link. -/
  | push (rd ra rb g : Nat)
  /-- R185: Takes the head token of a bound output link. -/
  | pull (rd ra rb g : Nat)
  /-- R184: A push or pull wait overruns its bound and raises QTIME. -/
  | streamWaitTimeout (c : Nat)
  /-- R182: Waits until the district is empty, then fences at district scope. -/
  | drain (g : Nat)
  /-- R179: Sets the district context counter position, length and run. -/
  | ctxset (ra g : Nat)
  /-- R180: Starts a milestone wave at every source. -/
  | mstone (rd ra g : Nat)
  /-- R180: Every sink has taken the milestone and its stores are committed; the object is set. -/
  | mstoneComplete (d : Nat)
  /-- R181: Tears the district configuration down behind the last DONE. -/
  | tdown (rd g : Nat)
  /-- R181: Every element is back in the free pool and the teardown completes. -/
  | tdownComplete (d : Nat)
  /-- R189: Loads a dense tile into a near-side range. -/
  | dmaLd (rd ra rb g ext : Nat)
  /-- R189: Stores a near-side range into a tile. -/
  | dmaSt (rd ra rb g ext : Nat)
  /-- R189: Copies a byte range. -/
  | dmaCp (rd ra rb g ext : Nat)
  /-- R189: Gathers whole rows by an index list. -/
  | dmaGath (rd ra rb g ext : Nat)
  /-- R190: A DMA finishes, faults or stops and sets its completion object. -/
  | dmaEnd (n : Nat)
  /-- R193: Appends one update to a bin set. -/
  | binApp (rd ra rb g : Nat)
  /-- R193: The binning engine appends a record, flushing a full bin first. -/
  | binAppendAtEngine (n : Nat)
  /-- R194: Replays bin regions through the scratchpad. -/
  | binPlay (rd ra rb g : Nat)
  /-- R194: The engine replays one region and moves later records forward. -/
  | binRegionReplay (n : Nat)
  /-- R195: Copies local bytes to a remote node. -/
  | rput (rd ra rb g ext : Nat)
  /-- R195: Copies remote bytes to a local destination. -/
  | rget (rd ra rb g ext : Nat)
  /-- R195: Performs an atomic at a remote node's home. -/
  | ramo (rd ra rb g ext : Nat)
  /-- R196: A remote transfer or atomic cannot be delivered and reports RLINK. -/
  | remoteLinkFail (n : Nat)
  /-- R188: Checks and writes a tensor-identifier entry to every engine. -/
  | tidWr (ra rb g : Nat)
  /-- R188: Stores a tensor-identifier entry to memory. -/
  | tidRd (ra rb g : Nat)
  /-- R200: Queues rows of A through a matrix cell into the accumulator. -/
  | mtile (rd ra rb g ext : Nat)
  /-- R199: Queues a load of B into a matrix cell's macro. -/
  | mbload (rd ra rb g ext : Nat)
  /-- R202: Queues a copy between accumulator rows and a C tensor. -/
  | maccCp (rd ra rb g ext : Nat)
  /-- R202: Queues setting accumulator rows to +0. -/
  | maccZero (rd ra g ext : Nat)
  /-- R201: Sequencer fetches 16 rows of B and converts them in the prologue. -/
  | seqBFetch (d : Nat)
  /-- R201: Sequencer writes the converted planes into the macro. -/
  | seqBWrite (d : Nat)
  /-- R201: Sequencer fetches one A row. -/
  | seqAFetch (d : Nat)
  /-- R201: Sequencer aligns an A row by group. -/
  | seqAAlign (d : Nat)
  /-- R201: Sequencer broadcasts P planes of an A row. -/
  | seqABroadcast (d : Nat)
  /-- R34: Sums, scales and rounds a row step into its accumulator row. -/
  | seqAAccumulate (d : Nat)
  /-- R202: Sequencer copies or zeroes one accumulator row. -/
  | seqAccRowMove (d : Nat)
  /-- R201: Sequencer sets the instruction's completion object, or faults and cancels the queue. -/
  | seqSetCompletion (d : Nat)
  /-- R122: Reads a system register. -/
  | mfs (rd g imm : Nat)
  /-- R122: Writes a system register field by field. -/
  | mts (ra g imm : Nat)
  /-- R126: Raises SWTRAP with condition n. -/
  | trap (g n : Nat)
  /-- R127: Clears CC_STATUS.INTRAP. -/
  | tack (g : Nat)
  /-- R128: Restores MODE and IE and returns to CC_EPC. -/
  | eret (g : Nat)
  /-- R129: Stops issue until an asynchronous event is pending. -/
  | idle (g : Nat)
  /-- R135: Releases at device scope and invalidates every instruction-cache line on every core. -/
  | icinvAll (g : Nat)
  /-- R135: Releases and invalidates one instruction-cache line on every core. -/
  | icinvLine (ra g : Nat)
  /-- R135: Another core acknowledges an icinv at an instruction boundary. -/
  | icinvAcknowledge (c : Nat)
  /-- R136: Drops every translation entry of every space. -/
  | xinvAll (g : Nat)
  /-- R136: Drops every translation entry of one space. -/
  | xinvSpace (rd g : Nat)
  /-- R136: Drops the entries of one space covering an address. -/
  | xinvVa (rd ra g : Nat)
  /-- R131: Sends a control message to a core's handler entry and stalls until accepted or refused. -/
  | sig (ra rb g : Nat)
  /-- R132: A message arrives at its target and is held, parked, refused or queued by its entry's state. -/
  | sigMessageArrival (n : Nat)
  /-- R132: A message waiting on W = 1 reaches a + 256 and is refused with SIGWAIT. -/
  | sigHoldTimeout (c : Nat)
  /-- R132: A message waiting for a delivery-queue entry joins the queue or overruns with SIGFULL. -/
  | sigQueueEntry (c : Nat)
  /-- R133: The head queued message enters its handler address at a boundary with IE = 1. -/
  | msgDelivery (c : Nat)
  /-- R134: Rewrites a handler-table entry and moves parked messages to the queue. -/
  | sethnd (rd ra rb g : Nat)
  /-- R205: Joins the device to a clock group. -/
  | gcJoin (rd ra rb g : Nat)
  /-- R380: Sends LEAVE with tl after the notice. -/
  | gcLeave (rd g : Nat)
  /-- R205: Announces a new own limit to the group. -/
  | gcAnn (ra rb g : Nat)
  /-- R205: Returns a clock-group value by selector. -/
  | gcQuery (rd ra g : Nat)
  /-- R126: Raises BREAK. -/
  | brk
  /-- R124: A pending asynchronous event enters the handler at an instruction boundary with IE = 1. -/
  | asyncEventEntry (c : Nat)
  /-- R61: Configuration command writing a field at the cursor and maybe advancing it. -/
  | plainWrite (d : Nat)
  /-- R62: Configuration command placing the cursor with a step mode. -/
  | setElementCursor (d : Nat)
  /-- R63: Configuration command writing a whole value word to a field. -/
  | wideWrite (d : Nat)
  /-- R64: Plane control command with no effect. -/
  | nop (d : Nat)
  /-- R68: Opens a staged constant group. -/
  | stage (d : Nat)
  /-- R68: Applies all staged constants at the end of one fc. -/
  | commit (d : Nat)
  /-- R64: Discards the open staged group. -/
  | abandon (d : Nat)
  /-- R70: Makes the rest of the stream pending wavefront commands. -/
  | wave (d : Nat)
  /-- R64: Returns the element at the cursor to the free pool at reset values. -/
  | clear (d : Nat)
  /-- R276: An element applies its pending wavefront commands after its final firing on the old kernel. -/
  | pendingCommandApply (e : Nat)
  /-- R277: A pending switch setting applies once old routes' DONE has left the track. -/
  | pendingSwitchApply (b : Nat)
  /-- R58: A token moves one hop when the next hop has a free entry on every branch. -/
  | tokenHop (kind at_ port : Nat)
  /-- R212: A ready context issues a data firing through its six stages. -/
  | vectorCellFiring (e : Nat)
  /-- R224: A context consumes STOP, DONE, HEAD or TAIL heads and emits the matching tokens. -/
  | structuralEmission (e : Nat)
  /-- R228: A BRANCH cell takes a control token and arms NEXT0 or NEXT1. -/
  | controlTokenTake (e : Nat)
  /-- R270: A cell waiting under BRANCH finishes when all arm inputs hold DONE. -/
  | branchCellFinish (e : Nat)
  /-- R237: A scanner emits a coordinate and reference or passes a stop or DONE. -/
  | scannerStep (e : Nat)
  /-- R239: A scanner's DMA fills a refill line into its fibre buffer. -/
  | fibreBufferRefill (e : Nat)
  /-- R241: A source acts on an arriving skip request by galloping within its fibre. -/
  | skipRequest (e : Nat)
  /-- R244: A merge unit takes an intersect step and may send skip requests. -/
  | mergeIntersectStep (e : Nat)
  /-- R245: A merge unit takes a union step with fill and mask. -/
  | mergeUnionStep (e : Nat)
  /-- R247: A REF repeater emits its reference per driver token. -/
  | repeaterRefStep (e : Nat)
  /-- R248: A FIBRE repeater loads one token of its fibre into its buffer. -/
  | repeaterFibreLoad (e : Nat)
  /-- R248: A FIBRE repeater replays a loaded coordinate or stop per driver token. -/
  | repeaterFibreReplay (e : Nat)
  /-- R250: A reducer folds a value or emits a fibre result and stops. -/
  | reducerStep (e : Nat)
  /-- R252: A level writer writes coordinates, positions, bits or values. -/
  | levelWriterStep (e : Nat)
  /-- R274: A stream-mode matrix cell fires on a complete A row and may emit it. -/
  | matrixRowFiring (e : Nat)
  /-- R274: A stream-mode matrix cell takes an A burst token into its row buffer. -/
  | matrixBurstTake (e : Nat)
  /-- R306: A stream-mode matrix cell passes or consumes DONE and finishes. -/
  | matrixDonePass (e : Nat)
  /-- R286: A memory node takes a request token and performs its access. -/
  | memoryNodeRequest (e k : Nat)
  /-- R288: A memory node sends a completed access's return in order. -/
  | memoryNodeReturn (e k : Nat)
  /-- R290: A row-burst request returns its tile bursts. -/
  | rowBurst (e k : Nat)
  /-- R291: A waiting tagged node request reaches the bound and faults with TAGTIME. -/
  | nodeTagTimeout (e k : Nat)
  /-- R52: An element takes a milestone wave from every input, snapshots, checks and forwards it. -/
  | milestoneTake (e : Nat)
  /-- R398: The region is gated, restored to its last complete wave and resumed. -/
  | rollback (d : Nat)
  /-- R393: A memory controller reads each line every 24 hours and corrects or marks it. -/
  | patrolRead (line err : Nat)
  /-- R263: An element joins a started invocation and makes its start checks. -/
  | elementJoin (e : Nat)
  /-- R178: A waiting invoke starts once an invocation slot frees and loads have completed. -/
  | invokeStart (d : Nat)
  /-- R265: An invocation ends normally once all finished, DONEs delivered and stores committed. -/
  | invocationEnd (d : Nat)
  /-- R266: A fault mark arrives from another district of the gang and ends the invocation. -/
  | gangfault (d : Nat)
  /-- R262: The district stall count reaches its bound and raises STALLDOG. -/
  | stallWatchdogExpiry (d : Nat)
  /-- R279: A waiting element store enters the hold buffer once room frees. -/
  | heldStoreEntry (e k : Nat)
  /-- R280: The gateway commits the held stores of a complete wave. -/
  | waveCommit (d : Nat)
  /-- R317: A 32-byte write to a launch window enqueues or refuses one record. -/
  | launchWindowWrite (port ofs : Nat) (bytes : List Nat)
  /-- R313: Sets a queue's ring base and size, or is refused in the wrong state. -/
  | hqBaseWrite (port q v : Nat)
  /-- R316: Queue command making the queue ENABLED. -/
  | enable (port q : Nat)
  /-- R316: Queue command making the queue DISABLED. -/
  | disable (port q : Nat)
  /-- R332: Queue command discarding waiting records with CANCEL and tearing the queue down. -/
  | teardown (port q : Nat)
  /-- R333: Queue command tearing down and killing every running task of the queue. -/
  | reset (port q : Nat)
  /-- R316: Queue command turning a TORN queue OFF. -/
  | off (port q : Nat)
  /-- R332: A TEARING or RESETTING queue becomes TORN once no work remains. -/
  | queueTorn (q : Nat)
  /-- R321: The hub dispatches the best-ranked candidate whose cores and district are free. -/
  | hubDispatch
  /-- R323: The first-ranked candidate waits PWAIT µs and the hub pre-empts a lower task. -/
  | pwaitPreemption
  /-- R325: A join decrement at its home may enqueue the REC copy. -/
  | joinDecrement
  /-- R325: A REC copy waiting for room enters its lane or the gang table. -/
  | recCopyEnter (n : Nat)
  /-- R328: The walker takes a GRAPH record and starts a path at ENTRY. -/
  | graphWalkStart
  /-- R328: A path reaches a task node and enqueues its record. -/
  | graphTaskNode (n : Nat)
  /-- R328: A path reads a condition word and goes on at NEXT or ALT. -/
  | graphCondNode (n : Nat)
  /-- R328: A path tests a condition and counts passes. -/
  | graphWhileNode (n : Nat)
  /-- R328: A path stores START and enqueues WORKERS records. -/
  | graphLoopNode (n : Nat)
  /-- R328: A path arrives at a join node and continues on the COUNT-th arrival. -/
  | graphJoinNode (n : Nat)
  /-- R323: Sets the pre-emption wait PWAIT. -/
  | schCtlWrite (port v : Nat)
  /-- R352: Core command lifting the task and its gang off the fabric into the save region. -/
  | preempt (port c : Nat)
  /-- R352: The lifted state is saved, the core and blocks are freed and the record requeued. -/
  | preemptSaveComplete (c : Nat)
  /-- R355: A pre-empted task is restored onto the same core and blocks and ungated. -/
  | taskRestore (n : Nat)
  /-- R356: Core command gating the district's clock. -/
  | halt (port c : Nat)
  /-- R349: Core command ungating the district. -/
  | unhalt (port c : Nat)
  /-- R349: Core command stopping issue at the next boundary. -/
  | stop (port c : Nat)
  /-- R349: Core command resuming a stopped core. -/
  | run (port c : Nat)
  /-- R351: Core command killing the task and resetting the core. -/
  | restart (port c : Nat)
  /-- R350: Writes another core's system register NUM when it is idle, stopped or halted. -/
  | qcSdataWrite (port c v : Nat)
  /-- R350: Reads another core's system register NUM when permitted. -/
  | qcSdataRead (port c : Nat)
  /-- R344: A QC_MIG3 write checks and starts a page migration. -/
  | migrationStart (port q v : Nat)
  /-- R345: The page opens at its new home and the completion object is set. -/
  | migrationEnd (q : Nat)
  /-- R342: Reloads pinned entries into every translation unit and core. -/
  | pinLoad (port : Nat)
  /-- R357: Sets a block row's zones at the end of the fc of arrival. -/
  | zoneMapWrite (port q n v : Nat)
  /-- R403: Maps a logical block column onto the spare, or is refused with BUSY. -/
  | rpRemapWrite (port q v : Nat)
  /-- R404: Clears the repair counters RP_CNT0 and RP_CNT1. -/
  | rpCountClear (port q : Nat)
  /-- R363: Reads a space's lock-space entry into every engine. -/
  | lmReload (port v : Nat)
  /-- R11: Writes a hub or system register that has no behaviour of its own, by its access types. -/
  | registerWrite (port ofs : Nat) (d : WriteData)
  /-- R376: A member records an announced limit and effective time. -/
  | announceReceive (grp id seq n te : Nat)
  /-- R377: Every 10 µs a member sends HEARTBEAT. -/
  | heartbeatSend
  /-- R381: A member records a heartbeat, or answers a removed member with EXPEL. -/
  | heartbeatReceive (grp : Nat) (m : MsgHead) (n top : Nat)
  /-- R379: A member receives JOIN, adds a pending member and replies STATE. -/
  | joinReceive (grp : Nat) (m : MsgHead) (n notice : Nat)
  /-- R379: A joiner adopts the group's notice and pending schedule. Of each member: identity, sequence number, join time, and the time of its removal or
  0; of each announcement: identity, sequence number, n, te. -/
  | stateReceive (grp : Nat) (m : MsgHead) (notice tj : Nat) (members anns : List (Nat × Nat × Nat × Nat))
  /-- R379: No reply within 100 µs; the device founds the group. -/
  | groupFound
  /-- R380: A member records a leaver counting until tl. -/
  | leaveReceive (grp : Nat) (m : MsgHead) (tl : Nat)
  /-- R381: No heartbeat for SILENT × 10 µs; a member declares another silent. -/
  | silentDeclare (id : Nat)
  /-- R381: A member schedules removal of a silent member at tr. -/
  | silentReceive (grp : Nat) (m : MsgHead) (r : Removal)
  /-- R381: An expelled device leaves at once and raises GCEXPEL. -/
  | expelReceive (grp : Nat)
  /-- R382: At a ceiling boundary the clock moves to the new least limit. -/
  | ceilingChange
  /-- R418: Every 1 ms the thermal limit NTH moves by the hottest junction. -/
  | thermalTick (t : Nat)
  /-- R418: Every 100 µs the current limit NCUR moves by rail telemetry. -/
  | currentTick (pct : Nat)
  /-- R418: Every 100 µs the power-cap limit NCAP moves by mean power. -/
  | powerCapTick (p : Nat)
  /-- R419: Every 100 µs a member sends its power, weight, budget and group. -/
  | rackShareSend
  /-- R419: A member updates its rack share from received values. -/
  | rackShareReceive (dev p weight budget group : Nat)
  /-- R420: TTRIP or a rail rating is reached; the clock drops to 400 MHz. -/
  | emergencyThrottle (t rails : Nat)
  /-- R420: Temperature and rails fall back and the throttle ends. -/
  | emergencyRelease (t pct : Nat)
  /-- R409: A receiver checks a flit and acknowledges it or answers NAK. -/
  | flitReceive (link seq good : Nat)
  /-- R409: A NAK makes the sender resend from the named flit. -/
  | nakReplay (link seq : Nat)
  /-- R409: A flit failing 16 times retrains the direction. -/
  | linkRetrain (link dir : Nat)
  /-- R409: A lane fails training or its error rate, and the direction narrows or goes down. -/
  | laneFail (link lane : Nat)
  /-- R411: Link command making a spare lane active in a direction. -/
  | spare (port v : Nat)
  /-- R411: Link command turning an active lane to the other direction. -/
  | turn (port v : Nat)
  /-- R411: Link command returning an active or failed lane to spare. -/
  | idleLane (port v : Nat)
  /-- R411: A lane finishes training in its new state. -/
  | laneTrained (link ok : Nat)
  /-- R413: UL_DCTL command sending LEAVE and scheduling departure at tm. -/
  | leave (port : Nat)
  /-- R412: At tm every member applies an entry or departure and raises ULMEMB. -/
  | membershipChange
  /-- R413: All links to a device are down and a departure is sent for it. -/
  | deviceDeparture (dev : Nat)
  /-- R413: An inserted device trains its links and sends JOIN to enter the domain. -/
  | domainJoin (dev : Nat) (e : Entry)
  /-- R416: A host write to HO_CAS changes the owner if its conditions hold. -/
  | ownerCas (port v : Nat)
  /-- R415: An owner write to HO_BEAT restarts its timer. -/
  | ownerHeartbeat (port : Nat)
  /-- R415: The owner heartbeat timer expires and STALE is set. -/
  | ownerStale
  /-- R417: A reliable-transport packet is received, acknowledged and delivered once in order. -/
  | scaleoutPacketReceive (node : Nat) (h : PacketHead) (o : PacketOp)
  /-- R417: RTO expires and the packet is resent, or is undeliverable after TRIES. -/
  | scaleoutRetransmit (n : Nat)
  /-- R421: Reset holds all cores while the security processor verifies and starts firmware. -/
  | deviceReset
  /-- R421: SEC_CMD command loading and verifying firmware from SEC_LOAD. -/
  | loadFirmware (c : SecWrite)
  /-- R422: SEC_CMD command starting an attestation report for a port. -/
  | attest (port : Nat)
  /-- R422: The signed report is written and BUSY clears. -/
  | attestComplete (port : Nat)
  /-- R409: A retraining direction finishes training within 20 µs and carries flits again, releasing any link command that waited on it. -/
  | retrainingEnd (side : LinkSide)
  /-- R414: A host write through the BAR2 window stores into device memory at the physical address set by HO_WIN. -/
  | bar2MemoryWrite (port ofs : Nat) (bytes : List Nat)
  /-- R179: While RUN = 1 the district context counter advances p := (p + 1) mod L once per fc, whether or not any cell fires. -/
  | contextCounterAdvance (d : Nat)
  deriving DecidableEq, Repr

end Sys2Proof
end

