-- ==== Sys2Proof/WellFormed.lean ====
section
/-! DEFINITION. Which instructions have an encoding: every field lies in the range that 03 R85 to R89 give it.
A machine event has no encoding and no field range of its own. -/

namespace Sys2Proof

/-- The extension word of `ramo` (06 R195): bits [15:0] are zero and bits [21:16] name a form of 05 R149 other than the
snapshot and the vector adds. -/
def ramoExtOk (ext : Nat) : Bool :=
  let fn := ext / 2 ^ 16 % 64
  ext % 2 ^ 16 == 0 && (fn % 32 ≤ 9 || fn == 0x0A || fn % 32 == 0x0E)

/-- Every field of an encoded instruction is in its range (03 R85 to R89). -/
def Instr.wf : Instr → Bool
  | .add rd ra rb g => decide (rd < 32) && decide (ra < 32) && decide (rb < 32) && decide (g < 8)
  | .sub rd ra rb g => decide (rd < 32) && decide (ra < 32) && decide (rb < 32) && decide (g < 8)
  | .and rd ra rb g => decide (rd < 32) && decide (ra < 32) && decide (rb < 32) && decide (g < 8)
  | .or rd ra rb g => decide (rd < 32) && decide (ra < 32) && decide (rb < 32) && decide (g < 8)
  | .xor rd ra rb g => decide (rd < 32) && decide (ra < 32) && decide (rb < 32) && decide (g < 8)
  | .andn rd ra rb g => decide (rd < 32) && decide (ra < 32) && decide (rb < 32) && decide (g < 8)
  | .sll rd ra rb g => decide (rd < 32) && decide (ra < 32) && decide (rb < 32) && decide (g < 8)
  | .srl rd ra rb g => decide (rd < 32) && decide (ra < 32) && decide (rb < 32) && decide (g < 8)
  | .sra rd ra rb g => decide (rd < 32) && decide (ra < 32) && decide (rb < 32) && decide (g < 8)
  | .mul rd ra rb g => decide (rd < 32) && decide (ra < 32) && decide (rb < 32) && decide (g < 8)
  | .mulhI64 rd ra rb g => decide (rd < 32) && decide (ra < 32) && decide (rb < 32) && decide (g < 8)
  | .mulhN64 rd ra rb g => decide (rd < 32) && decide (ra < 32) && decide (rb < 32) && decide (g < 8)
  | .divI64 rd ra rb g => decide (rd < 32) && decide (ra < 32) && decide (rb < 32) && decide (g < 8)
  | .divN64 rd ra rb g => decide (rd < 32) && decide (ra < 32) && decide (rb < 32) && decide (g < 8)
  | .remI64 rd ra rb g => decide (rd < 32) && decide (ra < 32) && decide (rb < 32) && decide (g < 8)
  | .remN64 rd ra rb g => decide (rd < 32) && decide (ra < 32) && decide (rb < 32) && decide (g < 8)
  | .minI64 rd ra rb g => decide (rd < 32) && decide (ra < 32) && decide (rb < 32) && decide (g < 8)
  | .maxI64 rd ra rb g => decide (rd < 32) && decide (ra < 32) && decide (rb < 32) && decide (g < 8)
  | .minN64 rd ra rb g => decide (rd < 32) && decide (ra < 32) && decide (rb < 32) && decide (g < 8)
  | .maxN64 rd ra rb g => decide (rd < 32) && decide (ra < 32) && decide (rb < 32) && decide (g < 8)
  | .addsI32 rd ra rb g => decide (rd < 32) && decide (ra < 32) && decide (rb < 32) && decide (g < 8)
  | .subsI32 rd ra rb g => decide (rd < 32) && decide (ra < 32) && decide (rb < 32) && decide (g < 8)
  | .addsI64 rd ra rb g => decide (rd < 32) && decide (ra < 32) && decide (rb < 32) && decide (g < 8)
  | .subsI64 rd ra rb g => decide (rd < 32) && decide (ra < 32) && decide (rb < 32) && decide (g < 8)
  | .clz rd ra g => decide (rd < 32) && decide (ra < 32) && decide (g < 8)
  | .ctz rd ra g => decide (rd < 32) && decide (ra < 32) && decide (g < 8)
  | .popc rd ra g => decide (rd < 32) && decide (ra < 32) && decide (g < 8)
  | .addi rd ra g imm => decide (rd < 32) && decide (ra < 32) && decide (g < 8) && decide (imm < 4096)
  | .andi rd ra g imm => decide (rd < 32) && decide (ra < 32) && decide (g < 8) && decide (imm < 4096)
  | .ori rd ra g imm => decide (rd < 32) && decide (ra < 32) && decide (g < 8) && decide (imm < 4096)
  | .xori rd ra g imm => decide (rd < 32) && decide (ra < 32) && decide (g < 8) && decide (imm < 4096)
  | .slli rd ra g n => decide (rd < 32) && decide (ra < 32) && decide (g < 8) && decide (n < 64)
  | .srli rd ra g n => decide (rd < 32) && decide (ra < 32) && decide (g < 8) && decide (n < 64)
  | .srai rd ra g n => decide (rd < 32) && decide (ra < 32) && decide (g < 8) && decide (n < 64)
  | .ldhi rd imm => decide (rd < 32) && decide (imm < 1048576)
  | .addpc rd imm => decide (rd < 32) && decide (imm < 1048576)
  | .li rd g ext => decide (rd < 32) && decide (g < 8) && decide (ext < 4294967296)
  | .lih rd g ext => decide (rd < 32) && decide (g < 8) && decide (ext < 4294967296)
  | .cmpEq rd ra rb g => decide (rd < 8) && decide (ra < 32) && decide (rb < 32) && decide (g < 8)
  | .cmpNe rd ra rb g => decide (rd < 8) && decide (ra < 32) && decide (rb < 32) && decide (g < 8)
  | .cmpLtI64 rd ra rb g => decide (rd < 8) && decide (ra < 32) && decide (rb < 32) && decide (g < 8)
  | .cmpGeI64 rd ra rb g => decide (rd < 8) && decide (ra < 32) && decide (rb < 32) && decide (g < 8)
  | .cmpLtN64 rd ra rb g => decide (rd < 8) && decide (ra < 32) && decide (rb < 32) && decide (g < 8)
  | .cmpGeN64 rd ra rb g => decide (rd < 8) && decide (ra < 32) && decide (rb < 32) && decide (g < 8)
  | .kand rd ra rb g => decide (rd < 8) && decide (ra < 8) && decide (rb < 8) && decide (g < 8)
  | .kor rd ra rb g => decide (rd < 8) && decide (ra < 8) && decide (rb < 8) && decide (g < 8)
  | .kxor rd ra rb g => decide (rd < 8) && decide (ra < 8) && decide (rb < 8) && decide (g < 8)
  | .kandn rd ra rb g => decide (rd < 8) && decide (ra < 8) && decide (rb < 8) && decide (g < 8)
  | .knot rd ra g => decide (rd < 8) && decide (ra < 8) && decide (g < 8)
  | .kmov rd ra g => decide (rd < 8) && decide (ra < 8) && decide (g < 8)
  | .kget rd ra g => decide (rd < 32) && decide (ra < 8) && decide (g < 8)
  | .sel rd ra rb kg => decide (rd < 32) && decide (ra < 32) && decide (rb < 32) && decide (kg < 8)
  | .cmpiEq rd ra g imm => decide (rd < 8) && decide (ra < 32) && decide (g < 8) && decide (imm < 4096)
  | .cmpiLtI64 rd ra g imm => decide (rd < 8) && decide (ra < 32) && decide (g < 8) && decide (imm < 4096)
  | .cmpiLtN64 rd ra g imm => decide (rd < 8) && decide (ra < 32) && decide (g < 8) && decide (imm < 4096)
  | .beq ra rb ofs => decide (ra < 32) && decide (rb < 32) && decide (ofs < 32768)
  | .bne ra rb ofs => decide (ra < 32) && decide (rb < 32) && decide (ofs < 32768)
  | .bltI64 ra rb ofs => decide (ra < 32) && decide (rb < 32) && decide (ofs < 32768)
  | .bgeI64 ra rb ofs => decide (ra < 32) && decide (rb < 32) && decide (ofs < 32768)
  | .bltN64 ra rb ofs => decide (ra < 32) && decide (rb < 32) && decide (ofs < 32768)
  | .bgeN64 ra rb ofs => decide (ra < 32) && decide (rb < 32) && decide (ofs < 32768)
  | .bk ra ofs => decide (ra < 8) && decide (ofs < 32768)
  | .bnk ra ofs => decide (ra < 8) && decide (ofs < 32768)
  | .call rd ofs => decide (rd < 32) && decide (ofs < 1048576)
  | .callr rd ra g imm => decide (rd < 32) && decide (ra < 32) && decide (g < 8) && decide (imm < 4096)
  | .loop lp ra g imm => decide (lp < 2) && decide (ra < 32) && decide (g < 8) && decide (imm < 4096) && decide (imm ≠ 0)
  | .ldI8 rd ra g imm => decide (rd < 32) && decide (ra < 32) && decide (g < 8) && decide (imm < 4096)
  | .ldN8 rd ra g imm => decide (rd < 32) && decide (ra < 32) && decide (g < 8) && decide (imm < 4096)
  | .ldI16 rd ra g imm => decide (rd < 32) && decide (ra < 32) && decide (g < 8) && decide (imm < 4096)
  | .ldN16 rd ra g imm => decide (rd < 32) && decide (ra < 32) && decide (g < 8) && decide (imm < 4096)
  | .ldI32 rd ra g imm => decide (rd < 32) && decide (ra < 32) && decide (g < 8) && decide (imm < 4096)
  | .ldN32 rd ra g imm => decide (rd < 32) && decide (ra < 32) && decide (g < 8) && decide (imm < 4096)
  | .ldI64 rd ra g imm => decide (rd < 32) && decide (ra < 32) && decide (g < 8) && decide (imm < 4096)
  | .loadDataReturn _ _ => true
  | .stN8 rb ra g imm => decide (rb < 32) && decide (ra < 32) && decide (g < 8) && decide (imm < 4096)
  | .stN16 rb ra g imm => decide (rb < 32) && decide (ra < 32) && decide (g < 8) && decide (imm < 4096)
  | .stN32 rb ra g imm => decide (rb < 32) && decide (ra < 32) && decide (g < 8) && decide (imm < 4096)
  | .stN64 rb ra g imm => decide (rb < 32) && decide (ra < 32) && decide (g < 8) && decide (imm < 4096)
  | .remoteStoreFail _ => true
  | .movedRetry _ => true
  | .tldTake rd ra g => decide (rd < 32) && decide (ra < 32) && decide (g < 8)
  | .tldKeep rd ra g => decide (rd < 32) && decide (ra < 32) && decide (g < 8)
  | .tstFill ra rb g => decide (ra < 32) && decide (rb < 32) && decide (g < 8)
  | .tstSet ra rb g => decide (ra < 32) && decide (rb < 32) && decide (g < 8)
  | .tagGet rd ra g => decide (rd < 32) && decide (ra < 32) && decide (g < 8)
  | .tagClr ra g => decide (ra < 32) && decide (g < 8)
  | .taggedWaiterServe _ => true
  | .tagWaitTimeout _ => true
  | .amoAdd rd ra rb g w => decide (rd < 32) && decide (ra < 32) && decide (rb < 32) && decide (g < 8) && decide (w < 2)
  | .amoAnd rd ra rb g w => decide (rd < 32) && decide (ra < 32) && decide (rb < 32) && decide (g < 8) && decide (w < 2)
  | .amoOr rd ra rb g w => decide (rd < 32) && decide (ra < 32) && decide (rb < 32) && decide (g < 8) && decide (w < 2)
  | .amoXor rd ra rb g w => decide (rd < 32) && decide (ra < 32) && decide (rb < 32) && decide (g < 8) && decide (w < 2)
  | .amoMinSigned rd ra rb g w => decide (rd < 32) && decide (ra < 32) && decide (rb < 32) && decide (g < 8) && decide (w < 2)
  | .amoMaxSigned rd ra rb g w => decide (rd < 32) && decide (ra < 32) && decide (rb < 32) && decide (g < 8) && decide (w < 2)
  | .amoMinUnsigned rd ra rb g w => decide (rd < 32) && decide (ra < 32) && decide (rb < 32) && decide (g < 8) && decide (w < 2)
  | .amoMaxUnsigned rd ra rb g w => decide (rd < 32) && decide (ra < 32) && decide (rb < 32) && decide (g < 8) && decide (w < 2)
  | .amoSwap rd ra rb g w => decide (rd < 32) && decide (ra < 32) && decide (rb < 32) && decide (g < 8) && decide (w < 2)
  | .amoCas rd ra rb g w => decide (rd < 32) && decide (ra < 32) && decide (rb < 32) && decide (g < 8) && decide (w < 2)
  | .amoAddF32 rd ra rb g => decide (rd < 32) && decide (ra < 32) && decide (rb < 32) && decide (g < 8)
  | .amoSnap rd ra rb g => decide (rd < 32) && decide (ra < 32) && decide (rb < 32) && decide (g < 8)
  | .amoVaddN32 ra rb g => decide (ra < 32) && decide (rb < 32) && decide (g < 8)
  | .amoVaddF32 ra rb g => decide (ra < 32) && decide (rb < 32) && decide (g < 8)
  | .amoLd rd ra g w => decide (rd < 32) && decide (ra < 32) && decide (g < 8) && decide (w < 2)
  | .atomicAtHome _ => true
  | .atomicReply _ _ => true
  | .fence g sc => decide (g < 8) && decide (sc < 5)
  | .acq ra g sc => decide (ra < 32) && decide (g < 8) && decide (sc < 5)
  | .rel ra g sc => decide (ra < 32) && decide (g < 8) && decide (sc < 5)
  | .bind rd ra rb g => decide (rd < 32) && decide (ra < 32) && decide (rb < 32) && decide (g < 8)
  | .unbind rd g => decide (rd < 32) && decide (g < 8)
  | .barInit ra g n => decide (ra < 32) && decide (g < 8) && decide (n < 96)
  | .barArrive rd ra g n => decide (rd < 32) && decide (ra < 32) && decide (g < 8) && decide (n < 96)
  | .barWait rd ra g n => decide (rd < 32) && decide (ra < 32) && decide (g < 8) && decide (n < 96)
  | .barSync ra g n => decide (ra < 32) && decide (g < 8) && decide (n < 96)
  | .barrierWaitTimeout _ => true
  | .lkReq rd ra g lv md => decide (rd < 32) && decide (ra < 32) && decide (g < 8) && decide (lv < 3) && decide (md < 7)
  | .lkTry rd ra g lv md => decide (rd < 32) && decide (ra < 32) && decide (g < 8) && decide (lv < 3) && decide (md < 7)
  | .lkUp rd ra g lv md => decide (rd < 32) && decide (ra < 32) && decide (g < 8) && decide (lv < 3) && decide (md < 7)
  | .lkRel ra g => decide (ra < 32) && decide (g < 8)
  | .lkRelall g => decide (g < 8)
  | .lkQuery rd ra g => decide (rd < 32) && decide (ra < 32) && decide (g < 8)
  | .lockRequestAtHome _ => true
  | .woundArrival _ => true
  | .woundAsyncEntry _ => true
  | .lockRevoke _ => true
  | .txBegin rd ra g => decide (rd < 32) && decide (ra < 32) && decide (g < 8)
  | .txEnd rd g => decide (rd < 32) && decide (g < 8)
  | .txAbort ra g => decide (ra < 32) && decide (g < 8)
  | .txStat rd g => decide (rd < 32) && decide (g < 8)
  | .txCommit _ => true
  | .txWoundAbort _ => true
  | .spawn rd ra g => decide (rd < 32) && decide (ra < 32) && decide (g < 8)
  | .spawnWaitTimeout _ => true
  | .done g => decide (g < 8)
  | .joinInit rd ra rb g => decide (rd < 32) && decide (ra < 32) && decide (rb < 32) && decide (g < 8)
  | .chunk rd ra g => decide (rd < 32) && decide (ra < 32) && decide (g < 8)
  | .dacq rd ra rb g => decide (rd < 32) && decide (ra < 32) && decide (rb < 32) && decide (g < 8)
  | .dacqWaitGrant _ => true
  | .drel g => decide (g < 8)
  | .cfgLoad rd ra rb g => decide (rd < 32) && decide (ra < 32) && decide (rb < 32) && decide (g < 8)
  | .cfgLoadEnd _ => true
  | .cfgConst ra rb g => decide (ra < 32) && decide (rb < 32) && decide (g < 8)
  | .cfgConstApply _ => true
  | .invoke rd ra rb g => decide (rd < 32) && decide (ra < 32) && decide (rb < 32) && decide (g < 8)
  | .sbind rd ra g => decide (rd < 16) && decide (ra < 32) && decide (g < 8)
  | .push rd ra rb g => decide (rd < 16) && decide (ra < 32) && decide (rb < 32) && decide (g < 8)
  | .pull rd ra rb g => decide (rd < 32) && decide (ra < 16) && decide (rb < 32) && decide (g < 8)
  | .streamWaitTimeout _ => true
  | .drain g => decide (g < 8)
  | .ctxset ra g => decide (ra < 32) && decide (g < 8)
  | .mstone rd ra g => decide (rd < 32) && decide (ra < 32) && decide (g < 8)
  | .mstoneComplete _ => true
  | .tdown rd g => decide (rd < 32) && decide (g < 8)
  | .tdownComplete _ => true
  | .dmaLd rd ra rb g ext => decide (rd < 32) && decide (ra < 32) && decide (rb < 32) && decide (g < 8) && decide (ext < 4294967296)
  | .dmaSt rd ra rb g ext => decide (rd < 32) && decide (ra < 32) && decide (rb < 32) && decide (g < 8) && decide (ext < 4294967296)
  | .dmaCp rd ra rb g ext => decide (rd < 32) && decide (ra < 32) && decide (rb < 32) && decide (g < 8) && decide (ext < 4294967296)
  | .dmaGath rd ra rb g ext => decide (rd < 32) && decide (ra < 32) && decide (rb < 32) && decide (g < 8) && decide (ext < 4294967296)
  | .dmaEnd _ => true
  | .binApp rd ra rb g => decide (rd < 32) && decide (ra < 32) && decide (rb < 32) && decide (g < 8)
  | .binAppendAtEngine _ => true
  | .binPlay rd ra rb g => decide (rd < 32) && decide (ra < 32) && decide (rb < 32) && decide (g < 8)
  | .binRegionReplay _ => true
  | .rput rd ra rb g ext => decide (rd < 32) && decide (ra < 32) && decide (rb < 32) && decide (g < 8) && decide (ext < 4294967296)
  | .rget rd ra rb g ext => decide (rd < 32) && decide (ra < 32) && decide (rb < 32) && decide (g < 8) && decide (ext < 4294967296)
  | .ramo rd ra rb g ext => decide (rd < 32) && decide (ra < 32) && decide (rb < 32) && decide (g < 8) && decide (ext < 4294967296) && ramoExtOk ext
  | .remoteLinkFail _ => true
  | .tidWr ra rb g => decide (ra < 32) && decide (rb < 32) && decide (g < 8)
  | .tidRd ra rb g => decide (ra < 32) && decide (rb < 32) && decide (g < 8)
  | .mtile rd ra rb g ext => decide (rd < 32) && decide (ra < 32) && decide (rb < 32) && decide (g < 8) && decide (ext < 4294967296)
  | .mbload rd ra rb g ext => decide (rd < 32) && decide (ra < 32) && decide (rb < 32) && decide (g < 8) && decide (ext < 4294967296)
  | .maccCp rd ra rb g ext => decide (rd < 32) && decide (ra < 32) && decide (rb < 32) && decide (g < 8) && decide (ext < 4294967296)
  | .maccZero rd ra g ext => decide (rd < 32) && decide (ra < 32) && decide (g < 8) && decide (ext < 4294967296)
  | .seqBFetch _ => true
  | .seqBWrite _ => true
  | .seqAFetch _ => true
  | .seqAAlign _ => true
  | .seqABroadcast _ => true
  | .seqAAccumulate _ => true
  | .seqAccRowMove _ => true
  | .seqSetCompletion _ => true
  | .mfs rd g imm => decide (rd < 32) && decide (g < 8) && decide (imm < 4096)
  | .mts ra g imm => decide (ra < 32) && decide (g < 8) && decide (imm < 4096)
  | .trap g n => decide (g < 8) && decide (n < 64)
  | .tack g => decide (g < 8)
  | .eret g => decide (g < 8)
  | .idle g => decide (g < 8)
  | .icinvAll g => decide (g < 8)
  | .icinvLine ra g => decide (ra < 32) && decide (g < 8)
  | .icinvAcknowledge _ => true
  | .xinvAll g => decide (g < 8)
  | .xinvSpace rd g => decide (rd < 32) && decide (g < 8)
  | .xinvVa rd ra g => decide (rd < 32) && decide (ra < 32) && decide (g < 8)
  | .sig ra rb g => decide (ra < 32) && decide (rb < 32) && decide (g < 8)
  | .sigMessageArrival _ => true
  | .sigHoldTimeout _ => true
  | .sigQueueEntry _ => true
  | .msgDelivery _ => true
  | .sethnd rd ra rb g => decide (rd < 32) && decide (ra < 32) && decide (rb < 32) && decide (g < 8)
  | .gcJoin rd ra rb g => decide (rd < 32) && decide (ra < 32) && decide (rb < 32) && decide (g < 8)
  | .gcLeave rd g => decide (rd < 32) && decide (g < 8)
  | .gcAnn ra rb g => decide (ra < 32) && decide (rb < 32) && decide (g < 8)
  | .gcQuery rd ra g => decide (rd < 32) && decide (ra < 32) && decide (g < 8)
  | .brk => true
  | .asyncEventEntry _ => true
  | .plainWrite _ => true
  | .setElementCursor _ => true
  | .wideWrite _ => true
  | .nop _ => true
  | .stage _ => true
  | .commit _ => true
  | .abandon _ => true
  | .wave _ => true
  | .clear _ => true
  | .pendingCommandApply _ => true
  | .pendingSwitchApply _ => true
  | .tokenHop _ _ _ => true
  | .vectorCellFiring _ => true
  | .structuralEmission _ => true
  | .controlTokenTake _ => true
  | .branchCellFinish _ => true
  | .scannerStep _ => true
  | .fibreBufferRefill _ => true
  | .skipRequest _ => true
  | .mergeIntersectStep _ => true
  | .mergeUnionStep _ => true
  | .repeaterRefStep _ => true
  | .repeaterFibreLoad _ => true
  | .repeaterFibreReplay _ => true
  | .reducerStep _ => true
  | .levelWriterStep _ => true
  | .matrixRowFiring _ => true
  | .matrixBurstTake _ => true
  | .matrixDonePass _ => true
  | .memoryNodeRequest _ _ => true
  | .memoryNodeReturn _ _ => true
  | .rowBurst _ _ => true
  | .nodeTagTimeout _ _ => true
  | .milestoneTake _ => true
  | .rollback _ => true
  | .patrolRead _ _ => true
  | .elementJoin _ => true
  | .invokeStart _ => true
  | .invocationEnd _ => true
  | .gangfault _ => true
  | .stallWatchdogExpiry _ => true
  | .heldStoreEntry _ _ => true
  | .waveCommit _ => true
  | .launchWindowWrite _ _ _ => true
  | .hqBaseWrite _ _ _ => true
  | .enable _ _ => true
  | .disable _ _ => true
  | .teardown _ _ => true
  | .reset _ _ => true
  | .off _ _ => true
  | .queueTorn _ => true
  | .hubDispatch => true
  | .pwaitPreemption => true
  | .joinDecrement => true
  | .recCopyEnter _ => true
  | .graphWalkStart => true
  | .graphTaskNode _ => true
  | .graphCondNode _ => true
  | .graphWhileNode _ => true
  | .graphLoopNode _ => true
  | .graphJoinNode _ => true
  | .schCtlWrite _ _ => true
  | .preempt _ _ => true
  | .preemptSaveComplete _ => true
  | .taskRestore _ => true
  | .halt _ _ => true
  | .unhalt _ _ => true
  | .stop _ _ => true
  | .run _ _ => true
  | .restart _ _ => true
  | .qcSdataWrite _ _ _ => true
  | .qcSdataRead _ _ => true
  | .migrationStart _ _ _ => true
  | .migrationEnd _ => true
  | .pinLoad _ => true
  | .zoneMapWrite _ _ _ _ => true
  | .rpRemapWrite _ _ _ => true
  | .rpCountClear _ _ => true
  | .lmReload _ _ => true
  | .registerWrite _ _ _ => true
  | .announceReceive _ _ _ _ _ => true
  | .heartbeatSend => true
  | .heartbeatReceive _ _ _ _ => true
  | .joinReceive _ _ _ _ => true
  | .stateReceive _ _ _ _ _ _ => true
  | .groupFound => true
  | .leaveReceive _ _ _ => true
  | .silentDeclare _ => true
  | .silentReceive _ _ _ => true
  | .expelReceive _ => true
  | .ceilingChange => true
  | .thermalTick _ => true
  | .currentTick _ => true
  | .powerCapTick _ => true
  | .rackShareSend => true
  | .rackShareReceive _ _ _ _ _ => true
  | .emergencyThrottle _ _ => true
  | .emergencyRelease _ _ => true
  | .flitReceive _ _ _ => true
  | .nakReplay _ _ => true
  | .linkRetrain _ _ => true
  | .laneFail _ _ => true
  | .spare _ _ => true
  | .turn _ _ => true
  | .idleLane _ _ => true
  | .laneTrained _ _ => true
  | .leave _ => true
  | .membershipChange => true
  | .deviceDeparture _ => true
  | .domainJoin _ _ => true
  | .ownerCas _ _ => true
  | .ownerHeartbeat _ => true
  | .ownerStale => true
  | .scaleoutPacketReceive _ _ _ => true
  | .scaleoutRetransmit _ => true
  | .deviceReset => true
  | .loadFirmware _ => true
  | .attest _ => true
  | .attestComplete _ => true
  | .retrainingEnd _ => true
  | .bar2MemoryWrite _ _ _ => true
  | .contextCounterAdvance _ => true

/-- An instruction is well formed. -/
abbrev Instr.WF (i : Instr) : Prop := i.wf = true

end Sys2Proof
end

