-- ==== Sys2Proof/Decode.lean ====
section
/-! DEFINITION. The decoder and the encoder of Semus instruction words (03 R85 to R89), and the reader of configuration
words (02 R60 to R64). The decoder is total: a word that is not an instruction gives none (03 R88, R90). -/

namespace Sys2Proof

/-- A word of the R format (03 R85). -/
def mkR (op rd ra rb g fn : Nat) : Nat :=
  op * 2 ^ 25 + rd * 2 ^ 20 + ra * 2 ^ 15 + rb * 2 ^ 10 + g * 2 ^ 7 + fn

/-- A word of the I or the S format (03 R85): bits [24:20] hold RD, or RB in the S format. -/
def mkI (op rd ra g imm : Nat) : Nat :=
  op * 2 ^ 25 + rd * 2 ^ 20 + ra * 2 ^ 15 + g * 2 ^ 12 + imm

/-- A word of the B format (03 R85): RA in bits [24:20], RB in bits [19:15]. -/
def mkB (op ra rb off : Nat) : Nat :=
  op * 2 ^ 25 + ra * 2 ^ 20 + rb * 2 ^ 15 + off

/-- A word of the J or the U format (03 R85). -/
def mkJ (op rd imm : Nat) : Nat :=
  op * 2 ^ 25 + rd * 2 ^ 20 + imm

/-- Bits [lo + n - 1 : lo] of a word. -/
def fld (w lo n : Nat) : Nat := w / 2 ^ lo % 2 ^ n

/-- The instruction a test allows. -/
def guardI (b : Bool) (i : Instr) : Option Instr := if b then some i else none

/-- The instructions of major opcode 0x01 (03 R88, R89). -/
def decodeInteger (rd ra rb g fn : Nat) : Option Instr :=
  match fn with
  | 0x00 => some (.add rd ra rb g)
  | 0x01 => some (.sub rd ra rb g)
  | 0x02 => some (.and rd ra rb g)
  | 0x03 => some (.or rd ra rb g)
  | 0x04 => some (.xor rd ra rb g)
  | 0x05 => some (.andn rd ra rb g)
  | 0x06 => some (.sll rd ra rb g)
  | 0x07 => some (.srl rd ra rb g)
  | 0x08 => some (.sra rd ra rb g)
  | 0x09 => some (.mul rd ra rb g)
  | 0x0A => some (.mulhI64 rd ra rb g)
  | 0x0B => some (.mulhN64 rd ra rb g)
  | 0x0C => some (.divI64 rd ra rb g)
  | 0x0D => some (.divN64 rd ra rb g)
  | 0x0E => some (.remI64 rd ra rb g)
  | 0x0F => some (.remN64 rd ra rb g)
  | 0x10 => some (.minI64 rd ra rb g)
  | 0x11 => some (.maxI64 rd ra rb g)
  | 0x12 => some (.minN64 rd ra rb g)
  | 0x13 => some (.maxN64 rd ra rb g)
  | 0x14 => some (.addsI32 rd ra rb g)
  | 0x15 => some (.subsI32 rd ra rb g)
  | 0x16 => some (.addsI64 rd ra rb g)
  | 0x17 => some (.subsI64 rd ra rb g)
  | 0x18 => guardI (decide (rb = 0)) (.clz rd ra g)
  | 0x19 => guardI (decide (rb = 0)) (.ctz rd ra g)
  | 0x1A => guardI (decide (rb = 0)) (.popc rd ra g)
  | _ => none

/-- The instructions of major opcode 0x10 (03 R88, R89). -/
def decodePredicate (rd ra rb g fn : Nat) : Option Instr :=
  match fn with
  | 0x00 => guardI (decide (rd < 8)) (.cmpEq rd ra rb g)
  | 0x01 => guardI (decide (rd < 8)) (.cmpNe rd ra rb g)
  | 0x02 => guardI (decide (rd < 8)) (.cmpLtI64 rd ra rb g)
  | 0x03 => guardI (decide (rd < 8)) (.cmpGeI64 rd ra rb g)
  | 0x04 => guardI (decide (rd < 8)) (.cmpLtN64 rd ra rb g)
  | 0x05 => guardI (decide (rd < 8)) (.cmpGeN64 rd ra rb g)
  | 0x08 => guardI (decide (rd < 8) && decide (ra < 8) && decide (rb < 8)) (.kand rd ra rb g)
  | 0x09 => guardI (decide (rd < 8) && decide (ra < 8) && decide (rb < 8)) (.kor rd ra rb g)
  | 0x0A => guardI (decide (rd < 8) && decide (ra < 8) && decide (rb < 8)) (.kxor rd ra rb g)
  | 0x0B => guardI (decide (rd < 8) && decide (ra < 8) && decide (rb < 8)) (.kandn rd ra rb g)
  | 0x0C => guardI (decide (rd < 8) && decide (ra < 8) && decide (rb = 0)) (.knot rd ra g)
  | 0x0E => guardI (decide (rd < 8) && decide (ra < 8) && decide (rb = 0)) (.kmov rd ra g)
  | 0x0F => guardI (decide (ra < 8) && decide (rb = 0)) (.kget rd ra g)
  | 0x10 => some (.sel rd ra rb g)
  | _ => none

/-- The instructions of major opcode 0x34 (03 R88, R89). -/
def decodeTagged (rd ra rb g fn : Nat) : Option Instr :=
  match fn with
  | 0x00 => guardI (decide (rb = 0)) (.tldTake rd ra g)
  | 0x01 => guardI (decide (rb = 0)) (.tldKeep rd ra g)
  | 0x02 => guardI (decide (rd = 0)) (.tstFill ra rb g)
  | 0x03 => guardI (decide (rd = 0)) (.tstSet ra rb g)
  | 0x04 => guardI (decide (rb = 0)) (.tagGet rd ra g)
  | 0x05 => guardI (decide (rd = 0) && decide (rb = 0)) (.tagClr ra g)
  | _ => none

/-- The instructions of major opcode 0x38 (03 R88, R89). -/
def decodeAtomic (rd ra rb g fn : Nat) : Option Instr :=
  match fn with
  | 0x00 => some (.amoAdd rd ra rb g 0)
  | 0x01 => some (.amoAnd rd ra rb g 0)
  | 0x02 => some (.amoOr rd ra rb g 0)
  | 0x03 => some (.amoXor rd ra rb g 0)
  | 0x04 => some (.amoMinSigned rd ra rb g 0)
  | 0x05 => some (.amoMaxSigned rd ra rb g 0)
  | 0x06 => some (.amoMinUnsigned rd ra rb g 0)
  | 0x07 => some (.amoMaxUnsigned rd ra rb g 0)
  | 0x08 => some (.amoSwap rd ra rb g 0)
  | 0x09 => some (.amoCas rd ra rb g 0)
  | 0x0A => some (.amoAddF32 rd ra rb g)
  | 0x0B => some (.amoSnap rd ra rb g)
  | 0x0C => guardI (decide (rd = 0)) (.amoVaddN32 ra rb g)
  | 0x0D => guardI (decide (rd = 0)) (.amoVaddF32 ra rb g)
  | 0x0E => guardI (decide (rb = 0)) (.amoLd rd ra g 0)
  | 0x20 => some (.amoAdd rd ra rb g 1)
  | 0x21 => some (.amoAnd rd ra rb g 1)
  | 0x22 => some (.amoOr rd ra rb g 1)
  | 0x23 => some (.amoXor rd ra rb g 1)
  | 0x24 => some (.amoMinSigned rd ra rb g 1)
  | 0x25 => some (.amoMaxSigned rd ra rb g 1)
  | 0x26 => some (.amoMinUnsigned rd ra rb g 1)
  | 0x27 => some (.amoMaxUnsigned rd ra rb g 1)
  | 0x28 => some (.amoSwap rd ra rb g 1)
  | 0x29 => some (.amoCas rd ra rb g 1)
  | 0x2E => guardI (decide (rb = 0)) (.amoLd rd ra g 1)
  | _ => none

/-- The instructions of major opcode 0x3A (03 R88, R89). -/
def decodeOrder (rd ra rb g fn : Nat) : Option Instr :=
  match fn with
  | 0x00 => guardI (decide (rd = 0) && decide (ra = 0) && decide (rb = 0)) (.fence g 0)
  | 0x01 => guardI (decide (rd = 0) && decide (ra = 0) && decide (rb = 0)) (.fence g 1)
  | 0x02 => guardI (decide (rd = 0) && decide (ra = 0) && decide (rb = 0)) (.fence g 2)
  | 0x03 => guardI (decide (rd = 0) && decide (ra = 0) && decide (rb = 0)) (.fence g 3)
  | 0x04 => guardI (decide (rd = 0) && decide (ra = 0) && decide (rb = 0)) (.fence g 4)
  | 0x08 => guardI (decide (rd = 0) && decide (rb = 0)) (.acq ra g 0)
  | 0x09 => guardI (decide (rd = 0) && decide (rb = 0)) (.acq ra g 1)
  | 0x0A => guardI (decide (rd = 0) && decide (rb = 0)) (.acq ra g 2)
  | 0x0B => guardI (decide (rd = 0) && decide (rb = 0)) (.acq ra g 3)
  | 0x0C => guardI (decide (rd = 0) && decide (rb = 0)) (.acq ra g 4)
  | 0x10 => guardI (decide (rd = 0) && decide (rb = 0)) (.rel ra g 0)
  | 0x11 => guardI (decide (rd = 0) && decide (rb = 0)) (.rel ra g 1)
  | 0x12 => guardI (decide (rd = 0) && decide (rb = 0)) (.rel ra g 2)
  | 0x13 => guardI (decide (rd = 0) && decide (rb = 0)) (.rel ra g 3)
  | 0x14 => guardI (decide (rd = 0) && decide (rb = 0)) (.rel ra g 4)
  | 0x18 => some (.bind rd ra rb g)
  | 0x20 => guardI (decide (ra = 0) && decide (rb = 0)) (.unbind rd g)
  | _ => none

/-- The instructions of major opcode 0x3C (03 R88, R89). -/
def decodeLockReq (rd ra rb g fn : Nat) : Option Instr :=
  match fn / 32 with
  | 0x00 => guardI (decide (rb = 0) && decide (fn / 8 % 4 < 3) && decide (fn % 8 < 7)) (.lkReq rd ra g (fn / 8 % 4) (fn % 8))
  | 0x01 => guardI (decide (rb = 0) && decide (fn / 8 % 4 < 3) && decide (fn % 8 < 7)) (.lkTry rd ra g (fn / 8 % 4) (fn % 8))
  | 0x02 => guardI (decide (rb = 0) && decide (fn / 8 % 4 < 3) && decide (fn % 8 < 7)) (.lkUp rd ra g (fn / 8 % 4) (fn % 8))
  | _ => none

/-- The instructions of major opcode 0x3D (03 R88, R89). -/
def decodeLockRel (rd ra rb g fn : Nat) : Option Instr :=
  match fn with
  | 0x00 => guardI (decide (rd = 0) && decide (rb = 0)) (.lkRel ra g)
  | 0x01 => guardI (decide (rd = 0) && decide (ra = 0) && decide (rb = 0)) (.lkRelall g)
  | 0x02 => guardI (decide (rb = 0)) (.lkQuery rd ra g)
  | _ => none

/-- The instructions of major opcode 0x3E (03 R88, R89). -/
def decodeTx (rd ra rb g fn : Nat) : Option Instr :=
  match fn with
  | 0x00 => guardI (decide (rb = 0)) (.txBegin rd ra g)
  | 0x01 => guardI (decide (ra = 0) && decide (rb = 0)) (.txEnd rd g)
  | 0x02 => guardI (decide (rd = 0) && decide (rb = 0)) (.txAbort ra g)
  | 0x03 => guardI (decide (ra = 0) && decide (rb = 0)) (.txStat rd g)
  | _ => none

/-- The instructions of major opcode 0x40 (03 R88, R89). -/
def decodeTask (rd ra rb g fn : Nat) : Option Instr :=
  match fn with
  | 0x00 => guardI (decide (rb = 0)) (.spawn rd ra g)
  | 0x01 => guardI (decide (rd = 0) && decide (ra = 0) && decide (rb = 0)) (.done g)
  | 0x02 => some (.joinInit rd ra rb g)
  | 0x03 => guardI (decide (rb = 0)) (.chunk rd ra g)
  | _ => none

/-- The instructions of major opcode 0x41 (03 R88, R89). -/
def decodeDistrict (rd ra rb g fn : Nat) : Option Instr :=
  match fn with
  | 0x00 => some (.dacq rd ra rb g)
  | 0x01 => guardI (decide (rd = 0) && decide (ra = 0) && decide (rb = 0)) (.drel g)
  | 0x02 => some (.cfgLoad rd ra rb g)
  | 0x03 => guardI (decide (rd = 0)) (.cfgConst ra rb g)
  | 0x04 => some (.invoke rd ra rb g)
  | 0x05 => guardI (decide (rd < 16) && decide (rb = 0)) (.sbind rd ra g)
  | 0x06 => guardI (decide (rd < 16)) (.push rd ra rb g)
  | 0x07 => guardI (decide (ra < 16)) (.pull rd ra rb g)
  | 0x08 => guardI (decide (rd = 0) && decide (ra = 0) && decide (rb = 0)) (.drain g)
  | 0x09 => guardI (decide (rd = 0) && decide (rb = 0)) (.ctxset ra g)
  | 0x0A => guardI (decide (rb = 0)) (.mstone rd ra g)
  | 0x0B => guardI (decide (ra = 0) && decide (rb = 0)) (.tdown rd g)
  | _ => none

/-- The instructions of major opcode 0x43 (03 R88, R89). -/
def decodeBin (rd ra rb g fn : Nat) : Option Instr :=
  match fn with
  | 0x00 => some (.binApp rd ra rb g)
  | 0x01 => some (.binPlay rd ra rb g)
  | _ => none

/-- The instructions of major opcode 0x45 (03 R88, R89). -/
def decodeTid (rd ra rb g fn : Nat) : Option Instr :=
  match fn with
  | 0x00 => guardI (decide (rd = 0)) (.tidWr ra rb g)
  | 0x01 => guardI (decide (rd = 0)) (.tidRd ra rb g)
  | _ => none

/-- The instructions of major opcode 0x53 (03 R88, R89). -/
def decodeSig (rd ra rb g fn : Nat) : Option Instr :=
  match fn with
  | 0x00 => guardI (decide (rd = 0)) (.sig ra rb g)
  | 0x01 => some (.sethnd rd ra rb g)
  | _ => none

/-- The instructions of major opcode 0x54 (03 R88, R89). -/
def decodeClock (rd ra rb g fn : Nat) : Option Instr :=
  match fn with
  | 0x00 => some (.gcJoin rd ra rb g)
  | 0x01 => guardI (decide (ra = 0) && decide (rb = 0)) (.gcLeave rd g)
  | 0x02 => guardI (decide (rd = 0)) (.gcAnn ra rb g)
  | 0x03 => guardI (decide (rb = 0)) (.gcQuery rd ra g)
  | _ => none

/-- The instructions of major opcode 0x09 (03 R88, R89). -/
def decodeConst (rd ra rb g fn ext : Nat) : Option Instr :=
  match fn with
  | 0x00 => guardI (decide (ra = 0) && decide (rb = 0)) (.li rd g ext)
  | 0x01 => guardI (decide (ra = 0) && decide (rb = 0)) (.lih rd g ext)
  | _ => none

/-- The instructions of major opcode 0x42 (03 R88, R89). -/
def decodeDma (rd ra rb g fn ext : Nat) : Option Instr :=
  match fn with
  | 0x00 => some (.dmaLd rd ra rb g ext)
  | 0x01 => some (.dmaSt rd ra rb g ext)
  | 0x02 => some (.dmaCp rd ra rb g ext)
  | 0x03 => some (.dmaGath rd ra rb g ext)
  | _ => none

/-- The instructions of major opcode 0x44 (03 R88, R89). -/
def decodeRemote (rd ra rb g fn ext : Nat) : Option Instr :=
  match fn with
  | 0x00 => some (.rput rd ra rb g ext)
  | 0x01 => some (.rget rd ra rb g ext)
  | 0x02 => guardI (ramoExtOk ext) (.ramo rd ra rb g ext)
  | _ => none

/-- The instructions of major opcode 0x46 (03 R88, R89). -/
def decodeMatrix (rd ra rb g fn ext : Nat) : Option Instr :=
  match fn with
  | 0x00 => some (.mtile rd ra rb g ext)
  | 0x01 => some (.mbload rd ra rb g ext)
  | 0x02 => some (.maccCp rd ra rb g ext)
  | 0x03 => guardI (decide (rb = 0)) (.maccZero rd ra g ext)
  | _ => none

/-- The instructions of major opcode 0x06 (03 R88, R89). -/
def decodeShift (rd ra g imm : Nat) : Option Instr :=
  match imm / 64 with
  | 0x00 => some (.slli rd ra g (imm % 64))
  | 0x01 => some (.srli rd ra g (imm % 64))
  | 0x02 => some (.srai rd ra g (imm % 64))
  | _ => none

/-- The instructions of major opcode 0x3B (03 R88, R89). -/
def decodeBarrier (rd ra g imm : Nat) : Option Instr :=
  match imm / 128 with
  | 0x00 => guardI (decide (rd = 0) && decide (imm % 128 < 96)) (.barInit ra g (imm % 128))
  | 0x01 => guardI (decide (imm % 128 < 96)) (.barArrive rd ra g (imm % 128))
  | 0x02 => guardI (decide (imm % 128 < 96)) (.barWait rd ra g (imm % 128))
  | 0x03 => guardI (decide (rd = 0) && decide (imm % 128 < 96)) (.barSync ra g (imm % 128))
  | _ => none

/-- The instructions of major opcode 0x52 (03 R88, R89). -/
def decodeSystem (rd ra g imm : Nat) : Option Instr :=
  if imm < 64 then guardI (decide (rd = 0) && decide (ra = 0)) (.trap g imm)
  else match imm with
  | 0x40 => guardI (decide (rd = 0) && decide (ra = 0)) (.tack g)
  | 0x80 => guardI (decide (rd = 0) && decide (ra = 0)) (.eret g)
  | 0xC0 => guardI (decide (rd = 0) && decide (ra = 0)) (.idle g)
  | 0x100 => guardI (decide (rd = 0) && decide (ra = 0)) (.icinvAll g)
  | 0x101 => guardI (decide (rd = 0)) (.icinvLine ra g)
  | 0x140 => guardI (decide (rd = 0) && decide (ra = 0)) (.xinvAll g)
  | 0x141 => guardI (decide (ra = 0)) (.xinvSpace rd g)
  | 0x142 => some (.xinvVa rd ra g)
  | _ => none

/-- The major opcodes whose instructions have an extension word (03 R87, R88). -/
def isX (w : Nat) : Bool :=
  let op := fld w 25 7
  op == 0x09 || op == 0x42 || op == 0x44 || op == 0x46

/-- The instruction of a first word and, for an X-format opcode, its extension word (03 R88, R89). -/
def decodeWords (w ext : Nat) : Option Instr :=
  let rd := fld w 20 5
  let ra := fld w 15 5
  let rb := fld w 10 5
  let gr := fld w 7 3
  let fn := fld w 0 7
  let g := fld w 12 3
  let imm := fld w 0 12
  match fld w 25 7 with
  | 0x01 => decodeInteger rd ra rb gr fn
  | 0x02 => some (.addi rd ra g imm)
  | 0x03 => some (.andi rd ra g imm)
  | 0x04 => some (.ori rd ra g imm)
  | 0x05 => some (.xori rd ra g imm)
  | 0x06 => decodeShift rd ra g imm
  | 0x07 => some (.ldhi rd (fld w 0 20))
  | 0x08 => some (.addpc rd (fld w 0 20))
  | 0x09 => decodeConst rd ra rb gr fn ext
  | 0x10 => decodePredicate rd ra rb gr fn
  | 0x11 => guardI (decide (rd < 8)) (.cmpiEq rd ra g imm)
  | 0x12 => guardI (decide (rd < 8)) (.cmpiLtI64 rd ra g imm)
  | 0x13 => guardI (decide (rd < 8)) (.cmpiLtN64 rd ra g imm)
  | 0x18 => some (.beq rd ra (fld w 0 15))
  | 0x19 => some (.bne rd ra (fld w 0 15))
  | 0x1A => some (.bltI64 rd ra (fld w 0 15))
  | 0x1B => some (.bgeI64 rd ra (fld w 0 15))
  | 0x1C => some (.bltN64 rd ra (fld w 0 15))
  | 0x1D => some (.bgeN64 rd ra (fld w 0 15))
  | 0x1E => guardI (decide (rd < 8) && decide (ra = 0)) (.bk rd (fld w 0 15))
  | 0x1F => guardI (decide (rd < 8) && decide (ra = 0)) (.bnk rd (fld w 0 15))
  | 0x20 => some (.call rd (fld w 0 20))
  | 0x21 => some (.callr rd ra g imm)
  | 0x22 => guardI (decide (rd < 2) && decide (imm ≠ 0)) (.loop rd ra g imm)
  | 0x28 => some (.ldI8 rd ra g imm)
  | 0x29 => some (.ldN8 rd ra g imm)
  | 0x2A => some (.ldI16 rd ra g imm)
  | 0x2B => some (.ldN16 rd ra g imm)
  | 0x2C => some (.ldI32 rd ra g imm)
  | 0x2D => some (.ldN32 rd ra g imm)
  | 0x2E => some (.ldI64 rd ra g imm)
  | 0x30 => some (.stN8 rd ra g imm)
  | 0x31 => some (.stN16 rd ra g imm)
  | 0x32 => some (.stN32 rd ra g imm)
  | 0x33 => some (.stN64 rd ra g imm)
  | 0x34 => decodeTagged rd ra rb gr fn
  | 0x38 => decodeAtomic rd ra rb gr fn
  | 0x3A => decodeOrder rd ra rb gr fn
  | 0x3B => decodeBarrier rd ra g imm
  | 0x3C => decodeLockReq rd ra rb gr fn
  | 0x3D => decodeLockRel rd ra rb gr fn
  | 0x3E => decodeTx rd ra rb gr fn
  | 0x40 => decodeTask rd ra rb gr fn
  | 0x41 => decodeDistrict rd ra rb gr fn
  | 0x42 => decodeDma rd ra rb gr fn ext
  | 0x43 => decodeBin rd ra rb gr fn
  | 0x44 => decodeRemote rd ra rb gr fn ext
  | 0x45 => decodeTid rd ra rb gr fn
  | 0x46 => decodeMatrix rd ra rb gr fn ext
  | 0x50 => guardI (decide (ra = 0)) (.mfs rd g imm)
  | 0x51 => guardI (decide (rd = 0)) (.mts ra g imm)
  | 0x52 => decodeSystem rd ra g imm
  | 0x53 => decodeSig rd ra rb gr fn
  | 0x54 => decodeClock rd ra rb gr fn
  | 0x7F => guardI (decide (w % 2 ^ 25 = 0)) .brk
  | _ => none

/-- Four bytes, little-endian (03 R85). -/
def leWord (b0 b1 b2 b3 : Byte) : Nat :=
  b0.toNat + b1.toNat * 2 ^ 8 + b2.toNat * 2 ^ 16 + b3.toNat * 2 ^ 24

/-- The bytes of a 32-bit word, little-endian. -/
def wordBytes (w : Nat) : List Byte :=
  [BitVec.ofNat 8 w, BitVec.ofNat 8 (w / 2 ^ 8), BitVec.ofNat 8 (w / 2 ^ 16), BitVec.ofNat 8 (w / 2 ^ 24)]

/-- Reads one instruction from a list of bytes and returns it with the rest; none where the bytes are too few or
hold no instruction (03 R87, R88). -/
def decode : List Byte → Option (Instr × List Byte)
  | b0 :: b1 :: b2 :: b3 :: rest =>
    let w := leWord b0 b1 b2 b3
    if isX w then
      match rest with
      | c0 :: c1 :: c2 :: c3 :: rest' => (decodeWords w (leWord c0 c1 c2 c3)).map (·, rest')
      | _ => none
    else (decodeWords w 0).map (·, rest)
  | _ => none

/-- The words of an encoded instruction, from the formats of 03 R85 and the opcodes of R88 and R89. A machine event
has none. -/
def encode : Instr → List Nat
  | .add rd ra rb g => [mkR 0x01 rd ra rb g 0]
  | .sub rd ra rb g => [mkR 0x01 rd ra rb g 1]
  | .and rd ra rb g => [mkR 0x01 rd ra rb g 2]
  | .or rd ra rb g => [mkR 0x01 rd ra rb g 3]
  | .xor rd ra rb g => [mkR 0x01 rd ra rb g 4]
  | .andn rd ra rb g => [mkR 0x01 rd ra rb g 5]
  | .sll rd ra rb g => [mkR 0x01 rd ra rb g 6]
  | .srl rd ra rb g => [mkR 0x01 rd ra rb g 7]
  | .sra rd ra rb g => [mkR 0x01 rd ra rb g 8]
  | .mul rd ra rb g => [mkR 0x01 rd ra rb g 9]
  | .mulhI64 rd ra rb g => [mkR 0x01 rd ra rb g 10]
  | .mulhN64 rd ra rb g => [mkR 0x01 rd ra rb g 11]
  | .divI64 rd ra rb g => [mkR 0x01 rd ra rb g 12]
  | .divN64 rd ra rb g => [mkR 0x01 rd ra rb g 13]
  | .remI64 rd ra rb g => [mkR 0x01 rd ra rb g 14]
  | .remN64 rd ra rb g => [mkR 0x01 rd ra rb g 15]
  | .minI64 rd ra rb g => [mkR 0x01 rd ra rb g 16]
  | .maxI64 rd ra rb g => [mkR 0x01 rd ra rb g 17]
  | .minN64 rd ra rb g => [mkR 0x01 rd ra rb g 18]
  | .maxN64 rd ra rb g => [mkR 0x01 rd ra rb g 19]
  | .addsI32 rd ra rb g => [mkR 0x01 rd ra rb g 20]
  | .subsI32 rd ra rb g => [mkR 0x01 rd ra rb g 21]
  | .addsI64 rd ra rb g => [mkR 0x01 rd ra rb g 22]
  | .subsI64 rd ra rb g => [mkR 0x01 rd ra rb g 23]
  | .clz rd ra g => [mkR 0x01 rd ra 0 g 24]
  | .ctz rd ra g => [mkR 0x01 rd ra 0 g 25]
  | .popc rd ra g => [mkR 0x01 rd ra 0 g 26]
  | .addi rd ra g imm => [mkI 0x02 rd ra g imm]
  | .andi rd ra g imm => [mkI 0x03 rd ra g imm]
  | .ori rd ra g imm => [mkI 0x04 rd ra g imm]
  | .xori rd ra g imm => [mkI 0x05 rd ra g imm]
  | .slli rd ra g n => [mkI 0x06 rd ra g n]
  | .srli rd ra g n => [mkI 0x06 rd ra g (n + 64)]
  | .srai rd ra g n => [mkI 0x06 rd ra g (n + 128)]
  | .ldhi rd imm => [mkJ 0x07 rd imm]
  | .addpc rd imm => [mkJ 0x08 rd imm]
  | .li rd g ext => [mkR 0x09 rd 0 0 g 0, ext]
  | .lih rd g ext => [mkR 0x09 rd 0 0 g 1, ext]
  | .cmpEq rd ra rb g => [mkR 0x10 rd ra rb g 0]
  | .cmpNe rd ra rb g => [mkR 0x10 rd ra rb g 1]
  | .cmpLtI64 rd ra rb g => [mkR 0x10 rd ra rb g 2]
  | .cmpGeI64 rd ra rb g => [mkR 0x10 rd ra rb g 3]
  | .cmpLtN64 rd ra rb g => [mkR 0x10 rd ra rb g 4]
  | .cmpGeN64 rd ra rb g => [mkR 0x10 rd ra rb g 5]
  | .kand rd ra rb g => [mkR 0x10 rd ra rb g 8]
  | .kor rd ra rb g => [mkR 0x10 rd ra rb g 9]
  | .kxor rd ra rb g => [mkR 0x10 rd ra rb g 10]
  | .kandn rd ra rb g => [mkR 0x10 rd ra rb g 11]
  | .knot rd ra g => [mkR 0x10 rd ra 0 g 12]
  | .kmov rd ra g => [mkR 0x10 rd ra 0 g 14]
  | .kget rd ra g => [mkR 0x10 rd ra 0 g 15]
  | .sel rd ra rb kg => [mkR 0x10 rd ra rb kg 16]
  | .cmpiEq rd ra g imm => [mkI 0x11 rd ra g imm]
  | .cmpiLtI64 rd ra g imm => [mkI 0x12 rd ra g imm]
  | .cmpiLtN64 rd ra g imm => [mkI 0x13 rd ra g imm]
  | .beq ra rb ofs => [mkB 0x18 ra rb ofs]
  | .bne ra rb ofs => [mkB 0x19 ra rb ofs]
  | .bltI64 ra rb ofs => [mkB 0x1A ra rb ofs]
  | .bgeI64 ra rb ofs => [mkB 0x1B ra rb ofs]
  | .bltN64 ra rb ofs => [mkB 0x1C ra rb ofs]
  | .bgeN64 ra rb ofs => [mkB 0x1D ra rb ofs]
  | .bk ra ofs => [mkB 0x1E ra 0 ofs]
  | .bnk ra ofs => [mkB 0x1F ra 0 ofs]
  | .call rd ofs => [mkJ 0x20 rd ofs]
  | .callr rd ra g imm => [mkI 0x21 rd ra g imm]
  | .loop lp ra g imm => [mkI 0x22 lp ra g imm]
  | .ldI8 rd ra g imm => [mkI 0x28 rd ra g imm]
  | .ldN8 rd ra g imm => [mkI 0x29 rd ra g imm]
  | .ldI16 rd ra g imm => [mkI 0x2A rd ra g imm]
  | .ldN16 rd ra g imm => [mkI 0x2B rd ra g imm]
  | .ldI32 rd ra g imm => [mkI 0x2C rd ra g imm]
  | .ldN32 rd ra g imm => [mkI 0x2D rd ra g imm]
  | .ldI64 rd ra g imm => [mkI 0x2E rd ra g imm]
  | .loadDataReturn _ _ => []
  | .stN8 rb ra g imm => [mkI 0x30 rb ra g imm]
  | .stN16 rb ra g imm => [mkI 0x31 rb ra g imm]
  | .stN32 rb ra g imm => [mkI 0x32 rb ra g imm]
  | .stN64 rb ra g imm => [mkI 0x33 rb ra g imm]
  | .remoteStoreFail _ => []
  | .movedRetry _ => []
  | .tldTake rd ra g => [mkR 0x34 rd ra 0 g 0]
  | .tldKeep rd ra g => [mkR 0x34 rd ra 0 g 1]
  | .tstFill ra rb g => [mkR 0x34 0 ra rb g 2]
  | .tstSet ra rb g => [mkR 0x34 0 ra rb g 3]
  | .tagGet rd ra g => [mkR 0x34 rd ra 0 g 4]
  | .tagClr ra g => [mkR 0x34 0 ra 0 g 5]
  | .taggedWaiterServe _ => []
  | .tagWaitTimeout _ => []
  | .amoAdd rd ra rb g w => [mkR 0x38 rd ra rb g (w * 32)]
  | .amoAnd rd ra rb g w => [mkR 0x38 rd ra rb g (w * 32 + 1)]
  | .amoOr rd ra rb g w => [mkR 0x38 rd ra rb g (w * 32 + 2)]
  | .amoXor rd ra rb g w => [mkR 0x38 rd ra rb g (w * 32 + 3)]
  | .amoMinSigned rd ra rb g w => [mkR 0x38 rd ra rb g (w * 32 + 4)]
  | .amoMaxSigned rd ra rb g w => [mkR 0x38 rd ra rb g (w * 32 + 5)]
  | .amoMinUnsigned rd ra rb g w => [mkR 0x38 rd ra rb g (w * 32 + 6)]
  | .amoMaxUnsigned rd ra rb g w => [mkR 0x38 rd ra rb g (w * 32 + 7)]
  | .amoSwap rd ra rb g w => [mkR 0x38 rd ra rb g (w * 32 + 8)]
  | .amoCas rd ra rb g w => [mkR 0x38 rd ra rb g (w * 32 + 9)]
  | .amoAddF32 rd ra rb g => [mkR 0x38 rd ra rb g 10]
  | .amoSnap rd ra rb g => [mkR 0x38 rd ra rb g 11]
  | .amoVaddN32 ra rb g => [mkR 0x38 0 ra rb g 12]
  | .amoVaddF32 ra rb g => [mkR 0x38 0 ra rb g 13]
  | .amoLd rd ra g w => [mkR 0x38 rd ra 0 g (w * 32 + 14)]
  | .atomicAtHome _ => []
  | .atomicReply _ _ => []
  | .fence g sc => [mkR 0x3A 0 0 0 g sc]
  | .acq ra g sc => [mkR 0x3A 0 ra 0 g (sc + 8)]
  | .rel ra g sc => [mkR 0x3A 0 ra 0 g (sc + 16)]
  | .bind rd ra rb g => [mkR 0x3A rd ra rb g 24]
  | .unbind rd g => [mkR 0x3A rd 0 0 g 32]
  | .barInit ra g n => [mkI 0x3B 0 ra g n]
  | .barArrive rd ra g n => [mkI 0x3B rd ra g (n + 128)]
  | .barWait rd ra g n => [mkI 0x3B rd ra g (n + 256)]
  | .barSync ra g n => [mkI 0x3B 0 ra g (n + 384)]
  | .barrierWaitTimeout _ => []
  | .lkReq rd ra g lv md => [mkR 0x3C rd ra 0 g (lv * 8 + md)]
  | .lkTry rd ra g lv md => [mkR 0x3C rd ra 0 g (lv * 8 + md + 32)]
  | .lkUp rd ra g lv md => [mkR 0x3C rd ra 0 g (lv * 8 + md + 64)]
  | .lkRel ra g => [mkR 0x3D 0 ra 0 g 0]
  | .lkRelall g => [mkR 0x3D 0 0 0 g 1]
  | .lkQuery rd ra g => [mkR 0x3D rd ra 0 g 2]
  | .lockRequestAtHome _ => []
  | .woundArrival _ => []
  | .woundAsyncEntry _ => []
  | .lockRevoke _ => []
  | .txBegin rd ra g => [mkR 0x3E rd ra 0 g 0]
  | .txEnd rd g => [mkR 0x3E rd 0 0 g 1]
  | .txAbort ra g => [mkR 0x3E 0 ra 0 g 2]
  | .txStat rd g => [mkR 0x3E rd 0 0 g 3]
  | .txCommit _ => []
  | .txWoundAbort _ => []
  | .spawn rd ra g => [mkR 0x40 rd ra 0 g 0]
  | .spawnWaitTimeout _ => []
  | .done g => [mkR 0x40 0 0 0 g 1]
  | .joinInit rd ra rb g => [mkR 0x40 rd ra rb g 2]
  | .chunk rd ra g => [mkR 0x40 rd ra 0 g 3]
  | .dacq rd ra rb g => [mkR 0x41 rd ra rb g 0]
  | .dacqWaitGrant _ => []
  | .drel g => [mkR 0x41 0 0 0 g 1]
  | .cfgLoad rd ra rb g => [mkR 0x41 rd ra rb g 2]
  | .cfgLoadEnd _ => []
  | .cfgConst ra rb g => [mkR 0x41 0 ra rb g 3]
  | .cfgConstApply _ => []
  | .invoke rd ra rb g => [mkR 0x41 rd ra rb g 4]
  | .sbind rd ra g => [mkR 0x41 rd ra 0 g 5]
  | .push rd ra rb g => [mkR 0x41 rd ra rb g 6]
  | .pull rd ra rb g => [mkR 0x41 rd ra rb g 7]
  | .streamWaitTimeout _ => []
  | .drain g => [mkR 0x41 0 0 0 g 8]
  | .ctxset ra g => [mkR 0x41 0 ra 0 g 9]
  | .mstone rd ra g => [mkR 0x41 rd ra 0 g 10]
  | .mstoneComplete _ => []
  | .tdown rd g => [mkR 0x41 rd 0 0 g 11]
  | .tdownComplete _ => []
  | .dmaLd rd ra rb g ext => [mkR 0x42 rd ra rb g 0, ext]
  | .dmaSt rd ra rb g ext => [mkR 0x42 rd ra rb g 1, ext]
  | .dmaCp rd ra rb g ext => [mkR 0x42 rd ra rb g 2, ext]
  | .dmaGath rd ra rb g ext => [mkR 0x42 rd ra rb g 3, ext]
  | .dmaEnd _ => []
  | .binApp rd ra rb g => [mkR 0x43 rd ra rb g 0]
  | .binAppendAtEngine _ => []
  | .binPlay rd ra rb g => [mkR 0x43 rd ra rb g 1]
  | .binRegionReplay _ => []
  | .rput rd ra rb g ext => [mkR 0x44 rd ra rb g 0, ext]
  | .rget rd ra rb g ext => [mkR 0x44 rd ra rb g 1, ext]
  | .ramo rd ra rb g ext => [mkR 0x44 rd ra rb g 2, ext]
  | .remoteLinkFail _ => []
  | .tidWr ra rb g => [mkR 0x45 0 ra rb g 0]
  | .tidRd ra rb g => [mkR 0x45 0 ra rb g 1]
  | .mtile rd ra rb g ext => [mkR 0x46 rd ra rb g 0, ext]
  | .mbload rd ra rb g ext => [mkR 0x46 rd ra rb g 1, ext]
  | .maccCp rd ra rb g ext => [mkR 0x46 rd ra rb g 2, ext]
  | .maccZero rd ra g ext => [mkR 0x46 rd ra 0 g 3, ext]
  | .seqBFetch _ => []
  | .seqBWrite _ => []
  | .seqAFetch _ => []
  | .seqAAlign _ => []
  | .seqABroadcast _ => []
  | .seqAAccumulate _ => []
  | .seqAccRowMove _ => []
  | .seqSetCompletion _ => []
  | .mfs rd g imm => [mkI 0x50 rd 0 g imm]
  | .mts ra g imm => [mkI 0x51 0 ra g imm]
  | .trap g n => [mkI 0x52 0 0 g n]
  | .tack g => [mkI 0x52 0 0 g 64]
  | .eret g => [mkI 0x52 0 0 g 128]
  | .idle g => [mkI 0x52 0 0 g 192]
  | .icinvAll g => [mkI 0x52 0 0 g 256]
  | .icinvLine ra g => [mkI 0x52 0 ra g 257]
  | .icinvAcknowledge _ => []
  | .xinvAll g => [mkI 0x52 0 0 g 320]
  | .xinvSpace rd g => [mkI 0x52 rd 0 g 321]
  | .xinvVa rd ra g => [mkI 0x52 rd ra g 322]
  | .sig ra rb g => [mkR 0x53 0 ra rb g 0]
  | .sigMessageArrival _ => []
  | .sigHoldTimeout _ => []
  | .sigQueueEntry _ => []
  | .msgDelivery _ => []
  | .sethnd rd ra rb g => [mkR 0x53 rd ra rb g 1]
  | .gcJoin rd ra rb g => [mkR 0x54 rd ra rb g 0]
  | .gcLeave rd g => [mkR 0x54 rd 0 0 g 1]
  | .gcAnn ra rb g => [mkR 0x54 0 ra rb g 2]
  | .gcQuery rd ra g => [mkR 0x54 rd ra 0 g 3]
  | .brk => [0xFE000000]
  | .asyncEventEntry _ => []
  | .plainWrite _ => []
  | .setElementCursor _ => []
  | .wideWrite _ => []
  | .nop _ => []
  | .stage _ => []
  | .commit _ => []
  | .abandon _ => []
  | .wave _ => []
  | .clear _ => []
  | .pendingCommandApply _ => []
  | .pendingSwitchApply _ => []
  | .tokenHop _ _ _ => []
  | .vectorCellFiring _ => []
  | .structuralEmission _ => []
  | .controlTokenTake _ => []
  | .branchCellFinish _ => []
  | .scannerStep _ => []
  | .fibreBufferRefill _ => []
  | .skipRequest _ => []
  | .mergeIntersectStep _ => []
  | .mergeUnionStep _ => []
  | .repeaterRefStep _ => []
  | .repeaterFibreLoad _ => []
  | .repeaterFibreReplay _ => []
  | .reducerStep _ => []
  | .levelWriterStep _ => []
  | .matrixRowFiring _ => []
  | .matrixBurstTake _ => []
  | .matrixDonePass _ => []
  | .memoryNodeRequest _ _ => []
  | .memoryNodeReturn _ _ => []
  | .rowBurst _ _ => []
  | .nodeTagTimeout _ _ => []
  | .milestoneTake _ => []
  | .rollback _ => []
  | .patrolRead _ _ => []
  | .elementJoin _ => []
  | .invokeStart _ => []
  | .invocationEnd _ => []
  | .gangfault _ => []
  | .stallWatchdogExpiry _ => []
  | .heldStoreEntry _ _ => []
  | .waveCommit _ => []
  | .launchWindowWrite _ _ _ => []
  | .hqBaseWrite _ _ _ => []
  | .enable _ _ => []
  | .disable _ _ => []
  | .teardown _ _ => []
  | .reset _ _ => []
  | .off _ _ => []
  | .queueTorn _ => []
  | .hubDispatch => []
  | .pwaitPreemption => []
  | .joinDecrement => []
  | .recCopyEnter _ => []
  | .graphWalkStart => []
  | .graphTaskNode _ => []
  | .graphCondNode _ => []
  | .graphWhileNode _ => []
  | .graphLoopNode _ => []
  | .graphJoinNode _ => []
  | .schCtlWrite _ _ => []
  | .preempt _ _ => []
  | .preemptSaveComplete _ => []
  | .taskRestore _ => []
  | .halt _ _ => []
  | .unhalt _ _ => []
  | .stop _ _ => []
  | .run _ _ => []
  | .restart _ _ => []
  | .qcSdataWrite _ _ _ => []
  | .qcSdataRead _ _ => []
  | .migrationStart _ _ _ => []
  | .migrationEnd _ => []
  | .pinLoad _ => []
  | .zoneMapWrite _ _ _ _ => []
  | .rpRemapWrite _ _ _ => []
  | .rpCountClear _ _ => []
  | .lmReload _ _ => []
  | .registerWrite _ _ _ => []
  | .announceReceive _ _ _ _ _ => []
  | .heartbeatSend => []
  | .heartbeatReceive _ _ _ _ => []
  | .joinReceive _ _ _ _ => []
  | .stateReceive _ _ _ _ _ _ => []
  | .groupFound => []
  | .leaveReceive _ _ _ => []
  | .silentDeclare _ => []
  | .silentReceive _ _ _ => []
  | .expelReceive _ => []
  | .ceilingChange => []
  | .thermalTick _ => []
  | .currentTick _ => []
  | .powerCapTick _ => []
  | .rackShareSend => []
  | .rackShareReceive _ _ _ _ _ => []
  | .emergencyThrottle _ _ => []
  | .emergencyRelease _ _ => []
  | .flitReceive _ _ _ => []
  | .nakReplay _ _ => []
  | .linkRetrain _ _ => []
  | .laneFail _ _ => []
  | .spare _ _ => []
  | .turn _ _ => []
  | .idleLane _ _ => []
  | .laneTrained _ _ => []
  | .leave _ => []
  | .membershipChange => []
  | .deviceDeparture _ => []
  | .domainJoin _ _ => []
  | .ownerCas _ _ => []
  | .ownerHeartbeat _ => []
  | .ownerStale => []
  | .scaleoutPacketReceive _ _ _ => []
  | .scaleoutRetransmit _ => []
  | .deviceReset => []
  | .loadFirmware _ => []
  | .attest _ => []
  | .attestComplete _ => []
  | .retrainingEnd _ => []
  | .bar2MemoryWrite _ _ _ => []
  | .contextCounterAdvance _ => []

/-- Has the constructor an encoding? -/
def Instr.encoded (i : Instr) : Bool := !(encode i).isEmpty

/-- The bytes of an instruction as they stand in memory. -/
def encodeBytes (i : Instr) : List Byte := (encode i).flatMap wordBytes

/-- The instruction that the decoder reads from a word numbered as the opcode table numbers it; the bits above it
are zero. -/
def decodeTableWord (_nbits w : Nat) : Option Instr :=
  (decode (wordBytes (w % 2 ^ 32) ++ wordBytes (w / 2 ^ 32 % 2 ^ 32))).map Prod.fst

/-- A configuration command (02 R60): the kinds of bits [31:30]. -/
inductive CfgCmd where
  /-- 02 R61. -/
  | plain (field value : Nat)
  /-- 02 R62. -/
  | cursor (y x step : Nat)
  /-- 02 R63; the value word follows. -/
  | wide (field y x : Nat)
  /-- 02 R64. -/
  | ctl (op operand : Nat)
  /-- A reserved bit is set, or a reserved STEP or OP is used (02 R65, CFGRSV). -/
  | reserved
  deriving DecidableEq, Repr

/-- Reads a configuration word (02 R60 to R64). -/
def decodeCfg (w : Nat) : CfgCmd :=
  match fld w 30 2 with
  | 0 => .plain (fld w 22 8) (fld w 0 22)
  | 1 => if fld w 22 8 = 0 ∧ fld w 0 8 = 0 ∧ fld w 8 2 < 2 then .cursor (fld w 16 6) (fld w 10 6) (fld w 8 2)
         else .reserved
  | 2 => if fld w 0 10 = 0 then .wide (fld w 22 8) (fld w 16 6) (fld w 10 6) else .reserved
  | _ =>
    let op := fld w 26 4
    let v := fld w 0 26
    if op = 2 ∧ v < 2 ^ 8 then .ctl op v
    else if op ≤ 5 ∧ v = 0 then .ctl op v
    else .reserved

/-- The word of a configuration command (02 R61 to R64). -/
def encodeCfg : CfgCmd → Nat
  | .plain field value => field * 2 ^ 22 + value
  | .cursor y x step => 2 ^ 30 + y * 2 ^ 16 + x * 2 ^ 10 + step * 2 ^ 8
  | .wide field y x => 2 * 2 ^ 30 + field * 2 ^ 22 + y * 2 ^ 16 + x * 2 ^ 10
  | .ctl op operand => 3 * 2 ^ 30 + op * 2 ^ 26 + operand
  | .reserved => 3 * 2 ^ 30 + 6 * 2 ^ 26

end Sys2Proof
end

