-- ==== Sys2Proof/Config.lean ====
section
/-! DEFINITION. What the spec leaves to the part or to the world outside it. Every constant here is opaque: it has no
body, so no proof can see a value of it, and a claim that mentions one holds whatever it is (log entry 5). -/

namespace Sys2Proof

/-- A value that the spec does not state, drawn with the counter State.freeIx (log entry 5). -/
opaque Config.free : Nat → BitVec 64

/-- The CH of a token for which the spec states none: of a cell at a place of its district, in an invocation with an iteration vector, by
context or use and by number (02 R49; 07 R208; log entry 28). It is no matter of timing (01 R44). -/
opaque Config.freeCh : Nat → BitVec 64 → Nat → Nat → BitVec 4

/-- The zero point of a scale group of a Z4 tensor that has no scale array: of a tensor by its address, by row and group (01 R21, R33 state
none; log entry 133). It is no matter of timing (01 R44). -/
opaque Config.freeZero : Nat → Nat → Nat → BitVec 4

/-- The entry that leaves a full cache of translations or of instruction lines (13 R341 gives the size and not the
victim; log entry 9). -/
opaque Config.victim : Nat → Nat

/-- The lock records that the overflow area of a sync engine holds (14 R360 gives it no size; log entry 108). -/
opaque Config.overflowRecords : Nat → Nat

/-- The physical address to which the security processor copies an accepted firmware body (18 R421 gives none; log
entry 6). -/
opaque Config.firmwareBase : Nat

/-- SHA-256 of a list of bytes, which 18 R421 and R422 name and do not define (log entry 7). -/
opaque Config.sha256 : List (BitVec 8) → BitVec 256

/-- Does an ECDSA signature on P-256 with SHA-256 verify: key, signature, message (18 R421; log entry 7). -/
opaque Config.ecdsaOk : List (BitVec 8) → List (BitVec 8) → List (BitVec 8) → Bool

/-- The identity key's signature of a message (18 R422; log entry 7). -/
opaque Config.identitySign : List (BitVec 8) → List (BitVec 8)

/-- The identity public key, X then Y, 64 bytes (18 R422; log entry 7). -/
opaque Config.identityKey : List (BitVec 8)

/-- The fused hashes of firmware keys that are not revoked, by index (18 R421; log entry 7). -/
opaque Config.fusedKeyHash : Nat → Option (BitVec 256)

/-- The fused minimum security version (18 R421; log entry 7). -/
opaque Config.fusedSvn : Nat

/-- The row and column number that the slot gives the device, below 144 (18 R412; log entry 8). -/
opaque Config.slot : Nat

/-- The number of supply rails, whose mask stands below TEMP in CC_TVAL (18 R423 gives no width; log entry 12). -/
opaque Config.rails : Nat

/-- The image in the flash attached to the hub (18 R421; log entry 6). -/
opaque Config.flash : List (BitVec 8)

end Sys2Proof
end

