-- ==== Sys2Proof/Machine/State.lean ====
section
/-! DEFINITION. The state of one Craex device as plain data (00 R1 to R3 and the registers of every chapter), the
reasons a step can stop, and the state after reset. INVENTORY.md lists every piece with its rule and reset value. -/

namespace Sys2Proof.Machine

/-- A finite map from numbers, sorted by key with no key twice; a key that is not listed has the map's default. -/
abbrev SMap (α : Type) := List (Nat × α)

/-- Bytes with the full/empty tag of each 32-bit word (05 R144) and the poison marks (17 R394). `cells` is canonical:
addresses strictly rising and no byte 0, which an unlisted address reads as (log entry 1). `full` lists the indexes of
the words whose tag is full, `pois` the indexes of the marked units (64-byte lines of device memory, 32-bit words of
SRAM), both strictly rising. -/
structure TagMem where
  cells : List Host.Cell
  full : List Nat
  pois : List Nat
  deriving DecidableEq, Repr

/-- The fields of CC_STATUS and CC_SSTATUS (03 R79). -/
structure Status where
  prio : BitVec 2
  txn : Bool
  wpend : Bool
  intrap : Bool
  ie : Bool
  supv : Bool
  deriving DecidableEq, Repr

/-- A trap cause with its ASYNC bit (03 R80). -/
structure Cause where
  async : Bool
  code : BitVec 10
  deriving DecidableEq, Repr

/-- A hardware loop level (03 R83). -/
structure HwLoop where
  count : BitVec 32
  body : BitVec 16
  start : BitVec 54
  deriving DecidableEq, Repr

/-- A named barrier (03 R71). -/
structure Barrier where
  target : BitVec 16
  arrivals : BitVec 16
  phase : Bool
  deriving DecidableEq, Repr

/-- A bound stream handle (06 R183): the element, the port, the direction, the width and the packing. -/
structure Handle where
  elem : Nat
  port : Nat
  pull : Bool
  vec : Bool
  image : Bool
  deriving DecidableEq, Repr

/-- A handler-table entry (04 R130). -/
structure HandlerEntry where
  addr : BitVec 54
  v : Bool
  w : Bool
  space : BitVec 16
  deriving DecidableEq, Repr

/-- A control message (04 R131): `src` is the sending core, or a number from 256 on for a sender of another device; `entry` is
the handler address read when the message joins the delivery queue (04 R133); `room` says that it has passed the checks of
04 R132 and waits for room in the delivery queue; `at_` is the fc from which its wait counts, and `bound` the sender's
CC_TAGWAIT.BOUND (04 R132). -/
structure Msg where
  src : Nat
  dst : Nat
  device : Nat
  index : Nat
  payload : Word
  space : BitVec 16
  user : Bool
  entry : BitVec 54
  arrived : Bool
  room : Bool
  at_ : Nat
  bound : Nat
  deriving DecidableEq, Repr

/-- An asynchronous event pending for a core (04 R124). -/
structure AsyncEvent where
  cause : BitVec 10
  tval : Word
  iter : Word
  deriving DecidableEq, Repr

/-- A place of memory to which a translated access leads (05 R138): this device's memory, another device's, a core's
local memory, a store cell's word, or the hub registers. -/
inductive Place where
  | dev (pa : Nat)
  | peer (node : Nat) (pa : Nat)
  | loc (core off : Nat)
  | spad (elem off : Nat)
  | hub (off : Nat)
  deriving DecidableEq, Repr

/-- What the instruction of a thread waits for. `again` waits re-execute the instruction when the core's turn comes;
the others are ended by the event that serves them. -/
inductive Wait where
  | none
  /-- The instruction is issued again; `timer` says that its wait counts against CC_TAGWAIT.BOUND (05 R146). -/
  | again (timer : Bool)
  /-- A tagged instruction at a word (05 R145). -/
  | tag
  /-- A load of bytes outside this device or on a page that is moving: destination, width, sign, address (05 R142). -/
  | load (rd width : Nat) (signed : Bool) (va : Nat)
  /-- An atomic whose old value has not come back (05 R150). -/
  | amo (rd : Nat) (wide signed : Bool) (va : Nat)
  /-- A remote atomic (06 R195): destination, width, sign, remote address. -/
  | ramo (rd : Nat) (wide signed : Bool) (va : Nat)
  /-- A lock request at its home (05 R162). -/
  | lock (rd : Nat)
  /-- `sig`, until the target accepts or refuses (04 R131). -/
  | sig
  /-- `tx.end`, until its writes are performed at domain scope (05 R167). -/
  | tx (rd : Nat)
  /-- A snapshot whose counters have not come from a peer, or whose copy is not written there yet: destination, address of the block, of
  the copy, and the place of the copy at issue (05 R153). -/
  | snap (rd : Nat) (va dst : Nat) (q : Place)
  /-- `icinv`, until every core has acknowledged (04 R135). -/
  | icinv
  /-- `xinv`, until every access translated with a dropped entry is performed: the space, none for every one, and the ranges of addresses
  that the entries covered, none for all (04 R136). -/
  | xinv (asid : Option Nat) (rngs : Option (List (Nat × Nat)))
  /-- `idle` (04 R129). -/
  | idle
  /-- `dacq` with WAIT = 1 (06 R174). -/
  | dacq
  /-- `cfg.const` behind earlier district commands (06 R177). -/
  | cfgConst
  /-- `gc.join` (06 R205). -/
  | gcJoin (rd : Nat)
  deriving DecidableEq, Repr

/-- One entry of a bind table (05 R155). -/
structure BindEntry where
  obj : Word
  base : Nat
  len : Nat
  deriving DecidableEq, Repr

/-- A line of 64 bytes of a peer's page in a memory-side cache (10 R284): its bytes, the words of 8 bytes that carry poison,
and whether it is dirty. -/
structure MLine where
  bytes : List Byte
  marks : List Nat
  dirty : Bool
  deriving DecidableEq, Repr

/-- The open transaction of a thread and its history (05 R164 to R167). `undo` holds the old 128 bytes of each line
written, newest first, with the poison marks of its two 64-byte halves; `away` the lines written at peers, whose old bytes
their homes log (device and line); `cached` the lines of memory-side caches as they stood before the transaction's first
write to each. -/
structure Tx where
  restart : Word
  rd : Nat
  undo : List (Nat × List Byte × Bool × Bool)
  away : List (Nat × Nat)
  cached : List (Nat × Option MLine)
  attempts : BitVec 32
  last : BitVec 12
  deriving DecidableEq, Repr

/-- A continuation record, four doublewords (12 R309). -/
structure Rec where
  d0 : Word
  d1 : Word
  d2 : Word
  d3 : Word
  deriving DecidableEq, Repr

/-- A record in a lane, with the fabric time of its entry (12 R312) and, where the walker enqueued it, the walk and
path that wait for it (12 R328). `saved` names the saved task that this record stands for (13 R352). -/
structure QRec where
  r : Rec
  enq : Nat
  walk : Option (Nat × Nat)
  saved : Option Nat
  deriving DecidableEq, Repr

/-- Blocks of a district or of a reservation: quarter, block row and column, height and width (06 R174). -/
structure Rect where
  q : Nat
  by_ : Nat
  bx : Nat
  h : Nat
  w : Nat
  deriving DecidableEq, Repr

/-- The task a core runs (12 R311): its queue, its record, the rank of its dispatch (12 R323) and a district reserved
and not taken (12 R321). -/
structure Task where
  q : Nat
  rec_ : QRec
  order : Nat
  reserved : Option Rect
  deriving DecidableEq, Repr

/-- A cached translation of 2^log bytes (13 R337 to R341), with the access count of a MODE 2 leaf (13 R343); `pin` marks
the translation of a pinned entry, which user mode may not use (13 R342), and `rng` holds BASE and LIMIT of the range entry that gave it. -/
structure XEnt where
  asid : Nat
  va : Nat
  log : Nat
  pa : Nat
  peer : Nat
  mode : Nat
  thr : Nat
  u : Bool
  x : Bool
  w : Bool
  r : Bool
  pin : Bool
  rng : Option (Nat × Nat)
  count : Nat
  deriving DecidableEq, Repr

/-- A line of an instruction cache: its words as bytes, and those of them that carry poison (17 R393, R394). -/
structure ILine where
  bytes : List Byte
  bad : List Nat
  deriving DecidableEq, Repr

/-- What a thread's state holds on its core (03 R71 to R84; 13 R354 lists what pre-emption saves of it). `synced` lists
the addresses of `bar.sync` instructions that have arrived, with the phase they wait to see change (05 R158). -/
structure Thread where
  id : Nat
  x : SMap Word
  k : List Nat
  q : SMap Handle
  bar : SMap Barrier
  pc : Word
  status : Status
  sstatus : Status
  cause : Cause
  epc : BitVec 54
  tval : Word
  scratch : Word
  iter : Word
  asid : BitVec 16
  age : Word
  loop0 : HwLoop
  loop1 : HwLoop
  tagwait : BitVec 32
  bind : List BindEntry
  tx : Tx
  wait : Wait
  waitFrom : Nat
  synced : SMap Bool
  district : Option Nat
  task : Option Task
  deriving DecidableEq, Repr

/-- What a core's fields that hardware updates of itself held at the end of the fc before an update in `fc` (03 R77): TXN and
WPEND of CC_STATUS, OVF and PARKED of CC_MSGSTAT; `ovfSet` says that hardware has set OVF in that fc (03 R84). -/
structure HwSeen where
  fc : Nat
  txn : Bool
  wpend : Bool
  ovf : Bool
  parked : Nat
  ovfSet : Bool
  deriving DecidableEq, Repr

/-- A control core: its running thread and what belongs to the core itself (13 R354, last paragraph). `held` says that
the security processor holds the core (18 R421). `parity` lists the registers whose parity is bad (17 R395; 0 to 31
are x, 32 to 39 are k), with whether the replay queue can still repair them. `regpar` says that a repair has failed for
good (17 R400), `restartPend` that a RESTART waits for a pre-emption to end (13 R355). `lastAge` is the last age that the core
issued (14 R361), and `met` lists the addresses of those accesses of an instruction that is issued again which have been counted (13
R343). -/
structure CoreState where
  t : Thread
  dcause : Cause
  depc : BitVec 54
  dtval : Word
  dstatus : Status
  tvec : BitVec 48
  msgOvf : Bool
  handlers : SMap HandlerEntry
  delivery : List Msg
  unclaimed : List Msg
  events : List AsyncEvent
  icache : SMap ILine
  tlb : List XEnt
  cstat : Nat
  dbrk : Bool
  dhalt : Bool
  save : BitVec 44
  snum : BitVec 12
  lastAge : Option Word
  lastFc : Nat
  cycleBase : Nat
  held : Bool
  regpar : Bool
  restartPend : Bool
  parity : SMap Bool
  replay : List Nat
  hw : Option HwSeen
  met : List Nat
  deriving DecidableEq, Repr

/-- A token of the fabric (02 R45). A scalar token holds its payload in lane 0. `inv` is the serial number of the
invocation it belongs to (09 R265), and `home` that of the invocation whose element emitted it, which it keeps as it crosses into another
district. A MILESTONE names its producer and the tokens of each kind that went before it on its route in the wave (17 R396). -/
structure Token where
  vec : Bool
  kind : Nat
  ch : Nat
  p : BitVec 16
  lv : BitVec 16
  pay : BitVec 512
  inv : Nat
  home : Nat := 0
  route : List (Nat × List Nat) := []
  deriving DecidableEq, Repr

/-- A lane value with its poison bit (07 R207). -/
structure LaneVal where
  v : BitVec 32
  p : Bool
  deriving DecidableEq, Repr

/-- A request of a memory node whose return has not left (10 R286 to R291): the access, the token that asked, the value
token, the result of each lane (none while it waits), the return tokens that are made, the sending fc of a wait, and
whether a store waits for room in the hold buffer. -/
structure NodeReq where
  acc : Nat
  tok : Token
  val : Option Token
  res : List (Option LaneVal)
  out : List Token
  done : Bool
  held : Bool
  from_ : Nat
  deriving DecidableEq, Repr

/-- The state of one memory node (10 R285 to R291): the half of a two-token request, the requests in order, and the last milestone
that it has taken, after which its stores are of the next wave (09 R280). -/
structure Node where
  half : Option Token
  reqs : List NodeReq
  mile : Nat
  deriving DecidableEq, Repr

/-- An exact dyadic number m × 2^e (00 R15: a value is exact until it is rounded). -/
structure Dyadic where
  m : Int
  e : Int
  deriving DecidableEq, Repr

/-- A value of a floating-point format (01 R17). -/
inductive FVal where
  | nan
  | inf (neg : Bool)
  | fin (neg : Bool) (v : Dyadic)
  deriving DecidableEq, Repr

/-- An element of the macro: the integer of its planes in the reading of 01 R37, its class of 01 R39 and its poison
mark of 01 R424. -/
structure BElem where
  i : Int
  cls : Nat
  p : Bool
  deriving DecidableEq, Repr

/-- A scale held exactly: its value in the reading of 01 R37, its class and its poison mark. -/
structure BScale where
  v : Dyadic
  cls : Nat
  p : Bool
  deriving DecidableEq, Repr

/-- The matrix cell's macro and accumulator (06 R197 to R202): key of `b` is n × 256 + k, of `sc` is n × 16 + k div 16,
of `acc` is row × 128 + n. `kk` is the loaded K, 0 where no B is loaded. `out` holds the tokens of an emitted row that
have not entered `out0` (09 R274). -/
structure Mat where
  b : SMap BElem
  sc : SMap BScale
  sgroup : Nat
  kk : Nat
  clean : Option (List Word)
  acc : SMap LaneVal
  row : Nat
  buf : List Token
  bursts : Nat
  inBurst : Bool
  out : List Token
  deriving DecidableEq, Repr

/-- The state of a stream unit (08 R231 to R252). `open_` is OPEN, `fib` the fibre under way (reference, position, end),
`last0`/`last1` the last coordinates taken in the fibre, `seq0`..`seqOut` the fibre ends counted (08 R240), `acc` a
reducer's accumulator (none is EMPTY), `buf` a FIBRE repeater's entries, `p`/`n` a level writer's counts, `ch` the
CH that a step leaves for the next, `skips` the skip requests on their way to this source (target, sequence number, invocation), and
`lines` the 64-byte lines in a scanner's fibre buffer with their poison, `used` the last line that each of its windows gave (08 R239). -/
structure StreamUnit where
  open_ : Bool
  fib : Option (Nat × Nat × Nat)
  prev : Option Nat
  ones : Nat
  last0 : Option Nat
  last1 : Option Nat
  seq0 : Nat
  seq1 : Nat
  seqOut : Nat
  acc : Option LaneVal
  folded : Bool
  ch : Nat
  pendStop : Option Nat
  loaded : Bool
  stop0 : Bool
  buf : List (LaneVal × LaneVal)
  pos : Nat
  p : Nat
  n : Nat
  bits : List Nat
  skips : List (Nat × Nat × Nat)
  lines : SMap (List Byte × Bool)
  used : SMap Nat
  deriving DecidableEq, Repr

/-- A pending command of a wavefront (02 R70): the field and value of a write, or the CLEAR of the element. -/
inductive Pend where
  | write (field : Nat) (v : W32)
  | clear
  deriving DecidableEq, Repr

/-- An active element's state (07 R207, 08, 09). `fields` holds every configuration field (02 R66), `ctLog` the control
tokens that each port has sent in the invocation (17 R398), and `parity` the working registers, 16 × context + number,
whose parity is bad, with whether the replay queue can still repair them (17 R395). `nodeSet` holds the port pairs that formed a memory
node as the element joined (10 R285), `tear` says that it has returned to the free pool while its nodes still forward what it sent, by the fields of `ghost` (02 R51; 09 R278),
`past` holds the invocation before the one it has joined with the element's NANS, INFS and OVFS in it (01 R40), and `late` the breaks and
the fault of a firing that stands behind a `cbrk`: context, stage, cause (07 R223). `mileOut` lists the outputs to memory nodes that a wave
has passed ahead of the element (02 R52), `replay` the working registers, 16 to a register, that each of its last eight firings wrote (17
R395), and `arrived` counts the tokens that routes have brought since the last milestone (17 R396). -/
structure Elem where
  fields : SMap W32
  inB : SMap (List Token)
  outB : SMap (List Token)
  outL : SMap (List Token)
  ctB : SMap (List (Bool × Nat))
  w : SMap LaneVal
  gen : SMap W32
  ls : SMap LaneVal
  hsc : SMap (BitVec 16)
  armed : Option Nat
  branch : Option Nat
  actCtx : List Nat
  finCtx : List Nat
  doneOut : List Nat
  burstIn : SMap Nat
  burstOut : SMap Nat
  counts : SMap Nat
  lastTick : Nat
  joined : Option Nat
  fin : Bool
  mile : Nat
  unit : StreamUnit
  mat : Mat
  nodes : SMap Node
  pend : List Pend
  lsLog : Nat
  accLog : Nat
  ctLog : SMap (List Bool)
  parity : SMap Bool
  replay : List (List Nat)
  nodeSet : List Nat
  tear : Bool
  past : Option (Nat × Nat × Nat × Nat)
  late : List (Nat × Nat × BitVec 10)
  mileOut : List Nat
  ghost : SMap W32
  arrived : SMap Nat
  deriving DecidableEq, Repr

/-- A switch of a block: the sources of each driven destination (02 R57, 09 R271) and the tokens held by the hop of
each destination (02 R58); a control hop holds bits as tokens of kind 0. `burst` marks the source whose burst is
passing a first-arrival merge, with its invocation, `dropped` lists the tracks and invocations whose first drop at a bollard has been
reported (13 R358), `passed` the destinations that an invocation's DONE has left, and `pend` the pending settings and
clears with the invocation that was live when each arrived (09 R277); `made` keeps that of the pending setting that drove a destination. An
entry whose destination is no identifier stands for a pending CLEAR of the block's origin (02 R70). -/
structure Switch where
  drive : SMap (List Nat)
  hop : SMap (List Token)
  burst : SMap (Nat × Nat)
  pend : List (Nat × Option Nat × Nat)
  dropped : List (Nat × Nat)
  passed : List (Nat × Nat)
  made : SMap Nat
  deriving DecidableEq, Repr

/-- One invocation of a district (06 R178, 09 R263 to R267). `atOnce` says that every element joined as it started, and
`loads` counts the earlier `cfg.load`s that it waits for (06 R173), `lost` says that a bollard has dropped a DONE of it (16 R391), and
`tid` holds the tensor entries of its space as they stood at the `invoke` (06 R188; log entry 129). -/
structure Inv where
  id : Nat
  iter : Word
  seg : Bool
  nan : Nat
  cpl : Word
  bound : BitVec 32
  started : Bool
  atOnce : Bool
  loads : Nat
  nans : BitVec 32
  infs : BitVec 32
  ovfs : BitVec 32
  tdown : Bool
  lost : Bool
  tid : SMap (List Word)
  deriving DecidableEq, Repr

/-- A `cfg.load` under way (06 R176): the stream's address, its length, the words read, the last COMMIT tag, the mode
WAVE, and the fault that stopped it (cause, index of the faulting word, the word, words read). -/
structure CfgRun where
  cpl : Word
  addr : Word
  len : Nat
  pos : Nat
  tag : Nat
  wave : Bool
  fault : Option (BitVec 10 × Nat × Nat × Nat)
  deriving DecidableEq, Repr

/-- One instruction in the macro sequencer's queue (06 R198 to R201): its FN, its operands, the tensor entries it was
issued with, the earlier `cfg.load`s and the last earlier `invoke` that it waits for before it enters the queue (06 R173), its step and row,
and its counters. -/
structure SeqInstr where
  fn : Nat
  cell : Nat
  xa : Word
  xb : Word
  ext : Nat
  cpl : Word
  entry : List Word
  loads : Nat
  after : Nat
  step : Nat
  row : Nat
  rowInts : List BElem
  rowSc : List BScale
  unitE : List Int
  fetched : List BElem
  fetchedSc : List BScale
  fault : Option (BitVec 10)
  nans : BitVec 32
  infs : BitVec 32
  ovfs : BitVec 32
  deriving DecidableEq, Repr

/-- A store held at a district's gateway (09 R279): the invocation and wave it belongs to, the place, and the bytes. -/
structure Held where
  inv : Nat
  wave : Nat
  peer : Nat
  pa : Nat
  va : Nat
  bytes : List Byte
  pois : Bool
  deriving DecidableEq, Repr

/-- A milestone wave asked for and not ended (06 R180): its number and completion object, whether it was asked for with no invocation
running, and whether it was complete at the end of an fc (09 R280, R281). -/
structure Mile where
  wave : Nat
  cpl : Word
  early : Bool
  full : Bool
  deriving DecidableEq, Repr

/-- The first fault of an invocation in an fc, until the end of that fc (09 R266): the invocation, the element that raised it, the cause
and CC_TVAL. -/
structure FaultDue where
  inv : Nat
  elem : Nat
  cause : BitVec 10
  tval : Nat
  deriving DecidableEq, Repr

/-- A district (06 R174, 09). `pushDone` lists the push links and boundary tracks that have carried a DONE, with the
invocation that it closed (09 R265); `faultMark` lists the elements that a fault mark of the gang has reached (09 R266); `pushOpen` lists
the push links in which a tile burst is open, as element and port, `pushMile` the milestones that wait there for its TAIL (02 R52), and
`fcFired` says that an element has fired in this fc (09 R262), `ctxNext` what the context counter takes at the end of the fc: position,
length, RUN (06 R179); `errAt` names the element of a region error, `errPois` says that it was
consumed poison (17 R401), and `snapStall` holds the stall counts that stood with the snapshots (17 R398). -/
structure District where
  rect : Rect
  thread : Nat
  core : Nat
  asid : BitVec 16
  supv : Bool
  gang : Nat
  ctxPos : Nat
  ctxLen : Nat
  ctxRun : Bool
  tick : Nat
  ctxNext : Option (Nat × Nat × Bool)
  cursor : Option (Nat × Nat)
  step : Nat
  staging : Option (List (Nat × Nat × W32))
  cfg : Option CfgRun
  cfgq : List CfgRun
  board : List (Nat × Nat × Nat)
  seqq : List SeqInstr
  invs : List Inv
  lastWave : Nat
  miles : List Mile
  complete : Nat
  tdown : Option Word
  hold : List Held
  gated : Bool
  stall : Nat
  faultMark : List Nat
  pushOpen : List (Nat × Nat)
  pushMile : List (Nat × Nat × Nat)
  fcFired : Bool
  snaps : List (Nat × SMap Elem)
  undo : List (Nat × W32 × Bool × Bool)
  canRoll : Bool
  errAt : Option Nat
  rolled : Bool
  needRoll : Bool
  faultDue : Option FaultDue
  snapStall : SMap Nat
  errPois : Bool
  pushDone : List (Nat × Nat × Nat)
  pushLog : SMap (List Token)
  pulled : SMap Nat
  pullDrop : SMap Nat
  deriving DecidableEq, Repr

/-- Who waits at a tagged word: a core's instruction, a memory node of an element, or another device's request. -/
inductive TagWho where
  | core (c : Nat)
  | node (elem k : Nat)
  | peer (n : Nat)
  deriving DecidableEq, Repr

/-- A request waiting at a tagged word, in order of arrival (05 R147): 0 take, 1 keep, 2 fill. -/
structure TagWait where
  who : TagWho
  place : Place
  op : Nat
  rd : Nat
  v : W32
  va : Nat
  from_ : Nat
  deriving DecidableEq, Repr

/-- An access sent to a page that is moving or to a peer, not performed yet (05 R142, R150; 13 R345): its core and thread, and
its operands as the instruction gives them. -/
structure Req where
  core : Nat
  thread : Nat
  place : Place
  va : Nat
  asid : Nat
  /-- 0 load, 1 store, 2 atomic, 3 tagged, 4 remote atomic, 5 snapshot, 6 the words of a completion object, with
  its tag full where `fn` is 1; `ws` holds the words of an `amo.vadd` or of a payload. The `fn` of a
  store is 1 where its thread has been told that it is lost, 2 where its data is poisoned. -/
  kind : Nat
  fn : Nat
  ws : List W32
  b : Word
  expect : Word
  width : Nat
  rd : Nat
  wait : Bool
  moved : Bool
  /-- The number of a remote atomic, whose packet names it; else 0. -/
  id : Nat
  deriving DecidableEq, Repr

/-- An operation of a DMA, binning or remote engine that has not ended (06 R189 to R196). `fill` is the fill that a replay has read
for the region which it has copied to the scratchpad and not yet written back (06 R194). -/
structure Engine where
  id : Nat
  kind : Nat
  core : Nat
  thread : Nat
  asid : BitVec 16
  supv : Bool
  cpl : Word
  near : Nat
  far : Nat
  ext : Nat
  len : Nat
  entry : List Word
  rect : Option Rect
  done : Nat
  stop : Bool
  fill : Option Nat
  deriving DecidableEq, Repr

/-- An update on its way to a binning engine (06 R193). -/
structure BinApp where
  core : Nat
  asid : BitVec 16
  supv : Bool
  desc : Nat
  addr : Nat
  v : W32
  deriving DecidableEq, Repr

/-- A lock record (14 R360 to R371): `addr` marks the implicit lock of an address line, which `name` then holds; `age` is its
thread's age, and `remote` says that its home is another device, which grants and wounds. -/
structure LockRec where
  space : BitVec 16
  name : Word
  addr : Bool
  remote : Bool
  thread : Nat
  age : Word
  mode : Nat
  implicit : Bool
  folded : Bool
  deriving DecidableEq, Repr

/-- A lock request on its way to its home or waiting there (14 R365). `line` names the line request that an escalation
stands for (14 R370), `remote` says that the home is another device, `try_` that it is a `lk.try`, `mat` is the matrix and the
threshold that its home engine held when it arrived (14 R363), and `wounded` lists the holders it has wounded (14 R367). -/
structure LockWait where
  space : BitVec 16
  name : Word
  addr : Bool
  thread : Nat
  core : Nat
  mode : Nat
  age : Word
  implicit : Bool
  line : Option Word
  try_ : Bool
  remote : Bool
  arrived : Bool
  mat : Nat × Nat
  wounded : List Nat
  deriving DecidableEq, Repr

/-- A wound (14 R367): the contested lock, the victim, when it left its home in ns, whether it has arrived, whether the thread
has taken it, whether it names implicit records only, and whether the victim has given the lock up since (14 R369). -/
structure Wound where
  space : BitVec 16
  name : Word
  addr : Bool
  thread : Nat
  at_ : Nat
  arrived : Bool
  taken : Bool
  implicit : Bool
  gone : Bool
  deriving DecidableEq, Repr

/-- A thread that has been killed, whose accesses on their way are performed before its transaction is undone and its locks are released
(12 R333; 14 R369, R373): the queue of its task, if it had one. -/
structure Dying where
  thread : Nat
  core : Nat
  tx : Tx
  q : Option Nat
  deriving DecidableEq, Repr

/-- A hub queue (12 R312 to R316). `tails` holds, for each lane, the slot of its ring that the next record takes. -/
structure Queue where
  base : BitVec 44
  log2size : BitVec 4
  asid : BitVec 16
  agestep : BitVec 8
  drops : BitVec 16
  state : Nat
  errNode : BitVec 16
  errCause : BitVec 10
  errFlags : BitVec 8
  lanes : SMap (List QRec)
  tails : SMap Nat
  deriving DecidableEq, Repr

/-- A gang in the hub's gang table (12 R324): its key, its size, the queue that its members entered, and they. -/
structure Gang where
  asid : BitVec 16
  gang : Nat
  size : Nat
  q : Nat
  members : List QRec
  deriving DecidableEq, Repr

/-- A decrement of a join counter that the hub has still to make (12 R325): counter address, space, mode of the thread
that made it, CANCEL, queue; or of a walker counter, named by its walk and path (12 R328). -/
structure Decr where
  join : Nat
  asid : BitVec 16
  supv : Bool
  cancel : Bool
  q : Nat
  walk : Option (Nat × Nat)
  deriving DecidableEq, Repr

/-- A path of a graph walk at a node, or waiting for that many tasks of the node, `left` of
which are still to be enqueued, with the successors that then follow (12 R328). -/
structure WPath where
  id : Nat
  node : Nat
  waiting : Nat
  left : Nat
  next : Nat
  alt : Nat
  deriving DecidableEq, Repr

/-- A graph walk (12 R328 to R330). -/
structure Walk where
  id : Nat
  rec_ : Rec
  q : Nat
  image : Nat
  nodes : Nat
  paths : List WPath
  passes : SMap Nat
  joins : SMap Nat
  stopped : Bool
  cancel : Bool
  deriving DecidableEq, Repr

/-- A task taken off its core by pre-emption (13 R352 to R355): the core it goes back to, its thread, its district
with the elements, switches and scratchpad of its blocks, the requests of its nodes that wait at words with the fc at
which it was saved, DHALT and DBRK, and the events that wait for its restoration. `group` is the same number in the tasks that were saved, and
are restored, as one (09 R256; 12 R324). -/
structure SavedTask where
  id : Nat
  group : Nat
  core : Nat
  t : Thread
  dist : Option District
  elems : SMap Elem
  switches : SMap Switch
  spad : TagMem
  allot : List (Nat × Nat × Nat)
  waits : List TagWait
  at_ : Nat
  boost : Bool
  dhalt : Bool
  dbrk : Bool
  evs : List AsyncEvent
  deriving DecidableEq, Repr

/-- A party whose access stands at a page that is moving, beside the requests that have left their issuer (13 R345): a core's
instruction or its fetch, a memory node, a unit, a matrix cell or a milestone of an element, an engine's operation, an update on
its way to a binning engine, a command of a district, the hub, or a quarter's migration that still serves its queue. -/
inductive Party where
  | core (c : Nat)
  | node (elem k : Nat)
  | elem (e : Nat)
  | engine (id : Nat)
  | bin (n : Nat)
  | dist (d : Nat)
  | hub
  | queue (q : Nat)
  deriving DecidableEq, Repr

/-- What a migration has queued, in order of arrival (13 R345 step 1). -/
inductive Queued where
  | req (r : Req)
  | party (p : Party)
  deriving DecidableEq, Repr

/-- A page migration under way in a quarter (13 R344, R345): the page, its homes, its leaf and where that stands, whose
completion object it has, the requests queued, the number refused with MOVED, and the parties among those; once the page is open, the
counts for the object, and whether the migration has moved the page. -/
structure Migration where
  asid : Nat
  va : Nat
  oldPeer : Nat
  oldPa : Nat
  newPeer : Nat
  newFrame : Nat
  leafAddr : Nat
  leaf : Nat
  core : Nat
  casid : BitVec 16
  cpl : Word
  queued : List Queued
  moved : Nat
  refused : List Party
  opened : Option (Nat × Nat × Bool)
  deriving DecidableEq, Repr

/-- What each quarter holds (13 R338, R343, R344, R357, R358; 17 R404). `msc` is what the quarter's memory-side cache holds of
peers' pages in local-caching mode (00 R1; 10 R284): lines of this device's own memory need no copy, since every access of
them goes through their one cache. -/
structure Quarter where
  msc : SMap MLine
  rtab : SMap (List Word)
  xlat : List XEnt
  migEvents : Nat
  mig0 : Word
  mig1 : Word
  mig2 : Word
  mig : Option Migration
  zmap : SMap Nat
  bdrop : SMap (BitVec 32)
  remapEn : Bool
  remapCol : BitVec 5
  rpBusy : Bool
  logBase : BitVec 44
  logN : BitVec 32
  sramce : BitVec 16
  sramue : BitVec 16
  hbmce : BitVec 16
  hbmue : BitVec 16
  parfix : BitVec 16
  rollback : BitVec 16
  trans : BitVec 16
  last : BitVec 16
  wheld : SMap (BitVec 26)
  deriving DecidableEq, Repr

/-- What a message of the clock group says, of those that a member takes in sequence order (14 R377). -/
inductive GcMsg where
  /-- A limit n from te on. -/
  | announce (n te : Nat)
  /-- The highest sequence number of an ANNOUNCE that the sender has sent. -/
  | heartbeat (top : W32)
  /-- The sender counts until tl. -/
  | leave (tl : Nat)
  /-- A member counts until tr. -/
  | silent (who tr : Nat)
  /-- Any other: nothing beyond its place in the sequence. -/
  | other
  deriving DecidableEq, Repr

/-- A member of the clock group as this device sees it (14 R376 to R381): its announcements in the order of their sequence numbers (the number,
n, te), when it counts, when it was heard last, the sequence number that comes next, the messages that have come ahead of a gap, whether missing ones have been
asked for, and whether this device has declared it silent. -/
structure Member where
  anns : List (Nat × Nat × Nat)
  tj : Nat
  gone : Option Nat
  heard : Nat
  next : W32
  early : List (W32 × GcMsg)
  asked : Bool
  told : Bool
  deriving DecidableEq, Repr

/-- The group clock controller (14 R375 to R383). `group` is the group this device belongs to or is pending in, `early` what members have sent
it between its JOIN and the STATE that answers it. -/
structure ClockGroup where
  group : Option Nat
  notice : Nat
  members : SMap Member
  tj : Nat
  leaving : Option Nat
  joinCore : Option Nat
  joinAt : Nat
  joinN : Nat
  seq : W32
  early : List (Nat × W32 × GcMsg)
  ann : Nat
  sent : Nat
  own : List (Nat × Nat)
  silent : BitVec 8
  late : BitVec 32
  silents : BitVec 16
  hbAt : Nat
  deriving DecidableEq, Repr

/-- A link (18 R409 to R411): the states of its lanes, its counters, the command under way (OP, lane, direction), the
commands that wait for a retraining with their writers, the directions that retrain, the sequence number that its receiver
expects with the failures in a row, and the flits of its replay buffer: those from `txAck` up to `txNext`. -/
structure Link where
  lanes : SMap Nat
  retry : BitVec 16
  dnab : Bool
  dnba : Bool
  cmd : Option (Nat × Nat × Nat)
  cmdWait : List (Nat × Word)
  retrain : List Nat
  rxNext : Nat
  fails : Nat
  txAck : Nat
  txNext : Nat
  deriving DecidableEq, Repr

/-- The regulator's registers and inputs (18 R418 to R420): the power cap in effect in W, as a fraction, the changes of
the cap that are to take effect with their times, the values that each device sent last (power, weight, budget, group), when this device sent
its own, and when each of the three limits was last settled. -/
structure Power where
  nth : Nat
  ncur : Nat
  ncap : Nat
  temp : Nat
  pwr : Nat
  emerg : Bool
  bmis : Bool
  capNow : Nat × Nat
  capNext : List (Nat × Nat × Nat)
  peers : SMap (Nat × Nat × Nat × Nat)
  shareAt : Nat
  thAt : Nat
  curAt : Nat
  capAt : Nat
  deriving DecidableEq, Repr

/-- A scale-out packet sent and not acknowledged (18 R417): the transfer that it carries, or the number of an atomic, with the other 0. -/
structure Packet where
  node : Nat
  seq : Nat
  tries : Nat
  sentAt : Nat
  engine : Nat
  req : Nat
  deriving DecidableEq, Repr

/-- The security processor and the hosts (18 R414 to R422). -/
structure Trust where
  owner : Nat
  stale : Bool
  beatAt : Nat
  evt : BitVec 16
  fail : BitVec 8
  fwok : Bool
  busy0 : Bool
  busy1 : Bool
  svn : Nat
  keyIx : Nat
  digest : BitVec 256
  entry : Word
  nonce : SMap Word
  rpt : SMap Word
  msix : Nat
  deriving DecidableEq, Repr

/-- A word or register whose next read finds an error (17 R393, R395; log entry 13): a line of device memory, a word of a
store cell or of local memory, a line of an instruction cache, a lane of a lane-store word, an accumulator word, a B
element or its scale, a held store, a line or an entry of a fibre buffer, a response in a landing buffer, a word of a lock record or of an
undo line, a word of a cached line of a peer page, a register of a core (0 to 31 are x, 32 to 39 are k), a lane of a working register of a
vector cell (16 × context + number), or a pipeline register of either. `again` says that the repaired read finds bad parity too. -/
inductive Upset where
  | dev (line : Nat)
  | spad (elem word : Nat)
  | loc (core word : Nat)
  | icache (core line : Nat)
  | lane (elem word lane : Nat)
  | acc (elem row n : Nat)
  | macroB (elem k n : Nat)
  | macroScale (elem k n : Nat)
  | held (dist n : Nat)
  | fibre (elem line : Nat)
  | fibreBuf (elem n : Nat)
  | landing (elem k n : Nat)
  | lockRec (n : Nat)
  | undo (core n : Nat)
  | lcache (line word : Nat)
  | reg (core r : Nat) (again : Bool)
  | work (elem r lane : Nat) (again : Bool)
  | corePipe (core : Nat) (again : Bool)
  | cellPipe (elem : Nat) (again : Bool)
  deriving DecidableEq, Repr

/-- What a read finds in a word (17 R393): no error, one bit, or two bits. -/
inductive Found where
  | none
  | one
  | two
  deriving DecidableEq, Repr

/-- What reaches this device from another of the domain (log entry 107). A thread of device d is number n there. -/
inductive PeerMsg where
  /-- A control message (04 R131): the sender's space, whether it runs in user mode, and its CC_TAGWAIT.BOUND, then the core, the index and the
  payload. -/
  | sig (space : BitVec 16) (user : Bool) (bound dst index : Nat) (payload : Word)
  /-- A store of bytes at an address of this device's memory (05 R142). -/
  | store (pa : Nat) (bytes : List Byte)
  /-- An atomic of w bytes at an address of this device's memory (05 R150 to R152); `ws` holds the words of an `amo.vadd`. -/
  | atomic (fn w pa : Nat) (b expect : Word) (ws : List W32)
  /-- A tagged operation at a word of this device's memory (05 R145, R147). -/
  | tagged (op pa : Nat) (v : W32)
  /-- A lock request of a thread whose lock's home is here (14 R360), explicit or implicit. -/
  | lock (d n : Nat) (space : BitVec 16) (name : Word) (addr : Bool) (mode : Nat) (age : Word) (implicit try_ : Bool)
  /-- The release of a thread's record here, and the withdrawal of its requests (05 R162, R163). -/
  | unlock (d n : Nat) (space : BitVec 16) (name : Word) (addr implicit : Bool)
  | withdraw (d n : Nat)
  /-- The answer of a lock's home to the n-th request of the queue, which this device has sent there: its status (05 R161). -/
  | granted (n status : Nat)
  /-- A wound that a lock's home sends to a thread of this device (14 R366, R367). -/
  | wound (thread : Nat) (space : BitVec 16) (name : Word) (addr implicit : Bool)
  /-- The revocation of a thread of this device by a lock's home (14 R369). -/
  | revoke (thread : Nat) (name : Word)
  /-- A command of UL_LCMD that the device at the other end of a link gives (18 R411). -/
  | linkCommand (v : Word)
  /-- The LEAVE of another device of the domain (18 R413). -/
  | leave (dev tm : Nat)
  /-- A departure that a member sends for a device all of whose links to it are down (18 R413). -/
  | departure (dev tm : Nat)
  /-- An acknowledgement of the flits of a link before a number (18 R409). -/
  | flitAck (link seq : Nat)
  /-- The state of the link between two devices of the domain, neither of them this one: has it a direction that is down (18 R408)? -/
  | linkState (a b : Nat) (down : Bool)
  deriving DecidableEq, Repr

/-- Which agent moves next (log entry 4): a control core, a machine event, the passing of some fc, one fc of everything
that moves of itself, an error that comes from outside (log entry 13), a message of another device (log entry 107), or a party that a
migration has held up. -/
inductive Turn where
  | core (c : Nat)
  | event (i : Instr)
  | pass (fc : Nat)
  | fabric
  | upset (u : Upset) (f : Found)
  | peer (m : PeerMsg)
  | party (p : Party)
  deriving DecidableEq, Repr

/-- The whole device. `ids` holds the identities of the devices of the domain (18 R413), and `farDown` the pairs of other devices whose link has a
direction down (18 R408). `weak` holds the words whose last read found an error, with whether it was one of two bits (17 R400). `pwaitBusy` names
the core whose task the hub pre-empts for priority, and `rankFirst` the candidate that the hub last saw first in rank, with the ns since then
(12 R323). -/
structure State where
  fc : Nat
  ns : Nat
  nsRem : Nat
  ceiling : Nat
  device : Nat
  cur : Nat
  agenda : List Turn
  freeIx : Nat
  cores : SMap CoreState
  dev : TagMem
  loc : TagMem
  spad : TagMem
  tid : SMap (List Word)
  tagq : List TagWait
  reqs : List Req
  sigs : List Msg
  icinv : List (Nat × Nat × Option Nat)
  quarters : SMap Quarter
  pins : List (List Word)
  hub : SMap Word
  elems : SMap Elem
  switches : SMap Switch
  allot : List (Nat × Nat × Nat)
  districts : SMap District
  nextInv : Nat
  nextThread : Nat
  nextId : Nat
  engines : List Engine
  bins : List BinApp
  locks : List LockRec
  lockq : List LockWait
  wounds : List Wound
  dying : List Dying
  weak : List (Upset × Bool)
  cmat : SMap (Nat × Nat)
  lmWounds : BitVec 32
  lmEscal : BitVec 16
  lmRevokes : BitVec 16
  queues : SMap Queue
  gangs : List Gang
  decrs : List Decr
  recWait : List QRec
  walks : List Walk
  saved : List SavedTask
  pwaitBusy : Option Nat
  rankFirst : Option (Nat × Nat × Nat)
  gc : ClockGroup
  links : SMap Link
  members : List Nat
  ids : SMap Nat
  farDown : List (Nat × Nat)
  memberAt : List (Nat × Nat × Bool)
  power : Power
  packets : List Packet
  peerSeq : SMap Nat
  trust : Trust
  deriving DecidableEq, Repr

/-- Why the machine stops. -/
inductive Fault where
  /-- Raised by a step whose agenda names a core that the part does not have (00 R1: 256 cores). Safe: no run of the
  part names one. -/
  | noSuchCore (c : Nat)
  deriving DecidableEq, Repr

/-- Why an instruction has no meaning. -/
inductive Refusal where
  /-- Raised by an arm of exec whose instruction has no meaning yet. Safe: nothing is claimed of it. -/
  | notModelled (mnemonic : String)
  deriving DecidableEq, Repr

/-! ## Reset -/

/-- CC_STATUS after reset: MODE 1, the rest 0 (03 R79). -/
def Status.reset : Status := ⟨0, false, false, false, false, true⟩

/-- CC_SSTATUS and CC_DSTATUS after reset: 0 (03 R79, R81). -/
def Status.zero : Status := ⟨0, false, false, false, false, false⟩

def Cause.zero : Cause := ⟨false, 0⟩
def HwLoop.zero : HwLoop := ⟨0, 0, 0⟩
def Barrier.zero : Barrier := ⟨0, 0, false⟩
def HandlerEntry.zero : HandlerEntry := ⟨0, false, false, 0⟩
def Tx.zero : Tx := ⟨0, 0, [], [], [], 0, 0⟩
def LaneVal.zero : LaneVal := ⟨0, false⟩
def Dyadic.zero : Dyadic := ⟨0, 0⟩

/-- The thread of a core after reset (03 R71, R77): every register zero but the fields whose map gives another value. -/
def Thread.reset (id : Nat) : Thread :=
  { id := id, x := [], k := [], q := [], bar := [], pc := 0, status := .reset, sstatus := .zero, cause := .zero,
    epc := 0, tval := 0, scratch := 0, iter := 0, asid := 0, age := 0, loop0 := .zero, loop1 := .zero,
    tagwait := 0x00100000, bind := [], tx := .zero, wait := .none, waitFrom := 0, synced := [], district := none, task := none }

/-- Core c after reset (03 R71, R75, R77; 13 R349; 18 R421: every core is held until firmware is accepted). -/
def CoreState.reset (c : Nat) : CoreState :=
  { t := .reset c, dcause := .zero, depc := 0, dtval := 0, dstatus := .zero, tvec := 0, msgOvf := false,
    handlers := [], delivery := [], unclaimed := [], events := [], icache := [], tlb := [],
    cstat := if c % 64 = 0 then 5 else 0, dbrk := false, dhalt := false, save := 0, snum := 0, lastAge := none,
    lastFc := 0, cycleBase := 0, held := true, regpar := false, restartPend := false, parity := [], replay := [], hw := none, met := [] }

def StreamUnit.zero : StreamUnit :=
  { open_ := false, fib := none, prev := none, ones := 0, last0 := none, last1 := none, seq0 := 0, seq1 := 0,
    seqOut := 0, acc := none, folded := false, ch := 0, pendStop := none, loaded := false, stop0 := false,
    buf := [], pos := 0, p := 0, n := 0, bits := [], skips := [], lines := [], used := [] }

/-- No B loaded and every accumulator word 0 (06 R199; log entry 1). -/
def Mat.zero : Mat :=
  { b := [], sc := [], sgroup := 32, kk := 0, clean := none, acc := [], row := 0, buf := [], bursts := 0,
    inBurst := false, out := [] }

def Node.zero : Node := ⟨none, [], 0⟩

/-- An element with every plane at its reset value (07 R207, 08 R234). -/
def Elem.reset : Elem :=
  { fields := [], inB := [], outB := [], outL := [], ctB := [], w := [], gen := [], ls := [], hsc := [],
    armed := none, branch := none, actCtx := [], finCtx := [], doneOut := [], burstIn := [], burstOut := [],
    counts := [], lastTick := 0, joined := none, fin := false, mile := 0, unit := .zero, mat := .zero, nodes := [],
    pend := [], lsLog := 0, accLog := 0, ctLog := [], parity := [], replay := [], nodeSet := [], tear := false,
    past := none, late := [], mileOut := [], ghost := [], arrived := [] }

def Switch.zero : Switch := ⟨[], [], [], [], [], [], []⟩

/-- A hub queue after reset: OFF and empty (12 R313 to R315). -/
def Queue.reset : Queue :=
  { base := 0, log2size := 0, asid := 0, agestep := 0, drops := 0, state := 0, errNode := 0, errCause := 0,
    errFlags := 0, lanes := [], tails := [] }

def Quarter.reset : Quarter :=
  { msc := [], rtab := [], xlat := [], migEvents := 0, mig0 := 0, mig1 := 0, mig2 := 0, mig := none, zmap := [], bdrop := [],
    remapEn := false, remapCol := 0, rpBusy := false, logBase := 0, logN := 0, sramce := 0, sramue := 0, hbmce := 0,
    hbmue := 0, parfix := 0, rollback := 0, trans := 0, last := 0, wheld := [] }

/-- No group; GC_CFG.SILENT 25 (14 R383); the limit that `gc.ann` sets is the highest until it is set (log entry 3). -/
def ClockGroup.reset : ClockGroup :=
  { group := none, notice := 0, members := [], tj := 0, leaving := none, joinCore := none, joinAt := 0, joinN := 0,
    seq := 0, early := [], ann := 56, sent := 56, own := [], silent := 25, late := 0, silents := 0, hbAt := 0 }

/-- A link after reset (18 R410): lanes 0 to 7 active AB, 8 to 15 active BA, 16 and 17 spare. -/
def Link.reset : Link :=
  { lanes := [(0, 1), (1, 1), (2, 1), (3, 1), (4, 1), (5, 1), (6, 1), (7, 1), (8, 2), (9, 2), (10, 2), (11, 2),
      (12, 2), (13, 2), (14, 2), (15, 2)],
    retry := 0, dnab := false, dnba := false, cmd := none, cmdWait := [], retrain := [], rxNext := 0, fails := 0,
    txAck := 0, txNext := 0 }

/-- The regulator after reset (18 R420): NTH, NCUR and NCAP 56, the rest 0; the cap in effect is 3,600 W (R418). -/
def Power.reset : Power :=
  { nth := 56, ncur := 56, ncap := 56, temp := 0, pwr := 0, emerg := false, bmis := false, capNow := (3600, 1),
    capNext := [], peers := [], shareAt := 0, thAt := 0, curAt := 0, capAt := 0 }

def Trust.reset : Trust :=
  { owner := 0, stale := false, beatAt := 0, evt := 0, fail := 0, fwok := false, busy0 := false, busy1 := false,
    svn := 0, keyIx := 0, digest := 0, entry := 0, nonce := [], rpt := [], msix := 0 }

def TagMem.empty : TagMem := ⟨[], [], []⟩

/-- The device right after reset (03 R71, R75, R77; 18 R421): every core held, no firmware accepted, memory with
nothing listed. A core, element, switch, queue, quarter or link that is not listed is in its own reset state. -/
def State.reset : State :=
  { fc := 0, ns := 0, nsRem := 0, ceiling := 56, device := 0xFF, cur := 0, agenda := [], freeIx := 0, cores := [],
    dev := .empty, loc := .empty, spad := .empty, tid := [], tagq := [], reqs := [], sigs := [],
    icinv := [], quarters := [], pins := [], hub := [], elems := [], switches := [], allot := [], districts := [],
    nextInv := 1, nextThread := 256, nextId := 1, engines := [], bins := [], locks := [], lockq := [], wounds := [], dying := [], weak := [],
    cmat := [], lmWounds := 0, lmEscal := 0, lmRevokes := 0, queues := [], gangs := [], decrs := [], recWait := [],
    walks := [], saved := [], pwaitBusy := none, rankFirst := none, gc := .reset, links := [], members := [], ids := [], farDown := [], memberAt := [],
    power := .reset, packets := [], peerSeq := [], trust := .reset }

end Sys2Proof.Machine
end

