-- ==== Sys2Proof/Machine/Store.lean ====
section
/-! DEFINITION. Finite maps, byte stores, and the reading and writing of memory with its tags (05 R144) and poison
marks (17 R394). -/

namespace Sys2Proof.Machine

/-! ## Finite maps -/

/-- The value of key k, if it is listed. -/
def mget? {α : Type} : SMap α → Nat → Option α
  | [], _ => none
  | (j, v) :: t, k => if j = k then some v else mget? t k

/-- The value of key k, or the map's default. -/
def mget {α : Type} (m : SMap α) (k : Nat) (d : α) : α := (mget? m k).getD d

/-- The map with key k at v; a sorted map stays sorted. -/
def mset {α : Type} : SMap α → Nat → α → SMap α
  | [], k, v => [(k, v)]
  | (j, w) :: t, k, v =>
    if k = j then (k, v) :: t else if k < j then (k, v) :: (j, w) :: t else (j, w) :: mset t k v

/-- The map without key k. -/
def mdel {α : Type} (m : SMap α) (k : Nat) : SMap α := m.filter (fun e => e.1 != k)

/-- Changes the value of key k. -/
def mupd {α : Type} (m : SMap α) (k : Nat) (d : α) (f : α → α) : SMap α := mset m k (f (mget m k d))

/-- Insertion into a strictly rising list. -/
def setIns : List Nat → Nat → List Nat
  | [], k => [k]
  | j :: t, k => if k = j then j :: t else if k < j then k :: j :: t else j :: setIns t k

/-- Removal from a list. -/
def setDel (l : List Nat) (k : Nat) : List Nat := l.filter (· != k)

/-- A list with its n-th element replaced. -/
def listSet {α : Type} : List α → Nat → α → List α
  | [], _, _ => []
  | _ :: t, 0, v => v :: t
  | a :: t, n + 1, v => a :: listSet t n v

/-- A list without its n-th element. -/
def listDel {α : Type} : List α → Nat → List α
  | [], _ => []
  | _ :: t, 0 => t
  | a :: t, n + 1 => a :: listDel t n

/-! ## Bytes -/

/-- The byte at address a; an unlisted address reads 0 (log entry 1). -/
def cellGet : List Host.Cell → Nat → Byte
  | [], _ => 0
  | (k, v) :: t, a => if k = a then v else cellGet t a

/-- Writes one byte and keeps the canonical form: writing 0 removes the entry. -/
def cellSet : List Host.Cell → Nat → Byte → List Host.Cell
  | [], a, b => if b = 0 then [] else [(a, b)]
  | (k, v) :: t, a, b =>
    if a < k then (if b = 0 then (k, v) :: t else (a, b) :: (k, v) :: t)
    else if a = k then (if b = 0 then t else (a, b) :: t)
    else (k, v) :: cellSet t a b

/-- The canonical form of a byte store: addresses strictly rising, and no byte that an unlisted address reads as. -/
def cellsWf : List Host.Cell → Bool
  | [] => true
  | [(_, v)] => v != 0
  | (k, v) :: (k', v') :: t => v != 0 && decide (k < k') && cellsWf ((k', v') :: t)

/-- A list of numbers is strictly rising. -/
def rising : List Nat → Bool
  | [] => true
  | [_] => true
  | a :: b :: t => decide (a < b) && rising (b :: t)

/-- The canonical form of a memory. -/
def Memory.wf (m : TagMem) : Bool := cellsWf m.cells && rising m.full && rising m.pois

/-- The number of little-endian bytes (00 R10). -/
def leNat : List Byte → Nat
  | [] => 0
  | b :: t => b.toNat + 256 * leNat t

/-- n little-endian bytes of a number (00 R10). -/
def toBytes : Nat → Nat → List Byte
  | 0, _ => []
  | n + 1, v => BitVec.ofNat 8 v :: toBytes n (v / 256)

/-- n bytes from address a. -/
def readBytes (cells : List Host.Cell) (a : Nat) : Nat → List Byte
  | 0 => []
  | n + 1 => cellGet cells a :: readBytes cells (a + 1) n

/-- Writes bytes from address a on. -/
def writeBytes (cells : List Host.Cell) : Nat → List Byte → List Host.Cell
  | _, [] => cells
  | a, b :: t => writeBytes (cellSet cells a b) (a + 1) t

/-! ## Tags and poison of a memory -/

/-- Is the tag of word index i full (05 R144)? -/
def tagFull (m : TagMem) (i : Nat) : Bool := m.full.contains i

def setTag (m : TagMem) (i : Nat) (f : Bool) : TagMem :=
  { m with full := if f then setIns m.full i else setDel m.full i }

def isPois (m : TagMem) (u : Nat) : Bool := m.pois.contains u

def setPois (m : TagMem) (u : Nat) (p : Bool) : TagMem :=
  { m with pois := if p then setIns m.pois u else setDel m.pois u }

/-- Writes one byte of device memory (17 R394): a clean byte that reaches a marked line zeroes the rest of the line
and clears the mark; a poisoned byte marks the line. -/
def devSetByte (m : TagMem) (a : Nat) (b : Byte) (p : Bool) : TagMem :=
  let line := a / 64
  if p then { setPois m line true with cells := cellSet m.cells a b }
  else if isPois m line then
    { setPois m line false with
      cells := cellSet (writeBytes m.cells (line * 64) (List.replicate 64 0)) a b }
  else { m with cells := cellSet m.cells a b }

/-- A store of bytes to device memory, one line's bytes after another (17 R394). -/
def devWrite (m : TagMem) (p : Bool) : Nat → List Byte → TagMem
  | _, [] => m
  | a, b :: t => devWrite (devSetByte m a b p) p (a + 1) t

/-- A store to one word or a part of it in an SRAM with word marks (17 R394): a clean write of the whole word, or in a
store cell of any part, clears the mark; a poisoned write sets it. -/
def sramWrite (m : TagMem) (whole : Bool) (a : Nat) (bs : List Byte) (p : Bool) : TagMem :=
  let m' := { m with cells := writeBytes m.cells a bs }
  let first := a / 4
  let last := (a + bs.length - 1) / 4
  (List.range (last + 1 - first)).foldl (fun n j =>
    let i := first + j
    if p then setPois n i true
    else if whole then (if a ≤ 4 * i ∧ 4 * i + 4 ≤ a + bs.length then setPois n i false else n)
    else setPois n i false) m'

/-! ## Places -/

/-- The key of a byte of local memory (03 R73: 32 KiB for each core). -/
def locKey (core off : Nat) : Nat := core * 32768 + off

/-- The key of a byte of a store cell's scratchpad (00 R3: 32 KiB for each). -/
def spadKey (elem off : Nat) : Nat := elem * 32768 + off

/-- The place n bytes further on. -/
def Place.plus : Place → Nat → Place
  | .dev a, n => .dev (a + n)
  | .peer d a, n => .peer d (a + n)
  | .loc c o, n => .loc c (o + n)
  | .spad e o, n => .spad e (o + n)
  | .hub o, n => .hub (o + n)

/-- The byte at a place of this device. A peer's byte and a hub register are not read here. -/
def placeByte (s : State) : Place → Byte
  | .dev a => cellGet s.dev.cells a
  | .loc c o => cellGet s.loc.cells (locKey c o)
  | .spad e o => cellGet s.spad.cells (spadKey e o)
  | .peer _ _ => 0
  | .hub _ => 0

/-- Does the byte at a place carry poison (17 R394)? -/
def placePois (s : State) : Place → Bool
  | .dev a => isPois s.dev (a / 64)
  | .loc c o => isPois s.loc (locKey c o / 4)
  | .spad e o => isPois s.spad (spadKey e o / 4)
  | .peer _ _ => false
  | .hub _ => false

/-- n bytes from a place on. -/
def placeRead (s : State) (p : Place) (n : Nat) : List Byte :=
  (List.range n).map (fun j => placeByte s (p.plus j))

def placeReadPois (s : State) (p : Place) (n : Nat) : Bool :=
  (List.range n).any (fun j => placePois s (p.plus j))

/-- Stores bytes at a place of this device (17 R394). -/
def placeWrite (s : State) (p : Place) (bs : List Byte) (pois : Bool) : State :=
  match p with
  | .dev a => { s with dev := devWrite s.dev pois a bs }
  | .loc c o => { s with loc := sramWrite s.loc true (locKey c o) bs pois }
  | .spad e o => { s with spad := sramWrite s.spad false (spadKey e o) bs pois }
  | .peer _ _ => s
  | .hub _ => s

/-- The tag of the 32-bit word at a place (05 R144). The tag of a marked store-cell word reads as full (17 R394). -/
def placeTag (s : State) : Place → Bool
  | .dev a => tagFull s.dev (a / 4)
  | .loc c o => tagFull s.loc (locKey c o / 4)
  | .spad e o => tagFull s.spad (spadKey e o / 4) || isPois s.spad (spadKey e o / 4)
  | _ => false

def placeSetTag (s : State) (p : Place) (f : Bool) : State :=
  match p with
  | .dev a => { s with dev := setTag s.dev (a / 4) f }
  | .loc c o => { s with loc := setTag s.loc (locKey c o / 4) f }
  | .spad e o => { s with spad := setTag s.spad (spadKey e o / 4) f }
  | _ => s

/-- A 32-bit or 64-bit word of this device's memory. -/
def dev32 (s : State) (a : Nat) : Nat := leNat (readBytes s.dev.cells a 4)
def dev64 (s : State) (a : Nat) : Nat := leNat (readBytes s.dev.cells a 8)

end Sys2Proof.Machine
end

