-- ==== Sys2Proof/Machine/Numbers.lean ====
section
/-! DEFINITION. Bit fields, sign extension, saturation, and the number formats and rounding of 01. -/

namespace Sys2Proof.Machine

/-! ## Integers -/

/-- Bits [hi:lo] of a word as a number (00 R10). -/
def bits (v : Word) (hi lo : Nat) : Nat := v.toNat / 2 ^ lo % 2 ^ (hi - lo + 1)

/-- Bit i of a word. -/
def bit (v : Word) (i : Nat) : Bool := v.toNat.testBit i

/-- The two's-complement value of the low n bits (00 R14, Int). -/
def sval (n v : Nat) : Int :=
  let u := v % 2 ^ n
  if u < 2 ^ (n - 1) then (u : Int) else (u : Int) - 2 ^ n

/-- Sext of the low n bits to 64 bits (00 R14). -/
def sext64 (n v : Nat) : Word := BitVec.ofInt 64 (sval n v)

/-- Wrap (04 R101). -/
def wrap64 (v : Int) : Word := BitVec.ofInt 64 v

/-- Sat to a signed width (01 R22). -/
def satI (w : Nat) (v : Int) : Int :=
  if v < -(2 ^ (w - 1) : Int) then -(2 ^ (w - 1) : Int)
  else if v > (2 ^ (w - 1) : Int) - 1 then (2 ^ (w - 1) : Int) - 1 else v

/-- Sat to an unsigned width (01 R22). -/
def satN (w : Nat) (v : Int) : Int := if v < 0 then 0 else if v > (2 ^ w : Int) - 1 then (2 ^ w : Int) - 1 else v

/-- The number of bits of a number: 0 for 0, else the index of its highest one bit plus 1. -/
def bitLen (n : Nat) : Nat := if n = 0 then 0 else n.log2 + 1

/-- Ceiling division. -/
def cdiv (a b : Nat) : Nat := (a + b - 1) / b

/-! ## Floating formats (01 R17) -/

/-- A floating format: exponent and significand widths, bias, the code of the largest finite value, whether it has
infinities, and its canonical NaN, if it has one (01 R17). -/
structure Fmt where
  e : Nat
  m : Nat
  bias : Nat
  max : Nat
  hasInf : Bool
  nan : Option Nat
  deriving DecidableEq, Repr

def fp32 : Fmt := ⟨8, 23, 127, 0x7F7FFFFF, true, some 0x7FC00000⟩
def fp16 : Fmt := ⟨5, 10, 15, 0x7BFF, true, some 0x7E00⟩
def bf16 : Fmt := ⟨8, 7, 127, 0x7F7F, true, some 0x7FC0⟩
def e4m3 : Fmt := ⟨4, 3, 7, 0x7E, false, some 0x7F⟩
def e5m2 : Fmt := ⟨5, 2, 15, 0x7B, true, some 0x7E⟩
def e2m1 : Fmt := ⟨2, 1, 1, 0x7, false, none⟩

/-- Width of a format's code without its sign bit. -/
def Fmt.mag (f : Fmt) : Nat := f.e + f.m

/-- The value of a code (01 R17). -/
def fval (f : Fmt) (code : Nat) : FVal :=
  let neg := decide (code / 2 ^ f.mag % 2 = 1)
  let c := code % 2 ^ f.mag
  if c > f.max then (if f.hasInf ∧ c = f.max + 1 then .inf neg else .nan)
  else
    let ex := c / 2 ^ f.m
    let fr := c % 2 ^ f.m
    if ex = 0 then .fin neg ⟨fr, 1 - f.bias - f.m⟩
    else .fin neg ⟨(2 ^ f.m + fr : Nat), (ex : Int) - f.bias - f.m⟩

/-- The rounding modes of 01 R27, by their codes in MOD and RMODE: 0 RNE, 1 RZ, 2 RU, 3 RD. -/
abbrev RMode := Nat

/-- Rounds a magnitude m × 2^e, with more below it when `st`, to a whole number of units 2^q. -/
def roundMag (neg : Bool) (m : Nat) (e q : Int) (st : Bool) (rm : RMode) : Nat :=
  if q ≤ e then m * 2 ^ (e - q).toNat
  else
    let sh := (q - e).toNat
    let n := m / 2 ^ sh
    let r := m % 2 ^ sh
    let half := 2 ^ (sh - 1)
    let exact := r = 0 ∧ ¬ st
    let up : Bool :=
      if exact then false
      else if rm = 0 then decide (r > half) || (decide (r = half) && (st || decide (n % 2 = 1)))
      else if rm = 1 then false
      else if rm = 2 then !neg
      else neg
    if up then n + 1 else n

/-- The code that a format gives an overflow (01 R27). `sat` saturates in every mode (01 R26 step 4). -/
def overflowCode (f : Fmt) (neg : Bool) (rm : RMode) (sat : Bool) : Nat :=
  if sat ∨ ¬ f.hasInf then f.max
  else if rm = 0 then f.max + 1
  else if rm = 1 then f.max
  else if rm = 2 then (if neg then f.max else f.max + 1)
  else (if neg then f.max + 1 else f.max)

/-- Round of a finite magnitude with a sign (01 R27). -/
def roundFin (f : Fmt) (neg : Bool) (m : Nat) (e : Int) (st : Bool) (rm : RMode) (sat : Bool) : Nat :=
  let sg := if neg then 2 ^ f.mag else 0
  if m = 0 ∧ ¬ st then sg
  else
    let qmin : Int := 1 - f.bias - f.m
    let q : Int := if e + bitLen m - 1 - f.m < qmin then qmin else e + bitLen m - 1 - f.m
    let n := roundMag neg m e q st rm
    let ef := (q + f.m + f.bias).toNat
    let code := if n < 2 ^ f.m then n else ef * 2 ^ f.m + (n - 2 ^ f.m)
    if code > f.max then sg + overflowCode f neg rm sat else sg + code

/-- Round of an exact number that is not zero, or of zero with a given sign (01 R27). -/
def roundDy (f : Fmt) (zneg : Bool) (v : Dyadic) (rm : RMode) : Nat :=
  if v.m = 0 then roundFin f zneg 0 0 false rm false
  else roundFin f (decide (v.m < 0)) v.m.natAbs v.e false rm false

def nanCode (f : Fmt) : Nat := f.nan.getD 0

/-- Round of any value: infinities and NaN under the table of 01 R27. -/
def roundV (f : Fmt) (v : FVal) (rm : RMode) : Nat :=
  match v with
  | .nan => nanCode f
  | .inf neg => (if neg then 2 ^ f.mag else 0) + (if f.hasInf then f.max + 1 else f.max)
  | .fin neg d => roundFin f neg d.m.natAbs d.e false rm false

/-! ## Exact arithmetic on dyadic numbers -/

def Dyadic.add (a b : Dyadic) : Dyadic :=
  if a.e ≤ b.e then ⟨a.m + b.m * 2 ^ (b.e - a.e).toNat, a.e⟩ else ⟨a.m * 2 ^ (a.e - b.e).toNat + b.m, b.e⟩

def Dyadic.mul (a b : Dyadic) : Dyadic := ⟨a.m * b.m, a.e + b.e⟩

def Dyadic.ofInt (i : Int) : Dyadic := ⟨i, 0⟩

def Dyadic.lt (a b : Dyadic) : Bool := decide ((Dyadic.add a ⟨-b.m, b.e⟩).m < 0)

/-- The signed exact number of a finite value. -/
def sdy (neg : Bool) (d : Dyadic) : Dyadic := if neg then ⟨-d.m, d.e⟩ else d

/-! ## Operations on FP32 (01 R18, R19; 07 R215) -/

def f32 (b : W32) : FVal := fval fp32 b.toNat
def w32 (n : Nat) : W32 := BitVec.ofNat 32 n
def fnan : W32 := 0x7FC00000
def finf (neg : Bool) : W32 := if neg then 0xFF800000 else 0x7F800000

/-- Is a value negative by its sign? -/
def FVal.neg? : FVal → Bool
  | .nan => false
  | .inf n => n
  | .fin n _ => n

def FVal.flip : FVal → FVal
  | .nan => .nan
  | .inf n => .inf (!n)
  | .fin n d => .fin (!n) d

/-- Round(a + b, fp32, rm), with the sign of an exact zero of 01 R27. -/
def vadd (a b : FVal) (rm : RMode) : W32 :=
  match a, b with
  | .nan, _ => fnan
  | _, .nan => fnan
  | .inf n, .inf k => if n = k then finf n else fnan
  | .inf n, .fin _ _ => finf n
  | .fin _ _, .inf k => finf k
  | .fin n x, .fin k y =>
    let zneg := if n = k then n else decide (rm = 3)
    w32 (roundDy fp32 zneg ((sdy n x).add (sdy k y)) rm)

/-- The exact product of two values; NaN for an infinity by zero. -/
def vmulx (a b : FVal) : FVal :=
  match a, b with
  | .nan, _ => .nan
  | _, .nan => .nan
  | .inf n, .inf k => .inf (n != k)
  | .inf n, .fin k y => if y.m = 0 then .nan else .inf (n != k)
  | .fin n x, .inf k => if x.m = 0 then .nan else .inf (n != k)
  | .fin n x, .fin k y => .fin (n != k) (x.mul y)

def fadd (a b : W32) (rm : RMode) : W32 := vadd (f32 a) (f32 b) rm
def fsub (a b : W32) (rm : RMode) : W32 := vadd (f32 a) (f32 b).flip rm
def fmul (a b : W32) (rm : RMode) : W32 := w32 (roundV fp32 (vmulx (f32 a) (f32 b)) rm)

/-- One rounding (01 R43). -/
def ffma (a b c : W32) (rm : RMode) : W32 := vadd (vmulx (f32 a) (f32 b)) (f32 c) rm
def ffnma (a b c : W32) (rm : RMode) : W32 := vadd (vmulx (f32 a) (f32 b)).flip (f32 c) rm

/-- Division, correctly rounded: 70 quotient bits and a sticky bit. -/
def fdiv (a b : W32) (rm : RMode) : W32 :=
  match f32 a, f32 b with
  | .nan, _ => fnan
  | _, .nan => fnan
  | .inf _, .inf _ => fnan
  | .inf n, .fin k _ => finf (n != k)
  | .fin n _, .inf k => w32 (roundFin fp32 (n != k) 0 0 false rm false)
  | .fin n x, .fin k y =>
    if y.m = 0 then (if x.m = 0 then fnan else finf (n != k))
    else
      let num := x.m.natAbs * 2 ^ 70
      w32 (roundFin fp32 (n != k) (num / y.m.natAbs) (x.e - y.e - 70) (decide (num % y.m.natAbs ≠ 0)) rm false)

/-- Integer square root by bits from 2^k down. -/
def isqrtAux (n : Nat) : Nat → Nat → Nat
  | 0, r => r
  | k + 1, r => let r' := r + 2 ^ k; isqrtAux n k (if r' * r' ≤ n then r' else r)

def isqrt (n : Nat) : Nat := isqrtAux n (bitLen n / 2 + 1) 0

def fsqrt (a : W32) (rm : RMode) : W32 :=
  match f32 a with
  | .nan => fnan
  | .inf n => if n then fnan else finf false
  | .fin n x =>
    if x.m = 0 then a
    else if n then fnan
    else
      let k : Nat := if x.e % 2 = 0 then 80 else 81
      let num := x.m.natAbs * 2 ^ k
      let r := isqrt num
      w32 (roundFin fp32 false r ((x.e - k) / 2) (decide (r * r ≠ num)) rm false)

/-- 2^(f / 2^n) × 2^160, truncated, for a fraction f below 2^n: the product of 2^(1/2), 2^(1/4), … over the one bits
of f, from the top; `root` is the current root × 2^160. -/
def exp2Frac : Nat → Nat → Nat → Nat → Nat
  | 0, _, _, acc => acc
  | n + 1, f, root, acc =>
    let root' := isqrt (root * 2 ^ 160)
    exp2Frac n f root' (if f.testBit n then acc * root' / 2 ^ 160 else acc)

/-- 2^a correctly rounded (07 R215). A fraction of at most 150 bits is exact in fixed point; the 160-bit result is far
more precise than any rounding boundary of FP32 needs, and a result that is not a power of two is never exact. -/
def fexp2 (a : W32) (rm : RMode) : W32 :=
  match f32 a with
  | .nan => fnan
  | .inf n => if n then 0 else finf false
  | .fin neg x =>
    if x.m = 0 then 0x3F800000
    else
      let v := sdy neg x
      if 0 ≤ v.e then
        let i := v.m * 2 ^ v.e.toNat
        let i' := if i > 1000 then 1000 else if i < -1000 then -1000 else i
        w32 (roundFin fp32 false 1 i' false rm false)
      else
        let n := (-v.e).toNat
        let i := v.m / 2 ^ n
        let f := (v.m % 2 ^ n).toNat
        let i' := if i > 1000 then 1000 else if i < -1000 then -1000 else i
        if f = 0 then w32 (roundFin fp32 false 1 i' false rm false)
        else if n ≤ 60 then w32 (roundFin fp32 false (exp2Frac n f (2 ^ 161) (2 ^ 160)) (i' - 160) true rm false)
        else if neg then w32 (roundFin fp32 false (2 ^ 100 - 1) (-100) true rm false)
        else w32 (roundFin fp32 false (2 ^ 100) (-100) true rm false)

/-- Order of two finite or infinite values, −0 below +0 when `zeros` (01 R19). -/
def vlt (zeros : Bool) (a b : FVal) : Bool :=
  match a, b with
  | .nan, _ => false
  | _, .nan => false
  | .inf n, .inf k => n && !k
  | .inf n, .fin _ _ => n
  | .fin _ _, .inf k => !k
  | .fin n x, .fin k y =>
    if x.m = 0 ∧ y.m = 0 then zeros && n && !k else (sdy n x).lt (sdy k y)

def isNan (a : W32) : Bool := f32 a == .nan

def fmin (a b : W32) : W32 := if isNan a || isNan b then fnan else if vlt true (f32 b) (f32 a) then b else a
def fmax (a b : W32) : W32 := if isNan a || isNan b then fnan else if vlt true (f32 a) (f32 b) then b else a

/-- The floating comparisons of 07 R215: 0 eq, 1 lt, 2 le, 3 un. -/
def fcmp (cc : Nat) (a b : W32) : Bool :=
  let un := isNan a || isNan b
  let lt := vlt false (f32 a) (f32 b)
  let gt := vlt false (f32 b) (f32 a)
  match cc with
  | 0 => !un && !lt && !gt
  | 1 => lt
  | 2 => !un && !gt
  | _ => un

/-- Round(x, integer) of a value, before Sat (01 R28). -/
def roundInt (v : FVal) (rm : RMode) : Option Int :=
  match v with
  | .nan => none
  | .inf _ => none
  | .fin n d => let r := roundMag n d.m.natAbs d.e 0 false rm; some (if n then -(r : Int) else (r : Int))

/-- Round(x, i<w>, rm) under 01 R28. -/
def roundSatI (w : Nat) (v : FVal) (rm : RMode) : Int :=
  match v with
  | .nan => 0
  | .inf n => if n then -(2 ^ (w - 1) : Int) else (2 ^ (w - 1) : Int) - 1
  | _ => satI w ((roundInt v rm).getD 0)

/-- The FP32 value of a narrower code, exact (07 R217); a NaN code gives the canonical NaN. -/
def widen (f : Fmt) (c : Nat) : W32 := w32 (roundV fp32 (fval f c) 0)

/-- The xorshift step of 01 R29. -/
def xorshift (s : W32) : W32 :=
  let s1 := s ^^^ (s <<< 13)
  let s2 := s1 ^^^ (s1 >>> 17)
  s2 ^^^ (s2 <<< 5)

/-- A lane's generator state for a seed (01 R29). -/
def seedLane (seed : W32) (lane : Nat) : W32 :=
  let v := seed ^^^ w32 (0x9E3779B9 * (lane + 1))
  if v = 0 then 0x6D2B79F5 else v

/-- Stochastic rounding of an FP32 value to BF16 with a 16-bit random number (01 R29). -/
def srBf16 (x : W32) (r : Nat) : Nat :=
  let mag := x.toNat / 2 ^ 16 % 2 ^ 15
  let mag' := if x.toNat % 2 ^ 16 + r ≥ 2 ^ 16 then mag + 1 else mag
  (if x.msb then 2 ^ 15 else 0) + mag' % 2 ^ 15

/-- Does 01 R29 round this value randomly? -/
def srRandom (x : W32) : Bool := !isNan x && decide (x.toNat % 2 ^ 31 ≠ 0x7F800000) && decide (x.toNat % 2 ^ 16 ≠ 0)

/-! ## Tensor formats (01 R16) -/

/-- Bits of one element of a format code; for NBk the number of planes. -/
def fmtBits (code : Nat) : Nat :=
  if code = 0 then 32 else if code = 1 ∨ code = 2 then 16
  else if code = 3 ∨ code = 4 ∨ code = 6 ∨ code = 7 then 8
  else if code = 5 ∨ code = 8 then 4
  else if code = 9 ∨ code = 0x0A ∨ code = 0x0E then 8
  else if code = 0x0B ∨ code = 0x0F then 16
  else if code = 0x0C ∨ code = 0x10 then 32
  else if code = 0x0D ∨ code = 0x11 then 64
  else if code ≤ 0x18 then code - 0x10
  else 4

def fmtIsNb (code : Nat) : Bool := decide (0x12 ≤ code ∧ code ≤ 0x18)
def fmtIsMx (code : Nat) : Bool := decide (6 ≤ code ∧ code ≤ 9)
def fmtIs4 (code : Nat) : Bool := code == 5 || code == 8 || code == 0x19

/-- The floating element format of a code, if it has one. -/
def fmtFloat (code : Nat) : Option Fmt :=
  match code with
  | 0 => some fp32
  | 1 => some fp16
  | 2 => some bf16
  | 3 => some e4m3
  | 4 => some e5m2
  | 5 => some e2m1
  | 6 => some e4m3
  | 7 => some e5m2
  | 8 => some e2m1
  | _ => none

/-- Bytes of n elements along dimension 0 from column 0 (01 R16, R23). -/
def rowBytes (code n : Nat) : Nat :=
  if fmtIsNb code then cdiv n 256 * 32 * fmtBits code else cdiv (n * fmtBits code) 8

end Sys2Proof.Machine
end

