-- ==== Sys2Proof/Machine/Ops.lean ====
section
/-! DEFINITION. The named operations over registers, the program counter, time, traps and the hub's event lines: what
every meaning is written with. Taking an exception is `enterTrap` (04 R124) and `doubleFault` (13 R348). -/

namespace Sys2Proof.Machine

/-! ## Cores and threads -/

def core (s : State) (c : Nat) : CoreState := mget s.cores c (.reset c)
def setCore (s : State) (c : Nat) (k : CoreState) : State := { s with cores := mset s.cores c k }
def updCore (s : State) (c : Nat) (f : CoreState → CoreState) : State := setCore s c (f (core s c))
def thr (s : State) (c : Nat) : Thread := (core s c).t
def updThr (s : State) (c : Nat) (f : Thread → Thread) : State := updCore s c (fun k => { k with t := f k.t })

/-- The core and the thread that run the current instruction. -/
def me (s : State) : CoreState := core s s.cur
def th (s : State) : Thread := (me s).t
def updMe (s : State) (f : Thread → Thread) : State := updThr s s.cur f

/-- The quarter of a core (03 R78). -/
def coreQuarter (c : Nat) : Nat := c / 64

/-- X[i]: x0 reads zero (03 R71). -/
def Thread.getX (t : Thread) (i : Nat) : Word := if i = 0 then 0 else mget t.x i 0

/-- A write to x0 is discarded (03 R71). -/
def Thread.setX (t : Thread) (i : Nat) (v : Word) : Thread := if i = 0 then t else { t with x := mset t.x i v }

/-- K[i]: k0 reads true (03 R71). -/
def Thread.getK (t : Thread) (i : Nat) : Bool := i == 0 || t.k.contains i

/-- A write to k0 is discarded (03 R71). -/
def Thread.setK (t : Thread) (i : Nat) (b : Bool) : Thread :=
  if i = 0 then t else { t with k := if b then setIns t.k i else setDel t.k i }

def rx (s : State) (i : Nat) : Word := (th s).getX i
def rk (s : State) (i : Nat) : Bool := (th s).getK i

/-- An instruction that has written register r, of the numbers of 17 R395, enters the replay queue, which holds the last 8; the register has
good parity. Writes to x0 and k0 are none. -/
def CoreState.wrote (k : CoreState) (r : Nat) : CoreState :=
  if r % 32 = 0 then k else { k with parity := mdel k.parity r, replay := (r :: k.replay).take 8 }

/-- A write of X[i]. -/
def wx (s : State) (i : Nat) (v : Word) : State := updCore s s.cur (fun c => { c.wrote i with t := c.t.setX i v })

/-- A write of K[i]. -/
def wk (s : State) (i : Nat) (b : Bool) : State := updCore s s.cur (fun c => { c.wrote (32 + i) with t := c.t.setK i b })

/-! ## The program counter and hardware loops -/

/-- An address of the program counter: bits [1:0] and [63:56] are zero (03 R71). -/
def pcOf (a : Nat) : Word := BitVec.ofNat 64 (a % 2 ^ 56 / 4 * 4)

def HwLoop.start4 (l : HwLoop) : Nat := l.start.toNat * 4

/-- END of an active level (04 R120). -/
def HwLoop.last (l : HwLoop) : Nat := l.start4 + 4 * l.body.toNat - 4

/-- Completion of an instruction of len bytes that transferred no control: the program counter moves past it and the
ends of the hardware loops are checked, the inner level first (04 R120). The thread waits for nothing afterwards. -/
def Thread.step (t : Thread) (len : Nat) : Thread :=
  let t := { t with wait := .none }
  let pc := t.pc.toNat
  let last := pc + len - 4
  let next := pcOf (pc + len)
  if t.loop1.body ≠ 0 ∧ last = t.loop1.last ∧ t.loop1.count ≠ 0 then
    { t with loop1 := { t.loop1 with count := t.loop1.count - 1 }, pc := pcOf t.loop1.start4 }
  else
    let t1 := if t.loop1.body ≠ 0 ∧ last = t.loop1.last then { t with loop1 := { t.loop1 with body := 0 } } else t
    if t1.loop0.body ≠ 0 ∧ last = t1.loop0.last then
      if t1.loop0.count ≠ 0 then
        { t1 with loop0 := { t1.loop0 with count := t1.loop0.count - 1 }, pc := pcOf t1.loop0.start4 }
      else { t1 with loop0 := { t1.loop0 with body := 0 }, pc := next }
    else { t1 with pc := next }

/-- The current instruction completes; len is 4, or 8 for the X format (03 R87). -/
def advance (len : Nat) (s : State) : State := updMe s (·.step len)

/-- A write of a register of a given core. -/
def wxCore (c i : Nat) (v : Word) (s : State) : State :=
  updCore s c (fun k => { k.wrote i with t := k.t.setX i v })

/-- A core's instruction completes at an event that ends its wait. -/
def advanceCore (c len : Nat) (s : State) : State := updThr s c (·.step len)

/-- Jump(t) to a checked or PC-relative target (04 R118). -/
def jump (t : Nat) (s : State) : State := updMe s (fun h => { h with pc := pcOf t, wait := .none })

/-- Does a wait count against CC_TAGWAIT.BOUND (05 R146)? -/
def Wait.timed (w : Wait) : Bool :=
  match w with
  | .again timer => timer
  | .tag => true
  | _ => false

/-- The thread waits in w; a wait that was counting against its bound goes on counting, and any other starts at its first
check (05 R146). -/
def Thread.waits (w : Wait) (fc : Nat) (t : Thread) : Thread :=
  { t with wait := w, waitFrom := if t.wait.timed then t.waitFrom else fc }

/-- The current instruction has had no effect and is issued again at the core's next turn. `timer` says that
CC_TAGWAIT.BOUND bounds its wait. -/
def spin (timer : Bool) (s : State) : State := updMe s (Thread.waits (.again timer) s.fc)

/-- The current instruction waits for an event that completes it. -/
def await (w : Wait) (s : State) : State := updMe s (Thread.waits w s.fc)

/-- What a read sees in the fields that hardware updates of itself: their values at the end of the fc before (03 R77). -/
def hwSeen (s : State) (c : Nat) : HwSeen :=
  let k := core s c
  let now : HwSeen := ⟨s.fc, k.t.status.txn, k.t.status.wpend, k.msgOvf, k.unclaimed.length, false⟩
  match k.hw with
  | some h => if h.fc = s.fc then h else now
  | none => now

/-- Hardware is about to update a field of core c of itself: what reads of this fc see stays as it is (03 R77); `ovf` says
that it sets OVF (03 R84). -/
def noteHw (c : Nat) (ovf : Bool) (s : State) : State :=
  updCore s c (fun k => { k with hw := some { hwSeen s c with ovfSet := (hwSeen s c).ovfSet || ovf } })

/-! ## Status words and traps -/

/-- CC_STATUS as a word (03 R79). -/
def Status.word (t : Status) : Word :=
  BitVec.ofNat 64 (t.prio.toNat * 256 + (if t.txn then 32 else 0) + (if t.wpend then 16 else 0) +
    (if t.intrap then 4 else 0) + (if t.ie then 2 else 0) + (if t.supv then 1 else 0))

/-- The fields of a status word (03 R79). -/
def Status.ofWord (w : Word) : Status :=
  ⟨BitVec.ofNat 2 (bits w 9 8), bit w 5, bit w 4, bit w 2, bit w 1, bit w 0⟩

/-- CC_CAUSE as a word (03 R80). -/
def Cause.word (k : Cause) : Word := BitVec.ofNat 64 ((if k.async then 4096 else 0) + k.code.toNat)

/-- Trap entry without the double-fault test (04 R124), at a given handler address. -/
def Thread.trap (t : Thread) (async : Bool) (code : BitVec 10) (tval iter epc : Word) (target : Nat) : Thread :=
  { t with
    sstatus := t.status, status := { t.status with supv := true, ie := false, intrap := true },
    cause := ⟨async, code⟩, epc := BitVec.ofNat 54 (epc.toNat / 4), tval := tval, iter := iter,
    pc := pcOf target, wait := .none }

/-- The entry address CC_TVEC.BASE : 0x00 (04 R124). -/
def CoreState.vector (k : CoreState) : Nat := k.tvec.toNat * 256

/-- EnterTrap of 04 R124 for a core, with epc at the instruction it would issue next. -/
def enterTrap (c : Nat) (async : Bool) (code : BitVec 10) (tval iter : Word) (s : State) : State :=
  updCore s c (fun k => { k with t := k.t.trap async code tval iter k.t.pc k.vector })

/-- Puts an asynchronous event before a core (04 R124). -/
def raise (c : Nat) (code : BitVec 10) (tval iter : Word) (s : State) : State :=
  updCore s c (fun k => { k with events := k.events ++ [⟨code, tval, iter⟩] })

/-- Raises an event at supervisor core 0 of Q0 (18 R423). -/
def raise0 (code : BitVec 10) (tval : Nat) (s : State) : State := raise 0 code (BitVec.ofNat 64 tval) 0 s

/-- Sets bits of HO_EVT, of which vector 0 tells the owner (18 R415, R416). -/
def hostEvent (m : BitVec 16) (s : State) : State :=
  { s with trust := { s.trust with evt := s.trust.evt ||| m,
                                   msix := if s.trust.owner = 0 then s.trust.msix else s.trust.msix + 1 } }

/-- DoubleFault of 13 R348: the shadows are written, the core stops, its supervisor and the owner host are told. -/
def doubleFault (c : Nat) (code : BitVec 10) (tval : Word) (s : State) : State :=
  let q := coreQuarter c
  let s1 := updCore s c (fun k =>
    { k with dcause := ⟨false, code⟩, depc := BitVec.ofNat 54 (k.t.pc.toNat / 4), dtval := tval,
             dstatus := k.t.status, cstat := 3, t := { k.t with wait := .none } })
  let s2 := if c = q * 64 then s1 else raise (q * 64) 0x381 (BitVec.ofNat 64 c) 0 s1
  hostEvent (BitVec.ofNat 16 (2 ^ (12 + q))) s2

/-- A synchronous cause at a core's current instruction: trap entry, or a double fault while CC_STATUS.INTRAP = 1
(04 R124). -/
def trapCore (c : Nat) (code : BitVec 10) (tval : Word) (s : State) : State :=
  if (thr s c).status.intrap then doubleFault c code tval s else enterTrap c false code tval 0 s

/-- A synchronous cause at the current instruction. -/
def trap (code : BitVec 10) (tval : Word) (s : State) : State := trapCore s.cur code tval s

/-! ## Parity of registers (17 R395, R400) -/

/-- Adds one to a saturating counter. -/
def satInc {n : Nat} (v : BitVec n) : BitVec n := if v = BitVec.allOnes n then v else v + 1

def quarter (s : State) (q : Nat) : Quarter := mget s.quarters q .reset
def updQuarter (s : State) (q : Nat) (f : Quarter → Quarter) : State :=
  { s with quarters := mset s.quarters q (f (quarter s q)) }

/-- Writes a record of the error log of a quarter and counts it (17 R405); without a ring nothing is written (17 R404). -/
def logError (q kind cause src : Nat) (isCore : Bool) (addr wave asid : Nat) (s : State) : State :=
  let k := quarter s q
  if k.logBase = 0 then s
  else
    let a := k.logBase.toNat * 4096 + 32 * (k.logN.toNat % 128)
    let d0 := kind * 2 ^ 56 + cause * 2 ^ 32 + (if isCore then 2 ^ 18 else 0) + src
    let s1 := if a < 2 ^ 39 then
        placeWrite s (.dev a) (toBytes 8 d0 ++ toBytes 8 addr ++ toBytes 8 s.ns ++ toBytes 8 (wave * 2 ^ 32 + asid)) false
      else s
    updQuarter s1 q (fun k => { k with logN := k.logN + 1 })

/-- A parity repair of a core is counted (17 R395, R400, R405). -/
def countCoreRepair (c r : Nat) (s : State) : State :=
  logError (coreQuarter c) 3 0 c true r 0 (thr s c).asid.toNat
    (updQuarter s (coreQuarter c) (fun q => { q with parfix := satInc q.parfix, trans := satInc q.trans }))

/-- Can bad parity of a register not be repaired: its producer has left the replay queue, or the repaired read finds bad parity again
(17 R395)? -/
def CoreState.unfit (k : CoreState) (r : Nat) : Bool :=
  match mget? k.parity r with
  | some again => again || !k.replay.contains r
  | none => false

/-- Repair from the replay queue of the registers that an instruction reads (17 R395): a register that cannot be repaired, or the state with
the repairs counted. -/
def parityFix (regs : List Nat) (s : State) : Except Nat State :=
  let c := s.cur
  match regs.find? (me s).unfit with
  | some r => .error r
  | none =>
    let bad := (regs.filter (fun r => (mget? (me s).parity r).isSome)).dedup
    .ok (bad.foldl (fun s r => countCoreRepair c r (updCore s c (fun k => { k with parity := mdel k.parity r }))) s)

/-- A repair of a core that fails: REGPAR, and the core halts for good (17 R395, R400). -/
def coreParityFail (c r : Nat) (s : State) : State :=
  let s1 := updQuarter s (coreQuarter c) (fun q => { q with last := satInc q.last })
  let s2 := logError (coreQuarter c) 5 0x0C2 c true r 0 (thr s c).asid.toNat s1
  updCore (doubleFault c 0x0C2 (BitVec.ofNat 64 r) s2) c (fun k => { k with regpar := true })

def parityFail (r : Nat) (s : State) : State := coreParityFail s.cur r s

/-! ## Issue -/

/-- The outcome type of a meaning. -/
abbrev Out := Host.Outcome State Fault Refusal

/-- Steps 4 and 5 of 03 R90 for an instruction of len bytes under guard g that reads the registers regs: a guard that
is false moves on to the next instruction and does nothing else, and so no other register of it is read (03 R91). -/
def issue (g len : Nat) (regs : List Nat) (s : State) (f : State → State) : Out :=
  .next (match parityFix [32 + g] s with
    | .error r => parityFail r s
    | .ok s' =>
      if rk s' g then
        match parityFix regs s' with
        | .error r => parityFail r s'
        | .ok s'' => f s''
      else advance len s')

/-- An instruction with no guard (03 R91: the B, J and U formats). -/
def issueB (regs : List Nat) (s : State) (f : State → State) : Out :=
  .next (match parityFix regs s with
    | .error r => parityFail r s
    | .ok s' => f s')

/-- Step 3 of 03 R90: in user mode a supervisor-only instruction raises PRIV with its first word in CC_TVAL. -/
def issueSupv (i : Instr) (g : Nat) (regs : List Nat) (s : State) (f : State → State) : Out :=
  if (th s).status.supv then issue g 4 regs s f
  else .next (trap 0x002 (BitVec.ofNat 64 ((encode i).headD 0)) s)

/-- Writes a register and completes. -/
def retX (rd : Nat) (v : Word) (s : State) : State := advance 4 (wx s rd v)

/-- Writes a predicate and completes. -/
def retK (rd : Nat) (b : Bool) (s : State) : State := advance 4 (wk s rd b)

/-! ## Time -/

/-- The ceiling step that the clock runs at: 0 under the emergency throttle (18 R420). -/
def clockStep (s : State) : Nat := if s.power.emerg then 0 else s.ceiling

/-- n fc pass: the fabric time advances by n periods of the clock, each of 80 / (32 + step) ns (00 R4, R8). -/
def pass (n : Nat) (s : State) : State :=
  let d := 32 + clockStep s
  let r := s.nsRem + 80 * n
  { s with fc := s.fc + n, ns := s.ns + r / d, nsRem := r % d }

/-- The ns of a boundary of 10 µs at or after t (14 R376, 18 R412). -/
def boundary (t : Nat) : Nat := cdiv t 10000 * 10000

/-- Draws a value that the spec leaves open (log entry 5). -/
def drawFree (s : State) : Word × State := (Config.free s.freeIx, { s with freeIx := s.freeIx + 1 })

/-! ## Ages (03 R82, 14 R361) -/

/-- The age that a request of the current core would set now (03 R82). -/
def newAge (s : State) : Word := BitVec.ofNat 64 (s.ns / 64 % 2 ^ 48 * 2 ^ 16 + s.device % 256 * 256 + s.cur % 256)

/-- Would the core issue an age with the TIME and CORE of the last one that it issued (14 R361)? -/
def ageTaken (s : State) : Bool :=
  match (me s).lastAge with
  | some a => bits a 63 16 == bits (newAge s) 63 16 && bits a 7 0 == bits (newAge s) 7 0
  | none => false

/-- CC_AGE is set, and the transaction's aborts count from then on (05 R164). -/
def Thread.setAge (a : Word) (t : Thread) : Thread := { t with age := a, tx := { t.tx with attempts := 0 } }

/-- Must a request wait for a new age (14 R361)? -/
def ageWaits (s : State) : Bool := (th s).age == 0 && ageTaken s

/-- The state in which a request with CC_AGE = 0 has set it (03 R82). -/
def aged (s : State) : State :=
  if (th s).age ≠ 0 then s
  else updCore s s.cur (fun k => { k with lastAge := some (newAge s), t := k.t.setAge (newAge s) })

/-- A request with CC_AGE = 0 first sets it (03 R82). A core never issues the same age twice: the request is issued again
until CC_TIME.NS div 64 has changed (14 R361). -/
def withAge (s : State) (f : State → State) : State := if ageWaits s then spin false s else f (aged s)

/-! ## Elements and districts -/

def elem (s : State) (e : Nat) : Elem := mget s.elems e .reset
def setElem (s : State) (e : Nat) (v : Elem) : State := { s with elems := mset s.elems e v }
def updElem (s : State) (e : Nat) (f : Elem → Elem) : State := setElem s e (f (elem s e))
def Elem.field (e : Elem) (f : Nat) : W32 := mget e.fields f 0

def updDist (s : State) (d : Nat) (f : District → District) : State :=
  match mget? s.districts d with
  | some k => { s with districts := mset s.districts d (f k) }
  | none => s

/-- The block of a position: quarter × 625 + block row × 25 + block column. -/
def blockId (q by_ bx : Nat) : Nat := q * 625 + by_ * 25 + bx
def blockQ (b : Nat) : Nat := b / 625
def blockY (b : Nat) : Nat := b % 625 / 25
def blockX (b : Nat) : Nat := b % 25

/-- An element address (02 R56): quarter in [17:16], y in [15:8], x in [7:0]. -/
def elemAddr (q y x : Nat) : Nat := q * 65536 + y * 256 + x
def elemQ (e : Nat) : Nat := e / 65536
def elemY (e : Nat) : Nat := e / 256 % 256
def elemX (e : Nat) : Nat := e % 256
def elemBlock (e : Nat) : Nat := blockId (elemQ e) (elemY e / 8) (elemX e / 8)

/-- Is a block inside a rectangle? -/
def Rect.has (r : Rect) (b : Nat) : Bool :=
  blockQ b == r.q && decide (r.by_ ≤ blockY b ∧ blockY b < r.by_ + r.h) && decide (r.bx ≤ blockX b ∧ blockX b < r.bx + r.w)

/-- The blocks of a rectangle. -/
def Rect.blocks (r : Rect) : List Nat :=
  (List.range r.h).flatMap (fun j => (List.range r.w).map (fun i => blockId r.q (r.by_ + j) (r.bx + i)))

/-- The address of the element at a relative position (02 R56). -/
def Rect.elem (r : Rect) (x y : Nat) : Nat := elemAddr r.q (r.by_ * 8 + y) (r.bx * 8 + x)

/-- A store cell stands where px + py is odd (02 R55). -/
def isStore (e : Nat) : Bool := (elemX e + elemY e) % 2 == 1

/-- The kinds of element (02 R55). -/
inductive Kind where
  | vector | matrix | scanner | merge | repeater | reducer | writer | store
  deriving DecidableEq, Repr

/-- The position map of every block (02 R55). -/
def elemKind (e : Nat) : Kind :=
  let px := elemX e % 8
  let py := elemY e % 8
  if (px + py) % 2 = 1 then .store
  else if px < 4 then .vector
  else if px < 6 then (if py < 6 then .matrix else .merge)
  else if py < 4 then .scanner
  else if py < 6 then .reducer
  else if py = 6 then .writer else .repeater

/-- The active elements of a block, lowest address first. -/
def blockElems (b : Nat) : List Nat :=
  (List.range 64).filterMap (fun j =>
    let e := elemAddr (blockQ b) (blockY b * 8 + j / 8) (blockX b * 8 + j % 8)
    if isStore e then none else some e)

/-- Is an element inside a district? -/
def District.hasElem (d : District) (e : Nat) : Bool := d.rect.has (elemBlock e)

/-- The elements of a district that are not in their reset state. -/
def distElems (s : State) (d : District) : List Nat := (s.elems.map Prod.fst).filter d.hasElem

/-- The district that holds a block. -/
def districtAt (s : State) (b : Nat) : Option Nat :=
  (s.districts.find? (fun p => p.2.rect.has b)).map Prod.fst

/-- The district of the current thread. -/
def myDist (s : State) : Option (Nat × District) :=
  match (th s).district with
  | some d => (mget? s.districts d).map (d, ·)
  | none => none

end Sys2Proof.Machine
end

