-- ==== Sys2Proof/Machine/Xlate.lean ====
section
/-! DEFINITION. Spaces and translation (13 R335 to R342), the access counters of MODE 2 pages (R343), and the check
order of a control core's access (05 R138 to R140). -/

namespace Sys2Proof.Machine

/-- Who translates: the quarter whose unit serves the access, the space, the mode, and the core when it is one. -/
structure Who where
  q : Nat
  asid : Nat
  supv : Bool
  core : Option Nat
  deriving DecidableEq, Repr

/-- The rights an access needs (13 R340). -/
structure Need where
  r : Bool
  w : Bool
  x : Bool
  deriving DecidableEq, Repr

def needR : Need := ⟨true, false, false⟩
def needW : Need := ⟨false, true, false⟩
def needRW : Need := ⟨true, true, false⟩
def needX : Need := ⟨false, false, true⟩

/-- Bytes of device memory at a home (13 R338). -/
def devTop : Nat := 2 ^ 39
/-- The hub register space (13 R336). -/
def hubBase : Nat := 2 ^ 40
def hubTop : Nat := 2 ^ 40 + 2 ^ 24

/-- The value of a plain hub register: its raw bits, 0 where nothing has been written (hub map of Hub.lean). -/
def hubRaw (s : State) (off : Nat) : Word := mget s.hub off 0

/-- XU_SPTAB (13 R336). -/
def sptabBase (s : State) : Nat := bits (hubRaw s 0x1F100) 55 22 * 2 ^ 22
def sptabLimit (s : State) : Nat := bits (hubRaw s 0x1F100) 15 0

/-- A space's descriptor (13 R335): its eight doublewords. -/
def spaceDesc (s : State) (asid : Nat) : List Nat :=
  (List.range 8).map (fun j => dev64 s (sptabBase s + 64 * asid + 8 * j))

def nthN (l : List Nat) (i : Nat) : Nat := l.getD i 0

/-- Bits [hi:lo] of a number. -/
def nb (v hi lo : Nat) : Nat := v / 2 ^ lo % 2 ^ (hi - lo + 1)

/-- Is the descriptor one that translation may use (13 R335)? -/
def descOk (s : State) (asid : Nat) : Bool :=
  let d := spaceDesc s asid
  let p := nb (nthN d 0) 63 56
  decide (asid ≤ sptabLimit s) && decide (nthN d 0 % 2 = 1) && decide (nb (nthN d 0) 7 1 = 0) &&
  (decide (p < 144) || p == 255) &&
  decide (nb (nthN d 1) 63 56 = 0 ∧ nb (nthN d 1) 10 0 = 0) &&
  decide (nb (nthN d 2) 63 56 = 0 ∧ nb (nthN d 2) 17 0 = 0) &&
  decide (nb (nthN d 3) 63 56 = 0 ∧ nb (nthN d 3) 11 0 = 0) &&
  (List.range 4).all (fun j => nthN d (4 + j) == 0)

/-- The zone of a space (13 R335). -/
def spaceZone (s : State) (asid : Nat) : Nat := nb (dev64 s (sptabBase s + 64 * asid)) 11 8
/-- The tensor-identifier table and the fault queue of a space (13 R335). -/
def spaceTidTab (s : State) (asid : Nat) : Nat := nb (dev64 s (sptabBase s + 64 * asid + 16)) 55 18 * 2 ^ 18
def spaceFq (s : State) (asid : Nat) : Nat := nb (dev64 s (sptabBase s + 64 * asid + 24)) 55 12 * 4096

/-- Is a device a current member of the domain (18 R412)? -/
def isMember (s : State) (d : Nat) : Bool := s.members.contains d

/-- Is a PEER value this device (13 R339)? -/
def isLocal (s : State) (p : Nat) : Bool := p == 255 || p == s.device

/-- Does a range entry cover an address: valid, BASE ≤ va < LIMIT, or malformed and so covering what its fields say. -/
def rangeCovers (e : List Word) (va : Nat) : Bool :=
  let d0 := e.getD 0 0
  let d1 := e.getD 1 0
  bit d0 0 && decide (bits d0 55 12 * 4096 ≤ va) && decide (va < bits d1 55 12 * 4096)

/-- Is a range entry malformed (13 R338, R342)? -/
def rangeBad (pinOk : Bool) (e : List Word) : Bool :=
  let d0 := e.getD 0 0
  let d1 := e.getD 1 0
  let d3 := e.getD 3 0
  bits d0 63 56 != 0 || bits d0 11 9 != 0 || bit d0 1 || decide (bits d0 8 7 ≥ 2) || (bit d0 6 && !pinOk) ||
  bits d1 63 56 != 0 || bits d1 11 0 != 0 || bits d3 55 0 != 0 || decide (bits d1 55 12 ≤ bits d0 55 12)

/-- The translation that a range entry gives an address's page (13 R338). -/
def rangeEnt (asid va : Nat) (e : List Word) : XEnt :=
  let d0 := e.getD 0 0
  let page := va / 4096 * 4096
  { asid := asid, va := page, log := 12, pa := (page + (e.getD 2 0).toNat) % 2 ^ 56, peer := bits (e.getD 3 0) 63 56,
    mode := bits d0 8 7, thr := 0, u := bit d0 5, x := bit d0 4, w := bit d0 3, r := bit d0 2, pin := false,
    rng := some (bits d0 55 12 * 4096, bits (e.getD 1 0) 55 12 * 4096), count := 0 }

/-- The physical side of an entry: the checks of 13 R338 and R339 on its home and address. -/
def entPlace (s : State) (e : XEnt) (va : Nat) : Except (BitVec 10) Place :=
  let pa := (e.pa + va % 2 ^ e.log) % 2 ^ 56
  if isLocal s e.peer then
    if pa < devTop then .ok (.dev pa)
    else if hubBase ≤ pa ∧ pa < hubTop then (if e.u then .error 0x046 else .ok (.hub (pa % 2 ^ 24)))
    else .error 0x046
  else if e.peer ≥ 144 ∨ ¬ isMember s e.peer then .error 0x047
  else if pa < devTop then .ok (.peer e.peer pa)
  else .error 0x046

/-- The permission checks of 13 R340, in their order; user mode has no right to a pinned entry, whatever its U bit (R342). -/
def permCheck (e : XEnt) (supv : Bool) (n : Need) : Option (BitVec 10) :=
  if !supv && (e.pin || !e.u) then some 0x045
  else if n.x && !e.x then some 0x044
  else if n.w && !e.w then some 0x043
  else if n.r && !e.r then some 0x042
  else none

/-- The last-level entry that a translation in a 64 KiB page uses (13 R341): its own, or where the 16 entries of the page
differ, the one that a free value picks among them (log entry 97). -/
def groupEntry (s : State) (a e : Nat) : Nat :=
  let base := a / 128 * 128
  if (List.range 16).all (fun j => dev64 s (base + 8 * j) == e) then e
  else
    let b := base + 8 * ((Config.free (s.freeIx + 5)).toNat % 16)
    if isPois s.dev (b / 64) then e else dev64 s b

/-- Is the PEER of a pointer 255, or this device's own number, which acts as 255 (13 R339)? -/
def pointerHere (s : State) (e : Nat) : Bool := isLocal s (nb e 63 56)

/-- A walk of the page tables (13 R339): level 0 is the top table. A pointer names its table's device by PEER 255: one that is
no member's is XPEER, and one that names another member is malformed (log entry 106). `ptLocal` says that the tables stand on this
device; a table of another device gives a free value (log entry 10). -/
def walk (s : State) (ptLocal : Bool) (asid va : Nat) : Nat → Nat → Nat → Except (BitVec 10) XEnt
  | 0, _, _ => .error 0x046
  | n + 1, level, table =>
    let ix := if level = 0 then va / 2 ^ 48 % 256 else va / 2 ^ (48 - 9 * level) % 512
    let a := table + 8 * ix
    if ptLocal ∧ a ≥ devTop then .error 0x046
    else if ptLocal ∧ isPois s.dev (a / 64) then .error 0x109
    else
      let own := if ptLocal then dev64 s a else (Config.free (s.freeIx + level)).toNat
      let e := if ptLocal ∧ level = 4 ∧ nb own 6 6 = 1 ∧ nb own 1 0 = 3 then groupEntry s a own else own
      if e % 2 = 0 then .error 0x041
      else if nb e 1 1 = 1 then
        let log := if level = 2 then 30 else if level = 3 then 21 else if nb e 6 6 = 1 then 16 else 12
        if level < 2 ∨ (level ≠ 4 ∧ nb e 6 6 = 1) ∨ nb e 8 7 = 3 then .error 0x046
        else .ok
          { asid := asid, va := va / 2 ^ log * 2 ^ log, log := log, pa := nb e 55 12 * 4096 / 2 ^ log * 2 ^ log,
            peer := nb e 63 56, mode := nb e 8 7, thr := nb e 11 9, u := e.testBit 5, x := e.testBit 4,
            w := e.testBit 3, r := e.testBit 2, pin := false, rng := none, count := 0 }
      else if level = 4 ∨ nb e 11 2 ≠ 0 then .error 0x046
      else if !pointerHere s e then (if nb e 63 56 ≥ 144 ∨ ¬ isMember s (nb e 63 56) then .error 0x047 else .error 0x046)
      else walk s ptLocal asid va n (level + 1) (nb e 55 12 * 4096)

def entCovers (e : XEnt) (asid va : Nat) : Bool := e.asid == asid && e.va == va / 2 ^ e.log * 2 ^ e.log

/-- Adds an entry to a cache of n; the entry that leaves a full cache is the part's choice (log entry 9). -/
def cacheAdd (n free : Nat) (l : List XEnt) (e : XEnt) : List XEnt :=
  if l.length < n then l ++ [e] else listDel l (Config.victim free % n) ++ [e]

/-- The pinned entries cover the address: the translation they give (13 R337, R342). -/
def pinLookup (s : State) (asid va : Nat) : Option (Except (BitVec 10) XEnt) :=
  match s.pins.find? (fun e => rangeCovers e va) with
  | none => none
  | some e => if rangeBad true e then some (.error 0x046) else some (.ok { rangeEnt asid va e with pin := true })

/-- The range table that a quarter's unit holds for a space, loaded when the space first translates there (13 R338). -/
def rangeTable (s : State) (q asid : Nat) : List Word × State :=
  match mget? (quarter s q).rtab asid with
  | some t => (t, s)
  | none =>
    let base := nb (dev64 s (sptabBase s + 64 * asid + 8)) 55 11 * 2048
    let t := (List.range 256).map (fun j => BitVec.ofNat 64 (dev64 s (base + 8 * j)))
    (t, updQuarter s q (fun k => { k with rtab := mset k.rtab asid t }))

/-- A lookup in the range table, then in the page tables, which a current member of the domain holds (13 R337, rules 2 and 3; R339). -/
def lookupFresh (s : State) (w : Who) (va : Nat) : Except (BitVec 10) XEnt × State :=
  if !descOk s w.asid then (.error 0x046, s)
  else
    let (t, s1) := rangeTable s w.q w.asid
    let ents := (List.range 64).map (fun j => (j, (t.drop (4 * j)).take 4))
    match ents.find? (fun p => rangeCovers p.2 va || (bit (p.2.getD 0 0) 0 && rangeBad (w.asid == 0 && decide (p.1 < 8)) p.2 &&
        decide (bits (p.2.getD 0 0) 55 12 * 4096 = va / 4096 * 4096))) with
    | some p =>
      if rangeBad (w.asid == 0 && decide (p.1 < 8)) p.2 then (.error 0x046, s1) else (.ok (rangeEnt w.asid va p.2), s1)
    | none =>
      let d := spaceDesc s1 w.asid
      let pt := nb (nthN d 0) 63 56
      let ptLocal := isLocal s1 pt
      if !ptLocal && !isMember s1 pt then (.error 0x047, s1)
      else (walk s1 ptLocal w.asid va 5 0 (nb (nthN d 0) 55 12 * 4096),
        { s1 with freeIx := s1.freeIx + 6 })

/-- The entry that translates an address for a party: its core's cache, its quarter's cache, or a fresh lookup, which
both then hold (13 R341). -/
def lookup (s : State) (w : Who) (va : Nat) : Except (BitVec 10) XEnt × State :=
  match pinLookup s w.asid va with
  | some r => (r, s)
  | none =>
    let inCore := match w.core with
      | some c => (core s c).tlb.find? (fun e => entCovers e w.asid va)
      | none => none
    match inCore with
    | some e => (.ok e, s)
    | none =>
      let rs : Except (BitVec 10) XEnt × State :=
        match (quarter s w.q).xlat.find? (fun e => entCovers e w.asid va) with
        | some e => (.ok e, s)
        | none =>
          match lookupFresh s w va with
          | (.ok e, s1) => (.ok e, { updQuarter s1 w.q (fun k => { k with xlat := cacheAdd 4096 s1.freeIx k.xlat e }) with
              freeIx := s1.freeIx + 1 })
          | (.error x, s1) => (.error x, s1)
      match rs, w.core with
      | (.ok e, s1), some c =>
        (.ok e, { updCore s1 c (fun k => { k with tlb := cacheAdd 64 s1.freeIx k.tlb e }) with freeIx := s1.freeIx + 1 })
      | rs, _ => rs

/-- Does a thread issue the instruction that it waits with again? -/
def Wait.isAgain (w : Wait) : Bool :=
  match w with
  | .again _ => true
  | _ => false

/-- Has the access at an address been counted already, when its instruction was issued before (13 R343)? -/
def counted (s : State) (w : Who) (va : Nat) : Bool :=
  match w.core with
  | some c => (thr s c).wait.isAgain && (core s c).met.contains va
  | none => false

/-- Notes that the access of a core at an address is counted. -/
def noteCounted (w : Who) (va : Nat) (s : State) : State :=
  match w.core with
  | some c => updCore s c (fun k => { k with met := (if k.t.wait.isAgain then k.met else []) ++ [va] })
  | none => s

/-- Counts an access through a MODE 2 leaf, once for a request; at the threshold the supervisor core of the quarter is told (13 R343). -/
def countAccess (w : Who) (va : Nat) (e : XEnt) (s0 : State) : State :=
  if e.mode ≠ 2 || counted s0 w va then s0
  else
    let s := noteCounted w va s0
    let q := w.q
    let k := quarter s q
    match k.xlat.find? (fun x => entCovers x e.asid e.va && x.mode == 2) with
    | none => s
    | some x =>
      let n := x.count + 1
      let hit := decide (n ≥ 2 ^ (x.thr + 8))
      let xl := k.xlat.map (fun y => if entCovers y e.asid e.va && y.mode == 2 then { y with count := if hit then 0 else n } else y)
      let s1 := updQuarter s q (fun k => { k with xlat := xl })
      if hit ∧ k.migEvents < 8 then
        raise (q * 64) 0x048 (BitVec.ofNat 64 (e.va / 4096 % 2 ^ 44 * 2 ^ 16 + e.asid)) 0
          (updQuarter s1 q (fun k => { k with migEvents := k.migEvents + 1 }))
      else s1

/-- Translates one address for an access (13 R337 to R343): the permission checks follow the walk and its checks of the
home and the physical address (R340). -/
def xlate (s : State) (w : Who) (va : Nat) (n : Need) (count : Bool) : Except (BitVec 10) Place × State :=
  match lookup s w va with
  | (.error x, s1) => (.error x, s1)
  | (.ok e, s1) =>
    match entPlace s1 e va with
    | .error x => (.error x, s1)
    | .ok p =>
      match permCheck e w.supv n with
      | some x => (.error x, s1)
      | none => (.ok p, if count then countAccess w va e s1 else s1)

/-- The mode of the page of an address, for a peer page in local-caching mode (13 R338, R339). -/
def pageMode (s : State) (w : Who) (va : Nat) : Nat :=
  match (lookup s w va).1 with
  | .ok e => e.mode
  | .error _ => 0

/-! ## The places of a control core's address (05 R138, R139) -/

def winBase : Nat := 0xFFFFFFF8000000
def winTop : Nat := 0xFFFFFFFC000000
def locBase : Nat := 0xFFFFFFFFFF0000
def locTop : Nat := 0xFFFFFFFFFF8000

/-- The offset of an address of the window from its base, which is a multiple of 2^27. -/
def winOff (va : Nat) : Nat := va % 2 ^ 27

/-- The offset of an address of local memory from its base, which is a multiple of 2^16. -/
def locOff (va : Nat) : Nat := va % 2 ^ 16

/-- The store cell and byte of a window offset in a district (05 R139): none when the block lies outside it. -/
def winPlace (r : Rect) (o : Nat) : Option Place :=
  let bx := nb o 22 20
  let by_ := nb o 25 23
  let sc := nb o 19 15
  let py := sc / 4
  let px := 2 * (sc % 4) + (if py % 2 = 0 then 1 else 0)
  if bx < r.w ∧ by_ < r.h then some (.spad (r.elem (bx * 8 + px) (by_ * 8 + py)) (nb o 14 0)) else none

/-- The result of checking an access: one place for each byte, or a cause with its CC_TVAL. -/
inductive Acc where
  | ok (ps : List Place)
  | fault (code : BitVec 10) (tval : Word)
  deriving DecidableEq, Repr

def coreWho (s : State) (c : Nat) : Who :=
  let t := thr s c
  ⟨coreQuarter c, t.asid.toNat, t.status.supv, some c⟩

/-- The region of an address: 0 device memory, 1 window, 2 local memory, 3 hole (05 R138). -/
def region (va : Nat) : Nat :=
  if va < winBase then 0 else if va < winTop then 1 else if locBase ≤ va ∧ va < locTop then 2 else 3

/-- The place of one byte for a core, or its cause (05 R139, R140 steps 1 and 3). -/
def bytePlace (s : State) (c va : Nat) (n : Need) (count : Bool) : Except (BitVec 10) Place × State :=
  match region va with
  | 0 => xlate s (coreWho s c) va n count
  | 1 =>
    match (thr s c).district with
    | none => (.error 0x107, s)
    | some d =>
      match mget? s.districts d with
      | none => (.error 0x107, s)
      | some k =>
        match winPlace k.rect (winOff va) with
        | none => (.error 0x106, s)
        | some p => (.ok p, s)
  | 2 => (.ok (.loc c (locOff va)), s)
  | _ => (.error 0x106, s)

/-- Does the leaf that translates an address start there? An access that crosses into it counts there too (13 R343). -/
def leafStart (s : State) (c va : Nat) : Bool :=
  match (lookup s (coreWho s c) va).1 with
  | .ok e => va == e.va
  | .error _ => false

/-- The bytes of an access after the first (05 R140 step 4). -/
def restPlaces (s : State) (c va r0 : Nat) (n : Need) : Nat → Nat → List Place → Acc × State
  | 0, _, acc => (.ok acc.reverse, s)
  | k + 1, j, acc =>
    let a := (va + j) % 2 ^ 56
    if region a ≠ r0 ∨ va + j ≥ 2 ^ 56 then (.fault 0x105 (BitVec.ofNat 64 a), s)
    else
      match bytePlace s c a n (region a == 0 && leafStart s c a) with
      | (.error _, s1) => (.fault 0x105 (BitVec.ofNat 64 a), s1)
      | (.ok p, s1) => restPlaces s1 c va r0 n k (j + 1) (p :: acc)

/-- The checks of 05 R140 on an access of w bytes at va; `strict` is set for atomics and tagged instructions, which
must be aligned everywhere. -/
def access (s : State) (c va w : Nat) (n : Need) (strict : Bool) : Acc × State :=
  let tv := BitVec.ofNat 64 va
  let r0 := region va
  let first := if r0 = 1 ∨ r0 = 3 then (bytePlace s c va n false).1 else .ok (.loc c 0)
  match first with
  | .error x => (.fault x tv, s)
  | .ok _ =>
    if va % w ≠ 0 ∧ (strict ∨ r0 = 1) then (.fault 0x104 tv, s)
    else
      match bytePlace s c va n true with
      | (.error x, s1) => (.fault x tv, s1)
      | (.ok p, s1) => restPlaces s1 c va r0 n (w - 1) 1 [p]

/-- The effective address of a memory operand (05 R138). -/
def effAddr (base : Word) (imm : Nat) : Nat := (base + sext64 12 imm).toNat % 2 ^ 56

/-- The address of an R-format operand (05 R138). -/
def addr56 (v : Word) : Nat := v.toNat % 2 ^ 56

/-- Bytes of a list of places. -/
def readPlaces (s : State) (ps : List Place) : List Byte := ps.map (placeByte s)
def poisPlaces (s : State) (ps : List Place) : Bool := ps.any (placePois s)

/-- Stores a byte list at a list of places; whole words of SRAM are written at once (17 R394). -/
def writePlaces (s : State) (ps : List Place) (bs : List Byte) (pois : Bool) : State :=
  match ps with
  | [] => s
  | p :: _ =>
    match p with
    | .loc c o => placeWrite s (.loc c o) bs pois
    | .spad e o => placeWrite s (.spad e o) bs pois
    | _ => (ps.zip bs).foldl (fun s x => placeWrite s x.1 [x.2] pois) s

def isPeer : Place → Bool
  | .peer _ _ => true
  | _ => false

def isHub : Place → Bool
  | .hub _ => true
  | _ => false

/-- The hub offset of an access, if it leads there. -/
def hubOff (ps : List Place) : Option Nat :=
  match ps with
  | .hub o :: _ => some o
  | _ => none

end Sys2Proof.Machine
end

