-- ==== Sys2Proof/Machine/Operands.lean ====
section
/-! DEFINITION. The operand forms of the instruction formats (03 R85, R86): immediates, branch offsets, extension words
and the fields of operand registers. Memory operands are `effAddr` and `addr56` of Xlate.lean. -/

namespace Sys2Proof.Machine

/-- Sext(IMM12, 64) (03 R85). -/
def imm12 (imm : Nat) : Word := sext64 12 imm

/-- IMM20 in bits [31:12] of a 32-bit value, sign-extended (03 R85, 04 R107). -/
def imm20 (imm : Nat) : Word := sext64 32 (imm % 2 ^ 20 * 2 ^ 12)

/-- A target relative to the instruction's address: PC + Sext(OFF, n) × 4, modulo 2^56 (03 R85, 04 R118). -/
def relTarget (s : State) (n ofs : Nat) : Nat := ((th s).pc + sext64 n ofs * 4).toNat % 2 ^ 56

/-- Zext(Next, 64) of an instruction of 4 bytes (04 R101, R116). -/
def nextPc (s : State) : Word := pcOf ((th s).pc.toNat + 4)

/-- The low 32 bits of a register (04 R103). -/
def lo32 (v : Word) : W32 := v.setWidth 32

/-- Sext of 32 bits, which loads, saturating sums and signed atomics write (04 R103, 05 R141). -/
def sx32 (v : Nat) : Word := sext64 32 v

/-- Bits [hi:lo] of the 64-bit number that an extension word and its high half make; the extension is 32 bits. -/
def extBits (ext hi lo : Nat) : Nat := nb (ext % 2 ^ 32) hi lo

end Sys2Proof.Machine
end

