-- ==== Sys2Proof/Machine/Flags.lean ====
section
/-! DEFINITION. The conditions that instructions compute: comparisons (04 R110, R111), predicate logic (R112), and the
fields of CC_STATUS (03 R79), CC_PRED (R82) and the loop registers (R83) as words. The machine has no other flags. -/

namespace Sys2Proof.Machine

/-- The comparisons of 04 R110. -/
inductive Cond where
  | eq | ne | ltI | geI | ltN | geN
  deriving DecidableEq, Repr

/-- Does the comparison hold? -/
def Cond.holds (c : Cond) (a b : Word) : Bool :=
  match c with
  | .eq => a == b
  | .ne => a != b
  | .ltI => decide (a.toInt < b.toInt)
  | .geI => decide (b.toInt ≤ a.toInt)
  | .ltN => decide (a.toNat < b.toNat)
  | .geN => decide (b.toNat ≤ a.toNat)

/-- CC_PRED (03 R82): bit i is ki, and k0 reads one. -/
def Thread.pred (t : Thread) : Word :=
  BitVec.ofNat 64 ((List.range 8).foldl (fun a i => if t.getK i then a + 2 ^ i else a) 0)

/-- A write of CC_PRED sets k1 to k7. -/
def Thread.setPred (t : Thread) (v : Word) : Thread :=
  { t with k := (List.range 8).filter (fun i => i != 0 && bit v i) }

/-- CC_LOOPn as a word, and a write of it (03 R83). -/
def HwLoop.word (l : HwLoop) : Word := BitVec.ofNat 64 (l.count.toNat * 2 ^ 32 + l.body.toNat)
def HwLoop.setWord (l : HwLoop) (v : Word) : HwLoop :=
  { l with count := BitVec.ofNat 32 (bits v 63 32), body := BitVec.ofNat 16 (bits v 15 0) }

/-- CC_LSTARTn as a word, and a write of it (03 R83). -/
def HwLoop.startWord (l : HwLoop) : Word := BitVec.ofNat 64 l.start4
def HwLoop.setStart (l : HwLoop) (v : Word) : HwLoop := { l with start := BitVec.ofNat 54 (bits v 55 2) }

end Sys2Proof.Machine
end

