-- ==== Sys2Proof/Machine/Entry.lean ====
section
/-! DEFINITION. Tensor-identifier entries: their fields (06 R186, R187), the addresses of elements and scales (01 R16,
R21, R23), and the span, the tiles and the lines that locks name (05 R160). -/

namespace Sys2Proof.Machine

/-- The fields of an entry (06 R186). -/
structure Ent where
  kind : Nat
  fmt : Nat
  rank : Nat
  levels : Nat
  sgroup : Nat
  nanz : Bool
  lt0 : Nat
  lt1 : Nat
  base : Nat
  sbase : Nat
  d0 : Nat
  d1 : Nat
  d2 : Nat
  d3 : Nat
  s1 : Nat
  s2 : Nat
  s3 : Nat
  deriving DecidableEq, Repr

/-- Reads the eight doublewords of an entry. -/
def Ent.ofWords (ws : List Word) : Ent :=
  let w (i : Nat) : Word := ws.getD i 0
  { kind := bits (w 0) 1 0, fmt := bits (w 0) 6 2, rank := bits (w 0) 8 7 + 1, levels := bits (w 0) 23 16,
    sgroup := 16 * 2 ^ bits (w 0) 25 24, nanz := bit (w 0) 26, lt0 := bits (w 0) 39 32, lt1 := bits (w 0) 47 40,
    base := bits (w 1) 55 0, sbase := bits (w 2) 55 0, d0 := bits (w 3) 31 0, d1 := bits (w 3) 63 32,
    d2 := bits (w 4) 31 0, d3 := bits (w 4) 63 32, s1 := bits (w 5) 47 0, s2 := bits (w 6) 47 0,
    s3 := bits (w 7) 47 0 }

/-- The key of an entry: 4,096 for each space (06 R186). -/
def tidKey (asid n : Nat) : Nat := asid * 4096 + n

/-- The eight doublewords of an entry; an entry never written is invalid (log entry 2). -/
def tidWords (s : State) (asid n : Nat) : List Word := mget s.tid (tidKey asid n) (List.replicate 8 0)
def tidEnt (s : State) (asid n : Nat) : Ent := Ent.ofWords (tidWords s asid n)

/-- An entry as an invocation of the space reads it: as it stood when its `invoke` issued (06 R188). -/
def Inv.words (v : Inv) (asid n : Nat) : List Word := mget v.tid (tidKey asid n) (List.replicate 8 0)
def Inv.ent (v : Inv) (asid n : Nat) : Ent := Ent.ofWords (v.words asid n)

/-- The entries of a space. -/
def spaceTids (s : State) (asid : Nat) : SMap (List Word) := s.tid.filter (fun p => p.1 / 4096 == asid)

def Ent.isTensor (e : Ent) : Bool := e.kind == 1

/-- The level of dimension d: 0 dense, 1 compressed, 2 bitmap (06 R186). -/
def Ent.level (e : Ent) (d : Nat) : Nat := e.levels / 4 ^ d % 4

/-- Dense at every level. -/
def Ent.dense (e : Ent) : Bool := e.levels == 0

/-- The flattened rows: DIM1 × DIM2 × DIM3. -/
def Ent.rows (e : Ent) : Nat := e.d1 * e.d2 * e.d3

/-- Byte offset of column c (01 R16, R23): for NBk the byte of plane 0, for a 4-bit format the byte that holds it. -/
def colOff (fmt c : Nat) : Nat :=
  if fmtIsNb fmt then c / 256 * (32 * fmtBits fmt) + c % 256 / 8 else c * fmtBits fmt / 8

/-- The last byte of column c. -/
def colLast (fmt c : Nat) : Nat :=
  if fmtIsNb fmt then colOff fmt c + 32 * (fmtBits fmt - 1) else colOff fmt c + (fmtBits fmt / 8 - 1)

/-- The first column whose offset is at or after x. -/
def colAt (fmt x : Nat) : Nat :=
  if fmtIsNb fmt then
    let b := 32 * fmtBits fmt
    if x % b ≤ 31 then x / b * 256 + 8 * (x % b) else (x / b + 1) * 256
  else if fmtIs4 fmt then 2 * x
  else cdiv x (fmtBits fmt / 8)

/-- Offset of row r from BASE: the flattened index, dimension 1 fastest (06 R186). -/
def Ent.rowOff (e : Ent) (r : Nat) : Nat := r % e.d1 * e.s1 + r / e.d1 % e.d2 * e.s2 + r / e.d1 / e.d2 * e.s3

/-- The address of element (r, c) (06 R186). -/
def Ent.addr (e : Ent) (r c : Nat) : Nat := (e.base + e.rowOff r + colOff e.fmt c) % 2 ^ 56

/-- The address of the scale of group g of row r, w bytes each (01 R21). -/
def Ent.scaleAddr (e : Ent) (w r g : Nat) : Nat := (e.sbase + (r * cdiv e.d0 e.sgroup + g) * w) % 2 ^ 56

/-- The values of an entry with a non-dense level (05 R160). -/
def Ent.values (e : Ent) : Nat := e.d0 * e.d1 * e.d2 * e.d3

/-- The bytes of the span that an entry's locks cover (05 R160). -/
def Ent.span (e : Ent) : Nat :=
  if e.dense then (e.d1 - 1) * e.s1 + (e.d2 - 1) * e.s2 + (e.d3 - 1) * e.s3 + colLast e.fmt (e.d0 - 1) + 1
  else colLast e.fmt (e.values - 1) + 1

/-- The indexes of a dimension of stride s and extent d whose elements, which reach L bytes past their start, can be the
lowest at or after an offset t. -/
def strideCands (d s L t : Nat) : List Nat :=
  if s = 0 then [0]
  else
    let lo := (t - L) / s
    let hi := min (t / s + 1) (d - 1)
    (List.range (hi + 1 - lo)).map (lo + ·)

/-- The lower of two elements: by offset, then by column, then by row. -/
def lowerEl (a b : Nat × Nat × Nat) : Nat × Nat × Nat :=
  if b.1 < a.1 ∨ (b.1 = a.1 ∧ (b.2.2 < a.2.2 ∨ (b.2.2 = a.2.2 ∧ b.2.1 < a.2.1))) then b else a

/-- The element (offset, row, column) with the lowest offset at or after t, if one follows (05 R160). -/
def Ent.elemAt (e : Ent) (t : Nat) : Option (Nat × Nat × Nat) :=
  let l0 := colOff e.fmt (e.d0 - 1)
  let l1 := l0 + (e.d1 - 1) * e.s1
  let l2 := l1 + (e.d2 - 1) * e.s2
  let cands := (strideCands e.d3 e.s3 l2 t).flatMap (fun i3 =>
    (strideCands e.d2 e.s2 l1 (t - i3 * e.s3)).flatMap (fun i2 =>
      (strideCands e.d1 e.s1 l0 (t - i3 * e.s3 - i2 * e.s2)).filterMap (fun i1 =>
        let b := i1 * e.s1 + i2 * e.s2 + i3 * e.s3
        let c := colAt e.fmt (t - b)
        if c < e.d0 ∧ b + colOff e.fmt c ≥ t then some (b + colOff e.fmt c, i1 + e.d1 * (i2 + e.d2 * i3), c) else none)))
  match cands with
  | [] => none
  | a :: l => some (l.foldl lowerEl a)

/-- The lock tile of an element of a dense entry (06 R186). -/
def Ent.tileOf (e : Ent) (r c : Nat) : Nat := r / 2 ^ e.lt1 * cdiv e.d0 (2 ^ e.lt0) + c / 2 ^ e.lt0

/-- The number of tiles (05 R160). -/
def Ent.tiles (e : Ent) : Nat :=
  if e.dense then cdiv e.d0 (2 ^ e.lt0) * cdiv e.rows (2 ^ e.lt1) else cdiv e.values (2 ^ (e.lt0 + e.lt1))

/-- The tile that line k lies under (05 R160). -/
def Ent.tileOfLine (e : Ent) (k : Nat) : Nat :=
  if e.dense then
    match e.elemAt (128 * k) with
    | some (_, r, c) => e.tileOf r c
    | none => e.tileOf (e.rows - 1) (e.d0 - 1)
  else
    let v := colAt e.fmt (128 * k)
    (if v < e.values then v else e.values - 1) / 2 ^ (e.lt0 + e.lt1)

/-! ## Lock names (05 R160) -/

def nameLevel (n : Word) : Nat := bits n 62 61
def nameTid (n : Word) : Nat := bits n 59 48
def nameIndex (n : Word) : Nat := bits n 47 0
def mkName (level tid ix : Nat) : Word := BitVec.ofNat 64 (2 ^ 63 + level * 2 ^ 61 + tid * 2 ^ 48 + ix)

/-- Is the word a lock name of a space (05 R160)? -/
def lockNameOk (s : State) (asid : Nat) (n : Word) : Bool :=
  let e := tidEnt s asid (nameTid n)
  bit n 63 && decide (nameLevel n < 3) && !bit n 60 && e.isTensor &&
  (if nameLevel n = 0 then nameIndex n == 0
   else if nameLevel n = 1 then decide (nameIndex n < e.tiles)
   else decide (128 * nameIndex n < e.span))

/-- The ancestors of a lock: its tensor, and for a line its tile (05 R160). -/
def ancestors (s : State) (asid : Nat) (n : Word) : List Word :=
  let t := nameTid n
  if nameLevel n = 0 then []
  else if nameLevel n = 1 then [mkName 0 t 0]
  else [mkName 0 t 0, mkName 1 t ((tidEnt s asid t).tileOfLine (nameIndex n))]

end Sys2Proof.Machine
end

