-- ==== Sys2Proof/Machine/Cache.lean ====
section
/-! DEFINITION. The lines of peers' pages in local-caching mode that this device's memory-side caches hold (00 R1, R3; 05
R156; 10 R284), and the regions that a thread binds to objects (05 R155). A line stands in one cache of the four, that of the
quarter which brought it, and every access of this device to it uses that copy (log entry 93). -/

namespace Sys2Proof.Machine

/-! ## The caches -/

/-- The 64-byte lines of a memory-side cache of 32 MiB (00 R3). -/
def mscLines : Nat := 524288

/-- The key of a cached line of a peer's page: the physical line of 64 bytes, whatever address or space reaches it. No line of another
place is cached, and its key is that of none. -/
def lcKey (p : Place) : Nat :=
  match p with
  | .peer d a => d * 2 ^ 50 + a / 64
  | _ => 2 ^ 64

/-- The first physical byte of a line at its home. -/
def lcPa (k : Nat) : Nat := k % 2 ^ 50 * 64

/-- The offset of a place in its line. -/
def lcOff (p : Place) : Nat :=
  match p with
  | .peer _ a => a % 64
  | _ => 0

/-- The quarter whose cache holds a line. -/
def lcHolder (s : State) (k : Nat) : Option Nat := (List.range 4).find? (fun q => (mget? (quarter s q).msc k).isSome)

/-- The cached line of a key, if a cache holds it. -/
def lcFind (s : State) (k : Nat) : Option MLine :=
  match lcHolder s k with
  | some q => mget? (quarter s q).msc k
  | none => none

/-- Changes the lines of every cache. -/
def lcEach (f : SMap MLine → SMap MLine) (s : State) : State :=
  { s with quarters := s.quarters.map (fun q => (q.1, { q.2 with msc := f q.2.msc })) }

/-- A line leaves its cache: its bytes, if it is dirty, go to the page's home, another device. -/
def lcDel (k : Nat) (s : State) : State := lcEach (fun m => mdel m k) s

/-- A line enters a full cache: which other leaves is the part's choice (log entry 9). -/
def mscAdd (free : Nat) (m : SMap MLine) (k : Nat) (l : MLine) : SMap MLine :=
  if m.length < mscLines then mset m k l else mset (listDel m (Config.victim free % mscLines)) k l

/-- Puts a line where a cache holds it, else into the cache of quarter q. -/
def lcPut (q k : Nat) (l : MLine) (s : State) : State :=
  match lcHolder s k with
  | some h => updQuarter s h (fun x => { x with msc := mset x.msc k l })
  | none => updQuarter { s with freeIx := s.freeIx + 1 } q (fun x => { x with msc := mscAdd s.freeIx x.msc k l })

/-- Restores a line to what a cache held of it, or to none. -/
def lcRestore (q : Nat) (e : Nat × Option MLine) (s : State) : State :=
  match e.2 with
  | some l => lcPut q e.1 l s
  | none => lcDel e.1 s

/-- The cached line of a place as an access finds it. A line may have left its cache for want of room, since lines of this
device's own memory take room there too: a free value says whether it has. -/
def cachedLine (s : State) (k : Nat) : Option MLine × State :=
  match lcFind s k with
  | none => (none, s)
  | some l =>
    let (f, s1) := drawFree s
    if bit f 0 then (none, lcDel k s1) else (some l, s1)

/-- A byte of a cached line, with its poison. -/
def lcByte (s : State) (p : Place) : Option (Byte × Bool) :=
  (lcFind s (lcKey p)).map (fun l => (l.bytes.getD (lcOff p) 0, l.marks.contains (lcOff p / 8)))

/-- A line after a byte is written at an offset. -/
def MLine.setByte (l : MLine) (o : Nat) (b : Byte) (pois : Bool) : MLine :=
  { bytes := listSet l.bytes o b, marks := if pois then setIns l.marks (o / 8) else l.marks, dirty := true }

/-- A byte that an engine or an element writes to a page in local-caching mode: the cached line takes it, where there is
one. -/
def lcStoreByte (p : Place) (b : Byte) (pois : Bool) (s : State) : State :=
  match lcFind s (lcKey p) with
  | some l => lcPut 0 (lcKey p) (l.setByte (lcOff p) b pois) s
  | none => s

/-- The words of 8 bytes of a line that n bytes written from an offset fill whole are clean (17 R394). -/
def MLine.clean (l : MLine) (o n : Nat) : MLine :=
  { l with marks := l.marks.filter (fun i => !decide (o ≤ 8 * i ∧ 8 * i + 8 ≤ o + n)) }

/-- A run of bytes that is written to a line of a peer's page is clean where it fills words. -/
def lcCleanAt (p : Place) (n : Nat) (s : State) : State :=
  match lcFind s (lcKey p) with
  | some l => lcPut 0 (lcKey p) (l.clean (lcOff p) n) s
  | none => s

/-- A run of bytes that an engine or the gateway writes over a cached line of a peer's page: the words that it fills are clean, or poisoned
with it (17 R394). -/
def lcStoreRun (p : Place) (bytes : List Byte) (pois : Bool) (s : State) : State :=
  ((List.range bytes.length).zip bytes).foldl (fun s b => lcStoreByte (p.plus b.1) b.2 pois s)
    (if pois then s else lcCleanAt p bytes.length s)

/-- Writes back the dirty lines that p names: they become clean (05 R156). Their bytes go to another device. -/
def lcWriteBack (p : Nat → Bool) (s : State) : State :=
  lcEach (fun m => m.map (fun e => if p e.1 then (e.1, { e.2 with dirty := false }) else e)) s

/-- Invalidates the clean lines that p names. -/
def lcInvalidate (p : Nat → Bool) (s : State) : State :=
  lcEach (fun m => m.filter (fun e => e.2.dirty || !p e.1)) s

/-- The lines of n bytes from a place of a peer leave: an atomic or a tagged operation is performed at the home (05 R150, R151). -/
def lcDrop (p : Place) (n : Nat) (s : State) : State :=
  let at_ := fun (k : Nat) => decide (lcKey p ≤ k ∧ k ≤ lcKey (p.plus (n - 1)))
  lcInvalidate at_ (lcWriteBack at_ s)

/-- The 64 bytes of an aligned line of a peer's page as a reader of this device finds them, with whether a word of them carries poison:
from a cached line, else from the peer, whose bytes this device cannot tell. -/
def peerLine (p : Place) (s : State) : List Byte × Bool × State :=
  match cachedLine s (lcKey p) with
  | (some l, s1) => (l.bytes, !l.marks.isEmpty, s1)
  | (none, s1) =>
    ((List.range 64).map (fun j => (Config.free (s1.freeIx + j)).setWidth 8), bit (Config.free (s1.freeIx + 64)) 0,
      { s1 with freeIx := s1.freeIx + 65 })

/-- A byte of a peer's memory, with its poison: this device cannot tell either. -/
def freeSeen (i : Nat) : Byte × Bool := ((Config.free i).setWidth 8, bit (Config.free i) 8)

/-- n bytes from a place of a peer, each with its poison, as a reader of this device finds them: from cached lines, else from the peer. -/
def peerBytes (p : Place) (n : Nat) (s : State) : List (Byte × Bool) × State :=
  ((List.range n).map (fun j => (lcByte s (p.plus j)).getD (freeSeen (s.freeIx + j))), { s with freeIx := s.freeIx + n })

/-- A whole line, with the words of 4 bytes that carry poison, written over a cached line of a peer's page, where a cache holds it. -/
def lcOverwrite (p : Place) (bs : List Byte) (pois : List Bool) (s : State) : Option State :=
  (lcFind s (lcKey p)).map (fun _ =>
    lcPut 0 (lcKey p) ⟨bs, (List.range 8).filter (fun i => pois.getD (2 * i) false || pois.getD (2 * i + 1) false), true⟩ s)

/-! ## Acquire and release (05 R155 to R157) -/

/-- The bind-table regions of a thread for an object. -/
def boundRegions (t : Thread) (o : Word) : List BindEntry := t.bind.filter (fun b => b.obj == o)

/-- Can a region of a bind entry reach a line? A page keeps the offset of a line in it, and so the region has an address of the line only
where one of its lines stands at that offset. Which page of the region is the line's, translation would have to say: every line that can be
meant counts (log entry 126). -/
def regionHits (b : BindEntry) (k : Nat) : Bool :=
  decide (b.base / 64 + (k % 64 + 64 - b.base / 64 % 64) % 64 ≤ (b.base + b.len - 1) / 64)

/-- Can a line be in a region that a thread has bound to an object? -/
def boundTo (t : Thread) (o : Word) (k : Nat) : Bool := (boundRegions t o).any (fun b => regionHits b k)

/-- A thread's acquire of an object (05 R156): at domain scope the cached lines of its bound regions are invalidated. A dirty
line is written back first, so that no store is lost. -/
def acquireBy (t : Thread) (o : Word) (sc : Nat) (s : State) : State :=
  if sc = 4 then lcInvalidate (boundTo t o) (lcWriteBack (boundTo t o) s) else s

/-- A thread's release of an object writes the dirty cached lines of its bound regions back (05 R156). -/
def releaseBy (t : Thread) (o : Word) (s : State) : State := lcWriteBack (boundTo t o) s

end Sys2Proof.Machine
end

