-- ==== Sys2Proof/Machine/LockCore.lean ====
section
/-! DEFINITION. The lock manager (14 R360 to R374) and the end of a transaction (05 R166, R167): records, the waiting
lists in age order, wounds, escalation, release and abort. -/

namespace Sys2Proof.Machine

/-! ## Modes (05 R159, 14 R364) -/

/-- Does mode a cover mode b (05 R159)? -/
def covers (a b : Nat) : Bool :=
  match a with
  | 0 => b == 0
  | 1 => b == 1 || b == 0 || b == 6
  | 2 => b == 2 || b == 0
  | 3 => b == 3 || b == 2 || b == 1 || b == 0 || b == 6
  | 4 => true
  | 5 => b == 5 || b == 6
  | _ => b == 6

/-- The first mode, in the order of 14 R370, that covers every mode of a list. -/
def coverAll (l : List Nat) : Nat := ([0, 6, 1, 2, 5, 3, 4].find? (fun m => l.all (covers m))).getD 4

/-- May a mode be asked at a level (05 R159)? -/
def modeAt (mode level : Nat) : Bool := level < 2 || mode == 2 || mode == 4 || mode == 5

/-- Does a held mode give rights over descendants (05 R161)? -/
def coversBelow (m : Nat) : Bool := m == 2 || m == 3 || m == 4 || m == 5

/-- The mode that each ancestor's mode must cover (05 R162 step 4). -/
def needAbove (m : Nat) : Nat := if m = 0 ∨ m = 2 then 0 else if m = 1 ∨ m = 3 ∨ m = 4 then 1 else 6

def defaultCmat : Nat := 0x00018F00002161CF

/-! ## Homes and matrices (14 R360, R363) -/

/-- The XOR of the 2-bit slices of a number of 2n bits (05 R151, 14 R360). -/
def xorSlices : Nat → Nat → Nat
  | 0, _ => 0
  | n + 1, v => v % 4 ^^^ xorSlices n (v / 4)

/-- The name of the implicit lock of an address line (14 R371): its physical line, and for a line of a peer the peer's number + 1
above bit 40. -/
def lineName (p : Place) : Word :=
  match p with
  | .dev a => BitVec.ofNat 64 (a / 128)
  | .peer d a => BitVec.ofNat 64 ((d + 1) * 2 ^ 40 + a / 128)
  | _ => 0

/-- Is the home of an address line another device (14 R360)? -/
def lineAway (name : Word) : Bool := bits name 63 40 != 0

/-- The sync engine of this device that is the home of a lock (14 R360): by s : T for the locks of a tensor, by the line's data
for an address line (05 R151). -/
def lockEngine (space : BitVec 16) (name : Word) (addr : Bool) : Nat :=
  if addr then xorSlices 16 (bits name 31 0) else xorSlices 14 (space.toNat * 4096 + nameTid name)

/-- The key of what an engine has read for a space. -/
def cmatKey (engine space : Nat) : Nat := engine * 65536 + space

/-- The matrix and the threshold that an engine reads for a space (14 R363). -/
def readCmat (s : State) (space : Nat) : Nat × Nat :=
  let r := hubRaw s 0x1F180
  let base := bits r 55 20 * 2 ^ 20 + 16 * space
  let d0 := dev64 s base
  let d1 := dev64 s (base + 8)
  if bit r 0 ∧ nb d1 16 16 = 1 ∧ d0 < 2 ^ 49 ∧ nb d1 63 17 = 0 ∧ nb d1 15 8 = 0 then (d0, nb d1 7 0)
  else (defaultCmat, 32)

/-- What an engine holds for a space, or would read at its first request. -/
def cmatOf (s : State) (engine space : Nat) : Nat × Nat := mget s.cmat (cmatKey engine space) (readCmat s space)

/-- Bit 7h + q of a matrix (14 R363). -/
def compat (m : Nat × Nat) (h q : Nat) : Bool := m.1.testBit (7 * h + q)

/-- A request arrives at its engine, which reads the space's entry at its first request; the entry as it then stands is the
request's (14 R363). -/
def arriving (w : LockWait) (s : State) : LockWait × State :=
  let e := lockEngine w.space w.name w.addr
  let m := cmatOf s e w.space.toNat
  ({ w with mat := m }, { s with cmat := mset s.cmat (cmatKey e w.space.toNat) m })

/-! ## Threads and records -/

/-- The cores, in order, that State lists. -/
def listedCores (s : State) : List Nat := s.cores.map Prod.fst

/-- The core that runs thread t now. -/
def coreOfThread (s : State) (t : Nat) : Option Nat :=
  match s.cores.find? (fun p => p.2.t.id == t) with
  | some p => some p.1
  | none => if t < 256 ∧ (core s t).t.id = t then some t else none

/-- The index of the saved task of thread t. -/
def savedOfThread (s : State) (t : Nat) : Option Nat :=
  s.saved.findIdx? (fun k => k.t.id == t)

/-- The state of a thread, on its core or saved. -/
def threadOf (s : State) (t : Nat) : Option Thread :=
  match coreOfThread s t with
  | some c => some (thr s c)
  | none => (s.saved.find? (fun k => k.t.id == t)).map (fun k => k.t)

/-- Changes a thread's state, on its core or saved. -/
def updThread (s : State) (t : Nat) (f : Thread → Thread) : State :=
  match coreOfThread s t with
  | some c => updThr s c f
  | none => { s with saved := s.saved.map (fun k => if k.t.id = t then { k with t := f k.t } else k) }

/-- Puts an event before a thread, which takes it on restoration when it is saved (14 R369). -/
def raiseThread (t : Nat) (code : BitVec 10) (tval iter : Word) (s : State) : State :=
  match coreOfThread s t with
  | some c => raise c code tval iter s
  | none => { s with saved := s.saved.map (fun k => if k.t.id = t then { k with evs := k.evs ++ [⟨code, tval, iter⟩] } else k) }

/-- Is a record one of a lock? The lock of an address line is that of its physical line, in whatever space (14 R371). -/
def LockRec.same (r : LockRec) (space : BitVec 16) (name : Word) (addr : Bool) : Bool :=
  (addr || r.space == space) && r.name == name && r.addr == addr
/-- Is a request one for a lock? -/
def LockWait.same (r : LockWait) (space : BitVec 16) (name : Word) (addr : Bool) : Bool :=
  (addr || r.space == space) && r.name == name && r.addr == addr

/-- The thread's record of a lock, of one kind. -/
def holdOf (s : State) (t : Nat) (space : BitVec 16) (name : Word) (addr implicit : Bool) : Option LockRec :=
  s.locks.find? (fun r => r.thread == t && r.same space name addr && r.implicit == implicit)

def recordsOf (s : State) (t : Nat) : List LockRec := s.locks.filter (fun r => r.thread == t)

/-- The thread's lock records that software counts: the explicit ones, folded ones included (05 R162, R165). -/
def explicitOf (s : State) (t : Nat) : List LockRec := s.locks.filter (fun r => r.thread == t && !r.implicit)

/-! ## Granting (14 R365) -/

/-- The lock records that a sync engine's 8 MiB hold, a line of 64 bytes each (log entry 108). -/
def engineRecords : Nat := 131072

/-- The records that an engine of this device keeps. -/
def recordsAt (s : State) (e : Nat) : Nat := (s.locks.filter (fun r => !r.remote && lockEngine r.space r.name r.addr == e)).length

/-- Has the engine room for the record of a request, in its SRAM or its overflow area, whose size no file gives? A thread that holds the lock
needs no new record (14 R360). -/
def hasRoom (s : State) (w : LockWait) : Bool :=
  (holdOf s w.thread w.space w.name w.addr w.implicit).isSome ||
  (let n := recordsAt s (lockEngine w.space w.name w.addr)
   decide (n < engineRecords) || decide (n < engineRecords + Config.overflowRecords (lockEngine w.space w.name w.addr)))

/-- May a request be granted as the lock and its engine stand? -/
def grantable (s : State) (w : LockWait) : Bool :=
  hasRoom s w &&
  s.locks.all (fun r => !r.same w.space w.name w.addr || r.thread == w.thread || r.folded || compat w.mat r.mode w.mode) &&
  s.lockq.all (fun v => !v.arrived || !v.same w.space w.name w.addr || v.thread == w.thread || decide (w.age.toNat ≤ v.age.toNat) ||
    compat w.mat w.mode v.mode)

/-- The record of a granted request. -/
def LockWait.record (w : LockWait) : LockRec := ⟨w.space, w.name, w.addr, w.remote, w.thread, w.age, w.mode, w.implicit, false⟩

/-- Makes the record of a granted request, or replaces the mode of the record it upgrades. -/
def putRecord (s : State) (w : LockWait) : State :=
  match holdOf s w.thread w.space w.name w.addr w.implicit with
  | some _ => { s with locks := s.locks.map (fun r =>
      if r.thread = w.thread ∧ r.same w.space w.name w.addr ∧ r.implicit = w.implicit then { r with mode := w.mode, folded := false } else r) }
  | none => { s with locks := s.locks ++ [w.record] }

/-- The tile of a line name. -/
def tileOfName (s : State) (space : BitVec 16) (n : Word) : Word :=
  mkName 1 (nameTid n) ((tidEnt s space.toNat (nameTid n)).tileOfLine (nameIndex n))

/-- The thread's line records of one kind under a tile that hold a mode (14 R370). -/
def linesUnder (s : State) (t : Nat) (space : BitVec 16) (tile : Word) (implicit : Bool) : List LockRec :=
  s.locks.filter (fun r => r.thread == t && r.space == space && !r.addr && r.implicit == implicit && !r.folded &&
    nameLevel r.name == 2 && tileOfName s space r.name == tile)

/-- The request of the tile that an escalation puts in the place of a line's (14 R370 step 1). -/
def tileRequest (s : State) (w : LockWait) : LockWait :=
  let tile := tileOfName s w.space w.name
  let modes := w.mode :: (linesUnder s w.thread w.space tile w.implicit).map (fun r => r.mode) ++
    ((holdOf s w.thread w.space tile false w.implicit).map (fun r => r.mode)).toList
  { w with name := tile, mode := coverAll modes, line := some w.name, wounded := [] }

/-- The escalation that a grantable request triggers (14 R370): the request of the tile that takes its place. -/
def escalation (s : State) (w : LockWait) : Option LockWait :=
  if w.addr ∨ nameLevel w.name ≠ 2 ∨ w.line.isSome then none
  else if (holdOf s w.thread w.space w.name false w.implicit).isSome then none
  else if w.mat.2 = 0 ∨ (linesUnder s w.thread w.space (tileOfName s w.space w.name) w.implicit).length + 1 ≤ w.mat.2 then none
  else some (tileRequest s w)

/-- Does a thread hold a lock by a record that holds a mode? -/
def holdsLock (s : State) (t : Nat) (space : BitVec 16) (name : Word) (addr : Bool) : Bool :=
  s.locks.any (fun r => r.thread == t && r.same space name addr && !r.folded)

/-- A wound whose victim no longer holds the contested lock has met its purpose: a later record of the lock is not revoked for it
(14 R369). -/
def settleWounds (s : State) : State :=
  { s with wounds := s.wounds.map (fun w => if holdsLock s w.thread w.space w.name w.addr then w else { w with gone := true }) }

/-- The tile takes its mode and the lines under it are folded (14 R370 step 3). -/
def foldLines (s : State) (w : LockWait) : State :=
  let s1 := putRecord s w
  let ls := linesUnder s1 w.thread w.space w.name w.implicit
  settleWounds { s1 with locks := s1.locks.map (fun r => if ls.contains r then { r with folded := true } else r) }

/-- A granted escalation, which LM_STAT.ESCAL counts (14 R362, R370). -/
def escalate (s : State) (w : LockWait) : State := { foldLines s w with lmEscal := satInc s.lmEscal }

/-- The destination of a request whose thread is still on its core and waits for it. -/
def waitRd (s : State) (w : LockWait) : Option Nat :=
  match (thr s w.core).wait with
  | .lock rd => if (thr s w.core).id = w.thread then some rd else none
  | _ => none

/-- A grant, explicit or implicit, acts as an acquire of the lock at domain scope, and an escalated one of the line and the tile (05 R157,
R162, R165). No region is bound to an address line. -/
def grantAcquire (w : LockWait) (s : State) : State :=
  match threadOf s w.thread with
  | some t => if w.addr then s else (w.name :: w.line.toList).foldl (fun s o => acquireBy t o 4 s) s
  | none => s

/-- Completes the instruction of a granted request with a status (05 R161); BUSY is no grant. An implicit request completes
nothing: its access is issued again. -/
def answerLock (w : LockWait) (status : Word) (s : State) : State :=
  let s1 := if status = 3 then s else grantAcquire w s
  match waitRd s w with
  | some rd => updThr s1 w.core (fun t => (t.setX rd status).step 4)
  | none => s1

/-- The victims of a waiting request: the younger holders that it is incompatible with and has not wounded, each once (14 R366,
R367). -/
def victims (w : LockWait) (s : State) : List Nat :=
  ((s.locks.filter (fun r => r.same w.space w.name w.addr && r.thread != w.thread && !r.folded && !compat w.mat r.mode w.mode &&
    decide (w.age.toNat < r.age.toNat) && !w.wounded.contains r.thread)).map (fun r => r.thread)).dedup

/-- The wound of a thread for a lock. It names implicit records only where the thread holds the lock by no explicit one. -/
def mkWound (s : State) (space : BitVec 16) (name : Word) (addr : Bool) (t : Nat) : Wound :=
  ⟨space, name, addr, t, s.ns, false, false,
    s.locks.all (fun r => !(r.thread == t && r.same space name addr && !r.folded) || r.implicit), false⟩

/-- A waiting request wounds its victims (14 R366, R367). -/
def sendWounds (w : LockWait) (s : State) : LockWait × State :=
  let vs := victims w s
  ({ w with wounded := w.wounded ++ vs },
   { s with wounds := s.wounds ++ vs.map (mkWound s w.space w.name w.addr), lmWounds := vs.foldl (fun n _ => satInc n) s.lmWounds })

/-- A request that cannot be granted joins the waiting list, which is kept in age order, and sends its wounds. -/
def queueLock (w : LockWait) (s : State) : State :=
  let (w1, s1) := sendWounds w s
  { s1 with lockq := s1.lockq ++ [{ w1 with arrived := true }] }

/-- A request at its home (14 R365, R370): granted, turned into an escalation, or queued. The Word is the status of one that is
answered. -/
def arriveLock (w0 : LockWait) (s : State) : Option Word × State :=
  let (w, s0) := arriving w0 s
  if grantable s0 w then
    match escalation s0 w with
    | none => (some 0, putRecord s0 w)
    | some t => if grantable s0 t then (some 1, escalate s0 t) else (none, queueLock t s0)
  else (none, queueLock w s0)

/-- One waiting request is granted, or turned into an escalation that waits. -/
def grantWaiting (w : LockWait) (s : State) : State :=
  let s1 := { s with lockq := s.lockq.filter (fun v => v != w) }
  if w.line.isSome then answerLock w 1 (escalate s1 w)
  else
    match escalation s1 w with
    | none => answerLock w 0 (putRecord s1 w)
    | some t => if grantable s1 t then answerLock t 1 (escalate s1 t) else queueLock t s1

/-- The oldest waiting request that may be granted now. -/
def nextGrant (s : State) : Option LockWait :=
  let ws := s.lockq.filter (fun w => w.arrived && !w.remote && grantable s w)
  match ws with
  | [] => none
  | w :: l => some (l.foldl (fun a b => if b.age.toNat < a.age.toNat then b else a) w)

/-- A waiting request wounds the younger holders that have come since it joined the list (14 R366). -/
def woundMore (s : State) : State :=
  s.lockq.foldl (fun s w =>
    if w.arrived && !w.remote && !(victims w s).isEmpty then
      let (w1, s1) := sendWounds w s
      { s1 with lockq := s1.lockq.map (fun v => if v = w then w1 else v) }
    else s) s

/-- The re-examination after a grant, a release or a withdrawal (14 R365): n rounds. -/
def regrant : Nat → State → State
  | 0, s => s
  | n + 1, s =>
    match nextGrant s with
    | none => s
    | some w => regrant n (grantWaiting w s)

def reexamine (s : State) : State := woundMore (regrant (2 * s.lockq.length) s)

/-- Releases records and re-examines the waiting requests. -/
def releaseIf (p : LockRec → Bool) (s : State) : State :=
  reexamine (settleWounds { s with locks := s.locks.filter (fun r => !p r) })

/-- Withdraws the requests of a thread (05 R162). -/
def withdrawLock (t : Nat) (s : State) : State :=
  if s.lockq.any (fun w => w.thread == t) then
    reexamine { s with lockq := s.lockq.filter (fun w => w.thread != t) }
  else s

/-! ## Transactions (05 R166, R167; 14 R372) -/

/-- Puts back the old bytes and marks of a line of 128 bytes. -/
def undoLine (s : State) (u : Nat × List Byte × Bool × Bool) : State :=
  let a := u.1 * 128
  { s with dev := setPois (setPois { s.dev with cells := writeBytes s.dev.cells a u.2.1 } (a / 64) u.2.2.1)
                    (a / 64 + 1) u.2.2.2 }

/-- Logs the old bytes of a line of this device before its first write in the transaction (05 R165). -/
def logLine (line : Nat) (t : Thread) (s : State) : Thread :=
  if t.tx.undo.any (fun u => u.1 == line) then t
  else
    let a := line * 128
    { t with tx := { t.tx with
        undo := (line, readBytes s.dev.cells a 128, isPois s.dev (a / 64), isPois s.dev (a / 64 + 1)) :: t.tx.undo } }

/-- Notes a line that the transaction writes at a peer, whose home logs its old bytes (05 R165). -/
def logAway (node line : Nat) (t : Thread) : Thread :=
  if t.tx.away.contains (node, line) then t else { t with tx := { t.tx with away := (node, line) :: t.tx.away } }

/-- Notes what a cache holds of a line of a peer's page before the transaction's first write to it there. -/
def logCached (s : State) (k : Nat) (t : Thread) : Thread :=
  if t.tx.cached.any (fun e => e.1 == k) then t else { t with tx := { t.tx with cached := (k, lcFind s k) :: t.tx.cached } }

/-- The lines that the undo logs of a transaction hold (05 R165). -/
def Tx.lines (x : Tx) : Nat := x.undo.length + x.away.length

/-- A transaction without its logs. -/
def Tx.closed (x : Tx) : Tx := { x with undo := [], away := [], cached := [] }

/-- The undo logs are applied: those of this device, newest first, and what its caches held of lines of peers (05 R166; 14
R372). The homes at peers apply their own. -/
def undoTx (q : Nat) (x : Tx) (s : State) : State := x.cached.foldl (fun s e => lcRestore q e s) (x.undo.foldl undoLine s)

/-! ## Wounds taken (14 R367, R368) -/

/-- The wounds that have reached a thread and that it has not taken. -/
def pendingWounds (s : State) (t : Nat) : List Wound := s.wounds.filter (fun w => w.thread == t && w.arrived && !w.taken)

/-- Takes the wounds of a thread that p names; WPEND clears when none is left to take (14 R367). -/
def takeWounds (t : Nat) (p : Wound → Bool) (s : State) : State :=
  let s1 := { s with wounds := s.wounds.map (fun w => if w.thread = t ∧ w.arrived ∧ p w then { w with taken := true } else w) }
  if (pendingWounds s1 t).isEmpty then updThread s1 t (fun h => { h with status := { h.status with wpend := false } }) else s1

/-- The thread has taken its wounds: WPEND clears (14 R367). -/
def clearWounds (t : Nat) (s : State) : State := takeWounds t (fun _ => true) s

/-- The thread's part of an abort (05 R166). -/
def Thread.abort (t : Thread) (reason code : Nat) : Thread :=
  let st := reason * 256 + code % 256
  { (t.setX t.tx.rd (BitVec.ofNat 64 st)) with
    status := { t.status with txn := false }, pc := pcOf t.tx.restart.toNat, wait := .none,
    tx := { t.tx.closed with attempts := t.tx.attempts + 1, last := BitVec.ofNat 12 st } }

/-- TxAbort of 05 R166 for a thread, on its core or saved (14 R372, R373): the undo, the release of the implicit locks, and
only then the grants. WPEND clears unless a wound on an explicit lock is still to be taken (R372). -/
def abortThread (tid reason code : Nat) (s : State) : State :=
  match threadOf s tid with
  | none => s
  | some t =>
    let s1 := undoTx (coreQuarter ((coreOfThread s tid).getD 0)) t.tx s
    let s2 := takeWounds tid (fun w => w.implicit) (updThread s1 tid (fun h => h.abort reason code))
    let s3 := { s2 with lockq := s2.lockq.filter (fun w => w.thread != tid) }
    releaseIf (fun r => r.thread == tid && r.implicit) s3

/-- TxAbort for the current thread. -/
def txAbort (reason code : Nat) (s : State) : State := abortThread (th s).id reason code s

/-- Inside a transaction an instruction of 05 R166 reason 3 aborts it instead of taking effect. -/
def noTx (f : State → State) (s : State) : State := if (th s).status.txn then txAbort 3 0 s else f s

/-- The names of the locks of tensors that a thread's transaction has written under: its implicit records in X. -/
def linesWritten (s : State) (t : Nat) : List Word :=
  (s.locks.filter (fun r => r.thread == t && r.implicit && !r.addr && r.mode == 4)).map (fun r => r.name)

/-- The commit releases every line written in the transaction (05 R157): the lines of local-caching pages that it wrote, and the
regions bound to the lines' locks, are written back. -/
def releaseWritten (c : Nat) (s : State) : State :=
  let t := thr s c
  let s1 := lcWriteBack (fun k => t.tx.cached.any (fun e => e.1 == k)) s
  (linesWritten s t.id).foldl (fun s o => releaseBy t o s) s1

/-- The commit (05 R167): the logs are discarded, the implicit locks released, the status written. -/
def commitTx (c rd : Nat) (s : State) : State :=
  let t := thr s c
  releaseIf (fun r => r.thread == t.id && r.implicit)
    (updThr (releaseWritten c s) c (fun h => ({ h with status := { h.status with txn := false }, tx := h.tx.closed }.setX rd 0).step 4))

end Sys2Proof.Machine
end

