-- ==== Sys2Proof/Machine/System.lean ====
section
/-! DEFINITION. The system instructions: majors 0x50, 0x51, 0x52 and 0x7F (04 R122 to R129, R135, R136). -/

namespace Sys2Proof.Machine

/-! ## System registers (03 R76 to R84) -/

/-- Is the number one of 03 R76? -/
def sysKnown (n : Nat) : Bool :=
  decide (n ≤ 0x008) || decide (0x010 ≤ n ∧ n ≤ 0x013) || decide (0x020 ≤ n ∧ n ≤ 0x024) ||
  decide (0x030 ≤ n ∧ n ≤ 0x033) || n == 0x040 || n == 0x041

/-- May user mode read it? -/
def sysUserRead (n : Nat) : Bool :=
  n == 0 || n == 1 || decide (0x021 ≤ n ∧ n ≤ 0x024) || decide (0x030 ≤ n ∧ n ≤ 0x033)

/-- May user mode write it? -/
def sysUserWrite (n : Nat) : Bool := n == 0x024 || decide (0x030 ≤ n ∧ n ≤ 0x033)

/-- CC_ID of core c (03 R78). -/
def ccId (s : State) (c : Nat) : Word :=
  BitVec.ofNat 64 (s.device % 256 * 65536 + c % 256 * 256 + (if c % 64 = 0 then 128 else 0) + 1)

/-- The value of system register n of core c, as `mfs` in supervisor mode gives it. Fields that hardware updates of itself read
as they stood at the end of the fc before (03 R77). -/
def sysRead (c n : Nat) (s : State) : Word :=
  let k := core s c
  let t := k.t
  let h := hwSeen s c
  match n with
  | 0x000 => ccId s c
  | 0x001 => { t.status with txn := h.txn, wpend := h.wpend }.word
  | 0x002 => t.sstatus.word
  | 0x003 => t.cause.word
  | 0x004 => BitVec.ofNat 64 (t.epc.toNat * 4)
  | 0x005 => t.tval
  | 0x006 => BitVec.ofNat 64 (t_vec k)
  | 0x007 => t.scratch
  | 0x008 => t.iter
  | 0x010 => k.dcause.word
  | 0x011 => BitVec.ofNat 64 (k.depc.toNat * 4)
  | 0x012 => k.dtval
  | 0x013 => k.dstatus.word
  | 0x020 => BitVec.ofNat 64 t.asid.toNat
  | 0x021 => t.age
  | 0x022 => BitVec.ofNat 64 s.ns
  | 0x023 => BitVec.ofNat 64 (s.fc - k.cycleBase)
  | 0x024 => t.pred
  | 0x030 => t.loop0.word
  | 0x031 => t.loop0.startWord
  | 0x032 => t.loop1.word
  | 0x033 => t.loop1.startWord
  | 0x040 => BitVec.ofNat 64 ((if h.ovf then 256 else 0) + h.parked)
  | 0x041 => BitVec.ofNat 64 t.tagwait.toNat
  | _ => 0
where t_vec (k : CoreState) : Nat := k.tvec.toNat * 256

/-- A write of CC_CAUSE (03 R80). -/
def Cause.ofWord (w : Word) : Cause := ⟨bit w 12, BitVec.ofNat 10 (bits w 9 0)⟩

/-- Writes system register n of core c field by field, as `mts` in supervisor mode does (04 R122). An OVF that hardware has set
in this fc stays (03 R84); the transaction's aborts count from a new age on (05 R164). -/
def sysWrite (c n : Nat) (v : Word) (s : State) : State :=
  match n with
  | 0x001 => updThr s c (fun t => { t with status := { t.status with ie := bit v 1 } })
  | 0x002 => updThr s c (fun t => { t with sstatus := .ofWord v })
  | 0x003 => updThr s c (fun t => { t with cause := .ofWord v })
  | 0x004 => updThr s c (fun t => { t with epc := BitVec.ofNat 54 (bits v 55 2) })
  | 0x005 => updThr s c (fun t => { t with tval := v })
  | 0x006 => updCore s c (fun k => { k with tvec := BitVec.ofNat 48 (bits v 55 8) })
  | 0x007 => updThr s c (fun t => { t with scratch := v })
  | 0x020 => updThr s c (fun t => { t with asid := BitVec.ofNat 16 (bits v 15 0) })
  | 0x021 =>
    if (thr s c).status.txn || !(recordsOf s (thr s c).id).isEmpty then s
    else updThr s c (Thread.setAge v)
  | 0x024 => updCore s c (fun k => { k with t := k.t.setPred v, parity := k.parity.filter (fun p => decide (p.1 ≤ 32)) })
  | 0x030 => updThr s c (fun t => { t with loop0 := t.loop0.setWord v })
  | 0x031 => updThr s c (fun t => { t with loop0 := t.loop0.setStart v })
  | 0x032 => updThr s c (fun t => { t with loop1 := t.loop1.setWord v })
  | 0x033 => updThr s c (fun t => { t with loop1 := t.loop1.setStart v })
  | 0x040 => updCore s c (fun k => { k with msgOvf := k.msgOvf && (!bit v 8 || (hwSeen s c).ovfSet) })
  | 0x041 => updThr s c (fun t => { t with tagwait := BitVec.ofNat 32 (bits v 31 0) })
  | _ => s

/-- The registers that a read of CC_PRED reads. -/
def sysRegs (n : Nat) : List Nat := if n = 0x024 then [33, 34, 35, 36, 37, 38, 39] else []

/-- An instruction word that is refused: `ILLEGAL` or `PRIV` with the first word in CC_TVAL (03 R90). -/
def refuseWord (code : BitVec 10) (i : Instr) (s : State) : Out :=
  .next (trap code (BitVec.ofNat 64 ((encode i).headD 0)) s)

/-- 04 R122; 03 R76. -/
def execMfs (rd g imm : Nat) (s : State) : Out :=
  if !sysKnown imm then refuseWord 0x001 (.mfs rd g imm) s
  else if !(th s).status.supv && !sysUserRead imm then refuseWord 0x002 (.mfs rd g imm) s
  else issue g 4 (sysRegs imm) s (fun s => retX rd (sysRead s.cur imm s) s)

/-- 04 R122; 03 R76. A write of a loop register acts before the check of 04 R120 at the end of the `mts` itself: BODY = 0 ends the
level at once (04 R121). -/
def execMts (ra g imm : Nat) (s : State) : Out :=
  if !sysKnown imm then refuseWord 0x001 (.mts ra g imm) s
  else if !(th s).status.supv && !sysUserWrite imm then refuseWord 0x002 (.mts ra g imm) s
  else issue g 4 [ra] s (fun s => advance 4 (sysWrite s.cur imm (rx s ra) s))

/-- 04 R126: SWTRAP (0x3C0 + n). -/
def execTrap (g n : Nat) (s : State) : Out :=
  issue g 4 [] s (fun s => trap (BitVec.ofNat 10 (0x3C0 + n)) 0 s)

/-- 04 R126; 03 R90: `brk` has no guard. -/
def execBrk (s : State) : Out := issueB [] s (fun s => trap 0x003 0 s)

/-- 04 R127. -/
def execTack (g : Nat) (s : State) : Out :=
  issueSupv (.tack g) g [] s (fun s =>
    advance 4 (updMe s (fun t => { t with status := { t.status with intrap := false } })))

/-- 04 R128. -/
def execEret (g : Nat) (s : State) : Out :=
  issueSupv (.eret g) g [] s (fun s =>
    updMe s (fun t => { t with
      status := { t.status with supv := t.sstatus.supv, ie := t.sstatus.ie }, pc := pcOf (t.epc.toNat * 4), wait := .none }))

/-- May the wound of a core's thread enter asynchronously: no transaction is open, and 2 µs have passed since it left its home (14
R368)? -/
def woundRipe (s : State) (c : Nat) : Bool :=
  let t := thr s c
  t.status.wpend && !t.status.txn &&
  ((pendingWounds s t.id).any (fun w => decide (s.ns ≥ w.at_ + 2000)) || (pendingWounds s t.id).isEmpty)

/-- Is an asynchronous event pending for a core (04 R124, R133; 14 R368)? -/
def asyncPending (s : State) (c : Nat) : Bool :=
  !(core s c).events.isEmpty || !(core s c).delivery.isEmpty || woundRipe s c

/-- 04 R129. -/
def execIdle (g : Nat) (s : State) : Out :=
  issueSupv (.idle g) g [] s (fun s => if asyncPending s s.cur then advance 4 s else await .idle s)

/-! ## Accesses on their way (05 R142, R150, R156) -/

/-- The requests that a migration has queued. -/
def Migration.reqs (m : Migration) : List Req :=
  m.queued.filterMap (fun x => match x with
    | .req r => some r
    | .party _ => none)

/-- Every request that has been sent and is not performed. -/
def allReqs (s : State) : List Req :=
  s.reqs ++ s.quarters.flatMap (fun q => match q.2.mig with
    | some m => m.reqs
    | none => [])

/-- Has a thread sent requests that are not performed yet? -/
def outstandingOf (s : State) (t : Nat) : Bool := (allReqs s).any (fun r => r.thread == t)

/-- Has a thread accesses on their way, requests or updates posted to a binning engine? Each of them comes before the first access of an
operation that it has issued since (06 R171; 10 R292). -/
def accessesDue (s : State) (t c : Nat) (asid : BitVec 16) : Bool :=
  outstandingOf s t || s.bins.any (fun b => b.core == c && b.asid == asid)

/-- Has the thread of core c sent requests that are not performed yet? -/
def outstanding (s : State) (c : Nat) : Bool := outstandingOf s (thr s c).id

/-- Is a request a store posted to a peer? -/
def Req.posted (r : Req) : Bool :=
  r.kind == 1 && !r.wait && !r.moved && (match r.place with
    | .peer _ _ => true
    | _ => false)

/-- The stores that a core's thread has posted to peers are performed by a fence or release whose scope reaches past the core. -/
def settle (sc c : Nat) (s : State) : State :=
  if sc = 0 then s else { s with reqs := s.reqs.filter (fun r => !(r.thread == (thr s c).id && r.posted)) }

/-- Must a fence of a scope wait: an access of the thread has been sent and is not performed (05 R156)? Stores posted
to a peer count as performed by it. -/
def fenceWaits (s : State) (c : Nat) : Bool := outstanding (settle 4 c s) c

/-- A release of the current thread at a scope (05 R156): it is issued again until the thread's accesses are performed at the
scope, and then the cached lines bound to its objects are written back. -/
def releasing (sc : Nat) (objs : List Word) (s : State) (f : State → State) : State :=
  if sc ≠ 0 && fenceWaits s s.cur then spin false s
  else f (objs.foldl (fun s o => releaseBy (th s) o s) (settle sc s.cur s))

/-! ## Caches and translation (04 R135, R136) -/

/-- The key of an instruction-cache line. -/
def lineKey (asid va : Nat) : Nat := asid * 2 ^ 50 + va % 2 ^ 56 / 64

/-- Drops the lines of one core's instruction cache: all, or one. -/
def dropLines (c : Nat) (line : Option Nat) (s : State) : State :=
  updCore s c (fun k => { k with icache := match line with
    | none => []
    | some l => mdel k.icache l })

/-- A release at device scope; then the issuing core drops its lines and waits for the acknowledgements of the other cores (04
R135). -/
def icinv (line : Option Nat) (s : State) : State :=
  releasing 3 [] s (fun s =>
    let c := s.cur
    let s1 := dropLines c line s
    let others := (List.range 256).filter (· != c)
    await .icinv { s1 with icinv := s1.icinv ++ others.map (fun d => (c, d, line)) })

/-- 04 R135. -/
def execIcinvAll (g : Nat) (s : State) : Out :=
  issueSupv (.icinvAll g) g [] s (fun s => icinv none s)

/-- 04 R135. -/
def execIcinvLine (ra g : Nat) (s : State) : Out :=
  issueSupv (.icinvLine ra g) g [ra] s (fun s =>
    icinv (some (lineKey (th s).asid.toNat (addr56 (rx s ra)))) s)

/-- Has a core fetched an instruction that it will issue again? It is then not at an instruction boundary (04 R135). -/
def Wait.midway (w : Wait) : Bool :=
  match w with
  | .again _ => true
  | .dacq => true
  | .cfgConst => true
  | _ => false

/-- 04 R135: core c, at an instruction boundary, acknowledges every `icinv` that waits for it; the last acknowledgement completes
the instruction. While it waits for an event, nothing that it has fetched is still to issue. -/
def execIcinvAcknowledge (c : Nat) (s : State) : Out :=
  if (thr s c).wait.midway then .next s else
  let mine := s.icinv.filter (fun e => e.2.1 == c)
  let s1 := mine.foldl (fun s e => dropLines c e.2.2 s) s
  let s2 := { s1 with icinv := s1.icinv.filter (fun e => e.2.1 != c) }
  let doneBy := (mine.map (fun e => e.1)).filter (fun r => !s2.icinv.any (fun e => e.1 == r) && (thr s2 r).wait == .icinv)
  .next (doneBy.foldl (fun s r => if (thr s r).wait = .icinv then advanceCore r 4 s else s) s2)

/-- Drops the cached translations that p names, in every unit and every core; `names` says of which spaces the range
tables are loaded again (04 R136, 13 R338). -/
def dropXlat (p : XEnt → Bool) (names : Nat → Bool) (s : State) : State :=
  { s with
    cores := s.cores.map (fun k => (k.1, { k.2 with tlb := k.2.tlb.filter (fun e => !p e) })),
    quarters := s.quarters.map (fun q => (q.1, { q.2 with
      xlat := q.2.xlat.filter (fun e => !p e), rtab := q.2.rtab.filter (fun e => !names e.1) })) }

/-- The space of a request that waits at a tagged word. -/
def tagSpace (s : State) (w : TagWait) : Option Nat :=
  match w.who with
  | .core c => some (thr s c).asid.toNat
  | .node e _ => (districtAt s (elemBlock e)).bind (fun d => (mget? s.districts d).map (fun k => k.asid.toNat))
  | .peer _ => none

/-- Is an address in one of the ranges, or are they all? -/
def inRanges (rs : Option (List (Nat × Nat))) (va : Nat) : Bool :=
  match rs with
  | some l => l.any (fun r => decide (r.1 ≤ va ∧ va < r.2))
  | none => true

/-- Is a space the one named, or are they all? -/
def inSpace (a : Option Nat) (n : Nat) : Bool :=
  match a with
  | some k => n == k
  | none => true

/-- Is an access that a dropped entry has translated not performed yet: a request, one that waits at a tagged word of device memory, or a
store that a district holds (04 R136; 09 R279)? -/
def xlatPending (a : Option Nat) (rs : Option (List (Nat × Nat))) (s : State) : Bool :=
  let hit := fun (n va : Nat) => inSpace a n && inRanges rs va
  (allReqs s).any (fun r => inSpace a r.asid) ||
  s.tagq.any (fun w => region w.va == 0 && (match tagSpace s w with
    | some n => hit n w.va
    | none => false)) ||
  s.districts.any (fun d => d.2.hold.any (fun h => hit d.2.asid.toNat h.va))

/-- Completes when every access translated with a dropped entry has been performed (04 R136): it waits for those that are on their
way, and the stores posted to peers count as performed from then on. -/
def xinv (p : XEnt → Bool) (a : Option Nat) (rs : Option (List (Nat × Nat))) (s : State) : State :=
  let s1 := dropXlat p (inSpace a) s
  let s2 := { s1 with reqs := s1.reqs.filter (fun r => !(r.posted && inSpace a r.asid)) }
  if xlatPending a rs s2 then await (.xinv a rs) s2 else advance 4 s2

/-- 04 R136. -/
def execXinvAll (g : Nat) (s : State) : Out :=
  issueSupv (.xinvAll g) g [] s (fun s => xinv (fun _ => true) none none s)

/-- 04 R136: the space's number is read from RD. -/
def execXinvSpace (rd g : Nat) (s : State) : Out :=
  issueSupv (.xinvSpace rd g) g [rd] s (fun s => xinv (fun e => e.asid == bits (rx s rd) 15 0) (some (bits (rx s rd) 15 0)) none s)

/-- Does a cached translation come from an entry, a range's or a page's, that covers an address (04 R136)? -/
def entNames (e : XEnt) (asid va : Nat) : Bool :=
  entCovers e asid va || (e.asid == asid && e.rng.any (fun r => decide (r.1 ≤ va ∧ va < r.2)))

/-- What the dropped entries of an address cover: its page of up to 1 GiB, and the ranges that hold it. -/
def droppedRanges (s : State) (asid va : Nat) : List (Nat × Nat) :=
  let pages := s.cores.flatMap (fun k => k.2.tlb) ++ s.quarters.flatMap (fun q => q.2.xlat)
  (va / 2 ^ 30 * 2 ^ 30, va / 2 ^ 30 * 2 ^ 30 + 2 ^ 30) :: (pages.filter (fun e => entNames e asid va)).filterMap (fun e => e.rng)

/-- 04 R136. -/
def execXinvVa (rd ra g : Nat) (s : State) : Out :=
  issueSupv (.xinvVa rd ra g) g [rd, ra] s (fun s =>
    let a := bits (rx s rd) 15 0
    let v := addr56 (rx s ra)
    xinv (fun e => entNames e a v) (some a) (some (droppedRanges s a v)) s)

/-- The accesses that an `xinv` of core c awaits are performed: it completes. -/
def xinvDone (c : Nat) (s : State) : Option State :=
  match (thr s c).wait with
  | .xinv a rs => if xlatPending a rs s then none else some (advanceCore c 4 s)
  | _ => none

end Sys2Proof.Machine
end

