-- ==== Sys2Proof/Machine/Request.lean ====
section
/-! DEFINITION. Requests that are not performed at once: to a page that is moving (13 R345) and to another device (05
R142, R150). -/

namespace Sys2Proof.Machine

/-- The quarter whose migration holds a place frozen (13 R345). -/
def migAt (s : State) (p : Place) : Option Nat :=
  match p with
  | .dev a => (List.range 4).find? (fun q => match (quarter s q).mig with
      | some m => m.opened.isNone && isLocal s m.oldPeer && a / 4096 == m.oldPa / 4096
      | none => false)
  | _ => none

/-- Sends a request that this step does not perform: to another device, or to a frozen page, where the first 64 are
queued and every later one is refused with MOVED (13 R345 step 1). -/
def sendReq (r : Req) (s : State) : State :=
  match migAt s r.place with
  | none => { s with reqs := s.reqs ++ [r] }
  | some q =>
    match (quarter s q).mig with
    | none => { s with reqs := s.reqs ++ [r] }
    | some m =>
      if m.queued.length < 64 then updQuarter s q (fun k => { k with mig := some { m with queued := m.queued ++ [.req r] } })
      else { updQuarter s q (fun k => { k with mig := some { m with moved := m.moved + 1 } }) with
             reqs := s.reqs ++ [{ r with moved := true }] }

/-- A party whose access meets a frozen page waits there: among the first 64 it keeps its place in the order of arrival, and else
it is refused with MOVED, once (13 R345 step 1). -/
def meetFrozen (who : Party) (p : Place) (s : State) : State :=
  match migAt s p with
  | none => s
  | some q =>
    match (quarter s q).mig with
    | none => s
    | some m =>
      if m.queued.contains (.party who) || m.refused.contains who then s
      else if m.queued.length < 64 then updQuarter s q (fun k => { k with mig := some { m with queued := m.queued ++ [.party who] } })
      else updQuarter s q (fun k => { k with mig := some { m with moved := m.moved + 1, refused := m.refused ++ [who] } })

/-- The current instruction stands at a page that is moving, and is issued again; `timer` says that CC_TAGWAIT.BOUND bounds its
wait. -/
def spinMoved (timer : Bool) (p : Place) (s : State) : State := spin timer (meetFrozen (.core s.cur) p s)

/-- A party that stands at a frozen page, where the place is known. -/
def meetAt (who : Party) (p : Option Place) (s : State) : State :=
  match p with
  | some x => meetFrozen who x s
  | none => s

/-- Must a request to this place be sent and waited for? -/
def faraway (s : State) (p : Place) : Bool := isPeer p || (migAt s p).isSome

/-- A request of core c. -/
def mkReqOf (s : State) (c : Nat) (p : Place) (va kind fn : Nat) (b expect : Word) (width rd : Nat) (wait : Bool) : Req :=
  { core := c, thread := (thr s c).id, place := p, va := va, asid := (thr s c).asid.toNat, kind := kind, fn := fn, ws := [], b := b,
    expect := expect, width := width, rd := rd, wait := wait, moved := false, id := 0 }

/-- A request of the current core. -/
def mkReq (s : State) (p : Place) (va kind fn : Nat) (b expect : Word) (width rd : Nat) (wait : Bool) : Req :=
  mkReqOf s s.cur p va kind fn b expect width rd wait

/-- The posted store of n words to a place that is not here, by the current thread; of poisoned data, if pois. -/
def postWords (p : Place) (va : Nat) (ws : List W32) (pois : Bool) (s : State) : State :=
  sendReq { mkReq s p va 1 (if pois then 2 else 0) 0 (BitVec.ofNat 64 va) (4 * ws.length) 0 false with ws := ws } s

/-- The bytes that a store request carries: those of its words where it has some, else of its operand. -/
def Req.bytes (r : Req) : List Byte := if r.ws.isEmpty then toBytes r.width r.b.toNat else r.ws.flatMap (fun w => toBytes 4 w.toNat)

/-- The thread number that stands for thread n of device d (log entry 107). Threads of this device have lower numbers. -/
def remoteThread (d n : Nat) : Nat := 2 ^ 64 + n * 256 + d % 256

/-- A request of another party of the domain at an address of this device's memory. -/
def peerReq (p : Place) (kind fn : Nat) (ws : List W32) (b expect : Word) (width : Nat) : Req :=
  { core := 256, thread := 2 ^ 64, place := p, va := 0, asid := 0, kind := kind, fn := fn, ws := ws, b := b, expect := expect,
    width := width, rd := 0, wait := false, moved := false, id := 0 }

/-- A request of another device arrives at a page of this one that is moving: queued, or refused with MOVED, upon which that device
sends it again where it then belongs (13 R345). -/
def sendPeer (r : Req) (s : State) : State :=
  match migAt s r.place with
  | none => s
  | some q =>
    match (quarter s q).mig with
    | none => s
    | some m => if m.queued.length < 64 then sendReq r s
                else updQuarter s q (fun k => { k with mig := some { m with moved := m.moved + 1 } })

/-- Drops the request that the core's waiting instruction has sent. -/
def dropReqs (c kind : Nat) (s : State) : State :=
  { s with
    reqs := s.reqs.filter (fun r => !(r.core == c && r.kind == kind && r.wait)),
    quarters := s.quarters.map (fun q => (q.1, { q.2 with mig := q.2.mig.map (fun m =>
      { m with queued := m.queued.filter (fun x => match x with
          | .req r => !(r.core == c && r.kind == kind && r.wait)
          | .party _ => true) }) })) }

/-- Must an access of the current thread to w bytes wait for an earlier one of its own that has been sent and not performed, and
that the network does not keep in order before it: one held at a page that moves, or sent on from one (05 R143)? -/
def ownPending (s : State) (va w : Nat) : Bool :=
  (allReqs s).any (fun r => r.thread == (th s).id && r.asid == (th s).asid.toNat && !r.posted && r.kind != 4 &&
    decide (r.va < va + w ∧ va < r.va + (if r.ws.isEmpty then r.width else 4 * r.ws.length)))

/-! ## The rollback log of a store cell (17 R398) -/

/-- Logs the old words of a store cell ahead of a write of n bytes, for the rollback of a district that has a live
invocation; a cell's 129th word fills the log. An entry carries the last wave that its writer had taken, above bit 40;
`none` stands for the last complete wave. -/
def logSpadAt (wave : Option Nat) (p : Place) (n : Nat) (s : State) : State :=
  match p with
  | .spad e o =>
    match districtAt s (elemBlock e) with
    | none => s
    | some d =>
      match mget? s.districts d with
      | none => s
      | some k =>
        if k.invs.isEmpty then s
        else
          let w0 := o / 4
          let ws := (List.range ((o + n - 1) / 4 + 1 - w0)).map (w0 + ·)
          let old := ws.map (fun w => (wave.getD k.complete * 2 ^ 40 + e * 8192 + w, BitVec.ofNat 32 (leNat (placeRead s (.spad e (4 * w)) 4)),
            tagFull s.spad (spadKey e (4 * w) / 4), placePois s (.spad e (4 * w))))
          let u := old.reverse ++ k.undo
          updDist s d (fun k => { k with
            undo := u, canRoll := k.canRoll && decide ((u.filter (fun x => x.1 % 2 ^ 40 / 8192 == e)).length ≤ 128) })
  | _ => s

/-- A write by a control core or an engine. -/
def logSpad (p : Place) (n : Nat) (s : State) : State := logSpadAt none p n s

/-! ## The range scoreboard (06 R191) -/

/-- Do the bytes from window offset o overlap a range that an engine still fills? -/
def District.boardBusy (d : District) (o w : Nat) : Bool :=
  d.board.any (fun b => decide (o < b.2.1 + b.2.2 ∧ b.2.1 < o + w))

/-- Must an access of the current thread wait: for the scoreboard (06 R191), or for an earlier access of its own to the same bytes
(05 R143)? -/
def winBusy (s : State) (va w : Nat) : Bool :=
  (region va == 1 && (match myDist s with
    | some (_, d) => d.boardBusy (winOff va) w
    | none => false)) ||
  ownPending s va w

end Sys2Proof.Machine
end

