-- ==== Sys2Proof/Machine/Fetch.lean ====
section
/-! DEFINITION. Fetching an instruction: translation, the instruction cache, poison and decoding (03 R73, R87, R90; 17
R393), and placing a word where the next step fetches it. -/

namespace Sys2Proof.Machine

/-- The place of the first byte of the 64-byte line of a place. -/
def Place.line : Place → Place
  | .dev a => .dev (a / 64 * 64)
  | .peer d a => .peer d (a / 64 * 64)
  | .loc c o => .loc c (o / 64 * 64)
  | .spad e o => .spad e (o / 64 * 64)
  | .hub o => .hub o

/-- Bytes that another device answers with: free values (log entry 5). -/
def freeBytes (s : State) (n : Nat) : List Byte := (List.range n).map (fun j => (Config.free (s.freeIx + j)).setWidth 8)

/-- The number of lines that an instruction cache holds: 64 KiB of 64-byte lines (03 R73). -/
def icLines : Nat := 1024

/-- Adds a line; the line that leaves a full cache is the part's choice (log entry 9). -/
def icAdd (free : Nat) (m : SMap ILine) (k : Nat) (l : ILine) : SMap ILine :=
  if m.length < icLines then mset m k l else mset (listDel m (Config.victim free % icLines)) k l

/-- The words of a line that carry poison (17 R394). -/
def lineBad (s : State) (b : Place) : List Nat := (List.range 16).filter (fun j => placeReadPois s (b.plus (4 * j)) 4)

/-- The line that holds an address, from the cache or from memory, whatever memory that is (03 R73, 17 R393). -/
def fetchLine (s : State) (c va : Nat) (p : Place) : ILine × State :=
  let key := lineKey (thr s c).asid.toNat va
  match mget? (core s c).icache key with
  | some l => (l, s)
  | none =>
    let b := p.line
    let (l, s1) : ILine × State := match b with
      | .peer _ _ => (⟨freeBytes s 64, []⟩, { s with freeIx := s.freeIx + 64 })
      | _ => (⟨placeRead s b 64, lineBad s b⟩, s)
    (l, updCore { s1 with freeIx := s1.freeIx + 1 } c (fun k => { k with icache := icAdd s1.freeIx k.icache key l }))

/-- What a fetch fails with: a cause with its CC_TVAL, or a line that is not cached on a page that is moving (13 R345). -/
inductive FetchStop where
  | cause (code : BitVec 10) (tval : Word)
  | moving (p : Place)
  deriving DecidableEq, Repr

/-- Fetches the word at an address for a core (03 R90 step 1). -/
def fetchWord (s : State) (c va : Nat) : Except FetchStop Nat × State :=
  let tv := BitVec.ofNat 64 va
  match bytePlace s c va needX true with
  | (.error x, s1) => (.error (.cause x tv), s1)
  | (.ok p, s1) =>
    if isHub p then (.error (.cause 0x046 tv), s1)
    else if (mget? (core s1 c).icache (lineKey (thr s1 c).asid.toNat va)).isNone && (migAt s1 p).isSome then (.error (.moving p), s1)
    else
      let (l, s2) := fetchLine s1 c va p
      if l.bad.contains (va % 64 / 4) then (.error (.cause 0x109 tv), s2)
      else (.ok (leNat ((l.bytes.drop (va % 64)).take 4)), s2)

/-- Steps 1 and 2 of 03 R90 for the instruction at the program counter of core c: the instruction, or the cause that it
raises with its CC_TVAL. -/
def fetchInstr (s : State) (c : Nat) : Except FetchStop Instr × State :=
  let pc := (thr s c).pc.toNat
  match fetchWord s c pc with
  | (.error x, s1) => (.error x, s1)
  | (.ok w, s1) =>
    let (e, s2) : Except FetchStop Nat × State :=
      if isX w then fetchWord s1 c ((pc + 4) % 2 ^ 56) else (.ok 0, s1)
    match e with
    | .error x => (.error x, s2)
    | .ok ext =>
      match decodeWords w ext with
      | some i => (.ok i, s2)
      | none => (.error (.cause 0x001 (BitVec.ofNat 64 w)), s2)

/-- The pinned range entry that maps the addresses below 2^39 onto themselves for supervisor mode (13 R338, R342). -/
def identityPin : List Word := [BitVec.ofNat 64 (2 ^ 6 + 2 ^ 4 + 2 ^ 3 + 2 ^ 2 + 1), BitVec.ofNat 64 (2 ^ 39), 0, BitVec.ofNat 64 (255 * 2 ^ 56)]

/-- A machine whose next turn runs the instruction of word w on core 0 (log entry 11): firmware is accepted, core 0 runs
it in supervisor mode with the pinned entries loaded, nothing is pending, and the word stands in device memory at the
program counter. -/
def placeWord (s : State) (w : Nat) : State :=
  let bs := wordBytes (w % 2 ^ 32) ++ wordBytes (w / 2 ^ 32 % 2 ^ 32)
  let s1 := updCore s 0 (fun k => { k with
    held := false, cstat := 5, icache := [], tlb := [], events := [], delivery := [], lastFc := s.fc,
    t := { k.t with pc := pcOf 0x1000, wait := .none, status := .reset, tx := .zero } })
  { s1 with trust := { s1.trust with fwok := true }, pins := [identityPin], agenda := [.core 0],
            dev := devWrite s1.dev false 0x1000 bs }

end Sys2Proof.Machine
end

