-- ==== Sys2Proof/Machine/Message.lean ====
section
/-! DEFINITION. Control messages and handler tables: major 0x53 and the message events (04 R130 to R134). -/

namespace Sys2Proof.Machine

def handler (s : State) (c ix : Nat) : HandlerEntry := mget (core s c).handlers ix .zero

/-- X[RA] of the `sig` that sent a message (04 R131). -/
def Msg.target (m : Msg) : Word := BitVec.ofNat 64 (m.index * 65536 + m.device * 256 + m.dst)

/-- The sender's `sig` completes (04 R131). -/
def msgAccepted (m : Msg) (s : State) : State :=
  let s1 := { s with sigs := s.sigs.filter (fun x => x != m) }
  if m.src < 256 then advanceCore m.src 4 s1 else s1

/-- The sender's `sig` raises a cause (04 R132). -/
def msgRefused (m : Msg) (code : BitVec 10) (s : State) : State :=
  let s1 := { s with sigs := s.sigs.filter (fun x => x != m) }
  if m.src < 256 then trapCore m.src code m.target s1 else s1

/-- A message joins the delivery queue; its entry address is read now (04 R133). -/
def joinDelivery (m : Msg) (s : State) : State :=
  updCore s m.dst (fun k => { k with delivery := k.delivery ++ [{ m with entry := (mget k.handlers m.index .zero).addr }] })

/-- CC_MSGSTAT.OVF is set; one that software clears in the same fc stays set (03 R84). -/
def setOvf (c : Nat) (s : State) : State := updCore (noteHw c true s) c (fun k => { k with msgOvf := true })

/-- A message joins the unclaimed list (04 R132 step 2). -/
def park (m : Msg) (s : State) : State :=
  updCore (noteHw m.dst false s) m.dst (fun k => { k with unclaimed := k.unclaimed ++ [{ m with arrived := true }] })

/-- Does a message fail step 3 of 04 R132? -/
def spaceRefused (h : HandlerEntry) (m : Msg) : Bool := m.user && m.space != h.space

/-- A message stays at its target, waiting as m' says: one that has just arrived takes its place behind those that arrived before
it. -/
def replaceMsg (m m' : Msg) (s : State) : State :=
  if m.arrived then { s with sigs := s.sigs.map (fun x => if x = m then m' else x) }
  else { s with sigs := s.sigs.filter (fun x => x != m) ++ [m'] }

/-- Steps 1 to 4 of 04 R132 for a message that stands in `sigs`. It joins the delivery queue as soon as that has room and no
earlier message waits for it, also ahead of parked messages that are still to move there (log entry 109). -/
def handleMsg (m : Msg) (s : State) : State :=
  let h := handler s m.dst m.index
  let k := core s m.dst
  if h.w then replaceMsg m { m with arrived := true, at_ := if m.arrived then m.at_ else s.fc } s
  else if !h.v then
    if k.unclaimed.length ≥ 8 then msgRefused m 0x008 (setOvf m.dst s)
    else msgAccepted m (raise m.dst 0x00A (BitVec.ofNat 64 m.index) 0 (park m s))
  else if spaceRefused h m then msgRefused m 0x00C s
  else if k.delivery.length < 8 ∧ ¬ s.sigs.any (fun x => x.dst == m.dst && x.room) then msgAccepted m (joinDelivery m s)
  else replaceMsg m { m with arrived := true, room := true, at_ := s.fc } s

/-- 04 R131: the message leaves; `sig` waits until the target has accepted or refused it. -/
def execSig (ra rb g : Nat) (s : State) : Out :=
  issue g 4 [ra, rb] s (noTx (fun s =>
    let a := rx s ra
    let d := bits a 15 8
    if bits a 63 22 ≠ 0 ∨ ¬ (d = 0xFF ∨ isMember s d) then trap 0x00B a s
    else
      let m : Msg := { src := s.cur, dst := bits a 7 0, device := d, index := bits a 21 16, payload := rx s rb,
                       space := (th s).asid, user := !(th s).status.supv, entry := 0, arrived := false, room := false, at_ := s.fc,
                       bound := (th s).tagwait.toNat }
      await .sig { s with sigs := s.sigs ++ [m] }))

/-- 04 R132. A message to another device is answered there: accepted or refused, which is not this device's to say. -/
def execSigMessageArrival (n : Nat) (s : State) : Out :=
  .next (match s.sigs[n]? with
    | none => s
    | some m =>
      if m.arrived then s
      else if m.device = 0xFF ∨ m.device = s.device then handleMsg m s
      else
        let (v, s1) := drawFree s
        match bits v 1 0 with
        | 0 => msgAccepted m s1
        | 1 => msgRefused m 0x008 s1
        | 2 => msgRefused m 0x009 s1
        | _ => msgRefused m 0x00C s1)

/-- Has a message waited 256 fc on a held entry (04 R132 step 1)? -/
def holdOverrun (s : State) (m : Msg) : Bool := m.arrived && !m.room && decide (s.fc ≥ m.at_ + 256)

/-- 04 R132 step 1: a message of core c that has waited 256 fc on a held entry is refused. -/
def execSigHoldTimeout (c : Nat) (s : State) : Out :=
  .next (match s.sigs.find? (fun m => m.dst == c && holdOverrun s m) with
    | none => s
    | some m => msgRefused m 0x009 s)

/-- The bound of the sender's wait (04 R132). -/
def roomOverrun (s : State) (m : Msg) : Bool := decide (m.bound ≠ 0) && decide (s.fc ≥ m.at_ + m.bound)

/-- W has become 0 for a message that waited on its entry: it goes on to step 2, unless its 256 fc are over (04 R132 step 1). -/
def unholdMsg (s : State) (m : Msg) : State := if holdOverrun s m then msgRefused m 0x009 s else handleMsg m s

/-- The parked message that may move into the delivery queue first (04 R134). -/
def parkedReady (s : State) (c : Nat) : Option Msg :=
  (core s c).unclaimed.find? (fun m => (handler s c m.index).v && !(handler s c m.index).w)

/-- Moves a parked message, or drops it and sets OVF when it fails step 3 of 04 R132. -/
def moveParked (c : Nat) (m : Msg) (s : State) : State :=
  let s1 := updCore (noteHw c false s) c (fun k => { k with unclaimed := k.unclaimed.erase m })
  if spaceRefused (handler s c m.index) m then setOvf c s1 else joinDelivery m s1

/-- Moves parked messages as the queue has room: n rounds. -/
def moveAllParked (c : Nat) : Nat → State → State
  | 0, s => s
  | n + 1, s =>
    if (core s c).delivery.length ≥ 8 then s
    else match parkedReady s c with
      | none => s
      | some m => moveAllParked c n (moveParked c m s)

/-- 04 R132 step 4: messages of core c that wait for room join its queue, or the sender's bound is passed. Parked messages move
first (log entry 109). -/
def execSigQueueEntry (c : Nat) (s : State) : Out :=
  .next (
    let s1 := moveAllParked c 8 s
    match s1.sigs.find? (fun m => m.dst == c && m.room) with
    | none => s1
    | some m =>
      if (core s1 c).delivery.length < 8 then msgAccepted m (joinDelivery m s1)
      else match s1.sigs.find? (fun x => x.dst == c && x.room && roomOverrun s1 x) with
        | some x => msgRefused x 0x008 s1
        | none => s1)

/-- The messages that wait on entry ix of core c, in the order they arrived (04 R132 step 1). -/
def heldMsgs (s : State) (c ix : Nat) : List Msg :=
  s.sigs.filter (fun m => m.dst == c && m.index == ix && m.arrived && !m.room)

/-- 04 R134. -/
def execSethnd (rd ra rb g : Nat) (s : State) : Out :=
  issueSupv (.sethnd rd ra rb g) g [ra, rb] s (fun s =>
    let a := rx s ra
    let b := rx s rb
    if bits a 63 32 ≠ 0 ∨ bits a 15 6 ≠ 0 ∨ bits b 63 56 ≠ 0 then trap 0x00B a s
    else
      let ix := bits a 5 0
      let old := handler s s.cur ix
      let e : HandlerEntry := ⟨BitVec.ofNat 54 (bits b 55 2), bit b 0, bit b 1, BitVec.ofNat 16 (bits a 31 16)⟩
      let c := s.cur
      let s1 := retX rd (BitVec.ofNat 64 (old.addr.toNat * 4 + (if old.v then 1 else 0)))
        (updCore s c (fun k => { k with handlers := mset k.handlers ix e }))
      if e.w then s1
      else
        let s2 := if e.v then moveAllParked c 8 s1 else s1
        (heldMsgs s2 c ix).foldl unholdMsg s2)

/-- A message of another device's core reaches this one (04 R131, R132; log entry 107). -/
def peerSig (space : BitVec 16) (user : Bool) (bound dst index : Nat) (payload : Word) (s : State) : State :=
  let m : Msg := { src := 256 + s.nextId, dst := dst % 256, device := s.device, index := index % 64, payload := payload, space := space,
                   user := user, entry := 0, arrived := false, room := false, at_ := s.fc, bound := bound }
  handleMsg m { s with sigs := s.sigs ++ [m], nextId := s.nextId + 1 }

/-- May an asynchronous event enter at the thread's present point: between two instructions, or in a wait that it
abandons (04 R124, 05 R146, R162; 06 R174)? -/
def Wait.enterable (w : Wait) : Bool :=
  match w with
  | .none => true
  | .again _ => true
  | .tag => true
  | .lock _ => true
  | .dacq => true
  | .cfgConst => true
  | _ => false

/-- Does the core run instructions now (13 R349; 18 R421)? -/
def runsNow (s : State) (c : Nat) : Bool :=
  let k := core s c
  !k.held && (k.cstat == 1 || k.cstat == 5)

/-- May an asynchronous event enter at core c (04 R124)? -/
def canEnter (s : State) (c : Nat) : Bool :=
  runsNow s c && (thr s c).status.ie && (thr s c).wait.enterable

/-- The wait that an entering event abandons: its request is withdrawn (05 R146, R162). -/
def abandon (c : Nat) (s : State) : State :=
  withdrawLock (thr s c).id (dropReqs c 3 { s with tagq := s.tagq.filter (fun w => w.who != .core c) })

/-- 04 R133. -/
def deliver (c : Nat) (s : State) : State :=
  match (core s c).delivery with
  | [] => s
  | m :: rest =>
    if canEnter s c then
      let s1 := abandon c s
      updCore s1 c (fun k => { k with delivery := rest, t := k.t.trap true 0x00D m.payload 0 k.t.pc (m.entry.toNat * 4) })
    else s

/-- 04 R133. -/
def execMsgDelivery (c : Nat) (s : State) : Out := .next (deliver c s)

/-- 04 R124: the oldest event pending for the core enters. -/
def enterEvent (c : Nat) (s : State) : State :=
  match (core s c).events with
  | [] => s
  | e :: rest =>
    if canEnter s c then
      let q := coreQuarter c
      let s1 := abandon c s
      let s2 := updCore s1 c (fun k => { k with events := rest })
      let s3 := if e.cause = 0x048 then updQuarter s2 q (fun k => { k with migEvents := k.migEvents - 1 }) else s2
      enterTrap c true e.cause e.tval e.iter s3
    else s

/-- 04 R124. -/
def execAsyncEventEntry (c : Nat) (s : State) : Out := .next (enterEvent c s)

end Sys2Proof.Machine
end

