-- ==== Sys2Proof/Machine/Tag.lean ====
section
/-! DEFINITION. Tagged words: the operations at a word, the waiting order, and major 0x34 (05 R144 to R148; 17 R394). -/

namespace Sys2Proof.Machine

/-! ## At the word (05 R145) -/

/-- The operations that wait: 0 take, 1 keep, 2 fill. -/
def tagReady (s : State) (p : Place) (op : Nat) : Bool := if op = 2 then !placeTag s p else placeTag s p

/-- Does an earlier request of the same sort still wait at the word (05 R147)? -/
def tagBehind (s : State) (p : Place) (op : Nat) : Bool :=
  s.tagq.any (fun w => w.place == p && (w.op == 2) == (op == 2))

/-- The word at a place, with its poison. -/
def wordAt (s : State) (p : Place) : LaneVal :=
  ⟨BitVec.ofNat 32 (leNat (placeRead s p 4)), placeReadPois s p 4⟩

/-- Writes a word and sets its tag full (05 R145). -/
def tagSetWord (p : Place) (v : LaneVal) (s : State) : State :=
  placeSetTag (placeWrite (logSpad p 4 s) p (toBytes 4 v.v.toNat) v.p) p true

/-- The effect of a waiting operation at its word, and the value that it returns. -/
def tagEffect (p : Place) (op : Nat) (v : LaneVal) (s : State) : LaneVal × State :=
  if op = 0 then (wordAt s p, placeSetTag (logSpad p 4 s) p false)
  else if op = 1 then (wordAt s p, s)
  else (.zero, tagSetWord p v s)

/-! ## Serving a waiter (05 R147) -/

/-- Sets the result of a lane of the first unfinished request of a memory node (10 R291). -/
def nodeLane (lane : Nat) (v : LaneVal) : List NodeReq → List NodeReq
  | [] => []
  | r :: t => if r.res.any (fun x => x.isNone) then { r with res := listSet r.res lane (some v) } :: t
              else r :: nodeLane lane v t

/-- Gives a served waiter its value: a core's instruction completes, or raises POISON where the word carries it (05
R145); a node's lane gets its result. -/
def tagAnswer (w : TagWait) (v : LaneVal) (s : State) : State :=
  match w.who with
  | .core c => advanceCore c 4 (if w.op = 2 then s else wxCore c w.rd (v.v.setWidth 64) s)
  | .node e k => updElem s e (fun x => { x with
      nodes := mset x.nodes k { mget x.nodes k .zero with reqs := nodeLane w.rd v (mget x.nodes k .zero).reqs } })
  | .peer _ => s

def tagCore (w : TagWait) : Option Nat :=
  match w.who with
  | .core c => some c
  | .node _ _ => none
  | .peer _ => none

/-- The wave that the element of a waiting node has reached (17 R398). -/
def tagWave (s : State) (w : TagWait) : Option Nat :=
  match w.who with
  | .core _ => none
  | .node e _ => some (elem s e).mile
  | .peer _ => none

/-- Serves one waiter, which leaves the order. A thread's take or keep that finds poison has no effect. -/
def serveOne (w : TagWait) (s : State) : State :=
  let s1 := { s with tagq := s.tagq.filter (fun x => x != w) }
  match tagCore w with
  | some c =>
    if w.op ≠ 2 ∧ (wordAt s1 w.place).p then trapCore c 0x109 (BitVec.ofNat 64 w.va) s1
    else let (v, s2) := tagEffect w.place w.op ⟨w.v, false⟩ s1; tagAnswer w v s2
  | none =>
    let (v, s2) := tagEffect w.place w.op ⟨w.v, w.rd ≥ 64⟩ (logSpadAt (tagWave s w) w.place 4 s1)
    tagAnswer { w with rd := w.rd % 64 } v s2

/-- Serves the waiters of a word until its state changes or none may go: n rounds. -/
def serveChain (p : Place) : Nat → State → State
  | 0, s => s
  | n + 1, s =>
    match s.tagq.find? (fun w => w.place == p && tagReady s p w.op) with
    | none => s
    | some w =>
      let s1 := serveOne w s
      if placeTag s1 p == placeTag s p then serveChain p n s1 else s1

/-- The answer of another device to a tagged request sent there: neither the value nor its poison is this device's to say. A
thread's take or keep that meets poison raises POISON (05 R145). -/
def servePeer (w : TagWait) (s : State) : State :=
  let (v, s1) := drawFree { s with tagq := s.tagq.filter (fun x => x != w) }
  match tagCore w with
  | some c => if w.op ≠ 2 ∧ bit v 32 then trapCore c 0x109 (BitVec.ofNat 64 w.va) s1 else tagAnswer w ⟨v.setWidth 32, false⟩ s1
  | none => tagAnswer { w with rd := w.rd % 64 } ⟨v.setWidth 32, w.op ≠ 2 && bit v 32⟩ s1

/-- 05 R147: the waiters of the word of waiter n are served in order: when it is full the keeps up to and including the
first take, when it is empty the first fill. -/
def execTaggedWaiterServe (n : Nat) (s : State) : Out :=
  .next (match s.tagq[n]? with
    | none => s
    | some w => if isPeer w.place then servePeer w s else serveChain w.place s.tagq.length s)

/-! ## The instructions (05 R145, R146) -/

/-- The scope at which a tagged word is acquired and released: cell for a local word, district for a scratchpad word, device for a
word of device memory (05 R148). -/
def tagScope (a : Nat) : Nat :=
  match region a with
  | 1 => 1
  | 2 => 0
  | _ => 3

/-- The checks of a tagged instruction: on device memory a transaction aborts with reason 3 (05 R166); then 05 R140
with width 4; a hub register takes none (13 R336); a range under the scoreboard waits (06 R191). A word at a peer is reached at its
home, so a line that a cache holds of it leaves (05 R151). -/
def tagged (ra : Nat) (n : Need) (s : State) (f : Nat → Place → State → State) : State :=
  let a := addr56 (rx s ra)
  if region a = 0 ∧ (th s).status.txn then txAbort 3 0 s
  else
    match access s s.cur a 4 n true with
    | (.fault c tv, s1) => trap c tv s1
    | (.ok ps, s1) =>
      let p := ps.headD (.dev 0)
      if isHub p then trap 0x10B (BitVec.ofNat 64 a) s1
      else if winBusy s1 a 4 then spin false s1
      else f a p (if isPeer p then lcDrop p 4 s1 else s1)

/-- `tst.fill` and `tst.set` are releases of their word (05 R148, R157). -/
def tagRelease (a : Nat) (s : State) (f : State → State) : State := releasing (tagScope a) [BitVec.ofNat 64 a] s f

/-- A waiting operation of the current core: it takes place now, or joins the order at the word. -/
def tagCoreOp (op rd : Nat) (v : W32) (a : Nat) (p : Place) (s : State) : State :=
  let w : TagWait := ⟨.core s.cur, p, op, rd, v, a, s.fc⟩
  if (migAt s p).isSome then await .tag (sendReq (mkReq s p a 3 op (v.setWidth 64) 0 4 rd true) s)
  else if isPeer p ∨ tagBehind s p op ∨ ¬ tagReady s p op then await .tag { s with tagq := s.tagq ++ [w] }
  else if op ≠ 2 ∧ (wordAt s p).p then trap 0x109 (BitVec.ofNat 64 a) s
  else
    let (r, s1) := tagEffect p op ⟨v, false⟩ s
    advance 4 (if op = 2 then s1 else wx s1 rd (r.v.setWidth 64))

/-- 05 R145. -/
def execTldTake (rd ra g : Nat) (s : State) : Out :=
  issue g 4 [ra] s (fun s => tagged ra needRW s (tagCoreOp 0 rd 0))

/-- 05 R145. -/
def execTldKeep (rd ra g : Nat) (s : State) : Out :=
  issue g 4 [ra] s (fun s => tagged ra needR s (tagCoreOp 1 rd 0))

/-- 05 R145. -/
def execTstFill (ra rb g : Nat) (s : State) : Out :=
  issue g 4 [ra, rb] s (fun s => tagged ra needRW s (fun a p s => tagRelease a s (tagCoreOp 2 0 (lo32 (rx s rb)) a p)))

/-- 05 R145: no wait. On a page that is moving it is issued again until the page has moved. -/
def execTstSet (ra rb g : Nat) (s : State) : Out :=
  issue g 4 [ra, rb] s (fun s => tagged ra needRW s (fun a p s =>
    if (migAt s p).isSome then spinMoved false p s
    else tagRelease a s (fun s => advance 4 (tagSetWord p ⟨lo32 (rx s rb), false⟩ s))))

/-- 05 R145: a tag of another device is not this device's to say. -/
def execTagGet (rd ra g : Nat) (s : State) : Out :=
  issue g 4 [ra] s (fun s => tagged ra needR s (fun _ p s =>
    if (migAt s p).isSome then spinMoved false p s
    else if isPeer p then let (v, s1) := drawFree s; retX rd (v &&& 1) s1
    else retX rd (if placeTag s p then 1 else 0) s))

/-- 05 R145. -/
def execTagClr (ra g : Nat) (s : State) : Out :=
  issue g 4 [ra] s (fun s => tagged ra needW s (fun _ p s =>
    if (migAt s p).isSome then spinMoved false p s else advance 4 (placeSetTag (logSpad p 4 s) p false)))

/-- The address at which core c waits for a tag. -/
def tagWaitAddr (s : State) (c : Nat) : Nat :=
  match s.tagq.find? (fun w => w.who == .core c) with
  | some w => w.va
  | none => 0

/-- Withdraws the tagged request of core c. -/
def dropTag (c : Nat) (s : State) : State :=
  dropReqs c 3 { s with tagq := s.tagq.filter (fun w => w.who != .core c) }

/-- Has a core's wait reached CC_TAGWAIT.BOUND, which 0 lifts (05 R146)? -/
def overrun (s : State) (c : Nat) : Bool :=
  let t := thr s c
  decide (t.tagwait.toNat ≠ 0) && decide (s.fc ≥ t.waitFrom + t.tagwait.toNat)

/-- Does a core's tagged request stand at its word? One on its way to a page that is moving has not been checked there yet. -/
def atWord (s : State) (c : Nat) : Bool := s.tagq.any (fun w => w.who == .core c)

/-- 05 R146. -/
def execTagWaitTimeout (c : Nat) (s : State) : Out :=
  .next (if (thr s c).wait = .tag ∧ atWord s c ∧ overrun s c then
      trapCore c 0x110 (BitVec.ofNat 64 (tagWaitAddr s c)) (dropTag c s)
    else s)

/-- The word checks a waiting instruction for the first time: its wait counts from here (05 R146). -/
def firstCheck (c : Nat) (s : State) : State := updThr s c (fun t => { t with waitFrom := s.fc })

/-- A tagged request performed at the home to which its page has moved (13 R345), or of another device's thread. Operation 3 is
`tst.set`, which waits for nothing. -/
def performTag (r : Req) (p : Place) (s : State) : State :=
  if r.fn = 3 then tagSetWord p ⟨lo32 r.b, false⟩ s
  else
    let w : TagWait := ⟨if r.core < 256 then .core r.core else .peer s.nextId, p, r.fn, r.rd, lo32 r.b, r.va, s.fc⟩
    let s1 := { s with nextId := if r.core < 256 then s.nextId else s.nextId + 1, tagq := s.tagq ++ [w] }
    if isPeer p ∨ tagBehind s p r.fn ∨ ¬ tagReady s p r.fn then (if r.core < 256 then firstCheck r.core s1 else s1) else serveOne w s1

/-- A tagged request of another device's thread at a word of this device's memory (05 R145, R147; log entry 107): what it returns is
the other device's. -/
def peerTagged (op pa : Nat) (v : W32) (s : State) : State :=
  let r := peerReq (.dev pa) 3 (op % 4) [] (v.setWidth 64) 0 4
  if pa % 4 ≠ 0 ∨ pa ≥ devTop then s
  else if (migAt s (.dev pa)).isSome then sendPeer r s else performTag r (.dev pa) s

end Sys2Proof.Machine
end

