-- ==== Sys2Proof/Machine/Lock.lean ====
section
/-! DEFINITION. The lock instructions and the lock manager's events: majors 0x3C and 0x3D, wounds and revocation (05
R159 to R163; 14 R360 to R374). -/

namespace Sys2Proof.Machine

/-! ## The thread's holds -/

/-- The mode in which a thread holds a lock, by an explicit record that is not folded (05 R162, 14 R370). -/
def heldMode (s : State) (t : Nat) (space : BitVec 16) (name : Word) : Option Nat :=
  (s.locks.find? (fun r => r.thread == t && r.same space name false && !r.implicit && !r.folded)).map (fun r => r.mode)

/-- Does an ancestor that the thread holds give the rights of mode q (05 R162 step 3)? -/
def coveredBy (s : State) (t : Nat) (space : BitVec 16) (name : Word) (q : Nat) : Bool :=
  (ancestors s space.toNat name).any (fun a => match heldMode s t space a with
    | some m => coversBelow m && covers m q
    | none => false)

/-- Is every ancestor held in the mode that step 4 of 05 R162 asks? -/
def orderOk (s : State) (t : Nat) (space : BitVec 16) (name : Word) (q : Nat) : Bool :=
  (ancestors s space.toNat name).all (fun a => match heldMode s t space a with
    | some m => covers m (needAbove q)
    | none => false)

/-- Is another device the home of a tensor's locks: that of its BASE under translation (14 R360). -/
def lockRemote (s : State) (space : BitVec 16) (name : Word) : Bool :=
  match lookup s { coreWho s s.cur with asid := space.toNat, supv := true } (tidEnt s space.toNat (nameTid name)).base with
  | (.ok e, _) => !isLocal s e.peer
  | (.error _, _) => false

/-- What steps 1 to 4 of 05 R162 come to. -/
inductive LockCheck where
  | cause (c : BitVec 10)
  | wound
  | status (v : Word)
  | send
  deriving DecidableEq, Repr

/-- Step 3 of 05 R162. `up` says that the form is `lk.up`. -/
def lockHold (s : State) (up : Bool) (space : BitVec 16) (name : Word) (q : Nat) : LockCheck :=
  let t := (th s).id
  if coveredBy s t space name q then .status 1
  else
    let go (new : Bool) : LockCheck :=
      if !orderOk s t space name q then .cause 0x1C4
      else if new && decide ((explicitOf s t).length ≥ 256) then .cause 0x1C6
      else .send
    match heldMode s t space name with
    | some h => if covers h q then .status 2 else if covers q h then go false else .cause 0x1C3
    | none => if up then .cause 0x1C5 else go (holdOf s t space name false false).isNone

/-- Steps 1 to 4 of 05 R162. -/
def lockCheck (s : State) (up : Bool) (lv q : Nat) (name : Word) : LockCheck :=
  let space := (th s).asid
  if !lockNameOk s space.toNat name || nameLevel name != lv then .cause 0x1C2
  else if !modeAt q lv then .cause 0x1C3
  else if (th s).status.wpend then .wound
  else lockHold s up space name q

/-- Would a request be answered at once if it arrived now? -/
def lockAtOnce (s : State) (w : LockWait) : Bool :=
  let (v, s0) := arriving w s
  grantable s0 v && (match escalation s0 v with
    | none => true
    | some t => grantable s0 t)

/-- Sends a request that must wait for its home. -/
def sendLock (w : LockWait) (s : State) : State := { s with lockq := s.lockq ++ [w] }

/-- A request of the current thread. -/
def mkLock (s : State) (name : Word) (addr : Bool) (q : Nat) (implicit try_ remote : Bool) : LockWait :=
  { space := (th s).asid, name := name, addr := addr, thread := (th s).id, core := s.cur, mode := q, age := (th s).age,
    implicit := implicit, line := none, try_ := try_, remote := remote, arrived := false, mat := (0, 0), wounded := [] }

/-- What a request that a home grants at once acquires: an escalated one its line and its tile. -/
def LockWait.granted (w : LockWait) (s : State) (status : Word) : LockWait :=
  if status = 1 then { w with line := some (tileOfName s w.space w.name) } else w

/-- Step 5 of 05 R162 for the current thread, whose age is set. -/
def lockSend (rd : Nat) (try_ : Bool) (name : Word) (q : Nat) (s : State) : State :=
  let w := mkLock s name false q false try_ (lockRemote s (th s).asid name)
  if w.remote then await (.lock rd) (sendLock w s)
  else if lockAtOnce s w then
    match arriveLock w s with
    | (some v, s1) => reexamine (retX rd v (grantAcquire (w.granted s1 v) s1))
    | (none, s1) => s1
  else if try_ then retX rd 3 s
  else await (.lock rd) (sendLock w s)

/-- A request form (05 R161, R162). -/
def lockForm (rd ra g lv md : Nat) (up try_ : Bool) (s : State) : Out :=
  issue g 4 [ra] s (noTx (fun s =>
    let name := rx s ra
    match lockCheck s up lv md name with
    | .cause c => trap c name s
    | .wound => trap 0x1C1 name (clearWounds (th s).id s)
    | .status v => retX rd v s
    | .send => withAge s (lockSend rd try_ name md)))

/-- 05 R161, R162. -/
def execLkReq (rd ra g lv md : Nat) (s : State) : Out := lockForm rd ra g lv md false false s

/-- 05 R161, R162. -/
def execLkTry (rd ra g lv md : Nat) (s : State) : Out := lockForm rd ra g lv md false true s

/-- 05 R161, R162. -/
def execLkUp (rd ra g lv md : Nat) (s : State) : Out := lockForm rd ra g lv md true false s

/-- Is a record under a lock (05 R163)? -/
def recUnder (s : State) (space : BitVec 16) (name : Word) (r : LockRec) : Bool :=
  r.space == space && (ancestors s space.toNat r.name).contains name

/-! ### The commits of held stores (09 R280; 14 R374) -/

/-- The running invocation: the earliest that has started. -/
def District.running (k : District) : Option Inv := k.invs.find? (fun v => v.started)

/-- Is a held store one of a complete wave of an invocation with SEG? -/
def waveHeld (v : Inv) (w : Nat) (h : Held) : Bool := v.seg && h.inv == v.id && decide (h.wave < w)

/-- The first wave asked for, if it is complete. -/
def completeWave (k : District) : Option Mile := k.miles.head?.filter (fun m => m.full)

/-- Are held stores of the running invocation waiting for the commit of a wave? -/
def segHeld (k : District) (w : Nat) : Bool :=
  match k.running with
  | some v => k.hold.any (waveHeld v w)
  | none => false

/-- Does a complete wave of the running invocation, which has SEG, await its commit? -/
def commitDue (k : District) : Bool :=
  match completeWave k with
  | some m => segHeld k m.wave
  | none => false

/-- Must `lk.rel` wait: in a district of the thread a wave is complete whose stores are not committed yet (14 R374)? The commit at an
invocation's end is one step with that end, and before it the stores are not ordered. -/
def commitWaits (s : State) : Bool := s.districts.any (fun p => p.2.thread == (th s).id && commitDue p.2)

/-- A release of locks waits for the commits in progress and then acts as a release (05 R157; 14 R374). -/
def lockReleasing (objs : List Word) (s : State) (f : State → State) : State :=
  if commitWaits s then spin false s else releasing 4 objs s f

/-- 05 R163; 14 R374. -/
def execLkRel (ra g : Nat) (s : State) : Out :=
  issue g 4 [ra] s (noTx (fun s =>
    let t := th s
    let name := rx s ra
    if (holdOf s t.id t.asid name false false).isNone then trap 0x1C5 name s
    else if (explicitOf s t.id).any (recUnder s t.asid name) then trap 0x1C4 name s
    else lockReleasing [name] s (fun s =>
      releaseIf (fun r => r.thread == t.id && r.same t.asid name false && !r.implicit) (advance 4 s))))

/-- 05 R163: a release of each lock (R157; 14 R374). -/
def execLkRelall (g : Nat) (s : State) : Out :=
  issue g 4 [] s (noTx (fun s =>
    let t := (th s).id
    lockReleasing ((explicitOf s t).map (fun r => r.name)) s (fun s =>
      releaseIf (fun r => r.thread == t && !r.implicit) (advance 4 s))))

/-- The word of `lk.query` (05 R163). A word that is no lock name raises nothing and is not looked up: its identifier and index
still name the ancestors that bit 4 tells of (log entry 110). -/
def lockQuery (s : State) (name : Word) : Word :=
  let t := th s
  let anc := (ancestors s t.asid.toNat name).any (fun a => match heldMode s t.id t.asid a with
    | some m => coversBelow m
    | none => false)
  let n := (explicitOf s t.id).length
  BitVec.ofNat 64 (n * 65536 + (if anc then 16 else 0) + (match heldMode s t.id t.asid name with
    | some m => 8 + m
    | none => 0))

/-- 05 R163. -/
def execLkQuery (rd ra g : Nat) (s : State) : Out :=
  issue g 4 [ra] s (fun s => retX rd (lockQuery s (rx s ra)) s)

/-! ## The manager's events -/

/-- A request at its home on this device: granted and answered, or queued (14 R365). -/
def lockAtHome (w : LockWait) (s : State) : State :=
  match arriveLock w s with
  | (some v, s1) => reexamine (answerLock (w.granted s1 v) v s1)
  | (none, s1) => s1

/-- 14 R365: request n reaches its home and is granted or queued. One whose home is another device is answered from there (log
entry 107). -/
def execLockRequestAtHome (n : Nat) (s : State) : Out :=
  .next (match s.lockq[n]? with
    | none => s
    | some w => if w.arrived || w.remote then s else lockAtHome w { s with lockq := listDel s.lockq n })

/-- Does the thread still hold the lock that a wound of this device contests, without a break since the wound left (14 R369)? -/
def holdsContested (s : State) (w : Wound) : Bool :=
  !w.gone && s.locks.any (fun r => r.thread == w.thread && r.same w.space w.name w.addr && !r.folded && !r.remote)

/-- May the thread still be wounded (14 R367): it holds a lock record or has a transaction open. -/
def woundable (s : State) (t : Thread) : Bool := t.status.txn || !(recordsOf s t.id).isEmpty

def markWound (n : Nat) (f : Wound → Wound) (s : State) : State :=
  match s.wounds[n]? with
  | some w => { s with wounds := listSet s.wounds n (f w) }
  | none => s

/-- Hardware is about to change the status of a thread of itself (03 R77). -/
def noteThread (t : Nat) (s : State) : State :=
  match coreOfThread s t with
  | some c => noteHw c false s
  | none => s

/-- A wound sets WPEND (14 R367). -/
def setWpend (t : Nat) (s : State) : State :=
  updThread (noteThread t s) t (fun h => { h with status := { h.status with wpend := true } })

/-- Ends a transaction that a wound has reached (05 R166, 14 R372): WPEND stays while a wound on an explicit lock is
not taken. -/
def woundAbort (t : Nat) (s : State) : State := abortThread t 1 0 s

/-- The lock name that a thread's waiting request was made for. -/
def waitName (s : State) (t : Nat) : Option Word :=
  (s.lockq.find? (fun w => w.thread == t && !w.implicit)).map (fun w => w.line.getD w.name)

/-- A wound reaches a thread on core c: it sets WPEND, and withdraws a waiting lock request, whose instruction raises
WOUND (05 R162; 14 R367, R370). -/
def woundOnCore (c : Nat) (w : Wound) (s : State) : State :=
  match (thr s c).wait, waitName s w.thread with
  | .lock _, some name => trapCore c 0x1C1 name (clearWounds w.thread (withdrawLock w.thread s))
  | _, _ => setWpend w.thread s

/-- A wound reaches a saved task: it aborts an open transaction in place, and one that is still to be taken raises the task's priority (14
R373). -/
def woundSaved (w : Wound) (t : Thread) (s : State) : State :=
  let s1 := setWpend w.thread s
  let s2 := if t.status.txn then woundAbort w.thread s1 else s1
  { s2 with saved := s2.saved.map (fun k => if k.t.id = w.thread ∧ k.t.status.wpend = true then { k with boost := true } else k) }

/-- The numbers of threads of other devices. -/
def isRemote (t : Nat) : Bool := decide (t ≥ 2 ^ 64)

/-- 14 R367, R373: wound n reaches its thread. While the thread's core saves it, the wound waits. One for a thread of another device
goes there. -/
def execWoundArrival (n : Nat) (s : State) : Out :=
  .next (match s.wounds[n]? with
    | none => s
    | some w =>
      if w.arrived then s
      else if isRemote w.thread then markWound n (fun x => { x with arrived := true, taken := true }) s
      else match threadOf s w.thread with
        | none => { s with wounds := listDel s.wounds n }
        | some t =>
          if !woundable s t || s.dying.any (fun d => d.thread == w.thread) then { s with wounds := listDel s.wounds n }
          else
            let s1 := markWound n (fun x => { x with arrived := true }) s
            match coreOfThread s w.thread with
            | some c => if (core s c).cstat = 4 then s else woundOnCore c w s1
            | none => woundSaved w t s1)

/-- Is a wound due to enter asynchronously at core c (14 R368)? -/
def woundDue (s : State) (c : Nat) : Bool := woundRipe s c && canEnter s c

/-- The wound enters (14 R368). -/
def woundEnter (c : Nat) (s : State) : State :=
  if woundDue s c then enterTrap c true 0x1C1 0 0 (clearWounds (thr s c).id (abandon c s)) else s

/-- 14 R368. -/
def execWoundAsyncEntry (c : Nat) (s : State) : Out := .next (woundEnter c s)

/-- LM_CTL.REVOKE, which resets to 0x0010 (14 R362). -/
def lmRevoke (s : State) : Nat := bits (mget s.hub 0x1F188 (BitVec.ofNat 64 (16 * 2 ^ 32))) 47 32

/-- Releases every lock of a thread, with the requests for implicit ones (14 R369 step 3). -/
def releaseAll (t : Nat) (s : State) : State :=
  releaseIf (fun r => r.thread == t) { s with lockq := s.lockq.filter (fun w => !(w.thread == t && w.implicit)) }

/-- Undoes a thread's open transaction and releases its locks (14 R369 steps 2 and 3). A lock request for which it waits stays. -/
def stripLocks (t : Nat) (s : State) : State :=
  match threadOf s t with
  | none => releaseAll t s
  | some h =>
    let s1 := undoTx (coreQuarter ((coreOfThread s t).getD 0)) h.tx s
    releaseAll t (updThread (noteThread t s1) t (fun h => { h with
      status := { h.status with txn := false, wpend := false }, tx := h.tx.closed }))

/-- The wounds that have reached a thread are over. One that is still on its way stands (14 R367). -/
def endWounds (t : Nat) (s : State) : State :=
  { s with wounds := s.wounds.filter (fun x => !(x.thread == t && x.arrived)) }

/-- A thread is revoked for a lock (14 R369 steps 2 and 3, and the event). -/
def revoke (t : Nat) (name : Word) (s : State) : State := raiseThread t 0x1C7 name 0 (stripLocks t (endWounds t s))

/-- Has a thread an access that is not performed yet: one on its way, one that waits at a tagged word, or a remote atomic without its reply
(14 R369 step 1)? -/
def accessPending (s : State) (t : Nat) : Bool :=
  outstandingOf s t ||
  (match coreOfThread s t with
   | some c => s.tagq.any (fun w => w.who == .core c) || (match (thr s c).wait with
      | .ramo _ _ _ _ => true
      | _ => false)
   | none => false)

/-- 14 R369: the holder of wound n has not released in time. Its accesses that are on their way are performed first. -/
def execLockRevoke (n : Nat) (s : State) : Out :=
  .next (match s.wounds[n]? with
    | none => s
    | some w =>
      let r := lmRevoke s
      if r = 0 ∨ s.ns < w.at_ + r * 64000 ∨ ¬ holdsContested s w ∨ accessPending s w.thread then s
      else revoke w.thread w.name { s with lmRevokes := satInc s.lmRevokes })

/-! ## Requests, answers and wounds of other devices (14 R360, R366, R367; log entry 107) -/

/-- A lock request of another device's thread at its home here: a `lk.try` that cannot be granted at once is answered BUSY and
leaves nothing. -/
def peerLock (d n : Nat) (space : BitVec 16) (name : Word) (addr : Bool) (mode : Nat) (age : Word) (implicit try_ : Bool) (s : State) :
    State :=
  let w : LockWait := {
    space := space, name := name, addr := addr, thread := remoteThread d n, core := 256, mode := mode % 7, age := age,
    implicit := implicit, line := none, try_ := try_, remote := false, arrived := false, mat := (0, 0), wounded := [] }
  if try_ && !lockAtOnce s w then s else lockAtHome w s

/-- Its release of one record, and the withdrawal of its requests. -/
def peerUnlock (d n : Nat) (space : BitVec 16) (name : Word) (addr implicit : Bool) (s : State) : State :=
  releaseIf (fun r => r.thread == remoteThread d n && r.same space name addr && r.implicit == implicit) s

/-- The answer of a home on another device to the n-th request: GRANTED with the record made there, COVERED by an escalation, or
BUSY. -/
def lockGranted (n status : Nat) (s : State) : State :=
  match s.lockq[n]? with
  | none => s
  | some w =>
    if !w.remote then s
    else
      let s1 := { s with lockq := listDel s.lockq n }
      match status with
      | 0 => answerLock w 0 (putRecord s1 w)
      | 1 =>
        if nameLevel w.name = 2 ∧ !w.addr then let t := tileRequest s1 w; answerLock t 1 (foldLines s1 t) else s
      | _ => if w.try_ then answerLock w 3 s1 else s

/-- A home on another device revokes a thread of this one, once the thread's accesses have been performed (14 R369). -/
def peerRevoke (t : Nat) (name : Word) (s : State) : State := if accessPending s t then s else revoke t name s

/-- A wound of a home on another device is on its way to a thread of this one. -/
def peerWound (t : Nat) (space : BitVec 16) (name : Word) (addr implicit : Bool) (s : State) : State :=
  { s with wounds := s.wounds ++ [⟨space, name, addr, t, s.ns, false, false, implicit, false⟩] }

end Sys2Proof.Machine
end

