-- ==== Sys2Proof/Machine/Tx.lean ====
section
/-! DEFINITION. Transactions: major 0x3E, the commit and the wound abort, and the implicit locks and the undo log of a
transactional access (05 R164 to R167; 14 R371, R372). -/

namespace Sys2Proof.Machine

/-- 05 R164: inside a transaction it aborts (R166). -/
def execTxBegin (rd ra g : Nat) (s : State) : Out :=
  issue g 4 [ra] s (noTx (fun s =>
    let a := rx s ra
    if bits a 1 0 ≠ 0 ∨ bits a 63 56 ≠ 0 then trap 0x004 a s
    else withAge s (fun s =>
      retX rd 0 (updMe s (fun t => { t with
        status := { t.status with txn := true }, tx := { t.tx.closed with restart := a, rd := rd } })))))

/-- 05 R164, R167: with its writes performed, the transaction commits. -/
def execTxEnd (rd g : Nat) (s : State) : Out :=
  issue g 4 [] s (fun s =>
    if !(th s).status.txn then trap 0x1CA 0 s
    else if (th s).status.wpend then woundAbort (th s).id s
    else if outstanding s s.cur then await (.tx rd) s
    else commitTx s.cur rd s)

/-- 05 R164. -/
def execTxAbort (ra g : Nat) (s : State) : Out :=
  issue g 4 [ra] s (fun s =>
    if !(th s).status.txn then trap 0x1CA 0 s else txAbort 2 (bits (rx s ra) 7 0) s)

/-- The word of `tx.stat` (05 R164). -/
def txStatus (t : Thread) : Word :=
  BitVec.ofNat 64 (t.tx.attempts.toNat * 2 ^ 32 + (if t.status.txn then 2 ^ 31 else 0) + t.tx.last.toNat)

/-- 05 R164. -/
def execTxStat (rd g : Nat) (s : State) : Out :=
  issue g 4 [] s (fun s => retX rd (txStatus (th s)) s)

/-- 05 R167: the writes of a waiting `tx.end` are performed. A wound that came first aborts. -/
def execTxCommit (c : Nat) (s : State) : Out :=
  .next (match (thr s c).wait with
    | .tx rd =>
      if outstanding s c then s
      else if (thr s c).status.wpend then woundAbort (thr s c).id s
      else commitTx c rd s
    | _ => s)

/-- Is the thread of core c at a boundary at which a wound aborts its transaction (05 R166)? -/
def txWoundDue (s : State) (c : Nat) : Bool :=
  let t := thr s c
  runsNow s c && t.status.txn && t.status.wpend && !t.status.supv && t.wait.enterable

def txWound (c : Nat) (s : State) : State :=
  if txWoundDue s c then woundAbort (thr s c).id (abandon c s) else s

/-- 05 R166. -/
def execTxWoundAbort (c : Nat) (s : State) : Out := .next (txWound c s)

/-! ## Transactional accesses (05 R165; 14 R371) -/

/-- Does the span of a tensor reach the 128-byte line of an address? A line that the span fills in part counts as one that it
contains (log entry 111). -/
def Ent.hasLine (e : Ent) (va : Nat) : Bool := decide (e.base < va / 128 * 128 + 128 ∧ va / 128 * 128 < e.base + e.span)

/-- The lowest-numbered valid tensor of a space whose span holds the line of an address (14 R371). -/
def tensorAt (s : State) (asid va : Nat) : Option (Nat × Ent) :=
  match s.tid.find? (fun p => p.1 / 4096 == asid && (Ent.ofWords p.2).isTensor && (Ent.ofWords p.2).hasLine va) with
  | some p => some (p.1 % 4096, Ent.ofWords p.2)
  | none => none

/-- The tensor's line for an address of one of its lines: that of the byte of its span that is the nearest. -/
def Ent.lineOf (e : Ent) (va : Nat) : Nat := (min (max va e.base) (e.base + e.span - 1) - e.base) / 128

/-- The implicit locks that an access of one line takes, ancestors first: name, whether it is an address line, mode. -/
def implicitLocks (s : State) (asid va : Nat) (p : Place) (write : Bool) : List (Word × Bool × Nat) :=
  match tensorAt s asid va with
  | some (t, e) =>
    let k := e.lineOf va
    let up := if write then 1 else 0
    [(mkName 0 t 0, false, up), (mkName 1 t (e.tileOfLine k), false, up), (mkName 2 t k, false, if write then 4 else 2)]
  | none => [(lineName p, true, if write then 4 else 2)]

/-- Does an implicit record of the thread already give a mode, itself or through an escalated tile (14 R370)? -/
def implicitHeld (s : State) (t : Nat) (space : BitVec 16) (name : Word) (addr : Bool) (m : Nat) : Bool :=
  s.locks.any (fun r => r.thread == t && r.implicit && !r.folded &&
    ((r.same space name addr && covers r.mode m) ||
     (!addr && !r.addr && r.space == space && (ancestors s space.toNat name).contains r.name && coversBelow r.mode && covers r.mode m)))

/-- What the implicit locks of an access come to: held, or the access must be issued again. -/
inductive TxAcc where
  | held (s : State)
  | wait (s : State)

/-- The mode that an implicit request asks: one that covers what its record holds already, so that an upgrade keeps the rights of lines
that an escalation has folded (14 R370). -/
def implicitMode (s : State) (t : Nat) (space : BitVec 16) (name : Word) (addr : Bool) (m : Nat) : Nat :=
  match holdOf s t space name addr true with
  | some r => if r.folded then m else coverAll [r.mode, m]
  | none => m

/-- Takes implicit locks in order; a request that cannot be granted at once goes to its home. A grant acts as an acquire (05 R157). -/
def takeImplicit : List (Word × Bool × Nat) → State → TxAcc
  | [], s => .held s
  | (name, addr, m) :: l, s =>
    let t := th s
    if implicitHeld s t.id t.asid name addr m then takeImplicit l s
    else
      let w := mkLock s name addr (implicitMode s t.id t.asid name addr m) true false (if addr then lineAway name else lockRemote s t.asid name)
      if !w.remote && lockAtOnce s w then
        match arriveLock w s with
        | (some v, s1) => takeImplicit l (reexamine (grantAcquire (w.granted s1 v) s1))
        | (none, s1) => .wait s1
      else .wait (sendLock w s)

/-- Is a place in device memory, here or at a peer? -/
def isMem : Place → Bool
  | .dev _ => true
  | .peer _ _ => true
  | _ => false

/-- The first byte of the 128-byte line of a place in device memory. -/
def Place.line128 : Place → Place
  | .dev a => .dev (a / 128 * 128)
  | .peer d a => .peer d (a / 128 * 128)
  | p => p

/-- One byte of each 128-byte line that an access covers in device memory: virtual address and place. -/
def accLines (va : Nat) (ps : List Place) : List (Nat × Place) :=
  ((List.range ps.length).zip ps).foldl (fun acc x =>
    if !isMem x.2 || acc.any (fun y => y.2.line128 == x.2.line128) then acc else acc ++ [(va + x.1, x.2)]) []

/-- Logs a line before the transaction's first write to it (05 R165). -/
def logPlace (s : State) (t : Thread) (p : Place) : Thread :=
  match p with
  | .dev a => logLine (a / 128) t s
  | .peer d a => logAway d (a / 128) t
  | _ => t

/-- The thread with the lines of a write logged, and what caches hold of the lines of peers' pages that it reaches. -/
def logWrite (s : State) (va : Nat) (ps : List Place) : Thread :=
  let t1 := (accLines va ps).foldl (fun t l => logPlace s t l.2) (th s)
  ((List.range ps.length).zip ps).foldl (fun t x => if isPeer x.2 then logCached s (lcKey x.2) t else t) t1

/-- The transaction's part of an access to device memory (05 R165): the implicit locks, then for a write the undo log,
whose overflow aborts with reason 4 (R166). Outside a transaction, and elsewhere, there is none. -/
def txAccess (va : Nat) (ps : List Place) (write : Bool) (s : State) (f : State → State) : State :=
  if !(th s).status.txn ∨ region va ≠ 0 then f s
  else if s.lockq.any (fun w => w.thread == (th s).id && w.implicit) then spin false s
  else
    match takeImplicit ((accLines va ps).flatMap (fun l => implicitLocks s (th s).asid.toNat l.1 l.2 write)) s with
    | .wait s1 => spin false s1
    | .held s1 =>
      match ps.find? (fun p => (migAt s1 p).isSome) with
      | some p => spinMoved false p s1
      | none =>
        if !write then f s1
        else
          let t1 := logWrite s1 va ps
          if t1.tx.lines > 8192 then txAbort 4 0 s else f (updMe s1 (fun _ => t1))

end Sys2Proof.Machine
end

