-- ==== Sys2Proof/Machine/Atomic.lean ====
section
/-! DEFINITION. Atomics at the sync engines: major 0x38 and the atomic events (05 R149 to R153). -/

namespace Sys2Proof.Machine

/-! ## At the home engine -/

/-- The larger or smaller of two values under an order. -/
def pick {α : Type} [LT α] [DecidableLT α] (key : Nat → α) (min : Bool) (a b : Nat) : Nat :=
  if key b < key a then (if min then b else a) else (if min then a else b)

/-- The new value of an atomic of w bytes (05 R149): `fn` is FN[4:0]. -/
def amoNew (fn w old b expect : Nat) : Nat :=
  match fn with
  | 0x00 => (old + b) % 2 ^ (8 * w)
  | 0x01 => old &&& b
  | 0x02 => old ||| b
  | 0x03 => old ^^^ b
  | 0x04 => pick (sval (8 * w)) true old b
  | 0x05 => pick (sval (8 * w)) false old b
  | 0x06 => pick id true old b
  | 0x07 => pick id false old b
  | 0x08 => b
  | 0x09 => if old = expect then b else old
  | 0x0A => (fadd (w32 old) (w32 b) 0).toNat
  | _ => old

/-- X[RD] of an atomic (05 R149): only the 32-bit signed forms sign-extend. -/
def amoResult (signed wide : Bool) (old : Nat) : Word := if wide then BitVec.ofNat 64 old else if signed then sx32 old else BitVec.ofNat 64 (old % 2 ^ 32)

/-- An atomic performed at its place: the old value, the state after; none where the line carries poison (05 R150). -/
def amoPerform (fn w : Nat) (b expect : Nat) (p : Place) (s : State) : Option Nat × State :=
  if placeReadPois s p w then (none, s)
  else
    let old := leNat (placeRead s p w)
    (some old, if fn = 0x0E then s else placeWrite s p (toBytes w (amoNew fn w old b expect)) false)

/-- An indivisible sum of words into consecutive targets (05 R152): none where the line carries poison. -/
def vaddPerform (fl : Bool) (p : Place) (vs : List W32) (s : State) : Option State :=
  if placeReadPois s p (4 * vs.length) then none
  else some (((List.range vs.length).zip vs).foldl (fun s x =>
    let q := p.plus (4 * x.1)
    let old := leNat (placeRead s q 4)
    let new := if fl then (fadd (w32 old) x.2 0).toNat else (old + x.2.toNat) % 2 ^ 32
    placeWrite s q (toBytes 4 new) false) s)

/-! ## The instructions -/

/-- An atomic reaches device memory only: 05 R149, R153. -/
def amoPlaceCause (a : Nat) : Option (BitVec 10) :=
  if region a = 3 then some 0x106 else if region a ≠ 0 then some 0x10B else none

/-- The checks of an atomic's address (05 R140, R149; 13 R336, R340). An earlier access of the thread to the bytes that it reaches is
performed first (05 R143); a line that a cache holds of a peer's page leaves (R150). -/
def amoAccess (a w bytes : Nat) (s : State) (f : Place → List Place → State → State) : State :=
  match amoPlaceCause a with
  | some c => trap c (BitVec.ofNat 64 a) s
  | none =>
    match access s s.cur a w needRW true with
    | (.fault c tv, s1) => trap c tv s1
    | (.ok ps, s1) =>
      let p := ps.headD (.dev 0)
      if isHub p then trap 0x10B (BitVec.ofNat 64 a) s1
      else if ownPending s1 a bytes then spin false s1
      else f p ps (if isPeer p then lcDrop p bytes s1 else s1)

/-- Poison at a posted atomic is told to the issuer as an event (05 R150). -/
def amoPosted (c a : Nat) (r : Option Nat × State) : State :=
  match r.1 with
  | some _ => r.2
  | none => raise c 0x109 (BitVec.ofNat 64 a) 0 r.2

/-- An atomic of 05 R149. `wbit` is FN[5]. -/
def amo (fn rd ra rb g wbit : Nat) (signed : Bool) (s : State) : Out :=
  issue g 4 (if fn = 0x0E then [ra] else if fn = 9 then [ra, rb, rd] else [ra, rb]) s (fun s =>
    let w := if wbit = 1 then 8 else 4
    let a := addr56 (rx s ra)
    amoAccess a w w s (fun p ps s => txAccess a ps true s (fun s =>
      let b := (rx s rb).toNat % 2 ^ (8 * w)
      let e := (rx s rd).toNat % 2 ^ (8 * w)
      let posted : Bool := rd == 0 && fn != 9 && fn != 0x0E
      if faraway s p then
        let s1 := sendReq (mkReq s p a 2 fn (BitVec.ofNat 64 b) (BitVec.ofNat 64 e) w rd (!posted)) s
        if posted then advance 4 s1 else await (.amo rd (wbit == 1) signed a) s1
      else
        let r := amoPerform fn w b e p s
        if posted then advance 4 (amoPosted s.cur a r)
        else match r.1 with
          | some old => retX rd (amoResult signed (wbit == 1) old) r.2
          | none => trap 0x109 (BitVec.ofNat 64 a) r.2)))

/-- 05 R149. -/
def execAmoAdd (rd ra rb g w : Nat) (s : State) : Out := amo 0x00 rd ra rb g w false s

/-- 05 R149. -/
def execAmoAnd (rd ra rb g w : Nat) (s : State) : Out := amo 0x01 rd ra rb g w false s

/-- 05 R149. -/
def execAmoOr (rd ra rb g w : Nat) (s : State) : Out := amo 0x02 rd ra rb g w false s

/-- 05 R149. -/
def execAmoXor (rd ra rb g w : Nat) (s : State) : Out := amo 0x03 rd ra rb g w false s

/-- 05 R149. -/
def execAmoMinSigned (rd ra rb g w : Nat) (s : State) : Out := amo 0x04 rd ra rb g w true s

/-- 05 R149. -/
def execAmoMaxSigned (rd ra rb g w : Nat) (s : State) : Out := amo 0x05 rd ra rb g w true s

/-- 05 R149. -/
def execAmoMinUnsigned (rd ra rb g w : Nat) (s : State) : Out := amo 0x06 rd ra rb g w false s

/-- 05 R149. -/
def execAmoMaxUnsigned (rd ra rb g w : Nat) (s : State) : Out := amo 0x07 rd ra rb g w false s

/-- 05 R149. -/
def execAmoSwap (rd ra rb g w : Nat) (s : State) : Out := amo 0x08 rd ra rb g w false s

/-- 05 R149: the expected value is read from RD. -/
def execAmoCas (rd ra rb g w : Nat) (s : State) : Out := amo 0x09 rd ra rb g w false s

/-- 05 R149. -/
def execAmoAddF32 (rd ra rb g : Nat) (s : State) : Out := amo 0x0A rd ra rb g 0 false s

/-- 05 R149. -/
def execAmoLd (rd ra g w : Nat) (s : State) : Out := amo 0x0E rd ra 0 g w false s

/-- What reading the source of `amo.vadd` comes to: its words, a cause, or a page that is moving. -/
inductive Source where
  | words (vs : List W32)
  | fault (c : BitVec 10) (tval : Word)
  | moving (p : Place)

/-- The source words of `amo.vadd`, each with its poison: here, in the cached line of a peer's page, or at the peer, where neither
is this device's to say. -/
def sourceWords (src n : Nat) (p : Place) (s : State) : List LaneVal × State :=
  if !isPeer p then ((List.range n).map (fun j => wordAt s (p.plus (4 * j))), s)
  else
    match cachedLine s (lcKey p) with
    | (some l, s1) =>
      ((List.range n).map (fun j => ⟨BitVec.ofNat 32 (leNat ((l.bytes.drop (4 * j)).take 4)), l.marks.contains (j / 2)⟩), s1)
    | (none, s1) =>
      ((List.range n).map (fun j => ⟨(Config.free (s1.freeIx + j)).setWidth 32, bit (Config.free (s1.freeIx + j)) 32⟩),
        { s1 with freeIx := s1.freeIx + n })

/-- The source words of `amo.vadd`, read as loads (05 R152). -/
def vaddSource (src n : Nat) (s : State) : Source × State :=
  match access s s.cur src 4 needR false with
  | (.fault c tv, s1) => (.fault c tv, s1)
  | (.ok ps, s1) =>
    let p := ps.headD (.dev 0)
    if isHub p then (.fault 0x104 (BitVec.ofNat 64 src), s1)
    else if (migAt s1 p).isSome then (.moving p, s1)
    else
      let (vs, s2) := sourceWords src n p s1
      match vs.findIdx? (fun v => v.p) with
      | some j => (.fault 0x109 (BitVec.ofNat 64 (src + 4 * j)), s2)
      | none => (.words (vs.map (fun v => v.v)), s2)

/-- `amo.vadd` (05 R152): posted once the source has been read. -/
def amoVadd (fl : Bool) (ra rb g : Nat) (s : State) : Out :=
  issue g 4 [ra, rb] s (noTx (fun s =>
    let b := rx s rb
    let n := bits b 3 0 + 1
    let src := bits b 55 6 * 64
    let t := addr56 (rx s ra)
    if bits b 5 4 ≠ 0 then trap 0x10B (BitVec.ofNat 64 (addr56 b)) s
    else match amoPlaceCause t with
      | some c => trap c (BitVec.ofNat 64 t) s
      | none =>
        if t % 4 ≠ 0 ∨ t % 64 + 4 * n > 64 then trap 0x104 (BitVec.ofNat 64 t) s
        else if winBusy s src (4 * n) then spin false s
        else match vaddSource src n s with
          | (.fault c tv, s1) => trap c tv s1
          | (.moving p, s1) => spinMoved false p s1
          | (.words vs, s1) => amoAccess t 4 (4 * n) s1 (fun p _ s =>
              if faraway s p then
                advance 4 (sendReq { mkReq s p t 2 (if fl then 0x0D else 0x0C) 0 0 4 0 false with ws := vs } s)
              else match vaddPerform fl p vs s with
                | some s1 => advance 4 s1
                | none => advance 4 (raise s.cur 0x109 (BitVec.ofNat 64 t) 0 s))))

/-- 05 R152. -/
def execAmoVaddN32 (ra rb g : Nat) (s : State) : Out := amoVadd false ra rb g s

/-- 05 R152. -/
def execAmoVaddF32 (ra rb g : Nat) (s : State) : Out := amoVadd true ra rb g s

/-- The check of one address of `amo.snap` (05 R153). -/
def snapCause (a : Nat) : Option (BitVec 10) :=
  match amoPlaceCause a with
  | some c => some c
  | none => if a % 64 ≠ 0 then some 0x104 else none

/-- The 16 counters at a place (05 R153). -/
def counters (s : State) (p : Place) : List W32 := (List.range 16).map (fun i => BitVec.ofNat 32 (leNat (placeRead s (p.plus (4 * i)) 4)))

/-- The sum of counters (05 R153). -/
def counterSum (cs : List W32) : Nat := (cs.map BitVec.toNat).foldl (· + ·) 0

/-- The counters of core c's snapshot are sent to a block at another device or on a page that is moving, where the instruction waits
until they are written; the request carries the sum. -/
def snapSend (c rd b : Nat) (q : Place) (cs : List W32) (s : State) : State :=
  sendReq { mkReqOf s c q b 1 0 (BitVec.ofNat 64 (counterSum cs)) (BitVec.ofNat 64 b) 64 rd true with ws := cs }
    (if isPeer q then lcDrop q 64 s else s)

/-- The counters are written to a block that is here. -/
def snapWrite (q : Place) (cs : List W32) (s : State) : State := placeWrite s q (cs.flatMap (fun w => toBytes 4 w.toNat)) false

/-- Clears 16 counters. -/
def snapClear (p : Place) (s : State) : State := placeWrite s p (List.replicate 64 0) false

/-- 05 R153. A page that is moving holds the instruction; another device's counters are not this device's to say. It completes once the
block is written. -/
def execAmoSnap (rd ra rb g : Nat) (s : State) : Out :=
  issue g 4 [ra, rb] s (noTx (fun s =>
    let a := addr56 (rx s ra)
    let b := addr56 (rx s rb)
    match snapCause a, snapCause b with
    | some c, _ => trap c (BitVec.ofNat 64 a) s
    | none, some c => trap c (BitVec.ofNat 64 b) s
    | none, none =>
      if a < b + 64 ∧ b < a + 64 then trap 0x10B (BitVec.ofNat 64 a) s
      else amoAccess a 64 64 s (fun p _ s =>
        match access s s.cur b 64 needW true with
        | (.fault c tv, s1) => trap c tv s1
        | (.ok qs, s1) =>
          let q := qs.headD (.dev 0)
          if isHub q then trap 0x10B (BitVec.ofNat 64 b) s1
          else if ownPending s1 b 64 then spin false s1
          else if (migAt s1 p).isSome then spinMoved false p s1
          else if (migAt s1 q).isSome then spinMoved false q s1
          else if isPeer p then await (.snap rd a b q) (sendReq (mkReq s1 p a 5 0x0B 0 0 64 rd true) s1)
          else if placeReadPois s1 p 64 then trap 0x109 (BitVec.ofNat 64 a) s1
          else
            let cs := counters s1 p
            if isPeer q then snapSend s1.cur rd b q cs (await (.snap rd a b q) (snapClear p s1))
            else retX rd (BitVec.ofNat 64 (counterSum cs)) (snapWrite q cs (snapClear p s1)))))

/-! ## The events -/

/-- Completes the waiting atomic of core c with its old value, or with the cause that its home answers (05 R150; 06
R196). -/
def amoReply (c : Nat) (r : Except (BitVec 10) Nat) (s : State) : State :=
  let fin := fun (len rd : Nat) (wide signed : Bool) (va : Nat) => match r with
    | .ok v => advanceCore c len (wxCore c rd (amoResult signed wide v) s)
    | .error x => trapCore c x (BitVec.ofNat 64 va) s
  match (thr s c).wait with
  | .amo rd wide signed va => fin 4 rd wide signed va
  | .ramo rd wide signed va => fin 8 rd wide signed va
  | _ => s

/-- Poison at the home of a waiting atomic (05 R150). -/
def amoComplete (c : Nat) (old : Option Nat) (s : State) : State :=
  amoReply c (match old with
    | some v => .ok v
    | none => .error 0x109) s

/-- Poison at a request that its thread has posted is told to the thread as an event, on its core or on restoration (05 R150). -/
def posted (r : Req) (x : Option Nat × State) : State :=
  match x.1 with
  | some _ => x.2
  | none => raiseThread r.thread 0x109 (BitVec.ofNat 64 r.va) 0 x.2

/-- A snapshot's counters have come to the waiting core c: its block is written, and then the instruction completes (05 R153). The block
has passed its checks at issue; it is translated again, since its page can have moved. -/
def snapFinish (c : Nat) (cs : List W32) (s : State) : State :=
  match (thr s c).wait with
  | .snap rd _ b q0 =>
    let (r, s1) := access s c b 64 needW true
    let q := match r with
      | .ok qs => qs.headD q0
      | .fault _ _ => q0
    if faraway s1 q then snapSend c rd b q cs s1
    else advanceCore c 4 (wxCore c rd (BitVec.ofNat 64 (counterSum cs)) (snapWrite q cs s1))
  | _ => s

/-- The block of a snapshot is written where it was sent, and the instruction that waits for it completes (05 R153). -/
def snapDone (r : Req) (s : State) : State :=
  match r.wait, (thr s r.core).wait with
  | true, .snap rd _ _ _ => if (thr s r.core).id = r.thread then advanceCore r.core 4 (wxCore r.core rd r.b s) else s
  | _, _ => s

/-- A request performed at a place of this device, for a thread that may wait for it (05 R150 to R153). -/
def performAmo (r : Req) (p : Place) (s : State) : State :=
  if r.kind = 5 then
    if placeReadPois s p 64 then trapCore r.core 0x109 (BitVec.ofNat 64 r.va) s
    else snapFinish r.core (counters s p) (snapClear p s)
  else if r.fn = 0x0C ∨ r.fn = 0x0D then
    match vaddPerform (r.fn == 0x0D) p r.ws s with
    | some s1 => s1
    | none => raiseThread r.thread 0x109 (BitVec.ofNat 64 r.va) 0 s
  else
    let x := amoPerform r.fn r.width r.b.toNat r.expect.toNat p s
    if r.wait then amoComplete r.core x.1 x.2 else posted r x

/-- A posted request performed at another device: whether its line carries poison there, or for a remote atomic whether
its address translates, is not this device's to say (05 R150; 06 R196). -/
def performPeer (r : Req) (s : State) : State :=
  let (v, s1) := drawFree s
  let code := if r.kind = 4 ∧ bits v 3 1 ≠ 0 then BitVec.ofNat 10 (0x040 + bits v 3 1) else 0x109
  if bit v 0 then raiseThread r.thread code (BitVec.ofNat 64 r.va) 0 s1 else s1

/-- 05 R151: request n reaches its home and is performed. -/
def execAtomicAtHome (n : Nat) (s : State) : Out :=
  .next (match s.reqs[n]? with
    | none => s
    | some r =>
      if (r.kind ≠ 2 ∧ r.kind ≠ 4) ∨ r.moved ∨ (migAt s r.place).isSome then s
      else
        let s1 := { s with reqs := listDel s.reqs n }
        if !isPeer r.place then performAmo r r.place s1
        else if r.wait then s
        else performPeer r s1)

/-- The answer that another device gives to an atomic: its old value, 2^64 for poison, or 2^64 + a translation cause for a
remote atomic (06 R196). -/
def replyOf (remote : Bool) (v : Nat) : Option (Except (BitVec 10) Nat) :=
  if v < 2 ^ 64 then some (.ok v)
  else if v = 2 ^ 64 then some (.error 0x109)
  else if remote ∧ 2 ^ 64 + 0x041 ≤ v ∧ v ≤ 2 ^ 64 + 0x047 then some (.error (BitVec.ofNat 10 (v % 2 ^ 64))) else none

/-- The 16 counters that another device answers to a snapshot, or poison, which 2^512 stands for (05 R153). -/
def snapReply (c v : Nat) (s : State) : State :=
  match (thr s c).wait with
  | .snap _ a _ _ =>
    if v < 2 ^ 512 then snapFinish c ((List.range 16).map (fun i => BitVec.ofNat 32 (v / 2 ^ (32 * i)))) (dropReqs c 5 s)
    else if v = 2 ^ 512 then trapCore c 0x109 (BitVec.ofNat 64 a) (dropReqs c 5 s) else s
  | _ => s

/-- 05 R150, R153; 06 R195, R196: what another device answers to the waiting atomic or snapshot of core c. -/
def execAtomicReply (c v : Nat) (s : State) : Out :=
  let waits := fun (kind : Nat) => s.reqs.any (fun r => r.core == c && r.kind == kind && r.wait && !r.moved && isPeer r.place)
  .next (if waits 5 then snapReply c v s
    else match replyOf (waits 4) v with
    | none => s
    | some r => if waits 2 || waits 4 then amoReply c r (dropReqs c 4 (dropReqs c 2 s)) else s)

/-- An atomic of another device's thread at an address of this device's memory (05 R150 to R152; log entry 107): what it returns is
the other device's. -/
def peerAtomic (fn w pa : Nat) (b expect : Word) (ws : List W32) (s : State) : State :=
  let r := peerReq (.dev pa) 2 fn ws b expect w
  let n := if ws.isEmpty then w else 4 * ws.length
  if (w ≠ 4 ∧ w ≠ 8) ∨ pa % w ≠ 0 ∨ pa % 64 + n > 64 ∨ pa ≥ devTop then s
  else if (migAt s (.dev pa)).isSome then sendPeer r s else performAmo r (.dev pa) s

end Sys2Proof.Machine
end

