-- ==== Sys2Proof/Machine/MatArith.lean ====
section
/-! DEFINITION. The arithmetic of a matrix cell: planes, group alignment, scales, the exact row step, its two NaN modes
and its counters (01 R20, R21, R30 to R40, R424). -/

namespace Sys2Proof.Machine

/-! ## Formats of the operands (01 R24, R30, R32) -/

/-- How an operand becomes integers: w-bit integers, the first j of k planes, an E2M1 value times 2, group alignment to P
bits, or q − z. -/
inductive MKind where
  | int
  | nb (k j : Nat)
  | x2
  | al (f : Fmt) (p : Nat)
  | z4
  deriving DecidableEq, Repr

/-- The conversion of an A operand, or of a B operand when `b`; `none` is FMTUSE. -/
def matKind (b : Bool) (fmt planes : Nat) : Option MKind :=
  if fmtIsNb fmt then
    let k := fmtBits fmt
    let j := if planes = 0 then k else planes
    if 2 ≤ j ∧ j ≤ k then some (.nb k j) else none
  else if planes ≠ 0 then none
  else match fmt with
    | 0x01 => if b then none else some (.al fp16 12)
    | 0x02 => if b then none else some (.al bf16 12)
    | 0x03 => some (.al e4m3 (if b then 8 else 10))
    | 0x04 => some (.al e5m2 (if b then 8 else 10))
    | 0x05 => some .x2
    | 0x06 => some (.al e4m3 (if b then 8 else 10))
    | 0x07 => some (.al e5m2 (if b then 8 else 10))
    | 0x08 => some .x2
    | 0x09 => some .int
    | 0x0A => some .int
    | 0x19 => if b then some .z4 else none
    | _ => none

/-- The exponent of the format factor (01 R24, R30, R32). -/
def factorExp (fmt : Nat) (m : MKind) : Int :=
  match m with
  | .nb k j => ((k - j : Nat) : Int)
  | .x2 => -1
  | _ => if fmt = 0x09 then -6 else 0

/-! ## Codes in memory (01 R16, R23) -/

/-- A byte with its poison. -/
abbrev PByte := Byte × Bool

def pbAt (l : List PByte) (i : Nat) : PByte := l.getD i (0, false)

/-- The code of element i of a row image that starts at column 0 of its first block. -/
def codeAt (fmt : Nat) (l : List PByte) (i : Nat) : Nat × Bool :=
  if fmtIsNb fmt then
    let k := fmtBits fmt
    let o := i / 256 * (32 * k) + i % 256 / 8
    (List.range k).foldl (fun a p =>
      let b := pbAt l (o + 32 * p)
      (2 * a.1 + (if b.1.toNat.testBit (i % 8) then 1 else 0), a.2 || b.2)) (0, false)
  else if fmtIs4 fmt then
    let b := pbAt l (i / 2)
    (b.1.toNat / 16 ^ (i % 2) % 16, b.2)
  else
    let w := fmtBits fmt / 8
    let bs := (List.range w).map (fun j => pbAt l (i * w + j))
    (leNat (bs.map Prod.fst), bs.any Prod.snd)

def codes (fmt n : Nat) (l : List PByte) : List (Nat × Bool) := (List.range n).map (codeAt fmt l)

/-! ## Elements as integers (01 R31, R33, R37, R39) -/

/-- The class of a value: 0 finite, 1 +∞, 2 −∞, 3 NaN (01 R39). -/
def clsOf : FVal → Nat
  | .nan => 3
  | .inf n => if n then 2 else 1
  | .fin _ _ => 0

/-- A non-finite value as 01 R37 replaces it. -/
def replaceNonFinite (f : Fmt) : FVal → FVal
  | .nan => .fin false ⟨0, 0⟩
  | .inf n => fval f ((if n then 2 ^ f.mag else 0) + f.max)
  | v => v

/-- The unbiased exponent of a finite value that is not zero; a subnormal counts with 1 − bias. -/
def leadExp (f : Fmt) : FVal → Option Int
  | .fin _ d => if d.m = 0 then none else some (d.e + f.m)
  | _ => none

/-- The alignment unit's exponent of a group: 0 where it has no finite value but zero (01 R31). -/
def groupUnit (f : Fmt) (p : Nat) (vs : List FVal) : Int :=
  match vs.filterMap (leadExp f) with
  | [] => 0
  | e :: t => t.foldl max e - (p - 2 : Nat)

/-- Round(a / u, integer, RNE). -/
def alignInt (u : Int) : FVal → Int
  | .fin n d => let r := roundMag n d.m.natAbs d.e u false 0; if n then -(r : Int) else r
  | _ => 0

/-- Splits a list into pieces of n, at most k of them. -/
def pieces {α : Type} (n : Nat) : Nat → List α → List (List α)
  | 0, _ => []
  | k + 1, l => if l.isEmpty then [] else l.take n :: pieces n k (l.drop n)

/-- The integers of a row of elements and the exponent of the alignment unit of each 32; z gives the zero point of an
element. In NaN-as-zero mode, and in the planes of B, what is not finite is replaced before the alignment (01 R37, R39); in poison mode it
takes no part in it (01 R31, R38). -/
def convRow (nanz : Bool) (m : MKind) (cs : List (Nat × Bool)) (z : Nat → Nat) : List BElem × List Int :=
  let rep := fun (f : Fmt) (v : FVal) => if nanz then replaceNonFinite f v else v
  let units0 := List.replicate (cdiv cs.length 32) 0
  match m with
  | .int => (cs.map (fun c => ⟨sval 8 c.1, 0, c.2⟩), units0)
  | .nb k j => (cs.map (fun c => ⟨sval k c.1 / 2 ^ (k - j), 0, c.2⟩), units0)
  | .z4 => (((List.range cs.length).zip cs).map (fun c => ⟨(c.2.1 % 16 : Nat) - (z c.1 : Nat), 0, c.2.2⟩), units0)
  | .x2 => (cs.map (fun c => ⟨alignInt (-1) (fval e2m1 c.1), 0, c.2⟩), units0)
  | .al f p =>
    let gs := (pieces 32 (cs.length + 1) cs).map (fun g =>
      let vs := g.map (fun c => (rep f (fval f c.1), clsOf (fval f c.1), c.2))
      let u := groupUnit f p (vs.map Prod.fst)
      (vs.map (fun v => (⟨alignInt u v.1, v.2.1, v.2.2⟩ : BElem)), u))
    (gs.flatMap Prod.fst, gs.map Prod.snd)

/-! ## Scales (01 R20, R21, R33, R37) -/

/-- A group scale from its 16 bits, times 2^x. -/
def scaleOf (fmt bits16 : Nat) (pois : Bool) (x : Int) : BScale :=
  if fmtIsMx fmt then
    let e := bits16 % 256
    if e = 255 then ⟨⟨0, 0⟩, 3, pois⟩ else ⟨⟨1, (e : Int) - 127 + x⟩, 0, pois⟩
  else
    let v := fval bf16 (bits16 % 2 ^ 16)
    match replaceNonFinite bf16 v with
    | .fin n d => ⟨⟨if n then -d.m else d.m, d.e + x⟩, clsOf v, pois⟩
    | _ => ⟨⟨0, 0⟩, clsOf v, pois⟩

/-- The bits of the scale 1.0 in a format's own encoding (10 R290; 01 R21). -/
def scaleOne (fmt : Nat) : Nat := if fmtIsMx fmt then 127 else 0x3F80

/-! ## The row step (01 R34, R37, R38, R40, R424) -/

/-- A row of A, ready for its step: integers, the alignment unit of each 32 elements, the scale of each 16 with its
format factor, and the counts of its NaN and infinite elements and scales. -/
structure RowA where
  ints : List BElem
  units : List Int
  sc : List BScale
  nans : Nat
  infs : Nat

def BElem.none : BElem := ⟨0, 0, false⟩
def BScale.one : BScale := ⟨⟨1, 0⟩, 0, false⟩

/-- The counts of a list of classes: NaN, infinite. -/
def clsCounts (l : List Nat) : Nat × Nat := ((l.filter (· == 3)).length, (l.filter (fun c => c == 1 || c == 2)).length)

def matB (m : Mat) (k n : Nat) : BElem := mget m.b (n * 256 + k) .none
def matS (m : Mat) (h n : Nat) : BScale := mget m.sc (n * 16 + h) .one
def matAcc (m : Mat) (row n : Nat) : LaneVal := mget m.acc (row * 128 + n) .zero

def RowA.at (r : RowA) (k : Nat) : BElem := r.ints.getD k .none
def RowA.scale (r : RowA) (h : Nat) : BScale := r.sc.getD h .one

/-- The exact total of a column: sums of 16 consecutive k, each with its two scales. -/
def colTotal (m : Mat) (r : RowA) (n : Nat) : Dyadic :=
  (List.range 16).foldl (fun t h =>
    let s := (List.range 16).foldl (fun s j => s + (r.at (16 * h + j)).i * (matB m (16 * h + j) n).i) (0 : Int)
    t.add (Dyadic.mul ⟨s, r.units.getD (h / 2) 0⟩ ((r.scale h).v.mul (matS m h n).v))) ⟨0, 0⟩

/-- The infinite products of a column: a zero factor meets one, a positive one, a negative one. -/
def infProducts (m : Mat) (r : RowA) (n : Nat) : Bool × Bool × Bool :=
  (List.range m.kk).foldl (fun acc k =>
    let a := r.at k
    let b := matB m k n
    let sa := r.scale (k / 16)
    let sb := matS m (k / 16) n
    let inf := fun c => decide (c = 1 ∨ c = 2)
    if !(inf a.cls || inf b.cls || inf sa.cls || inf sb.cls) then acc
    else if (a.cls = 0 ∧ a.i = 0) ∨ (b.cls = 0 ∧ b.i = 0) ∨ (sa.cls = 0 ∧ sa.v.m = 0) ∨ (sb.cls = 0 ∧ sb.v.m = 0) then (true, acc.2)
    else
      let neg := fun (c : Nat) (i : Int) => if c = 0 then decide (i < 0) else c == 2
      if (neg a.cls a.i != neg b.cls b.i) != (neg sa.cls sa.v.m != neg sb.cls sb.v.m) then (acc.1, acc.2.1, true)
      else (acc.1, true, acc.2.2)) (false, false, false)

/-- The result of a column in poison mode where a value is not finite (01 R38). -/
def nonFinite (m : Mat) (r : RowA) (n : Nat) (old : FVal) : Option W32 :=
  let hs := List.range (cdiv m.kk 16)
  let anyNan := r.ints.any (fun a => a.cls == 3) || (List.range m.kk).any (fun k => (matB m k n).cls == 3) ||
    hs.any (fun h => (r.scale h).cls == 3 || (matS m h n).cls == 3) || old == .nan
  let (zero, pos, neg) := infProducts m r n
  let oldInf := fun b => old == .inf b
  if anyNan || zero || (pos && neg) || (oldInf false && neg) || (oldInf true && pos) then some fnan
  else if pos || oldInf false then some (finf false)
  else if neg || oldInf true then some (finf true)
  else none

/-- The finite step of a word: its value, and whether the rounded result overflows. -/
def accAdd (old : W32) (total : Dyadic) : W32 × Bool :=
  if total.m = 0 then (old, false)
  else
    let v := match f32 old with
      | .fin n d => sdy n d
      | _ => ⟨0, 0⟩
    let c := w32 (roundDy fp32 false (v.add total) 0)
    (c, c.toNat % 2 ^ 31 == 0x7F800000)

/-- One word of a row step: its new value and the counts of NANS, INFS and OVFS that it makes. -/
def accWord (nanz : Bool) (m : Mat) (r : RowA) (row n : Nat) : LaneVal × Nat × Nat × Nat :=
  let old := matAcc m row n
  let ov := f32 old.v
  let c := clsCounts [clsOf ov]
  let p := old.p || r.ints.any (fun a => a.p) || r.sc.any (fun x => x.p) ||
    (List.range m.kk).any (fun k => (matB m k n).p) || (List.range (cdiv m.kk 16)).any (fun h => (matS m h n).p)
  if nanz then
    let base := w32 (roundV fp32 (replaceNonFinite fp32 ov) 0)
    let (v, o) := accAdd base (colTotal m r n)
    let v' := if o then (if v.msb then 0xFF7FFFFF else 0x7F7FFFFF) else v
    (⟨v', p⟩, c.1, c.2, if o then 1 else 0)
  else match nonFinite m r n ov with
    | some v => (⟨v, p⟩, c.1, c.2, 0)
    | none =>
      let (v, o) := accAdd old.v (colTotal m r n)
      (⟨v, p⟩, c.1, c.2, if o then 1 else 0)

/-- A row step into an accumulator row: the cell's new store, and the counts of the step. -/
def rowStep (nanz : Bool) (m : Mat) (r : RowA) (row : Nat) : Mat × Nat × Nat × Nat :=
  (List.range 128).foldl (fun x n =>
    let (v, a, b, o) := accWord nanz m r row n
    ({ x.1 with acc := mset x.1.acc (row * 128 + n) v }, x.2.1 + a, x.2.2.1 + b, x.2.2.2 + o)) (m, r.nans, r.infs, 0)

/-- The row of A that aligned elements and group scales make: `sg` elements for each scale. -/
def rowOf (ints : List BElem) (units : List Int) (scales : List BScale) (sg : Nat) : RowA :=
  let (n1, i1) := clsCounts (ints.map (fun a => a.cls))
  let (n2, i2) := clsCounts (scales.map (fun x => x.cls))
  { ints := ints, units := units, sc := (List.range (cdiv ints.length 16)).map (fun h => scales.getD (16 * h / sg) .one),
    nans := n1 + n2, infs := i1 + i2 }

/-- The row of A that codes and group scales make. -/
def makeRow (nanz : Bool) (fmt : Nat) (k : MKind) (cs : List (Nat × Bool)) (scs : List (Nat × Bool)) (sg : Nat) : RowA :=
  let (ints, units) := convRow nanz k cs (fun _ => 0)
  rowOf ints units (scs.map (fun x => scaleOf fmt x.1 x.2 (factorExp fmt k))) sg

/-- Sets an accumulator row to +0 without marks. -/
def zeroRow (row : Nat) (m : Mat) : Mat := { m with acc := m.acc.filter (fun p => p.1 / 128 != row) }

end Sys2Proof.Machine
end

