-- ==== Sys2Proof/Machine/CellOps.lean ====
section
/-! DEFINITION. The operations that a stage word of a vector cell names, on sixteen lanes, and the check of a stage word
(07 R211 to R223; 01 R29, R41, R42). -/

namespace Sys2Proof.Machine

/-- Sixteen lanes; a lane that is not listed reads zero. -/
abbrev Lanes := List LaneVal

def Lanes.at (l : Lanes) (i : Nat) : LaneVal := l.getD i .zero
def Lanes.splat (v : LaneVal) : Lanes := List.replicate 16 v
def Lanes.ofFn (f : Nat → LaneVal) : Lanes := (List.range 16).map f

/-! ## Stage words (07 R211) -/

/-- The fields of a stage word. -/
structure StageWord where
  opc : Nat
  dst : Nat
  sa : Nat
  sb : Nat
  sc : Nat
  md : Nat
  deriving DecidableEq, Repr

def StageWord.ofWord (w : W32) : StageWord :=
  let v := w.toNat
  ⟨v / 2 ^ 25, v / 2 ^ 20 % 32, v / 2 ^ 14 % 64, v / 2 ^ 8 % 64, v / 4 % 64, v % 4⟩

/-- How an operation uses its fields: the number of operands, whether every MOD is allowed, and its destination: 0 none,
1 a value, 2 a control port. -/
structure OpForm where
  n : Nat
  anyMod : Bool
  dst : Nat
  deriving DecidableEq, Repr

/-- The operations of 07 R214 to R223. -/
def opForm (opc : Nat) : Option OpForm :=
  match opc with
  | 0x00 => some ⟨0, false, 0⟩
  | 0x01 => some ⟨1, false, 1⟩
  | 0x02 => some ⟨3, false, 1⟩
  | 0x03 => some ⟨2, true, 1⟩
  | 0x04 => some ⟨2, true, 1⟩
  | 0x05 => some ⟨2, true, 1⟩
  | 0x06 => some ⟨3, true, 1⟩
  | 0x07 => some ⟨3, true, 1⟩
  | 0x08 => some ⟨2, true, 1⟩
  | 0x09 => some ⟨1, true, 1⟩
  | 0x0A => some ⟨1, true, 1⟩
  | 0x0B => some ⟨2, false, 1⟩
  | 0x0C => some ⟨2, false, 1⟩
  | 0x0D => some ⟨3, false, 1⟩
  | 0x0E => some ⟨1, false, 1⟩
  | 0x0F => some ⟨1, false, 1⟩
  | 0x10 => some ⟨2, true, 1⟩
  | 0x1B => some ⟨3, false, 1⟩
  | 0x22 => some ⟨3, false, 1⟩
  | 0x29 => some ⟨2, true, 1⟩
  | 0x37 => some ⟨1, false, 1⟩
  | 0x3F => some ⟨1, false, 0⟩
  | 0x40 => some ⟨3, false, 1⟩
  | 0x41 => some ⟨2, false, 1⟩
  | 0x42 => some ⟨2, false, 1⟩
  | 0x43 => some ⟨2, true, 1⟩
  | 0x44 => some ⟨2, true, 1⟩
  | 0x48 => some ⟨2, false, 1⟩
  | 0x49 => some ⟨2, false, 1⟩
  | 0x4A => some ⟨3, false, 1⟩
  | 0x4B => some ⟨3, false, 1⟩
  | 0x50 => some ⟨1, true, 1⟩
  | 0x58 => some ⟨1, true, 1⟩
  | 0x60 => some ⟨1, false, 1⟩
  | 0x61 => some ⟨2, false, 0⟩
  | 0x62 => some ⟨3, false, 1⟩
  | 0x63 => some ⟨2, true, 0⟩
  | 0x64 => some ⟨2, false, 0⟩
  | 0x70 => some ⟨1, false, 2⟩
  | 0x71 => some ⟨2, false, 0⟩
  | 0x7F => some ⟨1, false, 0⟩
  | _ =>
    if 0x18 ≤ opc ∧ opc ≤ 0x28 then some ⟨2, false, 1⟩
    else if 0x30 ≤ opc ∧ opc ≤ 0x36 then some ⟨1, true, 1⟩
    else if 0x38 ≤ opc ∧ opc ≤ 0x3E then some ⟨1, false, 1⟩
    else if 0x51 ≤ opc ∧ opc ≤ 0x55 then some ⟨1, false, 1⟩
    else if 0x59 ≤ opc ∧ opc ≤ 0x5B then some ⟨1, false, 1⟩
    else if 0x68 ≤ opc ∧ opc ≤ 0x6B then some ⟨2, true, 1⟩
    else none

/-- May the controller accept a stage word (07 R211)? -/
def stageOk (w : W32) : Bool :=
  let g := StageWord.ofWord w
  match opForm g.opc with
  | none => false
  | some f =>
    let sel (n x : Nat) : Bool := if n < f.n then decide (x < 0x30) else x == 0
    sel 0 g.sa && sel 1 g.sb && sel 2 g.sc && (f.anyMod || g.md == 0) &&
    (if f.dst = 0 then g.dst == 0
     else if f.dst = 2 then decide (5 ≤ g.dst ∧ g.dst ≤ 8)
     else decide (g.dst ≤ 4) || decide (0x10 ≤ g.dst)) &&
    (g.opc != 0x71 || decide (0x08 ≤ g.sa ∧ g.sa ≤ 0x0B))

/-- Does an operation read the lane store, and does it write it (07 R221)? -/
def opReadsLs (opc : Nat) : Bool := opc == 0x60 || opc == 0x62 || opc == 0x63 || opc == 0x64
def opWritesLs (opc : Nat) : Bool := opc == 0x61 || opc == 0x63 || opc == 0x64

/-! ## Operations within one lane (07 R214 to R218) -/

def bi (v : W32) : Int := v.toInt
def w32i (i : Int) : W32 := BitVec.ofInt 32 i
def ones (b : Bool) : W32 := if b then 0xFFFFFFFF else 0

/-- Multiplication of a value by 2^n, rounded once. -/
def fscale (a : W32) (n : Int) (rm : RMode) : W32 :=
  match f32 a with
  | .fin neg d => w32 (roundV fp32 (.fin neg ⟨d.m, d.e + n⟩) rm)
  | v => w32 (roundV fp32 v rm)

/-- The result of an operation that stays within its lane; `seedStep` is the random number of `cvt.sr`. -/
def laneOp (opc md : Nat) (a b c : W32) (r : Nat) : W32 :=
  match opc with
  | 0x01 => a
  | 0x02 => if a ≠ 0 then b else c
  | 0x03 => fadd a b md
  | 0x04 => fsub a b md
  | 0x05 => fmul a b md
  | 0x06 => ffma a b c md
  | 0x07 => ffnma a b c md
  | 0x08 => fdiv a b md
  | 0x09 => fsqrt a md
  | 0x0A => fexp2 a md
  | 0x0B => fmin a b
  | 0x0C => fmax a b
  | 0x0D => fmin (fmax a b) c
  | 0x0E => a &&& 0x7FFFFFFF
  | 0x0F => a ^^^ 0x80000000
  | 0x10 => ones (fcmp md a b)
  | 0x18 => a + b
  | 0x19 => a - b
  | 0x1A => a * b
  | 0x1B => a * b + c
  | 0x1C => w32i (satI 32 (bi a + bi b))
  | 0x1D => w32i (satI 32 (bi a - bi b))
  | 0x1E => if bi b < bi a then b else a
  | 0x1F => if bi a < bi b then b else a
  | 0x20 => if b.toNat < a.toNat then b else a
  | 0x21 => if a.toNat < b.toNat then b else a
  | 0x22 =>
    let m := if bi a < bi b then b else a
    if bi c < bi m then c else m
  | 0x23 => a &&& b
  | 0x24 => a ||| b
  | 0x25 => a ^^^ b
  | 0x26 => a <<< (b.toNat % 32)
  | 0x27 => a >>> (b.toNat % 32)
  | 0x28 => a.sshiftRight (b.toNat % 32)
  | 0x29 => ones (match md with
    | 0 => a == b
    | 1 => a != b
    | 2 => decide (bi a < bi b)
    | _ => decide (a.toNat < b.toNat))
  | 0x30 => w32 (roundDy fp32 false (.ofInt (bi a)) md)
  | 0x31 => w32i (roundSatI 32 (f32 a) md)
  | 0x32 => w32 (roundV bf16 (f32 a) md)
  | 0x33 => w32 (roundV fp16 (f32 a) md)
  | 0x34 => w32 (roundV e4m3 (f32 a) md)
  | 0x35 => w32 (roundV e5m2 (f32 a) md)
  | 0x36 => w32 (roundV e2m1 (f32 a) md)
  | 0x37 => w32 (if isNan a then 0x7FC0 else if srRandom a then srBf16 a r else a.toNat / 2 ^ 16)
  | 0x38 => widen bf16 (a.toNat % 2 ^ 16)
  | 0x39 => widen fp16 (a.toNat % 2 ^ 16)
  | 0x3A => widen e4m3 (a.toNat % 2 ^ 8)
  | 0x3B => widen e5m2 (a.toNat % 2 ^ 8)
  | 0x3C => widen e2m1 (a.toNat % 2 ^ 4)
  | 0x3D => w32i (satI 8 (bi a))
  | 0x3E => w32i (satI 16 (bi a))
  | 0x42 =>
    let n := b.toNat % 64
    if n = 0 ∨ n > 32 then a else w32i (sval n a.toNat)
  | 0x43 => fmul a (widen bf16 (b.toNat % 2 ^ 16)) md
  | 0x44 => if b.toNat % 256 = 255 then fnan else fscale a ((b.toNat % 256 : Nat) - 127) md
  | _ => 0

/-! ## Reductions and scans (07 R219; 01 R41, R42) -/

/-- The combination ⊕ and its identity. -/
def redOp (opc md : Nat) (x y : W32) : W32 :=
  match opc with
  | 0x50 => fadd x y md
  | 0x58 => fadd x y md
  | 0x51 => fmax x y
  | 0x59 => fmax x y
  | 0x52 => fmin x y
  | 0x53 => x + y
  | 0x5A => x + y
  | 0x54 => laneOp 0x1F 0 x y 0 0
  | 0x5B => laneOp 0x1F 0 x y 0 0
  | _ => laneOp 0x1E 0 x y 0 0

def redIdent (opc : Nat) : W32 :=
  match opc with
  | 0x50 => 0x80000000
  | 0x58 => 0x80000000
  | 0x51 => 0xFF800000
  | 0x59 => 0xFF800000
  | 0x52 => 0x7F800000
  | 0x53 => 0
  | 0x5A => 0
  | 0x54 => 0x80000000
  | 0x5B => 0x80000000
  | _ => 0x7FFFFFFF

/-- One level of the tree of 01 R41. -/
def pairUp (f : W32 → W32 → W32) : List W32 → List W32
  | a :: b :: t => f a b :: pairUp f t
  | l => l

def redTree (f : W32 → W32 → W32) (l : List W32) : W32 :=
  (pairUp f (pairUp f (pairUp f (pairUp f l)))).headD 0

/-- One level of the scan of 01 R42. -/
def scanLevel (f : W32 → W32 → W32) (d : Nat) (l : List W32) : List W32 :=
  (List.range 16).map (fun i => if i < d then l.getD i 0 else f (l.getD (i - d) 0) (l.getD i 0))

def scanAll (f : W32 → W32 → W32) (l : List W32) : List W32 :=
  scanLevel f 8 (scanLevel f 4 (scanLevel f 2 (scanLevel f 1 l)))

/-! ## Lane movement, planes and pruning (07 R218, R220, R222) -/

/-- The rank of a lane's magnitude: NaN above every number. -/
def pruneMag (fl : Bool) (v : W32) : Nat :=
  if fl then (if isNan v then 2 ^ 33 else v.toNat % 2 ^ 31) else (bi v).natAbs

/-- The lanes of a group that pruning keeps. -/
def pruneKeep (fl : Bool) (on : Nat → Bool) (a : Nat → W32) (m n L : Nat) : Bool :=
  let base := L / m * m
  let before := (List.range m).filter (fun j =>
    let k := base + j
    k != L && on k && (decide (pruneMag fl (a k) > pruneMag fl (a L)) || (decide (pruneMag fl (a k) = pruneMag fl (a L)) && decide (k < L))))
  on L && decide (before.length < min n m)

/-- The mask of `plx`. -/
def planeMask (on : Nat → Bool) (a : Nat → W32) (j k : Nat) : Nat :=
  if k < 2 ∨ k > 8 ∨ j ≥ k then 0
  else (List.range 16).foldl (fun m L => if on L && (a L).toNat.testBit (k - 1 - j) then m + 2 ^ L else m) 0

/-- The result of an operation that moves values between lanes, from the operands of all lanes. The parameter read from lane 0 feeds every
lane of the result with its poison, which lane 0 can carry while it is off (07 R213). -/
def crossOp (opc md : Nat) (on : Nat → Bool) (a b c : Lanes) : Lanes :=
  let av := fun i => (a.at i).v
  let b0 := (b.at 0).v.toNat
  let anyP := (List.range 16).any (fun i => on i && (a.at i).p)
  let bp := (b.at 0).p
  let marked := fun (v : LaneVal) => { v with p := v.p || bp }
  match opc with
  | 0x40 =>
    let m := w32 (planeMask on av (b0 % 16) ((c.at 0).v.toNat % 16))
    Lanes.splat ⟨m, anyP || bp || (c.at 0).p⟩
  | 0x41 => Lanes.ofFn (fun L => ⟨(a.at L).v * 2 + (if b0.testBit L then 1 else 0), (a.at L).p || bp⟩)
  | 0x48 => Lanes.ofFn (fun L => a.at ((b.at L).v.toNat % 16))
  | 0x49 => Lanes.splat (marked (a.at (b0 % 16)))
  | 0x4A =>
    let n := min (b0 % 32) 16
    Lanes.ofFn (fun L => marked (if n ≤ L then a.at (L - n) else c.at L))
  | 0x4B =>
    let n := min (b0 % 32) 16
    Lanes.ofFn (fun L => marked (if L + n ≤ 15 then a.at (L + n) else c.at L))
  | _ =>
    if 0x50 ≤ opc ∧ opc ≤ 0x55 then
      Lanes.splat ⟨redTree (redOp opc md) ((List.range 16).map (fun i => if on i then av i else redIdent opc)), anyP⟩
    else if 0x58 ≤ opc ∧ opc ≤ 0x5B then
      let r := scanAll (redOp opc md) ((List.range 16).map (fun i => if on i then av i else redIdent opc))
      Lanes.ofFn (fun L => ⟨r.getD L 0, (List.range (L + 1)).any (fun i => on i && (a.at i).p)⟩)
    else
      let fl := opc == 0x68 || opc == 0x6A
      let m := 2 ^ (md + 1)
      let keep := pruneKeep fl on av m (b0 % 32)
      let grpP := fun L => (List.range m).any (fun j => on (L / m * m + j) && (a.at (L / m * m + j)).p)
      if opc = 0x68 ∨ opc = 0x69 then Lanes.ofFn (fun L => ⟨if keep L then av L else 0, grpP L || bp⟩)
      else
        Lanes.splat ⟨w32 ((List.range 16).foldl (fun s L => if keep L then s + 2 ^ L else s) 0), anyP || bp⟩

/-- Does an operation move values between lanes? -/
def isCross (opc : Nat) : Bool :=
  opc == 0x40 || opc == 0x41 || decide (0x48 ≤ opc ∧ opc ≤ 0x4B) || decide (0x50 ≤ opc ∧ opc ≤ 0x5B) || decide (0x68 ≤ opc ∧ opc ≤ 0x6B)

/-- Does an operand that leaves the datapath carry poison in a lane that is on (07 R213)? -/
def poisonLeaves (opc : Nat) (on : Nat → Bool) (a b c : Lanes) : Bool :=
  let any (l : Lanes) : Bool := (List.range 16).any (fun i => on i && (l.at i).p)
  let zero (l : Lanes) : Bool := on 0 && (l.at 0).p
  match opc with
  | 0x3F => zero a
  | 0x40 => zero b || zero c
  | 0x41 => zero b
  | 0x48 => any b
  | 0x49 => zero b
  | 0x4A => zero b
  | 0x4B => zero b
  | 0x60 => any a
  | 0x61 => any a
  | 0x62 => any a || any b || any c
  | 0x63 => any a
  | 0x64 => any a
  | 0x68 => zero b
  | 0x69 => zero b
  | 0x6A => zero b
  | 0x6B => zero b
  | 0x70 => zero a
  | 0x71 => zero b
  | 0x7F => any a
  | _ => false

end Sys2Proof.Machine
end

