-- ==== Sys2Proof/Machine/Route.lean ====
section
/-! DEFINITION. The Unuth links of the domain and the path of a packet over them (18 R407, R408). A direction is 0 for AB and 1 for BA. The
four virtual channels of a link carry different messages in buffers of their own; which of the messages due the next turn takes is the agenda's
choice (log entry 83). -/

namespace Sys2Proof.Machine

/-! ## Where a link goes (18 R407) -/

/-- The device number that the slot gives. -/
def slotOf : Nat := Config.slot % 144

/-- The device at the far end of link j of device d. -/
def linkPeer (d j : Nat) : Nat :=
  let r := d / 12
  let c := d % 12
  if j < 11 then r * 12 + (if j < c then j else j + 1) else (if j - 11 < r then j - 11 else j - 10) * 12 + c

/-- The direction in which this device receives on a link. -/
def rxDir (j : Nat) : Nat := if linkPeer slotOf j < slotOf then 0 else 1
def txDir (j : Nat) : Nat := 1 - rxDir j

def link (s : State) (j : Nat) : Link := mget s.links j .reset
def updLink (j : Nat) (f : Link → Link) (s : State) : State := { s with links := mset s.links j (f (link s j)) }

/-- The state of a lane: 0 spare, 1 active AB, 2 active BA, 3 failed, 4 training (18 R410). -/
def Link.lane (k : Link) (i : Nat) : Nat := mget k.lanes i 0

/-- The active lanes of a direction. -/
def Link.width (k : Link) (dir : Nat) : Nat := ((List.range 18).filter (fun i => k.lane i == dir + 1)).length

def Link.down (k : Link) (dir : Nat) : Bool := if dir = 0 then k.dnab else k.dnba
def Link.setDown (k : Link) (dir : Nat) (b : Bool) : Link := if dir = 0 then { k with dnab := b } else { k with dnba := b }

/-- Does a direction carry flits? -/
def Link.carries (k : Link) (dir : Nat) : Bool := !k.down dir && !k.retrain.contains dir

/-- The link of this device to another of its row or column. -/
def linkTo (dev : Nat) : Option Nat := (List.range 22).find? (fun j => linkPeer slotOf j == dev)

/-! ## Paths (18 R408) -/

/-- Is the link between two devices of a row or column up, with no direction down? What this device knows of links between two others, it has
been told. -/
def linkUp (s : State) (a b : Nat) : Bool :=
  if a = slotOf ∨ b = slotOf then (match linkTo (if a = slotOf then b else a) with
    | some j => !(link s j).dnab && !(link s j).dnba
    | none => false)
  else !s.farDown.contains (min a b, max a b)

/-- Do two devices share a row or a column? -/
def adjacent (a b : Nat) : Bool := a != b && (a / 12 == b / 12 || a % 12 == b % 12)

/-- Is every hop of a path up, and every device on its way a member (18 R413)? -/
def pathUp (s : State) : List Nat → Bool
  | a :: b :: l => adjacent a b && linkUp s a b && (l.isEmpty || isMember s b) && pathUp s (b :: l)
  | _ => true

/-- The devices of a path with the row hop first, and with the column hop first; a peer of the row or column is reached directly. -/
def rowPath (a b : Nat) : List Nat := if adjacent a b then [a, b] else [a, a / 12 * 12 + b % 12, b]
def colPath (a b : Nat) : List Nat := if adjacent a b then [a, b] else [a, b / 12 * 12 + a % 12, b]

/-- The path of a packet from this device to another: the row hop first; where that is blocked the column hop first; else by the lowest member
of this row whose two links to the next device of either path are up, in three hops at most (log entry 135). -/
def route (s : State) (b : Nat) : Option (List Nat) :=
  let a := slotOf
  let row := (List.range 12).map (fun c => a / 12 * 12 + c)
  let detours := row.flatMap (fun m => if m = a ∨ !isMember s m then [] else [rowPath a b, colPath a b].map (fun p => a :: m :: p.drop 1))
  ([rowPath a b, colPath a b] ++ detours.filter (fun p => decide (p.length ≤ 4))).find? (pathUp s)

/-- Does a path lead to a device of the domain? -/
def reachable (s : State) (d : Nat) : Bool := isMember s d && (route s d).isSome

end Sys2Proof.Machine
end

