-- ==== Sys2Proof/Machine/Access.lean ====
section
/-! DEFINITION. A request that was sent away is performed on this device: at the home to which its page has moved, or for another
device (05 R141, R142; 13 R345). -/

namespace Sys2Proof.Machine

/-- The value of a load of w bytes (05 R141). -/
def loadValue (w : Nat) (signed : Bool) (n : Nat) : Word :=
  if signed then BitVec.signExtend 64 (BitVec.ofNat (8 * w) n) else BitVec.ofNat 64 (n % 2 ^ (8 * w))

/-- The bytes of a load that came back joined with those that were here. -/
def mergeBytes (m here came : Nat) : Nat → Nat
  | 0 => 0
  | n + 1 => mergeBytes m here came n + (if m.testBit n then here / 256 ^ n % 256 else came / 256 ^ n % 256) * 256 ^ n

/-- A waiting load completes with the data of its request. -/
def finishLoad (c : Nat) (r : Req) (v : Nat) (s : State) : State :=
  match (thr s c).wait with
  | .load rd w signed _ =>
    advanceCore c 4 (wxCore c rd (loadValue w signed (mergeBytes r.expect.toNat r.b.toNat v w)) s)
  | _ => s

/-- Does a request ask for its byte j? A load asks for those that were not here (05 R141). -/
def Req.asks (r : Req) (j : Nat) : Bool := r.kind != 0 || !r.expect.toNat.testBit j

/-- Is a byte that a request asks for poisoned? -/
def askedPois (r : Req) (ps : List Place) (s : State) : Bool :=
  ((List.range ps.length).zip ps).any (fun x => r.asks x.1 && placePois s x.2)

/-- A request performed at places of this device, one for each of its bytes. -/
def performHere (r : Req) (ps : List Place) (s : State) : State :=
  let p := ps.headD (.dev 0)
  match r.kind with
  | 0 => if askedPois r ps s then trapCore r.core 0x109 (BitVec.ofNat 64 r.va) s
         else finishLoad r.core r (leNat (readPlaces s ps)) s
  | 1 => snapDone r (writePlaces s ps r.bytes (r.fn == 2))
  | 3 => performTag r p s
  | 6 => placeSetTag (writePlaces s ps r.bytes false) p (r.fn == 1)
  | _ => performAmo r p s

/-- The places of a request, in the order of its bytes, where p is that of the first that it asks for. -/
def Req.from (r : Req) (p : Place) : List Place :=
  let j := ((List.range r.width).find? r.asks).getD 0
  (List.range r.width).map (fun i => p.plus (i - j))

/-- A store of another device at an address of this device's memory (05 R142; log entry 107): up to 8 bytes, or words, within one line of
64. -/
def peerStore (pa : Nat) (bytes : List Byte) (s : State) : State :=
  if bytes.isEmpty ∨ (bytes.length > 8 ∧ bytes.length % 4 ≠ 0) ∨ pa / 64 ≠ (pa + bytes.length - 1) / 64 ∨ pa ≥ devTop then s
  else if (migAt s (.dev pa)).isSome then
    sendPeer { peerReq (.dev pa) 1 0 [] (BitVec.ofNat 64 (leNat bytes)) 0 bytes.length with
              ws := if bytes.length > 8 then (List.range (bytes.length / 4)).map (fun i => BitVec.ofNat 32 (leNat ((bytes.drop (4 * i)).take 4)))
                    else [] } s
  else placeWrite s (.dev pa) bytes false

/-! ## Stores that cannot be delivered (05 R142) -/

/-- The other runs of a store that has failed: its thread is told once. -/
def tellOnce (r : Req) (l : List Req) : List Req :=
  l.map (fun x => if x.kind = 1 ∧ x.thread = r.thread ∧ x.rd = r.rd ∧ r.rd ≠ 0 ∧ x.wait = false then { x with fn := 1 } else x)

/-- Does a request go to a device of the domain that no path reaches (18 R408)? -/
def Req.lost (r : Req) (s : State) : Bool :=
  match r.place with
  | .peer d _ => !reachable s d
  | _ => false

/-- A store that cannot be delivered, no more among the requests: its thread is told once for each store, unless the store is a
snapshot's block, whose instruction then completes. -/
def failStore (r : Req) (s : State) : State :=
  let s1 := snapDone r { s with reqs := tellOnce r s.reqs }
  if r.fn = 1 then s1 else raiseThread r.thread 0x10E r.expect 0 s1

end Sys2Proof.Machine
end

