-- ==== Sys2Proof/Machine/Sync.lean ====
section
/-! DEFINITION. Fences, acquire, release and binding: major 0x3A; barriers: major 0x3B (05 R154 to R158). -/

namespace Sys2Proof.Machine

/-! ## Order (05 R156) -/

/-- 05 R156. Accesses are performed at their steps; what is on its way is waited for. Every cached line can be one of the thread's space, and
leaves at domain scope (log entry 126). -/
def execFence (g sc : Nat) (s : State) : Out :=
  issue g 4 [] s (fun s => releasing sc [] s (fun s =>
    advance 4 (if sc = 4 then lcInvalidate (fun _ => true) (lcWriteBack (fun _ => true) s) else s)))

/-- 05 R156. -/
def execAcq (ra g sc : Nat) (s : State) : Out :=
  issue g 4 [ra] s (fun s => advance 4 (acquireBy (th s) (rx s ra) sc s))

/-- 05 R156. -/
def execRel (ra g sc : Nat) (s : State) : Out :=
  issue g 4 [ra] s (fun s => releasing sc [rx s ra] s (advance 4))

/-- Does a word name an object (05 R155)? -/
def objectOk (s : State) (o : Word) : Bool :=
  bits o 63 56 == 0 || lockNameOk s (th s).asid.toNat o ||
  (bits o 63 56 == 0x40 && bits o 55 16 == 0 && !bit o 7 && decide (bits o 6 0 < 96))

/-- 05 R156: the region lies in device memory. The base is taken with all its 64 bits, so that one above device memory is refused, and
BINDVAL comes before BINDFULL (log entry 112). -/
def execBind (rd ra rb g : Nat) (s : State) : Out :=
  issue g 4 [rd, ra, rb] s (fun s =>
    let o := rx s rd
    let base := (rx s ra).toNat
    let len := (rx s rb).toNat
    if !objectOk s o || len == 0 || decide (base + len > winBase) then trap 0x113 o s
    else if (th s).bind.length ≥ 16 then trap 0x112 o s
    else advance 4 (updMe s (fun t => { t with bind := t.bind ++ [⟨o, base, len⟩] })))

/-- 05 R156. -/
def execUnbind (rd g : Nat) (s : State) : Out :=
  issue g 4 [rd] s (fun s => advance 4 (updMe s (fun t => { t with bind := t.bind.filter (fun b => b.obj != rx s rd) })))

/-! ## Barriers (05 R158) -/

def barrier (s : State) (c b : Nat) : Barrier := mget (thr s c).bar b .zero
def setBarrier (c b : Nat) (v : Barrier) (s : State) : State := updThr s c (fun t => { t with bar := mset t.bar b v })

/-- The owner of a barrier: the issuing core, or the core that X[RA] names; none when X[RA] is not a core. -/
def barOwner (s : State) (ra : Nat) : Option Nat :=
  if ra = 0 then some s.cur else if bits (rx s ra) 63 8 = 0 then some (bits (rx s ra) 7 0) else none

/-- Does the owner run a thread of the issuer's space? -/
def barSpaceOk (s : State) (o : Nat) : Bool := (thr s o).asid == (th s).asid

/-- An arrival at a barrier: the phase it saw, and the state after. -/
def barArriveAt (o b : Nat) (s : State) : Bool × State :=
  let v := barrier s o b
  let a := v.arrivals + 1
  (v.phase, setBarrier o b (if a = v.target then { v with arrivals := 0, phase := !v.phase } else { v with arrivals := a }) s)

/-- The checks of an arrival or a wait, then its effect at the owner. BARSPACE comes before BARINIT (log entry 112). -/
def barCheck (ra b : Nat) (arrive : Bool) (s : State) (f : Nat → State → State) : State :=
  let tv := BitVec.ofNat 64 b
  match barOwner s ra with
  | none => trap 0x117 tv s
  | some o =>
    if !barSpaceOk s o then trap 0x115 tv s
    else if arrive && (barrier s o b).target == 0 then trap 0x114 tv s
    else f o s

/-- 05 R158. -/
def execBarInit (ra g n : Nat) (s : State) : Out :=
  issue g 4 [ra] s (noTx (fun s =>
    let v := rx s ra
    if bits v 63 16 ≠ 0 then trap 0x117 (BitVec.ofNat 64 n) s
    else
      let old := barrier s s.cur n
      advance 4 (setBarrier s.cur n { old with target := BitVec.ofNat 16 v.toNat, arrivals := 0 } s)))

/-- The object of a barrier of a core (05 R155). -/
def barObject (o b : Nat) : Word := BitVec.ofNat 64 (0x40 * 2 ^ 56 + o * 256 + b)

/-- 05 R158: a release of the barrier (R157). -/
def execBarArrive (rd ra g n : Nat) (s : State) : Out :=
  issue g 4 [ra] s (noTx (barCheck ra n true · (fun o s =>
    releasing 3 [barObject o n] s (fun s =>
      let (ph, s1) := barArriveAt o n s
      retX rd (if ph then 1 else 0) s1))))

/-- 05 R158: RD gives the phase to leave. It is an acquire at device scope (R157), at which no cached line is invalidated (R156). -/
def execBarWait (rd ra g n : Nat) (s : State) : Out :=
  issue g 4 [rd, ra] s (noTx (barCheck ra n false · (fun o s =>
    if (barrier s o n).phase != bit (rx s rd) 0 then advance 4 s else spin true s)))

/-- Forgets that the `bar.sync` at the program counter has arrived. -/
def clearSynced (s : State) : State :=
  updMe s (fun t => { t with synced := mdel t.synced t.pc.toNat })

/-- 05 R158: the arrival, a release of the barrier (R157), is made once; an interrupted `bar.sync` resumes at its wait. -/
def execBarSync (ra g n : Nat) (s : State) : Out :=
  issue g 4 [ra] s (noTx (fun s =>
    match mget? (th s).synced (th s).pc.toNat with
    | some ph => barCheck ra n false s (fun o s =>
        if (barrier s o n).phase != ph then advance 4 (clearSynced s) else spin true s)
    | none => barCheck ra n true s (fun o s => releasing 3 [barObject o n] s (fun s =>
        let (ph, s1) := barArriveAt o n s
        if (barrier s1 o n).phase != ph then advance 4 s1
        else spin true (updMe s1 (fun t => { t with synced := mset t.synced t.pc.toNat ph }))))))

/-- The barrier at which core c waits. -/
def barAt (s : State) (c : Nat) : Option Nat :=
  match (fetchInstr s c).1 with
  | .ok (.barWait _ _ _ n) => some n
  | .ok (.barSync _ _ n) => some n
  | _ => none

/-- 05 R158: the wait overruns its bound (R146). The arrival of a `bar.sync` stands: issued again, it resumes at its
wait. -/
def execBarrierWaitTimeout (c : Nat) (s : State) : Out :=
  .next (if (thr s c).wait = .again true ∧ overrun s c then
      match barAt s c with
      | some n => trapCore c 0x116 (BitVec.ofNat 64 n) s
      | none => s
    else s)

end Sys2Proof.Machine
end

