-- ==== Sys2Proof/Machine/Cpl.lean ====
section
/-! DEFINITION. Completion objects (06 R169 to R172). -/

namespace Sys2Proof.Machine

/-- The place of a completion object for a thread, or the cause that refuses it (06 R169 steps 2 and 3; 13 R336). -/
def cplPlace (s : State) (c : Nat) (a : Nat) : Except (BitVec 10) Place × State :=
  if a % 16 ≠ 0 ∨ ¬ (region a = 0 ∨ region a = 2) then (.error 0x201, s)
  else
    match access s c a 16 needW false with
    | (.fault x _, s1) => (.error x, s1)
    | (.ok ps, s1) =>
      match ps.headD (.dev 0) with
      | .hub _ => (.error 0x046, s1)
      | p => (.ok p, s1)

/-- The issue of an operation with a completion object (06 R169): steps 2 and 3, then the instruction's own checks
`f`, which answers a cause with its CC_TVAL, a wait, or the state with the operation sent; the object is emptied before
the operation is sent. A page that is moving holds the instruction (13 R345). -/
inductive Issue where
  | cause (c : BitVec 10) (tval : Word)
  | wait
  | send (f : State → State)

def issueCpl (xc : Word) (s : State) (f : State → Issue × State) : State :=
  let a := addr56 xc
  match cplPlace s s.cur a with
  | (.error x, s1) => trap x (BitVec.ofNat 64 a) s1
  | (.ok p, s1) =>
    match f s1 with
    | (.cause c tv, s2) => trap c tv s2
    | (.wait, s2) => spin false s2
    | (.send go, s2) =>
      if (migAt s2 p).isSome then spinMoved false p s2 else go (placeSetTag (placeWrite s2 p (toBytes 4 0) false) p false)

/-- Who owns an operation: the core of its thread, its space and its mode. -/
structure Owner where
  core : Nat
  asid : BitVec 16
  supv : Bool
  deriving DecidableEq, Repr

def Owner.who (o : Owner) : Who := ⟨coreQuarter o.core, o.asid.toNat, o.supv, none⟩

/-- The owner that the current thread makes. -/
def myOwner (s : State) : Owner := ⟨s.cur, (th s).asid, (th s).status.supv⟩

/-- The place of an address for an engine of an owner (05 R138; 13 R337): device memory or the core's local memory. -/
def ownerPlace (s : State) (o : Owner) (va : Nat) (n : Need) : Except (BitVec 10) Place × State :=
  match region va with
  | 0 => xlate s o.who va n true
  | 2 => (.ok (.loc o.core (locOff va)), s)
  | _ => (.error 0x106, s)

/-- The status word of an object (06 R170): STATE, CAUSE, CTAG, KIND. -/
def cplWord (state cause ctag kind : Nat) : Nat := state * 2 ^ 28 + cause * 2 ^ 16 + ctag * 256 + kind

/-- Writes the first words of a completion object and then its tag. On a page that is moving the write stands among the page's requests
(13 R345). -/
def cplWrite (o : Owner) (xc : Word) (ws : List W32) (full : Bool) (s : State) : State :=
  match ownerPlace s o (addr56 xc) needW with
  | (.error _, s1) => s1
  | (.ok p, s1) =>
    if (migAt s1 p).isSome then
      sendReq { peerReq p 6 (if full then 1 else 0) ws 0 0 (4 * ws.length) with core := o.core, va := addr56 xc, asid := o.asid.toNat } s1
    else placeSetTag (placeWrite s1 p (ws.flatMap (fun w => toBytes 4 w.toNat)) false) p full

/-- Sets a completion object: words 1 to 3, then word 0, then its tag (06 R170). Waiters at the word are served by
05 R147. -/
def setCpl (o : Owner) (xc : Word) (status d1 d2 d3 : Nat) (s : State) : State :=
  cplWrite o xc [BitVec.ofNat 32 status, BitVec.ofNat 32 d1, BitVec.ofNat 32 d2, BitVec.ofNat 32 d3] true s

/-- The low and the high half of an address, for words 2 and 3. -/
def lowHalf (a : Nat) : Nat := a % 2 ^ 32
def highHalf (a : Nat) : Nat := a / 2 ^ 32

/-! ## The codes of STATE -/

def stDone : Nat := 1
def stFault : Nat := 2
def stCancelled : Nat := 3
def stStopped : Nat := 4

end Sys2Proof.Machine
end

