-- ==== Sys2Proof/Machine/Fabric.lean ====
section
/-! DEFINITION. The fabric: track identifiers, streets, avenues, bridges and relays, switch settings, and the hop of a
token (02 R54 to R59; 09 R257, R258, R271, R277, R278; 13 R357 to R359). -/

namespace Sys2Proof.Machine

/-! ## Zones (13 R357) -/

/-- A zone-map register: doubleword n of a block row. -/
def zmapReg (s : State) (q by_ n : Nat) : Nat := mget (quarter s q).zmap (by_ * 2 + n) 0

/-- The zone of a block. -/
def zoneOf (s : State) (b : Nat) : Nat :=
  zmapReg s (blockQ b) (blockY b) (blockX b / 16) / 16 ^ (blockX b % 16) % 16

/-! ## Identifiers (02 R57) -/

def idClass (i : Nat) : Nat := i / 1024 % 4
def idEdge (i : Nat) : Nat := i / 256 % 4
def idTrack (i : Nat) : Nat := i % 32
def idPos (i : Nat) : Nat := i / 8 % 64
def idLink (i : Nat) : Nat := i % 8
def trackId (cls edge track : Nat) : Nat := cls * 1024 + edge * 256 + track
def linkId (pos link : Nat) : Nat := 3 * 1024 + pos * 8 + link

/-- The identifier of a link of an element in its block's switch. -/
def elemLink (e link : Nat) : Nat := linkId (elemY e % 8 * 8 + elemX e % 8) link

/-- The element that a class 3 identifier names in a block. -/
def idElem (b i : Nat) : Nat := elemAddr (blockQ b) (blockY b * 8 + idPos i / 8) (blockX b * 8 + idPos i % 8)

/-! ## Neighbours (02 R58, R59; 09 R258) -/

/-- The block across an edge, the edge there, and the latency of the crossing; none where no such track exists. Edges:
0 north, 1 east, 2 south, 3 west; north is the lower block row. -/
def neighbour (b cls edge track : Nat) : Option (Nat × Nat × Nat) :=
  let q := blockQ b
  let y := blockY b
  let x := blockX b
  let n := if cls = 0 then 24 else if cls = 1 then 12 else 8
  let inside := decide (track < n)
  let bridge := (cls == 0 && decide (track < 8)) || (cls == 1 && decide (track < 4))
  let relay := (cls == 0 && decide (8 ≤ track ∧ track < 16)) || (cls == 1 && decide (4 ≤ track ∧ track < 8))
  match edge with
  | 0 => if y > 0 then (if inside then some (blockId q (y - 1) x, 2, 1) else none)
         else if q ≥ 2 ∧ bridge then some (blockId (q - 2) 24 x, 2, 8) else none
  | 1 => if x < 24 then (if inside then some (blockId q y (x + 1), 3, 1) else none)
         else if q % 2 = 0 ∧ bridge then some (blockId (q + 1) y 0, 3, 8)
         else if q = 0 ∧ y ≥ 17 ∧ relay then some (blockId 3 (y - 17) 0, 3, 24)
         else if q = 2 ∧ y < 8 ∧ relay then some (blockId 1 (y + 17) 0, 3, 24) else none
  | 2 => if y < 24 then (if inside then some (blockId q (y + 1) x, 0, 1) else none)
         else if q < 2 ∧ bridge then some (blockId (q + 2) 0 x, 0, 8) else none
  | _ => if x > 0 then (if inside then some (blockId q y (x - 1), 1, 1) else none)
         else if q % 2 = 1 ∧ bridge then some (blockId (q - 1) y 24, 1, 8)
         else if q = 1 ∧ y ≥ 17 ∧ relay then some (blockId 2 (y - 17) 24, 1, 24)
         else if q = 3 ∧ y < 8 ∧ relay then some (blockId 0 (y + 17) 24, 1, 24) else none

/-- The block across the edge of a track identifier. -/
def across (b i : Nat) : Option (Nat × Nat × Nat) := neighbour b (idClass i) (idEdge i) (idTrack i)

/-- Does an identifier keep the layout and name a track or link that exists (02 R57)? -/
def idOk (b i : Nat) : Bool :=
  decide (i < 4096) &&
  (if idClass i = 3 then decide (i % 1024 < 512) && !isStore (idElem b i)
   else decide (i / 32 % 8 = 0) && (across b i).isSome)

/-- Is the crossing a bridge or a relay? -/
def isBridge (b i : Nat) : Bool := idClass i != 3 && (match across b i with
  | some (_, _, l) => l != 1
  | none => false)

/-- The key of a track in the list of allotments: the block and identifier that drive it. -/
def trackKey (b i : Nat) (drives : Bool) : Nat :=
  if drives then b * 4096 + i
  else match across b i with
    | some (nb, e, _) => nb * 4096 + trackId (idClass i) e (idTrack i)
    | none => b * 4096 + i

/-! ## Switch settings (02 R57, R66; 09 R257, R258, R271) -/

def switch (s : State) (b : Nat) : Switch := mget s.switches b .zero
def updSwitch (s : State) (b : Nat) (f : Switch → Switch) : State := { s with switches := mset s.switches b (f (switch s b)) }
def Switch.sources (w : Switch) (d : Nat) : List Nat := mget w.drive d []
def Switch.held (w : Switch) (d : Nat) : List Token := mget w.hop d []

/-- May a district's setting use a track of its boundary (09 R257, R258)? Control routes never leave it (02 R54). -/
def edgeOk (s : State) (k : District) (b i : Nat) (drives : Bool) : Bool :=
  if idClass i = 3 then true
  else match across b i with
    | none => false
    | some (nb, _, _) =>
      if k.rect.has nb then true
      else
        let same := match districtAt s nb with
          | some d => (match mget? s.districts d with
            | some o => o.gang == k.gang && o.asid == k.asid
            | none => false)
          | none => false
        idClass i != 2 && k.gang != 0 && same &&
        (!isBridge b i || s.allot.all (fun a => a.1 != trackKey b i drives || (a.2.1 == k.asid.toNat && a.2.2 == k.gang)))

/-- Does an identifier name a control track or a control port (02 R54)? -/
def isCtl (i : Nat) : Bool := if idClass i = 3 then decide (4 ≤ idLink i) else idClass i == 2

/-- A source added to those of a destination. -/
def addSource (l : List Nat) (x : Nat) : List Nat := if l.contains x then l else l ++ [x]

/-- The destination that stands for every one in a block's pending commands: a CLEAR of the element at its origin (02 R70). -/
def clearAll : Nat := 4096

/-- The sources of a destination once the pending settings and clears of the block have applied to those of `l` (09 R271, R277). -/
def Switch.sourcesThen (w : Switch) (d : Nat) (l : List Nat) : List Nat :=
  w.pend.foldl (fun l p =>
    if p.1 = clearAll then []
    else if p.1 ≠ d then l
    else match p.2.1 with
      | none => []
      | some x => addSource l x) l

/-- Would a setting, or one of those that are pending, give a destination a third source (09 R271)? A pending setting comes behind those
already pending. -/
def Switch.third (w : Switch) (d x : Nat) (wave : Bool) : Bool :=
  if wave then decide ((addSource (w.sourcesThen d (w.sources d)) x).length > 2)
  else decide ((addSource (w.sources d) x).length > 2) || decide ((w.sourcesThen d (addSource (w.sources d) x)).length > 2)

/-- The check of a switch setting or clear of a block (02 R57, R65; 09 R257, R258, R271): control and data stay apart (02 R54; log entry
114). A setting may join a scalar link or track to a vector one: the
spec refuses none, and the token goes on as it is (log entry 115). -/
def switchCheck (s : State) (k : District) (b dest : Nat) (src : Option Nat) (wave : Bool) : Option (BitVec 10) :=
  let bad := !idOk b dest || (match src with
    | some x => !idOk b x || isCtl x != isCtl dest
    | none => false)
  if bad then some 0x144
  else match src with
    | none => none
    | some x =>
      if !edgeOk s k b dest true || !edgeOk s k b x false then some 0x146
      else if (switch s b).third dest x wave then some 0x144 else none

/-- Allots a bridge or relay track to a district's gang (09 R258). -/
def allotTrack (k : District) (b i : Nat) (drives : Bool) (s : State) : State :=
  let key := trackKey b i drives
  if !isBridge b i || s.allot.any (fun a => a.1 == key) then s else { s with allot := s.allot ++ [(key, k.asid.toNat, k.gang)] }

/-- Does a setting of a switch, applied or pending, name a track, as destination or as source? -/
def Switch.names (w : Switch) (i : Nat) (drives : Bool) : Bool :=
  if drives then !(w.sources i).isEmpty || w.pend.any (fun p => p.1 == i && p.2.1.isSome)
  else w.drive.any (fun p => p.2.contains i) || w.pend.any (fun p => p.2.1 == some i)

/-- Does any setting name a track? One that waits at its switch does (09 R258). -/
def trackNamed (s : State) (key : Nat) : Bool :=
  let b := key / 4096
  let i := key % 4096
  (switch s b).names i true ||
  (match across b i with
    | some (nb, e, _) => (switch s nb).names (trackId (idClass i) e (idTrack i)) false
    | none => false)

/-- Frees the tracks that no setting names (09 R258). -/
def freeTracks (s : State) : State := { s with allot := s.allot.filter (fun a => trackNamed s a.1) }

/-- Applies a setting: a second source makes a first-arrival merge (09 R271). -/
def switchSet (k : District) (b dest src : Nat) (s : State) : State :=
  let s1 := updSwitch s b (fun w =>
    let l := w.sources dest
    { w with drive := mset w.drive dest (addSource l src) })
  allotTrack k b src false (allotTrack k b dest true s1)

/-- Applies a clear: every source of the destination goes (09 R271). -/
def switchClear (b dest : Nat) (s : State) : State :=
  freeTracks (updSwitch s b (fun w => { w with drive := mdel w.drive dest, burst := mdel w.burst dest, made := mdel w.made dest }))

/-! ## Invocation labels of tokens that enter a district (09 R265) -/

/-- The label of tokens of the n-th invocation that has not started. -/
def upcoming (n : Nat) : Nat := if n = 0 then 0 else 2 ^ 40 + n

/-- The invocation to which the next token of a push link or boundary track belongs: the earliest that it has not closed
with a DONE. -/
def District.streamInv (d : District) (key port : Nat) : Nat :=
  ((d.invs.map (fun v => v.id) ++ (List.range 64).map upcoming).find? (fun i => !d.pushDone.contains (key, port, i))).getD 0

/-- A token enters a district by a push link or boundary track: its label, and the note that it closes the link. -/
def enterStream (d key port : Nat) (t : Token) (s : State) : Token × State :=
  match mget? s.districts d with
  | none => (t, s)
  | some k =>
    let i := k.streamInv key port
    ({ t with inv := i }, if t.kind = 8 then updDist s d (fun k => { k with pushDone := k.pushDone ++ [(key, port, i)] }) else s)

/-- The key of a boundary track. -/
def boundaryKey (b i : Nat) : Nat := 2 ^ 18 + b * 4096 + i

/-! ## Room -/

/-- A street runs east and west. -/
def isStreet (i : Nat) : Bool := idEdge i % 2 == 1

/-- The entries of the hop of a destination: two for each fc of its latency (02 R58, 09 R261). -/
def hopRoom (b : Nat) (w : Switch) (d : Nat) : Nat :=
  if idClass d = 3 then 2
  else
    let l := match across b d with
      | some (_, _, l) => l
      | none => 1
    let turn := (w.sources d).any (fun x => idClass x != 3 && isStreet x != isStreet d)
    2 * (l + if turn then 1 else 0)

/-- Is the clock of the district that holds a block gated (09 R262)? -/
def blockGated (s : State) (b : Nat) : Bool :=
  match districtAt s b with
  | some d => (match mget? s.districts d with
    | some k => k.gated
    | none => false)
  | none => false

/-! ## The hop (02 R58; 09 R271) -/

/-- The head token at a source identifier of a block's switch: an element's link, or the hop of the neighbour that
drives the track. -/
def sourceList (s : State) (b i : Nat) : List Token :=
  if idClass i = 3 then mget (elem s (idElem b i)).outL (idLink i) []
  else match across b i with
    | some (nb, e, _) => (switch s nb).held (trackId (idClass i) e (idTrack i))
    | none => []

def sourceSet (b i : Nat) (l : List Token) (s : State) : State :=
  if idClass i = 3 then updElem s (idElem b i) (fun x => { x with outL := mset x.outL (idLink i) l })
  else match across b i with
    | some (nb, e, _) => updSwitch s nb (fun w => { w with hop := mset w.hop (trackId (idClass i) e (idTrack i)) l })
    | none => s

/-- The destinations that a source drives in a switch. -/
def Switch.dests (w : Switch) (i : Nat) : List Nat := (w.drive.filter (fun p => p.2.contains i)).map Prod.fst

/-- Kinds that a first-arrival merge passes only from both sources at once (09 R271). -/
def Token.both (t : Token) : Bool := decide (1 ≤ t.kind ∧ t.kind ≤ 9)

/-- The sources that must move together with those given: n rounds of closure over merges. -/
def together (s : State) (b : Nat) : Nat → List Nat → List Nat
  | 0, l => l
  | n + 1, l =>
    let w := switch s b
    let more := l.flatMap (fun i => match (sourceList s b i).head? with
      | some t => if t.both && idClass i != 2 then (w.dests i).flatMap (fun d => w.sources d) else []
      | none => [])
    let l' := more.foldl (fun acc x => if acc.contains x then acc else acc ++ [x]) l
    if l'.length = l.length then l else together s b n l'

/-- May a source's head pass to a destination? -/
def passOk (s : State) (b : Nat) (group : List Nat) (i : Nat) (t : Token) (d : Nat) : Bool :=
  let w := switch s b
  let room := decide ((w.held d).length < hopRoom b w d)
  let srcs := w.sources d
  room && (decide (srcs.length < 2) || idClass i == 2 ||
    (match mget? w.burst d with
      | some j => j.1 == i
      | none => !t.both || srcs.all (fun j => group.contains j && (match (sourceList s b j).head? with
          | some u => u.kind == t.kind && (t.kind != 9 || u.pay == t.pay)
          | none => false))))

/-- The DONE that a merge passes has TD = 1 only if both carry it (09 R271). Its MILESTONE stands for the routes of both. -/
def mergedToken (s : State) (b d : Nat) (t : Token) : Token :=
  let srcs := (switch s b).sources d
  if t.kind = 9 then { t with route := srcs.flatMap (fun j => (((sourceList s b j).head?).map (fun u => u.route)).getD []) }
  else if t.kind = 8 ∧ srcs.length ≥ 2 then
    { t with pay := if srcs.all (fun j => match (sourceList s b j).head? with
      | some u => u.pay.toNat % 2 == 1
      | none => false) then t.pay else 0 }
  else t

/-- A token is placed at a destination's hop; a burst through a merge holds it until its TAIL. -/
def placeHop (b d i : Nat) (t : Token) (s : State) : State :=
  updSwitch s b (fun w =>
    let w1 := { w with hop := mset w.hop d (w.held d ++ [t]) }
    if (w.sources d).length < 2 ∨ idClass d = 2 then w1
    else if t.kind = 10 then { w1 with burst := mset w1.burst d (i, t.inv) }
    else if t.kind = 11 then { w1 with burst := mdel w1.burst d } else w1)

/-- The DONE of an invocation has left a destination track: the setting goes with TD = 1 (09 R277, R278). -/
def leaveTrack (b d : Nat) (t : Token) (s : State) : State :=
  if t.kind ≠ 8 then s
  else
    let s1 := updSwitch s b (fun w => { w with passed := w.passed ++ [(d, t.inv)] })
    if t.pay.toNat % 2 = 1 then switchClear b d s1 else s1

/-- The block and destination whose hop a source identifier reads, if it is a track. -/
def sourceHop (b i : Nat) : Option (Nat × Nat) :=
  if idClass i = 3 then none
  else match across b i with
    | some (nb, e, _) => some (nb, trackId (idClass i) e (idTrack i))
    | none => none

/-- Labels a token that crosses into another district (09 R265). -/
def relabel (s : State) (b i : Nat) (t : Token) : Token × State :=
  match sourceHop b i, districtAt s b with
  | some (nb, _), some d =>
    if districtAt s nb = some d then (t, s) else enterStream d (boundaryKey b i) 0 t s
  | _, _ => (t, s)

/-- The labels of the heads that leave their sources, each of which crosses into a district once, whatever its branches (09 R265). -/
def relabelHeads (b : Nat) (heads : List (Nat × Option Token)) (s : State) : SMap Nat × State :=
  heads.foldl (fun (acc : SMap Nat × State) p =>
    match p.2 with
    | none => acc
    | some t => let (t', s') := relabel acc.2 b p.1 t; (mset acc.1 p.1 t'.inv, s')) ([], s)

/-- Does a source identifier of a block name a track that comes in across a zone boundary? Its token meets a bollard and never moves on
(13 R358). -/
def foreignTrack (s : State) (b i : Nat) : Bool :=
  match sourceHop b i with
  | some (nb, _) => zoneOf s nb != zoneOf s b
  | none => false

/-- The heads of a group of sources move on, each on all its branches in one fc (02 R58). -/
def switchMove (b i : Nat) (s : State) : State :=
  let group := together s b 64 [i]
  let heads := group.map (fun j => (j, (sourceList s b j).head?))
  let w := switch s b
  let ok := !blockGated s b && !group.any (foreignTrack s b) && heads.all (fun p => match p.2 with
    | some t => !(w.dests p.1).isEmpty && (w.dests p.1).all (passOk s b group p.1 t)
    | none => false)
  if !ok then s
  else
    let dests := heads.flatMap (fun p => (w.dests p.1).map (fun d => (d, p.1, p.2)))
    let uniq := dests.foldl (fun acc x => if acc.any (fun y => y.1 == x.1) then acc else acc ++ [x]) []
    let put := uniq.filterMap (fun x => x.2.2.map (fun t => (x.1, x.2.1, mergedToken s b x.1 t)))
    let s1 := heads.foldl (fun s p => match p.2 with
      | none => s
      | some t =>
        let s' := sourceSet b p.1 ((sourceList s b p.1).drop 1) s
        match sourceHop b p.1 with
        | some (nb, d) => leaveTrack nb d t s'
        | none => s') s
    let (labels, s2) := relabelHeads b heads s1
    put.foldl (fun s x => placeHop b x.1 x.2.1 { x.2.2 with inv := mget labels x.2.1 x.2.2.inv } s) s2

/-! ## Bollards (13 R358, R359) -/

/-- Writes a record to the fault queue of a space (13 R359). -/
def faultQueue (asid elemA zs zf track iter : Nat) (s : State) : State :=
  let fq := spaceFq s asid
  if fq = 0 then s
  else
    let n := dev64 s fq
    let a := fq + 0x40 + 32 * (n % 126)
    let d0 := asid * 2 ^ 48 + 0x081 * 2 ^ 32 + elemA
    let d1 := zs * 2 ^ 20 + zf * 2 ^ 16 + track
    let s1 := placeWrite s (.dev a) (toBytes 8 d0 ++ toBytes 8 d1 ++ toBytes 8 s.ns ++ toBytes 8 iter) false
    placeWrite s1 (.dev fq) (toBytes 8 (n + 1)) false

/-- A DONE of an invocation is lost at a bollard: that invocation never meets 09 R265 (16 R391). -/
def loseDone (i : Nat) (s : State) : State :=
  { s with districts := s.districts.map (fun p => (p.1, { p.2 with invs := p.2.invs.map (fun v => if v.id = i then { v with lost := true } else v) })) }

/-- A bollard takes the token at the head of a hop: the drop is counted, and the first on each track in each invocation
is reported. -/
def bollard (b d nb : Nat) (t : Token) (s : State) : State :=
  let z := zoneOf s b
  let s0 := updQuarter s (blockQ b) (fun k => { k with bdrop := mset k.bdrop z (satInc (mget k.bdrop z 0)) })
  let s1 := if t.kind = 8 then loseDone t.home s0 else s0
  match districtAt s b with
  | none => s1
  | some di =>
    match mget? s.districts di with
    | none => s1
    | some k =>
      if (switch s b).dropped.contains (d, t.inv) then s1
      else
        let s2 := updSwitch s1 b (fun w => { w with dropped := w.dropped ++ [(d, t.inv)] })
        let iter := match k.invs.find? (fun v => v.id == t.inv) with
          | some v => v.iter.toNat
          | none => 0
        let s3 := faultQueue k.asid.toNat (elemAddr (blockQ b) (blockY b * 8) (blockX b * 8)) z (zoneOf s nb) d iter s2
        raise k.core 0x081 (BitVec.ofNat 64 (z * 2 ^ 20 + zoneOf s nb * 2 ^ 16 + d)) (BitVec.ofNat 64 iter) s3

/-! ## Ports -/

/-- The key of the count of tokens of a kind of an invocation that a route has brought to a port (17 R396). -/
def routeKey (i port kind : Nat) : Nat := i * 1024 + port * 16 + kind

/-- The kinds that a route counts. -/
def routeKinds : List Nat := [0, 1, 2, 3, 4, 5, 6, 7, 8, 10, 11]

/-- Do the counts of a milestone's routes differ from what has arrived at a port? -/
def routeBad (x : Elem) (port : Nat) (t : Token) : Bool :=
  !t.route.isEmpty && routeKinds.any (fun q => t.route.foldl (fun n r => n + r.2.getD q 0) 0 != mget x.arrived (routeKey t.inv port q) 0)

/-- An element's input port takes a token from its route, which counts it. A milestone whose counts are not met keeps its producers, for the
check of its route; behind it, and behind DONE, the counts start afresh (17 R396). -/
def Elem.fromRoute (x : Elem) (port : Nat) (t : Token) : Elem :=
  let u := if routeBad x port t then t else { t with route := [] }
  { x with
    inB := mset x.inB port (mget x.inB port [] ++ [u]),
    arrived := if t.kind = 8 ∨ t.kind = 9 then x.arrived.filter (fun p => p.1 / 16 != t.inv * 64 + port)
      else mupd x.arrived (routeKey t.inv port t.kind) 0 (· + 1) }

/-- A token arrives at an element's input port, which holds 4, or 2 at a control port (09 R260). A control port takes tokens only where
its link word says receive (02 R54); a data port takes them whatever its link word says (log entry 116). -/
def arrive (b d : Nat) (t : Token) (s : State) : Option State :=
  let e := idElem b d
  let k := idLink d
  let x := elem s e
  if k < 4 then
    if (mget x.inB k []).length < 4 then some (updElem s e (fun x => x.fromRoute k t)) else none
  else if x.field (0x78 + (k - 4)) = 1 ∧ (mget x.ctB (k - 4) []).length < 2 then
    some (updElem s e (fun x => { x with ctB := mset x.ctB (k - 4) (mget x.ctB (k - 4) [] ++ [(t.pay.toNat % 2 == 1, t.inv)]) }))
  else none

/-- The token at the head of the hop of destination d of block b moves on. -/
def hopOnward (b d : Nat) (s : State) : State :=
  match (switch s b).held d with
  | [] => s
  | t :: rest =>
    if blockGated s b then s
    else
      let pop := fun s => leaveTrack b d t (updSwitch s b (fun w => { w with hop := mset w.hop d rest }))
      if idClass d = 3 then
        match arrive b d t s with
        | some s1 => pop s1
        | none => s
      else match across b d with
        | none => s
        | some (nb, e, _) =>
          if zoneOf s b ≠ zoneOf s nb then bollard b d nb t (pop s)
          else switchMove nb (trackId (idClass d) e (idTrack d)) s

/-- A token of an element's output port moves onto its link to the switch; what an element in the pool has sent still goes (02 R51). -/
def portToLink (e k : Nat) (s : State) : State :=
  let x := elem s e
  if blockGated s (elemBlock e) || decide ((mget x.outL k []).length ≥ 2) || ((switch s (elemBlock e)).dests (elemLink e k)).isEmpty then s
  else if k < 4 then
    match mget x.outB k [] with
    | [] => s
    | t :: rest => setElem s e { x with outB := mset x.outB k rest, outL := mset x.outL k (mget x.outL k [] ++ [t]) }
  else
    match mget x.ctB (k - 4) [] with
    | [] => s
    | (v, i) :: rest =>
      let t : Token := ⟨false, 0, 0, 0, 0, if v then 1 else 0, i, i, []⟩
      let w := (x.field (0x78 + (k - 4))).toNat
      if w % 4 = 2 ∨ (w = 0 ∧ x.fin) then
        setElem s e { x with ctB := mset x.ctB (k - 4) rest, outL := mset x.outL k (mget x.outL k [] ++ [t]) }
      else s

/-! ## Pending settings (09 R277) -/

/-- Has the DONE of every old route through a destination left it? A route that a pending setting of the same wavefront made is no old one. -/
def pendReady (s : State) (b : Nat) (p : Nat × Option Nat × Nat) : Bool :=
  let w := switch s b
  (w.sources p.1).isEmpty || mget? w.made p.1 == some p.2.2 || w.passed.contains (p.1, p.2.2) ||
  (match districtAt s b with
    | some d => (match mget? s.districts d with
      | some k => !k.invs.any (fun v => v.id == p.2.2)
      | none => true)
    | none => true)

/-- Is it a pending setting's turn: none of its destination stands before it, and no CLEAR of the block's origin (02 R70)? -/
def pendTurn (l : List (Nat × Option Nat × Nat)) (p : Nat × Option Nat × Nat) : Bool :=
  p.1 != clearAll && !(l.takeWhile (fun x => x != p)).any (fun x => x.1 == p.1 || x.1 == clearAll)

/-- 09 R277: the first pending setting of a block whose time has come applies. A clear and a set of one destination
apply in their order, and behind a pending CLEAR of the block's origin none applies before it (02 R70). A setting whose edge no longer leads
into a district of the gang is dropped. -/
def execPendingSwitchApply (b : Nat) (s : State) : Out :=
  .next (match (switch s b).pend.find? (fun p => pendReady s b p && pendTurn (switch s b).pend p) with
    | none => s
    | some p =>
      let s1 := updSwitch s b (fun w => { w with pend := w.pend.erase p })
      match p.2.1, districtAt s b with
      | none, _ => switchClear b p.1 s1
      | some src, some d =>
        (match mget? s.districts d with
          | some k => if edgeOk s1 k b p.1 true && edgeOk s1 k b src false then
              updSwitch (switchSet k b p.1 src s1) b (fun w => { w with made := mset w.made p.1 p.2.2 })
            else s1
          | none => s1)
      | some _, none => s1)

end Sys2Proof.Machine
end

