-- ==== Sys2Proof/Machine/Region.lean ====
section
/-! DEFINITION. Invocations of a district and how they end: residue, faults and their marks, the commit of held stores,
region errors, retirement and rollback (09 R263 to R267, R279 to R281; 17 R396 to R402). -/

namespace Sys2Proof.Machine

/-! ## Districts and their invocations -/

/-- The owner of a district's operations: its thread (06 R178, 09 R279). -/
def District.owner (k : District) : Owner := ⟨k.core, k.asid, k.supv⟩

def District.inv? (k : District) (i : Nat) : Option Inv := k.invs.find? (fun v => v.id == i)

def updInv (d i : Nat) (f : Inv → Inv) (s : State) : State :=
  updDist s d (fun k => { k with invs := k.invs.map (fun v => if v.id = i then f v else v) })

/-- The district that holds an element. -/
def distOf (s : State) (e : Nat) : Option (Nat × District) :=
  match districtAt s (elemBlock e) with
  | some d => (mget? s.districts d).map (d, ·)
  | none => none

/-- The district and the invocation in which an element still fires: joined, live, not finished, the clock not gated. -/
def active (s : State) (e : Nat) : Option (Nat × District × Inv) :=
  match distOf s e with
  | none => none
  | some (d, k) =>
    let x := elem s e
    if k.gated || x.fin then none
    else match x.joined with
      | none => none
      | some i => (k.inv? i).map (fun v => (d, k, v))

/-- Has the thread of a district accesses on their way that come before those of its commands (06 R171; 10 R292)? -/
def District.behind (k : District) (s : State) : Bool := accessesDue s k.thread k.core k.asid

/-- A firing or step anywhere in the district sets its stall count to zero, and this fc is none in which nothing fires (09 R262). -/
def fired (d : Nat) (s : State) : State := updDist s d (fun k => { k with stall := 0, fcFired := true })

/-! ## Ports of an element -/

/-- A field as the memory nodes of an element read it: those of an element that has returned to the pool keep what it had (02 R51). -/
def Elem.nodeField (x : Elem) (f : Nat) : W32 := if x.tear then mget x.ghost f 0 else x.field f

/-- The link word of input port k, of output port k, of control port k (02 R66). -/
def Elem.inWord (x : Elem) (k : Nat) : Nat := (x.field (0x70 + k)).toNat
def Elem.outWord (x : Elem) (k : Nat) : Nat := (x.field (0x74 + k)).toNat
def Elem.ctWord (x : Elem) (k : Nat) : Nat := (x.field (0x78 + k)).toNat
def Elem.inBound (x : Elem) (k : Nat) : Bool := x.inWord k % 4 == 1
def Elem.outBound (x : Elem) (k : Nat) : Bool := x.outWord k % 4 == 1
def linkVec (w : Nat) : Bool := w.testBit 2
def linkImage (w : Nat) : Bool := w.testBit 3
def linkBurst (w : Nat) : Bool := w.testBit 4

def ports : List Nat := [0, 1, 2, 3]

/-- The token at the head of an input port, if it belongs to the invocation the element has joined (09 R265). -/
def Elem.head (x : Elem) (k : Nat) : Option Token :=
  match mget x.inB k [] with
  | t :: _ => if some t.inv = x.joined then some t else none
  | [] => none

/-- Has an output port a free entry (09 R260)? -/
def Elem.room (x : Elem) (k : Nat) : Bool := decide ((mget x.outB k []).length < 4)

/-- The key of the count of tokens of a kind that a port has taken or emitted (17 R396). -/
def countKey (out : Bool) (port kind : Nat) : Nat := (if out then 64 else 0) + port * 16 + kind

/-- Counts a token for the checks of a wave; milestones are not counted. -/
def Elem.count (x : Elem) (out : Bool) (port kind : Nat) : Elem :=
  if kind = 9 then x else { x with counts := mupd x.counts (countKey out port kind) 0 (· + 1) }

/-- Adds one to a count of an element. -/
def Elem.tally (x : Elem) (key : Nat) : Elem := { x with counts := mupd x.counts key 0 (· + 1) }

def Elem.counted (x : Elem) (out : Bool) (port kind : Nat) : Nat := mget x.counts (countKey out port kind) 0

/-- Takes the head of an input port. -/
def Elem.take (x : Elem) (k : Nat) : Elem :=
  match mget x.inB k [] with
  | t :: rest => ({ x with inB := mset x.inB k rest }).count false k t.kind
  | [] => x

/-- Emits a token on an output port in the element's invocation. -/
def Elem.emit (x : Elem) (k : Nat) (t : Token) : Elem :=
  let t1 := { t with inv := x.joined.getD 0, home := x.joined.getD 0 }
  ({ x with outB := mset x.outB k (mget x.outB k [] ++ [t1]) }).count true k t.kind

/-- Sends a control token, which is logged (17 R398). -/
def Elem.emitCt (x : Elem) (k : Nat) (v : Bool) : Elem :=
  { x with ctB := mset x.ctB k (mget x.ctB k [] ++ [(v, x.joined.getD 0)]), ctLog := mset x.ctLog k (mget x.ctLog k [] ++ [v]) }

/-- A token without lanes: a scalar token, or a vector token of a kind other than DATA (02 R46). -/
def plainTok (vec : Bool) (kind ch : Nat) (p : Bool) (v : Nat) : Token :=
  ⟨vec, kind, ch, if p then 1 else 0, 0, BitVec.ofNat 512 (v % 2 ^ 32), 0, 0, []⟩

/-- The payload of a scalar token, or lane 0. -/
def Token.val (t : Token) : W32 := t.pay.setWidth 32
def Token.pois (t : Token) : Bool := t.p.toNat.testBit 0
def Token.td (t : Token) : Bool := t.pay.toNat.testBit 0
def Token.lane (t : Token) (i : Nat) : W32 := BitVec.ofNat 32 (t.pay.toNat / 2 ^ (32 * i))

/-- Is an element bound to a pull handle at an output port, or to a push handle at an input port, by the district's
thread (06 R183)? -/
def handleAt (s : State) (k : District) (e port : Nat) (pull : Bool) : Bool :=
  match threadOf s k.thread with
  | some t => t.q.any (fun q => q.2.elem == e && q.2.port == port && q.2.pull == pull)
  | none => false

/-- Does some switch setting of a district name an identifier of a block? -/
def idNamed (s : State) (b i : Nat) : Bool :=
  (switch s b).drive.any (fun p => (p.1 == i && !p.2.isEmpty) || p.2.contains i)

/-- Does port pair k of a vector cell form a memory node as the cell joins an invocation (10 R285)? -/
def formsNode (s : State) (e k : Nat) : Bool :=
  let x := elem s e
  let b := elemBlock e
  let pos := elemY e % 8 * 8 + elemX e % 8
  elemKind e == .vector && x.inBound k && x.outBound k && linkVec (x.inWord k) == linkVec (x.outWord k) &&
  (!linkVec (x.inWord k) || linkImage (x.inWord k) == linkImage (x.outWord k)) &&
  !(switch s b).drive.any (fun p => p.1 == linkId pos k && !p.2.isEmpty) &&
  ((switch s b).dests (linkId pos k)).isEmpty &&
  (match distOf s e with
    | some (_, d) => !handleAt s d e k false && !handleAt s d e k true
    | none => true)

/-- The memory nodes of an element are those that it had as it joined its invocation (10 R285). -/
def isNode (s : State) (e k : Nat) : Bool := (elem s e).nodeSet.contains k

/-! ## The free pool (02 R51; 09 R278) -/

/-- Has a memory node of an element anything left to do? -/
def Elem.nodeIdle (x : Elem) (k : Nat) : Bool :=
  (mget x.outB k []).isEmpty && (mget x.nodes k .zero).half.isNone && (mget x.nodes k .zero).reqs.isEmpty

/-- An element returns to the free pool behind a DONE with TD = 1: every plane, and its pending commands, at reset. What it has emitted,
control tokens among it, still leaves it, and its memory nodes forward what it sent them (02 R51; 09 R278). -/
def Elem.toPool (x : Elem) : Elem :=
  { Elem.reset with
    inB := x.inB, outB := x.outB, outL := x.outL, ctB := x.ctB.filter (fun p => x.ctWord p.1 % 4 == 2), counts := x.counts,
    joined := x.joined, fin := true, mile := x.mile, ctLog := x.ctLog, past := x.past,
    arrived := x.arrived, nodes := x.nodes, nodeSet := x.nodeSet, tear := !x.nodeSet.all x.nodeIdle, ghost := if x.tear then x.ghost else x.fields }

/-- The memory nodes of an element in the pool are gone once they have forwarded what it sent them. -/
def Elem.settlePool (x : Elem) : Elem :=
  if x.tear && x.nodeSet.all x.nodeIdle then { x with tear := false, ghost := [], nodes := [], nodeSet := [] } else x

/-- Is an element done with its invocation, its memory nodes with it? Only then do commands for the whole of it apply, and only then does
it join the next invocation. -/
def Elem.over (x : Elem) : Bool := x.fin && x.nodeSet.all x.nodeIdle

/-- An element finishes its invocation (09 R264). A command that waits behind a DONE with TD = 1 is discarded (09 R278). -/
def Elem.finish (td : Bool) (x : Elem) : Elem :=
  let x1 := { x with fin := true, armed := none, branch := none }
  if td then x1.toPool.settlePool else x1

/-! ## Participation (09 R263) -/

/-- Bit [0] of context j's control word: ACTIVE. -/
def Elem.ctl (x : Elem) (j : Nat) : Nat := (x.field (0x48 + j)).toNat
def Elem.ctxActive (x : Elem) (j : Nat) : Bool := x.ctl j % 2 == 1
def contexts : List Nat := List.range 12

/-- Has an element a bound data link? -/
def Elem.anyBound (x : Elem) : Bool := ports.any (fun k => x.inBound k || x.outBound k)

/-- Does an element take part in an invocation? -/
def takesPart (s : State) (e : Nat) : Bool :=
  let x := elem s e
  match elemKind e with
  | .vector => contexts.any x.ctxActive
  | .matrix => (x.field 0).toNat % 4 == 1
  | .store => false
  | _ => x.anyBound

/-! ## Discarding tokens -/

/-- An element without the tokens and requests of some invocations. -/
def Elem.dropInvs (x : Elem) (dead : Nat → Bool) : Elem :=
  let live := fun (l : SMap (List Token)) => l.map (fun p => (p.1, p.2.filter (fun t => !dead t.inv)))
  { x with
    arrived := x.arrived.filter (fun p => !dead (p.1 / 1024)),
    inB := live x.inB, outB := live x.outB, outL := live x.outL,
    ctB := x.ctB.map (fun p => (p.1, p.2.filter (fun t => !dead t.2))),
    nodes := x.nodes.map (fun p => (p.1, { p.2 with
      half := p.2.half.filter (fun t => !dead t.inv), reqs := p.2.reqs.filter (fun r => !dead r.tok.inv) })) }

/-- Does a waiting request of a node belong to an invocation that has ended? -/
def nodeDead (s : State) (k : District) (dead : Nat → Bool) (w : TagWait) : Bool :=
  match w.who with
  | .core _ => false
  | .peer _ => false
  | .node e n => k.hasElem e && (mget (elem s e).nodes n .zero).reqs.any (fun r => dead r.tok.inv && r.res.any (fun x => x.isNone))

/-- Discards the tokens of some invocations in the port, link and track buffers of a district (09 R266). -/
def dropTokens (k : District) (dead : Nat → Bool) (s : State) : State :=
  { s with
    tagq := s.tagq.filter (fun w => !nodeDead s k dead w),
    elems := s.elems.map (fun p => if k.hasElem p.1 then (p.1, p.2.dropInvs dead) else p),
    switches := s.switches.map (fun p => if k.rect.has p.1 then (p.1, { p.2 with
      hop := p.2.hop.map (fun h => (h.1, h.2.filter (fun t => !dead t.inv))),
      passed := p.2.passed.filter (fun x => !dead x.2), dropped := p.2.dropped.filter (fun x => !dead x.2),
      burst := p.2.burst.filter (fun b => !dead b.2.2) }) else p) }

/-! ## Counters of an invocation (01 R40) -/

/-- Keys of an element's share of NANS, INFS and OVFS in its counts. -/
def nansKey : Nat := 3000
def infsKey : Nat := 3001
def ovfsKey : Nat := 3002

/-- Adds to a 32-bit saturating count. -/
def satAdd32 (a : BitVec 32) (n : Nat) : BitVec 32 := BitVec.ofNat 32 (min (a.toNat + n) (2 ^ 32 - 1))

/-- An element's share in the counters of an invocation: the one that it has joined, or the one before it. -/
def Elem.share (x : Elem) (i : Nat) : Nat × Nat × Nat :=
  if x.joined = some i then (mget x.counts nansKey 0, mget x.counts infsKey 0, mget x.counts ovfsKey 0)
  else match x.past with
    | some (j, n) => if j = i then n else (0, 0, 0)
    | none => (0, 0, 0)

/-- The counters of an invocation with the shares of the elements that have joined it. -/
def invCounts (s : State) (k : District) (v : Inv) : Inv :=
  (distElems s k).foldl (fun v e =>
    let n := (elem s e).share v.id
    { v with nans := satAdd32 v.nans n.1, infs := satAdd32 v.infs n.2.1, ovfs := satAdd32 v.ovfs n.2.2 }) v

/-! ## Ends -/

/-- Sets the completion object of an invocation (06 R178). -/
def setInvCpl (k : District) (v : Inv) (state cause : Nat) (s : State) : State :=
  setCpl k.owner v.cpl (cplWord state cause 0 0x02) v.nans.toNat v.infs.toNat v.ovfs.toNat s

/-- Sets the completion objects of the milestone waves under way to CANCELLED (06 R180). -/
def cancelMiles (k : District) (s : State) : State :=
  k.miles.foldl (fun s m => setCpl k.owner m.cpl (cplWord stCancelled 0 0 0x03) m.wave 0 0 s) s

/-- An element's counters as they stood for an earlier invocation to which it goes back. -/
def Elem.shareBack (x : Elem) (earlier : Option Nat) : SMap Nat :=
  match earlier with
  | some i =>
    let n := x.share i
    mset (mset (mset [] nansKey n.1) infsKey n.2.1) ovfsKey n.2.2
  | none => []

/-- The elements that have joined a dead invocation stop; those that had finished an earlier live one stay finished, with the counters that
they had for it. -/
def stopElems (k : District) (dead : Nat → Bool) (earlier : Option Nat) (s : State) : State :=
  { s with elems := s.elems.map (fun p =>
      if k.hasElem p.1 ∧ (p.2.joined.map dead) = some true then
        (p.1, ({ p.2 with joined := earlier, counts := p.2.shareBack earlier, past := none, mileOut := [], fin := earlier.isSome, armed := none, branch := none, actCtx := [], finCtx := [], late := [],
                          unit := StreamUnit.zero,
                          mat := { p.2.mat with buf := [], bursts := 0, inBurst := false, row := 0, out := [] } }).settlePool)
      else p) }

/-! ## Held stores (09 R279 to R281) -/

/-- The line of a held store. -/
def Held.line (h : Held) : Nat × Nat := (h.peer, h.pa / 64)

/-- The distinct lines in a hold buffer, of which there are 2,048 (09 R279). -/
def holdLines (l : List Held) : List (Nat × Nat) :=
  l.foldl (fun acc h => if acc.contains h.line then acc else h.line :: acc) []

/-- The own-device marker of a held place. -/
def ownPeer : Nat := 255

def Held.place (h : Held) : Place := if h.peer = ownPeer then .dev h.pa else .peer h.peer h.pa

/-- The request that carries a held store to another device, or to a page that is moving. -/
def Held.req (k : District) (h : Held) : Req :=
  { core := k.core, thread := k.thread, place := h.place, va := h.va, asid := k.asid.toNat, kind := 1, fn := 0, ws := [],
    b := BitVec.ofNat 64 (leNat h.bytes), expect := 0, width := h.bytes.length, rd := 0, wait := false, moved := false, id := 0 }

/-- Performs one held store: over the cached line of a peer's page, posted to the peer, where it can fail as 05 R142 states, or here. -/
def commitOne (k : District) (h : Held) (s : State) : State :=
  match h.place with
  | .dev pa => if (migAt s (.dev pa)).isSome then sendReq (h.req k) s else placeWrite s (.dev pa) h.bytes h.pois
  | _ =>
    if (lcFind s (lcKey h.place)).isSome then lcStoreRun h.place h.bytes h.pois s else sendReq (h.req k) s

/-- The place of a held store that stands on a page that is moving. -/
def heldFrozen (s : State) (l : List Held) : Option Place := (l.find? (fun h => (migAt s h.place).isSome)).map Held.place

/-- Commits the held stores that p names, in the order they were made. -/
def commitHeld (d : Nat) (p : Held → Bool) (s : State) : State :=
  match mget? s.districts d with
  | none => s
  | some k =>
    (k.hold.filter p).foldl (fun s h => commitOne k h s) (updDist s d (fun k => { k with hold := k.hold.filter (fun h => !p h) }))

/-- The last of the waves asked for that were complete before this fc. -/
def lastFull (k : District) : Nat := ((k.miles.filter (fun m => m.full)).map (fun m => m.wave)).foldl max 0

/-- The log of the pushed tokens without those of some invocations (17 R398). -/
def liveLog (dead : Nat → Bool) (l : SMap (List Token)) : SMap (List Token) :=
  l.map (fun p => (p.1, p.2.filter (fun t => !dead t.inv)))

/-- The log of a push link when a wave is complete: what stands behind its milestone, or behind a DONE that came before it. -/
def logAfter (i w : Nat) (l : List Token) : List Token :=
  match l.dropWhile (fun t => !(t.kind == 9 && t.val.toNat == w)) with
  | _ :: rest => rest
  | [] => l.filter (fun t => t.inv != i)

/-- Ends invocations from one on: `first` is the status and cause of that one, the later ones are CANCELLED (09 R266, R267). Behind a
fault the stores of the waves complete before it are performed still (09 R281). -/
def killFrom (d i : Nat) (first : Nat × Nat) (s0 : State) : State :=
  let s := if first.1 = stFault then
      (match (mget? s0.districts d) with
        | some k => (match k.running with
          | some v => if v.id = i then commitHeld d (waveHeld v (lastFull k)) s0 else s0
          | none => s0)
        | none => s0)
    else s0
  match mget? s.districts d with
  | none => s
  | some k =>
    let early := k.invs.takeWhile (fun v => v.id != i)
    let late := k.invs.dropWhile (fun v => v.id != i)
    let dead := fun j => late.any (fun v => v.id == j)
    let counted := late.map (invCounts s k)
    let s1 := stopElems k dead (early.getLast?.map (fun v => v.id)) (dropTokens k dead s)
    let s2 := updDist s1 d (fun k =>
      let k1 := { k with
        invs := early, faultDue := k.faultDue.filter (fun f => !dead f.inv), hold := k.hold.filter (fun h => !dead h.inv), stall := if early.isEmpty then 0 else k.stall,
        pushDone := k.pushDone.filter (fun p => !dead p.2.2), pushOpen := k.pushOpen.filter (fun p => !dead (k.streamInv p.1 p.2)) }
      if !early.isEmpty then { k1 with snaps := k.snaps.map (fun p => (p.1, p.2.filter (fun x => !(x.2.joined.any dead)))) }
      else { k1 with miles := [], snaps := [], snapStall := [], faultDue := none, undo := [], canRoll := true, errAt := none, rolled := false, needRoll := false,
                     pushLog := liveLog dead k.pushLog, pulled := [], pullDrop := [], pushOpen := [], pushMile := [] })
    let s3 := if early.isEmpty then cancelMiles k s2 else s2
    counted.foldl (fun s v => if v.id = i then setInvCpl k v first.1 first.2 s else setInvCpl k v stCancelled 0 s) s3

/-! ## Fault marks (09 R266) -/

/-- The elements that a route reaches from a source identifier of a block; marks stop at a bollard (13 R358). -/
def routeEnds (s : State) : Nat → Nat → Nat → List Nat
  | 0, _, _ => []
  | n + 1, b, i =>
    ((switch s b).dests i).flatMap (fun d =>
      if idClass d = 3 then [idElem b d]
      else match across b d with
        | some (nb, e, _) => if zoneOf s b = zoneOf s nb then routeEnds s n nb (trackId (idClass d) e (idTrack d)) else []
        | none => [])

/-- The elements of other districts that routes out of a district reach. -/
def gangEnds (s : State) (k : District) : List Nat :=
  k.rect.blocks.flatMap (fun b => ((switch s b).drive.filter (fun p => !p.2.isEmpty && idClass p.1 != 3)).flatMap (fun p =>
    match across b p.1 with
    | some (nb, e, _) =>
      if k.rect.has nb || zoneOf s b != zoneOf s nb then []
      else (routeEnds s 512 nb (trackId (idClass p.1) e (idTrack p.1))).filter (fun e => !k.hasElem e)
    | none => []))

/-- Every route that leaves a faulting district carries a mark to the element it ends at. -/
def markGang (k : District) (s : State) : State :=
  if k.gang = 0 then s
  else (gangEnds s k).foldl (fun s e => match distOf s e with
    | some (d, _) => updDist s d (fun k => { k with faultMark := setIns k.faultMark e })
    | none => s) s

/-- An invocation ends with FAULT: its object, the thread's event, the marks (09 R266, R282; 06 R178). -/
def endFault (d i : Nat) (cause : BitVec 10) (tval : Nat) (s : State) : State :=
  match mget? s.districts d with
  | none => s
  | some k =>
    match k.inv? i with
    | none => s
    | some v =>
      let s1 := killFrom d i (stFault, cause.toNat) s
      raiseThread k.thread cause (BitVec.ofNat 64 tval) v.iter (markGang k s1)

/-- Does a fault come before another of its fc: that of the earlier invocation, then that of the lower element (09 R266)? -/
def FaultDue.before (a b : FaultDue) : Bool := decide (a.inv < b.inv ∨ (a.inv = b.inv ∧ a.elem < b.elem))

/-- The element number of a fault that no element raises. -/
def noElem : Nat := 2 ^ 18

/-- A fault of an invocation is noted until the end of the fc, which it ends then, unless a region error takes its place (09 R266; 17 R397). -/
def noteFault (d : Nat) (f : FaultDue) (s : State) : State :=
  updDist s d (fun k => { k with faultDue := match k.faultDue with
    | none => some f
    | some g => if f.before g then some f else some g })

/-- A fault of an invocation, raised by the element that CC_TVAL names. -/
def invFault (d i : Nat) (cause : BitVec 10) (tval : Nat) (s : State) : State := noteFault d ⟨i, tval % 2 ^ 18, cause, tval⟩ s

/-- The end of an fc in a district: the fault noted in it ends its invocation, or gives way to a region error. -/
def settleFault (d : Nat) (s : State) : State :=
  match (mget? s.districts d).bind (fun k => k.faultDue.map (k, ·)) with
  | none => s
  | some (k, f) =>
    let s1 := updDist s d (fun k => { k with faultDue := none })
    if k.needRoll then s1 else endFault d f.inv f.cause f.tval s1

/-! ## Region errors (17 R397 to R402) -/

/-- The districts of a region: a gang's, or one alone (17 R396). -/
def regionOf (s : State) (d : Nat) : List Nat :=
  match mget? s.districts d with
  | none => []
  | some k => if k.gang = 0 then [d] else (s.districts.filter (fun p => p.2.gang == k.gang && p.2.asid == k.asid)).map Prod.fst

/-- The physical column of a logical block column (17 R403). -/
def physCol (s : State) (q x : Nat) : Nat :=
  let k := quarter s q
  if k.remapEn && k.remapCol.toNat == x then 25 else x

/-- The last complete wave of a district, for the error log (17 R405): 0 where there is none. -/
def distWave (s : State) (d : Nat) : Nat := (((mget? s.districts d).bind (fun k => k.snaps.head?)).map Prod.fst).getD 0

/-- The space of a district, for the error log (17 R405). -/
def distAsid (s : State) (d : Nat) : Nat := ((mget? s.districts d).map (fun k => k.asid.toNat)).getD 0

/-- Retires an element: its invocation ends, the supervisor is told, its block is withheld (17 R400, R402). -/
def retire (d i e : Nat) (s : State) : State :=
  let q := elemQ e
  let b := elemBlock e
  let s1 := updQuarter s q (fun k => { k with
    last := satInc k.last,
    wheld := mset k.wheld (blockY b) (mget k.wheld (blockY b) 0 ||| BitVec.ofNat 26 (2 ^ physCol s q (blockX b))) })
  let s2 := logError q 6 0x0C3 e false 0 (distWave s d) (distAsid s d) s1
  raise (q * 64) 0x0C4 (BitVec.ofNat 64 e) 0 (endFault d i 0x0C3 e s2)

/-- A region error at an element (17 R397, R398, R400, R401): the region is gated until it rolls back. A second error at
the same element before the next complete wave ends the invocation with POISON where both were consumed poison (17 R401), else retires the
element (17 R400); one at another element ends it with RGNERR. -/
def regionError (d i e : Nat) (poison : Bool) (tval : Nat) (s : State) : State :=
  let ds := regionOf s d
  let prev := ds.findSome? (fun j => (mget? s.districts j).bind (fun k => k.errAt.map (fun x => (x, k.errPois))))
  match prev with
  | some (e', p) =>
    if e' = e then (if poison && p then endFault d i 0x109 tval s else retire d i e s) else endFault d i 0x0C1 e s
  | none =>
    let s1 := updDist s d (fun k => { k with errAt := some e, errPois := poison })
    ds.foldl (fun s j => updDist s j (fun k => { k with gated := true, needRoll := true })) s1

/-- A route checks its counts as a milestone leaves it: where they are not met, its producer raises a region error (17 R396). -/
def routeCheck (e port : Nat) (s : State) : State :=
  match (mget (elem s e).inB port []).getLast? with
  | none => s
  | some t =>
    match t.route with
    | [] => s
    | (p, _) :: _ =>
      let s1 := updElem s e (fun x => { x with inB := mset x.inB port ((mget x.inB port []).map (fun u => { u with route := [] })) })
      match distOf s1 p, (elem s1 p).joined with
      | some (d, _), some i => regionError d i p false p s1
      | _, _ => s1

/-- A token goes on from a hop into a port of an element, where a milestone's route checks its counts. -/
def hopArrive (b d : Nat) (s : State) : State :=
  let inPort := fun (s : State) => (mget (elem s (idElem b d)).inB (idLink d) []).length
  let s1 := hopOnward b d s
  if inPort s1 = inPort s then s1 else routeCheck (idElem b d) (idLink d) s1

/-- 02 R58: one hop. Kind 0 moves a token of port `port` of element `at_` onto its link (ports 4 to 7 are the control
ports), kind 1 from that link into the switch, any other kind from the hop of destination `port` of block `at_`
onward. -/
def execTokenHop (kind at_ port : Nat) (s : State) : Out :=
  .next (if kind = 0 then portToLink at_ port s
    else if kind = 1 then switchMove (elemBlock at_) (elemLink at_ port) s
    else if idClass port = 3 then hopArrive at_ port s
    else hopOnward at_ port s)

/-- The snapshot of an element for rollback: its state without the tokens in its ports, but for those of its memory nodes, which
record their requests in order (17 R398). What its routes have brought since will be sent again. -/
def Elem.snapshot (x : Elem) : Elem :=
  { x with
    arrived := [],
    inB := x.inB.filter (fun p => x.nodeSet.contains p.1), outB := x.outB.filter (fun p => x.nodeSet.contains p.1), outL := [], ctB := [] }

/-- Records an element's snapshot of a wave. -/
def addSnap (d wave e : Nat) (s : State) : State :=
  let x := (elem s e).snapshot
  updDist s d (fun k => { k with
    snapStall := mset k.snapStall wave k.stall,
    snaps := if k.snaps.any (fun p => p.1 == wave) then k.snaps.map (fun p => if p.1 = wave then (wave, mset p.2 e x) else p)
             else k.snaps ++ [(wave, [(e, x)])] })

/-- The sender of the control route that ends at a control port: walked backwards. -/
def ctSender (s : State) : Nat → Nat → Nat → Option (Nat × Nat)
  | 0, _, _ => none
  | n + 1, b, d =>
    match (switch s b).sources d with
    | i :: _ =>
      if idClass i = 3 then some (idElem b i, idLink i - 4)
      else match across b i with
        | some (nb, e, _) => ctSender s n nb (trackId (idClass i) e (idTrack i))
        | none => none
    | [] => none

/-- The key of the count of control tokens that a port has taken, and of those it must drop after a rollback. -/
def ctTakenKey (k : Nat) : Nat := 2100 + k
def ctDropKey (k : Nat) : Nat := 2200 + k

/-- Step 5 of 17 R398 for one receiving port: the tokens put back, or the number of re-sent tokens to drop. -/
def restoreCt (now snap : State) (e k : Nat) (x : Elem) : Elem :=
  let pos := elemY e % 8 * 8 + elemX e % 8
  match ctSender now 256 (elemBlock e) (linkId pos (4 + k)) with
  | none => x
  | some (f, j) =>
    let log := mget (elem now f).ctLog j []
    let sent := (mget (elem snap f).ctLog j []).length
    let taken := mget x.counts (ctTakenKey k) 0
    if taken ≤ sent then
      { x with ctB := mset x.ctB k (((log.take sent).drop taken).map (fun v => (v, x.joined.getD 0))) }
    else { x with counts := mset x.counts (ctDropKey k) (taken - sent) }

/-- Puts back the logged words of store cells, newest first (17 R398 step 3). -/
def undoSpad (l : List (Nat × W32 × Bool × Bool)) (s : State) : State :=
  l.foldl (fun s u =>
    let p := Place.spad (u.1 % 2 ^ 40 / 8192) (u.1 % 8192 * 4)
    let s1 := placeSetTag (placeWrite s p (toBytes 4 u.2.1.toNat) false) p u.2.2.1
    { s1 with spad := setPois s1.spad (spadKey (u.1 % 2 ^ 40 / 8192) (u.1 % 8192 * 4) / 4) u.2.2.2 }) s

/-- A tagged request that waited as its node's snapshot was taken waits at its word again (10 R291; 17 R398): one wait for each lane
without its result. -/
def waitAgain (e : Nat) (s : State) : State :=
  match distOf s e with
  | none => s
  | some (_, k) =>
    let ws := (elem s e).nodes.flatMap (fun n => n.2.reqs.flatMap (fun r =>
      if r.done || !decide (4 ≤ r.acc ∧ r.acc ≤ 6) then []
      else (List.range 16).filterMap (fun L =>
        if (r.res.getD L (some .zero)).isSome then none
        else (winPlace k.rect (r.tok.lane L).toNat).map (fun p =>
          let v := (r.val.map (fun u => if u.vec then u.lane L else u.val)).getD 0
          let pois := r.val.any (fun u => if u.vec then u.p.toNat.testBit L else u.pois)
          ⟨.node e n.1, p, r.acc - 4, L + if pois then 64 else 0, v, (r.tok.lane L).toNat, s.fc⟩))))
    { s with tagq := s.tagq ++ ws }

/-- Rolls one district back to its last complete wave (17 R398). -/
def rollDistrict (d : Nat) (s : State) : State :=
  match mget? s.districts d with
  | none => s
  | some k =>
    let live := fun i => k.invs.any (fun v => v.id == i)
    let (wc, snap) := (k.snaps.head?).getD (0, [])
    let s1 := undoSpad (k.undo.filter (fun u => decide (wc ≤ u.1 / 2 ^ 40))) (dropTokens k live s)
    let s2 := snap.foldl (fun s p => setElem s p.1 p.2) s1
    let recv := snap.flatMap (fun p => (ports.filter (fun j => p.2.ctWord j % 4 == 1)).map (fun j => (p.1, j)))
    let s3 := recv.foldl (fun s' p => updElem s' p.1 (restoreCt s s2 p.1 p.2)) s2
    let s4 := k.pushLog.foldl (fun s p => updElem s (p.1 / 4) (fun x => { x with inB := mset x.inB (p.1 % 4) p.2 })) s3
    updDist (snap.foldl (fun s p => waitAgain p.1 s) s4) d (fun k => { k with
      hold := k.hold.filter (fun h => decide (h.wave < wc) && (k.running.map (fun v => v.id)) == some h.inv), undo := [],
      snaps := [(wc, snap)], stall := mget k.snapStall wc 0, faultDue := none, miles := k.miles.map (fun m => { m with full := false }),
      pullDrop := k.pulled, pulled := [], rolled := k.errAt.isSome, needRoll := false })

/-- May a district roll back: no log has filled, and its pull links can count (17 R398)? -/
def rollable (k : District) : Bool := k.canRoll && k.pulled.all (fun p => decide (p.2 ≤ 2 ^ 16))

/-- Ends the invocation of a district that cannot roll back, with the element of the error (17 R398, R406). -/
def rollFail (e d : Nat) (s : State) : State :=
  match mget? s.districts d with
  | none => s
  | some k => match k.invs with
    | v :: _ => endFault d v.id 0x0C1 e s
    | [] => s

/-- Is the clock of a district gated by its thread's core: a break or a debugger halt (09 R262)? -/
def haltedBy (s : State) (k : District) : Bool :=
  let c := core s k.core
  c.t.id == k.thread && (c.dbrk || c.dhalt || c.cstat == 4)

/-- Ungates a district unless a break, a halt or a pre-emption still gates it (09 R262). -/
def ungate (d : Nat) (s : State) : State :=
  updDist s d (fun k => { k with gated := haltedBy s k, needRoll := false })

/-- 17 R398. The commits of waves that were complete run to their end first; a wave that completes now is discarded (17 R399). -/
def execRollback (d : Nat) (s : State) : Out :=
  .next (match mget? s.districts d with
    | none => s
    | some k =>
      if !k.needRoll || (regionOf s d).any (fun j => ((mget? s.districts j).bind completeWave).isSome) then s
      else
        let ds := regionOf s d
        let q := k.rect.q
        let ok := ds.all (fun j => match mget? s.districts j with
          | some k => rollable k
          | none => true)
        let e := (ds.findSome? (fun j => (mget? s.districts j).bind (fun k => k.errAt))).getD 0
        let s1 := updQuarter s q (fun k => { k with rollback := satInc k.rollback })
        let s2 := logError q 4 0 e false 0 (((k.snaps.head?).map Prod.fst).getD 0) k.asid.toNat s1
        let s3 := if ok then ds.foldl (fun s j => rollDistrict j s) s2 else ds.foldl (fun s j => rollFail e j s) s2
        ds.foldl (fun s j => ungate j s) s3)

/-! ## Waves (09 R280; 06 R180) -/

/-- Has an element still to join an invocation that starts element by element (09 R263)? -/
def yetToJoin (s : State) (k : District) (v : Inv) (e : Nat) : Bool :=
  !v.atOnce && takesPart s e &&
  (match (elem s e).joined with
    | some j => decide (j < v.id) || !(k.invs.any (fun u => u.id == j))
    | none => true)

/-- Have the memory nodes of an element passed a wave: taken its milestone, or done all that was sent them? A store that the element
issued before the milestone is then in the hold buffer. -/
def nodesPast (x : Elem) (w : Nat) : Bool :=
  x.nodeSet.all (fun p => decide (w ≤ (mget x.nodes p .zero).mile) ||
    ((mget x.outB p []).isEmpty && (mget x.nodes p .zero).half.isNone && (mget x.nodes p .zero).reqs.all (fun r => !r.held)))

/-- Has every element of the running invocation taken a wave? -/
def waveTaken (s : State) (k : District) (w : Nat) : Bool :=
  match k.running with
  | none => false
  | some v => (distElems s k).all (fun e =>
      let x := elem s e
      (x.joined != some v.id && !yetToJoin s k v e) || (x.joined == some v.id && (x.fin || decide (w ≤ x.mile)) && nodesPast x w))

/-- At the end of an fc the waves that every element has taken are complete, unless the region is to roll back (17 R399). -/
def markFull (s : State) (k : District) : District :=
  if k.needRoll then k else { k with miles := k.miles.map (fun m => { m with full := m.full || waveTaken s k m.wave }) }

/-! ## The end of an invocation (09 R265) -/

/-- Does a DONE of an invocation still stand in a place from which it must go on: an output port that leads to a track
or a node, a link, a hop of this district or of another of its gang, a node? -/
def doneUnderway (s : State) (k : District) (i : Nat) : Bool :=
  let isDone := fun (t : Token) => t.kind == 8 && t.inv == i
  (distElems s k).any (fun e =>
    let x := elem s e
    ports.any (fun p => !handleAt s k e p true && (mget x.outB p []).any isDone) ||
    x.outL.any (fun l => l.2.any isDone) || x.nodes.any (fun n => n.2.reqs.any (fun r => isDone r.tok))) ||
  s.switches.any (fun w => w.2.hop.any (fun h => h.2.any (fun t => t.kind == 8 && t.home == i)))

/-- Has every element that takes part in an invocation finished it? -/
def allFinished (s : State) (k : District) (v : Inv) : Bool :=
  (distElems s k).all (fun e =>
    let x := elem s e
    (x.joined != some v.id || x.fin) && !yetToJoin s k v e)

/-- The lowest element that holds residue of an invocation: a token other than DONE (09 R265). -/
def residueAt (s : State) (k : District) (i : Nat) : Option Nat :=
  (distElems s k).find? (fun e => (elem s e).inB.any (fun p => p.2.any (fun t => t.inv == i && t.kind != 8)))

/-- Discards what is left of an invocation that has ended: tokens in ports for a pull handle stay. -/
def clearInv (d i : Nat) (k : District) (s : State) : State :=
  let keep := fun e p => handleAt s k e p true
  let s1 := { s with elems := s.elems.map (fun p => if k.hasElem p.1 then
      (p.1, (if p.2.joined = some i then { p.2 with tear := false, ghost := [] } else p.2) |> fun x => { x with
        inB := x.inB.map (fun b => (b.1, b.2.filter (fun t => t.inv != i))),
        outB := x.outB.map (fun b => (b.1, if keep p.1 b.1 then b.2 else b.2.filter (fun t => t.inv != i))),
        ctB := x.ctB.map (fun b => (b.1, b.2.filter (fun t => t.2 != i))) }) else p) }
  updDist s1 d (fun k => { k with
    invs := k.invs.filter (fun v => v.id != i), pushDone := k.pushDone.filter (fun p => p.2.2 != i), stall := 0,
    snaps := if k.invs.length ≤ 1 then [] else k.snaps.map (fun p => (p.1, p.2.filter (fun x => x.2.joined != some i))), undo := if k.invs.length ≤ 1 then [] else k.undo,
    pushLog := liveLog (fun j => j == i) k.pushLog, canRoll := true, errAt := none, rolled := false, snapStall := [] })

/-- 09 R265: the running invocation ends once everything has finished, its DONEs have arrived and its held stores are
performed. -/
def execInvocationEnd (d : Nat) (s : State) : Out :=
  .next (match mget? s.districts d with
    | none => s
    | some k =>
      match k.invs with
      | [] => s
      | v :: _ =>
        if !v.started || k.gated || k.faultDue.isSome || v.lost || !allFinished s k v || doneUnderway s k v.id || (completeWave k).isSome then s
        else if (heldFrozen s k.hold).isSome then meetAt (.dist d) (heldFrozen s k.hold) s
        else match residueAt s k v.id with
          | some e => invFault d v.id 0x152 e s
          | none =>
            let c := invCounts s k v
            let s1 := commitHeld d (fun h => h.inv == v.id) s
            setInvCpl k c stDone 0 (clearInv d v.id k s1))

/-- The earliest invocation that an element with a fault mark has joined, with the lowest such element. -/
def markedInv (s : State) (k : District) : Option (Nat × Nat) :=
  k.invs.findSome? (fun v => (k.faultMark.find? (fun e => (elem s e).joined == some v.id)).map (fun e => (v.id, e)))

/-- 09 R266: fault marks of the gang have reached elements of the district. The earliest invocation of a marked element ends, and with it
every later one. -/
def execGangfault (d : Nat) (s : State) : Out :=
  .next (match mget? s.districts d with
    | none => s
    | some k =>
      let s1 := updDist s d (fun k => { k with faultMark := [] })
      match markedInv s k with
      | some (i, e) => invFault d i 0x153 e s1
      | none => s1)

/-! ## The commit and the end of a wave (09 R280; 06 R180) -/

/-- 09 R280: the gateway commits the stores of a complete wave and of the waves before it. -/
def execWaveCommit (d : Nat) (s : State) : Out :=
  .next (match mget? s.districts d with
    | none => s
    | some k =>
      match completeWave k, k.running with
      | some m, some v =>
        if (heldFrozen s k.hold).isSome then meetAt (.dist d) (heldFrozen s k.hold) s else commitHeld d (waveHeld v m.wave) s
      | _, _ => s)

/-- Keys of the lengths that an element's lane-store and accumulator logs had when it took its last milestone. -/
def lsMarkKey : Nat := 3010
def accMarkKey : Nat := 3011

/-- Keys of the counts of a level writer's entries and closed fibres, and of a matrix cell's rows, in a wave (17 R396). -/
def entriesKey : Nat := 400
def closedKey : Nat := 401
def rowsKey : Nat := 402

/-- Keys of the length that the log of a control port had when the element took its last milestone, and when it took that of the last
complete wave. -/
def ctMarkKey (k : Nat) : Nat := 3030 + k
def ctBaseKey (k : Nat) : Nat := 3040 + k

/-- The snapshots that stay when a wave is complete; an element without one in that wave keeps the one it had. -/
def mergeSnaps (w : Nat) (l : List (Nat × SMap Elem)) : List (Nat × SMap Elem) :=
  let old := (l.filter (fun p => decide (p.1 < w))).foldl (fun m p => p.2.foldl (fun m x => mset m x.1 x.2) m) []
  match l.filter (fun p => decide (w ≤ p.1)) with
  | (n, m) :: rest => (n, m.foldl (fun a x => mset a x.1 x.2) old) :: rest
  | [] => [(w, old)]

/-- When a wave is complete the logs keep what follows it (17 R398). -/
def settleLogs (k : District) (s : State) : State :=
  { s with elems := s.elems.map (fun p => if k.hasElem p.1 then
      (p.1, { p.2 with lsLog := p.2.lsLog - mget p.2.counts lsMarkKey 0, accLog := p.2.accLog - mget p.2.counts accMarkKey 0,
                       counts := [0, 1, 2, 3].foldl (fun m j => mset m (ctBaseKey j) (mget m (ctMarkKey j) 0))
                         (mset (mset p.2.counts lsMarkKey 0) accMarkKey 0) }) else p) }

/-- 06 R180: every sink has taken the milestone and its stores are committed; older snapshots go, and a rollback before
it has succeeded (17 R400). -/
def execMstoneComplete (d : Nat) (s : State) : Out :=
  .next (match mget? s.districts d with
    | none => s
    | some k =>
      match completeWave k with
      | none => s
      | some m =>
        if segHeld k m.wave then s
        else
          let s1 := updDist (settleLogs k s) d (fun k => { k with
            miles := k.miles.drop 1, complete := m.wave, snaps := mergeSnaps m.wave k.snaps,
            undo := k.undo.filter (fun u => decide (m.wave ≤ u.1 / 2 ^ 40)),
            canRoll := true, errAt := if k.needRoll then k.errAt else none, rolled := false, pulled := [], pullDrop := [],
            snapStall := k.snapStall.filter (fun p => decide (m.wave ≤ p.1)),
            pushLog := k.pushLog.map (fun p => (p.1, logAfter (((k.running).map (fun v => v.id)).getD 0) m.wave p.2)) })
          let s2 := if k.rolled then updQuarter s1 k.rect.q (fun q => { q with trans := satInc q.trans }) else s1
          setCpl k.owner m.cpl (cplWord stDone 0 0 0x03) m.wave 0 0 s2)

end Sys2Proof.Machine
end

