-- ==== Sys2Proof/Machine/Cell.lean ====
section
/-! DEFINITION. The vector cell: its contexts, the heads of its ports, a data firing through six stages, structural
emissions, control tokens, and the check that it makes when it joins an invocation (07 R207 to R230; 09 R270, R278). -/

namespace Sys2Proof.Machine

/-! ## What every active element shares: finishing, faults, milestones that are due -/

/-- An element's fault ends its invocation (09 R266): consumed poison is a region error first (17 R401). -/
def elemFault (d : Nat) (v : Inv) (e : Nat) (cause : BitVec 10) (tval : Nat) (s : State) : State :=
  if cause = 0x109 then regionError d v.id e true tval s else invFault d v.id cause tval s

/-- The CH of an element's tokens for which the spec states none, under the iteration vector `it`; `use` is a context, or 16 and more for
other uses (log entry 28). -/
def openChAt (k : District) (it : Word) (e use n : Nat) : Nat :=
  (Config.freeCh ((elemY e - 8 * k.rect.by_) * 64 + (elemX e - 8 * k.rect.bx)) it use n).toNat

/-- Such a CH of an element in an invocation. -/
def openCh (k : District) (v : Inv) (e use n : Nat) : Nat := openChAt k v.iter e use n

/-- A MILESTONE stands at the head of an input port. -/
def atMile (x : Elem) (p : Nat) : Bool := (x.head p).any (fun t => t.kind == 9)

/-! ## Configuration words (07 R208) -/

def Elem.bindW (x : Elem) (j : Nat) : Nat := (x.field (0x60 + j)).toNat
/-- The ports of a four-bit set. -/
def portSet (v lo : Nat) : List Nat := ports.filter (fun i => v.testBit (lo + i))
def Elem.inSet (x : Elem) (j : Nat) : List Nat := portSet (x.bindW j) 12
def Elem.outSet (x : Elem) (j : Nat) : List Nat := portSet (x.bindW j) 8
def Elem.ctoSet (x : Elem) (j : Nat) : List Nat := portSet (x.bindW j) 4
def Elem.loff (x : Elem) (j : Nat) : Nat := x.bindW j / 2 ^ 16
def Elem.next1 (x : Elem) (j : Nat) : Nat := nb (x.ctl j) 31 28
def Elem.next0 (x : Elem) (j : Nat) : Nat := nb (x.ctl j) 27 24
def Elem.ctin (x : Elem) (j : Nat) : Nat := nb (x.ctl j) 23 22
def Elem.after (x : Elem) (j : Nat) : Nat := nb (x.ctl j) 21 20
def Elem.initBit (x : Elem) (j : Nat) : Bool := (x.ctl j).testBit 19
def Elem.chmode (x : Elem) (j : Nat) : Bool := (x.ctl j).testBit 18
def Elem.och (x : Elem) (j : Nat) : Nat := nb (x.ctl j) 17 14
def Elem.lsb (x : Elem) (j : Nat) : Nat := nb (x.ctl j) 13 11
def Elem.lsn (x : Elem) (j : Nat) : Nat := nb (x.ctl j) 10 7
def Elem.lsw (x : Elem) (j : Nat) : Bool := (x.ctl j).testBit 6
/-- MODE of context 0: is the cell token-driven? -/
def Elem.driven (x : Elem) : Bool := (x.ctl 0).testBit 1
/-- Stage word s of context j. -/
def Elem.stageWord (x : Elem) (j st : Nat) : StageWord := .ofWord (x.field (6 * j + st))
def stages : List Nat := [0, 1, 2, 3, 4, 5]

/-! ## The inputs at which a milestone is awaited (02 R52; 06 R180) -/

/-- Has every context of a vector cell that takes from a port consumed its DONE? No milestone comes there any more. -/
def portShut (x : Elem) (p : Nat) : Bool :=
  let users := x.actCtx.filter (fun j => (x.inSet j).contains p)
  !users.isEmpty && users.all (fun j => x.finCtx.contains j)

/-- The input ports of an element that are fed from elsewhere and are not closed: bound, and no memory node's return, since a milestone comes
back from a node only once the element has forwarded it there (10 R285, R288; log entry 117). -/
def openInputs (s : State) (e : Nat) : List Nat :=
  ports.filter (fun p => (elem s e).inBound p && !isNode s e p && !(elemKind e == .vector && portShut (elem s e) p))

/-- Is a tile burst that comes from a memory node open on an output? No milestone goes inside it (02 R52). -/
def nodeBurst (x : Elem) : Bool := x.nodeSet.contains 0 && x.burstOut.any (fun p => decide (64 ≤ p.1))

/-- Is a milestone due ahead of the next token of a source, an element with no open input (06 R180)? -/
def mileDue (s : State) (k : District) (v : Inv) (e : Nat) : Bool :=
  (k.running.map (fun r => r.id)) == some v.id && (openInputs s e).isEmpty && !nodeBurst (elem s e) &&
  k.miles.any (fun m => decide ((elem s e).mile < m.wave))

/-! ## The check at the start of an invocation (07 R210) -/

/-- The selectors that a stage word uses. -/
def StageWord.used (g : StageWord) : List Nat :=
  [g.sa, g.sb, g.sc].take (((opForm g.opc).map (fun f => f.n)).getD 0)

/-- The input ports that a stage reads. -/
def StageWord.inPorts (g : StageWord) : List Nat := (g.used.filter (fun x => decide (8 ≤ x ∧ x < 12))).map (· - 8)

/-- The output port or control port that a stage writes: 0 to 3, or 4 to 7 for control. -/
def StageWord.outPort (g : StageWord) : Option Nat := if 1 ≤ g.dst ∧ g.dst ≤ 8 then some (g.dst - 1) else none

/-- Do two lane-store windows share a word (07 R209)? -/
def windowsMeet (x : Elem) (i j : Nat) : Bool :=
  decide (x.lsn i ≠ 0 ∧ x.lsn j ≠ 0 ∧ x.lsb i < x.lsb j + x.lsn j ∧ x.lsb j < x.lsb i + x.lsn i)

/-- The first stage of a context that breaks a rule of R210, by rule. -/
def ctxStageBad (x : Elem) (j : Nat) : Option Nat :=
  let g := x.stageWord j
  let twice := stages.find? (fun st => (g st).outPort.isSome && (List.range st).any (fun u => (g u).outPort == (g st).outPort))
  let extra := stages.find? (fun st => match (g st).outPort with
    | some p => if p < 4 then !(x.outSet j).contains p else !(x.ctoSet j).contains (p - 4)
    | none => false)
  let inBad := stages.find? (fun st => (g st).inPorts.any (fun p => !(x.inSet j).contains p))
  let lsBad := stages.find? (fun st => (opWritesLs (g st).opc && !x.lsw j) ||
    ((opWritesLs (g st).opc || opReadsLs (g st).opc) && x.lsn j == 0))
  twice <|> extra <|> inBad <|> lsBad

/-- Does a context break a rule of R210 that names no stage? -/
def ctxBad (x : Elem) (j : Nat) : Bool :=
  let act := contexts.filter x.ctxActive
  let wrote := stages.filterMap (fun st => (x.stageWord j st).outPort)
  !(x.outSet j).all (fun p => wrote.contains p) || !(x.ctoSet j).all (fun p => wrote.contains (p + 4)) ||
  !(x.inSet j).all x.inBound || !(x.outSet j).all x.outBound || !(x.ctoSet j).all (fun p => x.ctWord p % 4 == 2) ||
  (x.after j == 2 && x.ctWord (x.ctin j) % 4 != 1) || decide (x.lsb j + x.lsn j > 8) ||
  act.any (fun i => i != j && windowsMeet x i j && (x.lsw i || x.lsw j)) ||
  (if x.driven then
    (x.after j == 1 && !act.contains (x.next0 j)) ||
    (x.after j == 2 && !(act.contains (x.next0 j) && act.contains (x.next1 j))) ||
    (act.filter x.initBit).length != 1
  else
    (x.inSet j).isEmpty || act.any (fun i => i != j &&
      ((x.inSet i).any (fun p => (x.inSet j).contains p) || (x.outSet i).any (fun p => (x.outSet j).contains p))))

/-- The context and stage at which R210 fails, the lowest context first; a rule that names no stage gives stage 0. -/
def cellCfgBad (x : Elem) : Option (Nat × Nat) :=
  (contexts.filter x.ctxActive).findSome? (fun j => match ctxStageBad x j with
    | some st => some (j, st)
    | none => if ctxBad x j then some (j, 0) else none)

/-- CC_TVAL of the cell causes (07 R210). -/
def cellTval (e j st : Nat) : Nat := e + j * 2 ^ 20 + st * 2 ^ 24

/-! ## The candidate and its heads (07 R224 to R228) -/

/-- The context that may fire now: in a token-driven cell the armed one, in a stepped cell the one of the slot of the
running context counter, once for each slot. -/
def candidate (k : District) (x : Elem) : Option Nat :=
  let c :=
    if x.driven then x.armed
    else if k.ctxRun && x.lastTick != k.tick then
      let v := (x.field (0x54 + k.ctxPos)).toNat
      if v.testBit 4 then none else some (v % 16)
    else none
  c.filter (fun j => x.actCtx.contains j && !x.finCtx.contains j)

/-- What the heads of the ports of IN allow (07 R224). -/
inductive Heads where
  | wait
  | data
  | stop (l : Nat)
  | done
  | one (i : Nat)
  | bad (cause : BitVec 10)
  deriving DecidableEq, Repr

def headsOf (x : Elem) (ins : List Nat) : Heads :=
  let hs := ins.map (fun i => (i, x.head i))
  let kindIs := fun (h : Nat × Option Token) (p : Nat → Bool) => h.2.any (fun t => p t.kind)
  if hs.any (fun h => kindIs h (fun q => decide (12 ≤ q))) then .bad 0x181
  else match hs.find? (fun h => kindIs h (fun q => q == 10 || q == 11)) with
    | some h => .one h.1
    | none =>
      if hs.any (fun h => h.2.isNone || kindIs h (fun q => q == 9)) then .wait
      else
        let ks := hs.filterMap (fun h => h.2.map (fun t => t.kind))
        match ks with
        | [] => .data
        | q :: rest => if rest.any (fun r => r != q) then .bad 0x194 else if q = 0 then .data else if q = 8 then .done else .stop (q - 1)

/-- The cause of a burst check of a token that a port takes (02 R53). -/
def burstCause (x : Elem) (i : Nat) (t : Token) : Option (BitVec 10) :=
  if !linkBurst (x.inWord i) then none
  else match mget? x.burstIn i with
    | none => if t.kind = 0 then some 0x183 else if t.kind = 11 ∧ t.val ≠ 0 then some 0x182 else none
    | some n =>
      if t.kind = 0 then none
      else if t.kind = 11 then (if t.val.toNat = n % 2 ^ 32 then none else some 0x182)
      else some 0x183

/-- The count of an open burst after a port has taken a token. -/
def burstStep (i : Nat) (t : Token) (x : Elem) : Elem :=
  if t.kind = 10 then { x with burstIn := mset x.burstIn i 0 }
  else if t.kind = 11 then { x with burstIn := mdel x.burstIn i }
  else if t.kind = 0 then (match mget? x.burstIn i with
    | some n => { x with burstIn := mset x.burstIn i (n + 1) }
    | none => x)
  else x

/-- The first burst fault among ports, lowest port first. -/
def burstBad (x : Elem) (ins : List Nat) : Option (BitVec 10) :=
  ins.findSome? (fun i => (x.head i).bind (burstCause x i))

/-- Does a poisoned HEAD cover the burst of a port (02 R48)? Kept beside the head scales under key 4 + i. -/
def burstPois (x : Elem) (i : Nat) : Bool := mget x.hsc (4 + i) 0 != 0

/-- Takes the head of a port, with its burst bookkeeping. -/
def takeBurst (x : Elem) (i : Nat) : Elem :=
  match x.head i with
  | some t => burstStep i t (x.take i)
  | none => x

/-- Have the output and control ports of a context room (07 R225)? -/
def roomFor (x : Elem) (outs ctos : List Nat) : Bool := outs.all x.room && ctos.all (fun k => decide ((mget x.ctB k []).length < 2))

/-- The channel of the tokens that a context emits (07 R208), where `f` stands for the value that the spec does not
state: CHMODE = 1 or `ch` with an empty IN (log entry 28). -/
def ctxCh (x : Elem) (j f : Nat) : Nat :=
  if x.chmode j then
    match x.inSet j with
    | i :: _ => ((x.head i).map (fun t => t.ch)).getD f
    | [] => f
  else x.och j

/-! ## A data firing (07 R212, R213) -/

/-- What a firing reads for all its stages: context, tokens by port, lanes that are on, iteration vector, the CH of
`ch`. -/
structure FireEnv where
  j : Nat
  toks : SMap Token
  on : List Bool
  iter : Word
  chv : Nat

/-- A firing under way: the cell, `pipe`, the values written to output and control ports, the stages at which `cbrk` broke, and the
stage and cause that stopped it. -/
structure Fire where
  x : Elem
  pipe : Lanes
  outs : SMap Lanes
  cts : SMap Bool
  brk : List Nat
  stop : Option (Nat × BitVec 10)

def FireEnv.isOn (v : FireEnv) (i : Nat) : Bool := v.on.getD i false

/-- Is lane L on: not in LOFF, and valid in every vector token taken (07 R213)? -/
def laneOn (x : Elem) (j : Nat) (toks : SMap Token) (L : Nat) : Bool :=
  !(x.loff j).testBit L && toks.all (fun t => !t.2.vec || t.2.lv.toNat.testBit L)

/-- The lane values of a token at a port (07 R211; 02 R47, R48): a scalar token supplies its payload to every lane, and a lane that is not
valid in a vector token holds 0. -/
def tokenLanes (x : Elem) (i : Nat) (t : Token) : Lanes :=
  Lanes.ofFn (fun L =>
    if !t.vec then ⟨t.val, t.pois || burstPois x i⟩
    else if t.lv.toNat.testBit L then ⟨t.lane L, t.p.toNat.testBit L || burstPois x i⟩
    else .zero)

/-- The operand of a lane movement: an input lane that is off reads 0 (07 R220). -/
def movedLanes (on : Nat → Bool) (opc sel : Nat) (a : Lanes) : Lanes :=
  if 0x48 ≤ opc ∧ opc ≤ 0x4B ∧ 8 ≤ sel ∧ sel < 12 then Lanes.ofFn (fun L => if on L then a.at L else .zero) else a

/-- The lanes of working register r of context j. -/
def workLanes (x : Elem) (j r : Nat) : Lanes := Lanes.ofFn (fun L => mget x.w ((j * 16 + r) * 16 + L) .zero)

/-- The value of a selector (07 R211). -/
def sourceLanes (v : FireEnv) (f : Fire) (sel : Nat) : Lanes :=
  let num := fun n => Lanes.splat ⟨BitVec.ofNat 32 n, false⟩
  if sel = 1 then f.pipe
  else if sel = 2 then Lanes.ofFn (fun L => ⟨BitVec.ofNat 32 L, false⟩)
  else if sel = 3 then num v.chv
  else if 4 ≤ sel ∧ sel < 8 then num (bits v.iter (16 * (sel - 4) + 15) (16 * (sel - 4)))
  else if 8 ≤ sel ∧ sel < 12 then (match mget? v.toks (sel - 8) with
    | some t => tokenLanes f.x (sel - 8) t
    | none => num 0)
  else if 12 ≤ sel ∧ sel < 16 then num (mget f.x.hsc (sel - 12) 0x3F80).toNat
  else if 16 ≤ sel ∧ sel < 32 then workLanes f.x v.j (sel - 16)
  else if 32 ≤ sel ∧ sel < 48 then num (f.x.field (0xC0 + (sel - 32))).toNat
  else num 0

/-- Writes lanes that are on through a keyed map. -/
def writeLanes (v : FireEnv) (m : SMap LaneVal) (key : Nat → Nat) (r : Lanes) : SMap LaneVal :=
  (List.range 16).foldl (fun m L => if v.isOn L then mset m (key L) (r.at L) else m) m

/-- A stage's result goes to `pipe` and to its destination (07 R211, R213). -/
def putResult (v : FireEnv) (dst : Nat) (r : Lanes) (f : Fire) : Fire :=
  let m := Lanes.ofFn (fun L => if v.isOn L then r.at L else .zero)
  let f1 := { f with pipe := m }
  if 1 ≤ dst ∧ dst ≤ 4 then { f1 with outs := mset f1.outs (dst - 1) m }
  else if 16 ≤ dst then { f1 with x := { f1.x with w := writeLanes v f1.x.w (fun L => (v.j * 16 + (dst - 16)) * 16 + L) r } }
  else f1

/-- `cvt.sr.bf16.f32`: lanes that are on step their generators for the values rounded randomly (07 R217; 01 R29). -/
def srStage (v : FireEnv) (dst : Nat) (a : Lanes) (f : Fire) : Fire :=
  let key := fun L => v.j * 16 + L
  let stepped := fun L => v.isOn L && srRandom (a.at L).v
  let next := fun L => xorshift (mget f.x.gen (key L) (seedLane 0 L))
  let r := Lanes.ofFn (fun L => ⟨laneOp 0x37 0 (a.at L).v 0 0 ((next L).toNat / 2 ^ 16), (a.at L).p⟩)
  let gen := (List.range 16).foldl (fun g L => if stepped L then mset g (key L) (next L) else g) f.x.gen
  putResult v dst r { f with x := { f.x with gen := gen } }

/-- Seeds the generators of a context (01 R29). -/
def seedCtx (j : Nat) (seed : W32) (x : Elem) : Elem :=
  { x with gen := (List.range 16).foldl (fun g L => mset g (j * 16 + L) (seedLane seed L)) x.gen }

/-- The index that a lane of a lane-store operation computes (07 R221). -/
def lsIndex (opc : Nat) (a b c : LaneVal) : Nat := if opc = 0x62 then b.v.toNat + min a.v.toNat c.v.toNat else a.v.toNat

/-- The operations of R221: an index outside the window in a lane that is on stops the firing. -/
def lsStage (v : FireEnv) (st : Nat) (g : StageWord) (a b c : Lanes) (f : Fire) : Fire :=
  let W := 64 * f.x.lsn v.j
  let B := 64 * f.x.lsb v.j
  let ix := fun L => lsIndex g.opc (a.at L) (b.at L) (c.at L)
  if (List.range 16).any (fun L => v.isOn L && decide (W ≤ ix L)) then { f with stop := some (st, 0x192) }
  else
    let key := fun L => (B + ix L) * 16 + L
    let old := fun L => mget f.x.ls (key L) .zero
    if g.opc = 0x60 ∨ g.opc = 0x62 then putResult v g.dst (Lanes.ofFn old) f
    else
      let new := Lanes.ofFn (fun L => match g.opc with
        | 0x61 => b.at L
        | 0x63 => ⟨fadd (old L).v (b.at L).v g.md, (old L).p || (b.at L).p⟩
        | _ => ⟨(old L).v + (b.at L).v, (old L).p || (b.at L).p⟩)
      let ws := (List.range 16).foldl (fun l L => if v.isOn L && !l.contains (ix L) then ix L :: l else l) []
      { f with x := { f.x with ls := writeLanes v f.x.ls key new, lsLog := f.x.lsLog + ws.length } }

/-- One stage (07 R212 to R223). A stage that stops the firing writes nothing, and no later stage runs. -/
def runStage (v : FireEnv) (f : Fire) (st : Nat) : Fire :=
  if f.stop.isSome then f
  else
    let g := f.x.stageWord v.j st
    let a := sourceLanes v f g.sa
    let b := sourceLanes v f g.sb
    let c := sourceLanes v f g.sc
    if poisonLeaves g.opc v.isOn a b c then { f with stop := some (st, 0x109) }
    else match g.opc with
      | 0x00 => f
      | 0x37 => srStage v g.dst a f
      | 0x3F => { f with x := seedCtx v.j (a.at 0).v f.x }
      | 0x70 => { f with cts := mset f.cts (g.dst - 5) ((a.at 0).v != 0) }
      | 0x71 =>
        let ch := ((mget? v.toks (g.sa - 8)).map (fun t => t.ch)).getD 0
        if ch ≠ (b.at 0).v.toNat % 16 then { f with stop := some (st, 0x191) } else f
      | 0x7F => if g.sa = 0 ∨ (List.range 16).any (fun L => v.isOn L && (a.at L).v != 0) then { f with brk := f.brk ++ [st] } else f
      | opc =>
        if opReadsLs opc || opWritesLs opc then lsStage v st g a b c f
        else if isCross opc then putResult v g.dst (crossOp opc g.md v.isOn (movedLanes v.isOn opc g.sa a) b c) f
        else
          let n := ((opForm opc).map (fun o => o.n)).getD 0
          let p := fun L => ((a.at L).p && decide (1 ≤ n)) || ((b.at L).p && decide (2 ≤ n)) || ((c.at L).p && decide (3 ≤ n))
          putResult v g.dst (Lanes.ofFn (fun L => ⟨laneOp opc g.md (a.at L).v (b.at L).v (c.at L).v 0, p L⟩)) f

/-- The mask of lanes that satisfy a predicate. -/
def laneMask (p : Nat → Bool) : Nat := (List.range 16).foldl (fun m L => if p L then m + 2 ^ L else m) 0

/-- The DATA token that a port emits for the lanes written to it (07 R213; 02 R47). -/
def dataToken (w ch : Nat) (on : Nat → Bool) (r : Lanes) : Token :=
  if linkVec w then
    ⟨true, 0, ch, BitVec.ofNat 16 (laneMask (fun L => (r.at L).p)),
     BitVec.ofNat 16 (if linkImage w then 2 ^ 16 - 1 else laneMask on),
     BitVec.ofNat 512 ((List.range 16).foldl (fun m L => m + (r.at L).v.toNat * 2 ^ (32 * L)) 0), 0, 0, []⟩
  else plainTok false 0 ch (r.at 0).p (r.at 0).v.toNat

/-- The context that is armed after a data firing of a token-driven cell (07 R228). -/
def rearm (j : Nat) (x : Elem) : Elem :=
  if !x.driven then x
  else if x.after j = 1 then { x with armed := some (x.next0 j) }
  else if x.after j = 2 then { x with armed := none, branch := some j }
  else x

/-- The working registers that the first n stages of a context write. -/
def wroteRegs (x : Elem) (j n : Nat) : List Nat :=
  (stages.take n).filterMap (fun st => let q := (x.stageWord j st).dst; if 16 ≤ q then some (16 * j + (q - 16)) else none)

/-- The working registers that a context's stages read and no earlier stage of the firing has written. -/
def readRegs (x : Elem) (j : Nat) : List Nat :=
  stages.flatMap (fun st => (((x.stageWord j st).used.filter (fun q => decide (16 ≤ q ∧ q < 32))).map (fun q => 16 * j + (q - 16))).filter
    (fun r => !(wroteRegs x j st).contains r))

/-- The tokens that a data firing of a context takes. -/
def fireToks (x : Elem) (j : Nat) : SMap Token := (x.inSet j).filterMap (fun i => (x.head i).map (fun t => (i, t)))

/-- The lanes of registers, 16 to a register: those that are on in a firing. -/
def laneKeys (x : Elem) (j : Nat) (regs : List Nat) : List Nat :=
  regs.flatMap (fun r => ((List.range 16).filter (laneOn x j (fireToks x j))).map (fun L => 16 * r + L))

/-- A parity repair of an element is counted (17 R395, R400, R405). -/
def countRepair (d e word : Nat) (s : State) : State :=
  logError (elemQ e) 3 0 e false word (distWave s d) (distAsid s d)
    (updQuarter s (elemQ e) (fun q => { q with parfix := satInc q.parfix, trans := satInc q.trans }))

/-- Repairs bad parity in the registers that a firing reads, lane 0 among them, from the cell's last eight firings (17 R395): none when a
repair fails, since the writer has left the queue or the repaired read finds bad parity again. -/
def cellParity (d e j : Nat) (s : State) : Option State :=
  let x := elem s e
  let bad := (laneKeys x j (readRegs x j) ++ (readRegs x j).map (16 * ·)).dedup.filter (fun r => (mget? x.parity r).isSome)
  if bad.any (fun r => mget? x.parity r == some true || !x.replay.any (fun l => l.contains r)) then none
  else some (bad.foldl (fun s r => countRepair d e r (updElem s e (fun x => { x with parity := mdel x.parity r }))) s)

/-- The cell after a firing whose first n stages have run: what they wrote has good parity, and the firing enters the replay queue (17
R395). -/
def Elem.replayed (x0 : Elem) (j n : Nat) (x : Elem) : Elem :=
  let l := laneKeys x0 j (wroteRegs x0 j n)
  { x with parity := x.parity.filter (fun p => !l.contains p.1), replay := (l :: x.replay).take 8 }

/-- Runs the six stages of a data firing on the state of its cell. -/
def fireStages (x : Elem) (j : Nat) (iter : Word) (f : Nat) : FireEnv × Fire :=
  let toks := fireToks x j
  let chv := match x.inSet j with
    | i :: _ => ((x.head i).map (fun t => t.ch)).getD 0
    | [] => f
  let env : FireEnv := ⟨j, toks, (List.range 16).map (laneOn x j toks), iter, chv⟩
  let f0 : Fire := { x := (x.inSet j).foldl takeBurst x, pipe := Lanes.splat .zero, outs := [], cts := [], brk := [], stop := none }
  (env, stages.foldl (runStage env) f0)

/-- The tokens of a data firing enter the output and control ports (07 R212). -/
def emitData (x0 : Elem) (j ch : Nat) (env : FireEnv) (f : Fire) : Elem :=
  let x1 := (x0.outSet j).foldl (fun x p =>
    { x.emit p (dataToken (x0.outWord p) ch env.isOn (mget f.outs p (Lanes.splat .zero))) with
      burstOut := mset x.burstOut p (mget x.burstOut p 0 + 1) }) f.x
  (x0.ctoSet j).foldl (fun x p => x.emitCt p (mget f.cts p false)) x1

/-- A break: the district's clock is gated and its thread takes CELLBRK (07 R223; 13 R356). -/
def cellBreak (d e j st : Nat) (v : Inv) (s : State) : State :=
  match mget? s.districts d with
  | none => s
  | some k =>
    let s1 := updDist (updCore s k.core (fun c => { c with dbrk := true })) d (fun k => { k with gated := true })
    raiseThread k.thread 0x193 (BitVec.ofNat 64 (cellTval e j st)) v.iter s1

/-- The logs of a lane store, accumulator and control routes that fill: they hold what came after the last complete wave (17 R398). -/
def logsFull (x : Elem) : Bool :=
  decide (x.lsLog > 64) || decide (x.accLog > 16) || x.ctLog.any (fun p => decide (p.2.length > 64 + mget x.counts (ctBaseKey p.1) 0))

/-- Stores a cell's new state after a firing: the district counts it, and a full log forbids rollback. -/
def putFired (d e : Nat) (x : Elem) (s : State) : State :=
  let s1 := fired d (setElem s e x)
  if logsFull x then updDist s1 d (fun k => { k with canRoll := false }) else s1

/-- The breaks and the fault of a firing come one after another: behind a break the firing stands until the district goes on (07 R223). -/
def fireEnd (d e : Nat) (v : Inv) (s : State) : State :=
  match (elem s e).late with
  | [] => s
  | (j, st, c) :: rest =>
    let s1 := updElem s e (fun x => { x with late := rest })
    if c = 0x193 then cellBreak d e j st v s1 else elemFault d v e c (cellTval e j st) s1

/-- Counts a firing of a context on heads of a kind, for the checks of a wave (17 R396). -/
def ctxKey (j kind : Nat) : Nat := 256 + j * 16 + kind
def Elem.countCtx (x : Elem) (j kind : Nat) : Elem := x.tally (ctxKey j kind)

/-- The key of the count of firings that took no token, which number their open CH. -/
def blindKey : Nat := 3020

/-- A context fires on data (07 R212). -/
def fireData (d : Nat) (k : District) (v : Inv) (e j : Nat) (s0 : State) : State :=
  let x := { elem s0 e with lastTick := k.tick }
  match burstBad x (x.inSet j) with
  | some c => elemFault d v e c (cellTval e j 0) s0
  | none =>
    match cellParity d e j s0 with
    | none => regionError d v.id e false (cellTval e j 0) s0
    | some s =>
      let n := mget x.counts blindKey 0
      let x := { x with parity := (elem s e).parity, counts := if (x.inSet j).isEmpty then mset x.counts blindKey (n + 1) else x.counts }
      let (env, f) := fireStages x j v.iter (openCh k v e (j + 16) n)
      let breaks := f.brk.map (fun st => (j, st, (0x193 : BitVec 10)))
      let seen := fun (n : Nat) (y : Elem) => (x.replayed j n y).countCtx j 0
      match f.stop with
      | some (st, c) => fireEnd d e v (putFired d e { seen st f.x with late := breaks ++ [(j, st, c)] } s)
      | none => fireEnd d e v (putFired d e { seen 6 (rearm j (emitData x j (ctxCh x j (openCh k v e j n)) env f)) with late := breaks } s)

/-- The vector cell of an element that may act now, with its candidate context. While a milestone is due, only a context that takes a memory
node's returns, which stand before it, may act. -/
def cellReady (s : State) (e : Nat) : Option (Nat × District × Inv × Nat) :=
  if elemKind e ≠ .vector then none
  else match active s e with
    | none => none
    | some (d, k, v) =>
      let x := elem s e
      if !x.late.isEmpty then none
      else ((candidate k x).filter (fun j => !mileDue s k v e || (x.inSet j).any (isNode s e))).map (fun j => (d, k, v, j))

/-- 07 R212: a ready context issues a data firing; a firing that stands behind a break goes on. -/
def execVectorCellFiring (e : Nat) (s : State) : Out :=
  .next (match cellReady s e with
    | none => match active s e with
      | some (d, _, v) => if elemKind e = .vector then fireEnd d e v s else s
      | none => s
    | some (d, k, v, j) =>
      let x := elem s e
      if headsOf x (x.inSet j) = .data ∧ roomFor x (x.outSet j) (x.ctoSet j) = true then fireData d k v e j s else s)

/-! ## Structural emissions (07 R224) -/

/-- Emits one token on ports, each in its link's form. -/
def emitAll (outs : List Nat) (mk : Nat → Elem → Token) (x : Elem) : Elem := outs.foldl (fun x p => x.emit p (mk p x)) x

/-- DONE on ports that have not carried one. -/
def emitDone (outs : List Nat) (ch : Nat) (td : Bool) (x : Elem) : Elem :=
  let x1 := emitAll outs (fun p x => plainTok (linkVec (x.outWord p)) 8 ch false (if td then 1 else 0)) x
  { x1 with doneOut := outs.foldl setIns x1.doneOut }

/-- The OUT ports on which a context that takes DONE emits it: its own, and in a token-driven cell those of the other
ACTIVE contexts that have not carried one (07 R228). -/
def doneOuts (x : Elem) (j : Nat) : List Nat :=
  if x.driven then ports.filter (fun p => x.actCtx.any (fun i => (x.outSet i).contains p) && ((x.outSet j).contains p || !x.doneOut.contains p))
  else x.outSet j

/-- A context finishes; the cell finishes with its last context, or at once if it is token-driven. -/
def finishCtx (j : Nat) (td : Bool) (x : Elem) : Elem :=
  let x1 := { x with finCtx := setIns x.finCtx j }
  if x1.driven || x1.actCtx.all (fun i => x1.finCtx.contains i) then x1.finish td else x1

/-- The TD of the lowest of some ports. -/
def lowestTd (x : Elem) (ins : List Nat) : Bool := match ins with
  | i :: _ => (x.head i).any (fun t => t.td)
  | [] => false

/-- The key under which `burstOut` says that a burst is open on an output, beside the count of its tokens. -/
def openKey (p : Nat) : Nat := 64 + p

/-- Takes a HEAD or TAIL from one port (07 R224); `none` while an output has no room (07 R225). A TAIL carries the number of tokens that
the cell has emitted (07 R224), or, from a port that does not check bursts, its own count unchanged (02 R53; log entry 118). -/
def takeMark (x : Elem) (j i ch : Nat) : Option Elem :=
  match x.head i with
  | none => none
  | some t =>
    let outs := if i = 0 then x.outSet j else []
    if !roomFor x (x.outSet j) (x.ctoSet j) then none
    else
      let x1 := takeBurst x i
      if t.kind = 10 then
        let x2 := { x1 with hsc := mset (mset x1.hsc i (t.pay.setWidth 16)) (4 + i) (if t.pois then 1 else 0) }
        some (outs.foldl (fun x p =>
          { x.emit p (plainTok (linkVec (x.outWord p)) 10 ch t.pois t.val.toNat) with burstOut := mset (mset x.burstOut p 0) (openKey p) 1 }) x2)
      else
        let x2 := { x1 with hsc := mset x1.hsc (4 + i) 0 }
        some (outs.foldl (fun x p =>
          { x.emit p (plainTok (linkVec (x.outWord p)) 11 ch false (if linkBurst (x.inWord i) then mget x.burstOut p 0 else t.val.toNat)) with burstOut := mdel x.burstOut (openKey p) }) x2)

/-- The channel of a structural emission: CHMODE = 1 copies that of the lowest port of IN. -/
def markCh (x : Elem) (j : Nat) : Nat := ctxCh x j 0

/-- 07 R224: a context consumes STOP, DONE, HEAD or TAIL heads, or finds a mix. -/
def execStructuralEmission (e : Nat) (s : State) : Out :=
  .next (match cellReady s e with
    | none => s
    | some (d, k, v, j) =>
      let x := { elem s e with lastTick := k.tick }
      let ins := x.inSet j
      let outs := x.outSet j
      let fault := fun c => elemFault d v e c (cellTval e j 0) s
      match headsOf x ins with
      | .wait => s
      | .data => s
      | .bad c => fault c
      | .one i =>
        match burstBad x [i] with
        | some c => fault c
        | none => match takeMark x j i (markCh x j) with
          | some x1 => putFired d e (x1.countCtx j (((x.head i).map (fun t => t.kind)).getD 0)) s
          | none => s
      | .stop l =>
        match burstBad x ins with
        | some c => fault c
        | none =>
          if !roomFor x outs (x.ctoSet j) then s
          else putFired d e
            ((emitAll outs (fun p y => plainTok (linkVec (y.outWord p)) (l + 1) (markCh x j) false 0) (ins.foldl takeBurst x)).countCtx j (l + 1)) s
      | .done =>
        match burstBad x ins with
        | some c => fault c
        | none =>
          let os := doneOuts x j
          if !os.all x.room || !roomFor x outs (x.ctoSet j) then s
          else
            let td := lowestTd x ins
            putFired d e (finishCtx j td (emitDone os (markCh x j) td (ins.foldl takeBurst x))) s)

/-! ## Control tokens (07 R228; 09 R270) -/

/-- 07 R228: a cell waiting under BRANCH takes a control token of its CTIN. -/
def execControlTokenTake (e : Nat) (s : State) : Out :=
  .next (match active s e, (elem s e).branch with
    | some (d, _, v), some j =>
      let x := elem s e
      let p := x.ctin j
      match mget x.ctB p [] with
      | (b, i) :: rest =>
        if i ≠ v.id then s
        else
          let x1 := { x with ctB := mset x.ctB p rest }
          if mget x.counts (ctDropKey p) 0 > 0 then setElem s e { x1 with counts := mupd x1.counts (ctDropKey p) 0 (· - 1) }
          else fired d (setElem s e { x1 with
            counts := mupd x1.counts (ctTakenKey p) 0 (· + 1), branch := none,
            armed := some (if b then x.next1 j else x.next0 j) })
      | [] => s
    | _, _ => s)

/-- 09 R270: a cell waiting under BRANCH finishes when every input of its two arms holds DONE. -/
def execBranchCellFinish (e : Nat) (s : State) : Out :=
  .next (match active s e, (elem s e).branch with
    | some (d, _, _), some j =>
      let x := elem s e
      let ins := ports.filter (fun p => (x.inSet (x.next0 j)).contains p || (x.inSet (x.next1 j)).contains p)
      let outs := ports.filter (fun p => x.actCtx.any (fun i => (x.outSet i).contains p) && !x.doneOut.contains p)
      if ins.isEmpty || !ins.all (fun p => (x.head p).any (fun t => t.kind == 8)) || !outs.all x.room then s
      else
        let td := lowestTd x ins
        let ch := if x.chmode j then ((ins.head?.bind x.head).map (fun t => t.ch)).getD 0 else x.och j
        putFired d e ((emitDone outs ch td (ins.foldl takeBurst x)).finish td) s
    | _, _ => s)

end Sys2Proof.Machine
end

