-- ==== Sys2Proof/Machine/Gateway.lean ====
section
/-! DEFINITION. The gateway of a district: loads that are served from held bytes, and stores that enter the hold buffer
(09 R279, R280; 10 R283, R287, R301). -/

namespace Sys2Proof.Machine

/-- What an access comes to: done, a cause, or a wait: until the page of a place has moved, or, with no place, until room frees. -/
inductive Gw (α : Type) where
  | ok (a : α)
  | fault (c : BitVec 10)
  | wait (p : Option Place)

/-- An access goes on with the answer of the one before it. -/
def gwBind {α β : Type} (r : Gw α × State) (f : α → State → Gw β × State) : Gw β × State :=
  match r with
  | (.ok a, s) => f a s
  | (.fault c, s) => (.fault c, s)
  | (.wait p, s) => (.wait p, s)

/-- The place of an element's access to device memory (09 R279; 13 R337): hub registers and every window lie outside
what an element reaches. `count` says that a request for a MODE 2 page is counted (13 R343). -/
def gwPlace (k : District) (va : Nat) (n : Need) (count : Bool) (s : State) : Gw Place × State :=
  if region va ≠ 0 then (.fault 0x106, s)
  else match xlate s k.owner.who va n count with
    | (.error c, s1) => (.fault c, s1)
    | (.ok (.hub _), s1) => (.fault 0x046, s1)
    | (.ok p, s1) => if (migAt s1 p).isSome then (.wait (some p), s1) else (.ok p, s1)

/-- A range of n bytes cut at the multiples of u, which divides 2^56: address and length of each piece. The first number bounds the
pieces. -/
def runsOf (u : Nat) : Nat → Nat → Nat → List (Nat × Nat)
  | 0, _, _ => []
  | f + 1, va, n =>
    if n = 0 then []
    else let m := min n (u - va % u); (va, m) :: runsOf u f ((va + m) % 2 ^ 56) (n - m)

/-- The owner and physical address of a place. -/
def placePa : Place → Nat × Nat
  | .peer n pa => (n, pa)
  | .dev pa => (ownPeer, pa)
  | _ => (ownPeer, 0)

/-- The youngest held byte of a physical address (09 R279). -/
def heldByte (k : District) (peer pa : Nat) : Option (Byte × Bool) :=
  (k.hold.reverse.find? (fun h => h.peer == peer && decide (h.pa ≤ pa ∧ pa < h.pa + h.bytes.length))).map
    (fun h => (h.bytes.getD (pa - h.pa) 0, h.pois))

/-- One byte as the district's elements see it: a held one, at a peer's page that of a cached line or the free value `f`, else
memory's. -/
def seenByte (s : State) (k : District) (f : Byte × Bool) (p : Place) : Byte × Bool :=
  let (peer, pa) := placePa p
  match heldByte k peer pa with
  | some b => b
  | none => if isPeer p then (lcByte s p).getD f else (placeByte s p, placePois s p)

/-- Reads the bytes of pieces that lie in one page each, every page translated (10 R301). -/
def gwPieces (k : District) : List (Nat × Nat) → State → Gw (List (Byte × Bool)) × State
  | [], s => (.ok [], s)
  | (va, n) :: t, s =>
    gwBind (gwPlace k va needR true s) (fun p s1 =>
      let bs := (List.range n).map (fun j => seenByte s1 k (freeSeen (s1.freeIx + j)) (p.plus j))
      let s2 := if isPeer p then { s1 with freeIx := s1.freeIx + n } else s1
      gwBind (gwPieces k t s2) (fun l s3 => (.ok (bs ++ l), s3)))

/-- Reads n bytes as the district's elements see them: each byte with its poison. -/
def gwRead (k : District) (va n : Nat) (s : State) : Gw (List (Byte × Bool)) × State :=
  gwPieces k (runsOf 4096 (n + 1) (va % 2 ^ 56) n) s

/-- Loads n bytes, poisoned if any of them is. -/
def gwLoad (k : District) (va n : Nat) (s : State) : Gw (List Byte × Bool) × State :=
  gwBind (gwRead k va n s) (fun l s1 => (.ok (l.map Prod.fst, l.any Prod.snd), s1))

/-- The held stores of pieces that lie in one line each, every page translated. -/
def gwHelds (k : District) (v : Inv) (wave : Nat) (pois : Bool) : List (Nat × Nat) → List Byte → Bool → State → Gw (List Held) × State
  | [], _, _, s => (.ok [], s)
  | (va, n) :: t, bytes, first, s =>
    gwBind (gwPlace k va needW (first || va % 4096 == 0) s) (fun p s1 =>
      gwBind (gwHelds k v wave pois t (bytes.drop n) false s1) (fun l s2 =>
        (.ok (⟨v.id, wave, (placePa p).1, (placePa p).2, va, bytes.take n, pois⟩ :: l), s2)))

/-- Does a held store lie wholly under a later one of its invocation and wave? The buffer merges the two (09 R279). -/
def Held.under (h g : Held) : Bool :=
  h.inv == g.inv && h.wave == g.wave && h.peer == g.peer && decide (g.pa ≤ h.pa ∧ h.pa + h.bytes.length ≤ g.pa + g.bytes.length)

/-- A hold buffer that takes stores: what they replace whole goes, with its poison (09 R279; 17 R394). -/
def holdAdd (hold l : List Held) : List Held := l.foldl (fun b g => b.filter (fun h => !h.under g) ++ [g]) hold

/-- A store of an element enters the hold buffer in the wave that its element had reached as it issued it; a full buffer waits for a
commit that is due, or ends the invocation with HOLDFULL. -/
def gwStore (d : Nat) (v : Inv) (wave va : Nat) (bytes : List Byte) (pois : Bool) (s : State) : Gw Unit × State :=
  match mget? s.districts d with
  | none => (.wait none, s)
  | some k =>
    gwBind (gwHelds k v wave pois (runsOf 64 (bytes.length + 1) (va % 2 ^ 56) bytes.length) bytes true s) (fun l s1 =>
      if (holdLines (holdAdd k.hold l)).length > 2048 then (if v.seg && commitDue k then .wait none else .fault 0x150, s1)
      else (.ok (), updDist s1 d (fun k => { k with hold := holdAdd k.hold l })))

/-- A list of stores, all or none: address, bytes, poison. -/
def gwStores (d : Nat) (v : Inv) (wave : Nat) : List (Nat × List Byte × Bool) → State → Gw Unit × State
  | [], s => (.ok (), s)
  | (va, bs, p) :: t, s => gwBind (gwStore d v wave va bs p s) (fun _ s1 => gwStores d v wave t s1)

end Sys2Proof.Machine
end

