-- ==== Sys2Proof/Machine/Units.lean ====
section
/-! DEFINITION. The stream units: scanners, merge units, repeaters, reducers and level writers (08 R231 to R254). -/

namespace Sys2Proof.Machine

/-! ## What every unit shares (08 R231 to R233) -/

def Elem.mode (x : Elem) : W32 := x.field 0
def Elem.mbit (x : Elem) (i : Nat) : Bool := x.mode.toNat.testBit i
def Elem.mbits (x : Elem) (hi lo : Nat) : Nat := nb x.mode.toNat hi lo

/-- The input and output ports that a unit's mode uses (08 R233). -/
def unitPorts (kd : Kind) (x : Elem) : List Nat × List Nat :=
  let opt := fun (b : Bool) (l : List Nat) => if b then l else []
  match kd with
  | .scanner => (opt (!x.mbit 15) [0], 0 :: opt (x.mbit 14) [1])
  | .merge => ([0, 1] ++ opt (x.mbit 27) [2, 3], [0] ++ opt (x.mbit 27) [1, 2] ++ opt (x.mbit 26) [3])
  | .repeater => if x.mbit 31 then ([0, 1] ++ opt (x.mbit 27) [2], 0 :: opt (x.mbit 27) [1]) else ([0, 1], [0])
  | .reducer => (0 :: opt (x.mbit 23) [1], 0 :: opt (x.mbit 23) [1])
  | .writer => (0 :: opt (x.mbit 15) [1], [])
  | _ => ([], [])

/-- Do ports and mode disagree (08 R233)? -/
def unitPortsBad (kd : Kind) (x : Elem) : Bool :=
  let (i, o) := unitPorts kd x
  ports.any (fun p => x.inBound p != i.contains p || x.outBound p != o.contains p || x.ctWord p != 0)

/-- The cause of a head that no unit takes (08 R232). -/
def markHead (x : Elem) (ins : List Nat) : Option (BitVec 10) :=
  ins.findSome? (fun p => (x.head p).bind (fun t =>
    if t.kind = 10 ∨ t.kind = 11 then some 0x1A1 else if t.kind ≥ 12 then some 0x181 else none))

/-- The head of a port as a mode table sees it: a MILESTONE never reaches one. -/
def Elem.uhead (x : Elem) (p : Nat) : Option Token := (x.head p).filter (fun t => decide (t.kind < 9))

/-- A step of a unit: the element after it, nothing yet, perhaps for a page that moves, a cause, or an end with the TD of its DONE. -/
inductive UStep where
  | go (x : Elem)
  | wait (p : Option Place)
  | fault (c : BitVec 10)
  | fin (td : Bool) (x : Elem)

/-- A scalar token of a unit. -/
def utok (kind ch : Nat) (p : Bool) (v : Nat) : Token := plainTok false kind ch p v
def stopTok (l ch : Nat) : Token := utok (l + 1) ch false 0
def doneTok (td : Bool) (ch : Nat) : Token := utok 8 ch false (if td then 1 else 0)

/-- Emits a token on several ports. -/
def emitOn (l : List Nat) (t : Token) (x : Elem) : Elem := l.foldl (fun x p => x.emit p t) x
def takeAll (l : List Nat) (x : Elem) : Elem := l.foldl (fun x p => x.take p) x
def Elem.withUnit (x : Elem) (f : StreamUnit → StreamUnit) : Elem := { x with unit := f x.unit }

/-- Runs a unit's step on the state (08 R231). -/
def runUnit (kd : Kind) (e : Nat) (s : State) (f : District → Inv → Elem → State → UStep × State) : Out :=
  .next (if elemKind e ≠ kd then s
    else match active s e with
      | none => s
      | some (d, k, v) =>
        if mileDue s k v e then s
        else
          let x := elem s e
          match markHead x (unitPorts kd x).1 with
          | some c => elemFault d v e c e s
          | none =>
            match f k v x s with
            | (.go x1, s1) => fired d (setElem s1 e x1)
            | (.wait p, s1) => meetAt (.elem e) p s1
            | (.fault c, s1) => elemFault d v e c e s1
            | (.fin td x1, s1) => fired d (setElem s1 e (x1.finish td)))

/-- A step that reads and writes no memory. -/
def pureStep (f : Elem → UStep) : District → Inv → Elem → State → UStep × State := fun _ _ x s => (f x, s)

/-! ## Levels of a tensor (08 R235, R236) -/

/-- DIMd of an entry. -/
def Ent.dim (e : Ent) (d : Nat) : Nat :=
  match d with
  | 0 => e.d0
  | 1 => e.d1
  | 2 => e.d2
  | _ => e.d3

/-- Array a (0 positions, 1 coordinates) of dimension d of level-array entry n (06 R187). -/
def levelArray (v : Inv) (asid n d a : Nat) : Nat := bits ((v.words asid n).getD (2 * d + a) 0) 55 2 * 4

/-- The check of an entry that a unit makes as it joins (08 R235, R251), as it stood at the `invoke` (06 R188). There is no entry behind
4095. -/
def levelCheck (v : Inv) (asid : Nat) (x : Elem) : Option (BitVec 10) :=
  let t := x.mbits 31 20
  let lvf := x.mbits 17 16
  let e := v.ent asid t
  if !e.isTensor then some 0x2C5
  else if e.level (x.mbits 19 18) ≠ lvf then some 0x1A2
  else if lvf ≠ 0 ∧ (t = 4095 ∨ (v.ent asid (t + 1)).kind ≠ 2) then some 0x2C5 else none

/-! ## Scanners (08 R235 to R239) -/

/-- The lines that a window of the fibre buffer holds: 64 of positions, 448 of coordinates (08 R239). -/
def winLines (crd : Bool) : Nat := if crd then 448 else 64
def winKey (crd : Bool) : Nat := if crd then 1 else 0
/-- The key of a line in a fibre buffer. -/
def fbKey (crd : Bool) (line : Nat) : Nat := 2 * line + winKey crd

/-- The lines of a window, in ascending order. -/
def StreamUnit.window (u : StreamUnit) (crd : Bool) : List Nat := (u.lines.filter (fun p => p.1 % 2 == winKey crd)).map (fun p => p.1 / 2)

/-- Is a window half consumed: has the line last read passed its lower half? -/
def StreamUnit.halfUsed (u : StreamUnit) (crd : Bool) : Bool :=
  match u.window crd, mget? u.used (winKey crd) with
  | f :: _, some l => decide (f + winLines crd / 2 ≤ l)
  | _, _ => false

/-- May the DMA fetch the next line of a window: it is not full yet, or half consumed? -/
def StreamUnit.wants (u : StreamUnit) (crd : Bool) : Bool :=
  decide ((u.window crd).length < winLines crd) || u.halfUsed crd

/-- A line enters its window: behind the last one, where a full window first gives up the half that it has passed; any other line starts
the window afresh (08 R239). -/
def addLine (crd : Bool) (line : Nat) (v : List Byte × Bool) (u : StreamUnit) : StreamUnit :=
  let w := u.window crd
  let keep := fun (p : Nat → Bool) => u.lines.filter (fun x => x.1 % 2 != winKey crd || p (x.1 / 2))
  let l1 :=
    if w.getLast? ≠ some (line - 1) ∨ line = 0 then keep (fun _ => false)
    else if w.length < winLines crd then u.lines
    else keep (fun x => decide (w.headD 0 + winLines crd / 2 ≤ x))
  { u with lines := mset l1 (fbKey crd line) v }

/-- Records that a line of a window has been read. -/
def useLine (crd : Bool) (line : Nat) (u : StreamUnit) : StreamUnit := { u with used := mset u.used (winKey crd) line }

/-- A word of a level array, through the fibre buffer. -/
def scanWord (k : District) (e : Nat) (crd : Bool) (va : Nat) (s : State) : Gw (Nat × Bool) × State :=
  let line := va / 64
  let pickWord := fun (b : List Byte × Bool) => (leNat ((b.1.drop (va % 64)).take 4), b.2)
  match mget? (elem s e).unit.lines (fbKey crd line) with
  | some b => (.ok (pickWord b), updElem s e (fun x => x.withUnit (useLine crd line)))
  | none =>
    gwBind (gwLoad k (line * 64) 64 s) (fun b s1 =>
      (.ok (pickWord b), updElem s1 e (fun x => x.withUnit (fun u => addLine crd line b (useLine crd line u)))))

/-- A word that the scanner needs: poison in it is consumed (17 R394). -/
def scanNeed (k : District) (e : Nat) (crd : Bool) (va : Nat) (s : State) : Gw Nat × State :=
  gwBind (scanWord k e crd va s) (fun w s1 => (if w.2 then .fault 0x109 else .ok w.1, s1))

/-- The level that a scanner reads. -/
structure Level where
  lvf : Nat
  n : Nat
  pos : Nat
  crd : Nat
  lo : Nat
  hi : Nat

def scanLevelOf (v : Inv) (asid : Nat) (x : Elem) : Level :=
  let t := x.mbits 31 20
  let d := x.mbits 19 18
  { lvf := x.mbits 17 16, n := (v.ent asid t).dim d, pos := levelArray v asid (t + 1) d 0,
    crd := levelArray v asid (t + 1) d 1, lo := (x.field 0xC1).toNat, hi := (x.field 0xC2).toNat }

def wordVa (base i : Nat) : Nat := (base + 4 * i) % 2 ^ 56

/-- The first 1 bit of fibre p at or after coordinate c, with the number of 1 bits from `ones` on that went before it:
words are read one after another, n at most. -/
def nextBit (k : District) (e : Nat) (L : Level) (p : Nat) : Nat → Nat → State → Gw (Option Nat) × State
  | 0, _, s => (.ok none, s)
  | n + 1, c, s =>
    if c ≥ L.n then (.ok none, s)
    else
      let b := p * L.n + c
      gwBind (scanNeed k e true (wordVa L.crd (b / 32)) s) (fun w s1 =>
        let m := min (32 - b % 32) (L.n - c)
        match (List.range m).find? (fun j => w.testBit (b % 32 + j)) with
        | some j => (.ok (some (c + j)), s1)
        | none => nextBit k e L p n (c + m) s1)

/-- The number of 1 bits of fibre p from coordinate c up to coordinate t. -/
def countBits (k : District) (e : Nat) (L : Level) (p t : Nat) : Nat → Nat → Nat → State → Gw Nat × State
  | 0, _, acc, s => (.ok acc, s)
  | n + 1, c, acc, s =>
    if c ≥ t then (.ok acc, s)
    else
      let b := p * L.n + c
      gwBind (scanNeed k e true (wordVa L.crd (b / 32)) s) (fun w s1 =>
        let m := min (32 - b % 32) (t - c)
        countBits k e L p t n (c + m) (acc + ((List.range m).filter (fun j => w.testBit (b % 32 + j))).length) s1)

/-- The positions of fibre p: pos[p] and pos[p + 1] (08 R238). -/
def fibrePos (k : District) (e : Nat) (L : Level) (p : Nat) (s : State) : Gw (Nat × Nat) × State :=
  gwBind (scanNeed k e false (wordVa L.pos p) s) (fun a s1 =>
    gwBind (scanNeed k e false (wordVa L.pos (p + 1)) s1) (fun b s2 => (if b < a then .fault 0x1A2 else .ok (a, b), s2)))

/-- The check of a bitmap fibre at its end: m is the number of 1 bits that have been passed (08 R238). -/
def bitmapEnd (k : District) (e : Nat) (L : Level) (p m : Nat) (s : State) : Gw Unit × State :=
  gwBind (fibrePos k e L p s) (fun ab s1 => (if m = ab.2 - ab.1 then .ok () else .fault 0x1A2, s1))

/-- The first position of a fibre and its end: coordinates for a dense, bitmap or range level, entries for a compressed
one; no position when the fibre is empty (08 R236). -/
def fibreOpen (k : District) (e : Nat) (L : Level) (p : Nat) (s : State) : Gw (Option Nat × Nat) × State :=
  match L.lvf with
  | 0 => (.ok (if L.n = 0 then none else some 0, L.n), s)
  | 3 => (.ok (if L.lo < L.hi then some L.lo else none, L.hi), s)
  | 1 => gwBind (fibrePos k e L p s) (fun ab s1 => (.ok (if ab.1 < ab.2 then some ab.1 else none, ab.2), s1))
  | _ => gwBind (fibrePos k e L p s) (fun _ s1 => gwBind (nextBit k e L p (L.n + 1) 0 s1) (fun c s2 => (.ok (c, L.n), s2)))

/-- The position that follows one in a fibre, if one does. -/
def fibreNext (k : District) (e : Nat) (L : Level) (p pos fin : Nat) (s : State) : Gw (Option Nat) × State :=
  if L.lvf = 2 then nextBit k e L p (L.n + 1) (pos + 1) s else (.ok (if pos + 1 < fin then some (pos + 1) else none), s)

/-- The coordinate and the child reference of a position, before which a bitmap fibre has m bits that are 1 (08 R236). -/
def fibreAt (k : District) (e : Nat) (L : Level) (p pos m : Nat) (s : State) : Gw (Nat × Nat) × State :=
  match L.lvf with
  | 0 => (.ok (pos, (p * L.n + pos) % 2 ^ 32), s)
  | 3 => (.ok (pos, (p * (L.hi - L.lo) + (pos - L.lo)) % 2 ^ 32), s)
  | 1 => gwBind (scanNeed k e true (wordVa L.crd pos) s) (fun c s1 => (if c ≥ L.n then .fault 0x1A2 else .ok (c, pos % 2 ^ 32), s1))
  | _ => gwBind (fibrePos k e L p s) (fun ab s1 => (.ok (pos, (ab.1 + m) % 2 ^ 32), s1))

/-- A unit's step goes on with what an access answers. -/
def gwStep {α : Type} (r : Gw α × State) (f : α → State → UStep × State) : UStep × State :=
  match r with
  | (.ok a, s) => f a s
  | (.fault c, s) => (.fault c, s)
  | (.wait p, s) => (.wait p, s)

/-- An element with the fibre buffer that it has in a state. -/
def withBuffer (e : Nat) (s : State) (x : Elem) : Elem :=
  x.withUnit (fun u => { u with lines := (elem s e).unit.lines, used := (elem s e).unit.used })

/-- A fibre is over: its reference is consumed, and a root scanner goes on to its closing stop. -/
def endFibre (x : Elem) : Elem :=
  let x1 := if x.mbit 15 then x else x.take 0
  x1.withUnit (fun u => { u with fib := none, prev := none, ones := 0, open_ := true })

/-- Ends a fibre with the check of a bitmap, whose 1 bits the unit has counted as it passed them. -/
def closeFibre (k : District) (e : Nat) (L : Level) (p : Nat) (x : Elem) (s : State) : UStep × State :=
  if L.lvf ≠ 2 then (.go (endFibre x), s)
  else gwStep (bitmapEnd k e L p x.unit.ones s) (fun _ s1 => (.go (endFibre (withBuffer e s1 x)), s1))

/-- Emits the coordinate at a position and moves on (08 R237, R238). -/
def scanEmit (k : District) (e : Nat) (L : Level) (p pos fin ch : Nat) (x : Elem) (s : State) : UStep × State :=
  if !x.room 0 || (x.mbit 14 && !x.room 1) then (.wait none, s)
  else gwStep (fibreAt k e L p pos x.unit.ones s) (fun cr s1 =>
    if L.lvf = 1 ∧ x.unit.prev.any (fun q => decide (cr.1 ≤ q)) then (.fault 0x1A4, s1)
    else gwStep (fibreNext k e L p pos fin s1) (fun nx s2 =>
      let x1 := x.emit 0 (utok 0 ch false cr.1)
      let x2 := (withBuffer e s2 (if x.mbit 14 then x1.emit 1 (utok 0 ch false cr.2) else x1)).withUnit (fun u => { u with ones := u.ones + 1 })
      match nx with
      | some q => (.go (x2.withUnit (fun u => { u with fib := some (p, q, fin), prev := some cr.1 })), s2)
      | none => closeFibre k e L p x2 s2))

/-- A stop on both outputs of a scanner. -/
def scanStop (l ch : Nat) (x : Elem) : Elem :=
  (emitOn (unitPorts .scanner x).2 (stopTok l ch) x).withUnit (fun u => { u with seqOut := (u.seqOut + 1) % 2 ^ 16 })

/-- The first step on fibre p: STOP0 where a fibre went before it in the same parent fibre, else its first coordinate. -/
def scanBegin (k : District) (e : Nat) (L : Level) (p ch : Nat) (x : Elem) (s : State) : UStep × State :=
  gwStep (fibreOpen k e L p s) (fun of s1 =>
    let x1 := withBuffer e s1 x
    if x.unit.open_ then
      if !(unitPorts .scanner x).2.all x.room then (.wait none, s1)
      else
        let x2 := scanStop 0 ch x1
        match of.1 with
        | some q => (.go (x2.withUnit (fun u => { u with fib := some (p, q, of.2), prev := none })), s1)
        | none => closeFibre k e L p x2 s1
    else match of.1 with
      | some q => scanEmit k e L p q of.2 ch x1 s1
      | none => closeFibre k e L p x1 s1)

/-- A step inside a fibre. Each step reads the constants that it uses (08 R231): those of a range level give its bounds, and `c0` the
reference of a root scanner's dense or range fibre. -/
def scanNextStep (k : District) (e : Nat) (L : Level) (p pos fin ch : Nat) (x : Elem) (s : State) : UStep × State :=
  let q := if x.mbit 15 ∧ (L.lvf = 0 ∨ L.lvf = 3) then (x.field 0xC0).toNat else p
  if L.lvf ≠ 3 then scanEmit k e L q pos fin ch x s
  else if max pos L.lo < L.hi then scanEmit k e L q (max pos L.lo) L.hi ch x s
  else closeFibre k e L q x s

/-- The steps of a root scanner outside its fibre: STOP0 after it, then DONE, whose TD is set by `tdown` (06 R181). -/
def rootStep (k : District) (v : Inv) (e : Nat) (L : Level) (ch : Nat) (x : Elem) (s : State) : UStep × State :=
  let outs := (unitPorts .scanner x).2
  if !x.unit.open_ then scanBegin k e L (x.field 0xC0).toNat ch x s
  else if !outs.all x.room then (.wait none, s)
  else if !x.unit.stop0 then (.go ((scanStop 0 ch x).withUnit (fun u => { u with stop0 := true })), s)
  else (.fin v.tdown (emitOn outs (doneTok v.tdown ch) x), s)

/-- One step of a scanner (08 R237). -/
def scanStep (e : Nat) (k : District) (v : Inv) (x : Elem) (s : State) : UStep × State :=
  let L := scanLevelOf v k.asid.toNat x
  let outs := (unitPorts .scanner x).2
  let root := x.mbit 15
  let ch := if root then openCh k v e 40 0 else ((x.head 0).map (fun t => t.ch)).getD 0
  match x.unit.fib with
  | some (p, pos, fin) => scanNextStep k e L p pos fin ch x s
  | none =>
    if root then rootStep k v e L ch x s
    else match x.uhead 0 with
      | none => (.wait none, s)
      | some t =>
        if t.kind = 0 then (if t.pois then (.fault 0x109, s) else scanBegin k e L t.val.toNat ch x s)
        else if t.kind = 7 then (.fault 0x1A3, s)
        else if !outs.all x.room then (.wait none, s)
        else if t.kind = 8 then (.fin t.td (emitOn outs (doneTok t.td ch) (x.take 0)), s)
        else (.go ((scanStop t.kind ch (x.take 0)).withUnit (fun u => { u with open_ := false })), s)

/-- 08 R237. -/
def execScannerStep (e : Nat) (s : State) : Out := runUnit .scanner e s (scanStep e)

/-- The DMA fetches the line after the last of a window; a line that faults is dropped. -/
def refillWindow (k : District) (e : Nat) (s : State) (crd : Bool) : State :=
  match ((elem s e).unit.window crd).getLast? with
  | none => s
  | some l =>
    if !(elem s e).unit.wants crd then s
    else match gwLoad k ((l + 1) * 64 % 2 ^ 56) 64 s with
      | (.ok b, s1) => updElem s1 e (fun x => x.withUnit (addLine crd (l + 1) b))
      | (.wait p, _) => meetAt (.elem e) p s
      | (.fault _, _) => s

/-- 08 R239: the DMA of a scanner's fibre buffer fills each window in ascending order, and refills the half that it has passed. -/
def execFibreBufferRefill (e : Nat) (s : State) : Out :=
  .next (if elemKind e ≠ .scanner then s
    else match active s e with
      | none => s
      | some (_, k, _) => [false, true].foldl (refillWindow k e) s)

/-! ## Skip requests (08 R240, R241) -/

/-- The element and output link at the source of the route that drives a destination, walked backwards; `none` where a
merge, a branch, a bollard or no route is found. -/
def routeSource (s : State) : Nat → Nat → Nat → Option (Nat × Nat)
  | 0, _, _ => none
  | n + 1, b, d =>
    match (switch s b).sources d with
    | [i] =>
      if ((switch s b).dests i).length ≠ 1 then none
      else if idClass i = 3 then some (idElem b i, idLink i)
      else match across b i with
        | some (nb, e, _) => if zoneOf s b = zoneOf s nb then routeSource s n nb (trackId (idClass i) e (idTrack i)) else none
        | none => none
    | _ => none

/-- Is an input port bound to a push handle of its district's thread? -/
def pushBound (s : State) (e p : Nat) : Bool :=
  match distOf s e with
  | some (_, k) => handleAt s k e p false
  | none => false

/-- The source of an input port that may take skip requests: a scanner or a repeater in FIBRE mode. -/
def skipSource (s : State) (e p : Nat) : Option Nat :=
  match routeSource s 512 (elemBlock e) (elemLink e p) with
  | some (f, _) => if pushBound s e p then none
    else if elemKind f = .scanner ∨ (elemKind f = .repeater ∧ (elem s f).mbit 31) then some f else none
  | none => none

/-- Sends a skip request on an input, for the invocation of the source whose token stands at its head (08 R242). -/
def sendSkip (e p v n : Nat) (s : State) : State :=
  match skipSource s e p with
  | some f => updElem s f (fun x => x.withUnit (fun u => { u with skips := u.skips ++ [(v, n, (((elem s e).head p).map (fun t => t.home)).getD 0)] }))
  | none => s

/-- The first entry of a compressed fibre whose coordinate is not below v: n entries are looked at. -/
def skipEntry (k : District) (e : Nat) (L : Level) (v fin : Nat) : Nat → Nat → State → Gw (Option Nat) × State
  | 0, _, s => (.ok none, s)
  | n + 1, i, s =>
    if i ≥ fin then (.ok none, s)
    else gwBind (scanNeed k e true (wordVa L.crd i) s) (fun c s1 => if c ≥ v then (.ok (some i), s1) else skipEntry k e L v fin n (i + 1) s1)

/-- The position at which a scanner's fibre resumes at coordinate v, with the 1 bits of a bitmap that it passes. A range level has the end
that its constants give now, as for a step (08 R231, R242). -/
def skipTo (k : District) (e : Nat) (L : Level) (p pos fin v : Nat) (s : State) : Gw (Option Nat × Nat) × State :=
  match L.lvf with
  | 1 => gwBind (skipEntry k e L v fin (fin + 1 - pos) pos s) (fun q s1 => (.ok (q, 0), s1))
  | 2 =>
    if v ≤ pos then (.ok (some pos, 0), s)
    else gwBind (countBits k e L p (min v L.n) (L.n + 1) pos 0 s) (fun m s1 =>
      gwBind (nextBit k e L p (L.n + 1) v s1) (fun q s2 => (.ok (q, m), s2)))
  | 3 => let q := max (max pos v) L.lo; (.ok (if q < L.hi then some q else none, 0), s)
  | _ => let q := max pos v; (.ok (if q < fin then some q else none, 0), s)

/-- A scanner acts on a skip request; a line that it cannot read leaves the request without effect. -/
def scanSkip (d : Nat) (k : District) (v : Inv) (e t : Nat) (s : State) : State :=
  let x := elem s e
  match x.unit.fib with
  | none => s
  | some (p, pos, fin) =>
    let L := scanLevelOf v k.asid.toNat x
    match skipTo k e L p pos fin t s with
    | (.ok (some q, m), s1) => updElem s1 e (fun x => x.withUnit (fun u => { u with fib := some (p, q, fin), ones := u.ones + m }))
    | (.ok (none, m), s1) =>
      match closeFibre k e L p ((elem s1 e).withUnit (fun u => { u with ones := u.ones + m })) s1 with
      | (.go x1, s2) => setElem s2 e x1
      | (.fault c, s2) => elemFault d v e c e s2
      | _ => s
    | (_, _) => s

/-- A FIBRE repeater moves within its buffer. -/
def repeatSkip (t : Nat) (x : Elem) : Elem :=
  match x.unit.fib with
  | none => x
  | some (p, pos, fin) =>
    match ((List.range (fin - pos)).map (pos + ·)).find? (fun i => decide (t ≤ ((x.unit.buf.map Prod.fst).getD i .zero).v.toNat)) with
    | some q => x.withUnit (fun u => { u with fib := some (p, q, fin) })
    | none => (x.take 1).withUnit (fun u => { u with fib := none, open_ := true })

/-- 08 R241: a source acts on the first skip request that has arrived. -/
def execSkipRequest (e : Nat) (s : State) : Out :=
  .next (match active s e, (elem s e).unit.skips with
    | some (d, k, v), (t, n, i) :: rest =>
      let s1 := updElem s e (fun x => x.withUnit (fun u => { u with skips := rest }))
      if n ≠ (elem s e).unit.seqOut ∨ i ≠ v.id then s1
      else if elemKind e = .scanner then scanSkip d k v e t s1
      else if elemKind e = .repeater then updElem s1 e (repeatSkip t)
      else s1
    | _, _ => s)

/-! ## Merge units (08 R243 to R245) -/

/-- Have the coordinate inputs that a step consumes their payload heads (08 R243): not yet, or a cause if one does not match? -/
def payHeads (x : Elem) (ps : List Nat) : Option (Option (BitVec 10)) :=
  if !x.mbit 27 then some none
  else if ps.any (fun p => (x.uhead (p + 2)).isNone) then none
  else some (if ps.all (fun p => (x.uhead (p + 2)).map (fun u => u.kind) == (x.uhead p).map (fun t => t.kind)) then none else some 0x1A3)

/-- A step that consumes coordinate inputs, once their payloads stand beside them. -/
def withPay (x : Elem) (ps : List Nat) (r : UStep) : UStep :=
  match payHeads x ps with
  | none => .wait none
  | some (some c) => .fault c
  | some none => r

/-- The payload that travels with a coordinate input. -/
def payOf (x : Elem) (p : Nat) : Option Token := if x.mbit 27 then x.uhead (p + 2) else none

/-- Consumes a coordinate input with its payload. -/
def mergeTake (p : Nat) (x : Elem) : Elem := takeAll (p :: if x.mbit 27 then [p + 2] else []) x

/-- The last coordinate taken from an input in its fibre. -/
def lastOf (x : Elem) (p : Nat) : Option Nat := if p = 0 then x.unit.last0 else x.unit.last1
def setLast (p : Nat) (c : Option Nat) (x : Elem) : Elem :=
  x.withUnit (fun u => if p = 0 then { u with last0 := c } else { u with last1 := c })

/-- Is a coordinate out of order in its fibre (08 R254)? -/
def outOfOrder (x : Elem) (p : Nat) (t : Token) : Bool := (lastOf x p).any (fun q => decide (t.val.toNat ≤ q))

/-- Consumes the coordinate at an input. -/
def mergeTakeCoord (p : Nat) (t : Token) (x : Elem) : Elem := setLast p (some t.val.toNat) (mergeTake p x)

/-- A structural step of a merge unit: both inputs give the same stop or DONE. -/
def mergeStruct (a b : Token) (x : Elem) : UStep :=
  let outs := (unitPorts .merge x).2
  if a.kind ≠ b.kind then .fault 0x1A3
  else withPay x [0, 1] (
    if !outs.all x.room then .wait none
    else
      let x1 := mergeTake 1 (mergeTake 0 x)
      if a.kind = 8 then .fin a.td (emitOn outs (doneTok a.td a.ch) x1)
      else .go ((emitOn outs (utok a.kind a.ch false 0) x1).withUnit (fun u => { u with
        last0 := none, last1 := none, seq0 := (u.seq0 + 1) % 2 ^ 16, seq1 := (u.seq1 + 1) % 2 ^ 16 })))

/-- A payload token for an output. -/
def payTok (ch : Nat) (t : Option Token) (fill : W32) : Token :=
  match t with
  | some t => utok 0 ch t.pois t.val.toNat
  | none => utok 0 ch false fill.toNat

/-- Consumes a coordinate that the other input cannot match (08 R244): in order, or SUORDER. -/
def mergeDrop (p : Nat) (t : Token) (x : Elem) : UStep :=
  withPay x [p] (if outOfOrder x p t then .fault 0x1A4 else .go (mergeTakeCoord p t x))

/-- Is a head a poisoned coordinate? Its use comes ahead of every rule of the mode (08 R232). -/
def poisonCoord (t : Token) : Bool := t.kind == 0 && t.pois

/-- Both inputs hold one coordinate: it is emitted with its payloads (08 R244). -/
def interMatch (a b : Token) (x : Elem) : UStep :=
  withPay x [0, 1] (
    if outOfOrder x 0 a || outOfOrder x 1 b then .fault 0x1A4
    else if !(unitPorts .merge x).2.all x.room then .wait none
    else
      let x1 := (mergeTakeCoord 1 b (mergeTakeCoord 0 a x)).emit 0 (utok 0 a.ch false a.val.toNat)
      .go (if x.mbit 27 then (x1.emit 1 (payTok a.ch (payOf x 0) 0)).emit 2 (payTok a.ch (payOf x 1) 0) else x1))

/-- One step of an intersection, with the skip request that it sends: input and target. -/
def interStep (x : Elem) : UStep × Option (Nat × Nat) :=
  match x.uhead 0, x.uhead 1 with
  | some a, some b =>
    let skip := fun p v => if x.mbit (29 - p) then some (p, v) else none
    if poisonCoord a || poisonCoord b then (.fault 0x109, none)
    else if a.kind = 0 ∧ b.kind = 0 then
      if a.val = b.val then (interMatch a b x, none)
      else if a.val.toNat < b.val.toNat then (mergeDrop 0 a x, skip 0 b.val.toNat)
      else (mergeDrop 1 b x, skip 1 a.val.toNat)
    else if a.kind = 0 then (mergeDrop 0 a x, skip 0 (2 ^ 32))
    else if b.kind = 0 then (mergeDrop 1 b x, skip 1 (2 ^ 32))
    else (mergeStruct a b x, none)
  | _, _ => (.wait none, none)

/-- 08 R244. -/
def execMergeIntersectStep (e : Nat) (s : State) : Out :=
  if (elem s e).mbits 31 30 ≠ 0 then .next s
  else runUnit .merge e s (fun _ _ x s =>
    match interStep x with
    | (.go x1, some (p, v)) => (.go x1, sendSkip e p v (if p = 0 then x.unit.seq0 else x.unit.seq1) s)
    | (r, _) => (r, s))

/-- Emits a union's coordinate, payloads and mask (08 R245). -/
def unionEmit (x0 : Elem) (ch c mask : Nat) (pa pb : Option Token) (x : Elem) : Elem :=
  let fill := x0.field 0xC0
  let x1 := x.emit 0 (utok 0 ch false c)
  let x2 := if x0.mbit 27 then (x1.emit 1 (payTok ch pa fill)).emit 2 (payTok ch pb fill) else x1
  if x0.mbit 26 then x2.emit 3 (utok 0 ch false mask) else x2

/-- A union consumes the coordinates that it uses, and emits the lower (08 R245). -/
def unionTake (a b : Token) (useA useB : Bool) (x : Elem) : UStep :=
  withPay x ((if useA then [0] else []) ++ if useB then [1] else []) (
    if (useA && outOfOrder x 0 a) || (useB && outOfOrder x 1 b) then .fault 0x1A4
    else if !(unitPorts .merge x).2.all x.room then .wait none
    else
      let x1 := if useA then mergeTakeCoord 0 a x else x
      let x2 := if useB then mergeTakeCoord 1 b x1 else x1
      let t := if useA then a else b
      .go (unionEmit x t.ch t.val.toNat ((if useA then 1 else 0) + if useB then 2 else 0) (if useA then payOf x 0 else none)
        (if useB then payOf x 1 else none) x2))

/-- One step of a union. -/
def unionStep (x : Elem) : UStep :=
  match x.uhead 0, x.uhead 1 with
  | some a, some b =>
    let da := a.kind == 0
    let db := b.kind == 0
    if poisonCoord a || poisonCoord b then .fault 0x109
    else if !da && !db then mergeStruct a b x
    else unionTake a b (da && (!db || decide (a.val.toNat ≤ b.val.toNat))) (db && (!da || decide (b.val.toNat ≤ a.val.toNat))) x
  | _, _ => .wait none

/-- 08 R245. -/
def execMergeUnionStep (e : Nat) (s : State) : Out :=
  if (elem s e).mbits 31 30 ≠ 1 then .next s else runUnit .merge e s (pureStep unionStep)

/-! ## Repeaters (08 R246 to R248) -/

/-- One step in REF mode (08 R247). -/
def refStep (x : Elem) : UStep :=
  let adv := x.mbits 30 28
  match x.uhead 0, x.uhead 1 with
  | some r, dr =>
    if 1 ≤ r.kind ∧ r.kind ≤ 7 then .go (x.take 0)
    else match dr with
      | none => .wait none
      | some t =>
        let big := decide (1 ≤ t.kind ∧ t.kind ≤ 7) && decide (adv ≤ t.kind - 1)
        if 1 ≤ t.kind ∧ t.kind ≤ 7 ∧ big = false then
          (if x.room 0 then .go ((x.take 1).emit 0 (stopTok (t.kind - 1) t.ch)) else .wait none)
        else if r.kind = 8 ∧ t.kind ≠ 8 then .fault 0x1A3
        else if r.kind = 0 ∧ t.kind = 8 then .fault 0x1A3
        else if !x.room 0 then .wait none
        else if t.kind = 8 then .fin t.td ((takeAll [0, 1] x).emit 0 (doneTok t.td r.ch))
        else if t.kind = 0 then .go ((x.take 1).emit 0 (utok 0 r.ch r.pois r.val.toNat))
        else .go ((takeAll [0, 1] x).emit 0 (stopTok (t.kind - 1) r.ch))
  | none, some t =>
    if 1 ≤ t.kind ∧ t.kind ≤ 7 ∧ t.kind - 1 < adv ∧ x.room 0 = true then .go ((x.take 1).emit 0 (stopTok (t.kind - 1) t.ch)) else .wait none
  | none, none => .wait none

/-- 08 R247. -/
def execRepeaterRefStep (e : Nat) (s : State) : Out :=
  if (elem s e).mbit 31 then .next s else runUnit .repeater e s (pureStep refStep)

/-- One step of the load in FIBRE mode (08 R248). -/
def fibreLoad (x : Elem) : UStep :=
  if x.unit.loaded then .wait none
  else match x.uhead 0 with
    | none => .wait none
    | some t =>
      let pay := x.mbit 27
      if poisonCoord t then .fault 0x109
      else match (if pay then x.uhead 2 else some t) with
      | none => .wait none
      | some u =>
        let takeIt := takeAll (if pay then [0, 2] else [0]) x
        if u.kind ≠ t.kind then .fault 0x1A3
        else if t.kind = 0 then
          if x.unit.stop0 then .fault 0x1A3
          else if x.unit.buf.length ≥ 4096 then .fault 0x1A5
          else if x.unit.prev.any (fun q => decide (t.val.toNat ≤ q)) then .fault 0x1A4
          else .go (takeIt.withUnit (fun v => { v with
            buf := v.buf ++ [(⟨t.val, false⟩, if pay then ⟨u.val, u.pois⟩ else .zero)], prev := some t.val.toNat }))
        else if t.kind = 8 then
          (if x.unit.stop0 then .go (takeIt.withUnit (fun v => { v with loaded := true, prev := none })) else .fault 0x1A3)
        else if t.kind = 1 ∧ x.unit.stop0 = false then .go (takeIt.withUnit (fun v => { v with stop0 := true }))
        else .fault 0x1A3

/-- 08 R248. -/
def execRepeaterFibreLoad (e : Nat) (s : State) : Out :=
  if (elem s e).mbit 31 then runUnit .repeater e s (pureStep fibreLoad) else .next s

/-- Emits the loaded entry at a position. -/
def replayEmit (pos fin ch : Nat) (x : Elem) : UStep :=
  if !(unitPorts .repeater x).2.all x.room then .wait none
  else
    let (c, p) := x.unit.buf.getD pos (.zero, .zero)
    let x1 := x.emit 0 (utok 0 ch c.p c.v.toNat)
    let x2 := if x.mbit 27 then x1.emit 1 (utok 0 ch p.p p.v.toNat) else x1
    if pos + 1 < fin then .go (x2.withUnit (fun u => { u with fib := some (0, pos + 1, fin) }))
    else .go ((x2.take 1).withUnit (fun u => { u with fib := none, open_ := true }))

/-- A stop on the outputs of a repeater, counted for skip requests. -/
def replayStop (l ch : Nat) (x : Elem) : Elem :=
  (emitOn (unitPorts .repeater x).2 (stopTok l ch) x).withUnit (fun u => { u with seqOut := (u.seqOut + 1) % 2 ^ 16 })

/-- One step of the replay in FIBRE mode (08 R248). -/
def fibreReplay (x : Elem) : UStep :=
  if !x.unit.loaded then .wait none
  else match x.uhead 1 with
    | none => .wait none
    | some t =>
      let outs := (unitPorts .repeater x).2
      let len := x.unit.buf.length
      match x.unit.fib with
      | some (_, pos, fin) => replayEmit pos fin t.ch x
      | none =>
        if t.kind = 0 then
          if x.unit.open_ then
            (if !outs.all x.room then .wait none
             else if len = 0 then .go ((replayStop 0 t.ch x).take 1)
             else .go ((replayStop 0 t.ch x).withUnit (fun u => { u with fib := some (0, 0, len) })))
          else if len = 0 then .go ((x.take 1).withUnit (fun u => { u with open_ := true }))
          else replayEmit 0 len t.ch x
        else if t.kind = 7 then .fault 0x1A3
        else if !outs.all x.room then .wait none
        else if t.kind = 8 then .fin t.td (emitOn outs (doneTok t.td t.ch) (x.take 1))
        else .go ((replayStop t.kind t.ch (x.take 1)).withUnit (fun u => { u with open_ := false }))

/-- 08 R248. -/
def execRepeaterFibreReplay (e : Nat) (s : State) : Out :=
  if (elem s e).mbit 31 then runUnit .repeater e s (pureStep fibreReplay) else .next s

/-! ## Reducers (08 R249, R250) -/

/-- The fold of a reducer: the first value stands as it is. -/
def foldVal (op ty : Nat) (a b : W32) : W32 :=
  match op, ty with
  | 0, 0 => fadd a b 0
  | 0, _ => a + b
  | 1, 0 => fmax a b
  | 1, 1 => laneOp 0x1F 0 a b 0 0
  | 1, _ => laneOp 0x21 0 a b 0 0
  | _, 0 => fmin a b
  | _, 1 => laneOp 0x1E 0 a b 0 0
  | _, _ => laneOp 0x20 0 a b 0 0

def foldIn (op ty : Nat) (acc : Option LaneVal) (v : LaneVal) : LaneVal :=
  match acc with
  | none => v
  | some a => ⟨foldVal op ty a.v v.v, a.p || v.p⟩

/-- The stop that a fibre end leaves for a further step. -/
def reducePend (l : Nat) (t : Token) (x : Elem) : Elem :=
  x.withUnit (fun u => { u with acc := none, folded := false, pendStop := if t.kind - 1 > l then some (t.kind - 1 - l - 1) else none, ch := t.ch })

/-- The end of a reduced fibre: its value, an explicit zero, or nothing (08 R250). -/
def reduceEnd (l : Nat) (t : Token) (x : Elem) : UStep :=
  let coord := x.mbit 23
  let val := match x.unit.acc with
    | some a => some a
    | none => if x.mbit 24 then some .zero else none
  match (if coord then x.uhead 1 else some t) with
  | none => .wait none
  | some c =>
    if coord ∧ c.kind ≠ 0 then .fault 0x1A3
    else
      let x1 := takeAll (if coord then [0, 1] else [0]) x
      match val with
      | none => .go (reducePend l t x1)
      | some a =>
        if !(unitPorts .reducer x).2.all x.room then .wait none
        else
          let x2 := x1.emit 0 (utok 0 t.ch a.p a.v.toNat)
          .go (reducePend l t (if coord then x2.emit 1 (utok 0 t.ch c.pois c.val.toNat) else x2))

/-- The further step that emits a stop, which consumes an equal one of in1. -/
def reduceStop (l : Nat) (x : Elem) : UStep :=
  let coord := x.mbit 23
  let go := fun (x : Elem) =>
    if !(unitPorts .reducer x).2.all x.room then UStep.wait none
    else .go ((emitOn (unitPorts .reducer x).2 (stopTok l x.unit.ch) (if coord then x.take 1 else x)).withUnit (fun u => { u with pendStop := none }))
  if !coord then go x
  else match x.uhead 1 with
    | none => .wait none
    | some c => if c.kind = l + 1 then go x else .fault 0x1A3

/-- One step of a reducer (08 R250). -/
def reduceStep (x : Elem) : UStep :=
  let l := x.mbits 31 29
  let coord := x.mbit 23
  match x.unit.pendStop with
  | some m => reduceStop m x
  | none =>
    match x.uhead 0 with
    | none => .wait none
    | some t =>
      if t.kind = 0 then
        .go ((x.take 0).withUnit (fun u => { u with
          acc := some (foldIn (x.mbits 28 27) (x.mbits 26 25) u.acc ⟨t.val, t.pois⟩), folded := true }))
      else if t.kind = 8 then
        if x.unit.folded then .fault 0x1A3
        else match (if coord then x.uhead 1 else some t) with
          | none => .wait none
          | some c =>
            if c.kind ≠ 8 then .fault 0x1A3
            else if !(unitPorts .reducer x).2.all x.room then .wait none
            else .fin t.td (emitOn (unitPorts .reducer x).2 (doneTok t.td t.ch) (takeAll (if coord then [0, 1] else [0]) x))
      else if t.kind - 1 < l then .go ((x.take 0).withUnit (fun u => { u with folded := true }))
      else reduceEnd l t x

/-- 08 R250. -/
def execReducerStep (e : Nat) (s : State) : Out := runUnit .reducer e s (pureStep reduceStep)

/-! ## Level writers (08 R251, R252) -/

/-- What a level writer writes to. -/
structure LwCfg where
  L : Level
  vals : Bool
  base : Nat
  width : Nat
  cap : Nat
  fill : W32

def lwCfg (v : Inv) (asid : Nat) (x : Elem) : LwCfg :=
  let e := v.ent asid (x.mbits 31 20)
  { L := scanLevelOf v asid x, vals := x.mbit 15, base := e.base, width := fmtBits e.fmt / 8, cap := (x.field 1).toNat, fill := x.field 0xC0 }

/-- The store of a 32-bit word of a level array. -/
def lwWord (base i v : Nat) : Nat × List Byte × Bool := (wordVa base i, toBytes 4 (v % 2 ^ 32), false)

/-- The store of a value at a value index. -/
def lwVal (g : LwCfg) (i : Nat) (v : W32) (p : Bool) : Nat × List Byte × Bool := ((g.base + i * g.width) % 2 ^ 56, toBytes g.width v.toNat, p)

/-- `c0` at the coordinates from a to b of fibre p, in a dense level. -/
def lwFill (g : LwCfg) (p a b : Nat) : List (Nat × List Byte × Bool) :=
  if g.vals then (List.range (b - a)).map (fun j => lwVal g (p * g.L.n + a + j) g.fill false) else []

/-- The bitmap words below word t that are complete: the bits set, from word `u.pos` on. -/
def lwBits (g : LwCfg) (u : StreamUnit) (t : Nat) : List (Nat × List Byte × Bool) :=
  (List.range (t - u.pos)).map (fun j =>
    lwWord g.L.crd (u.pos + j) (u.bits.foldl (fun m b => if b / 32 = u.pos + j then m + 2 ^ (b % 32) else m) 0))

/-- The unit after its bitmap words below word t are written. -/
def lwBitsDone (t : Nat) (u : StreamUnit) : StreamUnit := { u with pos := max u.pos t, bits := u.bits.filter (fun b => decide (t ≤ b / 32)) }

/-- A DATA token of a level writer: its checks, then its writes (08 R252). -/
def lwData (g : LwCfg) (t : Token) (val : Option Token) (x : Elem) : Except (BitVec 10) (List (Nat × List Byte × Bool) × Elem) :=
  let u := x.unit
  let c := t.val.toNat
  let w := fun i => match val with
    | some v => if g.vals then [lwVal g i v.val v.pois] else []
    | none => []
  if c ≥ g.L.n then .error 0x1A2
  else if u.prev.any (fun q => decide (c ≤ q)) then .error 0x1A4
  else if g.L.lvf ≠ 0 ∧ g.cap ≠ 0 ∧ u.n + 1 > g.cap then .error 0x1A5
  else
    let next := { u with prev := some c, folded := true }
    match g.L.lvf with
    | 0 => .ok (lwFill g u.p ((u.prev.map (· + 1)).getD 0) c ++ w (u.p * g.L.n + c), { x with unit := next })
    | 1 => .ok (lwWord g.L.crd u.n c :: w u.n, { x with unit := { next with n := u.n + 1 } })
    | _ =>
      let b := u.p * g.L.n + c
      .ok (lwBits g u (b / 32) ++ w u.n, { x with unit := lwBitsDone (b / 32) { next with n := u.n + 1, bits := u.bits ++ [b] } })

/-- A stop closes the fibre (08 R252). -/
def lwStop (g : LwCfg) (x : Elem) : List (Nat × List Byte × Bool) × Elem :=
  let u := x.unit
  let next := { u with prev := none, folded := false, p := u.p + 1 }
  match g.L.lvf with
  | 0 => (lwFill g u.p ((u.prev.map (· + 1)).getD 0) g.L.n, { x with unit := next })
  | 1 => ([lwWord g.L.pos (u.p + 1) u.n], { x with unit := next })
  | _ =>
    let t := (u.p + 1) * g.L.n / 32
    (lwBits g u t ++ [lwWord g.L.pos (u.p + 1) u.n], { x with unit := lwBitsDone t next })

/-- The last bitmap word (08 R252). -/
def lwDone (g : LwCfg) (x : Elem) : List (Nat × List Byte × Bool) :=
  let u := x.unit
  if g.L.lvf = 2 then lwBits g u (cdiv (u.p * g.L.n) 32) else []

/-- Performs the writes of a step, all or none. -/
def lwPut (d : Nat) (v : Inv) (ws : List (Nat × List Byte × Bool)) (r : UStep) (x : Elem) (s : State) : UStep × State :=
  match gwStores d v x.mile ws s with
  | (.ok _, s1) => (r, s1)
  | (.fault c, s1) => (.fault c, s1)
  | (.wait p, _) => (.wait p, s)

/-- One step of a level writer (08 R252). -/
def lwStep (d : Nat) (k : District) (v : Inv) (x : Elem) (s : State) : UStep × State :=
  let g := lwCfg v k.asid.toNat x
  if !x.unit.loaded then
    lwPut d v (if g.L.lvf = 0 then [] else [lwWord g.L.pos 0 0]) (.go (x.withUnit (fun u => { u with loaded := true }))) x s
  else match x.uhead 0 with
    | none => (.wait none, s)
    | some t =>
      if poisonCoord t then (.fault 0x109, s)
      else match (if g.vals then x.uhead 1 else some t) with
      | none => (.wait none, s)
      | some u =>
        let x1 := takeAll (if g.vals then [0, 1] else [0]) x
        if u.kind ≠ t.kind then (.fault 0x1A3, s)
        else if t.kind = 0 then
          match lwData g t (if g.vals then some u else none) x1 with
          | .error c => (.fault c, s)
          | .ok (ws, x2) => lwPut d v ws (.go (x2.tally entriesKey)) x s
        else if t.kind = 8 then
          (if x.unit.folded then (.fault 0x1A3, s) else lwPut d v (lwDone g x) (.fin t.td x1) x s)
        else let (ws, x2) := lwStop g x1; lwPut d v ws (.go (x2.tally closedKey)) x s

/-- 08 R252. -/
def execLevelWriterStep (e : Nat) (s : State) : Out :=
  runUnit .writer e s (fun k v x s => match distOf s e with
    | some (d, _) => lwStep d k v x s
    | none => (.wait none, s))

/-! ## Start checks (08 R233, R235, R240, R251) -/

/-- The check of a stream unit as it joins an invocation. -/
def unitCheck (s : State) (k : District) (v : Inv) (e : Nat) : Option (BitVec 10) :=
  let x := elem s e
  let kd := elemKind e
  let asid := k.asid.toNat
  if unitPortsBad kd x then some 0x1A0
  else match kd with
    | .scanner => if x.mbits 17 16 = 3 then none else levelCheck v asid x
    | .writer =>
      match levelCheck v asid x with
      | some c => some c
      | none =>
        let f := (v.ent asid (x.mbits 31 20)).fmt
        let w := fmtBits f
        if x.mbit 15 && !(w == 16 || w == 32) || (x.mbit 15 && fmtIsNb f) then some 0x2C2 else none
    | .merge =>
      if (x.mbit 29 && (skipSource s e 0).isNone) || (x.mbit 28 && (skipSource s e 1).isNone) then some 0x1A0 else none
    | _ => none

end Sys2Proof.Machine
end

