-- ==== Sys2Proof/Machine/MatrixCell.lean ====
section
/-! DEFINITION. The matrix cell in stream mode: its check, the bursts of a row, the firing and emission of a row, and DONE
(09 R273 to R275; 11 R306; 06 R197). -/

namespace Sys2Proof.Machine

/-! ## The cell's fields (06 R197) -/

def Elem.mSrc (x : Elem) : Nat := x.mbits 1 0
def Elem.mAfmt (x : Elem) : Nat := x.mbits 6 2
def Elem.mPlanes (x : Elem) : Nat := x.mbits 10 7
def Elem.mRow0 (x : Elem) : Nat := x.mbits 16 11
def Elem.mRows (x : Elem) : Nat := x.mbits 22 17 + 1
def Elem.mEmit (x : Elem) : Bool := x.mbit 23
def Elem.mNan (x : Elem) : Nat := x.mbits 25 24
def Elem.mOfmt (x : Elem) : Nat := nb (x.field 1).toNat 4 0
def Elem.mRmode (x : Elem) : Nat := nb (x.field 1).toNat 6 5
def Elem.mSgrp (x : Elem) : Nat := nb (x.field 1).toNat 9 7

/-- The check of a matrix cell with SRC = 1 as it joins (09 R273). -/
def matCheck (x : Elem) : Option (BitVec 10) :=
  let w := x.inWord 0
  let o := x.outWord 0
  let inOk := x.inBound 0 && linkVec w && linkImage w && linkBurst w
  let outOk := if x.mEmit then x.outBound 0 && linkVec o && !linkImage o else !x.outBound 0
  let others := [1, 2, 3].any (fun p => x.inBound p || x.outBound p) || ports.any (fun p => x.ctWord p % 4 != 0)
  if !inOk || !outOk || others || (matKind false x.mAfmt x.mPlanes).isNone || (fmtIsNb x.mAfmt && x.mSgrp != 0) then some 0x281
  else if x.mat.kk = 0 ∨ x.mRow0 + x.mRows > 64 then some 0x282 else none

/-! ## Bursts of a row (09 R274) -/

/-- The elements that one burst covers: all K, or a group. -/
def rowGroup (x : Elem) : Nat := if x.mSgrp = 0 then x.mat.kk else 8 * 2 ^ x.mSgrp
/-- The bursts of a row. -/
def rowBursts (x : Elem) : Nat := cdiv x.mat.kk (rowGroup x)
/-- The elements of burst j. -/
def burstLen (x : Elem) (j : Nat) : Nat := min (rowGroup x) (x.mat.kk - j * rowGroup x)
/-- The DATA tokens of burst j. -/
def burstTokens (x : Elem) (j : Nat) : Nat := cdiv (rowBytes x.mAfmt (burstLen x j)) 64

/-- The DATA tokens taken since the last HEAD in the row buffer. -/
def tokensSince (l : List Token) : Nat := (l.reverse.takeWhile (fun t => t.kind == 0)).length

def Elem.withMat (x : Elem) (f : Mat → Mat) : Elem := { x with mat := f x.mat }

/-- The active matrix cell in stream mode. -/
def matActive (s : State) (e : Nat) : Option (Nat × District × Inv) :=
  if elemKind e ≠ .matrix ∨ (elem s e).mSrc ≠ 1 then none else active s e

/-- Is a whole row in the buffer? -/
def rowFull (x : Elem) : Bool := decide (rowBursts x ≤ x.mat.bursts)

/-- 09 R274: a token of an A burst goes into the row buffer; a STOP starts the rotation of rows afresh and is emitted
with EMIT = 1. -/
def execMatrixBurstTake (e : Nat) (s : State) : Out :=
  .next (match matActive s e with
    | none => s
    | some (d, _, v) =>
      let x := elem s e
      if rowFull x then s
      else match x.head 0 with
        | none => s
        | some t =>
          let fault := fun c => elemFault d v e c e s
          let put := fun (x : Elem) => fired d (setElem s e x)
          let add := fun (f : Mat → Mat) => put ((x.take 0).withMat (fun m => f { m with buf := m.buf ++ [t] }))
          if t.kind ≥ 12 then fault 0x181
          else if t.kind = 0 then (if x.mat.inBurst then add id else fault 0x183)
          else if t.kind = 10 then (if x.mat.inBurst then fault 0x183 else add (fun m => { m with inBurst := true }))
          else if t.kind = 11 then
            let n := tokensSince x.mat.buf
            if !x.mat.inBurst then fault 0x183
            else if t.val.toNat = n ∧ n = burstTokens x x.mat.bursts then
              add (fun m => { m with inBurst := false, bursts := m.bursts + 1 })
            else fault 0x182
          else if x.mat.inBurst then fault 0x183
          else if t.kind = 9 then s
          else if x.mat.bursts ≠ 0 then fault 0x183
          else if t.kind = 8 then s
          else if x.mEmit && (!x.room 0 || !x.mat.out.isEmpty) then s
          else
            let x1 := (x.take 0).withMat (fun m => { m with row := 0 })
            put (if x.mEmit then x1.emit 0 (plainTok true t.kind t.ch false 0) else x1))

/-! ## The firing on a row (09 R274, R275) -/

/-- The bytes of a DATA token on an IMAGE link with the poison of their lanes. -/
def imageBytes (pois : Bool) (t : Token) : List PByte :=
  (List.range 64).map (fun j => (BitVec.ofNat 8 (t.pay.toNat / 2 ^ (8 * j)), pois || t.p.toNat.testBit (j / 4)))

/-- The bursts in a row buffer: the HEAD of each with its DATA tokens. -/
def splitBursts (l : List Token) : List (Token × List Token) :=
  l.foldl (fun acc t =>
    if t.kind = 10 then acc ++ [(t, [])]
    else if t.kind = 0 then (match acc.reverse with
      | (h, ds) :: rest => rest.reverse ++ [(h, ds ++ [t])]
      | [] => acc)
    else acc) []

/-- The row that the buffer holds. -/
def bufferRow (nanz : Bool) (x : Elem) (k : MKind) : RowA :=
  let bs := (List.range (rowBursts x)).zip (splitBursts x.mat.buf)
  let cs := bs.flatMap (fun b => codes x.mAfmt (burstLen x b.1) (b.2.2.flatMap (imageBytes b.2.1.pois)))
  makeRow nanz x.mAfmt k cs (bs.map (fun b => (b.2.1.val.toNat % 2 ^ 16, b.2.1.pois))) (rowGroup x)

/-- Is the mode of an invocation NaN-as-zero at this cell (09 R275)? -/
def streamNanz (v : Inv) (x : Elem) : Bool := (if v.nan ≠ 0 then v.nan else x.mNan) == 3

/-- The burst that an accumulator row is emitted as (09 R274; 01 R424). -/
def emitRow (x : Elem) (row ch : Nat) : List Token :=
  let f := if x.mOfmt = 1 then fp16 else if x.mOfmt = 2 then bf16 else fp32
  let word := fun n => roundV f (f32 (matAcc x.mat row n).v) x.mRmode
  let data := fun j => ({
    vec := true, kind := 0, ch := ch, p := BitVec.ofNat 16 (laneMask (fun l => (matAcc x.mat row (16 * j + l)).p)), lv := 0xFFFF,
    pay := BitVec.ofNat 512 ((List.range 16).foldl (fun a l => a + word (16 * j + l) * 2 ^ (32 * l)) 0), inv := 0 } : Token)
  plainTok true 10 ch false (row * 2 ^ 16 + 0x3F80) :: (List.range 8).map data ++ [plainTok true 11 ch false 8]

/-- Adds the counts of a row step to an element's shares of NANS, INFS and OVFS (01 R40). -/
def addCounts (a b o : Nat) (x : Elem) : Elem :=
  { x with counts := mupd (mupd (mupd x.counts nansKey 0 (· + a)) infsKey 0 (· + b)) ovfsKey 0 (· + o) }

/-- Moves tokens of an emitted row into `out0` as far as it has room: n tokens. -/
def drainRow : Nat → Elem → Elem
  | 0, x => x
  | n + 1, x =>
    match x.mat.out with
    | t :: rest => if x.room 0 then drainRow n ((x.emit 0 t).withMat (fun m => { m with out := rest })) else x
    | [] => x

/-- 09 R274: the cell fires on a complete row, whose burst carries the CH of the row's first token (log entry 28), once the row before it has left `out0`, or goes on emitting a row. -/
def execMatrixRowFiring (e : Nat) (s : State) : Out :=
  .next (match matActive s e with
    | none => s
    | some (d, _, v) =>
      let x := elem s e
      if !x.mat.out.isEmpty then (if x.room 0 then fired d (setElem s e (drainRow 10 x)) else s)
      else if !rowFull x || (x.mEmit && !(mget x.outB 0 []).isEmpty) then s
      else match matKind false x.mAfmt x.mPlanes with
        | none => s
        | some k =>
          let row := x.mRow0 + x.mat.row % x.mRows
          let (m, a, b, o) := rowStep (streamNanz v x) x.mat (bufferRow (streamNanz v x) x k) row
          let ch := (x.mat.buf.head?.map (fun t => t.ch)).getD 0
          let x1 := addCounts a b o { x.tally rowsKey with
            accLog := x.accLog + 1, mat := { m with buf := [], bursts := 0, inBurst := false, row := m.row + 1 } }
          let x2 := if x.mEmit then x1.withMat (fun m => zeroRow row { m with out := emitRow x1 row ch }) else x1
          putFired d e (drainRow 10 x2) s)

/-- 11 R306: DONE passes to `out0` with EMIT = 1 after the last burst has left it, or is consumed; the cell finishes. -/
def execMatrixDonePass (e : Nat) (s : State) : Out :=
  .next (match matActive s e with
    | none => s
    | some (d, _, v) =>
      let x := elem s e
      match x.head 0 with
      | none => s
      | some t =>
        if t.kind ≠ 8 ∨ rowFull x ∨ ¬ x.mat.out.isEmpty then s
        else if x.mat.inBurst ∨ x.mat.bursts ≠ 0 then elemFault d v e 0x183 e s
        else if x.mEmit ∧ ¬ (mget x.outB 0 []).isEmpty then s
        else
          let x1 := x.take 0
          fired d (setElem s e ((if x.mEmit then x1.emit 0 (plainTok true 8 t.ch false (if t.td then 1 else 0)) else x1).finish t.td)))

end Sys2Proof.Machine
end

