-- ==== Sys2Proof/Machine/MemNode.lean ====
section
/-! DEFINITION. Memory nodes of vector cells: their requests, their returns, row bursts and waiting tagged requests (10
R285 to R291, R301). -/

namespace Sys2Proof.Machine

/-! ## A node and its requests -/

def node (s : State) (e k : Nat) : Node := mget (elem s e).nodes k .zero
def updNode (e k : Nat) (f : Node → Node) (s : State) : State :=
  updElem s e (fun x => { x with nodes := mset x.nodes k (f (mget x.nodes k .zero)) })

/-- The district and invocation of a node that may act: it goes on after its cell has finished, until its order is
empty. -/
def nodeLive (s : State) (e k : Nat) : Option (Nat × District × Inv) :=
  if !isNode s e k then none
  else match distOf s e with
    | none => none
    | some (d, dk) =>
      if dk.gated then none
      else match (elem s e).joined with
        | none => none
        | some i => (dk.inv? i).map (fun v => (d, dk, v))

/-- The lanes that are on in a request: one for a scalar link. -/
def reqLanes (t : Token) : List Nat := if t.vec then (List.range 16).filter (fun L => t.lv.toNat.testBit L) else [0]

def reqVal (t : Token) (L : Nat) : LaneVal := if t.vec then ⟨t.lane L, t.p.toNat.testBit L⟩ else ⟨t.val, t.pois⟩

/-- The accesses of two tokens: device store, scratchpad store, fill, set (10 R286). -/
def twoTokens (ch : Nat) : Bool := ch == 1 || ch == 3 || ch == 6 || ch == 7

/-- A request under way. -/
def mkNodeReq (s : State) (t : Token) (v : Option Token) (res : List (Option LaneVal)) : NodeReq :=
  { acc := t.ch, tok := t, val := v, res := res, out := [], done := false, held := false, from_ := s.fc }

/-- Results for the lanes of a request, the same in each. -/
def resAll (t : Token) (v : Option LaneVal) : List (Option LaneVal) :=
  (List.range 16).map (fun L => if (reqLanes t).contains L then v else some .zero)

def addReq (e k : Nat) (r : NodeReq) (s : State) : State := updNode e k (fun n => { n with half := none, reqs := n.reqs ++ [r] }) s

/-! ## Scratchpad requests (10 R287) -/

/-- The check of a window offset in a lane. -/
def spadCheck (k : District) (o : Nat) : Except (BitVec 10) Place :=
  if o ≥ 2 ^ 26 then .error 0x11C
  else match winPlace k.rect o with
    | none => .error 0x106
    | some p => if o % 4 ≠ 0 then .error 0x104 else .ok p

/-- The places of the lanes of a request, or the first cause. -/
def lanePlaces {α : Type} (f : Nat → Except (BitVec 10) α) : List Nat → Except (BitVec 10) (List (Nat × α))
  | [] => .ok []
  | L :: t => match f L with
    | .error c => .error c
    | .ok p => match lanePlaces f t with
      | .error c => .error c
      | .ok l => .ok ((L, p) :: l)

/-- One lane of a tagged request: it takes effect, or waits at its word (10 R291). -/
def tagLane (e k op : Nat) (v : LaneVal) (va L : Nat) (p : Place) (s : State) : Option LaneVal × State :=
  if tagBehind s p op ∨ ¬ tagReady s p op then
    (none, { s with tagq := s.tagq ++ [⟨.node e k, p, op, L + if v.p then 64 else 0, v.v, va, s.fc⟩] })
  else
    let (r, s1) := tagEffect p op v (logSpadAt (some (elem s e).mile) p 4 s)
    (some r, s1)

/-- One lane of a scratchpad request: its result, if it has one yet. -/
def spadLane (e k ch : Nat) (v : LaneVal) (va L : Nat) (p : Place) (s : State) : Option LaneVal × State :=
  let logged := logSpadAt (some (elem s e).mile) p 4 s
  match ch with
  | 2 => (some (wordAt s p), s)
  | 3 => (some .zero, placeWrite logged p (toBytes 4 v.v.toNat) v.p)
  | 4 => tagLane e k 0 v va L p s
  | 5 => tagLane e k 1 v va L p s
  | 6 => tagLane e k 2 v va L p s
  | _ => (some .zero, tagSetWord p v logged)

/-- Performs the lanes of a scratchpad request in order. -/
def spadPerform (e k : Nat) (t : Token) (v : Option Token) (ps : List (Nat × Place)) (s : State) : State :=
  let (res, s1) := ps.foldl (fun (acc : List (Option LaneVal) × State) p =>
    let (r, s') := spadLane e k t.ch ((v.map (fun u => reqVal u p.1)).getD .zero) (reqVal t p.1).v.toNat p.1 p.2 acc.2
    (listSet acc.1 p.1 r, s')) (resAll t none, s)
  addReq e k { mkNodeReq s t v res with done := res.all (fun x => x.isSome) } s1

/-! ## Device requests (10 R287) -/

/-- The formats that indexed access takes. -/
def indexedFmt (f : Nat) : Bool := decide (f ≤ 0x04 ∨ f = 0x06 ∨ f = 0x07 ∨ (0x09 ≤ f ∧ f ≤ 0x0C) ∨ (0x0E ≤ f ∧ f ≤ 0x10))

/-- Is the element sign-extended into a lane (02 R47)? -/
def fmtSigned (f : Nat) : Bool := decide (0x09 ≤ f ∧ f ≤ 0x0C)

/-- The entry that c14 names, for indexed access, as it stood at the `invoke` (06 R188). -/
def nodeEntry (v : Inv) (k : District) (x : Elem) : Except (BitVec 10) Ent :=
  let c := (x.nodeField 0xCE).toNat
  if c ≥ 4096 then .error 0x11C
  else
    let e := v.ent k.asid.toNat c
    if !e.isTensor then .error 0x2C5 else .ok e

/-- The address of an index. -/
def indexAddr (e : Ent) (i : Nat) : Except (BitVec 10) Nat :=
  if i ≥ e.d0 * e.rows then .error 0x11D else .ok (e.addr (i / e.d0) (i % e.d0))

/-- Loads the lanes, none before all are translated. -/
def devLoads (k : District) (e : Ent) : List (Nat × Nat) → State → Gw (List (Nat × LaneVal)) × State
  | [], s => (.ok [], s)
  | (L, a) :: t, s =>
    let w := fmtBits e.fmt / 8
    gwBind (gwLoad k a w s) (fun bp s1 =>
      let n := leNat bp.1
      let v := if fmtSigned e.fmt then BitVec.ofInt 32 (sval (8 * w) n) else BitVec.ofNat 32 n
      gwBind (devLoads k e t s1) (fun l s2 => (.ok ((L, ⟨v, bp.2⟩) :: l), s2)))

/-- The stores of the lanes. -/
def devStores (e : Ent) (v : Token) (as : List (Nat × Nat)) : List (Nat × List Byte × Bool) :=
  as.map (fun a => (a.2, toBytes (fmtBits e.fmt / 8) (reqVal v a.1).v.toNat, (reqVal v a.1).p))

/-- What a request of a node comes to. -/
inductive NodeStep where
  | go (s : State)
  | wait (p : Option Place)
  | fault (c : BitVec 10)

/-- A device request: its checks, then its accesses. A store that finds the hold buffer full waits in the node. -/
def devRequest (d : Nat) (k : District) (v : Inv) (e n : Nat) (t : Token) (val : Option Token) (s : State) : NodeStep :=
  match nodeEntry v k (elem s e) with
  | .error c => .fault c
  | .ok ent =>
    if !ent.dense || !indexedFmt ent.fmt then .fault 0x11C
    else match lanePlaces (fun L => indexAddr ent (reqVal t L).v.toNat) (reqLanes t) with
      | .error c => .fault c
      | .ok as =>
        match val with
        | none =>
          match devLoads k ent as s with
          | (.ok l, s1) =>
            let res := l.foldl (fun r p => listSet r p.1 (some p.2)) (resAll t none)
            .go (addReq e n { mkNodeReq s t none res with done := true } s1)
          | (.fault c, _) => .fault c
          | (.wait p, _) => .wait p
        | some u =>
          match gwStores d v (node s e n).mile (devStores ent u as) s with
          | (.ok _, s1) => .go (addReq e n { mkNodeReq s t val (resAll t (some .zero)) with done := true } s1)
          | (.fault c, _) => .fault c
          | (.wait (some p), _) => .wait (some p)
          | (.wait none, _) => .go (addReq e n { mkNodeReq s t val (resAll t none) with held := true } s)

/-! ## Row bursts (10 R290) -/

/-- The columns of a burst and how they are split. -/
structure BurstReq where
  ent : Ent
  r : Nat
  c : Nat
  n : Nat
  g : Nat

/-- The check of a row-burst request. -/
def burstReq (v : Inv) (k : District) (x : Elem) (t : Token) : Except (BitVec 10) BurstReq :=
  match nodeEntry v k x with
  | .error c => .error c
  | .ok e =>
    let c := (x.nodeField 0xCD).toNat
    let n := (x.nodeField 0xCC).toNat
    let sp := (x.nodeField 0xCB).toNat
    let r := t.val.toNat
    let g := if sp = 0 then n else 8 * 2 ^ sp
    if !e.dense then .error 0x11C
    else if sp ≥ 5 then .error 0x11C
    else if r ≥ e.rows ∨ n = 0 ∨ c + n > e.d0 then .error 0x11D
    else if fmtIsNb e.fmt ∧ (c % 256 ≠ 0 ∨ n % 256 ≠ 0 ∨ sp ≠ 0) then .error 0x11D
    else if fmtIs4 e.fmt ∧ (c % 2 ≠ 0 ∨ n % 2 ≠ 0) then .error 0x11D
    else if sp ≠ 0 ∧ c % g ≠ 0 then .error 0x11D
    else .ok ⟨e, r, c, n, g⟩

/-- DATA tokens of a byte image, 64 bytes to a token. -/
def imageTokens (ch : Nat) (bs : List PByte) : List Token :=
  (pieces 64 (bs.length + 1) bs).map (fun p => ({
    vec := true, kind := 0, ch := ch, p := BitVec.ofNat 16 (laneMask (fun L => ((p.drop (4 * L)).take 4).any Prod.snd)), lv := 0xFFFF,
    pay := BitVec.ofNat 512 (leNat (p.map Prod.fst)), inv := 0 } : Token))

/-- One burst of a return: HEAD with the scale of its first group, DATA, TAIL. -/
def oneBurst (k : District) (b : BurstReq) (ch c n : Nat) (s : State) : Gw (List Token) × State :=
  let w := if b.ent.fmt = 0x19 then 4 else 2
  let scale : Gw (List PByte) × State :=
    if b.ent.sbase = 0 then (.ok ((toBytes 2 (scaleOne b.ent.fmt)).map (·, false)), s)
    else gwRead k (b.ent.scaleAddr w b.r (c / b.ent.sgroup)) (if fmtIsMx b.ent.fmt then 1 else 2) s
  gwBind scale (fun sb s1 =>
    gwBind (gwRead k (b.ent.addr b.r c) (rowBytes b.ent.fmt n) s1) (fun bs s2 =>
      let data := imageTokens ch bs
      let head := plainTok true 10 ch (sb.any Prod.snd) (leNat (sb.map Prod.fst) + b.r % 2 ^ 16 * 2 ^ 16)
      (.ok (head :: data ++ [plainTok true 11 ch false data.length]), s2)))

/-- The bursts of a return, j of them still to read. -/
def allBursts (k : District) (b : BurstReq) (ch : Nat) : Nat → Nat → State → Gw (List Token) × State
  | 0, _, s => (.ok [], s)
  | j + 1, c, s =>
    if c ≥ b.c + b.n then (.ok [], s)
    else gwBind (oneBurst k b ch c (min b.g (b.c + b.n - c)) s) (fun l s1 =>
      gwBind (allBursts k b ch j (c + b.g) s1) (fun l2 s2 => (.ok (l ++ l2), s2)))

/-! ## The events -/

/-- A request whose tokens are complete: its checks and its accesses. -/
def runRequest (d : Nat) (k : District) (v : Inv) (e n : Nat) (t : Token) (val : Option Token) (s : State) : NodeStep :=
  let lanes := reqLanes t
  if t.ch = 8 then
    if t.pois then .fault 0x109
    else match burstReq v k (elem s e) t with
      | .error c => .fault c
      | .ok _ => .go (addReq e n (mkNodeReq s t none []) s)
  else if lanes.any (fun L => (reqVal t L).p) then .fault 0x109
  else if t.ch ≤ 1 then devRequest d k v e n t val s
  else match lanePlaces (fun L => spadCheck k (reqVal t L).v.toNat) lanes with
    | .error c => .fault c
    | .ok ps =>
      if lanes.any (fun L => k.boardBusy (reqVal t L).v.toNat 4) then .wait none else .go (spadPerform e n t val ps s)

/-- Are all lanes of a request served? -/
def NodeReq.ready (r : NodeReq) : Bool := r.done || (!r.held && !r.res.isEmpty && r.res.all (fun x => x.isSome))

/-- Takes the head of a node's request port. -/
def popOut (e n : Nat) (s : State) : State := updElem s e (fun x => { x with outB := mset x.outB n ((mget x.outB n []).drop 1) })

/-- A node that takes a milestone passes into the next wave (09 R280). -/
def passNode (e k : Nat) (t : Token) (s : State) : State :=
  if t.kind = 9 then updNode e k (fun n => { n with mile := t.val.toNat }) s else s

/-- 10 R286: a memory node takes a request token and, with its last token, performs the access. A node performs its
requests in order, and holds 16 at most. -/
def execMemoryNodeRequest (e k : Nat) (s : State) : Out :=
  .next (match nodeLive s e k with
    | none => s
    | some (d, dk, v) =>
      let nd := node s e k
      match mget (elem s e).outB k [] with
      | [] => s
      | t :: _ =>
        let fault := fun c => elemFault d v e c e s
        let w := ((elem s e).nodeField (0x74 + k)).toNat
        let image := linkImage w && linkVec w
        if t.inv ≠ v.id || decide (nd.reqs.length ≥ 16) || nd.reqs.any (fun r => !r.ready) then s
        else if t.kind ≥ 12 then fault 0x181
        else if t.kind = 10 ∨ t.kind = 11 then fault 0x11C
        else match nd.half with
          | some h =>
            if t.kind ≠ 0 ∨ t.ch ≠ h.ch then fault 0x11C
            else match runRequest d dk v e k h (some t) (popOut e k s) with
              | .go s1 => fired d s1
              | .wait p => meetAt (.node e k) p s
              | .fault c => fault c
          | none =>
            if t.kind ≠ 0 then
              fired d (addReq e k { mkNodeReq s t none [] with out := [t], done := true } (passNode e k t (popOut e k s)))
            else if (t.ch == 8) != image || decide (t.ch ≥ 9) then fault 0x11C
            else if twoTokens t.ch then fired d (updNode e k (fun n => { n with half := some t }) (popOut e k s))
            else match runRequest d dk v e k t none (popOut e k s) with
              | .go s1 => fired d s1
              | .wait p => meetAt (.node e k) p s
              | .fault c => fault c)

/-- The return token of a completed request (10 R286). -/
def returnTok (vec : Bool) (r : NodeReq) : Token :=
  let at_ := fun L => (r.res.getD L none).getD .zero
  if vec then
    ⟨true, 0, r.tok.ch, BitVec.ofNat 16 (laneMask (fun L => (at_ L).p)), r.tok.lv,
     BitVec.ofNat 512 ((List.range 16).foldl (fun m L => m + (at_ L).v.toNat * 2 ^ (32 * L)) 0), 0, 0, []⟩
  else plainTok false 0 r.tok.ch (at_ 0).p (at_ 0).v.toNat

/-- 10 R288: the first return of a node enters its input port, in order; behind the last one the element can return to the pool. -/
def execMemoryNodeReturn (e k : Nat) (s : State) : Out :=
  .next (match nodeLive s e k with
    | none => s
    | some (d, _, _) =>
      match (node s e k).reqs with
      | [] => s
      | r :: rest =>
        if !r.ready || decide ((mget (elem s e).inB k []).length ≥ 4) then s
        else
          let put := fun (t : Token) (s : State) => updElem s e (fun x =>
            ({ x with inB := mset x.inB k (mget x.inB k [] ++ [{ t with inv := r.tok.inv, home := r.tok.inv }]) }).settlePool)
          match r.out with
          | t :: more =>
            fired d (put t (updNode e k (fun n => { n with reqs := if more.isEmpty then rest else { r with out := more } :: rest }) s))
          | [] => fired d (put (returnTok (linkVec ((elem s e).nodeField (0x74 + k)).toNat) r) (updNode e k (fun n => { n with reqs := rest }) s)))

/-- 10 R290: a row-burst request reads its columns and makes its tile bursts. -/
def execRowBurst (e k : Nat) (s : State) : Out :=
  .next (match nodeLive s e k with
    | none => s
    | some (d, dk, v) =>
      match (node s e k).reqs.find? (fun r => r.acc == 8 && !r.done) with
      | none => s
      | some r =>
        match burstReq v dk (elem s e) r.tok with
        | .error c => elemFault d v e c e s
        | .ok b =>
          match allBursts dk b 8 (b.n + 1) b.c s with
          | (.fault c, _) => elemFault d v e c e s
          | (.wait p, _) => meetAt (.node e k) p s
          | (.ok l, s1) =>
            fired d (updNode e k (fun n => { n with reqs := n.reqs.map (fun q => if q = r then { r with out := l, done := true } else q) }) s1))

/-- Has a waiting tagged request of a node reached the bound that stood at the `invoke` (10 R291)? -/
def tagDue (s : State) (e k : Nat) (v : Inv) : Bool :=
  match (node s e k).reqs.find? (fun r => !r.done && !r.held && decide (4 ≤ r.acc ∧ r.acc ≤ 6) && r.res.any (fun x => x.isNone)) with
  | none => false
  | some r => decide (v.bound ≠ 0 ∧ s.fc ≥ r.from_ + v.bound.toNat)

/-- 10 R291. -/
def execNodeTagTimeout (e k : Nat) (s : State) : Out :=
  .next (match nodeLive s e k with
    | none => s
    | some (d, _, v) => if tagDue s e k v then elemFault d v e 0x110 e s else s)

/-- Is a TAGTIME due in a district? It is reported in place of a STALLDOG of the same fc (10 R291). -/
def anyTagDue (s : State) (k : District) : Bool :=
  (distElems s k).any (fun e => (elem s e).nodeSet.any (fun p => match nodeLive s e p with
    | some (_, _, v) => tagDue s e p v
    | none => false))

/-- 09 R262: the stall count reaches the bound that stood at the `invoke`. -/
def execStallWatchdogExpiry (d : Nat) (s : State) : Out :=
  .next (match mget? s.districts d with
    | none => s
    | some k =>
      match k.running with
      | none => s
      | some v => if v.bound ≠ 0 ∧ ¬ k.gated ∧ anyTagDue s k = false ∧ k.stall ≥ v.bound.toNat then noteFault d ⟨v.id, noElem, 0x151, 0⟩ s else s)

/-- 09 R279, R280: a node's store that waited enters the hold buffer once room frees. -/
def execHeldStoreEntry (e k : Nat) (s : State) : Out :=
  .next (match nodeLive s e k with
    | none => s
    | some (d, dk, v) =>
      match (node s e k).reqs.find? (fun r => r.held), nodeEntry v dk (elem s e) with
      | some r, .ok ent =>
        (match lanePlaces (fun L => indexAddr ent (reqVal r.tok L).v.toNat) (reqLanes r.tok), r.val with
          | .ok as, some u =>
            (match gwStores d v (node s e k).mile (devStores ent u as) s with
              | (.ok _, s1) => fired d (updNode e k (fun n => { n with reqs := n.reqs.map (fun q =>
                  if q = r then { r with held := false, done := true, res := resAll r.tok (some .zero) } else q) }) s1)
              | (.fault c, _) => elemFault d v e c e s
              | (.wait p, _) => meetAt (.node e k) p s)
          | _, _ => s)
      | _, _ => s)

end Sys2Proof.Machine
end

