-- ==== Sys2Proof/Machine/Invocation.lean ====
section
/-! DEFINITION. How an invocation starts, how its elements join it, and how milestones pass through them (09 R263; 02 R52;
06 R178, R180; 17 R396, R398). -/

namespace Sys2Proof.Machine

/-! ## Joining (09 R263) -/

/-- The check that an element makes as it joins: the cause and CC_TVAL of its failure. -/
def startCheck (s : State) (k : District) (v : Inv) (e : Nat) : Option (BitVec 10 × Nat) :=
  match elemKind e with
  | .vector => (cellCfgBad (elem s e)).map (fun p => (0x190, cellTval e p.1 p.2))
  | .matrix => (matCheck (elem s e)).map (·, e)
  | .store => none
  | _ => (unitCheck s k v e).map (·, e)

/-- An element as it begins an invocation with its memory nodes: what lasts across invocations stays (07 R207, R209; 09 R275), and its share
in the counters of the invocation before it. -/
def Elem.begin (i : Nat) (nodes : List Nat) (x : Elem) : Elem :=
  { x with
    past := x.joined.map (fun j => (j, x.share j)), nodeSet := nodes, nodes := [], late := [], mileOut := [], tear := false, ghost := [],
    joined := some i, fin := false, branch := none, finCtx := [], doneOut := [], burstIn := [], burstOut := [], counts := [],
    hsc := [], mile := 0, lsLog := 0, accLog := 0, ctLog := [],
    actCtx := contexts.filter x.ctxActive,
    armed := if x.driven then (contexts.filter x.ctxActive).find? x.initBit else none,
    unit := StreamUnit.zero,
    mat := { x.mat with row := 0, buf := [], bursts := 0, inBurst := false, out := [] } }

/-- The number of the wave whose snapshots are the oldest kept. -/
def baseWave (k : District) : Nat := ((k.snaps.head?).map Prod.fst).getD 0

/-- An element joins invocation i: its start is a snapshot to which it can roll back (17 R396: wave 0). -/
def joinElem (d i e : Nat) (s : State) : State :=
  let w := ((mget? s.districts d).map baseWave).getD 0
  addSnap d w e (updElem s e (Elem.begin i (ports.filter (formsNode s e))))

/-- The elements of a district that take part. -/
def partElems (s : State) (k : District) : List Nat := (distElems s k).filter (takesPart s)

/-- 06 R178; 09 R263: the earliest invocation that has not started starts, behind the accesses that its thread has sent: with no other live,
every element joins now. -/
def execInvokeStart (d : Nat) (s : State) : Out :=
  .next (match mget? s.districts d with
    | none => s
    | some k =>
      match k.invs.find? (fun v => !v.started) with
      | none => s
      | some v =>
        if v.loads ≠ 0 ∨ k.gated ∨ k.behind s then s
        else if k.invs.any (fun u => u.started) then updInv d v.id (fun v => { v with started := true }) s
        else
          let es := partElems s k
          if es.any (fun e => !(elem s e).pend.isEmpty) then s
          else
            let s1 := updInv d v.id (fun v => { v with started := true, atOnce := true }) s
            match es.findSome? (startCheck s k v) with
            | some (c, tv) => invFault d v.id c tv s1
            | none => es.foldl (fun s e => joinElem d v.id e s) s1)

/-- The invocation that an element is to join next. -/
def nextInvOf (s : State) (k : District) (e : Nat) : Option Inv :=
  let x := elem s e
  let free := match x.joined with
    | some j => x.over || !(k.invs.any (fun u => u.id == j))
    | none => true
  if !free then none
  else k.invs.find? (fun v => v.started && !v.atOnce && (match x.joined with
    | some j => decide (j < v.id)
    | none => true))

/-- 09 R263: an element that has finished the earlier invocation and applied its pending commands joins the one that has
started, with its check. -/
def execElementJoin (e : Nat) (s : State) : Out :=
  .next (match distOf s e with
    | none => s
    | some (d, k) =>
      match nextInvOf s k e with
      | none => s
      | some v =>
        if k.gated || !takesPart s e || !(elem s e).pend.isEmpty then s
        else match startCheck s k v e with
          | some (c, tv) => invFault d v.id c tv s
          | none => joinElem d v.id e s)

/-! ## Conservation checks (17 R396) -/

/-- Tokens of kind q taken at an input, emitted at an output, in the wave. -/
def Elem.took (x : Elem) (p q : Nat) : Nat := x.counted false p q
def Elem.sent (x : Elem) (p q : Nat) : Nat := x.counted true p q

def kinds (lo n : Nat) : List Nat := (List.range n).map (lo + ·)
def sumNat (l : List Nat) : Nat := l.foldl (· + ·) 0

/-- The firings of some contexts of a cell on heads of a kind. -/
def ctxFirings (x : Elem) (js : List Nat) (q : Nat) : Nat := sumNat (js.map (fun j => mget x.counts (ctxKey j q) 0))

/-- The invariant of the contexts of a vector cell: each of their firings takes a token of its kind on each port of IN and emits one on each
port of OUT; HEAD and TAIL go on from `in0` alone (07 R224). -/
def ctxConserved (x : Elem) : Bool :=
  let users := fun (set : Nat → List Nat) (p : Nat) => x.actCtx.filter (fun j => (set j).contains p)
  ports.all (fun p => (kinds 0 8).all (fun q =>
    x.took p q == ctxFirings x (users x.inSet p) q && x.sent p q == ctxFirings x (users x.outSet p) q)) &&
  [10, 11].all (fun q => ports.all (fun p =>
    (x.inBound 0 && x.sent p q == x.took 0 q) || x.sent p q == 0 || x.driven || !(users x.outSet p).any (fun j => (x.inSet j).contains 0)))

/-- The key of the number of bursts of an unfinished row that a matrix cell held as it took its last milestone. -/
def carryKey : Nat := 3050

/-- Do an element's counts of a wave keep the invariant of its kind? -/
def conserved (kd : Kind) (x : Elem) : Bool :=
  match kd with
  | .vector => ctxConserved x
  | .scanner => x.mbit 15 || ((kinds 1 6).all (fun q => x.sent 0 (q + 1) == x.took 0 q) && x.sent 0 8 == x.took 0 8)
  | .merge =>
    let a := x.took 0 0
    let b := x.took 1 0
    let c := x.sent 0 0
    (kinds 1 7).all (fun q => x.sent 0 q == x.took 0 q && x.sent 0 q == x.took 1 q) &&
    (if x.mbits 31 30 = 0 then decide (c ≤ a ∧ c ≤ b) else decide (c ≤ a + b ∧ a ≤ c ∧ b ≤ c))
  | .repeater =>
    if x.mbit 31 then (kinds 1 6).all (fun q => x.sent 0 (q + 1) == x.took 1 q)
    else sumNat ((kinds 0 9).map (x.sent 0)) == sumNat ((kinds 0 9).map (x.took 1))
  | .reducer =>
    let l := x.mbits 31 29
    let ends := sumNat ((kinds (l + 1) (7 - l)).map (x.took 0))
    (if x.mbit 24 then x.sent 0 0 == ends else decide (x.sent 0 0 ≤ ends)) &&
    (kinds (l + 2) (6 - l)).all (fun q => x.sent 0 (q - l - 1) == x.took 0 q)
  | .writer => mget x.counts entriesKey 0 == x.took 0 0 && mget x.counts closedKey 0 == sumNat ((kinds 1 7).map (x.took 0))
  | .matrix =>
    let rows := mget x.counts rowsKey 0
    x.took 0 10 == x.took 0 11 && x.took 0 11 + mget x.counts carryKey 0 == rows * rowBursts x + x.mat.bursts &&
    x.sent 0 10 == x.sent 0 11 && (!x.mEmit || x.sent 0 11 == rows)
  | .store => true

/-! ## Milestones (02 R52; 06 R180) -/

/-- The wave that an element may take now: due at a source, or at the head of every open input. -/
def takeable (s : State) (k : District) (v : Inv) (e : Nat) : Option Nat :=
  let x := elem s e
  let ins := openInputs s e
  if nodeBurst x then none
  else match ins with
  | [] => if mileDue s k v e then (k.miles.find? (fun m => decide (x.mile < m.wave))).map (fun m => m.wave) else none
  | i :: rest =>
    if !ins.all (atMile x) then none
    else
      let w := ((x.head i).map (fun t => t.val.toNat)).getD 0
      if rest.all (fun p => (x.head p).any (fun t => t.val.toNat == w)) then some w else none

/-- Has an element something to emit ahead of a milestone: a reducer's stop, a matrix cell's row? -/
def holdsOutput (kd : Kind) (x : Elem) : Bool :=
  x.unit.pendStop.isSome || !x.mat.out.isEmpty || (kd == .matrix && x.mat.kk != 0 && rowFull x)

/-- The context whose IN holds a port, for CC_TVAL (07 R210). -/
def portCtx (x : Elem) (p : Nat) : Nat := (x.actCtx.find? (fun j => (x.inSet j).contains p)).getD 0

/-- A milestone inside a burst that the element checks: the CC_TVAL of its BURSTKIND (02 R53; 09 R274). -/
def mileInBurst (s : State) (e : Nat) : Option Nat :=
  let x := elem s e
  ((openInputs s e).find? (fun p => atMile x p && (if elemKind e = .matrix then x.mat.inBurst
      else elemKind e == .vector && ((x.head p).bind (burstCause x p)).isSome))).map
    (fun p => if elemKind e = .vector then cellTval e (portCtx x p) 0 else e)

/-- The memory nodes whose returns feed an output: those that its contexts take from. -/
def nodeFeeds (x : Elem) (p : Nat) : List Nat :=
  x.nodeSet.filter (fun q => x.actCtx.any (fun j => (x.outSet j).contains p && (x.inSet j).contains q))

/-- The memory nodes that feed an output through n more nodes. -/
def nodeReach (x : Elem) : Nat → Nat → List Nat
  | 0, p => [p]
  | n + 1, p => p :: (nodeFeeds x p).flatMap (nodeReach x n)

/-- Has a wave come back on the returns of a memory node, or has the cell closed the node? -/
def nodeDone (x : Elem) (w q : Nat) : Bool :=
  (x.head q).any (fun t => t.kind == 9 && t.val.toNat == w) || (x.doneOut.contains q && portShut x q)

/-- The outputs to memory nodes that a wave may go to now, ahead of the element (02 R52; 10 R288; log entry 117): those whose tokens come
from no other node, or only from nodes that the wave has come back from. A node that a cycle feeds waits for none of its cycle. -/
def nodeOutputs (x : Elem) (w : Nat) : List Nat :=
  x.nodeSet.filter (fun p => x.outBound p && !x.doneOut.contains p && !x.mileOut.contains p && x.room p &&
    (nodeFeeds x p).all (fun q => nodeDone x w q || (nodeReach x 4 q).contains p))

/-- A milestone on an output, with what the output's route has carried in the wave (17 R396). -/
def emitMile (e w ch : Nat) (x : Elem) (p : Nat) : Elem :=
  x.emit p { plainTok (linkVec (x.outWord p)) 9 ch false w with route := [(e, (List.range 12).map (x.sent p))] }

/-- The outputs that go to no memory node and have carried no DONE. -/
def routeOutputs (x : Elem) : List Nat := ports.filter (fun p => x.outBound p && !x.nodeSet.contains p && !x.doneOut.contains p)

/-- An element takes a milestone from every input, its memory nodes' returns among them, and forwards it on every output; its counts start
afresh. -/
def passMile (s : State) (e w ch : Nat) (x : Elem) : Elem :=
  let x1 := takeAll (openInputs s e ++ x.nodeSet.filter (atMile x)) x
  let x2 := (routeOutputs x1).foldl (emitMile e w ch) x1
  { x2 with
    mile := w, mileOut := [],
    counts := ports.foldl (fun m j => mset m (ctMarkKey j) (mget x2.ctLog j []).length)
      (mset (mset (mset (x2.counts.filter (fun p => decide (1000 ≤ p.1))) lsMarkKey x2.lsLog) accMarkKey x2.accLog) carryKey x2.mat.bursts) }

/-- 02 R52; 17 R396, R398: an element takes a milestone wave, checks its counts, forwards it and records its snapshot. Ahead of that the wave
goes to its memory nodes, behind what it has sent them, and comes back from them behind their returns (10 R288). The milestones that an
element forwards carry the CH of the one at its lowest open input (log entry 28). -/
def execMilestoneTake (e : Nat) (s : State) : Out :=
  .next (match active s e with
    | none => s
    | some (d, k, v) =>
      let x := elem s e
      match mileInBurst s e, takeable s k v e with
      | some tv, _ => elemFault d v e 0x183 tv s
      | none, none => s
      | none, some w =>
        let ch := match openInputs s e with
          | i :: _ => ((x.head i).map (fun t => t.ch)).getD 0
          | [] => openCh k v e 41 w
        let ahead := nodeOutputs x w
        if holdsOutput (elemKind e) x then s
        else if !ahead.isEmpty then
          fired d (updElem s e (fun x => { ahead.foldl (emitMile e w ch) x with mileOut := ahead.foldl setIns x.mileOut }))
        else if !x.nodeSet.all (nodeDone x w) || !(routeOutputs x).all x.room then s
        else if !conserved (elemKind e) x then regionError d v.id e false e s
        else
          addSnap d w e (fired d (updElem s e (passMile s e w ch))))

end Sys2Proof.Machine
end

