-- ==== Sys2Proof/Machine/ConfigCmd.lean ====
section
/-! DEFINITION. Configuration streams: the fields of an element and their checks, the commands of a stream, the staged
group, the wavefront, and the end of a load (02 R60 to R70; 06 R176; 07 R208, R211; 08 R234; 09 R276). -/

namespace Sys2Proof.Machine

/-! ## Fields (02 R66) -/

/-- The check of a stream unit's mode word (08 R234, R235, R243, R246, R249, R251). -/
def modeCheck (kd : Kind) (v : Nat) : Option (BitVec 10) :=
  let res (n : Nat) (bad : Bool) : Option (BitVec 10) := if v % 2 ^ n ≠ 0 then some 0x141 else if bad then some 0x144 else none
  match kd with
  | .scanner => res 14 false
  | .merge =>
    let op := nb v 31 30
    res 26 (decide (op ≥ 2) || (op == 1 && nb v 29 28 != 0) || (op == 0 && v.testBit 26))
  | .repeater =>
    let adv := nb v 30 28
    res 27 (adv == 7 || (v.testBit 31 && adv != 0) || (!v.testBit 31 && v.testBit 27))
  | .reducer => res 23 (nb v 31 29 == 7 || nb v 28 27 == 3 || nb v 26 25 == 3)
  | .writer => res 15 (nb v 17 16 == 3)
  | _ => none

/-- Is an element a stream unit (08 R231)? -/
def Kind.isUnit (k : Kind) : Bool := k == .scanner || k == .merge || k == .repeater || k == .reducer || k == .writer

/-- The check of a vector cell's opcode plane and port bindings (07 R208, R211). -/
def vectorField (f : Nat) (v : W32) : Option (BitVec 10) :=
  let n := v.toNat
  if f < 0x48 then (if stageOk v then none else some 0x144)
  else if f < 0x54 then
    (if nb n 5 2 ≠ 0 ∨ (f ≠ 0x48 ∧ n.testBit 1) then some 0x141
     else if nb n 21 20 = 3 ∨ nb n 10 7 > 8 then some 0x144 else none)
  else if f < 0x60 then (if n ≥ 32 then some 0x141 else if n % 16 ≥ 12 then some 0x144 else none)
  else (if n % 16 ≠ 0 then some 0x141 else none)

/-- The check of a matrix cell's opcode plane (06 R197). -/
def matrixField (f : Nat) (v : Nat) : Option (BitVec 10) :=
  match f with
  | 0 => if v ≥ 2 ^ 26 then some 0x141 else if nb v 25 24 = 1 ∨ v % 4 ≥ 2 then some 0x144 else none
  | 1 => if v ≥ 2 ^ 10 then some 0x141 else if nb v 9 7 ≥ 5 ∨ v % 32 ≥ 3 then some 0x144 else none
  | _ => if v ≠ 0 then some 0x144 else none

/-- The check of a link word (02 R66; 08 R233). -/
def linkField (kd : Kind) (f v : Nat) : Option (BitVec 10) :=
  if f < 0x78 then
    if v ≥ 32 then some 0x141
    else if v % 4 ≥ 2 ∨ (f ≥ 0x74 ∧ v.testBit 4) ∨ (kd.isUnit ∧ v.testBit 2) then some 0x144 else none
  else if v ≥ 4 ∨ v % 4 = 3 then some 0x144 else none

/-- The check of a field and its value for an element, switch settings apart. -/
def fieldCheck (e f : Nat) (v : W32) : Option (BitVec 10) :=
  let kd := elemKind e
  if kd = .store then some 0x142
  else if f < 0x10 ∧ kd.isUnit then
    (if f = 0 then modeCheck kd v.toNat else if f = 1 ∧ kd = .writer then none else if v ≠ 0 then some 0x144 else none)
  else if f < 0x08 ∧ kd = .matrix then matrixField f v.toNat
  else if f < 0x6C ∧ kd = .vector then vectorField f v
  else if 0x70 ≤ f ∧ f < 0x7C then linkField kd f v.toNat
  else if 0xC0 ≤ f ∧ f < 0xD0 then none
  else if f = 0xD0 ∧ kd = .vector then none
  else if 0xD1 ≤ f ∧ f < 0xE0 ∧ kd = .vector then (if v ≠ 0 then some 0x141 else none)
  else some 0x143

/-- Is a field a switch setting or clear of the element at the origin of a block (02 R66)? -/
def isSwitchField (e f : Nat) : Bool := (f == 0x80 || f == 0x81) && elemX e % 8 == 0 && elemY e % 8 == 0

def isConstField (f : Nat) : Bool := decide (0xC0 ≤ f)

/-- The context of a vector cell that a field belongs to; none for a field of the whole cell (09 R276). -/
def fieldCtx (f : Nat) : Option Nat :=
  if f < 0x48 then some (f / 6) else if f < 0x54 then some (f - 0x48)
  else if 0x60 ≤ f ∧ f < 0x6C then some (f - 0x60) else none

/-- A field takes its value; a seed, and a write of a context's opcode plane, seed the generators (01 R29). -/
def Elem.setField (e f : Nat) (v : W32) (x : Elem) : Elem :=
  if 0xD1 ≤ f ∧ f < 0xE0 then x
  else
    let x1 := { x with fields := if v = 0 then mdel x.fields f else mset x.fields f v }
    if elemKind e ≠ .vector then x1
    else if f = 0xD0 then contexts.foldl (fun x j => seedCtx j v x) x1
    else if f < 0x54 then (match fieldCtx f with
      | some j => seedCtx j 0 x1
      | none => x1)
    else x1

def setField (e f : Nat) (v : W32) (s : State) : State := updElem s e (Elem.setField e f v)

/-- The check of a write, in the order of 02 R65: field, value, route. A clear with a bit of [15:0] set is refused as one with a reserved
bit set (log entry 119). -/
def writeCheck (s : State) (k : District) (wave : Bool) (e f : Nat) (v : W32) : Option (BitVec 10) :=
  if isSwitchField e f then
    if f = 0x81 ∧ v.toNat % 2 ^ 16 ≠ 0 then some 0x141
    else switchCheck s k (elemBlock e) (v.toNat / 2 ^ 16) (if f = 0x80 then some (v.toNat % 2 ^ 16) else none) wave
  else fieldCheck e f v

/-- Does an element belong to a live invocation that it has joined? -/
def Elem.running (k : District) (x : Elem) : Bool :=
  match x.joined with
  | some i => (k.inv? i).isSome
  | none => false

/-- 02 R69: is a write outside a wavefront refused? -/
def writeBusy (s : State) (k : District) (e f : Nat) : Bool :=
  let x := elem s e
  x.running k && !isConstField f &&
  !(elemKind e == .vector && (match fieldCtx f with
    | some j => !x.actCtx.contains j && !x.ctxActive j
    | none => false))

/-! ## Clearing an element (02 R64; 09 R278) -/

/-- The switch settings of a block return to their reset value. -/
def clearSwitch (b : Nat) (s : State) : State :=
  ((switch s b).drive.map Prod.fst).foldl (fun s d => switchClear b d s) s

/-- Every plane of an element at its reset value; the element at a block's origin holds the switch settings (02 R66).
`keep` holds for an element of a live invocation, whose emitted tokens still leave it. -/
def clearElem (e : Nat) (keep : Bool) (s : State) : State :=
  let s1 := if keep then updElem s e Elem.toPool else { s with elems := mdel s.elems e }
  if elemX e % 8 = 0 ∧ elemY e % 8 = 0 then clearSwitch (elemBlock e) s1 else s1

/-! ## The commands of a stream (02 R60 to R64) -/

/-- What a command does: its cause, or the state after it. -/
abbrev CmdRes := Except (BitVec 10) State

/-- The element at a relative position, or CFGADDR. -/
def cfgElem (k : District) (x y : Nat) : Except (BitVec 10) Nat :=
  let e := k.rect.elem x y
  if x < 8 * k.rect.w ∧ y < 8 * k.rect.h ∧ ¬ isStore e then .ok e else .error 0x142

/-- The invocation whose DONE a pending setting waits for: the last that runs on the old routes. One whose `invoke` stands behind the
`cfg.load` of the setting starts only after it (06 R173). -/
def lastInv (k : District) : Nat := (((k.invs.filter (fun v => v.started)).getLast?).map (fun v => v.id)).getD 0

/-- A write outside a wavefront, direct or staged (02 R67 to R69). -/
def directWrite (d : Nat) (k : District) (e f : Nat) (v : W32) (s : State) : CmdRes :=
  if isConstField f then
    match k.staging with
    | none => .ok (setField e f v s)
    | some l =>
      if l.length ≥ 64 then .error 0x147 else .ok (updDist s d (fun k => { k with staging := some (l ++ [(e, f, v)]) }))
  else if writeBusy s k e f then .error 0x148
  else if isSwitchField e f then
    .ok (if f = 0x80 then switchSet k (elemBlock e) (v.toNat / 2 ^ 16) (v.toNat % 2 ^ 16) s
         else switchClear (elemBlock e) (v.toNat / 2 ^ 16) s)
  else .ok (setField e f v s)

/-- A pending setting or clear reaches the switch of its block; a setting allots the bridge or relay tracks that it names (09 R258, R277). -/
def pendSwitch (k : District) (b dest : Nat) (src : Option Nat) (s : State) : State :=
  let s1 := updSwitch s b (fun w => { w with pend := w.pend ++ [(dest, src, lastInv k)] })
  match src with
  | some x => allotTrack k b x false (allotTrack k b dest true s1)
  | none => s1

/-- A write in a wavefront goes to its element, or its switch, as pending (02 R70; 09 R277). A constant does too, into no group that was open
before WAVE (log entry 119). -/
def pendWrite (k : District) (e f : Nat) (v : W32) (s : State) : State :=
  if isSwitchField e f then
    pendSwitch k (elemBlock e) (v.toNat / 2 ^ 16) (if f = 0x80 then some (v.toNat % 2 ^ 16) else none) s
  else updElem s e (fun x => { x with pend := x.pend ++ [.write f v] })

/-- One field write of a stream. -/
def fieldWrite (d : Nat) (k : District) (run : CfgRun) (e f : Nat) (v : W32) (s : State) : CmdRes :=
  match writeCheck s k run.wave e f v with
  | some c => .error c
  | none => if run.wave then .ok (pendWrite k e f v s) else directWrite d k e f v s

/-- The next position in a district that is no store cell: n tries (02 R62). -/
def nextCell (k : District) : Nat → Nat → Nat → Option (Nat × Nat)
  | 0, _, _ => none
  | n + 1, x, y =>
    let (x1, y1) := if x + 1 < 8 * k.rect.w then (x + 1, y) else (0, y + 1)
    if y1 ≥ 8 * k.rect.h then none else if isStore (k.rect.elem x1 y1) then nextCell k n x1 y1 else some (x1, y1)

/-- 02 R61. -/
def cmdPlain (d : Nat) (k : District) (run : CfgRun) (w : Nat) (s : State) : CmdRes :=
  match k.cursor with
  | none => .error 0x142
  | some (x, y) =>
    match cfgElem k x y with
    | .error c => .error c
    | .ok e =>
      match fieldWrite d k run e (nb w 29 22) (BitVec.ofNat 32 (nb w 21 0)) s with
      | .error c => .error c
      | .ok s1 => .ok (if k.step = 1 then updDist s1 d (fun k => { k with cursor := nextCell k 3 x y }) else s1)

/-- 02 R62. -/
def cmdCursor (d : Nat) (k : District) (w : Nat) (s : State) : CmdRes :=
  if nb w 29 22 ≠ 0 ∨ nb w 7 0 ≠ 0 ∨ nb w 9 8 ≥ 2 then .error 0x141
  else if nb w 15 10 ≥ 8 * k.rect.w ∨ nb w 21 16 ≥ 8 * k.rect.h then .error 0x142
  else .ok (updDist s d (fun k => { k with cursor := some (nb w 15 10, nb w 21 16), step := nb w 9 8 }))

/-- 02 R63, with its value word. -/
def cmdWide (d : Nat) (k : District) (run : CfgRun) (w v : Nat) (s : State) : CmdRes :=
  let x := nb w 15 10
  let y := nb w 21 16
  if nb w 9 0 ≠ 0 then .error 0x141
  else match cfgElem k x y with
    | .error c => .error c
    | .ok e =>
      match fieldWrite d k run e (nb w 29 22) (BitVec.ofNat 32 v) s with
      | .error c => .error c
      | .ok s1 => .ok (updDist s1 d (fun k => { k with cursor := some (x, y) }))

/-- Applies the open group: every staged write at once (02 R68). -/
def commitGroup (d : Nat) (l : List (Nat × Nat × W32)) (s : State) : State :=
  l.foldl (fun s p => setField p.1 p.2.1 p.2.2 s) (updDist s d (fun k => { k with staging := none }))

/-- Does an element hold the switch settings of its block (02 R66)? -/
def isOrigin (e : Nat) : Bool := elemX e % 8 == 0 && elemY e % 8 == 0

/-- A CLEAR in a wavefront goes to its element as pending; at a block's origin the switch keeps its place among the settings (02 R70). -/
def pendClear (k : District) (e : Nat) (s : State) : State :=
  let s1 := updElem s e (fun x => { x with pend := x.pend ++ [.clear] })
  if isOrigin e then pendSwitch k (elemBlock e) clearAll none s1 else s1

/-- CLEAR of the element at the cursor (02 R64, R69). -/
def cmdClear (k : District) (run : CfgRun) (s : State) : CmdRes :=
  match k.cursor with
  | none => .error 0x142
  | some (x, y) =>
    match cfgElem k x y with
    | .error c => .error c
    | .ok e =>
      if run.wave then .ok (pendClear k e s)
      else if (elem s e).running k then .error 0x148 else .ok (clearElem e false s)

/-- 02 R64, R70: a plane control command. ABANDON drops an open group at once, in a wavefront too (log entry 119). -/
def cmdControl (d : Nat) (k : District) (run : CfgRun) (w : Nat) (s : State) : CmdRes :=
  let op := nb w 29 26
  let x := nb w 25 0
  if op ≥ 6 ∨ (if op = 2 then x ≥ 256 else x ≠ 0) then .error 0x141
  else match op with
    | 1 =>
      if run.wave || k.staging.isSome then .error 0x145 else .ok (updDist s d (fun k => { k with staging := some [] }))
    | 2 =>
      if run.wave then .error 0x145
      else match k.staging with
        | none => .error 0x145
        | some l => .ok (updDist (commitGroup d l s) d (fun k => { k with cfg := k.cfg.map (fun r => { r with tag := x }) }))
    | 3 => .ok (updDist s d (fun k => { k with staging := none }))
    | 4 => .ok (updDist s d (fun k => { k with cfg := k.cfg.map (fun r => { r with wave := true }) }))
    | 5 => cmdClear k run s
    | _ => .ok s

/-! ## Reading the stream (06 R176) -/

/-- The word of a stream at an index: a value, a cause, or a wait for a page that moves. -/
def cfgWord (k : District) (run : CfgRun) (i : Nat) (s : State) : Gw Nat × State :=
  match ownerPlace s k.owner ((run.addr.toNat + 4 * i) % 2 ^ 56) needR with
  | (.error c, s1) => (.fault c, s1)
  | (.ok p, s1) =>
    if isHub p then (.fault 0x046, s1)
    else if (migAt s1 p).isSome then (.wait (some p), s1)
    else if isPeer p then
      let (l, s2) := peerBytes p 4 s1
      (if l.any Prod.snd then .fault 0x109 else .ok (leNat (l.map Prod.fst)), s2)
    else if placeReadPois s1 p 4 then (.fault 0x109, s1)
    else (.ok (leNat (placeRead s1 p 4)), s1)

/-- A waiting load starts behind the loads, and the `invoke`s that were issued before it (06 R173). -/
def startLoad (d : Nat) (s : State) : State :=
  updDist s d (fun k => match k.cfg, k.cfgq with
    | none, r :: rest =>
      if k.invs.any (fun v => !v.started && v.loads == 0) then k
      else { k with cfg := some r, cfgq := rest, cursor := none, step := 0 }
    | _, _ => k)

/-- The pending words that a district's elements and switches hold (02 R70): one for each command, a wide write's among them (log entry
120). -/
def pendWords (s : State) (k : District) : Nat :=
  s.elems.foldl (fun n p => if k.hasElem p.1 then n + p.2.pend.length else n) 0 +
  s.switches.foldl (fun n p => if k.rect.has p.1 then n + (p.2.pend.filter (fun x => x.1 != clearAll)).length else n) 0

/-- The load stops at a fault: an open group is abandoned (02 R65). -/
def cfgStop (d : Nat) (cause : BitVec 10) (index word read : Nat) (s : State) : State :=
  updDist s d (fun k => { k with
    staging := none, cfg := k.cfg.map (fun r => { r with fault := some (cause, index, word, read) }) })

/-- The kind of a command word (02 R60, R64): 0 plain, 1 cursor, 2 wide, 3 and the operation for a control command; a
reserved operation counts with NOP. -/
def cmdKind (w : Nat) : Nat := if w / 2 ^ 30 < 3 then w / 2 ^ 30 else if nb w 29 26 < 6 then 3 + nb w 29 26 else 3

/-- The next command of the load under way, if it is of a kind, takes its effect; the first word is read behind the thread's earlier accesses
(06 R171). -/
def command (kind d : Nat) (s0 : State) : State :=
  let s := startLoad d s0
  match mget? s.districts d with
  | none => s
  | some k =>
    match k.cfg with
    | none => s
    | some run =>
      if k.gated || run.fault.isSome || decide (run.pos ≥ run.len) || (run.pos == 0 && k.behind s) then s
      else match cfgWord k run run.pos s with
        | (.wait p, s1) => meetAt (.dist d) p s1
        | (.fault c, s1) => cfgStop d c run.pos 0 run.pos s1
        | (.ok w, s1) =>
          if cmdKind w ≠ kind then s1
          else if run.wave && decide (pendWords s1 k ≥ 4096) then s1
          else
            let fin := fun (n : Nat) (r : CmdRes) (s : State) => match r with
              | .error c => cfgStop d c run.pos w (run.pos + n) s
              | .ok s2 => updDist s2 d (fun k => { k with cfg := k.cfg.map (fun r => { r with pos := run.pos + n }) })
            match kind with
            | 0 => fin 1 (cmdPlain d k run w s1) s1
            | 1 => fin 1 (cmdCursor d k w s1) s1
            | 2 =>
              if run.pos + 1 ≥ run.len then cfgStop d 0x145 run.pos w (run.pos + 1) s1
              else match cfgWord k run (run.pos + 1) s1 with
                | (.wait p, s2) => meetAt (.dist d) p s2
                | (.fault c, s2) => cfgStop d c (run.pos + 1) 0 (run.pos + 1) s2
                | (.ok v, s2) => fin 2 (cmdWide d k run w v s2) s2
            | _ => fin 1 (cmdControl d k run w s1) s1

/-- 02 R61. -/
def execPlainWrite (d : Nat) (s : State) : Out := .next (command 0 d s)
/-- 02 R62. -/
def execSetElementCursor (d : Nat) (s : State) : Out := .next (command 1 d s)
/-- 02 R63. -/
def execWideWrite (d : Nat) (s : State) : Out := .next (command 2 d s)
/-- 02 R64; the reserved operations are refused here. -/
def execNop (d : Nat) (s : State) : Out := .next (command 3 d s)
/-- 02 R68. -/
def execStage (d : Nat) (s : State) : Out := .next (command 4 d s)
/-- 02 R68. -/
def execCommit (d : Nat) (s : State) : Out := .next (command 5 d s)
/-- 02 R64. -/
def execAbandon (d : Nat) (s : State) : Out := .next (command 6 d s)
/-- 02 R70. -/
def execWave (d : Nat) (s : State) : Out := .next (command 7 d s)
/-- 02 R64. -/
def execClear (d : Nat) (s : State) : Out := .next (command 8 d s)

/-! ## The end of a load (06 R176) -/

/-- The load's slot is free: what waited for it counts one less (06 R173). -/
def loadOver (d : Nat) (s : State) : State :=
  updDist s d (fun k => { k with
    cfg := none, invs := k.invs.map (fun v => { v with loads := v.loads - 1 }),
    seqq := k.seqq.map (fun q => { q with loads := q.loads - 1 }) })

/-- 06 R176. -/
def execCfgLoadEnd (d : Nat) (s : State) : Out :=
  .next (match mget? s.districts d with
    | none => s
    | some k =>
      match k.cfg with
      | none => s
      | some run =>
        if k.gated then s
        else
          let flt := match run.fault with
            | some f => some f
            | none => if k.staging.isSome && decide (run.pos ≥ run.len) then some (0x145, run.len, 0, run.len) else none
          match flt with
          | some (c, ix, w, n) =>
            let s1 := updDist (loadOver d s) d (fun k => { k with staging := none })
            raiseThread k.thread c (BitVec.ofNat 64 ix) 0
              (setCpl k.owner run.cpl (cplWord stFault c.toNat run.tag 0x01) n ix w s1)
          | none =>
            if run.pos < run.len then s
            else setCpl k.owner run.cpl (cplWord stDone 0 run.tag 0x01) run.len 0 0 (loadOver d s))

/-! ## Pending commands (09 R276) -/

/-- Has the context of a vector cell consumed its DONE of the invocation the cell takes part in? -/
def ctxOver (k : District) (x : Elem) (j : Nat) : Bool := !x.running k || x.fin || !x.actCtx.contains j || x.finCtx.contains j

/-- Does a pending command come before any write of context j that stands behind it? One for the context does, and a CLEAR, which is one for
every context. -/
def Pend.before (e j : Nat) (p : Pend) : Bool :=
  match p with
  | .clear => true
  | .write f _ => elemKind e == .vector && fieldCtx f == some j

def Pend.ctx (e : Nat) (p : Pend) : Option Nat :=
  match p with
  | .clear => none
  | .write f _ => if elemKind e = .vector then fieldCtx f else none

/-- Have the settings that stand ahead of a pending CLEAR of a block's origin applied (02 R70)? -/
def clearTurn (s : State) (e : Nat) : Bool :=
  !isOrigin e || (match (switch s (elemBlock e)).pend with
    | p :: _ => p.1 == clearAll
    | [] => true)

/-- A pending CLEAR applies: its place in the switch is free. -/
def applyClear (e : Nat) (keep : Bool) (s : State) : State :=
  let s1 := clearElem e keep s
  if isOrigin e then updSwitch s1 (elemBlock e) (fun w => { w with pend := w.pend.drop 1 }) else s1

/-- The index of the first pending command of an element that may apply now. -/
def readyPend (s : State) (k : District) (e : Nat) (x : Elem) : Option Nat :=
  (List.range x.pend.length).find? (fun i =>
    let p := x.pend.getD i .clear
    match p.ctx e with
    | some j => ctxOver k x j && !(x.pend.take i).any (Pend.before e j)
    | none => i == 0 && (!x.running k || x.over) && (p != .clear || clearTurn s e))

/-- 09 R276. -/
def execPendingCommandApply (e : Nat) (s : State) : Out :=
  .next (match distOf s e with
    | none => s
    | some (_, k) =>
      let x := elem s e
      if k.gated then s
      else match readyPend s k e x with
        | none => s
        | some i =>
          let rest := listDel x.pend i
          match x.pend.getD i .clear with
          | .write f v => updElem s e (fun x => (x.setField e f v) |> (fun x => { x with pend := rest }))
          | .clear => updElem (applyClear e (x.running k) s) e (fun x => { x with pend := rest }))

end Sys2Proof.Machine
end

