-- ==== Sys2Proof/Machine/District.lean ====
section
/-! DEFINITION. The district commands of major 0x41: acquiring and releasing a district, configuration, invocations, the
context counter, milestones and teardown (06 R173 to R182; 09 R256; 12 R321; 17 R402). -/

namespace Sys2Proof.Machine

/-! ## Blocks (06 R174; 12 R321; 17 R402) -/

/-- Is a block withheld after its element was retired (17 R402)? -/
def withheld (s : State) (b : Nat) : Bool :=
  (mget (quarter s (blockQ b)).wheld (blockY b) 0).toNat.testBit (physCol s (blockQ b) (blockX b))

/-- The rectangles that the hub has reserved and no task has taken (12 R321). -/
def reservations (s : State) : List Rect := s.cores.filterMap (fun p => p.2.t.task.bind (fun t => t.reserved))

def blockFree (s : State) (b : Nat) : Bool :=
  (districtAt s b).isNone && !withheld s b && !(reservations s).any (fun r => r.has b)

/-- The rectangles of a shape in the order of first fit: quarter, block row, block column. `place` is PLACE with its
quarter and origin. -/
def rectsAt (place qu by_ bx h w : Nat) : List Rect :=
  if place = 2 then [⟨qu, by_, bx, h, w⟩]
  else (if place = 1 then [qu] else [0, 1, 2, 3]).flatMap (fun q =>
    (List.range (26 - h)).flatMap (fun y => (List.range (26 - w)).map (fun x => ⟨q, y, x, h, w⟩)))

def inZone (s : State) (z : Nat) (r : Rect) : Bool := r.blocks.all (fun b => zoneOf s b == z)
def rectFree (s : State) (r : Rect) : Bool := r.blocks.all (blockFree s)

/-- The first rectangle of the zone whose blocks are free. -/
def firstFit (s : State) (z : Nat) (l : List Rect) : Option Rect := l.find? (fun r => inZone s z r && rectFree s r)

/-! ## dacq (06 R174) -/

/-- The districts of a gang, saved ones among them (09 R256). -/
def gangSize (s : State) (asid : BitVec 16) (g : Nat) : Nat :=
  (s.districts.filter (fun p => p.2.gang == g && p.2.asid == asid)).length +
  (s.saved.filter (fun t => t.dist.any (fun k => k.gang == g && k.asid == asid))).length

/-- A district as it is acquired. -/
def newDistrict (s : State) (r : Rect) (gang : Nat) : District :=
  { rect := r, thread := (th s).id, core := s.cur, asid := (th s).asid, supv := (th s).status.supv, gang := gang,
    ctxPos := 0, ctxLen := 1, ctxRun := false, tick := 1, ctxNext := none, cursor := none, step := 0, staging := none, cfg := none,
    cfgq := [], board := [], seqq := [], invs := [], lastWave := 0, miles := [], complete := 0, tdown := none, hold := [],
    gated := false, stall := 0, faultMark := [], pushOpen := [], pushMile := [], fcFired := false, snaps := [], undo := [], canRoll := true,
    errAt := none, rolled := false, needRoll := false, faultDue := none, snapStall := [], errPois := false, pushDone := [], pushLog := [], pulled := [], pullDrop := [] }

/-- Every element and switch of a rectangle at its reset state. -/
def wipeRect (r : Rect) (s : State) : State :=
  freeTracks { s with
    elems := s.elems.filter (fun p => !r.has (elemBlock p.1)),
    switches := s.switches.filter (fun p => !r.has p.1) }

def dropReserved (s : State) : State :=
  updMe s (fun t => { t with task := t.task.map (fun k => { k with reserved := none }) })

/-- The word that names a placed district. -/
def rectWord (r : Rect) : Word := BitVec.ofNat 64 (r.q * 65536 + r.by_ * 256 + r.bx)

/-- The thread takes a rectangle as its district. -/
def takeRect (rd : Nat) (r : Rect) (gang : Nat) (s : State) : State :=
  let s1 := wipeRect r (dropReserved s)
  let s2 := { s1 with districts := mset s1.districts s1.nextId (newDistrict s1 r gang), nextId := s1.nextId + 1 }
  retX rd (rectWord r) (updMe s2 (fun t => { t with q := [], district := some s1.nextId }))

/-- The reserved rectangle that a `dacq` takes (12 R321). -/
def reservedFor (s : State) (a : Word) : Option Rect :=
  match ((th s).task.bind (fun t => t.reserved)) with
  | none => none
  | some r =>
    let place := bits a 9 8
    if r.h = bits a 6 4 + 1 ∧ r.w = bits a 2 0 + 1 ∧ (place = 0 ∨ (place = 1 ∧ bits a 13 12 = r.q)) then some r else none

/-- The rectangles that X[RA] of a `dacq` allows. -/
def dacqRects (a : Word) : List Rect :=
  rectsAt (bits a 9 8) (bits a 13 12) (bits a 28 24) (bits a 20 16) (bits a 6 4 + 1) (bits a 2 0 + 1)

/-- The effect of a `dacq` that has passed its checks: a result in X[RD], or a wait. -/
def dacqPlace (rd : Nat) (a : Word) (gang : Nat) (s : State) : State :=
  let z := spaceZone s (th s).asid.toNat
  let full := decide (gang ≠ 0 ∧ gangSize s (th s).asid gang ≥ 64)
  match reservedFor s a with
  | some r => if full then retX rd (2 ^ 63 + 3) s else takeRect rd r gang s
  | none =>
    if !(dacqRects a).any (inZone s z) then retX rd (2 ^ 63 + 2) (dropReserved s)
    else if full then retX rd (2 ^ 63 + 3) (dropReserved s)
    else
      let s1 := dropReserved s
      match firstFit s1 z (dacqRects a) with
      | some r => takeRect rd r gang s1
      | none => if bit a 31 then await .dacq s1 else retX rd (2 ^ 63 + 1) s1

/-- DISTSHAPE (06 R174). -/
def dacqBad (a b : Word) : Bool :=
  bits a 63 32 != 0 || bits a 30 29 != 0 || bits a 23 21 != 0 || bits a 15 14 != 0 || bits a 11 10 != 0 || bit a 7 || bit a 3 ||
  bits b 63 16 != 0 || bits a 9 8 == 3 || decide (bits a 20 16 + bits a 2 0 + 1 > 25) || decide (bits a 28 24 + bits a 6 4 + 1 > 25)

/-- The checks of a `dacq`, then its effect. -/
def dacqRun (rd ra rb : Nat) (s : State) : State :=
  let a := rx s ra
  if (th s).district.isSome then trap 0x149 a s
  else if dacqBad a (rx s rb) then trap 0x14B a s
  else dacqPlace rd a (bits (rx s rb) 15 0) s

/-- 06 R174. -/
def execDacq (rd ra rb g : Nat) (s : State) : Out := issue g 4 [ra, rb] s (noTx (dacqRun rd ra rb))

/-- 06 R174: a waiting `dacq` takes its blocks once they are free. -/
def execDacqWaitGrant (c : Nat) (s : State) : Out :=
  .next (if (thr s c).wait = .dacq ∧ runsNow s c then
      match fetchInstr s c with
      | (.ok (.dacq rd ra rb _), s1) =>
        let s2 := dacqPlace rd (rx { s1 with cur := c } ra) (bits (rx { s1 with cur := c } rb) 15 0) { s1 with cur := c }
        if (thr s2 c).wait = .dacq then s else s2
      | _ => s
    else s)

/-! ## drel (06 R175) -/

/-- Does an identifier of a block name a track to or from a block of a rectangle? -/
def leadsInto (r : Rect) (b i : Nat) : Bool :=
  idClass i != 3 && (match across b i with
    | some (nb, _, _) => r.has nb
    | none => false)

/-- A switch without the settings that drive a track into a rectangle, or source one out of it, and without the tokens on those tracks (09
R257). -/
def cutRoutes (r : Rect) (b : Nat) (w : Switch) : Switch :=
  { w with
    drive := ((w.drive.filter (fun p => !leadsInto r b p.1)).map (fun p => (p.1, p.2.filter (fun x => !leadsInto r b x)))).filter
      (fun p => !p.2.isEmpty),
    hop := w.hop.filter (fun p => !leadsInto r b p.1),
    burst := w.burst.filter (fun p => !leadsInto r b p.1 && !leadsInto r b p.2.1),
    pend := w.pend.filter (fun p => p.1 == clearAll || !(leadsInto r b p.1 || p.2.1.any (leadsInto r b))) }

/-- The district of a thread is given up: its blocks are free, its elements in the pool, the thread's handles unbound, and every setting of
its gang that leads into its blocks or out of them cleared (06 R175; 09 R257). A milestone that still waits for the next invocation goes
with the district, and its completion object is never set (log entry 130). -/
def freeDistrict (d : Nat) (s : State) : State :=
  match mget? s.districts d with
  | none => s
  | some k =>
    let s1 := wipeRect k.rect { s with
      districts := mdel s.districts d,
      switches := s.switches.map (fun p => if k.rect.has p.1 then p else (p.1, cutRoutes k.rect p.1 p.2)),
      tagq := s.tagq.filter (fun w => match w.who with
        | .node e _ => !k.hasElem e
        | _ => true) }
    updThread s1 k.thread (fun t => { t with district := none, q := [] })

/-- Is any `cfg.load` of a district not completed? -/
def District.loading (k : District) : Bool := k.cfg.isSome || !k.cfgq.isEmpty

def District.busy (k : District) : Bool := !k.invs.isEmpty || k.loading || !k.seqq.isEmpty || !k.board.isEmpty

/-- An instruction that needs the thread's district: DISTNONE without one (06 R173). -/
def withDist (s : State) (f : Nat → District → State → State) : State :=
  match myDist s with
  | none => trap 0x14A 0 s
  | some (d, k) => f d k s

/-- 06 R175. It is applied behind an earlier `tdown` (06 R173, R181). -/
def execDrel (g : Nat) (s : State) : Out :=
  issue g 4 [] s (noTx (fun s => withDist s (fun d k s =>
    if k.busy then trap 0x14C 0 s else if k.tdown.isSome then spin false s else advance 4 (freeDistrict d s))))

/-! ## Configuration (06 R176, R177) -/

/-- 06 R176. The stream's address is that of an R-format operand: its top byte is ignored (05 R138). -/
def execCfgLoad (rd ra rb g : Nat) (s : State) : Out :=
  issue g 4 [rd, ra, rb] s (noTx (fun s => issueCpl (rx s rd) s (fun s =>
    match myDist s with
    | none => (.cause 0x14A 0, s)
    | some (d, k) =>
      let a := rx s ra
      let va := addr56 a
      let n := (rx s rb).toNat
      if va % 4 ≠ 0 ∨ ¬ (region va = 0 ∨ region va = 2) ∨ n = 0 ∨ n > 2 ^ 24 then (.cause 0x14D a, s)
      else if k.tdown.isSome then (.wait, s)
      else
        let run : CfgRun := ⟨rx s rd, BitVec.ofNat 64 va, n, 0, 0, false, none⟩
        (.send (fun s => advance 4 (updDist s d (fun k => { k with cfgq := k.cfgq ++ [run] }))), s))))

/-- Has every earlier district command of the thread been applied (06 R173)? -/
def District.caughtUp (k : District) : Bool := !k.loading && k.invs.all (fun v => v.started || v.loads != 0) && k.tdown.isNone

/-- The effect of a `cfg.const` whose turn has come (06 R177). -/
def constApply (d : Nat) (k : District) (a : Word) (v : W32) (s : State) : State :=
  let e := k.rect.elem (bits a 5 0) (bits a 11 6)
  let f := 0xC0 + bits a 15 12
  let l := k.staging.getD []
  match bits a 17 16 with
  | 0 => advance 4 (setField e f v s)
  | 1 => if l.length ≥ 64 then trap 0x147 a s else advance 4 (updDist s d (fun k => { k with staging := some (l ++ [(e, f, v)]) }))
  | 2 => if l.length ≥ 64 then trap 0x147 a s else advance 4 (commitGroup d (l ++ [(e, f, v)]) s)
  | _ => advance 4 (updDist s d (fun k => { k with staging := none }))

def constRun (ra rb : Nat) (s : State) : State :=
  withDist s (fun d k s =>
    let a := rx s ra
    if bits a 63 32 ≠ 0 ∨ bits a 23 18 ≠ 0 then trap 0x141 a s
    else match cfgElem k (bits a 5 0) (bits a 11 6) with
      | .error c => trap c a s
      | .ok _ => if k.caughtUp && !k.gated then constApply d k a (lo32 (rx s rb)) s else await .cfgConst s)

/-- 06 R177. -/
def execCfgConst (ra rb g : Nat) (s : State) : Out := issue g 4 [ra, rb] s (noTx (constRun ra rb))

/-- 06 R177: a waiting `cfg.const` is applied after the earlier commands. -/
def execCfgConstApply (c : Nat) (s : State) : Out :=
  .next (if (thr s c).wait = .cfgConst ∧ runsNow s c then
      match fetchInstr s c with
      | (.ok (.cfgConst ra rb _), s1) => constRun ra rb { s1 with cur := c }
      | _ => s
    else s)

/-! ## invoke (06 R178) -/

/-- The label of a token as the next invocation takes its number (09 R265). -/
def startLabel (i n : Nat) : Nat := if n = 0 then i else if n = 2 ^ 40 + 1 then 0 else if n > 2 ^ 40 then n - 1 else n

def Elem.relabel (f : Nat → Nat) (x : Elem) : Elem :=
  let m := fun (l : SMap (List Token)) => l.map (fun p => (p.1, p.2.map (fun t => { t with inv := f t.inv })))
  { x with inB := m x.inB, outB := m x.outB, outL := m x.outL, ctB := x.ctB.map (fun p => (p.1, p.2.map (fun t => (t.1, f t.2)))) }

/-- Relabels the tokens that wait in a district for an invocation to start. -/
def relabelDist (d i : Nat) (s : State) : State :=
  match mget? s.districts d with
  | none => s
  | some k =>
    let f := startLabel i
    let m := fun (l : SMap (List Token)) => l.map (fun p => (p.1, p.2.map (fun t => { t with inv := f t.inv })))
    let s1 := { s with
      elems := s.elems.map (fun p => if k.hasElem p.1 then (p.1, p.2.relabel f) else p),
      switches := s.switches.map (fun p => if k.rect.has p.1 then (p.1, { p.2 with
        hop := m p.2.hop, burst := p.2.burst.map (fun b => (b.1, (b.2.1, f b.2.2))),
        passed := p.2.passed.map (fun x => (x.1, f x.2)), dropped := p.2.dropped.map (fun x => (x.1, f x.2)) }) else p) }
    updDist s1 d (fun k => { k with
      pushDone := k.pushDone.map (fun p => (p.1, p.2.1, f p.2.2)), pushLog := m k.pushLog })

/-- The invocation that an `invoke` makes: its bound is CC_TAGWAIT's as it stands (09 R262), its tensor entries those of its space (06 R188). -/
def newInv (s : State) (k : District) (xc it xf : Word) : Inv :=
  { id := s.nextInv, iter := it, seg := bit xf 0, nan := bits xf 2 1, cpl := xc, bound := (th s).tagwait, started := false,
    atOnce := false, loads := (if k.cfg.isSome then 1 else 0) + k.cfgq.length, nans := 0, infs := 0, ovfs := 0, tdown := false,
    lost := false, tid := spaceTids s k.asid.toNat }

/-- 06 R178: a third invocation waits. -/
def execInvoke (rd ra rb g : Nat) (s : State) : Out :=
  issue g 4 [rd, ra, rb] s (noTx (fun s => issueCpl (rx s rd) s (fun s =>
    match myDist s with
    | none => (.cause 0x14A 0, s)
    | some (d, k) =>
      let f := rx s rb
      if bits f 2 1 = 1 ∨ bits f 63 3 ≠ 0 then (.cause 0x14F f, s)
      else if k.invs.length ≥ 2 ∨ k.tdown.isSome then (.wait, s)
      else
        let v := newInv s k (rx s rd) (rx s ra) f
        (.send (fun s => advance 4 (relabelDist d v.id
          (updDist { s with nextInv := s.nextInv + 1 } d (fun k => { k with invs := k.invs ++ [v] })))), s))))

/-! ## The context counter (06 R179) -/

/-- 06 R179: the counter takes its position at the end of the fc. -/
def execCtxset (ra g : Nat) (s : State) : Out :=
  issue g 4 [ra] s (noTx (fun s => withDist s (fun d k s =>
    let a := rx s ra
    if bits a 7 4 > 11 ∨ bits a 3 0 > bits a 7 4 ∨ bits a 63 9 ≠ 0 then trap 0x14F a s
    else if !k.caughtUp then spin false s
    else advance 4 (updDist s d (fun k => { k with ctxNext := some (bits a 3 0, bits a 7 4 + 1, bit a 8) })))))

/-- 06 R179: once in each fc the running counter goes on, at its end; a `ctxset` of the same fc comes before it. -/
def execContextCounterAdvance (d : Nat) (s : State) : Out :=
  .next (match mget? s.districts d with
    | none => s
    | some k =>
      if !k.ctxRun || k.gated || k.ctxNext.isSome then s
      else updDist s d (fun k => { k with ctxNext := some ((k.ctxPos + 1) % k.ctxLen, k.ctxLen, k.ctxRun) }))

/-! ## Milestones (06 R180) -/

/-- The MILESTONE of a wave at a push endpoint, in an invocation. The spec states no CH of it (log entry 28). -/
def mileTok (k : District) (x : Elem) (e port i w : Nat) : Token :=
  { plainTok (linkVec (x.inWord port)) 9 (openChAt k (((k.running).map (fun v => v.iter)).getD 0) e (48 + port) w) false w with inv := i }

/-- Changes the tokens that wait at a push endpoint, and in the same way those logged for a rollback (17 R398), of which there are 256. -/
def onLink (d e port : Nat) (f : List Token → List Token) (s : State) : State :=
  updDist (updElem s e (fun x => { x with inB := mset x.inB port (f (mget x.inB port [])) })) d (fun k =>
    let l := f (mget k.pushLog (e * 4 + port) [])
    { k with pushLog := mset k.pushLog (e * 4 + port) l, canRoll := k.canRoll && decide (l.length ≤ 256) })

/-- A MILESTONE behind the tokens that wait at a push endpoint. -/
def mileBehind (d : Nat) (k : District) (e port i w : Nat) (s : State) : State :=
  onLink d e port (fun l => l ++ [mileTok k (elem s e) e port i w]) s

/-- A MILESTONE at a push endpoint at the start of the next invocation, behind those already there; an endpoint has one of each wave. -/
def mileFirst (d : Nat) (k : District) (e port w : Nat) (s : State) : State :=
  if (mget (elem s e).inB port []).any (fun t => t.kind == 9 && t.val.toNat == w) then s
  else onLink d e port (fun l =>
    l.takeWhile (fun t => t.kind == 9) ++ mileTok k (elem s e) e port (upcoming 0) w :: l.dropWhile (fun t => t.kind == 9)) s

/-- A MILESTONE at a push endpoint ahead of the next token that is pushed: behind an open tile burst (02 R52), or, with no invocation
running, at the start of the next one. A link that has carried the DONE of the running invocation is none of its sources any more. -/
def pushMile (d e port w : Nat) (s : State) : State :=
  match mget? s.districts d with
  | none => s
  | some k =>
    match k.running with
    | none => mileFirst d k e port w s
    | some v =>
      if k.streamInv e port ≠ v.id then s
      else if k.pushOpen.contains (e, port) then updDist s d (fun k => { k with pushMile := k.pushMile ++ [(e, port, w)] })
      else mileBehind d k e port v.id w s

/-- The handles that push into a district. -/
def pushHandles (s : State) (k : District) : List Handle :=
  match threadOf s k.thread with
  | some t => (t.q.map Prod.snd).filter (fun h => !h.pull)
  | none => []

/-- 06 R180. -/
def execMstone (rd ra g : Nat) (s : State) : Out :=
  issue g 4 [rd, ra] s (noTx (fun s => issueCpl (rx s rd) s (fun s =>
    match myDist s with
    | none => (.cause 0x14A 0, s)
    | some (d, k) =>
      let a := rx s ra
      if bits a 63 32 ≠ 0 ∨ a.toNat ≤ k.lastWave then (.cause 0x14F a, s)
      else if !k.caughtUp then (.wait, s)
      else (.send (fun s =>
        let s1 := (pushHandles s k).foldl (fun s h => pushMile d h.elem h.port a.toNat s) s
        advance 4 (updDist s1 d (fun k => { k with
          lastWave := a.toNat, miles := k.miles ++ [⟨a.toNat, rx s rd, k.running.isNone, false⟩] }))), s))))

/-! ## Teardown and drain (06 R181, R182) -/

/-- 06 R181: the sources of the last invocation close it with TD = 1. -/
def execTdown (rd g : Nat) (s : State) : Out :=
  issue g 4 [rd] s (noTx (fun s => issueCpl (rx s rd) s (fun s =>
    match myDist s with
    | none => (.cause 0x14A 0, s)
    | some (d, k) =>
      if !k.caughtUp then (.wait, s)
      else (.send (fun s => advance 4 (updDist s d (fun k => { k with
        tdown := some (rx s rd),
        invs := k.invs.dropLast ++ (k.invs.getLast?.map (fun v => { v with tdown := true })).toList }))), s))))

/-- An element in the pool; tokens in a link bound for `pull` stay (09 R265). -/
def poolElem (s : State) (k : District) (e : Nat) : Elem :=
  { Elem.reset with outB := (elem s e).outB.filter (fun p => handleAt s k e p.1 true) }

/-- 06 R181: with no invocation left the controller clears every element, and the teardown is complete. -/
def execTdownComplete (d : Nat) (s : State) : Out :=
  .next (match mget? s.districts d with
    | none => s
    | some k =>
      match k.tdown with
      | none => s
      | some xc =>
        if !k.invs.isEmpty || k.gated then s
        else
          let kept := (distElems s k).map (fun e => (e, poolElem s k e))
          let s1 := kept.foldl (fun s p => if p.2.outB.isEmpty then s else setElem s p.1 p.2) (wipeRect k.rect s)
          setCpl k.owner xc (cplWord stDone 0 0 0x04) 0 0 0 (updDist s1 d (fun k => { k with tdown := none })))

/-- Does any buffer of a district hold a token? -/
def anyToken (s : State) (k : District) : Bool :=
  (distElems s k).any (fun e =>
    let x := elem s e
    x.inB.any (fun p => !p.2.isEmpty) || x.outB.any (fun p => !p.2.isEmpty) || x.outL.any (fun p => !p.2.isEmpty) ||
    x.ctB.any (fun p => !p.2.isEmpty)) ||
  s.switches.any (fun w => k.rect.has w.1 && w.2.hop.any (fun h => !h.2.isEmpty))

/-- 06 R182: it then acts as `fence.dist` (05 R156). -/
def execDrain (g : Nat) (s : State) : Out :=
  issue g 4 [] s (noTx (fun s => withDist s (fun _ k s =>
    if k.busy || k.tdown.isSome || anyToken s k || pendWords s k != 0 then spin false s else releasing 1 [] s (advance 4))))

end Sys2Proof.Machine
end

