-- ==== Sys2Proof/Machine/Streams.lean ====
section
/-! DEFINITION. Stream handles: `sbind`, `push` and `pull` (06 R183 to R185; 02 R45, R46). -/

namespace Sys2Proof.Machine

/-- The identifier of a data port's link in its block's switch: outputs and inputs of one number share it (02 R57). -/
def portNamed (s : State) (e port : Nat) (pull : Bool) : Bool :=
  let b := elemBlock e
  let i := linkId (elemY e % 8 * 8 + elemX e % 8) port
  if pull then !((switch s b).dests i).isEmpty else !((switch s b).sources i).isEmpty

/-- QBIND (06 R183): the handle that X[RA] makes, if it may be bound. -/
def bindHandle (s : State) (k : District) (h : Nat) (a : Word) : Option Handle :=
  let pull := bit a 14
  let port := bits a 13 12
  match cfgElem k (bits a 5 0) (bits a 11 6) with
  | .error _ => none
  | .ok e =>
    let x := elem s e
    let w := if pull then x.outWord port else x.inWord port
    let other := (th s).q.any (fun q => q.1 != h && q.2.elem == e && q.2.port == port && q.2.pull == pull)
    if bits a 62 15 ≠ 0 ∨ w % 4 ≠ 1 ∨ portNamed s e port pull ∨ other then none
    else some ⟨e, port, pull, linkVec w, linkImage w⟩

/-- A push endpoint that is bound while no invocation runs has the milestones of the waves asked for since the last one, in their order
(06 R180). -/
def bindMiles (d : Nat) (k : District) (h : Handle) (s : State) : State :=
  if h.pull || k.running.isSome then s
  else (k.miles.filter (fun m => m.early)).foldl (fun s m => mileFirst d k h.elem h.port m.wave s) s

/-- 06 R183. -/
def execSbind (rd ra g : Nat) (s : State) : Out :=
  issue g 4 [ra] s (noTx (fun s => withDist s (fun d k s =>
    let a := rx s ra
    if bit a 63 then
      (if a.toNat ≠ 2 ^ 63 then trap 0x184 a s else advance 4 (updMe s (fun t => { t with q := mdel t.q rd })))
    else match bindHandle s k rd a with
      | none => trap 0x184 a s
      | some h => advance 4 (updMe (bindMiles d k h s) (fun t => { t with q := mset t.q rd h })))))

/-! ## push (06 R184) -/

/-- Does a header or a payload break R46 (06 R184 step 2)? `v` is X[RA]. -/
def pushBad (h : Handle) (v hd : Word) : Bool :=
  let kind := bits hd 3 0
  bits hd 63 32 != 0 || bits hd 15 8 != 0 || decide (kind ≥ 12) ||
  (bits hd 31 16 != 0 && !(h.vec && kind == 0)) ||
  (decide (1 ≤ kind ∧ kind ≤ 7) && bits v 31 0 != 0) || (kind == 8 && bits v 31 1 != 0)

/-- The token that a `push` sends. -/
def pushToken (h : Handle) (hd : Word) (pay : Nat) : Token :=
  ⟨h.vec, bits hd 3 0, bits hd 7 4, 0, if h.vec ∧ bits hd 3 0 = 0 then (if h.image then 0xFFFF else BitVec.ofNat 16 (bits hd 31 16)) else 0,
   BitVec.ofNat 512 pay, 0, 0, []⟩

/-- The check of a payload address: hole and window, alignment, translation (06 R184 step 3, R185). -/
def payloadPlace (s : State) (a : Nat) (n : Need) : Acc × State :=
  if ¬ (region a = 0 ∨ region a = 2) then (.fault 0x106 (BitVec.ofNat 64 a), s)
  else if a % 64 ≠ 0 then (.fault 0x104 (BitVec.ofNat 64 a), s)
  else
    match access s s.cur a 64 n false with
    | (.ok ps, s1) => if isHub (ps.headD (.dev 0)) then (.fault 0x046 (BitVec.ofNat 64 a), s1) else (.ok ps, s1)
    | r => r

/-- A HEAD opens a tile burst in a link, and its TAIL closes it, as a DONE does; the milestones that waited for that stand behind it (02 R52). A
DONE stays behind them. -/
def closeBurst (d : Nat) (h : Handle) (i : Nat) (s : State) : State :=
  match mget? s.districts d with
  | none => s
  | some k =>
    let (mine, rest) := k.pushMile.partition (fun p => p.1 == h.elem && p.2.1 == h.port)
    mine.foldl (fun s p => mileBehind d k p.1 p.2.1 i p.2.2 s)
      (updDist s d (fun k => { k with pushMile := rest, pushOpen := k.pushOpen.filter (fun p => p != (h.elem, h.port)) }))

/-- The token enters the link, in the invocation to which it belongs, and is logged for a rollback (09 R265; 17 R398). -/
def enterToken (d : Nat) (h : Handle) (t : Token) (s : State) : State :=
  let (t1, s0) := enterStream d h.elem h.port t s
  let s1 := if t1.kind = 8 then closeBurst d h t1.inv s0 else s0
  let s2 := onLink d h.elem h.port (fun l => l ++ [t1]) s1
  if t1.kind = 10 then updDist s2 d (fun k => { k with pushOpen := k.pushOpen ++ [(h.elem, h.port)] })
  else if t1.kind = 11 then closeBurst d h t1.inv s2 else s2

/-- A token waits for a free entry, or enters. -/
def pushEnter (h : Handle) (t : Token) (s : State) : State :=
  match myDist s with
  | none => spin true s
  | some (d, k) =>
    if k.gated || decide ((mget (elem s h.elem).inB h.port []).length ≥ 4) then spin true s else advance 4 (enterToken d h t s)

/-- 06 R184. -/
def execPush (rd ra rb g : Nat) (s : State) : Out :=
  issue g 4 [ra, rb] s (noTx (fun s =>
    let v := rx s ra
    let hd := rx s rb
    let tv := BitVec.ofNat 64 rd
    match mget? (th s).q rd with
    | none => trap 0x185 tv s
    | some h =>
      if h.pull then trap 0x186 tv s
      else if pushBad h v hd then trap 0x187 hd s
      else if h.vec && bits hd 3 0 == 0 then
        match payloadPlace s (addr56 v) needR with
        | (.fault c t, s1) => trap c t s1
        | (.ok ps, s1) =>
          let p := ps.headD (.dev 0)
          if (migAt s1 p).isSome then spinMoved true p s1
          else if ownPending s1 (addr56 v) 64 then spin true s1
          else
            let (bs, pois, s2) := if isPeer p then peerLine p s1 else (readPlaces s1 ps, placeReadPois s1 p 64, s1)
            if pois then trap 0x109 (BitVec.ofNat 64 (addr56 v)) s2 else pushEnter h (pushToken h hd (leNat bs)) s2
      else pushEnter h (pushToken h hd (bits v 31 0)) s))

/-! ## pull (06 R185) -/

/-- The 41 bits of a scalar token (02 R45). -/
def scalarWord (t : Token) : Nat :=
  t.pay.toNat % 2 ^ 32 + t.ch * 2 ^ 32 + t.p.toNat % 2 * 2 ^ 36 + t.kind * 2 ^ 37

/-- Bits [551:512] of a vector token (02 R45). -/
def vectorWord (t : Token) : Nat := t.lv.toNat + t.p.toNat * 2 ^ 16 + t.ch * 2 ^ 32 + t.kind * 2 ^ 36

/-- The payload of a vector token is stored; a lane whose P bit is set as poisoned data (06 R185; 17 R394). -/
def storePayload (p : Place) (t : Token) (s : State) : State :=
  let word := fun l => toBytes 4 (t.pay.toNat / 2 ^ (32 * l) % 2 ^ 32)
  match p with
  | .dev _ => placeWrite s p ((List.range 16).flatMap word) (t.p != 0)
  | _ => (List.range 16).foldl (fun s l => placeWrite s (p.plus (4 * l)) (word l) (t.p.toNat.testBit l)) s

/-- The 16 lanes of a payload. -/
def Token.lanes (t : Token) : List W32 := (List.range 16).map (fun l => BitVec.ofNat 32 (t.pay.toNat / 2 ^ (32 * l)))

/-- 64 bytes stored by the current thread at a peer, with the lanes that are poisoned data: over the cached line of its page, or posted. -/
def storeLine (p : Place) (a : Nat) (bs : List Byte) (pois : List Bool) (s : State) : State :=
  match lcOverwrite p bs pois s with
  | some s1 => s1
  | none => postWords p a ((List.range 16).map (fun i => BitVec.ofNat 32 (leNat ((bs.drop (4 * i)).take 4)))) (pois.contains true) s

/-- The head of a pull link: after a rollback the tokens already pulled are dropped first (17 R398). -/
def pullHead (d : Nat) (h : Handle) (s : State) : Option (Token × State) :=
  let key := h.elem * 4 + h.port
  let drop := ((mget? s.districts d).map (fun k => mget k.pullDrop key 0)).getD 0
  let l := mget (elem s h.elem).outB h.port []
  match l.drop drop with
  | [] => none
  | t :: rest =>
    let s1 := updElem s h.elem (fun x => { x with outB := mset x.outB h.port rest })
    some (t, updDist s1 d (fun k => { k with
      pullDrop := mdel k.pullDrop key, pulled := if k.invs.isEmpty then k.pulled else mset k.pulled key (mget k.pulled key 0 + drop + 1) }))

/-- Tokens that a rollback re-makes and the thread already has are dropped as they come. -/
def dropPulled (d : Nat) (h : Handle) (s : State) : State :=
  let key := h.elem * 4 + h.port
  let drop := ((mget? s.districts d).map (fun k => mget k.pullDrop key 0)).getD 0
  let l := mget (elem s h.elem).outB h.port []
  let n := min drop l.length
  if n = 0 then s
  else
    let s1 := updElem s h.elem (fun x => { x with outB := mset x.outB h.port (l.drop n) })
    updDist s1 d (fun k => { k with
      pullDrop := mset k.pullDrop key (drop - n), pulled := mset k.pulled key (mget k.pulled key 0 + n) })

/-- 06 R185. -/
def execPull (rd ra rb g : Nat) (s : State) : Out :=
  issue g 4 [rb] s (noTx (fun s =>
    let tv := BitVec.ofNat 64 ra
    match mget? (th s).q ra with
    | none => trap 0x185 tv s
    | some h =>
      if !h.pull then trap 0x186 tv s
      else if !h.vec && rb != 0 then trap 0x001 (BitVec.ofNat 64 ((encode (.pull rd ra rb g)).headD 0)) s
      else
        let a := addr56 (rx s rb)
        let (acc, s1) := if h.vec then payloadPlace s a needW else (.ok [], s)
        match acc with
        | .fault c t => trap c t s1
        | .ok ps =>
          match myDist s1 with
          | none => spin true s1
          | some (d, k) =>
            let p := ps.headD (.dev 0)
            if h.vec && (migAt s1 p).isSome then spinMoved true p s1
            else if k.gated || (h.vec && ownPending s1 a 64) then spin true s1
            else
              let s2 := dropPulled d h s1
              match pullHead d h s2 with
              | none => spin true s2
              | some (t, s3) =>
                if h.vec then
                  let s4 := if isPeer p then storeLine p a (t.lanes.flatMap (fun w => toBytes 4 w.toNat)) ((List.range 16).map t.p.toNat.testBit) s3 else storePayload p t s3
                  retX rd (BitVec.ofNat 64 (vectorWord t)) s4
                else retX rd (BitVec.ofNat 64 (scalarWord t)) s3))

/-- The handle that a waiting push or pull of core c names. -/
def streamAt (s : State) (c : Nat) : Option Nat :=
  match (fetchInstr s c).1 with
  | .ok (.push rd _ _ _) => some rd
  | .ok (.pull _ ra _ _) => some ra
  | _ => none

/-- 06 R184: the wait overruns CC_TAGWAIT.BOUND. -/
def execStreamWaitTimeout (c : Nat) (s : State) : Out :=
  .next (if (thr s c).wait = .again true ∧ overrun s c then
      match streamAt s c with
      | some h => trapCore c 0x188 (BitVec.ofNat 64 h) s
      | none => s
    else s)

end Sys2Proof.Machine
end

