-- ==== Sys2Proof/Machine/Tid.lean ====
section
/-! DEFINITION. Tensor-identifier entries: major 0x45 (06 R186 to R188). -/

namespace Sys2Proof.Machine

/-- Does an image of level arrays break R187? -/
def levelsBad (ws : List Word) : Bool :=
  (List.range 8).any (fun j => let w := ws.getD j 0; bits w 63 56 != 0 || bits w 1 0 != (if j = 0 then 2 else 0))

/-- Is a field of a tensor's image outside its range (06 R186; 01 R21)? -/
def tensorBad (ws : List Word) : Bool :=
  let e := Ent.ofWords ws
  let w (i : Nat) : Word := ws.getD i 0
  bits (w 0) 63 48 != 0 || bits (w 0) 31 27 != 0 || bits (w 0) 15 9 != 0 || decide (e.lt1 > 39 ∨ e.lt0 > 31) ||
  (List.range 4).any (fun d => e.level d == 3) ||
  bits (w 1) 63 56 != 0 || bits (w 2) 63 56 != 0 || decide (e.sbase % (if e.fmt = 0x19 then 4 else 2) ≠ 0) ||
  decide (e.d0 = 0 ∨ e.d1 = 0 ∨ e.d2 = 0 ∨ e.d3 = 0) ||
  bits (w 5) 63 48 != 0 || bits (w 6) 63 48 != 0 || bits (w 7) 63 48 != 0 ||
  (decide (e.rank < 2) && (e.d1 != 1 || e.s1 != 0)) || (decide (e.rank < 3) && (e.d2 != 1 || e.s2 != 0)) ||
  (decide (e.rank < 4) && (e.d3 != 1 || e.s3 != 0))

/-- Does an entry's format refuse the image (01 R16, R21)? -/
def formatBad (e : Ent) : Bool := decide (e.fmt ≥ 0x1A) || (fmtIsMx e.fmt && e.sgroup != 32)

/-- Does an image change the tiles or extents of a tensor on which a lock is held (06 R188)? -/
def tidLocked (s : State) (asid : BitVec 16) (n : Nat) (new : Ent) : Bool :=
  let old := tidEnt s asid.toNat n
  old.isTensor && (old.lt0 != new.lt0 || old.lt1 != new.lt1 || old.d0 != new.d0 || old.d1 != new.d1 || old.d2 != new.d2 || old.d3 != new.d3) &&
  s.locks.any (fun r => r.space == asid && !r.addr && nameTid r.name == n)

/-- The check of an image (06 R188). -/
def tidCheck (s : State) (asid : BitVec 16) (n : Nat) (ws : List Word) : Option (BitVec 10) :=
  let e := Ent.ofWords ws
  match e.kind with
  | 0 => none
  | 1 => if formatBad e then some 0x2C1 else if tensorBad ws then some 0x2C3 else if tidLocked s asid n e then some 0x2C4 else none
  | 2 => if levelsBad ws then some 0x2C3 else if tidLocked s asid n e then some 0x2C4 else none
  | _ => some 0x2C3

/-- The doublewords of 64 bytes. -/
def words8 (bs : List Byte) : List Word := (List.range 8).map (fun j => BitVec.ofNat 64 (leNat ((bs.drop (8 * j)).take 8)))

/-- The checks that both instructions make, in their order (06 R188). -/
def tidForm (ra rb : Nat) (n : Need) (s : State) (f : Nat → Nat → List Place → State → State) : State :=
  let id := rx s ra
  if id.toNat ≥ 4096 then trap 0x2C3 id s
  else match payloadPlace s (addr56 (rx s rb)) n with
    | (.fault c tv, s1) => trap c tv s1
    | (.ok ps, s1) =>
      if (migAt s1 (ps.headD (.dev 0))).isSome then spinMoved false (ps.headD (.dev 0)) s1
      else if ownPending s1 (addr56 (rx s rb)) 64 then spin false s1
      else f id.toNat (addr56 (rx s rb)) ps s1

/-- The place of an entry in the tensor-identifier table of its space, which its descriptor names (13 R335): none where translation may not
use the descriptor (log entry 122). -/
def tidPlace (s : State) (asid n : Nat) : Option Place :=
  if descOk s asid ∧ spaceTidTab s asid + 64 * n + 64 ≤ devTop then some (.dev (spaceTidTab s asid + 64 * n)) else none

/-- An entry is written: into the engines, and into its space's table (06 R188; 13 R335). A table's page that is moving holds the
instruction. -/
def tidStore (n : Nat) (ws : List Word) (s : State) : State :=
  let asid := (th s).asid.toNat
  let kept := { s with tid := mset s.tid (tidKey asid n) ws }
  match tidPlace s asid n with
  | none => advance 4 kept
  | some p =>
    if (migAt s p).isSome then spinMoved false p s
    else advance 4 (placeWrite kept p (ws.flatMap (fun w => toBytes 8 w.toNat)) false)

/-- 06 R188. -/
def execTidWr (ra rb g : Nat) (s : State) : Out :=
  issue g 4 [ra, rb] s (noTx (fun s => tidForm ra rb needR s (fun n a ps s =>
    let p := ps.headD (.dev 0)
    let (bs, pois, s1) := if isPeer p then peerLine p s else (readPlaces s ps, placeReadPois s p 64, s)
    if pois then trap 0x109 (BitVec.ofNat 64 a) s1
    else
      let ws := words8 bs
      match tidCheck s1 (th s1).asid n ws with
      | some c => trap c (BitVec.ofNat 64 n) s1
      | none => tidStore n ws s1)))

/-- 06 R188. -/
def execTidRd (ra rb g : Nat) (s : State) : Out :=
  issue g 4 [ra, rb] s (noTx (fun s => tidForm ra rb needW s (fun n a ps s =>
    let bs := (tidWords s (th s).asid.toNat n).flatMap (fun w => toBytes 8 w.toNat)
    let p := ps.headD (.dev 0)
    advance 4 (if isPeer p then storeLine p a bs [] s else placeWrite s p bs false))))

end Sys2Proof.Machine
end

