-- ==== Sys2Proof/Machine/Engine.lean ====
section
/-! DEFINITION. What the DMA, binning and remote engines share: their places, the moving of bytes with poison, and the
end of an operation (06 R171, R190, R191; 17 R394). -/

namespace Sys2Proof.Machine

/-- The place of an address for an engine operation: device memory, the district's window, the core's local memory (06
R189). `count` says that a request for a MODE 2 page is counted (13 R343). -/
def engPlace (o : Owner) (rect : Option Rect) (va : Nat) (n : Need) (count : Bool) (s : State) : Except (BitVec 10) Place × State :=
  match region va with
  | 0 => match xlate s o.who va n count with
    | (.ok (.hub _), s1) => (.error 0x046, s1)
    | r => r
  | 1 => match rect with
    | none => (.error 0x106, s)
    | some r => match winPlace r (winOff va) with
      | some p => (.ok p, s)
      | none => (.error 0x106, s)
  | 2 => (.ok (.loc o.core (locOff va)), s)
  | _ => (.error 0x106, s)

/-- The check of a side's first byte at issue (06 R189). -/
def firstByte (s : State) (va : Nat) : Option (BitVec 10) :=
  match region va with
  | 0 => none
  | 1 => match myDist s with
    | none => some 0x107
    | some (_, k) => if (winPlace k.rect (winOff va)).isSome then none else some 0x106
  | 2 => none
  | _ => some 0x106

/-- Where bytes come from and go to: a range of addresses of this device, or another device. -/
inductive Side where
  | here (va : Nat)
  | away

def Side.at (x : Side) (i : Nat) : Option Nat :=
  match x with
  | .here va => some ((va + i) % 2 ^ 56)
  | .away => none

/-- A run of moved bytes: how many, the places written and those that received poison, the cause that stopped it, whether it waits, and the
place of a byte that stands on a page that is moving. -/
structure Moved where
  n : Nat
  wrote : List Place
  bad : List Place
  cause : Option (BitVec 10)
  held : Bool
  wait : Option Place
  deriving Repr

/-- Does byte i of a run, at an address, begin a request of an engine? It moves whole lines of 64 bytes (log entry 113). -/
def newLine (i va : Nat) : Bool := i == 0 || va % 64 == 0

/-- Reads byte i of a run for an engine: a byte of another device is that of a cached line, else a free value. -/
def engByte (o : Owner) (rect : Option Rect) (i : Nat) (x : Option Nat) (s : State) : Gw (Byte × Bool) × State :=
  match x with
  | none => (.ok (freeSeen s.freeIx), { s with freeIx := s.freeIx + 1 })
  | some va =>
    match engPlace o rect va needR (newLine i va) s with
    | (.error c, s1) => (.fault c, s1)
    | (.ok p, s1) =>
      if (migAt s1 p).isSome then (.wait (some p), s1)
      else if isPeer p then
        match lcByte s1 p with
        | some b => (.ok b, s1)
        | none => (.ok (freeSeen s1.freeIx), { s1 with freeIx := s1.freeIx + 1 })
      else (.ok (placeByte s1 p, placePois s1 p), s1)

/-- Writes byte i of a run for an engine; the answer names the place. -/
def engPut (o : Owner) (rect : Option Rect) (i va : Nat) (b : Byte) (pois : Bool) (s : State) : Gw Place × State :=
  match engPlace o rect va needW (newLine i va) s with
  | (.error c, s1) => (.fault c, s1)
  | (.ok p, s1) =>
    if (migAt s1 p).isSome then (.wait (some p), s1)
    else
      let s2 := match p with
        | .spad _ ofs => if i = 0 ∨ ofs % 4 = 0 then logSpad p 1 s1 else s1
        | _ => s1
      (.ok p, if isPeer p then lcStoreByte p b pois s2 else placeWrite s2 p [b] false)

/-- Reads n bytes from an address on for an engine. -/
def engRead (o : Owner) (rect : Option Rect) (va : Nat) : Nat → Nat → State → Gw (List (Byte × Bool)) × State
  | 0, _, s => (.ok [], s)
  | n + 1, i, s =>
    gwBind (engByte o rect i (some ((va + i) % 2 ^ 56)) s) (fun b s1 =>
      gwBind (engRead o rect va n (i + 1) s1) (fun l s2 => (.ok (b :: l), s2)))

/-- Writes bytes from an address on for an engine. -/
def engWrite (o : Owner) (va : Nat) : List Byte → Nat → State → Gw Unit × State
  | [], _, s => (.ok (), s)
  | b :: l, i, s => gwBind (engPut o none i ((va + i) % 2 ^ 56) b false s) (fun _ s1 => engWrite o va l (i + 1) s1)

/-- Moves byte i of a run; the answer names the place written. -/
def moveByte (o : Owner) (rect : Option Rect) (i : Nat) (src dst : Option Nat) (s : State) : Gw (Option Place × Bool) × State :=
  gwBind (engByte o rect i src s) (fun b s1 =>
    match dst with
    | none => (.ok (none, b.2), s1)
    | some va => gwBind (engPut o rect i va b.1 b.2 s1) (fun p s2 => (.ok (some p, b.2), s2)))

/-- Moves n bytes in ascending order until one cannot be accessed (06 R190). -/
def moveBytes (o : Owner) (rect : Option Rect) (src dst : Side) : Nat → Nat → Moved → State → Moved × State
  | 0, _, m, s => (m, s)
  | n + 1, i, m, s =>
    match moveByte o rect i (src.at i) (dst.at i) s with
    | (.fault c, s1) => ({ m with cause := some c }, s1)
    | (.wait p, s1) => ({ m with held := true, wait := p }, s1)
    | (.ok (p, pois), s1) =>
      moveBytes o rect src dst n (i + 1) { m with
        n := m.n + 1, wrote := m.wrote ++ p.toList, bad := if pois then m.bad ++ p.toList else m.bad } s1

def Moved.start : Moved := ⟨0, [], [], none, false, none⟩

/-- Sets or clears the mark of the line or word that holds a place (17 R394). -/
def markPlace (p : Place) (b : Bool) (s : State) : State :=
  match p with
  | .dev a => { s with dev := setPois s.dev (a / 64) b }
  | .loc c o => { s with loc := setPois s.loc (locKey c o / 4) b }
  | .spad e o => { s with spad := setPois s.spad (spadKey e o / 4) b }
  | _ => s

/-- Was the whole local-memory word of a place written? -/
def wholeWord (l : List Place) (p : Place) : Bool :=
  match p with
  | .loc c o => o % 4 == 0 && [1, 2, 3].all (fun j => l.contains (.loc c (o + j)))
  | _ => false

/-- The marks that a run of moved bytes leaves: wholly written words of local memory are clean, and every line or word
that received a poisoned byte is marked (06 R190). -/
def settleMarks (m : Moved) (s : State) : State :=
  let s1 := (m.wrote.filter (wholeWord m.wrote)).foldl (fun s p => markPlace p false s) s
  m.bad.foldl (fun s p => markPlace p true s) s1

/-! ## The operations under way -/

def Engine.owner (x : Engine) : Owner := ⟨x.core, x.asid, x.supv⟩

/-- A new operation of the current thread. -/
def newEngine (s : State) (kind : Nat) (cpl : Word) (near far ext len : Nat) (entry : List Word) : Engine :=
  { id := s.nextId, kind := kind, core := s.cur, thread := (th s).id, asid := (th s).asid, supv := (th s).status.supv,
    cpl := cpl, near := near, far := far, ext := ext, len := len, entry := entry, rect := (myDist s).map (fun d => d.2.rect),
    done := 0, stop := false, fill := none }

/-- Room for a range in the scoreboard of the thread's district (06 R191): an address outside the window needs none. -/
def boardRoom (s : State) (va : Nat) : Bool :=
  region va != 1 || (match myDist s with
    | some (_, k) => decide (k.board.length < 16)
    | none => true)

/-- Sends an operation; a destination in the window takes an entry for its whole range. -/
def sendEngine (e : Engine) (board : Option (Nat × Nat)) (s : State) : State :=
  let s1 := { s with engines := s.engines ++ [e], nextId := s.nextId + 1 }
  match board, myDist s1 with
  | some (va, n), some (d, _) =>
    if region va = 1 then updDist s1 d (fun k => { k with board := k.board ++ [(e.id, winOff va, n)] }) else s1
  | _, _ => s1

/-- Ends an operation: its object is set, then its scoreboard entry is free. -/
def endEngine (e : Engine) (state cause d1 addr : Nat) (s : State) : State :=
  let s1 := setCpl e.owner e.cpl (cplWord state cause 0 e.kind) d1 (lowHalf addr) (highHalf addr) s
  { s1 with
    engines := s1.engines.filter (fun x => x.id != e.id),
    districts := s1.districts.map (fun p => (p.1, { p.2 with board := p.2.board.filter (fun b => b.1 != e.id) })) }

/-- Does an operation wait because the district whose window it works in is halted (13 R356)? -/
def Engine.held (e : Engine) (s : State) : Bool :=
  !e.stop && (e.kind == 0x18 || region e.near == 1) && s.districts.any (fun p => some p.2.rect == e.rect && p.2.gated)

/-- Has the thread that issued an operation accesses that are not performed? Each of them comes before the operation's first (06 R171). -/
def Engine.behind (e : Engine) (s : State) : Bool := accessesDue s e.thread e.core e.asid

/-- A free number below n + 1. -/
def freeBelow (n : Nat) (s : State) : Nat × State := let (f, s1) := drawFree s; (f.toNat % (n + 1), s1)

end Sys2Proof.Machine
end

