-- ==== Sys2Proof/Machine/Dma.lean ====
section
/-! DEFINITION. The DMA engine: major 0x42 (06 R189 to R191). -/

namespace Sys2Proof.Machine

/-- A row of a DMA: near offset, far address, bytes. -/
structure Seg where
  near : Nat
  far : Nat
  n : Nat

def pitchOf (n : Nat) : Nat := (n + 3) / 4 * 4

/-- The bytes of a row of a tile or of a gathered row. -/
def dmaRowBytes (e : Ent) (cols : Nat) : Nat := rowBytes e.fmt cols

/-- The fields of EXT and of X[RB] of a tile form. -/
def dmaN (ext : Nat) : Nat := nb ext 31 20
def dmaRows (ext : Nat) : Nat := nb ext 19 10 + 1
def dmaCols (ext : Nat) : Nat := nb ext 9 0 + 1
def tileR (b : Nat) : Nat := b / 2 ^ 24 % 2 ^ 40
def tileC (b : Nat) : Nat := b % 2 ^ 24

/-- TIDNONE (06 R187, R188): no tensor, or one with a level that is not dense and no level arrays behind it. -/
def entMissing (s : State) (n : Nat) : Bool :=
  let a := (th s).asid.toNat
  let e := tidEnt s a n
  !e.isTensor || (!e.dense && (tidEnt s a ((n + 1) % 4096)).kind != 2)

/-- DMADESC of a tile form (06 R189). -/
def tileBad (e : Ent) (r c rows cols : Nat) : Bool :=
  !e.dense || decide (r + rows > e.rows ∨ c + cols > e.d0) || (fmtIsNb e.fmt && (c % 256 != 0 || cols % 256 != 0)) ||
  (fmtIs4 e.fmt && (c % 2 != 0 || cols % 2 != 0))

/-- DMADESC of a gather (06 R189). -/
def gathBad (e : Ent) (list ext : Nat) : Bool :=
  !e.dense || decide (dmaRowBytes e e.d0 > 65536) || list % 4 != 0 || nb ext 9 0 != 0

/-- The issue of a DMA: the first bytes of its sides, room in the scoreboard, and the operation. `board` is the length
of a destination range. -/
def dmaSend (kind : Nat) (xc : Word) (near far first ext len : Nat) (entry : List Word) (board : Option Nat) (s : State) : Issue × State :=
  match firstByte s near, firstByte s first with
  | some c, _ => (.cause c (BitVec.ofNat 64 near), s)
  | none, some c => (.cause c (BitVec.ofNat 64 first), s)
  | none, none =>
    if board.isSome && !boardRoom s near then (.wait, s)
    else (.send (fun s => advance 8 (sendEngine (newEngine s kind xc near far ext len entry) (board.map (near, ·)) s)), s)

/-- The tile forms: `dma.ld` and `dma.st` (06 R189). -/
def dmaTile (kind rd ra rb ext : Nat) (s : State) : State :=
  issueCpl (rx s rd) s (fun s =>
    let b := (rx s rb).toNat
    let ws := tidWords s (th s).asid.toNat (dmaN ext)
    let e := Ent.ofWords ws
    if entMissing s (dmaN ext) then (.cause 0x2C5 (BitVec.ofNat 64 (dmaN ext)), s)
    else if tileBad e (tileR b) (tileC b) (dmaRows ext) (dmaCols ext) then (.cause 0x202 (BitVec.ofNat 64 ext), s)
    else
      let n := dmaRows ext * pitchOf (dmaRowBytes e (dmaCols ext))
      dmaSend kind (rx s rd) (addr56 (rx s ra)) b (e.addr (tileR b) (tileC b)) ext n ws (if kind = 0x10 then some n else none) s)

/-- 06 R189. -/
def execDmaLd (rd ra rb g ext : Nat) (s : State) : Out := issue g 8 [rd, ra, rb] s (noTx (dmaTile 0x10 rd ra rb ext))

/-- 06 R189. -/
def execDmaSt (rd ra rb g ext : Nat) (s : State) : Out := issue g 8 [rd, ra, rb] s (noTx (dmaTile 0x11 rd ra rb ext))

/-- 06 R189. -/
def execDmaCp (rd ra rb g ext : Nat) (s : State) : Out :=
  issue g 8 [rd, ra, rb] s (noTx (fun s => issueCpl (rx s rd) s (fun s =>
    let f := addr56 (rx s rb)
    dmaSend 0x12 (rx s rd) (addr56 (rx s ra)) f f ext ext [] (some ext) s)))

/-- 06 R189. -/
def execDmaGath (rd ra rb g ext : Nat) (s : State) : Out :=
  issue g 8 [rd, ra, rb] s (noTx (fun s => issueCpl (rx s rd) s (fun s =>
    let l := addr56 (rx s rb)
    let ws := tidWords s (th s).asid.toNat (dmaN ext)
    let e := Ent.ofWords ws
    if entMissing s (dmaN ext) then (.cause 0x2C5 (BitVec.ofNat 64 (dmaN ext)), s)
    else if gathBad e l ext then (.cause 0x202 (BitVec.ofNat 64 ext), s)
    else
      let n := dmaRows ext * pitchOf (dmaRowBytes e e.d0)
      dmaSend 0x13 (rx s rd) (addr56 (rx s ra)) l l ext n ws (some n) s)))

/-! ## Moving (06 R190) -/

/-- What a run comes to: the bytes completed, the first far address not moved, the cause; or a wait. -/
inductive Run where
  | over (n far : Nat) (cause : Option (BitVec 10)) (s : State)
  | wait (p : Option Place)

/-- Moves the rows of a DMA below a limit of its near range, in order; `total` counts the bytes moved. -/
def runSegs (e : Engine) (limit : Nat) : List Seg → Nat → State → Run
  | [], total, s => .over total 0 none s
  | g :: rest, total, s =>
    let n := min g.n (limit - g.near)
    let near := Side.here (e.near + g.near)
    let far := Side.here g.far
    let (src, dst) := if e.kind = 0x11 then (near, far) else (far, near)
    let (m, s1) := moveBytes e.owner e.rect src dst n 0 .start s
    if m.held then .wait m.wait
    else
      let s2 := settleMarks m s1
      let at_ := (g.far + m.n) % 2 ^ 56
      match m.cause with
      | some c => .over (total + m.n) at_ (some c) s2
      | none => if n < g.n then .over (total + n) at_ none s2 else runSegs e limit rest (total + n) s2

/-- The rows of a tile. -/
def tileSegs (e : Engine) : List Seg :=
  let t := Ent.ofWords e.entry
  let n := dmaRowBytes t (dmaCols e.ext)
  (List.range (dmaRows e.ext)).map (fun i => ⟨i * pitchOf n, t.addr (tileR e.far + i) (tileC e.far), n⟩)

/-- The rows of a gather: each index is read as its row is reached. Where an index cannot be used, the far address not moved is that of the index
in its list (log entry 132). -/
def runGath (e : Engine) (limit : Nat) : Nat → Nat → Nat → State → Run
  | 0, _, total, s => .over total 0 none s
  | k + 1, i, total, s =>
    let t := Ent.ofWords e.entry
    let n := dmaRowBytes t t.d0
    let ix := (e.far + 4 * i) % 2 ^ 56
    match engPlace e.owner e.rect ix needR (newLine i ix) s with
    | (.error c, s1) => .over total ix (some c) s1
    | (.ok p, s1) =>
      let (l, s2) := if isPeer p then peerBytes p 4 s1 else ((placeRead s1 p 4).map (·, placeReadPois s1 p 4), s1)
      if (migAt s1 p).isSome then .wait (some p)
      else if l.any Prod.snd then .over total ix (some 0x109) s2
      else
        let r := leNat (l.map Prod.fst)
        if r ≥ t.rows then .over total ix (some 0x202) s2
        else match runSegs e limit [⟨i * pitchOf n, t.addr r 0, n⟩] total s2 with
          | .over total' far (some c) s3 => .over total' far (some c) s3
          | .over total' far none s3 => if total' < total + n then .over total' far none s3 else runGath e limit k (i + 1) total' s3
          | .wait p => .wait p

/-- Moves what a DMA moves below a limit of its near range. -/
def runDma (e : Engine) (limit : Nat) (s : State) : Run :=
  match e.kind with
  | 0x12 => runSegs e limit [⟨0, e.far, e.len⟩] 0 s
  | 0x13 => runGath e limit (dmaRows e.ext) 0 0 s
  | _ => runSegs e limit (tileSegs e) 0 s

/-- Is a node this device? Nodes from 144 on are scale-out peers (06 R195). -/
def nodeHere (s : State) (node : Nat) : Bool := decide (node < 144) && node == s.device

/-- Is another device's memory one side of a transfer (06 R195)? -/
def awayNode (s : State) (e : Engine) : Option Nat :=
  if (e.kind = 0x20 ∨ e.kind = 0x21) ∧ !nodeHere s (e.ext / 2 ^ 22) then some (e.ext / 2 ^ 22) else none

/-- A transfer to or from another node: the bytes there are free values, and so is whether, where and why the far side
fails to translate (06 R195, R196). -/
def runAway (e : Engine) (s : State) : Run :=
  let (f, s0) := drawFree s
  let (stop, s1) := freeBelow e.len s0
  let n := if bit f 0 then stop else e.len
  let (src, dst) := if e.kind = 0x20 then (Side.here e.near, Side.away) else (Side.away, Side.here e.near)
  let (m, s2) := moveBytes e.owner e.rect src dst n 0 .start s1
  if m.held then .wait m.wait
  else
    let s3 := settleMarks m s2
    let far := (e.far + m.n) % 2 ^ 56
    match m.cause with
    | some c => .over m.n far (some c) s3
    | none => if bit f 0 then .over m.n far (some (BitVec.ofNat 10 (0x041 + bits f 10 1 % 7))) s3 else .over m.n 0 none s3

/-- Moves what a stopped or killed operation moves below a limit of its near range. -/
def runUpTo (e : Engine) (limit : Nat) (s : State) : Run :=
  if (awayNode s e).isSome then
    let (src, dst) := if e.kind = 0x20 then (Side.here e.near, Side.away) else (Side.away, Side.here e.near)
    let (m, s1) := moveBytes e.owner e.rect src dst (min limit e.len) 0 .start s
    if m.held then .wait m.wait else .over m.n ((e.far + m.n) % 2 ^ 56) m.cause (settleMarks m s1)
  else if e.kind = 0x20 then runSegs { e with kind := 0x11 } limit [⟨0, e.far, e.len⟩] 0 s
  else if e.kind = 0x21 then runSegs { e with kind := 0x12 } limit [⟨0, e.far, e.len⟩] 0 s
  else runDma e limit s

/-- 06 R190: an operation ends, its thread's earlier accesses performed (R171). One that is stopped ends at a multiple of 64 bytes of its near
range, and how far it had come is a free value: nowhere where it could not begin. -/
def execDmaEnd (n : Nat) (s : State) : Out :=
  .next (match s.engines[n]? with
    | none => s
    | some e =>
      if e.kind = 0x18 || e.held s then s
      else if e.stop then
        let (k, s1) := if e.behind s then (0, s) else freeBelow (e.len / 64) s
        match runUpTo e (64 * k) s1 with
        | .over m far (some c) s2 => endEngine e stFault c.toNat m far s2
        | .over _ far none s2 => endEngine e stStopped 0 (64 * k) far s2
        | .wait p => meetAt (.engine e.id) p s
      else if e.behind s then s
      else
        let r := if (awayNode s e).isSome then runAway e s
          else if e.kind = 0x20 then runSegs { e with kind := 0x11 } e.len [⟨0, e.far, e.len⟩] 0 s
          else if e.kind = 0x21 then runSegs { e with kind := 0x12 } e.len [⟨0, e.far, e.len⟩] 0 s
          else runDma e e.len s
        match r with
        | .over m far (some c) s2 => endEngine e stFault c.toNat m far s2
        | .over m _ none s2 => endEngine e stDone 0 m 0 s2
        | .wait p => meetAt (.engine e.id) p s)

end Sys2Proof.Machine
end

