-- ==== Sys2Proof/Machine/Remote.lean ====
section
/-! DEFINITION. Remote operations: major 0x44 and the failure of a link (06 R195, R196; 18 R417). -/

namespace Sys2Proof.Machine

/-- The valid entry of the peer table for a scale-out node (18 R417). -/
def peerValid (s : State) (node : Nat) : Bool :=
  let a := bits (hubRaw s 0x1F480) 55 12 * 4096 + 32 * (node - 144)
  dev64 s (a + 16) / 2 ^ 16 == 1

/-- May an operation name a node (06 R196)? -/
def nodeOk (s : State) (node : Nat) : Bool :=
  if node < 144 then nodeHere s node || isMember s node else peerValid s node

/-- The identity that the peer table gives a scale-out node (18 R417). -/
def peerIdentity (s : State) (node : Nat) : Nat := dev64 s (bits (hubRaw s 0x1F480) 55 12 * 4096 + 32 * (node - 144) + 24)

/-- An operation towards a scale-out node, a transfer or an atomic, leaves as a packet, numbered per peer (18 R417). -/
def sendPacket (node engine req : Nat) (s : State) : State :=
  if node < 144 then s
  else
    let n := mget s.peerSeq (2 * node + 1) 0
    { s with packets := s.packets ++ [⟨node, n, 1, s.ns, engine, req⟩], peerSeq := mset s.peerSeq (2 * node + 1) (n + 1) }

/-- The transfer has been sent if its engine exists. -/
def sentBy (node : Nat) (old new : State) : State :=
  if old.engines.length < new.engines.length then sendPacket node old.nextId 0 new else new

/-- The issue of a transfer: `far` is the remote side. -/
def transfer (kind rd : Nat) (near far : Word) (ext : Nat) (s : State) : State :=
  sentBy (nb ext 31 22) s <| issueCpl (rx s rd) s (fun s =>
    let node := nb ext 31 22
    if !nodeOk s node then (.cause 0x11A (BitVec.ofNat 64 node), s)
    else dmaSend kind (rx s rd) (addr56 near) (addr56 far) (if nodeHere s node then addr56 far else addr56 near) (ext % 2 ^ 32) (nb ext 21 0) [] none s)

/-- 06 R195. -/
def execRput (rd ra rb g ext : Nat) (s : State) : Out :=
  issue g 8 [rd, ra, rb] s (noTx (fun s => transfer 0x20 rd (rx s rb) (rx s ra) ext s))

/-- 06 R195. -/
def execRget (rd ra rb g ext : Nat) (s : State) : Out :=
  issue g 8 [rd, ra, rb] s (noTx (fun s => transfer 0x21 rd (rx s ra) (rx s rb) ext s))

/-- An atomic at a place of this device for a form of 8 bytes (06 R195; 05 R149, R150). -/
def ramoHere (fn rd w a : Nat) (b e : Nat) (posted : Bool) (p : Place) (s : State) : State :=
  let signed := fn == 4 || fn == 5
  if faraway s p then
    let s1 := sendReq (mkReq s p a 2 fn (BitVec.ofNat 64 b) (BitVec.ofNat 64 e) w rd (!posted)) s
    if posted then advance 8 s1 else await (.ramo rd (w == 8) signed a) s1
  else
    let r := amoPerform fn w b e p s
    if posted then advance 8 (amoPosted s.cur a r)
    else match r.1 with
      | some old => advance 8 (wx r.2 rd (amoResult signed (w == 8) old))
      | none => trap 0x109 (BitVec.ofNat 64 a) r.2

/-- 06 R195: EXT[20:16] names the operation and EXT[21] its width. -/
def execRamo (rd ra rb g ext : Nat) (s : State) : Out :=
  let fn := nb ext 20 16
  issue g 8 ([ra, rb] ++ (if fn = 9 then [rd] else [])) s (noTx (fun s =>
    let node := nb ext 31 22
    let w := if nb ext 21 21 = 1 then 8 else 4
    let a := addr56 (rx s ra)
    let b := (rx s rb).toNat % 2 ^ (8 * w)
    let e := (rx s rd).toNat % 2 ^ (8 * w)
    let posted : Bool := rd == 0 && fn != 9 && fn != 0x0E
    if !nodeOk s node then trap 0x11A (BitVec.ofNat 64 node) s
    else if nodeHere s node then amoAccess a w w s (fun p _ s => ramoHere fn rd w a b e posted p s)
    else match amoPlaceCause a with
      | some c => trap c (BitVec.ofNat 64 a) s
      | none =>
        if a % w ≠ 0 then trap 0x104 (BitVec.ofNat 64 a) s
        else
          let r := { mkReq s (.peer node a) a 4 fn (BitVec.ofNat 64 b) (BitVec.ofNat 64 e) w rd (!posted) with id := s.nextId }
          let s1 := sendPacket node 0 s.nextId (sendReq r { s with nextId := s.nextId + 1 })
          if posted then advance 8 s1 else await (.ramo rd (w == 8) (fn == 4 || fn == 5) a) s1))

/-- A transfer ends because its node cannot be reached: some bytes have moved (06 R196). -/
def failEngine (e : Engine) (s : State) : State :=
  let (k, s1) := if e.behind s then (0, s) else freeBelow e.len s
  let (src, dst) := if e.kind = 0x20 then (Side.here e.near, Side.away) else (Side.away, Side.here e.near)
  let (m, s2) := moveBytes e.owner e.rect src dst k 0 .start s1
  if m.held then meetAt (.engine e.id) m.wait s else endEngine e stFault 0x11B m.n ((e.far + m.n) % 2 ^ 56) (settleMarks m s2)

/-- An atomic, no more among the requests, ends because its node cannot be reached: its instruction traps, or, posted, an event tells its
thread. -/
def atomicLost (r : Req) (node : Nat) (s : State) : State :=
  if r.wait then trapCore r.core 0x11B (BitVec.ofNat 64 node) s else raiseThread r.thread 0x11B (BitVec.ofNat 64 node) 0 s

def failAtomic (n : Nat) (r : Req) (node : Nat) (s : State) : State := atomicLost r node { s with reqs := listDel s.reqs n }

/-- Can a node of the domain not be reached? A scale-out node is given up only after its transmissions (18 R417). -/
def lostNode (s : State) (node : Nat) : Bool := decide (node < 144) && !reachable s node

/-- 06 R196: the n-th operation towards another node of the domain cannot be delivered, for want of a path (18 R408): a transfer, else an
atomic of the list behind the transfers. -/
def execRemoteLinkFail (n : Nat) (s : State) : Out :=
  .next (match s.engines[n]? with
    | some e => if (awayNode s e).any (lostNode s) then failEngine e s else s
    | none =>
      match s.reqs[n - s.engines.length]? with
      | none => s
      | some r =>
        match r.place with
        | .peer node _ => if r.kind = 4 ∧ lostNode s node then failAtomic (n - s.engines.length) r node s else s
        | _ => s)

end Sys2Proof.Machine
end

