-- ==== Sys2Proof/Machine/Bin.lean ====
section
/-! DEFINITION. The binning engine: major 0x43 (06 R192 to R194). -/

namespace Sys2Proof.Machine

/-- A bin set's descriptor (06 R192). -/
structure BinSet where
  tbase : Nat
  nreg : Nat
  op : Nat
  rshift : Nat
  bbase : Nat
  cap : Nat
  fbase : Nat
  spad : Nat
  deriving DecidableEq, Repr

def BinSet.ofWords (ws : List Word) : BinSet :=
  let w (i : Nat) : Word := ws.getD i 0
  { tbase := bits (w 0) 55 0, nreg := bits (w 1) 63 32, op := bits (w 1) 11 8, rshift := bits (w 1) 4 0,
    bbase := bits (w 2) 55 0, cap := bits (w 3) 31 0, fbase := bits (w 4) 55 0, spad := bits (w 5) 55 0 }

/-- Does a descriptor break R192? -/
def binBad (ws : List Word) : Bool :=
  let w (i : Nat) : Word := ws.getD i 0
  let b := BinSet.ofWords ws
  bits (w 0) 63 56 != 0 || bits (w 1) 31 12 != 0 || bits (w 1) 7 5 != 0 || decide (b.op > 3) || decide (b.rshift < 10 ∨ 16 < b.rshift) ||
  decide (b.nreg = 0 ∨ b.nreg > 2 ^ 20) || bits (w 2) 63 56 != 0 || bits (w 3) 63 32 != 0 || b.cap % 8 != 0 ||
  decide (b.cap < 8 ∨ 2 ^ 20 < b.cap) || bits (w 4) 63 56 != 0 || bits (w 5) 63 56 != 0 || w 6 != 0 || w 7 != 0 ||
  b.tbase % 2 ^ b.rshift != 0 || b.spad % 2 ^ b.rshift != 0 || Machine.region b.spad != 1

/-- Reads the 64 bytes of a descriptor for the current thread: its doublewords, a cause with its CC_TVAL, or no answer while its page is
moving. A hub register is no place for a descriptor (13 R336). -/
def binDesc (s : State) (a : Nat) (tv : Word) : Except (Option (BitVec 10 × Word)) (List Word) × State :=
  if region a ≠ 0 ∨ a % 64 ≠ 0 then (.error (some (0x203, tv)), s)
  else
    match access s s.cur a 64 needR false with
    | (.fault c t, s1) => (.error (some (c, t)), s1)
    | (.ok ps, s1) =>
      let p := ps.headD (.dev 0)
      let poison : Except (Option (BitVec 10 × Word)) (List Word) := .error (some (0x109, BitVec.ofNat 64 a))
      if isHub p then (.error (some (0x046, BitVec.ofNat 64 a)), s1)
      else if (migAt s1 p).isSome then (.error none, meetFrozen (.core s1.cur) p s1)
      else if isPeer p then
        let (bs, pois, s2) := peerLine p s1
        (if pois then poison else .ok (words8 bs), s2)
      else (if placeReadPois s1 p 64 then poison else .ok (words8 (readPlaces s1 ps)), s1)

/-! ## bin.app (06 R193) -/

/-- The region of a target address. -/
def BinSet.region (b : BinSet) (a : Nat) : Nat := (a - b.tbase) / 2 ^ b.rshift

/-- 06 R193: posted to the engine. -/
def execBinApp (rd ra rb g : Nat) (s : State) : Out :=
  issue g 4 [rd, ra, rb] s (noTx (fun s =>
    let t := rx s ra
    let a := addr56 t
    let d := addr56 (rx s rd)
    match binDesc s d t with
    | (.error (some (c, tv)), s1) => trap c tv s1
    | (.error none, s1) => spin false s1
    | (.ok ws, s1) =>
      let b := BinSet.ofWords ws
      if binBad ws || decide (a < b.tbase) || decide (b.region a ≥ b.nreg) || a % 4 != 0 then trap 0x203 t s1
      else
        let o := myOwner s1
        advance 4 { s1 with bins := s1.bins ++ [⟨o.core, o.asid, o.supv, d, a, lo32 (rx s1 rb)⟩] }))

/-- Reads a number of n bytes of an engine's own; poison among them is consumed. -/
def binRead (o : Owner) (a n : Nat) (s : State) : Gw Nat × State :=
  gwBind (engRead o none a n 0 s) (fun l s1 => (if l.any Prod.snd then .fault 0x109 else .ok (leNat (l.map Prod.fst)), s1))

/-- Writes a number of n bytes of an engine's own. -/
def binWrite (o : Owner) (a n v : Nat) (s : State) : Gw Unit × State := engWrite o a (toBytes n v) 0 s

/-- The number of the atomic of 05 R149 that a set's OP is. -/
def BinSet.fn (b : BinSet) : Nat := match b.op with
  | 0 => 0x00
  | 1 => 0x0A
  | 2 => 0x05
  | _ => 0x04

/-- The addresses of a bin's fill count and of its record i. -/
def BinSet.fillAt (b : BinSet) (g : Nat) : Nat := (b.fbase + 4 * g) % 2 ^ 56
def BinSet.recAt (b : BinSet) (g i : Nat) : Nat := (b.bbase + 8 * (g * b.cap + i)) % 2 ^ 56

/-- The fill count of a bin; a count above CAP reads as CAP (06 R192). -/
def binFill (o : Owner) (b : BinSet) (g : Nat) (s : State) : Gw Nat × State :=
  gwBind (binRead o (b.fillAt g) 4 s) (fun n s1 => (.ok (min n b.cap), s1))

/-- Applies one record to the target, as an atomic at its home (06 R193); one that cannot be performed there has no effect. -/
def applyRecord (o : Owner) (b : BinSet) (g rec_ : Nat) (s : State) : Gw Unit × State :=
  let a := (b.tbase + g * 2 ^ b.rshift + rec_ % 2 ^ 32) % 2 ^ 56
  match engPlace o none a needRW true s with
  | (.error _, s1) => (.ok (), s1)
  | (.ok p, s1) =>
    if a % 4 ≠ 0 then (.ok (), s1)
    else if (migAt s1 p).isSome then (.wait (some p), s1)
    else if isPeer p then
      (.ok (), sendReq { peerReq p 2 b.fn [] (BitVec.ofNat 64 (rec_ / 2 ^ 32)) 0 4 with core := o.core, va := a, asid := o.asid.toNat }
        (lcDrop p 4 s1))
    else (.ok (), (amoPerform b.fn 4 (rec_ / 2 ^ 32) 0 p s1).2)

/-- Applies n records of a bin in order; one that cannot be read has no effect. -/
def flushBin (o : Owner) (b : BinSet) (g : Nat) : Nat → Nat → State → Gw Unit × State
  | 0, _, s => (.ok (), s)
  | n + 1, i, s =>
    match binRead o (b.recAt g i) 8 s with
    | (.ok r, s1) => gwBind (applyRecord o b g r s1) (fun _ s2 => flushBin o b g n (i + 1) s2)
    | (.fault _, s1) => flushBin o b g n (i + 1) s1
    | (.wait p, s1) => (.wait p, s1)

/-- Does a replay hold a region of a set: it has read the fill and not yet taken it off (06 R194)? -/
def playing (s : State) (desc : Nat) (asid : BitVec 16) (g : Nat) : Bool :=
  s.engines.any (fun x => x.kind == 0x18 && x.fill.isSome && x.far == desc && x.asid == asid && x.near + x.done == g)

/-- An append at the engine: a full bin is flushed first, once no replay holds its region (log entry 98). -/
def binAppend (o : Owner) (b : BinSet) (desc g : Nat) (rec_ : Nat) (s : State) : Gw Unit × State :=
  gwBind (binFill o b g s) (fun f s1 =>
    if f = b.cap ∧ playing s1 desc o.asid g then (.wait none, s1)
    else gwBind (if f = b.cap then flushBin o b g b.cap 0 s1 else (.ok (), s1)) (fun _ s2 =>
      let n := if f = b.cap then 0 else f
      gwBind (binWrite o (b.recAt g n) 8 rec_ s2) (fun _ s3 => binWrite o (b.fillAt g) 4 (n + 1) s3)))

/-- 06 R193: the engine appends update n, whole or, at a page that moves, not yet. The updates of one thread to one set are taken in issue
order. -/
def execBinAppendAtEngine (n : Nat) (s : State) : Out :=
  .next (match s.bins[n]? with
    | none => s
    | some u =>
      let o : Owner := ⟨u.core, u.asid, u.supv⟩
      if (s.bins.take n).any (fun v => v.core == u.core && v.desc == u.desc) then s
      else
        let r := gwBind (engRead o none u.desc 64 0 s) (fun l s1 =>
          let b := BinSet.ofWords (words8 (l.map Prod.fst))
          binAppend o b u.desc (b.region u.addr) (u.v.toNat * 2 ^ 32 + (u.addr - b.tbase) % 2 ^ b.rshift) s1)
        match r with
        | (.wait p, _) => meetAt (.bin n) p s
        | (_, s1) => { s1 with bins := listDel s1.bins n })

/-! ## bin.play (06 R194) -/

/-- 06 R194. -/
def execBinPlay (rd ra rb g : Nat) (s : State) : Out :=
  issue g 4 [rd, ra, rb] s (noTx (fun s => issueCpl (rx s rd) s (fun s =>
    let a := rx s ra
    let x := rx s rb
    match binDesc s (addr56 a) a with
    | (.error (some (c, tv)), s1) => (.cause c tv, s1)
    | (.error none, s1) => (.wait, s1)
    | (.ok ws, s1) =>
      let b := BinSet.ofWords ws
      let first := bits x 31 0
      let count := bits x 63 32
      if binBad ws || decide (first + count > b.nreg) then (.cause 0x203 a, s1)
      else match firstByte s1 b.spad with
        | some c => (.cause c (BitVec.ofNat 64 b.spad), s1)
        | none =>
          if !boardRoom s1 b.spad then (.wait, s1)
          else (.send (fun s => advance 4 (sendEngine (newEngine s 0x18 (rx s rd) first (addr56 a) 0 count ws)
            (some (b.spad, 2 ^ b.rshift)) s)), s1))))

/-- What a part of a replay comes to: a state, a cause with the faulting address, or a wait. -/
inductive Play where
  | go (s : State)
  | stop (c : BitVec 10) (addr : Nat) (s : State)
  | wait (p : Option Place)

def Play.bind (r : Play) (f : State → Play) : Play :=
  match r with
  | .go s => f s
  | .stop c a s => .stop c a s
  | .wait p => .wait p

/-- An access at an address, as a part of a replay. -/
def playAt {α : Type} (addr : Nat) (r : Gw α × State) (f : α → State → Play) : Play :=
  match r with
  | (.ok a, s) => f a s
  | (.fault c, s) => .stop c addr s
  | (.wait p, _) => .wait p

/-- Applies n records, from record i on, to the copy of a region in the scratchpad (06 R194 step 3). -/
def playRecords (o : Owner) (rect : Option Rect) (b : BinSet) (g : Nat) : Nat → Nat → State → Play
  | 0, _, s => .go s
  | n + 1, i, s =>
    playAt (b.recAt g i) (binRead o (b.recAt g i) 8 s) (fun r s1 =>
      let a := (b.spad + r % 2 ^ 32 / 4 * 4) % 2 ^ 56
      match engPlace o rect a needRW false s1 with
      | (.error c, s2) => .stop c a s2
      | (.ok p, s2) =>
        match amoPerform b.fn 4 (r / 2 ^ 32) 0 p (logSpad p 4 s2) with
        | (none, s3) => .stop 0x109 a s3
        | (some _, s3) => playRecords o rect b g n (i + 1) s3)

/-- Copies a region to the scratchpad or back (06 R194 steps 2 and 4). What it has moved before a fault stays moved, and the address is that of
the side which cannot be accessed. -/
def playCopy (o : Owner) (rect : Option Rect) (src dst n : Nat) (s : State) : Play :=
  let (m, s1) := moveBytes o rect (.here src) (.here dst) n 0 .start s
  let s2 := settleMarks m s1
  if m.held then .wait m.wait
  else match m.cause with
    | none => .go s2
    | some c => match (engByte o rect 1 (some ((src + m.n) % 2 ^ 56)) s2).1 with
      | .fault _ => .stop c ((src + m.n) % 2 ^ 56) s2
      | _ => .stop c ((dst + m.n) % 2 ^ 56) s2

/-- Moves the n records from record k on to the front of a bin (06 R194 step 5). -/
def playShift (o : Owner) (b : BinSet) (g k : Nat) : Nat → Nat → State → Play
  | 0, _, s => .go s
  | n + 1, i, s =>
    playAt (b.recAt g (k + i)) (binRead o (b.recAt g (k + i)) 8 s) (fun r s1 =>
      playAt (b.recAt g i) (binWrite o (b.recAt g i) 8 r s1) (fun _ s2 => playShift o b g k n (i + 1) s2))

/-- Changes an operation. -/
def updEngine (id : Nat) (f : Engine → Engine) (s : State) : State :=
  { s with engines := s.engines.map (fun x => if x.id = id then f x else x) }

/-- Steps 1 to 3 of the replay of a region: its fill is read, the region copied, and the records applied. -/
def playIn (e : Engine) (g : Nat) (s : State) : Play :=
  let o := e.owner
  let b := BinSet.ofWords e.entry
  let n := 2 ^ b.rshift
  playAt (b.fillAt g) (binFill o b g s) (fun f s1 =>
    (playCopy o e.rect ((b.tbase + g * n) % 2 ^ 56) b.spad n s1).bind (fun s2 =>
      (playRecords o e.rect b g f 0 s2).bind (fun s3 => .go (updEngine e.id (fun x => { x with fill := some f }) s3))))

/-- Steps 4 and 5: the region is written back, over what others have written there meanwhile, and the fill taken off. -/
def playOut (e : Engine) (g f : Nat) (s : State) : Play :=
  let o := e.owner
  let b := BinSet.ofWords e.entry
  let n := 2 ^ b.rshift
  (playCopy o e.rect b.spad ((b.tbase + g * n) % 2 ^ 56) n s).bind (fun s1 =>
    playAt (b.fillAt g) (binFill o b g s1) (fun f2 s2 =>
      (playShift o b g f (f2 - f) 0 s2).bind (fun s3 =>
        playAt (b.fillAt g) (binWrite o (b.fillAt g) 4 (f2 - f) s3) (fun _ s4 =>
          .go (updEngine e.id (fun x => { x with fill := none, done := x.done + 1 }) s4)))))

/-- 06 R194: the engine goes on with the next region of a `bin.play`: it reads and applies its records, or writes it back; or it ends: after its
last region, at a fault, or stopped by a pre-emption after the region under way. The first region begins behind the thread's earlier accesses
(R171). -/
def execBinRegionReplay (n : Nat) (s : State) : Out :=
  .next (match s.engines[n]? with
    | none => s
    | some e =>
      if e.kind != 0x18 || e.held s then s
      else if e.done ≥ e.len then endEngine e stDone 0 e.done 0 s
      else if e.stop && e.fill.isNone then endEngine e stStopped 0 e.done 0 s
      else
        let g := e.near + e.done
        let r := match e.fill with
          | some f => playOut e g f s
          | none => if (e.done == 0 && e.behind s) || playing s e.far e.asid g then .go s else playIn e g s
        match r with
        | .go s1 => s1
        | .stop c a s1 => endEngine e stFault c.toNat e.done a s1
        | .wait p => meetAt (.engine e.id) p s)

end Sys2Proof.Machine
end

