-- ==== Sys2Proof/Machine/Branch.lean ====
section
/-! DEFINITION. Branches, calls and hardware loops: majors 0x18 to 0x22 (04 R114 to R121). -/

namespace Sys2Proof.Machine

/-- A conditional branch (04 R114): not taken, it completes like any instruction. -/
def branch (taken : Bool) (ofs : Nat) (s : State) : State :=
  if taken then jump (relTarget s 15 ofs) s else advance 4 s

def branchR (c : Cond) (ra rb ofs : Nat) (s : State) : Out :=
  issueB [ra, rb] s (fun s => branch (c.holds (rx s ra) (rx s rb)) ofs s)

/-- 04 R114. -/
def execBeq (ra rb ofs : Nat) (s : State) : Out := branchR .eq ra rb ofs s

/-- 04 R114. -/
def execBne (ra rb ofs : Nat) (s : State) : Out := branchR .ne ra rb ofs s

/-- 04 R114. -/
def execBltI64 (ra rb ofs : Nat) (s : State) : Out := branchR .ltI ra rb ofs s

/-- 04 R114. -/
def execBgeI64 (ra rb ofs : Nat) (s : State) : Out := branchR .geI ra rb ofs s

/-- 04 R114. -/
def execBltN64 (ra rb ofs : Nat) (s : State) : Out := branchR .ltN ra rb ofs s

/-- 04 R114. -/
def execBgeN64 (ra rb ofs : Nat) (s : State) : Out := branchR .geN ra rb ofs s

/-- 04 R115. -/
def execBk (ra ofs : Nat) (s : State) : Out := issueB [32 + ra] s (fun s => branch (rk s ra) ofs s)

/-- 04 R115. -/
def execBnk (ra ofs : Nat) (s : State) : Out := issueB [32 + ra] s (fun s => branch (!rk s ra) ofs s)

/-- 04 R116. -/
def execCall (rd ofs : Nat) (s : State) : Out :=
  issueB [] s (fun s => jump (relTarget s 20 ofs) (wx s rd (nextPc s)))

/-- 04 R117, R118: the target is computed from the old X[RA] and checked before anything is written. -/
def execCallr (rd ra g imm : Nat) (s : State) : Out :=
  issue g 4 [ra] s (fun s =>
    let t := wrap64 ((rx s ra).toInt + (imm12 imm).toInt)
    if bits t 1 0 ≠ 0 ∨ bits t 63 56 ≠ 0 then trap 0x004 t s
    else jump t.toNat (wx s rd (nextPc s)))

def Thread.loopAt (t : Thread) (n : Nat) : HwLoop := if n = 0 then t.loop0 else t.loop1
def Thread.setLoop (t : Thread) (n : Nat) (l : HwLoop) : Thread :=
  if n = 0 then { t with loop0 := l } else { t with loop1 := l }

/-- 04 R119: the cause that `loop` raises, if it raises one. -/
def loopCause (t : Thread) (n len : Nat) (c : Word) : Option (BitVec 10) :=
  if (t.loopAt n).body ≠ 0 then some 0x005
  else if n = 1 ∧ t.loop0.body ≠ 0 ∧ t.pc.toNat + 4 + 4 * len > t.loop0.start4 + 4 * t.loop0.body.toNat then some 0x005
  else if n = 0 ∧ t.loop1.body ≠ 0 then some 0x005
  else if c.toNat > 2 ^ 32 then some 0x006
  else none

/-- 04 R119. The level is written as the instruction completes, after the check of R120 on its own last word. -/
def execLoop (lp ra g imm : Nat) (s : State) : Out :=
  issue g 4 [ra] s (fun s =>
    let c := rx s ra
    let pc := (th s).pc.toNat
    match loopCause (th s) lp imm c with
    | some x => trap x c s
    | none =>
      if c = 0 then jump ((pc + 4 + 4 * imm) % 2 ^ 56) s
      else updMe (advance 4 s) (fun t =>
        t.setLoop lp ⟨BitVec.ofNat 32 (c.toNat - 1), BitVec.ofNat 16 imm, BitVec.ofNat 54 ((pc + 4) % 2 ^ 56 / 4)⟩))

end Sys2Proof.Machine
end

