-- ==== Sys2Proof/Machine/Matrix.lean ====
section
/-! DEFINITION. The matrix instructions, major 0x46, and the macro sequencer (06 R197 to R202; 01 R21, R23, R24, R30 to
R40, R424). -/

namespace Sys2Proof.Machine

/-! ## Issue (06 R198 to R202) -/

def mRow0 (a : Word) : Nat := bits a 21 16
def mPlanesX (ext : Nat) : Nat := nb ext 19 16
def mM (ext : Nat) : Nat := nb ext 15 10 + 1
def mNn (ext : Nat) : Nat := nb ext 14 8 + 1
def mKk (ext : Nat) : Nat := nb ext 7 0 + 1
/-- Rows of `macc.zero`. -/
def zM (ext : Nat) : Nat := nb ext 5 0 + 1

/-- The bits of X[RA] and of EXT that a form may use (06 R198). -/
def matMasks (fn : Nat) : Nat × Nat :=
  match fn with
  | 0 => (0x33F0FFF, 0xFFFFFC00)
  | 1 => (0xFFF, 0xFFFFFFFF)
  | 2 => (0x833F0FFF, 0xFFF0FC00)
  | _ => (0x3F0FFF, 0x3F)

/-- Is a bit set that must be zero, or the NAN code 1 used? -/
def matBits (fn : Nat) (a : Word) (ext : Nat) : Bool :=
  (a.toNat ||| (matMasks fn).1) != (matMasks fn).1 || (ext ||| (matMasks fn).2) != (matMasks fn).2 || (fn == 0 && bits a 25 24 == 1)

/-- The matrix cell that X[RA] names: inside the district, in sequencer mode. -/
def matCell (s : State) (k : District) (a : Word) : Option Nat :=
  match cfgElem k (bits a 5 0) (bits a 11 6) with
  | .ok e => if elemKind e = .matrix ∧ (elem s e).mSrc = 0 then some e else none
  | .error _ => none

/-- FMTUSE at issue (01 R24, R30, R32; 06 R202). -/
def matFmtBad (fn : Nat) (e : Ent) (ext : Nat) : Bool :=
  match fn with
  | 0 => (matKind false e.fmt (mPlanesX ext)).isNone
  | 1 => (matKind true e.fmt (mPlanesX ext)).isNone
  | 2 => decide (e.fmt > 2)
  | _ => false

/-- MTSHAPE at issue: the ranges of R199, R200 and R202. -/
def matShapeBad (fn : Nat) (e : Ent) (a b : Word) (ext : Nat) : Bool :=
  let r := tileR b.toNat
  let c := tileC b.toNat
  match fn with
  | 0 => decide (mRow0 a + mM ext > 64 ∨ r + mM ext > e.rows ∨ c ≥ e.d0) || (e.sbase != 0 && c % e.sgroup != 0) ||
      (fmtIsNb e.fmt && c % 256 != 0) || (fmtIs4 e.fmt && c % 2 != 0)
  | 1 => decide (r + mNn ext > e.rows ∨ c + mKk ext > e.d0) || c % e.sgroup != 0 || (fmtIsNb e.fmt && c % 256 != 0)
  | 2 => decide (mRow0 a + mM ext > 64 ∨ r + mM ext > e.rows ∨ c ≥ e.d0) || !e.dense
  | _ => decide (mRow0 a + zM ext > 64)

/-- A matrix instruction goes to the sequencer's queue, which holds 8 (06 R201), and enters it behind the commands before it (06 R173). -/
def matForm (fn rd ra rb ext : Nat) (s : State) : State :=
  let a := rx s ra
  let b := rx s rb
  issueCpl (rx s rd) s (fun s =>
    match myDist s with
    | none => (.cause 0x14A 0, s)
    | some (d, k) =>
      if matBits fn a ext then (.cause 0x282 a, s)
      else match matCell s k a with
        | none => (.cause 0x281 a, s)
        | some cell =>
          let ws := tidWords s (th s).asid.toNat (dmaN ext)
          let e := Ent.ofWords ws
          let id := BitVec.ofNat 64 (dmaN ext)
          if fn ≠ 3 ∧ entMissing s (dmaN ext) then (.cause 0x2C5 id, s)
          else if matFmtBad fn e ext then (.cause 0x2C2 id, s)
          else if matShapeBad fn e a b ext then (.cause 0x282 a, s)
          else if k.seqq.length ≥ 8 ∨ k.tdown.isSome then (.wait, s)
          else
            let q : SeqInstr := {
              fn := fn, cell := cell, xa := a, xb := b, ext := ext, cpl := rx s rd, entry := ws,
              loads := (if k.cfg.isSome then 1 else 0) + k.cfgq.length, after := ((k.invs.getLast?).map (fun v => v.id)).getD 0, step := 0, row := 0, rowInts := [], rowSc := [],
              unitE := [], fetched := [], fetchedSc := [], fault := none, nans := 0, infs := 0, ovfs := 0 }
            (.send (fun s => advance 8 (updDist s d (fun k => { k with seqq := k.seqq ++ [q] }))), s))

/-- 06 R200. -/
def execMtile (rd ra rb g ext : Nat) (s : State) : Out := issue g 8 [rd, ra, rb] s (noTx (matForm 0 rd ra rb ext))
/-- 06 R199. -/
def execMbload (rd ra rb g ext : Nat) (s : State) : Out := issue g 8 [rd, ra, rb] s (noTx (matForm 1 rd ra rb ext))
/-- 06 R202. -/
def execMaccCp (rd ra rb g ext : Nat) (s : State) : Out := issue g 8 [rd, ra, rb] s (noTx (matForm 2 rd ra rb ext))
/-- 06 R202. -/
def execMaccZero (rd ra g ext : Nat) (s : State) : Out := issue g 8 [rd, ra] s (noTx (matForm 3 rd ra 0 ext))

/-! ## The sequencer's accesses -/

def SeqInstr.ent (q : SeqInstr) : Ent := Ent.ofWords q.entry
def SeqInstr.r (q : SeqInstr) : Nat := tileR q.xb.toNat
def SeqInstr.c (q : SeqInstr) : Nat := tileC q.xb.toNat
def SeqInstr.kind? (q : SeqInstr) : Option MKind := matKind (q.fn == 1) q.ent.fmt (mPlanesX q.ext)

/-- The rows that an instruction works on. -/
def SeqInstr.rows (q : SeqInstr) : Nat :=
  match q.fn with
  | 1 => mNn q.ext
  | 3 => zM q.ext
  | _ => mM q.ext

/-- The bytes of a run of n columns, from the byte of its first column, that are read: of plane blocks, the planes asked
for (01 R24). -/
def neededBytes (fmt planes n : Nat) : List Nat :=
  if fmtIsNb fmt then
    (List.range (if planes = 0 then fmtBits fmt else planes)).flatMap (fun p => (List.range (cdiv n 8)).map (fun b => 32 * p + b))
  else List.range (rowBytes fmt n)

/-- Reads byte i of a run for the sequencer: in the window it waits behind the scoreboard (06 R191). -/
def seqByte (k : District) (i va : Nat) (s : State) : Gw PByte × State :=
  if region va = 1 ∧ k.boardBusy (winOff va) 1 then (.wait none, s)
  else engByte k.owner (some k.rect) i (some va) s

/-- Reads bytes at offsets of an address; the answer has a byte for each offset below the highest. -/
def seqBytes (k : District) (va : Nat) : List Nat → SMap PByte → State → Gw (SMap PByte) × State
  | [], m, s => (.ok m, s)
  | o :: l, m, s =>
    gwBind (seqByte k m.length ((va + o) % 2 ^ 56) s) (fun b s1 => seqBytes k va l (mset m o b) s1)

/-- The codes of n columns of row r from column c on. -/
def seqCodes (k : District) (e : Ent) (planes r c n : Nat) (s : State) : Gw (List (Nat × Bool)) × State :=
  let offs := neededBytes e.fmt planes n
  gwBind (seqBytes k (e.addr r c) offs [] s) (fun m s1 =>
    let size := offs.foldl max 0 + 1
    (.ok (codes e.fmt n ((List.range size).map (fun o => mget m o (0, false)))), s1))

/-- The group scales of n columns of row r from column c on, as read: 16 bits, or the 32-bit descriptor of Z4 (01 R21,
R33). Without a scale array each is 1.0, and the zero point of Z4 is a free value, the same at each read (01 R44). -/
def seqScales (k : District) (e : Ent) (r c n : Nat) (s : State) : Gw (List (Nat × Bool)) × State :=
  let cnt := cdiv n e.sgroup
  if e.sbase = 0 then
    let zero := fun (j : Nat) => if e.fmt = 0x19 then (Config.freeZero e.base r (c / e.sgroup + j)).toNat * 2 ^ 16 else 0
    (.ok ((List.range cnt).map (fun j => (scaleOne e.fmt + zero j, false))), s)
  else
    let w := if e.fmt = 0x19 then 4 else 2
    gwBind (seqBytes k (e.scaleAddr w r (c / e.sgroup)) (List.range (w * cnt)) [] s) (fun m s1 =>
      let at_ := fun o => mget m o (0, false)
      (.ok ((List.range cnt).map (fun j =>
        let bs := (List.range w).map (fun i => at_ (w * j + i))
        (leNat (bs.map Prod.fst), bs.any Prod.snd))), s1))

/-! ## The head of the queue -/

/-- Does the sequencer of a gated district run on to its next interrupt point, for a pre-emption (13 R353)? -/
def seqRunsOn (s : State) (k : District) (q : SeqInstr) : Bool := (core s k.core).cstat == 4 && q.step != 0

/-- Has an instruction entered the queue: every earlier `cfg.load` has completed, every earlier `invoke` started (06 R173)? -/
def SeqInstr.entered (q : SeqInstr) (k : District) : Bool := q.loads == 0 && !k.invs.any (fun v => !v.started && decide (v.id ≤ q.after))

/-- The instruction that the sequencer runs now (06 R173, R201). -/
def seqHead (s : State) (d : Nat) : Option (District × SeqInstr) :=
  match mget? s.districts d with
  | none => none
  | some k => match k.seqq with
    | q :: _ => if (k.gated && !seqRunsOn s k q) || !q.entered k then none else some (k, q)
    | [] => none

def setHead (d : Nat) (q : SeqInstr) (s : State) : State :=
  updDist s d (fun k => { k with seqq := q :: k.seqq.drop 1 })

def stopHead (d : Nat) (q : SeqInstr) (c : BitVec 10) (s : State) : State := setHead d { q with fault := some c } s

/-- Is a step of an instruction due? -/
def SeqInstr.at (q : SeqInstr) (fn step : Nat) : Bool := q.fn == fn && q.step == step && q.fault.isNone && decide (q.row < q.rows)

/-- Must the first access of an instruction wait for those that its thread has made before (06 R171)? -/
def SeqInstr.early (q : SeqInstr) (k : District) (s : State) : Bool := q.row == 0 && k.behind s

/-- Codes and scales as they are fetched, before the alignment. -/
def rawElem (c : Nat × Bool) : BElem := ⟨c.1, 0, c.2⟩
def rawScale (c : Nat × Bool) : BScale := ⟨⟨c.1, 0⟩, 0, c.2⟩
def BElem.raw (b : BElem) : Nat × Bool := (b.i.toNat, b.p)
def BScale.raw (b : BScale) : Nat × Bool := (b.v.m.toNat, b.p)

/-! ## mbload (06 R199, R201: B1, B2) -/

/-- One row of B through the prologue: its elements, and for each 16 of them their scale with unit and factor, with the
counts of what is not finite (01 R32, R33, R39, R40). -/
def prologue (e : Ent) (mk : MKind) (cs scs : List (Nat × Bool)) : List BElem × List BScale × Nat × Nat :=
  let z := fun i => nb (scs.getD (i / e.sgroup) (0, false)).1 19 16
  let (ints, units) := convRow true mk cs z
  let group := scs.map (fun x => scaleOf e.fmt (x.1 % 2 ^ 16) x.2 (factorExp e.fmt mk))
  let sc := (List.range (cdiv cs.length 16)).map (fun h =>
    let g := group.getD (16 * h / e.sgroup) .one
    { g with v := g.v.mul ⟨1, units.getD (h / 2) 0⟩ })
  let (n1, i1) := clsCounts (ints.map (fun a => a.cls))
  let (n2, i2) := clsCounts (group.map (fun x => x.cls))
  (ints, sc, n1 + n2, i1 + i2)

/-- Fetches and converts up to n rows of B from row `row` on. -/
def fetchB (k : District) (q : SeqInstr) (mk : MKind) : Nat → Nat → List BElem → List BScale → Nat × Nat → State →
    Gw (List BElem × List BScale × Nat × Nat) × State
  | 0, _, es, ss, c, s => (.ok (es, ss, c.1, c.2), s)
  | n + 1, row, es, ss, c, s =>
    if row ≥ q.rows then (.ok (es, ss, c.1, c.2), s)
    else
      gwBind (seqCodes k q.ent (mPlanesX q.ext) (q.r + row) q.c (mKk q.ext) s) (fun cs s1 =>
        gwBind (seqScales k q.ent (q.r + row) q.c (mKk q.ext) s1) (fun scs s2 =>
          let (e, sc, a, b) := prologue q.ent mk cs scs
          fetchB k q mk n (row + 1) (es ++ e) (ss ++ sc) (c.1 + a, c.2 + b) s2))

/-- 06 R201 step B1. -/
def execSeqBFetch (d : Nat) (s : State) : Out :=
  .next (match seqHead s d with
    | none => s
    | some (k, q) =>
      if !q.at 1 0 || q.early k s then s
      else match q.kind? with
        | none => stopHead d q 0x2C2 s
        | some mk =>
          match fetchB k q mk 16 q.row [] [] (0, 0) s with
          | (.fault c, s1) => stopHead d q c s1
          | (.wait p, _) => meetAt (.dist d) p s
          | (.ok (es, ss, a, b), s1) =>
            setHead d { q with step := 1, fetched := es, fetchedSc := ss, nans := satAdd32 q.nans a, infs := satAdd32 q.infs b } s1)

/-- Writes converted rows from row `row` on into a macro. -/
def writeB (q : SeqInstr) (m : Mat) : Mat :=
  let kk := mKk q.ext
  let hh := cdiv kk 16
  let b := ((List.range q.fetched.length).zip q.fetched).foldl (fun b p => mset b ((q.row + p.1 / kk) * 256 + p.1 % kk) p.2) m.b
  let sc := ((List.range q.fetchedSc.length).zip q.fetchedSc).foldl (fun b p => mset b ((q.row + p.1 / hh) * 16 + p.1 % hh) p.2) m.sc
  { m with b := b, sc := sc }

/-- 06 R201 step B2: the first write of a load empties the macro; CLEAN is recorded with what restoration repeats. -/
def execSeqBWrite (d : Nat) (s : State) : Out :=
  .next (match seqHead s d with
    | none => s
    | some (_, q) =>
      if !q.at 1 1 then s
      else
        let clean := if nb q.ext 15 15 = 1 then some (q.entry ++ [q.xb, BitVec.ofNat 64 q.ext]) else none
        let s1 := updElem s q.cell (fun x => x.withMat (fun m =>
          let m0 := if q.row = 0 then { m with b := [], sc := [], sgroup := q.ent.sgroup, kk := mKk q.ext, clean := clean } else m
          writeB q m0))
        setHead d { q with step := 0, row := q.row + 16, fetched := [], fetchedSc := [] } s1)

/-! ## mtile (06 R200, R201: A1 to A4) -/

/-- The checks that an `mtile` makes as it takes effect. -/
def tileEffectBad (s : State) (q : SeqInstr) : Bool :=
  let kk := (elem s q.cell).mat.kk
  kk == 0 || decide (q.c + kk > q.ent.d0)

/-- 06 R201 step A1. -/
def execSeqAFetch (d : Nat) (s : State) : Out :=
  .next (match seqHead s d with
    | none => s
    | some (k, q) =>
      if !q.at 0 0 || q.early k s then s
      else if tileEffectBad s q then stopHead d q 0x282 s
      else
        let kk := (elem s q.cell).mat.kk
        let got := gwBind (seqCodes k q.ent (mPlanesX q.ext) (q.r + q.row) q.c kk s) (fun cs s1 =>
          gwBind (seqScales k q.ent (q.r + q.row) q.c kk s1) (fun scs s2 => (.ok (cs, scs), s2)))
        match got with
        | (.fault c, s1) => stopHead d q c s1
        | (.wait p, _) => meetAt (.dist d) p s
        | (.ok (cs, scs), s1) => setHead d { q with step := 1, fetched := cs.map rawElem, fetchedSc := scs.map rawScale } s1)

/-- The NaN mode of an `mtile` (01 R36; 06 R198). -/
def SeqInstr.nanz (q : SeqInstr) : Bool :=
  match bits q.xa 25 24 with
  | 3 => true
  | 2 => false
  | _ => q.ent.nanz

/-- 06 R201 step A2; 01 R31. -/
def execSeqAAlign (d : Nat) (s : State) : Out :=
  .next (match seqHead s d with
    | none => s
    | some (_, q) =>
      if !q.at 0 1 then s
      else match q.kind? with
        | none => stopHead d q 0x2C2 s
        | some mk =>
          let (ints, units) := convRow q.nanz mk (q.fetched.map BElem.raw) (fun _ => 0)
          let sc := q.fetchedSc.map (fun x => scaleOf q.ent.fmt x.raw.1 x.raw.2 (factorExp q.ent.fmt mk))
          setHead d { q with step := 2, rowInts := ints, unitE := units, rowSc := sc, fetched := [], fetchedSc := [] } s)

/-- 06 R201 step A3: the planes of the row stand at the macro. -/
def execSeqABroadcast (d : Nat) (s : State) : Out :=
  .next (match seqHead s d with
    | none => s
    | some (_, q) => if !q.at 0 2 then s else setHead d { q with step := 3 } s)

/-- 06 R201 step A4; 01 R34. -/
def execSeqAAccumulate (d : Nat) (s : State) : Out :=
  .next (match seqHead s d with
    | none => s
    | some (_, q) =>
      if !q.at 0 3 then s
      else
        let row := rowOf q.rowInts q.unitE q.rowSc q.ent.sgroup
        let (m, a, b, o) := rowStep q.nanz (elem s q.cell).mat row (mRow0 q.xa + q.row)
        setHead d { q with step := 0, row := q.row + 1, rowInts := [], rowSc := [], unitE := [],
                           nans := satAdd32 q.nans a, infs := satAdd32 q.infs b, ovfs := satAdd32 q.ovfs o }
          (updElem s q.cell (fun x => { x with mat := m })))

/-! ## macc.cp and macc.zero (06 R202) -/

/-- The columns that a row of a copy moves. -/
def SeqInstr.cols (q : SeqInstr) : Nat := min 128 (q.ent.d0 - q.c)

/-- The bytes of an accumulator row in C's format, with their marks. -/
def accBytes (q : SeqInstr) (m : Mat) : List PByte :=
  let f := (fmtFloat q.ent.fmt).getD fp32
  (List.range q.cols).flatMap (fun j =>
    let w := matAcc m (mRow0 q.xa + q.row) j
    (toBytes (fmtBits q.ent.fmt / 8) (roundV f (f32 w.v) (bits q.xa 25 24))).map (fun b => (b, w.p)))

/-- Writes bytes at consecutive addresses, or nothing where one of them cannot be written. -/
def seqStore (k : District) (va : Nat) : List PByte → Nat → Moved → State → Moved × State
  | [], _, m, s => (m, s)
  | (b, p) :: l, i, m, s =>
    let a := (va + i) % 2 ^ 56
    if region a == 1 && k.boardBusy (winOff a) 1 then ({ m with held := true }, s)
    else match engPut k.owner (some k.rect) i a b p s with
      | (.fault c, s1) => ({ m with cause := some c }, s1)
      | (.wait q, s1) => ({ m with held := true, wait := q }, s1)
      | (.ok pl, s1) =>
        seqStore k va l (i + 1) { m with n := m.n + 1, wrote := m.wrote ++ [pl], bad := if p then m.bad ++ [pl] else m.bad } s1

/-- Loads a row of C into the accumulator. -/
def accLoad (q : SeqInstr) (cs : List (Nat × Bool)) (m : Mat) : Mat :=
  let f := (fmtFloat q.ent.fmt).getD fp32
  { m with acc := ((List.range cs.length).zip cs).foldl (fun a p => mset a ((mRow0 q.xa + q.row) * 128 + p.1) ⟨widen f p.2.1, p.2.2⟩) m.acc }

/-- One row of a `macc.cp`: the row is moved whole, or not at all. -/
def copyRow (d : Nat) (k : District) (q : SeqInstr) (s : State) : State :=
  let next := fun s => setHead d { q with row := q.row + 1 } s
  if bit q.xa 31 then
    match seqCodes k q.ent 0 (q.r + q.row) q.c q.cols s with
    | (.fault c, s1) => stopHead d q c s1
    | (.wait p, _) => meetAt (.dist d) p s
    | (.ok cs, s1) => next (updElem s1 q.cell (fun x => x.withMat (accLoad q cs)))
  else
    let (m, s1) := seqStore k (q.ent.addr (q.r + q.row) q.c) (accBytes q (elem s q.cell).mat) 0 .start s
    if m.held then meetAt (.dist d) m.wait s
    else match m.cause with
      | some c => stopHead d q c s
      | none => next (settleMarks m s1)

/-- 06 R202. -/
def execSeqAccRowMove (d : Nat) (s : State) : Out :=
  .next (match seqHead s d with
    | none => s
    | some (k, q) =>
      if q.at 2 0 then (if q.early k s then s else copyRow d k q s)
      else if q.at 3 0 then
        setHead d { q with row := q.row + 1 } (updElem s q.cell (fun x => x.withMat (zeroRow (mRow0 q.xa + q.row))))
      else s)

/-! ## The end of an instruction (06 R198, R201) -/

def setSeqCpl (k : District) (q : SeqInstr) (state cause : Nat) (s : State) : State :=
  setCpl k.owner q.cpl (cplWord state cause 0 (0x28 + q.fn)) q.nans.toNat q.infs.toNat q.ovfs.toNat s

/-- 06 R201 step D: the object is set; a fault cancels the queue behind it, of which an instruction that has not entered it is no part. -/
def execSeqSetCompletion (d : Nat) (s : State) : Out :=
  .next (match seqHead s d with
    | none => s
    | some (k, q) =>
      match q.fault with
      | some c =>
        let s1 := updDist (setSeqCpl k q stFault c.toNat s) d (fun k => { k with seqq := (k.seqq.drop 1).filter (fun q => !q.entered k) })
        ((k.seqq.drop 1).filter (fun q => q.entered k)).foldl (fun s q => setSeqCpl k q stCancelled 0 s) s1
      | none => if q.row < q.rows then s else setSeqCpl k q stDone 0 (updDist s d (fun k => { k with seqq := k.seqq.drop 1 })))

end Sys2Proof.Machine
end

