-- ==== Sys2Proof/Machine/Queue.lean ====
section
/-! DEFINITION. Continuation records, the hub's queues and gang table, and join counters (12 R309 to R316, R324, R325; 06
R203). -/

namespace Sys2Proof.Machine

/-! ## The record (12 R309) -/

def Rec.code (r : Rec) : Nat := bits r.d0 55 2 * 4
def Rec.frame (r : Rec) : Nat := bits r.d1 55 0
def Rec.join (r : Rec) : Nat := bits r.d2 55 4 * 16
def Rec.asid (r : Rec) : BitVec 16 := BitVec.ofNat 16 (bits r.d3 63 48)
def Rec.gang (r : Rec) : Nat := bits r.d3 47 32
def Rec.gsize (r : Rec) : Nat := bits r.d3 31 26 + 1
def Rec.prio (r : Rec) : Nat := bits r.d3 25 24
def Rec.graph (r : Rec) : Bool := bit r.d3 22
def Rec.queue (r : Rec) : Nat := bits r.d3 21 16
def Rec.dist (r : Rec) : Bool := bit r.d3 15
def Rec.place (r : Rec) : Nat := bits r.d3 11 10
def Rec.quar (r : Rec) : Nat := bits r.d3 9 8
def Rec.height (r : Rec) : Nat := bits r.d3 6 4 + 1
def Rec.width (r : Rec) : Nat := bits r.d3 2 0 + 1

/-- The record in 32 bytes of memory. -/
def Rec.ofBytes (bs : List Byte) : Rec :=
  let d := fun (j : Nat) => BitVec.ofNat 64 (leNat ((bs.drop (8 * j)).take 8))
  ⟨d 0, d 1, d 2, d 3⟩

/-- The record with bit 23 set (12 R325). -/
def Rec.cancelled (r : Rec) : Rec := { r with d3 := r.d3 ||| BitVec.ofNat 64 (2 ^ 23) }

/-- Is a record malformed for a queue of a space (12 R310)? The hub's own copies may carry CANCEL. -/
def Rec.bad (r : Rec) (asid : BitVec 16) (copy : Bool) : Bool :=
  bits r.d0 63 56 != 0 || bits r.d0 1 0 != 0 || bits r.d1 63 56 != 0 || bits r.d2 63 56 != 0 || bits r.d2 3 0 != 0 ||
  bits r.d3 14 12 != 0 || bit r.d3 7 || bit r.d3 3 || (bit r.d3 23 && !copy) || decide (r.place ≥ 2) ||
  (r.gang == 0 && r.gsize != 1) || (r.graph && (r.gang != 0 || r.dist || r.frame != 0)) || r.asid != asid

/-! ## Queues (12 R312 to R316) -/

def queue (s : State) (q : Nat) : Queue := mget s.queues q .reset
def updQueue (q : Nat) (f : Queue → Queue) (s : State) : State := { s with queues := mset s.queues q (f (queue s q)) }
def Queue.lane (k : Queue) (p : Nat) : List QRec := mget k.lanes p []

/-- The records that a lane holds at most (12 R312). -/
def Queue.cap (k : Queue) : Nat := 2 ^ (k.log2size.toNat + 4)

/-- Does the state accept records (12 R316)? -/
def Queue.accepts (k : Queue) : Bool := k.state == 1 || k.state == 2

/-- Notes a refusal in HQ_ERR (12 R315): flag bits and a cause. -/
def noteErr (q flags cause : Nat) (s : State) : State :=
  updQueue q (fun k => { k with errFlags := k.errFlags ||| BitVec.ofNat 8 flags, errCause := BitVec.ofNat 10 cause }) s

def gangAt (s : State) (asid : BitVec 16) (g : Nat) : Option Gang := s.gangs.find? (fun x => x.asid == asid && x.gang == g)

/-- Does a copy of a record wait at the hub for the place that a record needs: its lane, its gang's entry, or a free entry of the gang table
(12 R324, R325)? -/
def copyWaits (s : State) (q : Nat) (r : Rec) : Bool :=
  s.recWait.any (fun x =>
    if r.gang = 0 then x.r.queue == q && x.r.gang == 0 && x.r.prio == r.prio
    else if (gangAt s r.asid r.gang).isSome then x.r.gang == r.gang && x.r.asid == r.asid
    else x.r.gang != 0 && (gangAt s x.r.asid x.r.gang).isNone)

/-! ## Entering a queue (12 R312, R324) -/

/-- What comes of a record that enters a queue. -/
inductive Enq where
  | queued (s : State)
  | bad
  | differs
  | full
  | off
  | torn

/-- The four doublewords of a record as bytes (12 R309). -/
def Rec.bytes (r : Rec) : List Byte := toBytes 8 r.d0.toNat ++ toBytes 8 r.d1.toNat ++ toBytes 8 r.d2.toNat ++ toBytes 8 r.d3.toNat

/-- The address of a slot of lane p: the lanes stand one after another from the base (12 R312). -/
def Queue.slotAddr (k : Queue) (p slot : Nat) : Nat := k.base.toNat * 4096 + 32 * (p * k.cap + slot % k.cap)

/-- A record stands in its slot of device memory (12 R312; log entry 55). -/
def ringWrite (q p slot : Nat) (r : Rec) (s : State) : State :=
  let a := (queue s q).slotAddr p slot
  if a + 32 ≤ devTop then placeWrite s (.dev a) r.bytes false else s

/-- A record takes the slot at the tail of its lane (12 R312). -/
def laneEnter (q : Nat) (x : QRec) (s : State) : State :=
  let k := queue s q
  let t := mget k.tails x.r.prio 0
  ringWrite q x.r.prio t x.r (updQueue q (fun k => { k with
    lanes := mset k.lanes x.r.prio (k.lane x.r.prio ++ [x]), tails := mset k.tails x.r.prio ((t + 1) % k.cap) }) s)

/-- A record goes back to the head of its lane, into the slot before the first one (12 R323). -/
def laneReturn (q : Nat) (x : QRec) (s : State) : State :=
  let k := queue s q
  let n := (k.lane x.r.prio).length
  ringWrite q x.r.prio (mget k.tails x.r.prio 0 + k.cap * (n + 1) - n - 1) x.r
    (updQueue q (fun k => { k with lanes := mset k.lanes x.r.prio (x :: k.lane x.r.prio) }) s)

/-- A well-formed record enters its lane, or the gang table (12 R324), stamped with the fabric time. A gang that is
complete takes no further member. -/
def enter (q : Nat) (x : QRec) (s : State) : Enq :=
  let y := { x with enq := s.ns }
  if x.r.gang = 0 then
    let l := (queue s q).lane x.r.prio
    if l.length ≥ (queue s q).cap then .full
    else .queued (laneEnter q y s)
  else
    match gangAt s x.r.asid x.r.gang with
    | none =>
      if s.gangs.length ≥ 16 then .full
      else .queued { s with gangs := s.gangs ++ [⟨x.r.asid, x.r.gang, x.r.gsize, q, [y]⟩] }
    | some g =>
      if g.members.length ≥ g.size then .full
      else if g.size ≠ x.r.gsize ∨ g.q ≠ q ∨ (g.members.headD y).r.prio ≠ x.r.prio then .differs
      else .queued { s with gangs := s.gangs.map (fun h => if h = g then { g with members := g.members ++ [y] } else h) }

/-- A record that software sends to queue q (12 R310, R316, R325). -/
def enqueue (q : Nat) (r : Rec) (s : State) : Enq :=
  if r.bad (queue s q).asid false then .bad
  else if (queue s q).state = 0 then .off
  else if !(queue s q).accepts then .torn
  else if copyWaits s q r then .full
  else enter q ⟨r, 0, none, none⟩ s

/-! ## Decrements (12 R325) -/

/-- The decrement with CANCEL that a discarded record owes, to its JOIN or to the walk that waits for it. -/
def discardRec (q : Nat) (x : QRec) (s : State) : State :=
  if x.r.join = 0 ∧ x.walk = none then s
  else { s with decrs := s.decrs ++ [⟨x.r.join, x.r.asid, false, true, q, x.walk⟩] }

/-- The record of another queue's work: a copy made at a join counter meets its queue (12 R325). -/
def copyEnter (x : QRec) (s : State) : Enq :=
  let q := x.r.queue
  if x.r.bad (queue s q).asid true then .bad
  else if (queue s q).state = 0 then .off
  else if !(queue s q).accepts then .torn
  else enter q x s

/-- A copy enters, waits at the hub, or is discarded with its JOIN decremented. A gang member that disagrees is discarded
like a malformed one. -/
def copyRec (x : QRec) (s : State) : State :=
  if (queue s x.r.queue).accepts && copyWaits s x.r.queue x.r && !x.r.bad (queue s x.r.queue).asid true then
    { s with recWait := s.recWait ++ [x] }
  else match copyEnter x s with
    | .queued s1 => s1
    | .full => { s with recWait := s.recWait ++ [x] }
    | _ => discardRec x.r.queue x s

/-- The hub's translation of an address of a record's space (12 R325; 13 R336): it stands in quarter 0, and uses the mode
of the thread whose work it does. -/
def hubXlate (s : State) (asid : BitVec 16) (supv : Bool) (va : Nat) (n : Need) (count : Bool) : Except (BitVec 10) Place × State :=
  match amoPlaceCause va with
  | some c => (.error c, s)
  | none =>
    match xlate s ⟨0, asid.toNat, supv, none⟩ va n count with
    | (.ok (.hub _), s1) => (.error 0x046, s1)
    | r => r

/-- Bytes that the hub reads; another device's are free values. -/
def hubBytes (p : Place) (n : Nat) (s : State) : List Byte × State :=
  if isPeer p then (freeBytes s n, { s with freeIx := s.freeIx + n }) else (placeRead s p n, s)

/-- The copy of the record at REC (12 R325). -/
def makeCopy (d : Decr) (ra : Nat) (cancel : Bool) (s : State) : State :=
  match hubXlate s d.asid d.supv ra needR true with
  | (.error c, s1) => noteErr d.q 0x80 c.toNat s1
  | (.ok p, s1) =>
    if placeReadPois s1 p 32 then noteErr d.q 0x80 0x109 s1
    else
      let (bs, s2) := hubBytes p 32 s1
      let r := Rec.ofBytes bs
      copyRec ⟨if cancel then r.cancelled else r, 0, none, none⟩ s2

/-- One decrement of a counter in memory at its home (12 R325). -/
def decrAt (d : Decr) (p : Place) (s : State) : State :=
  if placeReadPois s p 16 then noteErr d.q 0x80 0x109 s
  else
    let (bs, s1) := hubBytes p 16 s
    let w := leNat (bs.take 8)
    let n := w % 2 ^ 32
    if n = 0 then updQueue d.q (fun k => { k with errCause := 0x244 }) s1
    else
      let cancel := d.cancel || w.testBit 32
      let w1 := w / 2 ^ 33 * 2 ^ 33 + (if cancel then 2 ^ 32 else 0) + (n - 1)
      let s2 := placeWrite s1 p (toBytes 8 w1) false
      let ra := leNat (bs.drop 8)
      if n = 1 ∧ ra ≠ 0 then makeCopy d (ra % 2 ^ 56 / 32 * 32) cancel s2 else s2

/-- A decrement of a counter in memory; on a page that is moving it stays where it is (13 R345). -/
def decrMem (d : Decr) (s : State) : State :=
  match hubXlate s d.asid d.supv d.join needRW false with
  | (.error c, s1) => noteErr d.q 0x80 c.toNat s1
  | (.ok p, s1) =>
    if (migAt s1 p).isSome then meetFrozen .hub p { s1 with decrs := d :: s1.decrs }
    else decrAt d p (hubXlate s d.asid d.supv d.join needRW true).2

/-- 12 R325: copy n, which waits at the hub, enters once there is room; the copies for one lane enter in order. -/
def execRecCopyEnter (n : Nat) (s : State) : Out :=
  .next (match s.recWait[n]? with
    | none => s
    | some x =>
      let s1 := { s with recWait := listDel s.recWait n }
      if copyWaits { s with recWait := s.recWait.take n } x.r.queue x.r then s
      else match copyEnter x s1 with
        | .queued s2 => s2
        | .full => s
        | _ => discardRec x.r.queue x s1)

end Sys2Proof.Machine
end

