-- ==== Sys2Proof/Machine/Task.lean ====
section
/-! DEFINITION. The task instructions, major 0x40: `spawn`, `done`, `join.init`, `chunk` (06 R203, R204). -/

namespace Sys2Proof.Machine

/-! ## spawn (06 R203) -/

/-- The record at X[RA], in device or local memory: its place is checked like that of a `push` payload. No answer while its page is moving, or
while an earlier access of the thread to it is not performed. -/
def spawnRecord (s : State) (a : Nat) : Except (Option (BitVec 10 × Word)) Rec × State :=
  let tv := BitVec.ofNat 64 a
  if ¬ (region a = 0 ∨ region a = 2) then (.error (some (0x106, tv)), s)
  else if a % 32 ≠ 0 then (.error (some (0x104, tv)), s)
  else
    match access s s.cur a 32 needR false with
    | (.fault c v, s1) => (.error (some (c, v)), s1)
    | (.ok ps, s1) =>
      let p := ps.headD (.dev 0)
      if isHub p then (.error (some (0x046, tv)), s1)
      else if (migAt s1 p).isSome then (.error none, meetFrozen (.core s1.cur) p s1)
      else if ownPending s1 a 32 then (.error none, s1)
      else
        let (l, s2) := if isPeer p then peerBytes p 32 s1 else ((placeRead s1 p 32).map (·, placeReadPois s1 p 32), s1)
        (if l.any Prod.snd then .error (some (0x109, tv)) else .ok (Rec.ofBytes (l.map Prod.fst)), s2)

/-- The record enters its queue (06 R203; 12 R310, R324, R332). -/
def spawnEnter (rd : Nat) (a : Word) (r : Rec) (s : State) : State :=
  match enqueue r.queue r s with
  | .bad => trap 0x241 a s
  | .off => trap 0x241 a s
  | .differs => trap 0x241 a s
  | .full => spin true s
  | .torn => retX rd 1 (discardRec r.queue ⟨r, 0, none, none⟩ s)
  | .queued s1 => retX rd 0 s1

/-- 06 R203: it acts as `rel.dev` before the record enters. -/
def execSpawn (rd ra g : Nat) (s : State) : Out :=
  issue g 4 [ra] s (noTx (fun s =>
    match spawnRecord s (addr56 (rx s ra)) with
    | (.error (some (c, tv)), s1) => trap c tv s1
    | (.error none, s1) => spin false s1
    | (.ok r, s1) => releasing 3 [] s1 (spawnEnter rd (rx s1 ra) r)))

/-- The operand of the `spawn` at which core c waits. -/
def spawnAt (s : State) (c : Nat) : Option Word :=
  match (fetchInstr s c).1 with
  | .ok (.spawn _ ra _) => some ((thr s c).getX ra)
  | _ => none

/-- 06 R203: a `spawn` that waits for room overruns its bound. -/
def execSpawnWaitTimeout (c : Nat) (s : State) : Out :=
  .next (if (thr s c).wait = .again true ∧ overrun s c then
      match spawnAt s c with
      | some a => trapCore c 0x242 a s
      | none => s
    else s)

/-! ## done (06 R203) -/

/-- Does the thread hold a district, a lock record or an open transaction? -/
def doneBusy (s : State) : Bool := (th s).district.isSome || !(explicitOf s (th s).id).isEmpty || (th s).status.txn

/-- Has every engine operation of the thread ended, and is every request of the core performed? -/
def engineLeft (s : State) : Bool :=
  s.engines.any (fun e => e.thread == (th s).id) || s.bins.any (fun b => b.core == s.cur) || fenceWaits s s.cur

/-- The check of the task's JOIN (06 R203): a wait while its page moves. -/
def joinCheck (t : Task) (s : State) : Gw Unit × State :=
  if t.rec_.walk.isSome ∨ t.rec_.r.join = 0 then (.ok (), s)
  else
    match hubXlate s (th s).asid (th s).status.supv t.rec_.r.join needRW false with
    | (.error c, s1) => (.fault c, s1)
    | (.ok p, s1) =>
      if (migAt s1 p).isSome then (.wait (some p), s1) else if placeReadPois s1 p 16 then (.fault 0x109, s1) else (.ok (), s1)

/-- The decrement that a task owes (12 R325). -/
def oweJoin (t : Task) (asid : BitVec 16) (supv cancel : Bool) (s : State) : State :=
  if t.rec_.walk.isNone ∧ t.rec_.r.join = 0 then s
  else { s with decrs := s.decrs ++ [⟨t.rec_.r.join, asid, supv, cancel, t.q, t.rec_.walk⟩] }

/-- Is an event one of its core rather than of the thread that the core runs (04 R132; 13 R343, R348; 14 R384; 17 R402; 18
R423)? -/
def coreEvent (e : AsyncEvent) : Bool :=
  let c := e.cause.toNat
  [0x00A, 0x048, 0x0C4, 0x303, 0x304, 0x381].contains c || decide (0x341 ≤ c ∧ c ≤ 0x347)

/-- A task is over: its core is idle, its age and its reservation are gone, and with its thread the events that were
pending for it (06 R203; 12 R320, R321). -/
def endTask (c : Nat) (s : State) : State :=
  let t := (thr s c).id
  updCore { s with wounds := s.wounds.filter (fun w => w.thread != t) } c (fun k => { k with
    cstat := 0, events := k.events.filter coreEvent, t := { k.t with age := 0, task := none, wait := .none, status := { k.t.status with wpend := false } } })

/-- The lines of peers' pages that have been written here go back (05 R156), as `rel.dom` has it: every one can be the space's (log entry
126). -/
def relDom (s : State) : State :=
  lcWriteBack (fun _ => true) (settle 4 s.cur s)

/-- 06 R203. -/
def execDone (g : Nat) (s : State) : Out :=
  issue g 4 [] s (noTx (fun s =>
    if doneBusy s then trap 0x243 0 s
    else match (th s).task with
      | none => if engineLeft s then spin false s else endTask s.cur (relDom s)
      | some t =>
        match joinCheck t s with
        | (.fault c, s1) => trap c (BitVec.ofNat 64 t.rec_.r.join) s1
        | (.wait p, s1) => spin false (meetAt (.core s1.cur) p s1)
        | (.ok _, s1) =>
          if engineLeft s1 then spin false s1
          else endTask s1.cur (oweJoin t (th s1).asid (th s1).status.supv false (relDom s1))))

/-! ## join.init (06 R203) -/

/-- The place of a counter or a descriptor of 16 bytes in device memory. An address elsewhere raises the cause of a hole, as for the record
of `spawn`: AMOADDR is none of the causes of 06 R206 (log entry 128). -/
def tablePlace (s : State) (a : Nat) : Except (BitVec 10 × Word) Place × State :=
  let tv := BitVec.ofNat 64 a
  if region a ≠ 0 then (.error (0x106, tv), s)
  else
    match access s s.cur a 16 needRW true with
    | (.fault c v, s1) => (.error (c, v), s1)
    | (.ok ps, s1) =>
      let p := ps.headD (.dev 0)
      if isHub p then (.error (0x046, tv), s1)
      else if placeReadPois s1 p 16 then (.error (0x109, tv), s1) else (.ok p, s1)

/-- An access to a table waits while its page is moving, and behind an earlier access of the thread to it. -/
def tableWait (a : Nat) (p : Place) (s : State) (f : State → State) : State :=
  if (migAt s p).isSome then spinMoved false p s else if ownPending s a 16 then spin false s else f s

/-- 06 R203; 12 R325. -/
def execJoinInit (rd ra rb g : Nat) (s : State) : Out :=
  issue g 4 [rd, ra, rb] s (noTx (fun s =>
    match tablePlace s (addr56 (rx s ra)) with
    | (.error (c, tv), s1) => trap c tv s1
    | (.ok p, s1) =>
      tableWait (addr56 (rx s1 ra)) p s1 (fun s1 =>
        let n := rx s1 rb
        let (bs, s2) := hubBytes p 4 s1
        if n = 0 ∨ bits n 63 32 ≠ 0 ∨ bits (rx s1 rd) 4 0 ≠ 0 ∨ leNat bs ≠ 0 then trap 0x244 (rx s1 ra) s2
        else advance 4 (placeWrite s2 p (toBytes 8 n.toNat ++ toBytes 8 (rx s1 rd).toNat) false))))

/-! ## chunk (06 R204; 12 R331) -/

/-- The number of iterations that a claim grants. -/
def chunkGrant (next last min workers : Nat) : Nat :=
  let rem := last - next
  if rem = 0 then 0 else Nat.min rem (Nat.max (Nat.max min 1) ((rem + 2 * workers - 1) / (2 * workers)))

/-- 06 R204. -/
def execChunk (rd ra g : Nat) (s : State) : Out :=
  issue g 4 [ra] s (noTx (fun s =>
    match tablePlace s (addr56 (rx s ra)) with
    | (.error (c, tv), s1) => trap c tv s1
    | (.ok p, s1) =>
      tableWait (addr56 (rx s1 ra)) p s1 (fun s1 =>
        let (bs, s2) := hubBytes p 16 s1
        let w := fun (j : Nat) => leNat ((bs.drop (4 * j)).take 4)
        if w 3 = 0 then trap 0x245 (rx s1 ra) s2
        else
          let n := chunkGrant (w 0) (w 1) (w 2) (w 3)
          if n = 0 then retX rd 0 s2
          else retX rd (BitVec.ofNat 64 (w 0 * 2 ^ 32 + n)) (placeWrite s2 p (toBytes 4 ((w 0 + n) % 2 ^ 32)) false))))

end Sys2Proof.Machine
end

