-- ==== Sys2Proof/Machine/Control.lean ====
section
/-! DEFINITION. Core control and pre-emption: who may command, killing a task, HALT to RESTART, QC_SDATA, and saving the
state of a task (12 R323, R333; 13 R348 to R356). -/

namespace Sys2Proof.Machine

/-! ## Who writes a hub register

A port of 0 or 1 is a host's; a port n + 2 is core n, whose store writes the register. -/

def isHostPort (port : Nat) : Bool := decide (port < 2)

/-- Has the writer the owner's access (12 R318; 18 R415)? -/
def ownerOk (s : State) (port : Nat) : Bool := !isHostPort port || s.trust.owner == port + 1

/-- A host access that is refused (18 R414, R415). -/
def badAcc (port : Nat) (s : State) : State := if isHostPort port then hostEvent 0x20 s else s

/-! ## Killing (12 R333; 13 R351) -/

/-- An engine operation stops at a 64-byte boundary of its near range, how far is a free value, and its object becomes
CANCELLED. -/
def cancelEngine (s : State) (e : Engine) : State :=
  if e.kind = 0x18 then endEngine e stCancelled 0 e.done 0 s
  else
    let (k, s1) := if e.behind s then (0, s) else freeBelow (e.len / 64) s
    match runUpTo e (64 * k) s1 with
    | .over m far (some c) s2 => endEngine e stFault c.toNat m far s2
    | .over _ far none s2 => endEngine e stCancelled 0 (64 * k) far s2
    | .wait _ => endEngine e stCancelled 0 0 e.far s1

/-- The objects of the loads, the matrix instructions and the teardown of a district become CANCELLED. -/
def cancelObjects (k : District) (s : State) : State :=
  let s1 := (k.cfg.toList ++ k.cfgq).foldl (fun s r => setCpl k.owner r.cpl (cplWord stCancelled 0 r.tag 0x01) r.pos 0 0 s) s
  let s2 := k.seqq.foldl (fun s q => setSeqCpl k q stCancelled 0 s) s1
  match k.tdown with
  | some xc => setCpl k.owner xc (cplWord stCancelled 0 0 0x04) 0 0 0 s2
  | none => s2

/-- A district is stopped: its invocations end CANCELLED, its held stores are discarded, its blocks are free (09 R267,
R281). -/
def killDistrict (d : Nat) (s : State) : State :=
  match mget? s.districts d with
  | none => s
  | some k =>
    let s1 := match k.invs with
      | v :: _ => killFrom d v.id (stCancelled, 0) s
      | [] => cancelMiles k s
    freeDistrict d (cancelObjects k s1)

/-- An atomic or a copy that a killed thread has sent is performed all the same, and answers nobody (05 R150; 14 R369). -/
def Req.orphan (c : Nat) (r : Req) : Req := if r.core = c ∧ (r.kind = 1 ∨ r.kind = 2) then { r with wait := false } else r

/-- Nobody waits for the requests of core c that stay on their way. -/
def orphanReqs (c : Nat) (s : State) : State :=
  { s with
    reqs := s.reqs.map (Req.orphan c),
    quarters := s.quarters.map (fun q => (q.1, { q.2 with mig := q.2.mig.map (fun m =>
      { m with queued := m.queued.map (fun x => match x with
          | .req r => .req (r.orphan c)
          | .party p => .party p) }) })) }

/-- Withdraws what the instruction of core c waits for: a tagged wait, a load on its way, a message not accepted, a lock request (05
R162). -/
def withdrawWaits (c : Nat) (s : State) : State :=
  let s1 := orphanReqs c ([0, 3, 4, 5].foldl (fun s k => dropReqs c k s) s)
  withdrawLock (thr s c).id
    { s1 with tagq := s1.tagq.filter (fun w => w.who != .core c), sigs := s1.sigs.filter (fun m => m.src != c) }

/-- A killed thread's transaction is undone and its locks are released once its accesses are performed (14 R369 steps 1 to 3, R373). Until
then it is dying. -/
def dieThread (c : Nat) (t : Thread) (s : State) : State :=
  if outstandingOf s t.id then
    updThread { s with dying := s.dying ++ [⟨t.id, c, t.tx, t.task.map (fun k => k.q)⟩] } t.id (fun h => { h with
      status := { h.status with txn := false, wpend := false }, tx := h.tx.closed })
  else stripLocks t.id s

/-- The accesses of the n-th dying thread are performed: its transaction is undone, its locks are released. -/
def dieNow (n : Nat) (s : State) : State :=
  match s.dying[n]? with
  | none => s
  | some d =>
    if outstandingOf s d.thread then s
    else releaseAll d.thread (undoTx (coreQuarter d.core) d.tx { s with dying := listDel s.dying n })

/-- Kills the task of core c (12 R333): its engine operations, its district, its transaction and its locks, and its
decrement with CANCEL. The core becomes idle. -/
def killTask (c : Nat) (s : State) : State :=
  let t := thr s c
  let s1 := (s.engines.filter (fun e => e.thread == t.id)).foldl cancelEngine s
  let s2 := match t.district with
    | some d => killDistrict d s1
    | none => s1
  let s3 := dieThread c t (withdrawWaits c s2)
  let s4 := match t.task with
    | some k => oweJoin k k.rec_.r.asid false true s3
    | none => s3
  endTask c (updCore s4 c (fun k => { k with dbrk := false, dhalt := false }))

/-- Kills a saved task (12 R333; 13 R355): its saved held stores go with it. -/
def killSaved (x : SavedTask) (s : State) : State :=
  let s1 := (s.engines.filter (fun e => e.thread == x.t.id)).foldl cancelEngine s
  let s2 := match x.dist with
    | none => s1
    | some k =>
      let vs := k.invs.map (invCounts { s1 with elems := x.elems } k)
      cancelObjects k (cancelMiles k (vs.foldl (fun s v => setInvCpl k v stCancelled 0 s) s1))
  let s3 := dieThread x.core x.t s2
  let s4 := match x.t.task with
    | some k => oweJoin k k.rec_.r.asid false true s3
    | none => s3
  { s4 with saved := s4.saved.filter (fun y => y.id != x.id), wounds := s4.wounds.filter (fun w => w.thread != x.t.id) }

/-! ## RESTART (13 R351; 03 R77; 04 R130) -/

/-- The registers of a core as a restart leaves them: the double-fault shadows, the caches and the save region's address
stay, and its thread is a new one. An UNCLAIMED event of a message that is lost with the unclaimed list stays pending (log entry 121). The
messages that a held entry kept waiting go on to step 2 of 04 R132, since no entry is held any more. -/
def resetCore (c : Nat) (s : State) : State :=
  let k := core s c
  let r := CoreState.reset c
  let sup := decide (c % 64 = 0)
  let new : CoreState := { r with
    dcause := k.dcause, depc := k.depc, dtval := k.dtval, dstatus := k.dstatus, events := k.events.filter coreEvent,
    icache := k.icache, tlb := k.tlb, save := k.save, snum := k.snum, lastAge := k.lastAge, lastFc := k.lastFc,
    cycleBase := s.fc, held := k.held,
    t := { r.t with id := s.nextThread, pc := if sup then s.trust.entry else 0 } }
  let s1 := { setCore s c new with nextThread := s.nextThread + 1 }
  (s1.sigs.filter (fun m => m.dst == c && m.arrived && !m.room)).foldl unholdMsg s1

/-- RESTART of a core in a state other than 0 and 4 (13 R349, R351); of a core that has failed for good it is ignored (17
R400). -/
def restartCore (c : Nat) (s : State) : State :=
  if (core s c).regpar || (core s c).cstat == 0 then s
  else if (core s c).cstat = 4 then updCore s c (fun k => { k with restartPend := true })
  else resetCore c (killTask c s)

/-! ## Pre-emption (13 R352 to R355) -/

/-- Are two tasks of one gang of tasks: dispatched together (12 R324)? -/
def taskMates (a b : Thread) : Bool :=
  match a.task, b.task with
  | some t, some u => t.rec_.r.gang != 0 && u.rec_.r.gang == t.rec_.r.gang && u.order == t.order
  | _, _ => false

/-- Do two threads hold districts of one gang (09 R256)? -/
def districtMates (s : State) (a b : Thread) : Bool :=
  match a.district.bind (mget? s.districts), b.district.bind (mget? s.districts) with
  | some j, some k => j.gang != 0 && k.gang == j.gang && k.asid == j.asid
  | _, _ => false

/-- The cores whose tasks are of a gang with one of those given: n rounds. -/
def gangClose (s : State) : Nat → List Nat → List Nat
  | 0, l => l
  | n + 1, l =>
    let more := (s.cores.filter (fun p => !l.contains p.1 &&
      l.any (fun c => taskMates (thr s c) p.2.t || districtMates s (thr s c) p.2.t))).map Prod.fst
    if more.isEmpty then l else gangClose s n (l ++ more)

/-- The cores that are pre-empted with core c, as one: those whose tasks are of a gang with its task, or whose districts are with its district
(09 R256; 12 R324; 13 R352). -/
def gangCores (s : State) (c : Nat) : List Nat := gangClose s 256 [c]

/-- May the task of core c be pre-empted (13 R348, R349, R352)? -/
def canSave (s : State) (c : Nat) : Bool :=
  let k := core s c
  k.t.task.isSome && (k.cstat == 1 || k.cstat == 2) && k.save != 0

/-- Does pre-emption abandon a wait and issue its instruction again (13 R352 step 1)? -/
def Wait.reissued (w : Wait) : Bool :=
  match w with
  | .again _ => true
  | .tag => true
  | .lock _ => true
  | .sig => true
  | .idle => true
  | .dacq => true
  | .cfgConst => true
  | _ => false

/-- The thread of core c stops, its district's clock is gated, and the engines that work in its window stop (13 R352,
R353; 06 R190, R194). -/
def beginSave (c : Nat) (s : State) : State :=
  let t := thr s c
  let s1 := if t.wait.reissued then
      updThr (withdrawLock t.id { s with
        tagq := s.tagq.filter (fun w => w.who != .core c), sigs := s.sigs.filter (fun m => m.src != c) }) c
        (fun t => { t with wait := .none })
    else s
  let s2 := if t.wait = .tag then dropReqs c 3 s1 else s1
  let s3 := updCore s2 c (fun k => { k with cstat := 4 })
  let s4 := match t.district with
    | some d => updDist s3 d (fun k => { k with gated := true })
    | none => s3
  { s4 with engines := s4.engines.map (fun e =>
      if e.thread = t.id ∧ (e.kind = 0x18 ∨ region e.near = 1) then { e with stop := true } else e) }

/-- PREEMPT of core c with its gang (13 R352). -/
def startSave (c : Nat) (s : State) : State :=
  let cs := gangCores s c
  if cs.all (canSave s) then cs.foldl (fun s c => beginSave c s) s else s

/-- Has everything that a save waits for ended at core c: awaited replies, engines that stop, a rollback, a commit in progress, and a step of
the sequencer (13 R352, R353; 17 R399)? -/
def saveReady (s : State) (c : Nat) : Bool :=
  let t := thr s c
  (core s c).cstat == 4 && t.wait == .none && !s.engines.any (fun e => e.thread == t.id && e.stop) &&
  (match t.district.bind (mget? s.districts) with
    | none => true
    | some k => !k.needRoll && !commitDue k && (match k.seqq with
      | q :: _ => q.step == 0
      | [] => true))

/-- The part of a scratchpad memory that belongs to some elements, and the rest. -/
def TagMem.part (m : TagMem) (p : Nat → Bool) : TagMem :=
  ⟨m.cells.filter (fun c => p (c.1 / 32768)), m.full.filter (fun i => p (i / 8192)), m.pois.filter (fun i => p (i / 8192))⟩

/-- The memory with another's bytes, tags and marks added. -/
def TagMem.add (m a : TagMem) : TagMem :=
  ⟨a.cells.foldl (fun l c => cellSet l c.1 c.2) m.cells, a.full.foldl setIns m.full, a.pois.foldl setIns m.pois⟩

/-- An element as it is saved: a macro loaded with CLEAN = 1 is left out (13 R354). -/
def Elem.saved (x : Elem) : Elem := if x.mat.clean.isSome then { x with mat := { x.mat with b := [], sc := [] } } else x

def savedNode (k : District) (w : TagWait) : Bool :=
  match w.who with
  | .node e _ => k.hasElem e
  | _ => false

/-- The district of a task leaves its blocks, and its bridge and relay tracks (13 R352 to R354). -/
def liftDistrict (d : Nat) (k : District) (x : SavedTask) (s : State) : SavedTask × State :=
  let inside := fun e => k.rect.has (elemBlock e)
  let s1 := { s with
    districts := mdel s.districts d, elems := s.elems.filter (fun p => !inside p.1),
    switches := s.switches.filter (fun p => !k.rect.has p.1), tagq := s.tagq.filter (fun w => !savedNode k w) }
  let s2 := freeTracks s1
  ({ x with
      dist := some k, elems := (s.elems.filter (fun p => inside p.1)).map (fun p => (p.1, p.2.saved)),
      switches := s.switches.filter (fun p => k.rect.has p.1), spad := s.spad.part inside,
      allot := s.allot.filter (fun a => !s2.allot.contains a), waits := s.tagq.filter (savedNode k) }, s2)

/-- The bytes of the save region of a task: 4 KiB, and for a district 160 KiB with 2.5 MiB for each block (13 R352). -/
def saveBytes (s : State) (c : Nat) : Nat :=
  4096 + (match (thr s c).district.bind (mget? s.districts) with
    | some k => 163840 + 2621440 * (k.rect.h * k.rect.w)
    | none => 0)

/-- The save region at QC_SAVE.BASE of core c is written. Its layout is not architectural: its bytes are free values (13 R352; log entry
55). -/
def saveRegion (c : Nat) (s : State) : State :=
  let a := (core s c).save.toNat * 4096
  let n := min (saveBytes s c) (devTop - a)
  { s with dev := devWrite s.dev false a (freeBytes s n), freeIx := s.freeIx + n }

/-- Saves the task of core c, with others as one group, and frees the core (13 R352 to R354): its queue with the record that stands for it, and
the state. -/
def saveTask (group c : Nat) (s0 : State) : Option (Nat × QRec) × State :=
  let s := saveRegion c s0
  let k := core s c
  let x : SavedTask := {
    id := s.nextId, group := group, core := c, t := k.t, dist := none, elems := [], switches := [], spad := .empty, allot := [], waits := [],
    at_ := s.fc, boost := false, dhalt := k.dhalt, dbrk := k.dbrk, evs := k.events.filter (fun e => !coreEvent e) }
  let (y, s1) := match k.t.district with
    | none => (x, s)
    | some d => match mget? s.districts d with
      | some e => liftDistrict d e x s
      | none => (x, s)
  let s2 := updCore { s1 with saved := s1.saved ++ [y], nextId := s1.nextId + 1, nextThread := s1.nextThread + 1 } c (fun k => { k with
    cstat := 0, dhalt := false, dbrk := false, events := k.events.filter coreEvent,
    t := { k.t with id := s.nextThread, task := none, district := none, tx := .zero,
                    status := { k.t.status with txn := false, wpend := false } } })
  (k.t.task.map (fun t => (t.q, { t.rec_ with saved := some s.nextId })), s2)

/-- The records of saved tasks go back (12 R323): to the head of their lane, or, of a gang, to the gang table as one. -/
def requeue (l : List (Nat × QRec)) (s : State) : State :=
  let gangs := ((l.filter (fun x => x.2.r.gang != 0)).map (fun x => (x.1, x.2.r.asid, x.2.r.gang))).dedup
  let add := gangs.map (fun g =>
    let ms := (l.filter (fun x => (x.1, x.2.r.asid, x.2.r.gang) == g)).map Prod.snd
    (⟨g.2.1, g.2.2, ms.length, g.1, ms⟩ : Gang))
  (l.filter (fun x => x.2.r.gang == 0)).foldr (fun x s => laneReturn x.1 x.2 s) { s with gangs := s.gangs ++ add }

/-- The saves of some cores, one after another. -/
def saveAll (group : Nat) : List Nat → List (Nat × QRec) → State → List (Nat × QRec) × State
  | [], l, s => (l, s)
  | c :: cs, l, s => let (x, s1) := saveTask group c s; saveAll group cs (l ++ x.toList) s1

/-- The hub's pre-emption for priority is over once its core pre-empts no more: at most one is in progress at once (12 R323). -/
def settleBusy (s : State) : State := { s with pwaitBusy := s.pwaitBusy.filter (fun c => (core s c).cstat == 4) }

/-- A RESTART that came during the save: the core has no task any more, and its registers are reset (13 R355). -/
def lateRestart (s : State) (c : Nat) : State := if (core s c).restartPend then resetCore c s else s

/-- 13 R352 to R354: once every core of the gang is ready, the tasks are saved, and their cores, blocks and tracks freed. A
wound that waited is then delivered to the saved task by its own event. -/
def execPreemptSaveComplete (c : Nat) (s : State) : Out :=
  .next (match (thr s c).task with
    | none => s
    | some _ =>
      let cs := gangCores s c
      if !cs.all (saveReady s) then s
      else
        let (l, s1) := saveAll s.nextId cs [] s
        settleBusy (cs.foldl lateRestart (requeue l s1)))

/-! ## The commands of QC_CCMD (13 R349) -/

/-- 13 R349, R352. -/
def execPreempt (port c : Nat) (s : State) : Out := .next (if ownerOk s port && decide (c < 256) then startSave c s else s)

/-- HALT gates the clock of the core's district (13 R356). -/
def haltCore (c : Nat) (s : State) : State :=
  match (thr s c).district with
  | none => s
  | some d =>
    if (core s c).cstat = 1 ∨ (core s c).cstat = 2 then
      updDist (updCore s c (fun k => { k with dhalt := true })) d (fun k => { k with gated := true })
    else s

/-- 13 R349, R356. -/
def execHalt (port c : Nat) (s : State) : Out := .next (if ownerOk s port && decide (c < 256) then haltCore c s else s)

/-- UNHALT ungates it and clears both bits. -/
def unhaltCore (c : Nat) (s : State) : State :=
  if (core s c).dhalt || (core s c).dbrk then
    let s1 := updCore s c (fun k => { k with dhalt := false, dbrk := false })
    match (thr s c).district with
    | some d => updDist s1 d (fun k => { k with gated := haltedBy s1 k || k.needRoll })
    | none => s1
  else s

/-- 13 R349, R356. -/
def execUnhalt (port c : Nat) (s : State) : Out := .next (if ownerOk s port && decide (c < 256) then unhaltCore c s else s)

/-- STOP: the core stops issue as an asynchronous event would enter, and a wait that such an event abandons is abandoned. -/
def stopCore (c : Nat) (s : State) : State :=
  if (core s c).cstat ≠ 1 then s
  else
    let s1 := if (thr s c).wait.enterable then updThr (abandon c s) c (fun t => { t with wait := .none }) else s
    updCore s1 c (fun k => { k with cstat := 2 })

/-- 13 R349. -/
def execStop (port c : Nat) (s : State) : Out := .next (if ownerOk s port && decide (c < 256) then stopCore c s else s)

def runCore (c : Nat) (s : State) : State :=
  if (core s c).cstat = 2 then updCore s c (fun k => { k with cstat := 1 }) else s

/-- 13 R349. -/
def execRun (port c : Nat) (s : State) : Out := .next (if ownerOk s port && decide (c < 256) then runCore c s else s)

/-- 13 R351. -/
def execRestart (port c : Nat) (s : State) : Out := .next (if ownerOk s port && decide (c < 256) then restartCore c s else s)

/-! ## QC_SDATA (13 R350) -/

/-- May QC_SDATA reach a register of core c now? -/
def sdataOk (s : State) (c : Nat) : Bool :=
  let k := core s c
  (k.cstat == 0 || k.cstat == 2 || k.cstat == 3) && sysKnown k.snum.toNat

/-- 13 R350: a write of QC_SDATA. -/
def execQcSdataWrite (port c v : Nat) (s : State) : Out :=
  .next (if !ownerOk s port || decide (c ≥ 256) then s
    else if sdataOk s c then sysWrite c (core s c).snum.toNat (BitVec.ofNat 64 v) s
    else badAcc port s)

/-- The value that a read of QC_SDATA returns. -/
def sdataValue (s : State) (c : Nat) : Word := if sdataOk s c then sysRead c (core s c).snum.toNat s else 0

/-- 13 R350: a read of QC_SDATA changes nothing; one that is refused is told to a host. Its value is `sdataValue`. -/
def execQcSdataRead (port c : Nat) (s : State) : Out :=
  .next (if decide (c < 256) && !sdataOk s c then badAcc port s else s)

end Sys2Proof.Machine
end

