-- ==== Sys2Proof/Machine/Sched.lean ====
section
/-! DEFINITION. Launch windows, queue commands, the choice of the next record, dispatch, restoration and pre-emption for
priority (12 R311 to R324, R332, R333; 13 R355). -/

namespace Sys2Proof.Machine

/-! ## Launch windows (12 R317) -/

def incDrops (q : Nat) (s : State) : State := updQueue q (fun k => { k with drops := satInc k.drops }) s

/-- A whole record written by the owner: it enters its queue, or is refused. -/
def windowRecord (q : Nat) (r : Rec) (s : State) : State :=
  let s1 := if r.bad (queue s q).asid false then noteErr q 0x08 0x241 s else s
  if r.bad (queue s q).asid false || !(queue s q).accepts then incDrops q s1
  else match (if copyWaits s q r then .full else enter q ⟨r, 0, none, none⟩ s) with
    | .queued s2 => s2
    | .differs => incDrops q (noteErr q 0x10 0x247 s)
    | _ => incDrops q (noteErr q 0x02 0x242 s)

/-- A write of n bytes at offset `ofs` of the launch windows (12 R317, R318). -/
def windowWrite (port ofs : Nat) (bs : List Byte) (s : State) : State :=
  let q := ofs / 4096
  if q ≥ 64 then badAcc port s
  else if !ownerOk s port then incDrops q (updQueue q (fun k => { k with errFlags := k.errFlags ||| 0x04 }) s)
  else if bs.length ≠ 32 ∨ ofs % 32 ≠ 0 then incDrops q (updQueue q (fun k => { k with errFlags := k.errFlags ||| 0x01 }) s)
  else windowRecord q (Rec.ofBytes bs) s

/-- 12 R317. -/
def execLaunchWindowWrite (port ofs : Nat) (bytes : List Nat) (s : State) : Out :=
  .next (windowWrite port ofs (bytes.map (BitVec.ofNat 8)) s)

/-! ## HQ_BASE and the commands (12 R313, R316) -/

def cfgErr (q : Nat) (s : State) : State := updQueue q (fun k => { k with errFlags := k.errFlags ||| 0x40 }) s

/-- 12 R313. -/
def hqBase (q : Nat) (v : Word) (s : State) : State :=
  let k := queue s q
  if (k.state ≠ 0 ∧ k.state ≠ 4) ∨ bits v 3 0 > 11 then cfgErr q s
  else updQueue q (fun k => { k with base := BitVec.ofNat 44 (bits v 55 12), log2size := BitVec.ofNat 4 (bits v 3 0) }) s

/-- 12 R313. -/
def execHqBaseWrite (port q v : Nat) (s : State) : Out :=
  .next (if ownerOk s port && decide (q < 64) then hqBase q (BitVec.ofNat 64 v) s else s)

/-- The paths of a walk that starts nothing more: those with tasks that run. -/
def stopPaths (l : List WPath) : List WPath :=
  (l.map (fun p => { p with waiting := p.waiting - p.left, left := 0 })).filter (fun p => p.waiting != 0)

/-- Cancels the walks whose graph record came from a queue: they start nothing more (12 R332). -/
def cancelWalks (q : Nat) (s : State) : State :=
  { s with walks := s.walks.map (fun w => if w.q = q then
      { w with stopped := true, cancel := true, paths := stopPaths w.paths } else w) }

/-- Ends the walks with no path live and no task running: each graph record's JOIN is decremented (12 R328). -/
def endWalks (s : State) : State :=
  let ended := s.walks.filter (fun w => w.paths.isEmpty)
  { s with
    walks := s.walks.filter (fun w => !w.paths.isEmpty),
    decrs := s.decrs ++ (ended.filter (fun w => w.rec_.join != 0)).map (fun w =>
      ⟨w.rec_.join, w.rec_.asid, false, w.cancel, w.q, none⟩) }

/-- Discards the records of a queue, wherever they wait, that p picks: each owes its decrement with CANCEL (12 R332). -/
def discardAll (q : Nat) (p : QRec → Bool) (s : State) : State :=
  let lanes := (List.range 4).flatMap (fun j => (queue s q).lane j)
  let gangs := (s.gangs.filter (fun g => g.q == q)).flatMap (fun g => g.members)
  let wait := s.recWait.filter (fun x => x.r.queue == q)
  let s1 := updQueue q (fun k => { k with lanes := k.lanes.map (fun l => (l.1, l.2.filter (fun x => !p x))) }) s
  let s2 := { s1 with
    gangs := (s1.gangs.map (fun g => if g.q = q then { g with members := g.members.filter (fun x => !p x) } else g)).filter
      (fun g => !g.members.isEmpty),
    recWait := s1.recWait.filter (fun x => x.r.queue != q) }
  ((lanes ++ gangs).filter p ++ wait).foldl (fun s x => discardRec q x s) s2

/-- TEARDOWN: a saved task stays, to be restored in its turn (12 R332; 13 R355). -/
def teardownQueue (q : Nat) (s : State) : State :=
  endWalks (cancelWalks q (discardAll q (fun x => x.saved.isNone) (updQueue q (fun k => { k with state := 3 }) s)))

/-- The cores that run a task of a queue. -/
def coresOf (s : State) (q : Nat) : List Nat :=
  (s.cores.filter (fun p => p.2.t.task.any (fun t => t.q == q))).map Prod.fst

/-- RESET: TEARDOWN, and every task of the queue is killed, the saved ones too (12 R333; 13 R355). -/
def resetQueue (q : Nat) (s : State) : State :=
  let dead := s.saved.filter (fun x => x.t.task.any (fun t => t.q == q))
  let s1 := updQueue q (fun k => { k with state := 5 }) (teardownQueue q s)
  let s2 := dead.foldl (fun s x => killSaved x s) s1
  let s3 := updQueue q (fun k => { k with lanes := k.lanes.map (fun l => (l.1, l.2.filter (fun x => x.saved.isNone))) })
    { s2 with gangs := s2.gangs.filter (fun g => g.q != q) }
  settleBusy ((coresOf s3 q).foldl (fun s c => lateRestart (killTask c s) c) s3)

/-- The commands of HQ_CTL by state (12 R316). -/
def queueCmd (cmd q : Nat) (s : State) : State :=
  let st := (queue s q).state
  match cmd with
  | 1 =>
    if st = 0 ∨ st = 4 then updQueue q (fun k => { k with state := 1, lanes := [], tails := [], drops := 0 }) s
    else if st = 2 then updQueue q (fun k => { k with state := 1 }) s else s
  | 2 => if st = 1 then updQueue q (fun k => { k with state := 2 }) s else s
  | 3 => if st = 1 ∨ st = 2 then teardownQueue q s else s
  | 4 => if st = 1 ∨ st = 2 ∨ st = 3 then resetQueue q s else s
  | 5 => if st = 4 then updQueue q (fun k => { k with state := 0 }) s else s
  | _ => s

def portCmd (cmd port q : Nat) (s : State) : State := if ownerOk s port && decide (q < 64) then queueCmd cmd q s else s

/-- 12 R316. -/
def execEnable (port q : Nat) (s : State) : Out := .next (portCmd 1 port q s)
/-- 12 R316. -/
def execDisable (port q : Nat) (s : State) : Out := .next (portCmd 2 port q s)
/-- 12 R332. -/
def execTeardown (port q : Nat) (s : State) : Out := .next (portCmd 3 port q s)
/-- 12 R333. -/
def execReset (port q : Nat) (s : State) : Out := .next (portCmd 4 port q s)
/-- 12 R316. -/
def execOff (port q : Nat) (s : State) : Out := .next (portCmd 5 port q s)

/-- Does a queue hold nothing and run nothing, and is every task of it that was killed cleared (12 R332, R333)? -/
def queueEmpty (s : State) (q : Nat) : Bool :=
  (queue s q).lanes.all (fun l => l.2.isEmpty) && !s.gangs.any (fun g => g.q == q) && (coresOf s q).isEmpty &&
  !s.dying.any (fun d => d.q == some q)

/-- 12 R332, R333. -/
def execQueueTorn (q : Nat) (s : State) : Out :=
  .next (if ((queue s q).state = 3 ∨ (queue s q).state = 5) ∧ queueEmpty s q then updQueue q (fun k => { k with state := 4 }) s else s)

/-! ## Candidates and their rank (12 R319, R320) -/

/-- A candidate: its queue, its lane or its gang, its base and effective priority, its enqueue time and its records. -/
structure Cand where
  q : Nat
  gang : Bool
  prio : Nat
  e : Nat
  enq : Nat
  members : List QRec
  deriving DecidableEq

def Cand.isSaved (c : Cand) : Bool := c.members.any (fun x => x.saved.isSome)
def Cand.isGraph (c : Cand) : Bool := c.members.any (fun x => x.r.graph)

/-- The saved task that a record stands for. -/
def savedOf (s : State) (x : QRec) : Option SavedTask := x.saved.bind (fun i => s.saved.find? (fun y => y.id == i))

/-- The effective priority (12 R319); that of a saved task that has been wounded is 3 (14 R373). -/
def effPrio (s : State) (q prio enq : Nat) (l : List QRec) : Nat :=
  let step := (queue s q).agestep.toNat
  if l.any (fun x => (savedOf s x).any (fun y => y.boost)) then 3
  else if step = 0 then prio else min 3 (prio + (s.ns - enq) / 1000 / (64 * step))

def mkCand (s : State) (q : Nat) (gang : Bool) (l : List QRec) : Option Cand :=
  match l with
  | [] => none
  | x :: _ =>
    let enq := l.foldl (fun n y => max n y.enq) 0
    some ⟨q, gang, x.r.prio, effPrio s q x.r.prio enq l, enq, l⟩

/-- Does a queue's state let a record be dispatched: ENABLED, or TEARING for a saved task (12 R319; 13 R355)? -/
def mayDispatch (s : State) (q : Nat) (l : List QRec) : Bool :=
  (queue s q).state == 1 || ((queue s q).state == 3 && l.any (fun x => x.saved.isSome))

/-- Every record that waits in a lane or in the gang table. -/
def allRecs (s : State) : List QRec :=
  s.queues.flatMap (fun p => p.2.lanes.flatMap Prod.snd) ++ s.gangs.flatMap (fun g => g.members)

/-- The records that are restored as one with a record (09 R256; 12 R324; 13 R352). -/
def groupOf (s : State) (x : QRec) : List QRec :=
  match savedOf s x with
  | none => [x]
  | some y => (allRecs s).filter (fun z => (savedOf s z).any (fun w => w.group == y.group))

/-- A candidate of a saved task stands for its whole group, each of whose queues must let it be dispatched. -/
def withGroup (s : State) (c : Cand) : Option Cand :=
  if c.isSaved then
    let l := (c.members.take 1).flatMap (groupOf s)
    if l.all (fun x => (savedOf s x).any (fun y => y.t.task.any (fun t => mayDispatch s t.q [x]))) then some { c with members := l } else none
  else some c

/-- The heads of the lanes and the complete gangs (12 R319). -/
def candidates (s : State) : List Cand :=
  let heads := s.queues.flatMap (fun p => (List.range 4).filterMap (fun j =>
    let l := ((p.2.lane j).take 1)
    if mayDispatch s p.1 l then mkCand s p.1 false l else none))
  let gangs := s.gangs.filterMap (fun g =>
    if g.members.length = g.size ∧ mayDispatch s g.q g.members then mkCand s g.q true g.members else none)
  (heads ++ gangs).filterMap (withGroup s)

/-- Does candidate a rank before b (12 R320)? -/
def Cand.before (a b : Cand) : Bool :=
  if a.e ≠ b.e then decide (b.e < a.e)
  else if a.enq ≠ b.enq then decide (a.enq < b.enq)
  else if a.q ≠ b.q then decide (a.q < b.q)
  else decide (b.prio < a.prio)

def rankIns (c : Cand) : List Cand → List Cand
  | [] => [c]
  | d :: l => if c.before d then c :: d :: l else d :: rankIns c l

def ranked (s : State) : List Cand := (candidates s).foldr rankIns []

/-! ## Resources (12 R321) -/

/-- Is a core an idle worker (12 R320; 17 R400)? -/
def idleWorker (s : State) (c : Nat) : Bool :=
  let k := core s c
  c % 64 != 0 && k.cstat == 0 && !k.held && !k.regpar && k.t.task.isNone

/-- The worker and the reserved rectangle of a record, beside those already chosen. -/
def placeMember (s : State) (used : List (Nat × Option Rect)) (x : QRec) : Option (Nat × Option Rect) :=
  let worker := fun (q : Nat) => ((List.range 64).map (64 * q + ·)).find? (fun c => idleWorker s c && !used.any (fun u => u.1 == c))
  if x.r.dist then
    let z := spaceZone s x.r.asid.toNat
    let taken := fun (b : Nat) => used.any (fun u => u.2.any (fun r => r.has b))
    match (rectsAt x.r.place x.r.quar 0 0 x.r.height x.r.width).find? (fun r =>
        inZone s z r && rectFree s r && !r.blocks.any taken) with
    | none => none
    | some r => (worker r.q).map (fun c => (c, some r))
  else
    (if x.r.place = 1 then [x.r.quar] else [0, 1, 2, 3]).findSome? (fun q => (worker q).map (fun c => (c, none)))

/-- Resources for every record of a candidate, or none. -/
def placeAll (s : State) : List QRec → List (Nat × Option Rect) → Option (List (Nat × Option Rect))
  | [], used => some used
  | x :: l, used =>
    match placeMember s used x with
    | none => none
    | some u => placeAll s l (used ++ [u])

/-- Can the zone of a record never hold its shape (12 R321)? -/
def neverFits (s : State) (x : QRec) : Bool :=
  x.r.dist && !(rectsAt x.r.place x.r.quar 0 0 x.r.height x.r.width).any (inZone s (spaceZone s x.r.asid.toNat))

/-- Are a saved task's core, its blocks or those reserved for it, and its tracks free (13 R355)? -/
def restorable (s : State) (x : QRec) : Bool :=
  match savedOf s x with
  | none => false
  | some y =>
    idleWorker s y.core && (match y.dist with
      | none => true
      | some k => k.rect.blocks.all (blockFree s)) &&
    (match y.t.task.bind (fun t => t.reserved) with
      | none => true
      | some r => rectFree s r) &&
    y.allot.all (fun a => !s.allot.any (fun b => b.1 == a.1))

/-- Does a candidate need a district, or more than one core (12 R322)? -/
def Cand.big (s : State) (c : Cand) : Bool :=
  decide (c.members.length > 1) || c.members.any (fun x => x.r.dist || (savedOf s x).any (fun y => y.dist.isSome))

/-- What the hub does next. -/
inductive Pick where
  | nothing
  | never (c : Cand)
  | place (c : Cand) (l : List (Nat × Option Rect))
  | restore (c : Cand)

/-- The first candidate in rank order whose resources are present; behind one that lacks them, those that need a district
or several cores wait (12 R322). -/
def pickFrom (s : State) : List Cand → Bool → Pick
  | [], _ => .nothing
  | c :: l, blocked =>
    if c.isGraph || (blocked && c.big s) then pickFrom s l blocked
    else if c.isSaved then (if c.members.all (restorable s) then .restore c else pickFrom s l true)
    else if c.members.any (neverFits s) then .never c
    else match placeAll s c.members [] with
      | some p => .place c p
      | none => pickFrom s l true

def selectNext (s : State) : Pick := pickFrom s (ranked s) false

/-! ## Dispatch (12 R311) -/

/-- The key by which the hub remembers the candidate that is first in rank. -/
def Cand.key (c : Cand) : Nat × Nat := (c.q * 8 + c.prio * 2 + (if c.gang then 1 else 0), c.enq)

/-- A candidate that goes is no more first in rank: the next record of its lane waits from now on, though it has the same time of entry. -/
def forgetFirst (c : Cand) (s : State) : State :=
  { s with rankFirst := s.rankFirst.filter (fun r => (r.1, r.2.1) != c.key) }

/-- Takes a candidate out of its lane or out of the gang table, and a saved group out of all. -/
def takeCand (c : Cand) (s0 : State) : State :=
  let s := forgetFirst c s0
  if c.isSaved then
    let stay := fun (l : List QRec) => l.filter (fun x => !c.members.contains x)
    { s with
      queues := s.queues.map (fun p => (p.1, { p.2 with lanes := p.2.lanes.map (fun l => (l.1, stay l.2)) })),
      gangs := (s.gangs.map (fun g => { g with members := stay g.members })).filter (fun g => !g.members.isEmpty) }
  else if c.gang then { s with gangs := s.gangs.filter (fun g => !(g.q == c.q && g.members == c.members)) }
  else updQueue c.q (fun k => { k with lanes := mset k.lanes c.prio ((k.lane c.prio).drop 1) }) s

/-- The state in which a task starts (12 R311): registers that the rule does not name stay as last written. -/
def startThread (t : Thread) (id q : Nat) (x : QRec) (order : Nat) (rect : Option Rect) : Thread :=
  { t with
    id := id, x := [(2, BitVec.ofNat 64 x.r.frame), (3, x.r.d3), (4, BitVec.ofNat 64 x.r.join)], k := [], q := [], bar := [],
    pc := pcOf x.r.code, status := ⟨BitVec.ofNat 2 x.r.prio, false, false, false, true, false⟩, asid := x.r.asid, age := 0,
    loop0 := { t.loop0 with count := 0, body := 0 }, loop1 := { t.loop1 with count := 0, body := 0 }, bind := [],
    tx := .zero, wait := .none, synced := [], district := none, task := some ⟨q, x, order, rect⟩ }

def startTask (q order : Nat) (s : State) (p : QRec × Nat × Option Rect) : State :=
  let s1 := updCore s p.2.1 (fun k => { k with
    cstat := 1, parity := [], t := startThread k.t s.nextThread q p.1 order p.2.2 })
  { s1 with nextThread := s1.nextThread + 1 }

/-- Dispatches a candidate with the resources found for it; the members of a gang start together. -/
def dispatchCand (c : Cand) (l : List (Nat × Option Rect)) (s : State) : State :=
  let s1 := takeCand c { s with nextId := s.nextId + 1 }
  (c.members.zip l).foldl (startTask c.q s.nextId) s1

/-- The candidate that waits first in rank. -/
def firstWaiting (s : State) : Option Cand := (ranked s).find? (fun c => !c.isGraph)

/-- The hub notes since when a candidate has been first in rank (12 R323). -/
def noteFirst (s : State) : State :=
  { s with rankFirst := match firstWaiting s with
    | none => none
    | some c => match s.rankFirst with
      | some (a, b, t) => if (a, b) = c.key then some (a, b, t) else some (c.key.1, c.key.2, s.ns)
      | none => some (c.key.1, c.key.2, s.ns) }

/-- 12 R321, R322: one dispatch, or the removal of a record whose zone can never hold its shape. -/
def execHubDispatch (s : State) : Out :=
  .next (noteFirst (match selectNext s with
    | .place c l => dispatchCand c l s
    | .never c => c.members.foldl (fun s x => discardRec c.q x s) (takeCand c s)
    | _ => s))

/-! ## Restoration (13 R355) -/

/-- Loads a macro again from memory, as memory then stands (06 R199; 13 R354): none while a page moves. A load that faults
leaves no B loaded. -/
def reloadMacro (k : District) (e : Nat) (s : State) : Option State :=
  match (elem s e).mat.clean with
  | none => some s
  | some ws =>
    let q : SeqInstr := {
      fn := 1, cell := e, xa := 0, xb := ws.getD 8 0, ext := (ws.getD 9 0).toNat, cpl := 0, entry := ws.take 8, loads := 0, after := 0,
      step := 0, row := 0, rowInts := [], rowSc := [], unitE := [], fetched := [], fetchedSc := [], fault := none, nans := 0,
      infs := 0, ovfs := 0 }
    let none_ := fun (s : State) => updElem s e (fun x => x.withMat (fun m => { m with b := [], sc := [], kk := 0 }))
    match q.kind? with
    | none => some (none_ s)
    | some mk =>
      match fetchB k q mk q.rows 0 [] [] (0, 0) s with
      | (.wait _, _) => none
      | (.fault _, s1) => some (none_ s1)
      | (.ok (es, ss, _, _), s1) =>
        some (updElem s1 e (fun x => x.withMat (writeB { q with fetched := es, fetchedSc := ss })))

/-- The macros of a district that are loaded again. -/
def reloadAll (k : District) : List Nat → State → Option State
  | [], s => some s
  | e :: l, s => match reloadMacro k e s with
    | none => none
    | some s1 => reloadAll k l s1

/-- A saved element as it stands again: its nodes' waits go on with their counts (10 R291). -/
def Elem.shift (n : Nat) (x : Elem) : Elem :=
  { x with nodes := x.nodes.map (fun p => (p.1, { p.2 with reqs := p.2.reqs.map (fun r => { r with from_ := r.from_ + n }) })) }

/-- The district of a saved task goes back into its blocks. -/
def restoreDistrict (y : SavedTask) (k : District) (s : State) : Option State :=
  let inside := fun e => k.rect.has (elemBlock e)
  let gap := s.fc - y.at_
  let s1 := wipeRect k.rect s
  let s2 := { s1 with
    districts := mset s1.districts (y.t.district.getD 0) { k with gated := y.dhalt || y.dbrk },
    elems := y.elems.foldl (fun m p => mset m p.1 (p.2.shift gap)) s1.elems,
    switches := y.switches.foldl (fun m p => mset m p.1 p.2) s1.switches,
    spad := (s1.spad.part (fun e => !inside e)).add y.spad, allot := s1.allot ++ y.allot,
    tagq := s1.tagq ++ y.waits.map (fun w => { w with from_ := w.from_ + gap }) }
  reloadAll k (y.elems.map Prod.fst) s2

/-- One saved task goes back to its core. -/
def restoreTask (order : Nat) (x : QRec) (s : State) : Option State :=
  match savedOf s x with
  | none => some s
  | some y =>
    let s1 := updCore { s with saved := s.saved.filter (fun z => z.id != y.id) } y.core (fun k => { k with
      cstat := 1, dhalt := y.dhalt, dbrk := y.dbrk, events := k.events ++ y.evs, parity := [],
      t := { y.t with task := some ⟨((y.t.task.map (fun t => t.q)).getD 0), { x with saved := none }, order, (y.t.task.bind (fun t => t.reserved))⟩ } })
    match y.dist with
    | none => some s1
    | some k => restoreDistrict y k s1

def restoreAll (order : Nat) : List QRec → State → Option State
  | [], s => some s
  | x :: l, s => match restoreTask order x s with
    | none => none
    | some s1 => restoreAll order l s1

/-- 13 R355: saved task n is restored with its gang, when it is the candidate whose turn it is. -/
def execTaskRestore (n : Nat) (s : State) : Out :=
  .next (match selectNext s, s.saved[n]? with
    | .restore c, some y =>
      if c.members.any (fun x => x.saved == some y.id) then
        match restoreAll s.nextId c.members (takeCand c { s with nextId := s.nextId + 1 }) with
        | some s1 => s1
        | none => s
      else s
    | _, _ => s)

/-! ## Pre-emption for priority (12 R323) -/

/-- SCH_CTL.PWAIT. -/
def pwait (s : State) : Nat := bits (hubRaw s 0x1F000) 31 16

/-- 12 R323; R318. -/
def execSchCtlWrite (port v : Nat) (s : State) : Out :=
  .next (if ownerOk s port then { s with hub := mset s.hub 0x1F000 (BitVec.ofNat 64 (nb v 31 16 * 65536)) } else s)

/-- The running tasks that a candidate of effective priority e may displace. -/
def displaceable (s : State) (e : Nat) : List (Nat × Task) :=
  s.cores.filterMap (fun p => match p.2.t.task with
    | none => none
    | some t => if t.rec_.r.prio < e ∧ (gangCores s p.1).all (canSave s) then some (p.1, t) else none)

/-- The task of lowest base priority, and among those the one dispatched last. -/
def victim (s : State) (e : Nat) : Option Nat :=
  match displaceable s e with
  | [] => none
  | a :: l => some (l.foldl (fun b c =>
      if c.2.rec_.r.prio < b.2.rec_.r.prio ∨ (c.2.rec_.r.prio = b.2.rec_.r.prio ∧ b.2.order < c.2.order) then c else b) a).1

/-- Can a candidate be dispatched as things stand? -/
def dispatchable (s : State) (c : Cand) : Bool :=
  if c.isSaved then c.members.all (restorable s) else c.members.any (neverFits s) || (placeAll s c.members []).isSome

/-- 12 R323. -/
def execPwaitPreemption (s0 : State) : Out :=
  let s := noteFirst s0
  .next (match firstWaiting s, s.rankFirst with
    | some c, some (_, _, t) =>
      if pwait s = 0 || s.pwaitBusy.isSome || decide (s.ns < t + pwait s * 1000) || dispatchable s c then s
      else match victim s c.e with
        | none => s
        | some v => startSave v { s with pwaitBusy := some v }
    | _, _ => s)

end Sys2Proof.Machine
end

