-- ==== Sys2Proof/Machine/Graph.lean ====
section
/-! DEFINITION. The graph walker and the decrements of join counters (12 R325 to R330). -/

namespace Sys2Proof.Machine

/-! ## Nodes (12 R326) -/

structure GNode where
  next : Nat
  alt : Nat
  count : Nat
  kind : Nat
  word : Nat
  frame : Nat
  control : Word
  desc : Nat
  start : Nat
  deriving DecidableEq

/-- A node of an image of n nodes, or none where it is malformed (12 R330). -/
def readNode (nodes : Nat) (bs : List Byte) : Option GNode :=
  let d := fun (j : Nat) => BitVec.ofNat 64 (leNat ((bs.drop (8 * j)).take 8))
  let g : GNode := ⟨bits (d 0) 63 48, bits (d 0) 47 32, bits (d 0) 31 16, bits (d 0) 3 0, (d 1).toNat, (d 2).toNat, d 3,
    (d 4).toNat, (d 5).toNat⟩
  let succBad := fun (x : Nat) => x != 0xFFFF && decide (x ≥ nodes)
  let ctl := bits (d 3) 63 26 != 0 || bits (d 3) 23 16 != 0 || bits (d 3) 14 12 != 0 || bit (d 3) 7 || bit (d 3) 3 || bit (d 3) 11
  let bad := bits (d 0) 15 4 != 0 || d 6 != 0 || d 7 != 0 || ctl || decide (g.word ≥ 2 ^ 56) || decide (g.frame ≥ 2 ^ 56) ||
    decide (g.desc ≥ 2 ^ 56) || decide (g.start ≥ 2 ^ 32) || decide (g.word % 4 ≠ 0) || decide (g.desc % 16 ≠ 0) ||
    decide (g.kind = 0 ∨ g.kind > 5) || succBad g.next || succBad g.alt || (g.kind == 5 && g.count == 0)
  if bad then none else some g

/-- The walker's reads (12 R328): it translates in the space of the graph record. -/
def walkRead (w : Walk) (va n : Nat) (s : State) : Gw (List Byte) × State :=
  match hubXlate s w.rec_.asid false va needR true with
  | (.error c, s1) => (.fault c, s1)
  | (.ok p, s1) =>
    if (migAt s1 p).isSome then (.wait (some p), s1)
    else if placeReadPois s1 p n then (.fault 0x109, s1)
    else let (bs, s2) := hubBytes p n s1; (.ok bs, s2)

/-! ## Walks -/

/-- A walk fault (12 R330): nothing more starts, and the walk ends once its tasks have. -/
def walkFault (w : Walk) (node cause : Nat) (s : State) : State :=
  let s1 := updQueue w.q (fun k => { k with
    errFlags := k.errFlags ||| 0x20, errCause := BitVec.ofNat 10 cause, errNode := BitVec.ofNat 16 node }) s
  endWalks { s1 with walks := s1.walks.map (fun v => if v.id = w.id then
    { v with stopped := true, cancel := true, paths := stopPaths v.paths } else v) }

def updWalk (w : Walk) (f : Walk → Walk) (s : State) : State :=
  { s with walks := s.walks.map (fun v => if v.id = w.id then f v else v) }

/-- A path goes on at a node, or ends at 0xFFFF. -/
def goOn (id node : Nat) : List WPath := if node = 0xFFFF then [] else [⟨id, node, 0, 0, 0xFFFF, 0xFFFF⟩]

/-- Replaces a path by those that follow it; a walk without paths ends. -/
def stepPath (w : Walk) (p : WPath) (l : List WPath) (f : Walk → Walk) (s : State) : State :=
  endWalks (updWalk w (fun v => { f v with paths := v.paths.flatMap (fun x => if x.id = p.id then l else [x]) }) s)

/-- The paths of a walk that stand at a node, or have tasks of their node to enqueue: each of them may act next. -/
def Walk.ready (w : Walk) : List WPath := if w.stopped then [] else w.paths.filter (fun p => p.waiting == 0 || p.left != 0)

/-- The walk and the path that an event names: of the walk n mod 64, the path n div 64 of those that may act. -/
def readyPath (s : State) (n : Nat) : Option (Walk × WPath) :=
  match s.walks[n % 64]? with
  | none => none
  | some w => (w.ready[n / 64]?).map (fun p => (w, p))

/-- A path at a node of one of some kinds acts: `f` has the node. -/
def atNode (n : Nat) (kinds : List Nat) (s : State) (f : Walk → WPath → GNode → State → State) : Out :=
  .next (match readyPath s n with
    | none => s
    | some (w, p) =>
      match walkRead w ((w.image + 0x40 + 64 * p.node) % 2 ^ 56) 64 s with
      | (.wait p, _) => meetAt .hub p s
      | (.fault c, s1) => walkFault w p.node c.toNat s1
      | (.ok bs, s1) =>
        match readNode w.nodes bs with
        | none => walkFault w p.node 0x246 s1
        | some g => if kinds.contains g.kind then f w p g s1 else s)

/-- 12 R328: the walker takes the GRAPH record that ranks first, while fewer than 64 walks are live, and starts a path at
ENTRY. -/
def execGraphWalkStart (s : State) : Out :=
  .next (match (ranked s).find? (fun c => c.isGraph) with
    | none => s
    | some c =>
      match c.members with
      | [] => s
      | x :: _ =>
        if s.walks.length ≥ 64 then s
        else
          let w : Walk := { id := s.nextId, rec_ := x.r, q := c.q, image := x.r.code, nodes := 0, paths := [], passes := [],
                            joins := [], stopped := false, cancel := false }
          let add := fun (w : Walk) (s : State) => takeCand c { s with walks := s.walks ++ [w], nextId := s.nextId + 1 }
          if x.r.code % 64 ≠ 0 then walkFault w 0 0x246 (add w s)
          else match walkRead w x.r.code 64 s with
            | (.wait p, _) => meetAt .hub p s
            | (.fault k, s1) => walkFault w 0 k.toNat (add w s1)
            | (.ok bs, s1) =>
              let d0 := leNat (bs.take 8)
              let nodes := d0 % 2 ^ 16
              let entry := d0 / 2 ^ 16
              if nodes = 0 ∨ nodes > 4096 ∨ entry ≥ nodes ∨ leNat (bs.drop 8) ≠ 0 then walkFault w (entry % 2 ^ 16) 0x246 (add w s1)
              else { add { w with nodes := nodes, paths := goOn s1.nextId entry } s1 with nextId := s1.nextId + 2 })

/-! ## The nodes' actions (12 R328) -/

/-- The record of a node's task: its JOIN names a walker counter, whose address no space maps and is not stated. -/
def nodeRec (w : Walk) (g : GNode) (counter : Word) : Rec :=
  ⟨BitVec.ofNat 64 g.word, BitVec.ofNat 64 g.frame, BitVec.ofNat 64 (bits counter 55 4 * 16),
   g.control ||| BitVec.ofNat 64 (w.rec_.asid.toNat * 2 ^ 48 + w.q % 64 * 2 ^ 16)⟩

/-- Enqueues up to n records of a node for a path, as its lane has room: how many are left. -/
def nodeTasks (w : Walk) (p : WPath) (g : GNode) : Nat → State → Nat × State
  | 0, s => (0, s)
  | n + 1, s =>
    let (f, s1) := drawFree s
    let r := nodeRec w g f
    if copyWaits s1 w.q r then (n + 1, s)
    else match enter w.q ⟨r, 0, some (w.id, p.id), none⟩ s1 with
      | .queued s2 => nodeTasks w p g n s2
      | _ => (n + 1, s)

/-- 12 R328: a task node. Its record waits for room in the lane. -/
def execGraphTaskNode (n : Nat) (s : State) : Out :=
  atNode n [1] s (fun w p g s1 =>
    match nodeTasks w p g 1 s1 with
    | (0, s2) => stepPath w p [{ p with waiting := 1, next := g.next, alt := g.alt }] id s2
    | _ => s)

/-- 12 R328: a cond node. -/
def execGraphCondNode (n : Nat) (s : State) : Out :=
  atNode n [2] s (fun w p g s1 =>
    match walkRead w g.word 4 s1 with
    | (.wait p, _) => meetAt .hub p s
    | (.fault c, s2) => walkFault w p.node c.toNat s2
    | (.ok bs, s2) => stepPath w p (goOn p.id (if leNat bs ≠ 0 then g.next else g.alt)) id s2)

/-- 12 R328: a while node counts the passes that its word lets through in the walk. -/
def execGraphWhileNode (n : Nat) (s : State) : Out :=
  atNode n [3] s (fun w p g s1 =>
    match walkRead w g.word 4 s1 with
    | (.wait p, _) => meetAt .hub p s
    | (.fault c, s2) => walkFault w p.node c.toNat s2
    | (.ok bs, s2) =>
      let k := mget w.passes p.node 0
      if leNat bs = 0 then stepPath w p (goOn p.id g.alt) id s2
      else if g.count ≠ 0 ∧ k + 1 > g.count then walkFault w p.node 0x246 s2
      else stepPath w p (goOn p.id g.next) (fun v => { v with passes := mset v.passes p.node (k + 1) }) s2)

/-- The place of a loop's descriptor, which is read and written. -/
def loopDesc (w : Walk) (g : GNode) (s : State) : Gw (Place × Nat) × State :=
  match hubXlate s w.rec_.asid false g.desc needRW true with
  | (.error c, s1) => (.fault c, s1)
  | (.ok p, s1) =>
    if (migAt s1 p).isSome then (.wait (some p), s1)
    else if placeReadPois s1 (p.plus 12) 4 then (.fault 0x109, s1)
    else let (bs, s2) := hubBytes (p.plus 12) 4 s1; (.ok (p, leNat bs), s2)

/-- A loop's path enqueues what is left of its k records, as its lane has room. -/
def loopTasks (w : Walk) (p : WPath) (g : GNode) (s : State) : State :=
  let (m, s1) := nodeTasks w p g p.left s
  stepPath w p [{ p with left := m }] id s1

/-- 12 R328: a loop node stores START and enqueues WORKERS records. -/
def execGraphLoopNode (n : Nat) (s : State) : Out :=
  atNode n [4] s (fun w p g s1 =>
    if p.left ≠ 0 then loopTasks w p g s1
    else match loopDesc w g s1 with
    | (.wait p, _) => meetAt .hub p s
    | (.fault c, s2) => walkFault w p.node c.toNat s2
    | (.ok (pl, k), s2) =>
      if k = 0 ∨ k > 252 then walkFault w p.node 0x246 s2
      else loopTasks w { p with waiting := k, left := k, next := g.next } g (placeWrite s2 pl (toBytes 4 g.start) false))

/-- 12 R328: a join node: the COUNT-th arrival goes on, the others end there. -/
def execGraphJoinNode (n : Nat) (s : State) : Out :=
  atNode n [5] s (fun w p g s1 =>
    let k := mget w.joins p.node 0 + 1
    if k ≥ g.count then stepPath w p (goOn p.id g.next) (fun v => { v with joins := mdel v.joins p.node }) s1
    else stepPath w p [] (fun v => { v with joins := mset v.joins p.node k }) s1)

/-! ## Decrements (12 R325, R328) -/

/-- A walker counter is decremented: with its last task over, the path goes on. -/
def walkDecr (wid pid : Nat) (cancel : Bool) (s : State) : State :=
  match s.walks.find? (fun w => w.id == wid) with
  | none => s
  | some w =>
    match w.paths.find? (fun p => p.id == pid) with
    | none => s
    | some p =>
      let mark := fun (v : Walk) => { v with cancel := v.cancel || cancel }
      if p.waiting > 1 then stepPath w p [{ p with waiting := p.waiting - 1 }] mark s
      else if w.stopped then stepPath w p [] mark s
      else stepPath w p (goOn p.id p.next ++ goOn s.nextId p.alt) mark { s with nextId := s.nextId + 1 }

/-- 12 R325: the next decrement is performed. -/
def execJoinDecrement (s : State) : Out :=
  .next (match s.decrs with
    | [] => s
    | d :: rest =>
      let s1 := { s with decrs := rest }
      match d.walk with
      | some (w, p) => walkDecr w p d.cancel s1
      | none => decrMem d s1)

end Sys2Proof.Machine
end

