-- ==== Sys2Proof/Machine/Migrate.lean ====
section
/-! DEFINITION. Page migration, pinned entries and the zone map (13 R342, R344, R345, R357). -/

namespace Sys2Proof.Machine

/-! ## Finding the leaf (13 R339, R344) -/

/-- The address and the value of the last-level entry of a page, in tables of this device. -/
def leafAt (s : State) (va : Nat) : Nat → Nat → Nat → Option (Nat × Nat)
  | 0, _, _ => none
  | n + 1, level, table =>
    let ix := if level = 0 then va / 2 ^ 48 % 256 else va / 2 ^ (48 - 9 * level) % 512
    let a := table + 8 * ix
    let e := dev64 s a
    if a ≥ devTop ∨ isPois s.dev (a / 64) ∨ e % 2 = 0 then none
    else if level = 4 then some (a, e)
    else if nb e 11 1 ≠ 0 ∨ !pointerHere s e then none
    else leafAt s va n (level + 1) (nb e 55 12 * 4096)

/-- The leaf of a page; in tables of another device of the domain it is a free value at no address of this one. -/
def findLeaf (asid va : Nat) (s : State) : Option (Nat × Nat) × State :=
  if !descOk s asid then (none, s)
  else
    let d := spaceDesc s asid
    let home := nb (nthN d 0) 63 56
    if isLocal s home then (leafAt s va 5 0 (nb (nthN d 0) 55 12 * 4096), s)
    else if !isMember s home then (none, s)
    else let (f, s1) := drawFree s; (some (devTop, f.toNat), s1)

/-- Is an entry a valid 4 KiB leaf with MODE 2 whose home is of this domain? -/
def movable (s : State) (e : Nat) : Bool :=
  decide (e % 2 = 1 ∧ nb e 1 1 = 1 ∧ nb e 6 6 = 0 ∧ nb e 8 7 = 2) && (isLocal s (nb e 63 56) || isMember s (nb e 63 56))

/-- Do two PEER values name one home? -/
def sameHome (s : State) (a b : Nat) : Bool := a == b || (isLocal s a && isLocal s b)

/-- Does any quarter move a page? -/
def moving (s : State) (asid va : Nat) (peer pa : Nat) : Bool :=
  s.quarters.any (fun q => q.2.mig.any (fun m => (m.asid == asid && m.va == va) || (sameHome s m.oldPeer peer && m.oldPa == pa)))

/-! ## The start (13 R344, R345 step 1) -/

/-- The owner of a migration's completion object: the core that wrote QC_MIG3, or for a host the quarter's supervisor core. -/
def migOwner (port q : Nat) : Nat := if isHostPort port then q * 64 else (port - 2) % 256

def Migration.owner (m : Migration) : Owner := ⟨m.core, m.casid, true⟩

/-- Empties the completion object (06 R169). -/
def emptyCpl (o : Owner) (xc : Word) (s : State) : State := cplWrite o xc [0] false s

/-- The write to QC_MIG3: the checks, then the freeze. -/
def startMigration (port q : Nat) (v : Word) (s : State) : State :=
  let k := quarter s q
  let c := migOwner port q
  let asid := bits k.mig0 15 0
  let va := bits k.mig1 55 12 * 4096
  let peer := bits k.mig2 63 56
  let frame := bits k.mig2 55 12
  let xc := BitVec.ofNat 64 (bits v 55 4 * 16)
  let o : Owner := ⟨c, (thr s c).asid, true⟩
  let s0 := emptyCpl o xc s
  let refuse := fun (s : State) => setCpl o xc (cplWord stFault 0x049 0 0x30) 0 0 0 s
  if k.mig.isSome then refuse s0
  else match findLeaf asid va s0 with
    | (none, s1) => refuse s1
    | (some (a, e), s1) =>
      let old := nb e 63 56
      let oldPa := nb e 55 12 * 4096
      if !movable s1 e || sameHome s1 old peer || !(isLocal s1 peer || isMember s1 peer) || moving s1 asid va old oldPa then refuse s1
      else updQuarter s1 q (fun k => { k with mig := some {
        asid := asid, va := va, oldPeer := old, oldPa := oldPa, newPeer := peer, newFrame := frame, leafAddr := a, leaf := e,
        core := c, casid := o.asid, cpl := xc, queued := [], moved := 0, refused := [], opened := none } })

/-- 13 R344. -/
def execMigrationStart (port q v : Nat) (s : State) : Out :=
  .next (if ownerOk s port && decide (q < 4) then startMigration port q (BitVec.ofNat 64 v) s else s)

/-! ## The end (13 R345 steps 2 to 6) -/

/-- The page's bytes and tags, as another device sends them, stand in the new frame. -/
def pageArrives (pa : Nat) (s : State) : State :=
  let bs := freeBytes s 4096
  let s1 := placeWrite { s with freeIx := s.freeIx + 4096 } (.dev pa) bs false
  let s2 := (List.range 1024).foldl (fun s j => placeSetTag s (.dev (pa + 4 * j)) (bit (Config.free (s1.freeIx + j)) 0)) s1
  { s2 with freeIx := s2.freeIx + 1024 }

/-- The first key of the cached lines of the page at its old home, another device. -/
def Migration.oldKey (m : Migration) : Nat := lcKey (.peer m.oldPeer m.oldPa) / 64

/-- Is a key that of a cached line of the page at its old home? -/
def Migration.hasLine (m : Migration) (k : Nat) : Bool := k / 64 == m.oldKey

/-- The dirty cached lines of a page, which its shootdown writes back to the old frame (13 R345 step 3): offset and bytes. -/
def Migration.dirtyLines (m : Migration) (s : State) : List (Nat × List Byte) :=
  s.quarters.flatMap (fun q => q.2.msc.filterMap (fun e =>
    if m.hasLine e.1 && e.2.dirty then some (lcPa e.1 % 4096, e.2.bytes) else none))

/-- Every translation and cached line of a page is dropped (13 R345 step 3). -/
def shootDown (m : Migration) (s : State) : State :=
  lcInvalidate m.hasLine (lcWriteBack m.hasLine (dropXlat (fun e => entCovers e m.asid m.va) (fun _ => false) s))

/-- The page's home after the migration. -/
def Migration.newPlace (m : Migration) (s : State) (a : Nat) : Place :=
  if isLocal s m.newPeer then .dev (m.newFrame * 4096 + a % 4096) else .peer m.newPeer (m.newFrame * 4096 + a % 4096)

/-- Where a place of this device's view stands after the migration: one on the page goes with it. -/
def Migration.follow (m : Migration) (s : State) (p : Place) : Place :=
  match p with
  | .dev a => if isLocal s m.oldPeer ∧ a / 4096 = m.oldPa / 4096 then m.newPlace s a else p
  | .peer n a => if n = m.oldPeer ∧ a / 4096 = m.oldPa / 4096 then m.newPlace s a else p
  | _ => p

/-! What this device knows of the page by its place goes with the page: the undo logs and the implicit locks of its lines, the waits
at its words and the held stores (05 R147, R165; 09 R279; log entry 131). -/

/-- A line of 128 bytes of the page that has come here, as it stood before a transaction of this device wrote it at the old home: bytes
that this device cannot tell. -/
def cameWith (s : State) (line : Nat) : Nat × List Byte × Bool × Bool :=
  let f := fun i => Config.free (s.freeIx + line % 32 * 130 + i)
  (line, (List.range 128).map (fun j => (f j).setWidth 8), bit (f 128) 0, bit (f 129) 0)

/-- The logs of a transaction after the migration. -/
def Migration.moveTx (m : Migration) (s : State) (x : Tx) : Tx :=
  let known := x.undo.map (fun u => (m.follow s (.dev (u.1 * 128)), u.2))
  let away := x.away.map (fun l => m.follow s (.peer l.1 (l.2 * 128)))
  { x with
    undo := known.filterMap (fun u => match u.1 with
        | .dev a => some (a / 128, u.2)
        | _ => none) ++
      away.filterMap (fun p => match p with
        | .dev a => some (cameWith s (a / 128))
        | _ => none),
    away := (known.map Prod.fst ++ away).filterMap (fun p => match p with
        | .peer n a => some (n, a / 128)
        | _ => none),
    cached := x.cached.filter (fun e => !m.hasLine e.1) }

/-- The name of the implicit lock of an address line after the migration. -/
def Migration.moveName (m : Migration) (s : State) (name : Word) : Word :=
  let node := bits name 63 40
  let a := bits name 39 0 * 128
  lineName (m.follow s (if node = 0 then .dev a else .peer (node - 1) a))

/-- A wait at a tagged word after the migration. One that another device's thread has at a word that leaves goes too. -/
def Migration.moveWait (m : Migration) (s : State) (w : TagWait) : Option TagWait :=
  match m.follow s w.place, w.who with
  | .peer _ _, .peer _ => none
  | p, _ => some { w with place := p }

/-- A held store after the migration. -/
def Migration.moveHeld (m : Migration) (s : State) (h : Held) : Held :=
  match m.follow s h.place with
  | .dev a => { h with peer := ownPeer, pa := a }
  | .peer n a => { h with peer := n, pa := a }
  | _ => h

def Migration.moveThread (m : Migration) (s : State) (t : Thread) : Thread := { t with tx := m.moveTx s t.tx }
def Migration.moveDistrict (m : Migration) (s : State) (k : District) : District := { k with hold := k.hold.map (m.moveHeld s) }

/-- What goes with the page. -/
def Migration.carry (m : Migration) (s : State) : State :=
  { s with
    cores := s.cores.map (fun c => (c.1, { c.2 with t := m.moveThread s c.2.t })),
    saved := s.saved.map (fun k => { k with
      t := m.moveThread s k.t, dist := k.dist.map (m.moveDistrict s), waits := k.waits.filterMap (m.moveWait s) }),
    dying := s.dying.map (fun d => { d with tx := m.moveTx s d.tx }),
    districts := s.districts.map (fun d => (d.1, m.moveDistrict s d.2)),
    tagq := s.tagq.filterMap (m.moveWait s),
    locks := s.locks.map (fun r => if r.addr then { r with name := m.moveName s r.name, remote := lineAway (m.moveName s r.name) } else r),
    lockq := s.lockq.map (fun w => if w.addr then { w with name := m.moveName s w.name, remote := lineAway (m.moveName s w.name) } else w),
    wounds := s.wounds.map (fun w => if w.addr then { w with name := m.moveName s w.name } else w),
    freeIx := s.freeIx + 32 * 130 }

/-- A request performed at its page's new home, or on its way there (13 R345 step 5). What a party of another device has sent there is
no more this device's. -/
def forwardReq (m : Migration) (s : State) (r : Req) : State :=
  match r.place with
  | .dev a =>
    match m.newPlace s a with
    | .dev b => performHere r (r.from (.dev b)) s
    | p => if r.core < 256 then { s with reqs := s.reqs ++ [{ r with place := p }] } else s
  | .peer _ a => performHere r (r.from (m.newPlace s a)) s
  | _ => s

/-- Is a request of this device one that stands at the page's old home, another device, while the page comes here? It was performed or
queued there, before every access at the new home (13 R345). -/
def Migration.holds (m : Migration) (s : State) (r : Req) : Bool :=
  isLocal s m.newPeer && !r.moved && r.kind != 4 && (match r.place with
    | .peer n a => n == m.oldPeer && a / 4096 == m.oldPa / 4096
    | _ => false)

/-- The migration is over: the object is set with its two counts, and the parties that were refused go on (13 R344, R345; log entry 4). -/
def closeMigration (q : Nat) (m : Migration) (s : State) : State :=
  let (n, moved, done) := m.opened.getD (0, 0, false)
  let s1 := updQuarter { s with agenda := m.refused.map Turn.party ++ s.agenda } q (fun k => { k with mig := none })
  if done then setCpl m.owner m.cpl (cplWord stDone 0 0 0x30) n moved 0 s1
  else setCpl m.owner m.cpl (cplWord stFault 0x049 0 0x30) 0 0 0 s1

/-- The page is open. Those that were queued are served in their order: a request is performed, and a party has its turn, after which the
queue goes on (13 R345 steps 5 and 6). -/
def serveQueue (q : Nat) : Nat → State → State
  | 0, s => s
  | n + 1, s =>
    match (quarter s q).mig with
    | none => s
    | some m =>
      let rest := updQuarter s q (fun k => { k with mig := some { m with queued := m.queued.drop 1 } })
      match m.queued with
      | [] => closeMigration q m s
      | .req r :: _ => serveQueue q n (forwardReq m rest r)
      | .party p :: _ => { rest with agenda := .party p :: .party (.queue q) :: s.agenda }

/-- Opens the page, with the words of the completion object, or with none for a migration that fails. -/
def openPage (q : Nat) (m : Migration) (w : Nat × Nat × Bool) (s : State) : State :=
  serveQueue q (m.queued.length + 1) (updQuarter s q (fun k => { k with mig := some { m with opened := some w } }))

/-- The page opens at its new home. -/
def endMigration (q : Nat) (m : Migration) (s : State) : State :=
  let s1 := if m.leafAddr < devTop then
      placeWrite s (.dev m.leafAddr) (toBytes 8 (m.leaf % 4096 + m.newFrame * 4096 + m.newPeer * 2 ^ 56)) false
    else s
  let dirty := m.dirtyLines s1
  let s2 := shootDown m s1
  let s3 := m.carry (if isLocal s m.newPeer ∧ m.newFrame * 4096 + 4096 ≤ devTop then
      dirty.foldl (fun s l => placeWrite s (.dev (m.newFrame * 4096 + l.1)) l.2 false) (pageArrives (m.newFrame * 4096) s2)
    else s2)
  let mine := s3.reqs.filter (m.holds s3)
  let s4 := mine.foldl (forwardReq m) { s3 with reqs := s3.reqs.filter (fun r => !m.holds s3 r) }
  let (f, s5) := if isLocal s m.oldPeer then (0, s4) else drawFree s4
  openPage q m (if isLocal s m.oldPeer then (m.queued.length, m.moved, true) else (bits f 6 0, bits f 63 32, true)) s5

/-- The page stays at its old home: a device that the migration names has left (18 R413). Those that were queued are served there, in
their order. -/
def failMigration (q : Nat) (m : Migration) (s : State) : State :=
  openPage q { m with newPeer := m.oldPeer, newFrame := m.oldPa / 4096 } (0, 0, false) s

/-- 13 R345. -/
def execMigrationEnd (q : Nat) (s : State) : Out :=
  .next (match (quarter s q).mig with
    | none => s
    | some m => if m.opened.isSome then serveQueue q (m.queued.length + 1) s else endMigration q m s)

/-! ## Pinned entries (13 R342) -/

/-- Range entries 0 to 7 of space 0 with PIN = 1; without a valid descriptor there is no table. -/
def pinnedEntries (s : State) : List (List Word) :=
  if !descOk s 0 then []
  else
    let base := nb (dev64 s (sptabBase s + 8)) 55 11 * 2048
    ((List.range 8).map (fun i => (List.range 4).map (fun j => BitVec.ofNat 64 (dev64 s (base + 32 * i + 8 * j))))).filter
      (fun e => bit (e.getD 0 0) 6)

/-- 13 R342; R336: a write of 1 to XU_PINLOAD.LOAD. -/
def execPinLoad (port : Nat) (s : State) : Out := .next (if ownerOk s port then { s with pins := pinnedEntries s } else s)

/-! ## The zone map (13 R357) -/

/-- Register n of a quarter: doubleword n mod 2 of block row n div 2. -/
def zoneWrite (q n : Nat) (v : Word) (s : State) : State :=
  updQuarter s q (fun k => { k with zmap := mset k.zmap n (if n % 2 = 0 then v.toNat else v.toNat % 2 ^ 36) })

/-- 13 R357. -/
def execZoneMapWrite (port q n v : Nat) (s : State) : Out :=
  .next (if ownerOk s port && decide (q < 4 ∧ n < 50) then zoneWrite q n (BitVec.ofNat 64 v) s else s)

end Sys2Proof.Machine
end

