-- ==== Sys2Proof/Machine/Group.lean ====
section
/-! DEFINITION. The clock group: major 0x54 and the group's messages (06 R205; 14 R375 to R384). -/

namespace Sys2Proof.Machine

/-! ## Limits and the ceiling (14 R375, R376) -/

def updGc (f : ClockGroup → ClockGroup) (s : State) : State := { s with gc := f s.gc }

/-- The least of the four limits of a device (14 R375). -/
def ownLimit (s : State) : Nat := min (min s.gc.ann s.power.nth) (min s.power.ncur s.power.ncap)

/-- The group's notice in ns; a device without a group gives none. -/
def noticeNs (s : State) : Nat := if s.gc.group.isSome then s.gc.notice * 1000 else 0

/-- Is this device a member, or a pending one, of a group: the outcome of a `gc.join` is known? -/
def inGroup (s : State) : Bool := s.gc.group.isSome && s.gc.joinCore.isNone

/-- The device's own limit in effect at t: its last announcement with te ≤ t. -/
def ownAt (g : ClockGroup) (t : Nat) : Nat := (((g.own.filter (fun a => decide (a.1 ≤ t))).getLast?).map Prod.snd).getD 56

/-- The limit of a member at t: of its last announcement with te ≤ t, since they are taken in the order of their sequence numbers (14 R376). -/
def Member.limit (m : Member) (t : Nat) : Nat := (((m.anns.filter (fun a => decide (a.2.2 ≤ t))).getLast?).map (fun a => a.2.1)).getD 56

/-- Does a member count at t (14 R379 to R381)? -/
def Member.counts (m : Member) (t : Nat) : Bool := decide (m.tj ≤ t) && (match m.gone with
  | some r => decide (t < r)
  | none => true)

/-- Is the device in no group at t, or only about to join one (14 R375, R379, R380)? -/
def ClockGroup.alone (g : ClockGroup) (t : Nat) : Bool :=
  g.group.isNone || g.joinCore.isSome || (match g.leaving with
    | some r => decide (r ≤ t)
    | none => false)

/-- The limits at t of the other members that count then. -/
def otherLimits (g : ClockGroup) (t : Nat) : List Nat := (g.members.filter (fun p => p.2.counts t)).map (fun p => p.2.limit t)

/-- The step at which the device runs at t: its own limit, and in a group the limits of the members that count. Before its
join time it runs at the lesser of its own limit and the ceiling (14 R379). -/
def runAt (g : ClockGroup) (t : Nat) : Nat := if g.alone t then ownAt g t else (otherLimits g t).foldl min (ownAt g t)

/-- The ceiling at t: the least limit of the members that count at t, of which the device is one from its join time on (14 R376, R379); alone, its own
limit. None where no member counts. -/
def ceilingAt (g : ClockGroup) (t : Nat) : Option Nat :=
  if g.alone t then some (ownAt g t) else ((if g.tj ≤ t then [ownAt g t] else []) ++ otherLimits g t).min?

/-- Sends an announcement of the least limit with an effective time (14 R375, R376). -/
def announce (te : Nat) (s : State) : State :=
  updGc (fun g => { g with own := g.own ++ [(te, ownLimit s)], sent := ownLimit s, seq := g.seq + 1 }) s

/-- A change of the own limit is announced; without a group it takes effect at the next boundary (14 R375). -/
def announceChange (s : State) : State := if ownLimit s = s.gc.sent then s else announce (boundary (s.ns + noticeNs s)) s

/-! ## The instructions (06 R205)

`gc.join`, `gc.leave` and `gc.ann` are requests to the group: the thread has an age from then on (03 R82; log entry 123). -/

/-- The device joins: its limit stands, and it counts from tj (14 R379). -/
def joined (notice tj : Nat) (members : SMap Member) (s : State) : State :=
  announce (boundary s.ns) (updGc (fun g => { g with
    ann := g.joinN, notice := notice, tj := tj, members := members, leaving := none, joinCore := none, hbAt := s.ns }) s)

/-- The waiting `gc.join` completes with its result. -/
def joinDone (v : Word) (s : State) : State :=
  match s.gc.joinCore with
  | none => s
  | some c =>
    match (thr s c).wait with
    | .gcJoin rd => advanceCore c 4 (wxCore c rd v s)
    | _ => s

/-- 06 R205. -/
def execGcJoin (rd ra rb g : Nat) (s : State) : Out :=
  issueSupv (.gcJoin rd ra rb g) g [ra, rb] s (fun s =>
    let a := rx s ra
    let n := (rx s rb).toNat
    let notice := bits a 31 16
    if bits a 63 32 ≠ 0 ∨ n > 56 ∨ notice < 20 ∨ notice > 500 then trap 0x301 a s
    else withAge s (fun s => match s.gc.group with
      | some h => retX rd (if s.gc.leaving.isSome then 1 else if h = bits a 15 0 then 3 else 1) s
      | none => await (.gcJoin rd) (updGc (fun g => { g with
          group := some (bits a 15 0), notice := notice, joinCore := some s.cur, joinAt := s.ns, joinN := n, seq := g.seq + 1 }) s)))

/-- 06 R205; 14 R380. -/
def execGcLeave (rd g : Nat) (s : State) : Out :=
  issueSupv (.gcLeave rd g) g [] s (fun s =>
    withAge s (fun s =>
      if !inGroup s then retX rd 1 s
      else retX rd 0 (updGc (fun g => { g with
        leaving := some (g.leaving.getD (boundary (s.ns + noticeNs s))), seq := g.seq + 1 }) s)))

/-- 06 R205; 14 R375, R376. -/
def execGcAnn (ra rb g : Nat) (s : State) : Out :=
  issueSupv (.gcAnn ra rb g) g [ra, rb] s (fun s =>
    let a := rx s ra
    let t := (rx s rb).toNat
    if a.toNat > 56 then trap 0x301 a s
    else if !inGroup s then trap 0x302 a s
    else if t ≠ 0 ∧ t < s.ns + noticeNs s then trap 0x301 a s
    else withAge s (fun s =>
      let te := boundary (if t = 0 then s.ns + noticeNs s else t)
      advance 4 (announce te (updGc (fun g => { g with ann := a.toNat }) s))))

/-- The times at which a limit or a membership may change. -/
def changeTimes (g : ClockGroup) : List Nat :=
  g.own.map Prod.fst ++ [g.tj] ++ g.leaving.toList ++ g.members.flatMap (fun p =>
    p.2.anns.map (fun a => a.2.2) ++ [p.2.tj] ++ p.2.gone.toList)

/-- The next change of the ceiling: its time and the ceiling after it. -/
def nextChange (s : State) : Option (Nat × Nat) :=
  ((((changeTimes s.gc).filter (fun t => decide (s.ns < t) && ceilingAt s.gc t != ceilingAt s.gc s.ns)).min?)).map
    (fun m => (m, (ceilingAt s.gc m).getD 0))

/-- The ceiling now (06 R205): a free value before any member counts, where the spec states none (log entry 124). -/
def ceilingNow (s : State) : Nat × State :=
  match ceilingAt s.gc s.ns with
  | some n => (n, s)
  | none => let (f, s1) := drawFree s; (f.toNat % 57, s1)

/-- The members of the group, this device included and those gone left out. -/
def memberCount (s : State) : Nat := 1 + (s.gc.members.filter (fun p => match p.2.gone with
  | some r => decide (s.ns < r)
  | none => true)).length

/-- 06 R205. -/
def execGcQuery (rd ra g : Nat) (s : State) : Out :=
  issue g 4 [ra] s (fun s =>
    match (rx s ra).toNat with
    | 0 => let (n, s1) := ceilingNow s; retX rd (BitVec.ofNat 64 n) s1
    | 1 => retX rd (BitVec.ofNat 64 (((nextChange s).map Prod.fst).getD 0)) s
    | 2 => retX rd (BitVec.ofNat 64 (((nextChange s).map Prod.snd).getD 0)) s
    | 3 => retX rd (if inGroup s then BitVec.ofNat 64 (memberCount s * 65536 + s.gc.group.getD 0) else 0) s
    | 4 => retX rd (BitVec.ofNat 64 (ownLimit s)) s
    | _ => trap 0x301 (rx s ra) s)

/-! ## Messages of the group (14 R377 to R381) -/

def updMember (id : Nat) (f : Member → Member) (s : State) : State :=
  match mget? s.gc.members id with
  | none => s
  | some m => updGc (fun g => { g with members := mset g.members id (f m) }) s

/-- Is a message of the group that this device belongs to? -/
def ours (s : State) (grp : Nat) : Bool := inGroup s && s.gc.group == some grp

/-- Is this device's JOIN of a group not answered yet? -/
def joining (s : State) (grp : Nat) : Bool := s.gc.joinCore.isSome && s.gc.group == some grp

/-- Is a sequence number of 32 bits the one that comes next, or ahead of it? -/
def notBehind (q next : W32) : Bool := decide ((q - next).toNat < 2 ^ 31)

/-- The earlier of two removals. -/
def earlier (a : Option Nat) (t : Nat) : Option Nat := some (match a with
  | some r => min r t
  | none => t)

/-- The effect of a member's message (14 R376, R378, R380, R381). An announcement that comes after its te is applied from its arrival, since its te
is past, and counted. -/
def applyMsg (id : Nat) (q : W32) (m : GcMsg) (s : State) : State :=
  match m with
  | .announce n te =>
    let s1 := if boundary te < s.ns then updGc (fun g => { g with late := satInc g.late }) s else s
    updMember id (fun m => { m with anns := m.anns ++ [(q.toNat, n, boundary te)] }) s1
  | .heartbeat top => updMember id (fun m => { m with asked := m.asked || notBehind top m.next }) s
  | .leave tl => updMember id (fun m => { m with gone := earlier m.gone (boundary tl) }) s
  | .silent who tr => updMember who (fun m => { m with gone := earlier m.gone (boundary tr) }) s
  | .other => s

/-- The messages of a member that have come and are next in its sequence take their effects. -/
def drainMsgs (id : Nat) : Nat → State → State
  | 0, s => s
  | n + 1, s =>
    match mget? s.gc.members id with
    | none => s
    | some m => match m.early.find? (fun x => x.1 == m.next) with
      | none => s
      | some (q, x) =>
        drainMsgs id n (applyMsg id q x (updMember id (fun m => { m with next := q + 1, early := m.early.filter (fun y => y.1 != q) }) s))

/-- A message of a member arrives (14 R377): the members' messages are taken in the order of their sequence numbers, each once, and those that a gap shows
to be missing are asked for again. -/
def takeMsg (id : Nat) (q : W32) (x : GcMsg) (s : State) : State :=
  match mget? s.gc.members id with
  | none => s
  | some m =>
    if !notBehind q m.next || m.early.any (fun y => y.1 == q) then s
    else
      let s1 := drainMsgs id (m.early.length + 1) (updMember id (fun m => { m with early := m.early ++ [(q, x)] }) s)
      updMember id (fun m => { m with asked := !m.early.isEmpty || m.asked && q != m.next - 1 }) s1

/-- A message of the group: what comes between this device's JOIN and the STATE that answers it waits for that (14 R379). -/
def receive (grp id : Nat) (q : W32) (x : GcMsg) (s : State) : State :=
  if ours s grp then takeMsg id q x s
  else if joining s grp then updGc (fun g => { g with early := g.early ++ [(id, q, x)] }) s
  else s

/-- 14 R376 to R378. -/
def execAnnounceReceive (grp id seq n te : Nat) (s : State) : Out :=
  .next (if n ≤ 56 then receive grp id (BitVec.ofNat 32 seq) (.announce n te) s else s)

/-- 14 R377: a heartbeat leaves. -/
def execHeartbeatSend (s : State) : Out :=
  .next (if inGroup s && decide (s.ns ≥ s.gc.hbAt + 10000) then updGc (fun g => { g with hbAt := s.ns, seq := g.seq + 1 }) s else s)

/-- 14 R377, R381: the member has been heard, whatever else is missing of it. A heartbeat of a member that is gone is answered with EXPEL, which changes
nothing here. The limit that it names is known from its announcements. -/
def execHeartbeatReceive (grp : Nat) (m : MsgHead) (_n top : Nat) (s : State) : Out :=
  .next (let s1 := receive grp m.id (BitVec.ofNat 32 m.seq) (.heartbeat (BitVec.ofNat 32 top)) s
    if ours s grp then updMember m.id (fun w => { w with heard := s.ns, told := false }) s1 else s1)

/-- A member whose next message has a sequence number, as it is first known. -/
def newMember (anns : List (Nat × Nat × Nat)) (tj : Nat) (gone : Option Nat) (next : W32) (s : State) : Member :=
  { anns := anns, tj := tj, gone := gone, heard := s.ns, next := next, early := [], asked := false, told := false }

/-- Is a device a member that is not gone? -/
def isFellow (s : State) (id : Nat) : Bool :=
  match mget? s.gc.members id with
  | some m => (match m.gone with
    | some r => decide (s.ns < r)
    | none => true)
  | none => false

/-- 14 R379: a pending member; a group of 1,024 takes none, and a member stays what it is. -/
def execJoinReceive (grp : Nat) (m : MsgHead) (n _notice : Nat) (s : State) : Out :=
  .next (if ours s grp && decide (n ≤ 56) && decide (memberCount s < 1024) && !isFellow s m.id then
      let w := newMember [(m.seq, n, 0)] (boundary (s.ns + noticeNs s)) none (BitVec.ofNat 32 m.seq + 1) s
      updGc (fun g => { g with members := mset g.members m.id w, seq := g.seq + 1 }) s
    else s)

/-- Four numbers of a STATE: of a member its identity, sequence number, join time and removal, or 0; of an announcement the member's identity, its
sequence number, n and te. -/
abbrev StateRow := Nat × Nat × Nat × Nat

/-- A member as a STATE names it. -/
def stateMember (i : StateRow) (anns : List StateRow) (s : State) : Member :=
  newMember ((anns.filter (fun a => a.1 == i.1)).map (fun a => (a.2.1, a.2.2.1, boundary a.2.2.2))) (boundary i.2.2.1)
    (if i.2.2.2 = 0 then none else some (boundary i.2.2.2)) (BitVec.ofNat 32 i.2.1 + 1) s

/-- What a STATE says of a member enters: a member not known before, or what is new of one that is. -/
def learnMember (anns : List StateRow) (s : State) (i : StateRow) : State :=
  let n := stateMember i anns s
  match mget? s.gc.members i.1 with
  | none => updGc (fun g => { g with members := mset g.members i.1 n }) s
  | some m =>
    let gone := match n.gone with
      | some r => earlier m.gone r
      | none => m.gone
    updMember i.1 (fun m => if notBehind n.next m.next && n.next != m.next then
        { m with anns := n.anns, gone := gone, next := n.next, early := m.early.filter (fun x => notBehind x.1 n.next) }
      else { m with gone := gone }) s

/-- The messages that waited for STATE. -/
def takeEarly (l : List (Nat × W32 × GcMsg)) (s : State) : State := l.foldl (fun s x => takeMsg x.1 x.2.1 x.2.2 s) s

/-- 14 R379: a reply of a member with what it knows of every member; tj is the join time, and 0 in the reply of a full group. What the members have sent
meanwhile is taken behind it. -/
def execStateReceive (grp : Nat) (m : MsgHead) (notice tj : Nat) (members anns : List StateRow) (s : State) : Out :=
  .next (if joining s grp then
      if tj = 0 then updGc (fun g => { g with group := none, joinCore := none, early := [] }) (joinDone 2 s)
      else
        let s1 := members.foldl (learnMember anns) (joined notice (boundary tj) [] (joinDone 0 s))
        updGc (fun g => { g with early := [] }) (takeEarly s.gc.early (takeMsg m.id (BitVec.ofNat 32 m.seq) .other s1))
    else if ours s grp then takeMsg m.id (BitVec.ofNat 32 m.seq) .other (members.foldl (learnMember anns) s)
    else s)

/-- 14 R379: no reply within 100 µs. -/
def execGroupFound (s : State) : Out :=
  .next (if s.gc.joinCore.isSome && decide (s.ns ≥ s.gc.joinAt + 100000) then
      updGc (fun g => { g with early := [] }) (joined s.gc.notice (boundary (s.gc.joinAt + s.gc.notice * 1000)) [] (joinDone 0 s))
    else s)

/-- 14 R380. -/
def execLeaveReceive (grp : Nat) (m : MsgHead) (tl : Nat) (s : State) : Out := .next (receive grp m.id (BitVec.ofNat 32 m.seq) (.leave tl) s)

/-- The node number of a member on this device (06 R195; 14 R384): of a device of the domain with its identity, or of a scale-out peer with it in the peer
table. -/
def nodeOf (s : State) (id : Nat) : Nat :=
  match s.ids.find? (fun p => p.2 == id && isMember s p.1) with
  | some p => p.1
  | none => ((List.range 880).find? (fun n => peerValid s (144 + n) && peerIdentity s (144 + n) == id)).elim 0x3FF (144 + ·)

/-- A member is declared silent (14 R381). -/
def declareSilent (id : Nat) (s : State) : State :=
  let s1 := updMember id (fun m => { m with gone := earlier m.gone (boundary (s.ns + noticeNs s)), told := true }) s
  raise0 0x303 (nodeOf s id * 65536 + s.gc.group.getD 0) (updGc (fun g => { g with silents := satInc g.silents, seq := g.seq + 1 }) s1)

/-- Is a member to be declared silent: it counts still, and has not been heard for GC_CFG.SILENT × 10 µs, of which 0 to 4 act as 5 (14 R381, R383)? -/
def silentDue (s : State) (m : Member) : Bool :=
  !m.told && (match m.gone with
    | some r => decide (s.ns < r)
    | none => true) && decide (s.ns ≥ m.heard + max 5 s.gc.silent.toNat * 10000)

/-- 14 R381: a member whose removal is pending is declared silent like another, and keeps the earlier tr. -/
def execSilentDeclare (id : Nat) (s : State) : Out :=
  .next (match mget? s.gc.members id with
    | none => s
    | some m => if inGroup s && silentDue s m then declareSilent id s else s)

/-- 14 R381. -/
def execSilentReceive (grp : Nat) (m : MsgHead) (r : Removal) (s : State) : Out :=
  .next (receive grp m.id (BitVec.ofNat 32 m.seq) (.silent r.who r.tr) s)

/-- 14 R381. -/
def execExpelReceive (grp : Nat) (s : State) : Out :=
  .next (if ours s grp then
      raise0 0x304 grp (updGc (fun g => { g with group := none, members := [], leaving := none }) s)
    else s)

/-- What a boundary of 10 µs that has been passed brings (14 R376, R380, R382): the ceiling; a leaver that has reached its tl is out of the group; a changed
power cap takes effect (18 R418). -/
def passBoundary (s : State) : State :=
  let t := s.ns / 10000 * 10000
  let g := s.gc
  let left := match g.leaving with
    | some r => decide (r ≤ t)
    | none => false
  let s1 := { s with ceiling := runAt g t }
  let s2 := if left then updGc (fun g => { g with group := none, members := [], leaving := none }) s1 else s1
  let due := s2.power.capNext.filter (fun c => decide (c.1 ≤ t))
  let s3 := match due.getLast? with
    | some (_, c) => { s2 with power := { s2.power with capNow := c, capNext := s2.power.capNext.filter (fun c => decide (t < c.1)) } }
    | none => s2
  announceChange s3

/-- 14 R382. The passing of time brings each change at its boundary itself. -/
def execCeilingChange (s : State) : Out := .next (passBoundary s)

end Sys2Proof.Machine
end

