-- ==== Sys2Proof/Machine/Repair.lean ====
section
/-! DEFINITION. Patrol reads and the repair registers (17 R393, R394, R400, R403 to R405). -/

namespace Sys2Proof.Machine

/-- The quarter whose engine is the home of a device address (05 R151); its repair registers count the errors there. -/
def homeQuarter (pa : Nat) : Nat := (List.range 16).foldl (fun h i => h ^^^ (pa / 2 ^ (7 + 2 * i) % 4)) 0

/-- What the last read of a word found stays known until its next one (17 R400). -/
def noteRead (u : Upset) (f : Found) (s : State) : State :=
  let l := s.weak.filter (fun x => x.1 != u)
  { s with weak := match f with
      | .none => l
      | .one => (u, false) :: l
      | .two => (u, true) :: l }

/-- A corrected error of device memory (17 R393): where the word corrected at its last read too, the bit is a lasting one (17 R400). -/
def correctedAt (line : Nat) (s : State) : State :=
  let q := homeQuarter (64 * line)
  let s1 := logError q 1 0 0 false (64 * line) 0 0 (updQuarter s q (fun k => { k with hbmce := satInc k.hbmce }))
  if s.weak.contains (.dev line, false) then logError q 5 0 0 false (64 * line) 0 0 (updQuarter s1 q (fun k => { k with last := satInc k.last })) else s1

/-- An uncorrectable error of device memory: the line stays marked (17 R393, R394). -/
def uncorrectableAt (line : Nat) (s : State) : State :=
  let q := homeQuarter (64 * line)
  logError q 2 0 0 false (64 * line) 0 0 (updQuarter { s with dev := setPois s.dev line true } q (fun k => { k with hbmue := satInc k.hbmue }))

/-- What a read of a line of device memory finds takes its effect (17 R393, R400). -/
def lineRead (line : Nat) (f : Found) (s : State) : State :=
  if line ≥ 2 ^ 33 then s
  else noteRead (.dev line) f (match f with
    | .none => s
    | .one => correctedAt line s
    | .two => uncorrectableAt line s)

/-- 17 R393, R400: `err` is what the memory controller finds: 1 one bit, 2 two bits, else nothing. -/
def execPatrolRead (line err : Nat) (s : State) : Out :=
  .next (lineRead line (match err with
    | 1 => .one
    | 2 => .two
    | _ => .none) s)

/-- Does a district hold a block of a logical block column? -/
def columnHeld (s : State) (q col : Nat) : Bool :=
  s.districts.any (fun d => d.2.rect.q == q && decide (d.2.rect.bx ≤ col ∧ col < d.2.rect.bx + d.2.rect.w))

/-- A write to RP_REMAP (17 R403): the old and the new mapping exist while EN is 1. -/
def remapWrite (q : Nat) (v : Word) (s : State) : State :=
  let k := quarter s q
  let en := bit v 8
  let col := bits v 4 0
  let held := (k.remapEn && columnHeld s q k.remapCol.toNat) || (en && columnHeld s q col)
  if held ∨ (k.remapEn = true ∧ col ≠ k.remapCol.toNat) ∨ col ≥ 25 then updQuarter s q (fun k => { k with rpBusy := true })
  else updQuarter s q (fun k => { k with remapEn := en, remapCol := BitVec.ofNat 5 col })

/-- 17 R403. -/
def execRpRemapWrite (port q v : Nat) (s : State) : Out :=
  .next (if ownerOk s port && decide (q < 4) then remapWrite q (BitVec.ofNat 64 v) s else s)

/-- RP_CTL.CLR (17 R404). -/
def clearCounts (q : Nat) (s : State) : State :=
  updQuarter s q (fun k => { k with
    sramce := 0, sramue := 0, hbmce := 0, hbmue := 0, parfix := 0, rollback := 0, trans := 0, last := 0 })

/-- 17 R404. -/
def execRpCountClear (port q : Nat) (s : State) : Out :=
  .next (if ownerOk s port && decide (q < 4) then clearCounts q s else s)

end Sys2Proof.Machine
end

