-- ==== Sys2Proof/Machine/Link.lean ====
section
/-! DEFINITION. The Unuth links and the domain (18 R407 to R413). -/

namespace Sys2Proof.Machine

/-! ## Flits and retries (18 R409) -/

/-- 18 R409: the next flit in order is taken; a bad one is answered with a NAK and counts as a failure in a row. -/
def execFlitReceive (l seq good : Nat) (s : State) : Out :=
  .next (if decide (l < 22) && (link s l).carries (rxDir l) then
      if good = 0 then updLink l (fun k => { k with fails := k.fails + 1 }) s
      else if seq = (link s l).rxNext then updLink l (fun k => { k with rxNext := k.rxNext + 1, fails := 0 }) s
      else s
    else s)

/-- Is a flit in the replay buffer, which holds the 512 flits behind the last acknowledged one (18 R409)? How packets fill flits is not given, so a
flit beyond those known counts as sent. -/
def Link.inBuffer (k : Link) (seq : Nat) : Bool := decide (k.txAck ≤ seq ∧ seq < k.txAck + 512)

/-- An ACK of the flits before a number: they leave the replay buffer (18 R409). -/
def flitAck (l seq : Nat) (s : State) : State :=
  if decide (l < 22 ∧ 0 < seq) && (link s l).inBuffer (seq - 1) then updLink l (fun k => { k with txAck := seq, txNext := max k.txNext seq }) s else s

/-- 18 R409: a NAK names a flit of the replay buffer; those before it have been received, and it and those behind it are
sent again. -/
def execNakReplay (l seq : Nat) (s : State) : Out :=
  .next (if decide (l < 22) && (link s l).carries (txDir l) && (link s l).inBuffer seq then
      updLink l (fun k => { k with txAck := seq, txNext := max k.txNext (seq + 1), retry := satInc k.retry }) s
    else s)

/-- 18 R409: sixteen failures in a row retrain the receiving direction; the other direction retrains at its receiver's
word. -/
def execLinkRetrain (l dir : Nat) (s : State) : Out :=
  .next (if decide (l < 22 ∧ dir < 2) && (link s l).carries dir && (dir != rxDir l || decide ((link s l).fails ≥ 16)) then
      updLink l (fun k => { k with retrain := k.retrain ++ [dir], fails := if dir = rxDir l then 0 else k.fails }) s
    else s)

/-- A direction without an active lane is down, and supervisor core 0 and the owner are told once (18 R409, R415). -/
def noteDown (l dir : Nat) (s : State) : State :=
  if (link s l).width dir ≠ 0 ∨ (link s l).down dir then s
  else hostEvent 0x02 (raise0 0x342 (l * 32 + 31) (updLink l (fun k => k.setDown dir true) s))

/-- A lane becomes FAILED, and a command on it ends (18 R409, R411). -/
def failLane (l i : Nat) (s : State) : State :=
  let s1 := updLink l (fun k => { k with
    lanes := mset k.lanes i 3, cmd := if k.cmd.any (fun c => c.2.1 == i) then none else k.cmd }) s
  noteDown l 1 (noteDown l 0 (raise0 0x341 (l * 32 + i) s1))

/-- 18 R409. -/
def execLaneFail (l i : Nat) (s : State) : Out :=
  .next (if l < 22 ∧ i < 18 ∧ ((link s l).lane i = 1 ∨ (link s l).lane i = 2 ∨ (link s l).lane i = 4) then failLane l i s else s)

/-! ## Commands (18 R411) -/

/-- The device at the other end of the link, as the writer of a command: no port of this device. -/
def farEnd : Nat := 258

/-- A refused command is told to the writer; the device at the other end tells its own. -/
def refuseCmd (port : Nat) (v : Word) (s : State) : State :=
  if isHostPort port then badAcc port s else if port = farEnd then s else raise ((port - 2) % 256) 0x343 v 0 s

/-- May an OP act on a lane as it stands? -/
def cmdOk (k : Link) (op i : Nat) : Bool :=
  let st := k.lane i
  let active := st == 1 || st == 2
  let leaves := !active || decide (k.width (st - 1) > 1)
  match op with
  | 1 => st == 0
  | 2 => active && leaves
  | _ => (active || st == 3) && leaves

/-- A lane is about to leave its direction: where this device sends in it, the flits that it has not seen acknowledged are replayed on the other
lanes (18 R411). -/
def Link.leaves (l i : Nat) (k : Link) : Link :=
  if k.txAck < k.txNext ∧ k.lane i = txDir l + 1 then { k with retry := satInc k.retry } else k

/-- A command of UL_LCMD: SPARE and TURN train the lane in its new direction, IDLE makes it spare. -/
def linkCmd (port : Nat) (v : Word) (s : State) : State :=
  let l := bits v 4 0
  let i := bits v 12 8
  let op := bits v 21 20
  if op = 0 then s
  else if l > 21 ∨ i > 17 then refuseCmd port v s
  else if !(link s l).retrain.isEmpty then updLink l (fun k => { k with cmdWait := k.cmdWait ++ [(port, v)] }) s
  else if (link s l).cmd.isSome || !cmdOk (link s l) op i then refuseCmd port v s
  else if op = 3 then updLink l (fun k => { k.leaves l i with lanes := mset k.lanes i 0 }) s
  else
    let dir := if op = 1 then bits v 16 16 else 2 - (link s l).lane i
    updLink l (fun k => { k.leaves l i with lanes := mset k.lanes i 4, cmd := some (op, i, dir) }) s

/-- A write of UL_LCMD whose OP is the one named. -/
def cmdWrite (op port v : Nat) (s : State) : State :=
  if ownerOk s port && nb v 21 20 == op then linkCmd port (BitVec.ofNat 64 v) s else s

/-- 18 R411. -/
def execSpare (port v : Nat) (s : State) : Out := .next (cmdWrite 1 port v s)
/-- 18 R411. -/
def execTurn (port v : Nat) (s : State) : Out := .next (cmdWrite 2 port v s)
/-- 18 R411. -/
def execIdleLane (port v : Nat) (s : State) : Out := .next (cmdWrite 3 port v s)

/-- Once its first link has trained the device takes its number (18 R412; 03 R78; log entry 84). -/
def takeNumber (s : State) : State := if s.device = 0xFF then { s with device := slotOf } else s

/-- 18 R411: the lane of the command under way has trained, or has failed to. -/
def execLaneTrained (l ok : Nat) (s : State) : Out :=
  .next (match (link s l).cmd with
    | none => s
    | some (_, i, dir) =>
      if ok = 0 then failLane l i s
      else takeNumber (updLink l (fun k => { (k.setDown dir false) with lanes := mset k.lanes i (dir + 1), cmd := none }) s))

/-- The commands that waited while a link retrained are made, in order (18 R411). -/
def releaseCmds (l : Nat) (s : State) : State :=
  if (link s l).retrain.isEmpty then
    (link s l).cmdWait.foldl (fun s c => linkCmd c.1 c.2 s) (updLink l (fun k => { k with cmdWait := [] }) s)
  else s

/-- 18 R409, R411, R412: a direction of a link has trained, at bring-up or again; each does so on its own. -/
def execRetrainingEnd (d : LinkSide) (s : State) : Out :=
  .next (if d.link < 22 ∧ d.dir < 2 then
      releaseCmds d.link (takeNumber (updLink d.link (fun k => { k with retrain := k.retrain.filter (fun x => x != d.dir) }) s))
    else s)

/-! ## Membership (18 R412, R413) -/

/-- A change of the domain is due at tm, a boundary. -/
def dueMember (tm dev : Nat) (entry : Bool) (s : State) : State := { s with memberAt := s.memberAt ++ [(boundary tm, dev, entry)] }

/-- A membership time that a message names: at least 100 µs after it (18 R412). -/
def memberTime (tm : Nat) (s : State) : Nat := max tm (s.ns + 100000)

/-- Is a device a member that is not about to leave? -/
def staysMember (s : State) (dev : Nat) : Bool := isMember s dev && !s.memberAt.any (fun c => c.2.1 == dev && !c.2.2)

/-- 18 R412, R413: a write of UL_DCTL.LEAVE; the device leaves its clock group at the same time. -/
def execLeave (port : Nat) (s : State) : Out :=
  .next (if ownerOk s port && staysMember s s.device then
      let tm := boundary (s.ns + 100000)
      let s1 := dueMember tm s.device false s
      if inGroup s1 then updGc (fun g => { g with leaving := some (g.leaving.getD tm), seq := g.seq + 1 }) s1 else s1
    else s)

/-- Does a migration go from or to a device? -/
def Migration.names (m : Migration) (s : State) (dev : Nat) : Bool := sameHome s m.oldPeer dev || sameHome s m.newPeer dev

/-- 18 R413: the LEAVE of another device. -/
def peerLeave (dev tm : Nat) (s : State) : State :=
  if staysMember s dev then dueMember (memberTime tm s) dev false s else s

/-- The power cap that the limits ask for, in W as a fraction (18 R418, R419): the least of 3,600, PW_CAP and the rack
share. -/
def capLess (a b : Nat × Nat) : Bool := decide (a.1 * b.2 < b.1 * a.2)

/-- PW_RCAP, whose WEIGHT resets to 1. -/
def rcap (s : State) : Word := mget s.hub 0x1F508 (BitVec.ofNat 64 (2 ^ 32))

/-- The members of this device's rack group that report a budget: weight and budget (18 R419). -/
def rackPeers (s : State) : List (Nat × Nat) :=
  (s.power.peers.filter (fun p => isMember s p.1 && p.1 != s.device && p.2.2.2.2 == bits (rcap s) 63 48 && p.2.2.2.1 != 0)).map
    (fun p => (p.2.2.1, p.2.2.2.1))

/-- The rack share: B × 100 W × WEIGHT over the sum of the weights. -/
def rackShare (s : State) : Option (Nat × Nat) :=
  let w := bits (rcap s) 47 32
  let b := bits (rcap s) 15 0
  if w = 0 ∨ b = 0 then none
  else
    let l := rackPeers s
    some ((l.foldl (fun m p => min m p.2) b) * 100 * w, l.foldl (fun n p => n + p.1) w)

def capWanted (s : State) : Nat × Nat :=
  let watts := bits (hubRaw s 0x1F500) 15 0
  let c := if watts ≠ 0 ∧ watts < 3600 then (watts, 1) else (3600, 1)
  match rackShare s with
  | none => c
  | some r => if capLess r c then r else c

/-- A cap that differs from the last one asked for takes effect at a later boundary (18 R418); BMIS follows the budgets
(18 R419). -/
def noteCap (s : State) : State :=
  let want := capWanted s
  let last := ((s.power.capNext.getLast?).map Prod.snd).getD s.power.capNow
  let bmis := (rackPeers s).any (fun p => p.2 != bits (rcap s) 15 0)
  { s with power := { s.power with
      bmis := bmis,
      capNext := if capLess want last || capLess last want then s.power.capNext ++ [(boundary (s.ns + noticeNs s), want)]
        else s.power.capNext } }

/-- Is a place at a device of the domain? -/
def Place.isAt (dev : Nat) (p : Place) : Bool :=
  match p with
  | .peer d _ => d == dev
  | _ => false

/-- A request, no more among the others, to a device that has left: a posted access is lost and told, a remote atomic fails, and a waiting
instruction is issued again, whose translation then refuses the device (18 R413; log entry 135). -/
def loseReq (dev : Nat) (s : State) (r : Req) : State :=
  if r.kind = 4 then atomicLost r dev s
  else if r.kind = 6 then s
  else if r.kind = 1 then failStore r s
  else if r.wait then updThr s r.core (fun t => if t.id = r.thread then { t with wait := .again false } else t)
  else raiseThread r.thread 0x10E (BitVec.ofNat 64 r.va) 0 s

/-- Tagged instructions that wait at a word of a device that has left are issued again. -/
def loseTags (dev : Nat) (s : State) : State :=
  (s.tagq.filter (fun w => w.place.isAt dev)).foldl (fun s w => match w.who with
    | .core c => updThr (dropTag c s) c (fun t => { t with wait := .again false })
    | _ => s) s

/-- What is on its way to a device that has left cannot be delivered (18 R413). -/
def loseAt (dev : Nat) (s : State) : State :=
  let gone := s.reqs.filter (fun r => r.place.isAt dev)
  let s1 := loseTags dev (gone.foldl (loseReq dev) { s with reqs := s.reqs.filter (fun r => !r.place.isAt dev) })
  (s1.engines.filter (fun e => awayNode s1 e == some dev)).foldl (fun s e => failEngine e s) s1

/-- A device leaves the domain: the migrations that name it end, and what is on its way to it is lost. -/
def depart (dev : Nat) (s : State) : State :=
  loseAt dev (s.quarters.foldl (fun s q => match q.2.mig with
    | some m => if m.opened.isNone && m.names s dev then failMigration q.1 m s else s
    | none => s) { s with members := setDel s.members dev })

/-- A change that is due, with its event; one that changes nothing has none (18 R412). -/
def changeMember (c : Nat × Nat × Bool) (s : State) : State :=
  let dev := c.2.1
  if isMember s dev = c.2.2 then s
  else
    let s1 := if c.2.2 then { s with members := setIns s.members dev } else depart dev s
    hostEvent 0x04 (raise0 0x344 (dev * 2 + if c.2.2 then 1 else 0) (noteCap s1))

/-- 18 R412. -/
def execMembershipChange (s : State) : Out :=
  .next ((s.memberAt.filter (fun c => decide (c.1 ≤ s.ns))).foldl (fun s c => changeMember c s)
    { s with memberAt := s.memberAt.filter (fun c => decide (s.ns < c.1)) })

/-- The clock group takes a device that is gone as silent (18 R413; 14 R381). -/
def silenceDevice (dev : Nat) (s : State) : State :=
  if inGroup s then (s.gc.members.filter (fun m => nodeOf s m.1 == dev && !m.2.told)).foldl (fun s m => declareSilent m.1 s) s else s

/-- 18 R413: a member is gone without LEAVE, as this device sees on its own link to it. -/
def execDeviceDeparture (dev : Nat) (s : State) : Out :=
  let gone := match linkTo dev with
    | some j => (link s j).dnab && (link s j).dnba
    | none => false
  .next (if gone && staysMember s dev then silenceDevice dev (dueMember (s.ns + 250000) dev false s) else s)

/-- 18 R413: the departure that a member sends for a device whose links are down. -/
def peerDeparture (dev tm : Nat) (s : State) : State :=
  if staysMember s dev then silenceDevice dev (dueMember (memberTime tm s) dev false s) else s

/-- The state of a link between two other devices of the domain, as they tell it (18 R408). -/
def peerLinkState (a b : Nat) (down : Bool) (s : State) : State :=
  let k := (min a b, max a b)
  let l := s.farDown.filter (fun x => x != k)
  { s with farDown := if down then k :: l else l }

/-- 18 R412, R413; 03 R78: a JOIN, this device's own among them, with the identity of the device and the tm that the first member to answer names. -/
def execDomainJoin (dev : Nat) (e : Entry) (s : State) : Out :=
  .next (if dev ≥ 144 ∨ isMember s dev then s
    else dueMember (memberTime e.tm s) dev true
      (if dev = slotOf then takeNumber s else { s with ids := mset s.ids dev (e.id % 2 ^ 64) }))

end Sys2Proof.Machine
end

