-- ==== Sys2Proof/Machine/Power.lean ====
section
/-! DEFINITION. The regulator: limits, the power cap, the rack share and the emergency throttle (18 R418 to R420). -/

namespace Sys2Proof.Machine

def updPower (f : Power → Power) (s : State) : State := { s with power := f s.power }

/-- TH_CFG, whose TWARN resets to 95 and TTRIP to 105. -/
def thCfg (s : State) : Word := mget s.hub 0x1F518 (BitVec.ofNat 64 (95 * 256 + 105))
/-- TTRIP as it acts. -/
def ttrip (s : State) : Nat := min (bits (thCfg s) 7 0) 110
/-- TWARN as it acts. -/
def twarn (s : State) : Nat := min (bits (thCfg s) 15 8) (ttrip s - 5)

/-- A limit lowered or raised by a tick; no limit leaves 0 to 56 (18 R418). -/
def tick (lower raise_ : Bool) (step n : Nat) : Nat := if lower then n - step else if raise_ then min 56 (n + 1) else n

/-- 18 R418: t is the hottest junction; the limit is settled each 1 ms. -/
def execThermalTick (t : Nat) (s : State) : Out :=
  .next (if s.ns < s.power.thAt + 1000000 then updPower (fun p => { p with temp := t % 256 }) s
    else announceChange (updPower (fun p => { p with
      temp := t % 256, thAt := s.ns, nth := tick (decide (t ≥ twarn s)) (decide (t + 5 ≤ twarn s)) 1 p.nth }) s))

/-- 18 R418: pct is the load of the fullest rail, in per cent of its rating; the limit is settled each 100 µs. -/
def execCurrentTick (pct : Nat) (s : State) : Out :=
  .next (if s.ns < s.power.curAt + 100000 then s
    else announceChange (updPower (fun p => { p with curAt := s.ns, ncur := tick (decide (pct > 95)) (decide (pct < 85)) 2 p.ncur }) s))

/-- 18 R418: w is the mean power of the last 100 µs; the limit is settled each 100 µs. -/
def execPowerCapTick (w : Nat) (s : State) : Out :=
  let c := s.power.capNow
  .next (if s.ns < s.power.capAt + 100000 then s
    else announceChange (updPower (fun p => { p with
      pwr := w % 65536, capAt := s.ns, ncap := tick (decide (100 * w * c.2 > 97 * c.1)) (decide (100 * w * c.2 < 90 * c.1)) 2 p.ncap }) s))

/-- 18 R419: the values of this device leave for the members of the domain, every 100 µs. -/
def execRackShareSend (s : State) : Out :=
  .next (if isMember s s.device && decide (s.ns ≥ s.power.shareAt + 100000) then updPower (fun p => { p with shareAt := s.ns }) s else s)

/-- 18 R419: the last values of a member. -/
def execRackShareReceive (dev p weight budget group : Nat) (s : State) : Out :=
  .next (if isMember s dev && dev != s.device then
      noteCap (updPower (fun k => { k with peers := mset k.peers dev (p, weight % 65536, budget % 65536, group % 65536) }) s)
    else s)

/-- 18 R420: t is the hottest junction, `rails` the mask of the rails at their rating, which stands below TEMP in CC_TVAL. -/
def execEmergencyThrottle (t rails : Nat) (s : State) : Out :=
  let mask := rails % 2 ^ Config.rails
  .next (if s.power.emerg || (decide (t < ttrip s) && mask == 0) then updPower (fun p => { p with temp := t % 256 }) s
    else hostEvent 0x08 (raise0 0x347 (t % 256 * 2 ^ Config.rails + mask) (updPower (fun p => { p with temp := t % 256, emerg := true }) s)))

/-- 18 R420. -/
def execEmergencyRelease (t pct : Nat) (s : State) : Out :=
  .next (updPower (fun p => { p with temp := t % 256, emerg := p.emerg && !decide (t + 5 ≤ ttrip s ∧ pct < 90) }) s)

end Sys2Proof.Machine
end

