-- ==== Sys2Proof/Machine/Trust.lean ====
section
/-! DEFINITION. Hosts, the scale-out transport, firmware and attestation (18 R414 to R417, R421, R422; 03 R75). -/

namespace Sys2Proof.Machine

def updTrust (f : Trust → Trust) (s : State) : State := { s with trust := f s.trust }

/-! ## Ownership (18 R415, R416) -/

/-- Is a write of HO_CAS performed? A supervisor core has the owner's access (12 R318). -/
def casOk (s : State) (port expect new : Nat) : Bool :=
  let names := isHostPort port && new == port + 1
  s.trust.owner == expect && decide (new ≤ 2) &&
  (ownerOk s port || (s.trust.owner == 0 && names) || (s.trust.stale && names))

/-- A write of HO_CAS: the new owner is told with vector 0. -/
def casWrite (port : Nat) (v : Word) (s : State) : State :=
  let new := bits v 1 0
  if casOk s port (bits v 3 2) new then
    hostEvent 0x10 (raise0 0x345 new (updTrust (fun t => { t with owner := new, stale := false, beatAt := s.ns }) s))
  else s

/-- 18 R416. -/
def execOwnerCas (port v : Nat) (s : State) : Out := .next (casWrite port (BitVec.ofNat 64 v) s)

/-- A write of HO_BEAT by the owner. -/
def beat (port : Nat) (s : State) : State :=
  if isHostPort port && ownerOk s port then updTrust (fun t => { t with beatAt := s.ns, stale := false }) s else s

/-- 18 R415. -/
def execOwnerHeartbeat (port : Nat) (s : State) : Out := .next (beat port s)

/-- HO_CFG.TIMEOUT in ms, which resets to 100. -/
def ownerTimeout (s : State) : Nat := bits (mget s.hub 0x1F418 100) 15 0

/-- 18 R415. -/
def execOwnerStale (s : State) : Out :=
  .next (if s.trust.owner ≠ 0 ∧ ownerTimeout s ≠ 0 ∧ s.ns ≥ s.trust.beatAt + ownerTimeout s * 1000000 then
      updTrust (fun t => { t with stale := true }) s
    else s)

/-! ## The BAR2 window (18 R414) -/

/-- A posted byte of a host: performed, or queued at a page that is moving (13 R345). -/
def hostByte (a : Nat) (b : Byte) (s : State) : State :=
  if (migAt s (.dev a)).isSome then
    sendReq (peerReq (.dev a) 1 0 [] (BitVec.ofNat 64 b.toNat) 0 1) s
  else placeWrite s (.dev a) [b] false

/-- The bytes of a host's write, one after another. -/
def hostBytes (a : Nat) : List Byte → State → State
  | [], s => s
  | b :: l, s => hostBytes (a + 1) l (hostByte a b s)

/-- 18 R414: a write by the owner inside the window. -/
def execBar2MemoryWrite (port ofs : Nat) (bytes : List Nat) (s : State) : Out :=
  .next (if isHostPort port && ownerOk s port && decide (ofs + bytes.length ≤ 2 ^ 32) then
      hostBytes (bits (hubRaw s 0x1F420) 38 32 * 2 ^ 32 + ofs) (bytes.map (BitVec.ofNat 8)) s
    else s)

/-- What a host reads in the window: n bytes of device memory from an offset on (18 R414). -/
def bar2Read (s : State) (ofs n : Nat) : List Byte := readBytes s.dev.cells (bits (hubRaw s 0x1F420) 38 32 * 2 ^ 32 + ofs) n

/-! ## Scale-out (18 R417) -/

/-- SO_CFG, whose TRIES resets to 8 and RTO to 50. -/
def soCfg (s : State) : Word := mget s.hub 0x1F488 (BitVec.ofNat 64 (8 * 65536 + 50))

/-- The operation that a packet carries takes its effect (18 R417; log entry 88). -/
def packetEffect (o : PacketOp) (s : State) : State :=
  match o.op with
  | 1 => peerStore o.pa (o.bytes.map (BitVec.ofNat 8)) s
  | 2 => peerAtomic o.fn o.w o.pa (BitVec.ofNat 64 o.b) (BitVec.ofNat 64 o.e) [] s
  | _ => s

/-- 18 R417: of a peer whose identity is the one in the table, the packet with the next number is taken and its operation performed, and any other
dropped; `h.ack` counts the packets of this device that the peer has acknowledged. -/
def execScaleoutPacketReceive (node : Nat) (h : PacketHead) (o : PacketOp) (s : State) : Out :=
  .next (if decide (144 ≤ node ∧ node < 1024) && peerValid s node && peerIdentity s node == h.id then
      let s1 := { s with packets := s.packets.filter (fun p => p.node != node || decide (h.ack ≤ p.seq)) }
      if h.seq = mget s.peerSeq (2 * node) 0 then packetEffect o { s1 with peerSeq := mset s.peerSeq (2 * node) (h.seq + 1) } else s1
    else s)

/-- The operation of a packet ends (06 R196): the transfer, or the atomic. -/
def failPacket (p : Packet) (s : State) : State :=
  if p.engine ≠ 0 then
    match s.engines.find? (fun e => e.id == p.engine) with
    | some e => failEngine e s
    | none => s
  else
    match s.reqs.findIdx? (fun r => r.kind == 4 && r.id == p.req) with
    | none => s
    | some n => match s.reqs[n]? with
      | some r => failAtomic n r p.node s
      | none => s

/-- 18 R417: packet n has not been acknowledged for RTO: it is sent again, or after TRIES transmissions its operation is
undeliverable. A transfer whose own side stands at a page that moves ends later, and its packet stays until then (13 R345). -/
def execScaleoutRetransmit (n : Nat) (s : State) : Out :=
  .next (match s.packets[n]? with
    | none => s
    | some p =>
      let rto := max 1 (bits (soCfg s) 15 0) * 1000
      if s.ns < p.sentAt + rto then s
      else if p.tries < max 1 (bits (soCfg s) 23 16) then
        { s with packets := listSet s.packets n { p with tries := p.tries + 1, sentAt := s.ns } }
      else
        let s1 := failPacket p { s with packets := listDel s.packets n }
        if p.engine ≠ 0 ∧ s1.engines.any (fun e => e.id == p.engine) then { s1 with packets := s.packets } else raise0 0x346 p.node s1)

/-! ## Firmware (18 R421) -/

/-- A field of n bytes of an image header. -/
def field (h : List Byte) (ofs n : Nat) : List Byte := (List.range n).map (fun j => h.getD (ofs + j) 0)

/-- A digest as its bytes. -/
def digestBytes (d : BitVec 256) : List Byte := toBytes 32 d.toNat

/-- The fused key that an image names. -/
def keyIndex (key : List Byte) : Option Nat := [0, 1, 2, 3].find? (fun i => Config.fusedKeyHash i == some (Config.sha256 key))

/-- The first check that fails (18 R421): the code of SEC_STAT.FAIL, or 0. -/
def imageFail (h body : List Byte) : Nat :=
  let len := leNat (field h 0x08 8)
  let key := field h 0x40 64
  if leNat (field h 0 4) ≠ 0x43584657 ∨ leNat (field h 0x18 8) ≠ 0 ∨ leNat (field h 0xC0 64) ≠ 0 then 1
  else if (keyIndex key).isNone then 2
  else if leNat (field h 4 4) < Config.fusedSvn then 3
  else if !Config.ecdsaOk key (field h 0x80 64) (field h 0 0x80) then 4
  else if len > 2 ^ 26 then 6
  else if digestBytes (Config.sha256 body) ≠ field h 0x20 32 then 5
  else 0

/-- Releases every core: supervisor cores start at the entry, the others wait idle (03 R75). -/
def releaseCores (entry : Nat) (s : State) : State :=
  (List.range 256).foldl (fun s c => updCore s c (fun k => { k with
    held := false, t := if c % 64 = 0 then { k.t with pc := pcOf entry } else k.t })) s

/-- An image is taken, or refused with its code. -/
def acceptImage (h body : List Byte) (s : State) : State :=
  let f := imageFail h body
  if f ≠ 0 then hostEvent 0x01 (updTrust (fun t => { t with fail := BitVec.ofNat 8 f }) s)
  else
    let entry := Config.firmwareBase + leNat (field h 0x10 8)
    releaseCores entry (updTrust (fun t => { t with
        fail := 0, fwok := true, svn := leNat (field h 4 4), keyIx := (keyIndex (field h 0x40 64)).getD 0,
        digest := Config.sha256 body, entry := pcOf entry })
      (placeWrite s (.dev Config.firmwareBase) body false))

/-- The length of an image's body; one above the limit is refused before it is read. -/
def bodyLen (h : List Byte) : Nat := min (leNat (field h 0x08 8)) (2 ^ 26)

/-- SEC_CMD with CMD = 2: the image at SEC_LOAD. -/
def loadImage (s : State) : State :=
  let a := bits (hubRaw s 0x1F610) 55 6 * 64
  let h := readBytes s.dev.cells a 256
  acceptImage h (readBytes s.dev.cells (a + 256) (bodyLen h)) s

/-- 18 R421; 03 R75: the reset state, then the image in the flash. The model's own agenda and its counter of free values go
on. -/
def execDeviceReset (s : State) : Out :=
  let h := Config.flash.take 256
  .next (acceptImage h ((Config.flash.drop 256).take (bodyLen h)) { State.reset with agenda := s.agenda, freeIx := s.freeIx })

/-! ## Attestation (18 R422) -/

def attestBusy (s : State) (p : Nat) : Bool := if p = 0 then s.trust.busy0 else s.trust.busy1
def setBusy (p : Nat) (b : Bool) (s : State) : State :=
  updTrust (fun t => if p = 0 then { t with busy0 := b } else { t with busy1 := b }) s

/-- A write of SEC_CMD by a party, naming a port: a command for a port that is busy is ignored and told (18 R422); a host's attestation is of its
own port, and the owner loads an image while none is accepted. -/
def secCommand (writer cmd p : Nat) (s : State) : State :=
  if cmd ≠ 1 ∧ cmd ≠ 2 then s
  else if attestBusy s p then hostEvent 0x20 s
  else if cmd = 1 then (if isHostPort writer && writer != p then s else setBusy p true s)
  else if ownerOk s writer && !s.trust.fwok then loadImage s else s

/-- 18 R422: a host asks for its own report. -/
def execAttest (port : Nat) (s : State) : Out := .next (if isHostPort port then secCommand port 1 port s else s)

/-- 18 R421, R422. -/
def execLoadFirmware (c : SecWrite) (s : State) : Out := .next (secCommand c.port 2 (c.p % 2) s)

def padTo (n : Nat) (l : List Byte) : List Byte := field l 0 n

/-- Bytes 0x00 to 0x9F of a report. -/
def reportBody (s : State) (p : Nat) : List Byte :=
  (digestBytes (Config.sha256 Config.identityKey)).take 8 ++ toBytes 4 s.trust.svn ++ toBytes 4 s.trust.keyIx ++
  digestBytes s.trust.digest ++ ([0, 1, 2, 3].flatMap (fun j => toBytes 8 (mget s.trust.nonce (4 * p + j) 0).toNat)) ++
  toBytes 8 s.ns ++ toBytes 8 (s.device % 256) ++ padTo 64 Config.identityKey

/-- The report as doublewords. -/
def report (s : State) (p : Nat) : List Word :=
  let b := reportBody s p
  let all := b ++ padTo 64 (Config.identitySign b)
  (List.range 32).map (fun j => BitVec.ofNat 64 (leNat (field all (8 * j) 8)))

/-- 18 R422. -/
def execAttestComplete (port : Nat) (s : State) : Out :=
  .next (if isHostPort port && attestBusy s port then
      let r := report s port
      setBusy port false (updTrust (fun t => { t with
        rpt := (List.range 32).foldl (fun m j => mset m (32 * port + j) (r.getD j 0)) t.rpt }) s)
    else s)

end Sys2Proof.Machine
end

