-- ==== Sys2Proof/Machine/Hub.lean ====
section
/-! DEFINITION. The hub register space: one read and one write of an aligned doubleword, for hosts and cores (00 R11, R12;
12 R313 to R318; 13 R336, R344, R349, R350, R357, R358; 14 R362, R363, R383; 17 R404; 18 R410 to R422). -/

namespace Sys2Proof.Machine

/-! ## Registers that only hold what is written -/

/-- Bits [hi:lo] as a mask. -/
def mask (hi lo : Nat) : Nat := 2 ^ (hi + 1) - 2 ^ lo

/-- The registers kept as raw words: offset, RW bits, reset value. -/
def plainRegs : List (Nat × Nat × Nat) :=
  [(0x1F000, mask 31 16, 0), (0x1F100, mask 55 22 + mask 15 0, 0), (0x1F180, mask 55 20 + 1, 0),
   (0x1F188, mask 47 32, 16 * 2 ^ 32), (0x1F418, mask 15 0, 100), (0x1F420, mask 38 32, 0), (0x1F480, mask 55 12, 0)] ++
  [(0x1F488, mask 23 0, 8 * 65536 + 50), (0x1F500, mask 15 0, 0), (0x1F508, mask 63 32 + mask 15 0, 2 ^ 32),
   (0x1F518, mask 15 0, 95 * 256 + 105), (0x1F610, mask 55 6, 0)]

def plainReg (ofs : Nat) : Option (Nat × Nat) := (plainRegs.find? (fun r => r.1 == ofs)).map Prod.snd

/-- A write of a plain register; one that sets a cap is seen by the regulator (18 R418, R419). -/
def plainWrite (ofs m : Nat) (v : Word) (s : State) : State :=
  let s1 := { s with hub := mset s.hub ofs (v &&& BitVec.ofNat 64 m) }
  if ofs = 0x1F500 ∨ ofs = 0x1F508 then noteCap s1 else s1

/-! ## Blocks of registers -/

/-- The registers of a hub queue (12 R313 to R315): its number and the register. -/
def queueReg (ofs : Nat) : Option (Nat × Nat) :=
  if 0x20000 ≤ ofs ∧ ofs < 0x21000 then some (ofs / 64 % 64, ofs % 64) else none

/-- The registers of a quarter: the quarter and the offset in its 64 KiB (13 R349). -/
def quarterReg (ofs : Nat) : Option (Nat × Nat) :=
  if 0x400000 ≤ ofs ∧ ofs < 0x440000 then some (ofs / 65536 % 4, ofs % 65536) else none

/-- Counts that a register shows. -/
def Queue.depth (k : Queue) : Nat := k.lanes.foldl (fun n l => n + l.2.length) 0

/-- A word from fields: each a value and the bit where it starts. -/
def wordOf (l : List (Nat × Nat)) : Word := BitVec.ofNat 64 (l.foldl (fun n f => n + f.1 * 2 ^ f.2) 0)

def flag (b : Bool) : Nat := if b then 1 else 0

/-- 12 R313 to R315. -/
def queueRead (k : Queue) (r : Nat) : Word :=
  match r with
  | 0x00 => wordOf [(k.base.toNat, 12), (k.log2size.toNat, 0)]
  | 0x08 => wordOf [(k.asid.toNat, 48), (k.agestep.toNat, 32)]
  | 0x10 => wordOf [(k.depth, 32), (k.drops.toNat, 16), (k.state, 0)]
  | 0x18 => wordOf [(k.errNode.toNat, 32), (k.errCause.toNat, 16), (k.errFlags.toNat, 0)]
  | _ => 0

/-- HQ_CTL (12 R314): a new ASID outside OFF is refused; then AGESTEP and the command. -/
def ctlWrite (q : Nat) (v : Word) (s : State) : State :=
  let a := BitVec.ofNat 16 (bits v 63 48)
  let s1 := if (queue s q).state = 0 then updQueue q (fun k => { k with asid := a }) s
    else if (queue s q).asid ≠ a then cfgErr q s else s
  queueCmd (bits v 2 0) q (updQueue q (fun k => { k with agestep := BitVec.ofNat 8 (bits v 39 32) }) s1)

def queueWrite (q r : Nat) (v : Word) (s : State) : State :=
  match r with
  | 0x00 => hqBase q v s
  | 0x08 => ctlWrite q v s
  | 0x18 => updQueue q (fun k => { k with errFlags := k.errFlags &&& ~~~BitVec.ofNat 8 (bits v 7 0) }) s
  | _ => s

/-- The commands of QC_CCMD (13 R349). -/
def coreCmd (cmd c : Nat) (s : State) : State :=
  match cmd with
  | 1 => startSave c s
  | 2 => haltCore c s
  | 3 => unhaltCore c s
  | 4 => stopCore c s
  | 5 => runCore c s
  | 6 => restartCore c s
  | _ => s

/-- 13 R349, R350. -/
def coreRead (s : State) (c r : Nat) : Word :=
  let k := core s c
  match r with
  | 0x00 => wordOf [(flag k.dbrk, 7), (flag k.dhalt, 6), (k.cstat, 0)]
  | 0x10 => wordOf [(k.save.toNat, 12)]
  | 0x20 => k.dcause.word
  | 0x28 => wordOf [(k.depc.toNat, 2)]
  | 0x30 => k.dtval
  | 0x38 => k.dstatus.word
  | 0x40 => wordOf [(k.snum.toNat, 0)]
  | 0x48 => sdataValue s c
  | _ => 0

def coreWrite (port c r : Nat) (v : Word) (s : State) : State :=
  match r with
  | 0x08 => coreCmd (bits v 2 0) c s
  | 0x10 => updCore s c (fun k => { k with save := BitVec.ofNat 44 (bits v 55 12) })
  | 0x40 => updCore s c (fun k => { k with snum := BitVec.ofNat 12 (bits v 11 0) })
  | 0x48 => if sdataOk s c then sysWrite c (core s c).snum.toNat v s else badAcc port s
  | _ => s

/-- The registers of a quarter beyond its cores' (13 R344, R357, R358; 17 R404). -/
def areaRead (s : State) (q r : Nat) : Word :=
  let k := quarter s q
  if 0x8100 ≤ r ∧ r < 0x8180 then wordOf [((mget k.bdrop (r / 8 % 16) 0).toNat, 0)]
  else if 0x8200 ≤ r ∧ r < 0x8390 then wordOf [(mget k.zmap (r / 8 % 64) 0, 0)]
  else if 0x8500 ≤ r ∧ r < 0x85C8 then wordOf [((mget k.wheld (r / 8 % 32) 0).toNat, 0)]
  else match r with
    | 0x8000 => k.mig0
    | 0x8008 => k.mig1
    | 0x8010 => k.mig2
    | 0x8400 => wordOf [(flag k.remapEn, 8), (k.remapCol.toNat, 0)]
    | 0x8408 => wordOf [(flag k.rpBusy, 1)]
    | 0x8410 => wordOf [(k.logBase.toNat, 12)]
    | 0x8418 => wordOf [(k.logN.toNat, 0)]
    | 0x8420 => wordOf [(k.sramce.toNat, 48), (k.sramue.toNat, 32), (k.hbmce.toNat, 16), (k.hbmue.toNat, 0)]
    | 0x8428 => wordOf [(k.parfix.toNat, 48), (k.rollback.toNat, 32), (k.trans.toNat, 16), (k.last.toNat, 0)]
    | _ => 0

/-- RP_CTL: BUSY is cleared by a 1, and CLR clears the counts (17 R404). -/
def rpCtl (q : Nat) (v : Word) (s : State) : State :=
  let s1 := updQuarter s q (fun k => { k with rpBusy := k.rpBusy && !bit v 1 })
  if bit v 0 then clearCounts q s1 else s1

def areaWrite (port q r : Nat) (v : Word) (s : State) : State :=
  if 0x8200 ≤ r ∧ r < 0x8390 then zoneWrite q (r / 8 % 64) v s
  else if 0x8500 ≤ r ∧ r < 0x85C8 then
    updQuarter s q (fun k => { k with wheld := mset k.wheld (r / 8 % 32) (BitVec.ofNat 26 (bits v 25 0)) })
  else match r with
    | 0x8000 => updQuarter s q (fun k => { k with mig0 := v &&& BitVec.ofNat 64 (mask 15 0) })
    | 0x8008 => updQuarter s q (fun k => { k with mig1 := v &&& BitVec.ofNat 64 (mask 55 12) })
    | 0x8010 => updQuarter s q (fun k => { k with mig2 := v &&& BitVec.ofNat 64 (mask 63 12) })
    | 0x8018 => startMigration port q v s
    | 0x8400 => remapWrite q v s
    | 0x8408 => rpCtl q v s
    | 0x8410 => updQuarter s q (fun k => { k with logBase := BitVec.ofNat 44 (bits v 55 12) })
    | _ => s

/-! ## Single registers with a behaviour -/

/-- UL_LANE and UL_LSTAT of a link (18 R410). -/
def linkRead (k : Link) (second : Bool) : Word :=
  if second then wordOf [(k.retry.toNat, 48), (k.width 0, 43), (k.width 1, 38), (flag k.dnab, 1), (flag k.dnba, 0)]
  else wordOf ((List.range 18).map (fun i => (k.lane i, 3 * i)))

/-- UL_MEMB0 to UL_MEMB2 (18 R412). -/
def membRead (s : State) (j : Nat) : Word :=
  wordOf ((List.range 64).map (fun i => (flag (decide (64 * j + i < 144) && isMember s (64 * j + i)), i)))

/-- PW_STAT (18 R420). -/
def powerRead (p : Power) : Word :=
  wordOf [(p.pwr, 48), (p.nth, 40), (p.ncur, 32), (p.ncap, 24), (flag p.bmis, 9), (flag p.emerg, 8), (p.temp, 0)]

/-- The single registers that a read shows. -/
def singleRead (s : State) (ofs : Nat) : Word :=
  let t := s.trust
  if 0x1F7C0 ≤ ofs ∧ ofs < 0x1F7D8 then membRead s (ofs / 8 % 8)
  else if 0x1F800 ≤ ofs ∧ ofs < 0x1F960 then linkRead (link s (ofs / 16 % 32)) (ofs % 16 == 8)
  else if 0x1F640 ≤ ofs ∧ ofs < 0x1F680 then mget t.nonce (ofs / 8 % 8) 0
  else if 0x1FA00 ≤ ofs ∧ ofs < 0x1FC00 then mget t.rpt (ofs / 8 % 64) 0
  else match ofs with
    | 0x1F190 => wordOf [(s.lmWounds.toNat, 32), (s.lmEscal.toNat, 16), (s.lmRevokes.toNat, 0)]
    | 0x1F200 => wordOf [(s.gc.silent.toNat, 0)]
    | 0x1F208 => wordOf [(s.gc.late.toNat, 32), (s.gc.silents.toNat, 16)]
    | 0x1F400 => wordOf [(flag t.stale, 2), (t.owner, 0)]
    | 0x1F428 => wordOf [(t.evt.toNat, 0)]
    | 0x1F510 => powerRead s.power
    | 0x1F600 => wordOf [(t.fail.toNat, 8), (flag t.busy1, 2), (flag t.busy0, 1), (flag t.fwok, 0)]
    | _ => 0

/-- LM_CTL with RELOAD = 1: every sync engine reads the matrix of the space again, for the requests that arrive from then on (14
R362, R363). -/
def reload (v : Word) (s : State) : State :=
  if bit v 0 then
    { s with cmat := (List.range 4).foldl (fun m e => mset m (cmatKey e (bits v 31 16)) (readCmat s (bits v 31 16))) s.cmat }
  else s

/-- SEC_CMD (18 R422). -/
def secCmd (port : Nat) (v : Word) (s : State) : State := secCommand port (bits v 7 0) (bits v 8 8) s

/-- The registers that a host may write without owning the device (18 R415, R422); `none` for any other. -/
def openWrite (port ofs : Nat) (v : Word) (s : State) : Option State :=
  if 0x1F640 ≤ ofs ∧ ofs < 0x1F680 then
    let j := ofs / 8 % 8
    some (if isHostPort port && j / 4 != port then s else updTrust (fun t => { t with nonce := mset t.nonce j v }) s)
  else match ofs with
    | 0x1F408 => some (casWrite port v s)
    | 0x1F410 => some (beat port s)
    | 0x1F608 => some (secCmd port v s)
    | _ => none

/-- The single registers that the owner writes. -/
def singleWrite (port ofs : Nat) (v : Word) (s : State) : State :=
  match ofs with
  | 0x1F108 => if bit v 0 then { s with pins := pinnedEntries s } else s
  | 0x1F200 => updGc (fun g => { g with silent := BitVec.ofNat 8 (bits v 7 0) }) s
  | 0x1F428 => updTrust (fun t => { t with evt := t.evt &&& ~~~BitVec.ofNat 16 (bits v 15 0) }) s
  | 0x1F7E0 => if bit v 0 then (match execLeave port s with
      | .next t => t
      | _ => s) else s
  | 0x1F7F0 => linkCmd port v s
  | _ => s

/-! ## The whole space -/

/-- Is there a register at an offset (18 R414)? -/
def hubKnown (ofs : Nat) : Bool :=
  (plainReg ofs).isSome || (queueReg ofs).any (fun r => decide (r.2 < 0x20)) ||
  (quarterReg ofs).any (fun r => decide (r.2 < 0x4000 ∧ (r.2 % 256 < 0x18 ∨ (0x20 ≤ r.2 % 256 ∧ r.2 % 256 < 0x50))) ||
    decide (0x8000 ≤ r.2 ∧ r.2 < 0x8020) || decide (0x8100 ≤ r.2 ∧ r.2 < 0x8180) || decide (0x8200 ≤ r.2 ∧ r.2 < 0x8390) ||
    decide (0x8400 ≤ r.2 ∧ r.2 < 0x8430) || decide (0x8500 ≤ r.2 ∧ r.2 < 0x85C8)) ||
  [0x1F108, 0x1F190, 0x1F200, 0x1F208, 0x1F400, 0x1F408, 0x1F410, 0x1F428, 0x1F510, 0x1F600, 0x1F608, 0x1F7E0, 0x1F7F0].contains ofs ||
  decide (0x1F640 ≤ ofs ∧ ofs < 0x1F680) || decide (0x1F7C0 ≤ ofs ∧ ofs < 0x1F7D8) ||
  decide (0x1F800 ≤ ofs ∧ ofs < 0x1F960) || decide (0x1FA00 ≤ ofs ∧ ofs < 0x1FC00)

/-- The value of the doubleword at an aligned offset; where no register stands it reads zero. -/
def hubRead (s : State) (ofs : Nat) : Word :=
  match plainReg ofs with
  | some (_, r) => mget s.hub ofs (BitVec.ofNat 64 r)
  | none =>
    match queueReg ofs, quarterReg ofs with
    | some (q, r), _ => queueRead (queue s q) r
    | none, some (q, r) => if r < 0x4000 then coreRead s (64 * q + r / 256) (r % 256) else areaRead s q r
    | none, none => singleRead s ofs

/-- A write by a party that has the owner's access. -/
def ownerWrite (port ofs : Nat) (v : Word) (s : State) : State :=
  match plainReg ofs with
  | some (m, _) => let s1 := plainWrite ofs m v s; if ofs = 0x1F188 then reload v s1 else s1
  | none =>
    match queueReg ofs, quarterReg ofs with
    | some (q, r), _ => queueWrite q r v s
    | none, some (q, r) => if r < 0x4000 then coreWrite port (64 * q + r / 256) (r % 256) v s else areaWrite port q r v s
    | none, none => singleWrite port ofs v s

/-- Does an offset lie in the launch windows (12 R317)? -/
def inWindows (ofs : Nat) : Bool := decide (0x100000 ≤ ofs ∧ ofs < 0x140000)

/-- A write of one aligned doubleword: a launch window takes it as a write that is no whole record (12 R317). -/
def hubWrite (port ofs : Nat) (v : Word) (s : State) : State :=
  if inWindows ofs then windowWrite port (ofs % 2 ^ 18) (toBytes 8 v.toNat) s
  else if !hubKnown ofs then badAcc port s
  else match openWrite port ofs v s with
    | some t => t
    | none => if ownerOk s port then ownerWrite port ofs v s else s

/-- 00 R11; 18 R414: a write of n bytes; outside the launch windows one that is no aligned doubleword is refused. -/
def execRegisterWrite (port ofs : Nat) (d : WriteData) (s : State) : Out :=
  .next (if inWindows ofs then windowWrite port (ofs % 2 ^ 18) (toBytes d.n d.v) s
    else if ofs % 8 ≠ 0 ∨ d.n ≠ 8 then badAcc port s
    else hubWrite port ofs (BitVec.ofNat 64 d.v) s)

/-- What a host reads of n bytes at an offset of BAR0: an aligned doubleword, and any other read gives zero (18 R414). -/
def hostRead (s : State) (ofs n : Nat) : Word := if ofs % 8 ≠ 0 ∨ n ≠ 8 then 0 else hubRead s ofs

/-- 14 R363: a write of LM_CTL with RELOAD = 1. -/
def execLmReload (port v : Nat) (s : State) : Out :=
  .next (if ownerOk s port && v.testBit 0 then ownerWrite port 0x1F188 (BitVec.ofNat 64 v) s else s)

end Sys2Proof.Machine
end

