-- ==== Sys2Proof/Machine/IntAlu.lean ====
section
/-! DEFINITION. The integer, address and constant instructions: majors 0x01 to 0x09 (04 R103 to R108). -/

namespace Sys2Proof.Machine

/-- An R-format instruction that writes X[RD] from X[RA] and X[RB] (04 R103). -/
def aluR (rd ra rb g : Nat) (f : Word → Word → Word) (s : State) : Out :=
  issue g 4 [ra, rb] s (fun s => retX rd (f (rx s ra) (rx s rb)) s)

/-- An instruction that writes X[RD] from X[RA] and a constant (04 R103, R105, R106). -/
def aluI (rd ra g : Nat) (f : Word → Word) (s : State) : Out :=
  issue g 4 [ra] s (fun s => retX rd (f (rx s ra)) s)

/-- The quotient rounded towards zero and the remainder of signed division (04 R104). -/
def divS (a b : Word) : Int × Int :=
  let n := a.toInt
  let m := b.toInt
  if m = 0 then (-1, n)
  else if n = -(2 ^ 63 : Int) ∧ m = -1 then (-(2 ^ 63 : Int), 0)
  else (Int.tdiv n m, n - Int.tdiv n m * m)

/-- The quotient and the remainder of unsigned division (04 R104). -/
def divU (a b : Word) : Nat × Nat :=
  if b.toNat = 0 then (2 ^ 64 - 1, a.toNat) else (a.toNat / b.toNat, a.toNat % b.toNat)

/-- The zero bits above the highest one bit (04 R103, clz). -/
def clz64 (v : Word) : Nat := 64 - bitLen v.toNat

/-- The zero bits below the lowest one bit (04 R103, ctz). -/
def ctz64 (v : Word) : Nat := ((List.range 64).find? (fun i => bit v i)).getD 64

/-- The one bits (04 R103, popc). -/
def popc64 (v : Word) : Nat := ((List.range 64).filter (fun i => bit v i)).length

/-- 04 R103, FN 0x00: Wrap of the sum. -/
def execAdd (rd ra rb g : Nat) (s : State) : Out := aluR rd ra rb g (fun a b => wrap64 (a.toInt + b.toInt)) s

/-- 04 R103, FN 0x01: Wrap of the difference. -/
def execSub (rd ra rb g : Nat) (s : State) : Out := aluR rd ra rb g (fun a b => wrap64 (a.toInt - b.toInt)) s

/-- 04 R103, FN 0x02. -/
def execAnd (rd ra rb g : Nat) (s : State) : Out := aluR rd ra rb g (fun a b => a &&& b) s

/-- 04 R103, FN 0x03. -/
def execOr (rd ra rb g : Nat) (s : State) : Out := aluR rd ra rb g (fun a b => a ||| b) s

/-- 04 R103, FN 0x04. -/
def execXor (rd ra rb g : Nat) (s : State) : Out := aluR rd ra rb g (fun a b => a ^^^ b) s

/-- 04 R103, FN 0x05. -/
def execAndn (rd ra rb g : Nat) (s : State) : Out := aluR rd ra rb g (fun a b => a &&& ~~~ b) s

/-- 04 R103, FN 0x06: the amount is bits [5:0] of the second operand. -/
def execSll (rd ra rb g : Nat) (s : State) : Out := aluR rd ra rb g (fun a b => a <<< bits b 5 0) s

/-- 04 R103, FN 0x07. -/
def execSrl (rd ra rb g : Nat) (s : State) : Out := aluR rd ra rb g (fun a b => a >>> bits b 5 0) s

/-- 04 R103, FN 0x08. -/
def execSra (rd ra rb g : Nat) (s : State) : Out := aluR rd ra rb g (fun a b => a.sshiftRight (bits b 5 0)) s

/-- 04 R103, FN 0x09. -/
def execMul (rd ra rb g : Nat) (s : State) : Out := aluR rd ra rb g (fun a b => wrap64 (a.toInt * b.toInt)) s

/-- 04 R103, FN 0x0A: bits [127:64] of the signed product. -/
def execMulhI64 (rd ra rb g : Nat) (s : State) : Out := aluR rd ra rb g (fun a b => wrap64 (a.toInt * b.toInt / 2 ^ 64)) s

/-- 04 R103, FN 0x0B: bits [127:64] of the unsigned product. -/
def execMulhN64 (rd ra rb g : Nat) (s : State) : Out := aluR rd ra rb g (fun a b => BitVec.ofNat 64 (a.toNat * b.toNat / 2 ^ 64)) s

/-- 04 R103, FN 0x0C (R104). -/
def execDivI64 (rd ra rb g : Nat) (s : State) : Out := aluR rd ra rb g (fun a b => wrap64 (divS a b).1) s

/-- 04 R103, FN 0x0D (R104). -/
def execDivN64 (rd ra rb g : Nat) (s : State) : Out := aluR rd ra rb g (fun a b => BitVec.ofNat 64 (divU a b).1) s

/-- 04 R103, FN 0x0E (R104). -/
def execRemI64 (rd ra rb g : Nat) (s : State) : Out := aluR rd ra rb g (fun a b => wrap64 (divS a b).2) s

/-- 04 R103, FN 0x0F (R104). -/
def execRemN64 (rd ra rb g : Nat) (s : State) : Out := aluR rd ra rb g (fun a b => BitVec.ofNat 64 (divU a b).2) s

/-- 04 R103, FN 0x10. -/
def execMinI64 (rd ra rb g : Nat) (s : State) : Out := aluR rd ra rb g (fun a b => if b.toInt < a.toInt then b else a) s

/-- 04 R103, FN 0x11. -/
def execMaxI64 (rd ra rb g : Nat) (s : State) : Out := aluR rd ra rb g (fun a b => if a.toInt < b.toInt then b else a) s

/-- 04 R103, FN 0x12. -/
def execMinN64 (rd ra rb g : Nat) (s : State) : Out := aluR rd ra rb g (fun a b => if b.toNat < a.toNat then b else a) s

/-- 04 R103, FN 0x13. -/
def execMaxN64 (rd ra rb g : Nat) (s : State) : Out := aluR rd ra rb g (fun a b => if a.toNat < b.toNat then b else a) s

/-- 04 R103, FN 0x14. -/
def execAddsI32 (rd ra rb g : Nat) (s : State) : Out := aluR rd ra rb g (fun a b => wrap64 (satI 32 (sval 32 a.toNat + sval 32 b.toNat))) s

/-- 04 R103, FN 0x15. -/
def execSubsI32 (rd ra rb g : Nat) (s : State) : Out := aluR rd ra rb g (fun a b => wrap64 (satI 32 (sval 32 a.toNat - sval 32 b.toNat))) s

/-- 04 R103, FN 0x16. -/
def execAddsI64 (rd ra rb g : Nat) (s : State) : Out := aluR rd ra rb g (fun a b => wrap64 (satI 64 (a.toInt + b.toInt))) s

/-- 04 R103, FN 0x17. -/
def execSubsI64 (rd ra rb g : Nat) (s : State) : Out := aluR rd ra rb g (fun a b => wrap64 (satI 64 (a.toInt - b.toInt))) s

/-- 04 R103, FN 0x18. -/
def execClz (rd ra g : Nat) (s : State) : Out := aluI rd ra g (fun a => BitVec.ofNat 64 (clz64 a)) s

/-- 04 R103, FN 0x19. -/
def execCtz (rd ra g : Nat) (s : State) : Out := aluI rd ra g (fun a => BitVec.ofNat 64 (ctz64 a)) s

/-- 04 R103, FN 0x1A. -/
def execPopc (rd ra g : Nat) (s : State) : Out := aluI rd ra g (fun a => BitVec.ofNat 64 (popc64 a)) s

/-- 04 R105. -/
def execAddi (rd ra g imm : Nat) (s : State) : Out := aluI rd ra g (fun a => wrap64 (a.toInt + (imm12 imm).toInt)) s

/-- 04 R105. -/
def execAndi (rd ra g imm : Nat) (s : State) : Out := aluI rd ra g (fun a => a &&& imm12 imm) s

/-- 04 R105. -/
def execOri (rd ra g imm : Nat) (s : State) : Out := aluI rd ra g (fun a => a ||| imm12 imm) s

/-- 04 R105. -/
def execXori (rd ra g imm : Nat) (s : State) : Out := aluI rd ra g (fun a => a ^^^ imm12 imm) s

/-- 04 R106. -/
def execSlli (rd ra g n : Nat) (s : State) : Out := aluI rd ra g (fun a => a <<< n) s

/-- 04 R106. -/
def execSrli (rd ra g n : Nat) (s : State) : Out := aluI rd ra g (fun a => a >>> n) s

/-- 04 R106. -/
def execSrai (rd ra g n : Nat) (s : State) : Out := aluI rd ra g (fun a => a.sshiftRight n) s

/-- 04 R107. -/
def execLdhi (rd imm : Nat) (s : State) : Out := issueB [] s (fun s => retX rd (imm20 imm) s)

/-- 04 R107. -/
def execAddpc (rd imm : Nat) (s : State) : Out := issueB [] s (fun s => retX rd ((th s).pc + imm20 imm) s)

/-- 04 R108. -/
def execLi (rd g ext : Nat) (s : State) : Out :=
  issue g 8 [] s (fun s => advance 8 (wx s rd (sx32 ext)))

/-- 04 R108: the low half of X[RD] stays. -/
def execLih (rd g ext : Nat) (s : State) : Out :=
  issue g 8 [rd] s (fun s => advance 8 (wx s rd (BitVec.ofNat 64 (ext % 2 ^ 32 * 2 ^ 32 + bits (rx s rd) 31 0))))

end Sys2Proof.Machine
end

