-- ==== Sys2Proof/Machine/Memory.lean ====
section
/-! DEFINITION. Loads and stores, OP 0x28 to 0x2E and 0x30 to 0x33, and the events of accesses that leave the device or meet
a moving page (05 R138 to R143; 10 R284; 13 R336, R345). -/

namespace Sys2Proof.Machine

/-! ## Lines of local-caching pages (10 R284; 05 R156) -/

/-- The addresses and places of an access, byte by byte. -/
def bytesAt (a : Nat) (ps : List Place) : List (Nat × Place) := ((List.range ps.length).map (a + ·)).zip ps

/-- The keys of the cached lines that an access can meet: those of its bytes at peers on pages in local-caching mode. -/
def lcLines (s : State) (a : Nat) (ps : List Place) : List Nat :=
  (((bytesAt a ps).filter (fun x => isPeer x.2 && pageMode s (coreWho s s.cur) x.1 == 1)).map
    (fun x => lcKey x.2)).dedup

/-- Does an access reach a peer's page in local-caching mode? -/
def lcMode (s : State) (a : Nat) (ps : List Place) : Bool := !(lcLines s a ps).isEmpty

/-- Which of those lines the access finds in a cache is settled: the others have left. -/
def lcVisit (ks : List Nat) (s : State) : State := ks.foldl (fun s k => (cachedLine s k).2) s

/-- A line filled from its home, whose bytes this device cannot tell. -/
def fillLine (s : State) : MLine × State := (⟨freeBytes s 64, [], false⟩, { s with freeIx := s.freeIx + 64 })

/-- A line of a key stands in a cache: it comes from its home where none has it. -/
def lcFetch (c k : Nat) (s : State) : State :=
  match lcFind s k with
  | some _ => s
  | none => let (l, s1) := fillLine s; lcPut (coreQuarter c) k l s1

/-- A byte written into the cached line of a key. -/
def lcWrite (c k o : Nat) (b : Byte) (dirty : Bool) (s : State) : State :=
  match lcFind s k with
  | some l => lcPut (coreQuarter c) k { l.setByte o b false with dirty := l.dirty || dirty } s
  | none => s

/-! ## Loads (05 R141, R142) -/

/-- A byte of a load as this device holds it, with its poison: from memory, or from a cached line of one of the keys; none where it
must be asked for. -/
def hereByte (s : State) (ks : List Nat) (x : Nat × Place) : Option (Byte × Bool) :=
  if isPeer x.2 then (if ks.contains (lcKey x.2) then lcByte s x.2 else none)
  else if (migAt s x.2).isSome then none
  else some (placeByte s x.2, placePois s x.2)

/-- The load's bytes that this device holds: as a number with zeros elsewhere, and the mask of their places. -/
def localBytes (bs : List (Option (Byte × Bool))) : Nat × Nat :=
  (leNat (bs.map (fun b => (b.map Prod.fst).getD 0)),
   ((List.range bs.length).zip bs).foldl (fun m x => if x.2.isSome then m + 2 ^ x.1 else m) 0)

/-- A load of bytes that are not all here: it is sent, and waits for its data. -/
def loadAway (rd w : Nat) (signed : Bool) (a : Nat) (ps : List Place) (bs : List (Option (Byte × Bool))) (s : State) : State :=
  let (n, m) := localBytes bs
  let p := (((ps.zip bs).find? (fun x => x.2.isNone)).map Prod.fst).getD (.dev 0)
  await (.load rd w signed a)
    (sendReq (mkReq s p a 0 (if signed then 1 else 0) (BitVec.ofNat 64 n) (BitVec.ofNat 64 m) w rd true) s)

/-- A load from places that translation has found. One that reaches both a page that is moving here and a peer waits until the page has
moved. -/
def loadAt (rd w : Nat) (signed : Bool) (a : Nat) (ps : List Place) (s : State) : State :=
  if ps.any isHub then
    if w = 8 ∧ a % 8 = 0 then retX rd (hubRead s ((hubOff ps).getD 0)) s else trap 0x104 (BitVec.ofNat 64 a) s
  else if winBusy s a w then spin false s
  else txAccess a ps false s (fun s0 =>
    let ks := lcLines s0 a ps
    let s := lcVisit ks s0
    let bs := (bytesAt a ps).map (hereByte s ks)
    if bs.any (fun b => b.any Prod.snd) then trap 0x109 (BitVec.ofNat 64 a) s
    else if bs.all Option.isSome then retX rd (loadValue w signed (leNat (bs.map (fun b => (b.map Prod.fst).getD 0)))) s
    else match ps.find? (fun p => (migAt s p).isSome), ps.any isPeer with
      | some p, true => spinMoved false p s
      | _, _ => loadAway rd w signed a ps bs s)

/-- 05 R141: a load of w bytes. -/
def load (w : Nat) (signed : Bool) (rd ra g imm : Nat) (s : State) : Out :=
  issue g 4 [ra] s (fun s =>
    let a := effAddr (rx s ra) imm
    match access s s.cur a w needR false with
    | (.fault c tv, s1) => trap c tv s1
    | (.ok ps, s1) => loadAt rd w signed a ps s1)

/-- 05 R141. -/
def execLdI8 (rd ra g imm : Nat) (s : State) : Out := load 1 true rd ra g imm s
/-- 05 R141. -/
def execLdN8 (rd ra g imm : Nat) (s : State) : Out := load 1 false rd ra g imm s
/-- 05 R141. -/
def execLdI16 (rd ra g imm : Nat) (s : State) : Out := load 2 true rd ra g imm s
/-- 05 R141. -/
def execLdN16 (rd ra g imm : Nat) (s : State) : Out := load 2 false rd ra g imm s
/-- 05 R141. -/
def execLdI32 (rd ra g imm : Nat) (s : State) : Out := load 4 true rd ra g imm s
/-- 05 R141. -/
def execLdN32 (rd ra g imm : Nat) (s : State) : Out := load 4 false rd ra g imm s
/-- 05 R141. -/
def execLdI64 (rd ra g imm : Nat) (s : State) : Out := load 8 true rd ra g imm s

/-- The bytes that a load of one run has asked a peer for, on pages in local-caching mode, with their places. -/
def keptBytes (c : Nat) (r : Req) (v : Nat) (s : State) : List (Place × Byte) :=
  (((List.range r.width).zip (toBytes r.width v)).filter (fun x => pageMode s (coreWho s c) (r.va + x.1) == 1)).map
    (fun x => (r.place.plus x.1, x.2))

/-- The lines of local-caching pages that a load has brought stay in the cache of its core's quarter: what the load has read, among bytes
that this device cannot tell. A line that a cache already holds stays as it is. -/
def keepLines (c : Nat) (r : Req) (v : Nat) (s : State) : State :=
  let vs := keptBytes c r v s
  let ks := ((vs.map (fun x => lcKey x.1)).dedup).filter (fun k => (lcFind s k).isNone)
  let s1 := ks.foldl (fun s k => lcFetch c k s) s
  (vs.filter (fun x => ks.contains (lcKey x.1))).foldl (fun s x => lcWrite c (lcKey x.1) (lcOff x.1) x.2 false s) s1

/-- Does a request stand on one page? -/
def Req.onePage (r : Req) : Bool := decide (r.va % 4096 + r.width ≤ 4096)

/-- 05 R142: what another device answers to the waiting load of core c; 2^64 and above is poison. -/
def execLoadDataReturn (c v : Nat) (s : State) : Out :=
  .next (match s.reqs.find? (fun r => r.core == c && r.kind == 0 && r.wait && !r.moved && isPeer r.place) with
    | none => s
    | some r =>
      if v ≥ 2 ^ 64 then trapCore c 0x109 (BitVec.ofNat 64 r.va) (dropReqs c 0 s)
      else finishLoad c r v (if r.expect = 0 ∧ r.onePage = true then keepLines c r v (dropReqs c 0 s) else dropReqs c 0 s))

/-! ## Stores (05 R141, R142) -/

/-- One byte of a store that is not sent: into the cached line of one of the keys, or here. -/
def storeByte (ks : List Nat) (s : State) (x : (Nat × Place) × Byte) : State :=
  if isPeer x.1.2 && ks.contains (lcKey x.1.2) then lcWrite s.cur (lcKey x.1.2) (lcOff x.1.2) x.2 true s
  else if faraway s x.1.2 then s else placeWrite s x.1.2 [x.2] false

/-- A run of bytes of a store that stand one after another on one page: its address, its first place, its bytes. -/
abbrev StoreRun := Nat × Place × List Byte

/-- Joins a byte to the run that follows it, where they are one run. -/
def joinRun (x : (Nat × Place) × Byte) (l : List StoreRun) : List StoreRun :=
  match l with
  | (va, p, bs) :: t => if va = x.1.1 + 1 ∧ va % 4096 ≠ 0 ∧ p = x.1.2.plus 1 then (x.1.1, x.1.2, x.2 :: bs) :: t else (x.1.1, x.1.2, [x.2]) :: l
  | [] => [(x.1.1, x.1.2, [x.2])]

/-- The runs of a store that go elsewhere: each is one request. -/
def storeRuns (ks : List Nat) (a : Nat) (ps : List Place) (bs : List Byte) (s : State) : List StoreRun :=
  (((bytesAt a ps).zip bs).filter (fun x => faraway s x.1.2 && !(isPeer x.1.2 && ks.contains (lcKey x.1.2)))).foldr joinRun []

/-- The request of a run of a store at a; `id` is the same number in the runs of one store, and 0 where it is one. -/
def sendRun (a id : Nat) (s : State) (r : StoreRun) : State :=
  sendReq (mkReq s r.2.1 r.1 1 0 (BitVec.ofNat 64 (leNat r.2.2)) (BitVec.ofNat 64 a) r.2.2.length id false) s

/-- The words of a cached line that a store fills whole are clean (17 R394). -/
def lcCleanRun (k : Nat) (ps : List Place) (s : State) : State :=
  match ps.filter (fun p => lcKey p == k) with
  | [] => s
  | p :: l => lcCleanAt p (l.length + 1) s

/-- The bytes of a store at their places: here at once; elsewhere posted, one request for the bytes of each page; or in the lines of a
local-caching page, which come from their home and become dirty. -/
def storeBytes (a : Nat) (ps : List Place) (bs : List Byte) (s : State) : State :=
  let ks := lcLines s a ps
  if !ps.any (faraway s) then writePlaces (logSpad (ps.headD (.dev 0)) bs.length s) ps bs false
  else
    let s1 := ks.foldl (fun s k => lcFetch s.cur k s) (lcVisit ks s)
    let runs := storeRuns ks a ps bs s1
    let s2 := ((bytesAt a ps).zip bs).foldl (storeByte ks) s1
    let s3 := ks.foldl (fun s k => lcCleanRun k ps s) s2
    if runs.length < 2 then runs.foldl (sendRun a 0) s3 else runs.foldl (sendRun a s3.nextId) { s3 with nextId := s3.nextId + 1 }

/-- A store to places that translation has found. -/
def storeAt (w : Nat) (v : Word) (a : Nat) (ps : List Place) (s : State) : State :=
  if ps.any isHub then
    if w = 8 ∧ a % 8 = 0 then hubWrite (s.cur + 2) ((hubOff ps).getD 0) v (advance 4 s) else trap 0x104 (BitVec.ofNat 64 a) s
  else if winBusy s a w then spin false s
  else txAccess a ps true s (fun s => advance 4 (storeBytes a ps (toBytes w v.toNat) s))

/-- 05 R141: a store of w bytes. -/
def store (w rb ra g imm : Nat) (s : State) : Out :=
  issue g 4 [rb, ra] s (fun s =>
    let a := effAddr (rx s ra) imm
    match access s s.cur a w needW false with
    | (.fault c tv, s1) => trap c tv s1
    | (.ok ps, s1) => storeAt w (rx s rb) a ps s1)

/-- 05 R141. -/
def execStN8 (rb ra g imm : Nat) (s : State) : Out := store 1 rb ra g imm s
/-- 05 R141. -/
def execStN16 (rb ra g imm : Nat) (s : State) : Out := store 2 rb ra g imm s
/-- 05 R141. -/
def execStN32 (rb ra g imm : Nat) (s : State) : Out := store 4 rb ra g imm s
/-- 05 R141. -/
def execStN64 (rb ra g imm : Nat) (s : State) : Out := store 8 rb ra g imm s

/-- 05 R142: the n-th request, a store posted to a peer, cannot be delivered, for want of a path (18 R408), and is lost. Its thread is told once for each store, on its
core or on restoration, with the store's address. -/
def execRemoteStoreFail (n : Nat) (s : State) : Out :=
  .next (match s.reqs[n]? with
    | none => s
    | some r =>
      if r.kind ≠ 1 ∨ !r.lost s then s
      else failStore r { s with reqs := listDel s.reqs n })

/-- The n-th request, a store to a peer or the words of a completion object there, is performed there (05 R142). -/
def peerStored (n : Nat) (s : State) : State :=
  match s.reqs[n]? with
  | some r => if (r.kind == 1 || r.kind == 6) && !r.moved && isPeer r.place then snapDone r { s with reqs := listDel s.reqs n } else s
  | none => s

/-! ## Requests refused with MOVED (13 R345) -/

/-- The places of a request as its page now stands, in the order of its bytes. -/
def reqPlaces (r : Req) : Nat → Nat → List Place → State → Option (List Place) × State
  | 0, _, acc, s => (some acc.reverse, s)
  | n + 1, j, acc, s =>
    match xlate s ⟨coreQuarter r.core, r.asid, true, some r.core⟩ ((r.va + j) % 2 ^ 56) ⟨false, false, false⟩ false with
    | (.error _, s1) => (none, s1)
    | (.ok p, s1) => reqPlaces r n (j + 1) (p :: acc) s1

/-- 13 R345: request n, which its old home has refused, is translated again and sent to its home; its page being here, it is
performed. While the page is moving, and while no translation leads on, it waits. A host's write names its frame itself. -/
def execMovedRetry (n : Nat) (s : State) : Out :=
  .next (match s.reqs[n]? with
    | none => s
    | some r =>
      if !(r.moved || (isPeer r.place && r.kind != 4)) then s
      else if r.core ≥ 256 then
        if (migAt s r.place).isSome || isPeer r.place then s
        else performHere r (r.from r.place) { s with reqs := listDel s.reqs n }
      else match reqPlaces r r.width 0 [] s with
        | (none, _) => s
        | (some ps, s1) =>
          let p := ps.headD (.dev 0)
          if ps.any (fun p => (migAt s1 p).isSome) ∨ ps.any isHub = true then s
          else match ps.find? isPeer with
            | some q => { s1 with reqs := listSet s1.reqs n { r with place := if isPeer p then p else q, moved := false } }
            | none => performHere r ps { s1 with reqs := listDel s1.reqs n })

end Sys2Proof.Machine
end

