-- ==== Sys2Proof/Machine/Predicate.lean ====
section
/-! DEFINITION. The predicate instructions: majors 0x10 to 0x13 (04 R110 to R113). -/

namespace Sys2Proof.Machine

/-- A comparison of two registers into a predicate (04 R110). -/
def cmpR (c : Cond) (rd ra rb g : Nat) (s : State) : Out :=
  issue g 4 [ra, rb] s (fun s => retK rd (c.holds (rx s ra) (rx s rb)) s)

/-- A comparison with an immediate into a predicate (04 R111). -/
def cmpI (c : Cond) (rd ra g imm : Nat) (s : State) : Out :=
  issue g 4 [ra] s (fun s => retK rd (c.holds (rx s ra) (imm12 imm)) s)

/-- A predicate operation (04 R112). -/
def predR (f : Bool → Bool → Bool) (rd ra rb g : Nat) (s : State) : Out :=
  issue g 4 [32 + ra, 32 + rb] s (fun s => retK rd (f (rk s ra) (rk s rb)) s)

/-- 04 R110. -/
def execCmpEq (rd ra rb g : Nat) (s : State) : Out := cmpR .eq rd ra rb g s

/-- 04 R110. -/
def execCmpNe (rd ra rb g : Nat) (s : State) : Out := cmpR .ne rd ra rb g s

/-- 04 R110. -/
def execCmpLtI64 (rd ra rb g : Nat) (s : State) : Out := cmpR .ltI rd ra rb g s

/-- 04 R110. -/
def execCmpGeI64 (rd ra rb g : Nat) (s : State) : Out := cmpR .geI rd ra rb g s

/-- 04 R110. -/
def execCmpLtN64 (rd ra rb g : Nat) (s : State) : Out := cmpR .ltN rd ra rb g s

/-- 04 R110. -/
def execCmpGeN64 (rd ra rb g : Nat) (s : State) : Out := cmpR .geN rd ra rb g s

/-- 04 R112. -/
def execKand (rd ra rb g : Nat) (s : State) : Out := predR (fun a b => a && b) rd ra rb g s

/-- 04 R112. -/
def execKor (rd ra rb g : Nat) (s : State) : Out := predR (fun a b => a || b) rd ra rb g s

/-- 04 R112. -/
def execKxor (rd ra rb g : Nat) (s : State) : Out := predR (fun a b => a != b) rd ra rb g s

/-- 04 R112. -/
def execKandn (rd ra rb g : Nat) (s : State) : Out := predR (fun a b => a && !b) rd ra rb g s

/-- 04 R112. -/
def execKnot (rd ra g : Nat) (s : State) : Out :=
  issue g 4 [32 + ra] s (fun s => retK rd (!rk s ra) s)

/-- 04 R112. -/
def execKmov (rd ra g : Nat) (s : State) : Out :=
  issue g 4 [32 + ra] s (fun s => retK rd (rk s ra) s)

/-- 04 R112: 1 or 0 into a general register. -/
def execKget (rd ra g : Nat) (s : State) : Out :=
  issue g 4 [32 + ra] s (fun s => retX rd (if rk s ra then 1 else 0) s)

/-- 04 R113: G is the selector and there is no guard. -/
def execSel (rd ra rb kg : Nat) (s : State) : Out :=
  issueB [ra, rb, 32 + kg] s (fun s => retX rd (if rk s kg then rx s ra else rx s rb) s)

/-- 04 R111. -/
def execCmpiEq (rd ra g imm : Nat) (s : State) : Out := cmpI .eq rd ra g imm s

/-- 04 R111. -/
def execCmpiLtI64 (rd ra g imm : Nat) (s : State) : Out := cmpI .ltI rd ra g imm s

/-- 04 R111. -/
def execCmpiLtN64 (rd ra g imm : Nat) (s : State) : Out := cmpI .ltN rd ra g imm s

end Sys2Proof.Machine
end

