-- ==== Sys2Proof/Machine/Dispatch.lean ====
section
/-! DEFINITION. The one dispatch from an instruction to its meaning. -/

namespace Sys2Proof.Machine

def exec (i : Instr) (s : State) : Host.Outcome State Fault Refusal :=
  match i with
  | .add rd ra rb g => Sys2Proof.Machine.execAdd rd ra rb g s
  | .sub rd ra rb g => Sys2Proof.Machine.execSub rd ra rb g s
  | .and rd ra rb g => Sys2Proof.Machine.execAnd rd ra rb g s
  | .or rd ra rb g => Sys2Proof.Machine.execOr rd ra rb g s
  | .xor rd ra rb g => Sys2Proof.Machine.execXor rd ra rb g s
  | .andn rd ra rb g => Sys2Proof.Machine.execAndn rd ra rb g s
  | .sll rd ra rb g => Sys2Proof.Machine.execSll rd ra rb g s
  | .srl rd ra rb g => Sys2Proof.Machine.execSrl rd ra rb g s
  | .sra rd ra rb g => Sys2Proof.Machine.execSra rd ra rb g s
  | .mul rd ra rb g => Sys2Proof.Machine.execMul rd ra rb g s
  | .mulhI64 rd ra rb g => Sys2Proof.Machine.execMulhI64 rd ra rb g s
  | .mulhN64 rd ra rb g => Sys2Proof.Machine.execMulhN64 rd ra rb g s
  | .divI64 rd ra rb g => Sys2Proof.Machine.execDivI64 rd ra rb g s
  | .divN64 rd ra rb g => Sys2Proof.Machine.execDivN64 rd ra rb g s
  | .remI64 rd ra rb g => Sys2Proof.Machine.execRemI64 rd ra rb g s
  | .remN64 rd ra rb g => Sys2Proof.Machine.execRemN64 rd ra rb g s
  | .minI64 rd ra rb g => Sys2Proof.Machine.execMinI64 rd ra rb g s
  | .maxI64 rd ra rb g => Sys2Proof.Machine.execMaxI64 rd ra rb g s
  | .minN64 rd ra rb g => Sys2Proof.Machine.execMinN64 rd ra rb g s
  | .maxN64 rd ra rb g => Sys2Proof.Machine.execMaxN64 rd ra rb g s
  | .addsI32 rd ra rb g => Sys2Proof.Machine.execAddsI32 rd ra rb g s
  | .subsI32 rd ra rb g => Sys2Proof.Machine.execSubsI32 rd ra rb g s
  | .addsI64 rd ra rb g => Sys2Proof.Machine.execAddsI64 rd ra rb g s
  | .subsI64 rd ra rb g => Sys2Proof.Machine.execSubsI64 rd ra rb g s
  | .clz rd ra g => Sys2Proof.Machine.execClz rd ra g s
  | .ctz rd ra g => Sys2Proof.Machine.execCtz rd ra g s
  | .popc rd ra g => Sys2Proof.Machine.execPopc rd ra g s
  | .addi rd ra g imm => Sys2Proof.Machine.execAddi rd ra g imm s
  | .andi rd ra g imm => Sys2Proof.Machine.execAndi rd ra g imm s
  | .ori rd ra g imm => Sys2Proof.Machine.execOri rd ra g imm s
  | .xori rd ra g imm => Sys2Proof.Machine.execXori rd ra g imm s
  | .slli rd ra g n => Sys2Proof.Machine.execSlli rd ra g n s
  | .srli rd ra g n => Sys2Proof.Machine.execSrli rd ra g n s
  | .srai rd ra g n => Sys2Proof.Machine.execSrai rd ra g n s
  | .ldhi rd imm => Sys2Proof.Machine.execLdhi rd imm s
  | .addpc rd imm => Sys2Proof.Machine.execAddpc rd imm s
  | .li rd g ext => Sys2Proof.Machine.execLi rd g ext s
  | .lih rd g ext => Sys2Proof.Machine.execLih rd g ext s
  | .cmpEq rd ra rb g => Sys2Proof.Machine.execCmpEq rd ra rb g s
  | .cmpNe rd ra rb g => Sys2Proof.Machine.execCmpNe rd ra rb g s
  | .cmpLtI64 rd ra rb g => Sys2Proof.Machine.execCmpLtI64 rd ra rb g s
  | .cmpGeI64 rd ra rb g => Sys2Proof.Machine.execCmpGeI64 rd ra rb g s
  | .cmpLtN64 rd ra rb g => Sys2Proof.Machine.execCmpLtN64 rd ra rb g s
  | .cmpGeN64 rd ra rb g => Sys2Proof.Machine.execCmpGeN64 rd ra rb g s
  | .kand rd ra rb g => Sys2Proof.Machine.execKand rd ra rb g s
  | .kor rd ra rb g => Sys2Proof.Machine.execKor rd ra rb g s
  | .kxor rd ra rb g => Sys2Proof.Machine.execKxor rd ra rb g s
  | .kandn rd ra rb g => Sys2Proof.Machine.execKandn rd ra rb g s
  | .knot rd ra g => Sys2Proof.Machine.execKnot rd ra g s
  | .kmov rd ra g => Sys2Proof.Machine.execKmov rd ra g s
  | .kget rd ra g => Sys2Proof.Machine.execKget rd ra g s
  | .sel rd ra rb kg => Sys2Proof.Machine.execSel rd ra rb kg s
  | .cmpiEq rd ra g imm => Sys2Proof.Machine.execCmpiEq rd ra g imm s
  | .cmpiLtI64 rd ra g imm => Sys2Proof.Machine.execCmpiLtI64 rd ra g imm s
  | .cmpiLtN64 rd ra g imm => Sys2Proof.Machine.execCmpiLtN64 rd ra g imm s
  | .beq ra rb ofs => Sys2Proof.Machine.execBeq ra rb ofs s
  | .bne ra rb ofs => Sys2Proof.Machine.execBne ra rb ofs s
  | .bltI64 ra rb ofs => Sys2Proof.Machine.execBltI64 ra rb ofs s
  | .bgeI64 ra rb ofs => Sys2Proof.Machine.execBgeI64 ra rb ofs s
  | .bltN64 ra rb ofs => Sys2Proof.Machine.execBltN64 ra rb ofs s
  | .bgeN64 ra rb ofs => Sys2Proof.Machine.execBgeN64 ra rb ofs s
  | .bk ra ofs => Sys2Proof.Machine.execBk ra ofs s
  | .bnk ra ofs => Sys2Proof.Machine.execBnk ra ofs s
  | .call rd ofs => Sys2Proof.Machine.execCall rd ofs s
  | .callr rd ra g imm => Sys2Proof.Machine.execCallr rd ra g imm s
  | .loop lp ra g imm => Sys2Proof.Machine.execLoop lp ra g imm s
  | .ldI8 rd ra g imm => Sys2Proof.Machine.execLdI8 rd ra g imm s
  | .ldN8 rd ra g imm => Sys2Proof.Machine.execLdN8 rd ra g imm s
  | .ldI16 rd ra g imm => Sys2Proof.Machine.execLdI16 rd ra g imm s
  | .ldN16 rd ra g imm => Sys2Proof.Machine.execLdN16 rd ra g imm s
  | .ldI32 rd ra g imm => Sys2Proof.Machine.execLdI32 rd ra g imm s
  | .ldN32 rd ra g imm => Sys2Proof.Machine.execLdN32 rd ra g imm s
  | .ldI64 rd ra g imm => Sys2Proof.Machine.execLdI64 rd ra g imm s
  | .loadDataReturn c v => Sys2Proof.Machine.execLoadDataReturn c v s
  | .stN8 rb ra g imm => Sys2Proof.Machine.execStN8 rb ra g imm s
  | .stN16 rb ra g imm => Sys2Proof.Machine.execStN16 rb ra g imm s
  | .stN32 rb ra g imm => Sys2Proof.Machine.execStN32 rb ra g imm s
  | .stN64 rb ra g imm => Sys2Proof.Machine.execStN64 rb ra g imm s
  | .remoteStoreFail n => Sys2Proof.Machine.execRemoteStoreFail n s
  | .movedRetry n => Sys2Proof.Machine.execMovedRetry n s
  | .tldTake rd ra g => Sys2Proof.Machine.execTldTake rd ra g s
  | .tldKeep rd ra g => Sys2Proof.Machine.execTldKeep rd ra g s
  | .tstFill ra rb g => Sys2Proof.Machine.execTstFill ra rb g s
  | .tstSet ra rb g => Sys2Proof.Machine.execTstSet ra rb g s
  | .tagGet rd ra g => Sys2Proof.Machine.execTagGet rd ra g s
  | .tagClr ra g => Sys2Proof.Machine.execTagClr ra g s
  | .taggedWaiterServe n => Sys2Proof.Machine.execTaggedWaiterServe n s
  | .tagWaitTimeout c => Sys2Proof.Machine.execTagWaitTimeout c s
  | .amoAdd rd ra rb g w => Sys2Proof.Machine.execAmoAdd rd ra rb g w s
  | .amoAnd rd ra rb g w => Sys2Proof.Machine.execAmoAnd rd ra rb g w s
  | .amoOr rd ra rb g w => Sys2Proof.Machine.execAmoOr rd ra rb g w s
  | .amoXor rd ra rb g w => Sys2Proof.Machine.execAmoXor rd ra rb g w s
  | .amoMinSigned rd ra rb g w => Sys2Proof.Machine.execAmoMinSigned rd ra rb g w s
  | .amoMaxSigned rd ra rb g w => Sys2Proof.Machine.execAmoMaxSigned rd ra rb g w s
  | .amoMinUnsigned rd ra rb g w => Sys2Proof.Machine.execAmoMinUnsigned rd ra rb g w s
  | .amoMaxUnsigned rd ra rb g w => Sys2Proof.Machine.execAmoMaxUnsigned rd ra rb g w s
  | .amoSwap rd ra rb g w => Sys2Proof.Machine.execAmoSwap rd ra rb g w s
  | .amoCas rd ra rb g w => Sys2Proof.Machine.execAmoCas rd ra rb g w s
  | .amoAddF32 rd ra rb g => Sys2Proof.Machine.execAmoAddF32 rd ra rb g s
  | .amoSnap rd ra rb g => Sys2Proof.Machine.execAmoSnap rd ra rb g s
  | .amoVaddN32 ra rb g => Sys2Proof.Machine.execAmoVaddN32 ra rb g s
  | .amoVaddF32 ra rb g => Sys2Proof.Machine.execAmoVaddF32 ra rb g s
  | .amoLd rd ra g w => Sys2Proof.Machine.execAmoLd rd ra g w s
  | .atomicAtHome n => Sys2Proof.Machine.execAtomicAtHome n s
  | .atomicReply c v => Sys2Proof.Machine.execAtomicReply c v s
  | .fence g sc => Sys2Proof.Machine.execFence g sc s
  | .acq ra g sc => Sys2Proof.Machine.execAcq ra g sc s
  | .rel ra g sc => Sys2Proof.Machine.execRel ra g sc s
  | .bind rd ra rb g => Sys2Proof.Machine.execBind rd ra rb g s
  | .unbind rd g => Sys2Proof.Machine.execUnbind rd g s
  | .barInit ra g n => Sys2Proof.Machine.execBarInit ra g n s
  | .barArrive rd ra g n => Sys2Proof.Machine.execBarArrive rd ra g n s
  | .barWait rd ra g n => Sys2Proof.Machine.execBarWait rd ra g n s
  | .barSync ra g n => Sys2Proof.Machine.execBarSync ra g n s
  | .barrierWaitTimeout c => Sys2Proof.Machine.execBarrierWaitTimeout c s
  | .lkReq rd ra g lv md => Sys2Proof.Machine.execLkReq rd ra g lv md s
  | .lkTry rd ra g lv md => Sys2Proof.Machine.execLkTry rd ra g lv md s
  | .lkUp rd ra g lv md => Sys2Proof.Machine.execLkUp rd ra g lv md s
  | .lkRel ra g => Sys2Proof.Machine.execLkRel ra g s
  | .lkRelall g => Sys2Proof.Machine.execLkRelall g s
  | .lkQuery rd ra g => Sys2Proof.Machine.execLkQuery rd ra g s
  | .lockRequestAtHome n => Sys2Proof.Machine.execLockRequestAtHome n s
  | .woundArrival n => Sys2Proof.Machine.execWoundArrival n s
  | .woundAsyncEntry c => Sys2Proof.Machine.execWoundAsyncEntry c s
  | .lockRevoke n => Sys2Proof.Machine.execLockRevoke n s
  | .txBegin rd ra g => Sys2Proof.Machine.execTxBegin rd ra g s
  | .txEnd rd g => Sys2Proof.Machine.execTxEnd rd g s
  | .txAbort ra g => Sys2Proof.Machine.execTxAbort ra g s
  | .txStat rd g => Sys2Proof.Machine.execTxStat rd g s
  | .txCommit c => Sys2Proof.Machine.execTxCommit c s
  | .txWoundAbort c => Sys2Proof.Machine.execTxWoundAbort c s
  | .spawn rd ra g => Sys2Proof.Machine.execSpawn rd ra g s
  | .spawnWaitTimeout c => Sys2Proof.Machine.execSpawnWaitTimeout c s
  | .done g => Sys2Proof.Machine.execDone g s
  | .joinInit rd ra rb g => Sys2Proof.Machine.execJoinInit rd ra rb g s
  | .chunk rd ra g => Sys2Proof.Machine.execChunk rd ra g s
  | .dacq rd ra rb g => Sys2Proof.Machine.execDacq rd ra rb g s
  | .dacqWaitGrant c => Sys2Proof.Machine.execDacqWaitGrant c s
  | .drel g => Sys2Proof.Machine.execDrel g s
  | .cfgLoad rd ra rb g => Sys2Proof.Machine.execCfgLoad rd ra rb g s
  | .cfgLoadEnd d => Sys2Proof.Machine.execCfgLoadEnd d s
  | .cfgConst ra rb g => Sys2Proof.Machine.execCfgConst ra rb g s
  | .cfgConstApply c => Sys2Proof.Machine.execCfgConstApply c s
  | .invoke rd ra rb g => Sys2Proof.Machine.execInvoke rd ra rb g s
  | .sbind rd ra g => Sys2Proof.Machine.execSbind rd ra g s
  | .push rd ra rb g => Sys2Proof.Machine.execPush rd ra rb g s
  | .pull rd ra rb g => Sys2Proof.Machine.execPull rd ra rb g s
  | .streamWaitTimeout c => Sys2Proof.Machine.execStreamWaitTimeout c s
  | .drain g => Sys2Proof.Machine.execDrain g s
  | .ctxset ra g => Sys2Proof.Machine.execCtxset ra g s
  | .mstone rd ra g => Sys2Proof.Machine.execMstone rd ra g s
  | .mstoneComplete d => Sys2Proof.Machine.execMstoneComplete d s
  | .tdown rd g => Sys2Proof.Machine.execTdown rd g s
  | .tdownComplete d => Sys2Proof.Machine.execTdownComplete d s
  | .dmaLd rd ra rb g ext => Sys2Proof.Machine.execDmaLd rd ra rb g ext s
  | .dmaSt rd ra rb g ext => Sys2Proof.Machine.execDmaSt rd ra rb g ext s
  | .dmaCp rd ra rb g ext => Sys2Proof.Machine.execDmaCp rd ra rb g ext s
  | .dmaGath rd ra rb g ext => Sys2Proof.Machine.execDmaGath rd ra rb g ext s
  | .dmaEnd n => Sys2Proof.Machine.execDmaEnd n s
  | .binApp rd ra rb g => Sys2Proof.Machine.execBinApp rd ra rb g s
  | .binAppendAtEngine n => Sys2Proof.Machine.execBinAppendAtEngine n s
  | .binPlay rd ra rb g => Sys2Proof.Machine.execBinPlay rd ra rb g s
  | .binRegionReplay n => Sys2Proof.Machine.execBinRegionReplay n s
  | .rput rd ra rb g ext => Sys2Proof.Machine.execRput rd ra rb g ext s
  | .rget rd ra rb g ext => Sys2Proof.Machine.execRget rd ra rb g ext s
  | .ramo rd ra rb g ext => Sys2Proof.Machine.execRamo rd ra rb g ext s
  | .remoteLinkFail n => Sys2Proof.Machine.execRemoteLinkFail n s
  | .tidWr ra rb g => Sys2Proof.Machine.execTidWr ra rb g s
  | .tidRd ra rb g => Sys2Proof.Machine.execTidRd ra rb g s
  | .mtile rd ra rb g ext => Sys2Proof.Machine.execMtile rd ra rb g ext s
  | .mbload rd ra rb g ext => Sys2Proof.Machine.execMbload rd ra rb g ext s
  | .maccCp rd ra rb g ext => Sys2Proof.Machine.execMaccCp rd ra rb g ext s
  | .maccZero rd ra g ext => Sys2Proof.Machine.execMaccZero rd ra g ext s
  | .seqBFetch d => Sys2Proof.Machine.execSeqBFetch d s
  | .seqBWrite d => Sys2Proof.Machine.execSeqBWrite d s
  | .seqAFetch d => Sys2Proof.Machine.execSeqAFetch d s
  | .seqAAlign d => Sys2Proof.Machine.execSeqAAlign d s
  | .seqABroadcast d => Sys2Proof.Machine.execSeqABroadcast d s
  | .seqAAccumulate d => Sys2Proof.Machine.execSeqAAccumulate d s
  | .seqAccRowMove d => Sys2Proof.Machine.execSeqAccRowMove d s
  | .seqSetCompletion d => Sys2Proof.Machine.execSeqSetCompletion d s
  | .mfs rd g imm => Sys2Proof.Machine.execMfs rd g imm s
  | .mts ra g imm => Sys2Proof.Machine.execMts ra g imm s
  | .trap g n => Sys2Proof.Machine.execTrap g n s
  | .tack g => Sys2Proof.Machine.execTack g s
  | .eret g => Sys2Proof.Machine.execEret g s
  | .idle g => Sys2Proof.Machine.execIdle g s
  | .icinvAll g => Sys2Proof.Machine.execIcinvAll g s
  | .icinvLine ra g => Sys2Proof.Machine.execIcinvLine ra g s
  | .icinvAcknowledge c => Sys2Proof.Machine.execIcinvAcknowledge c s
  | .xinvAll g => Sys2Proof.Machine.execXinvAll g s
  | .xinvSpace rd g => Sys2Proof.Machine.execXinvSpace rd g s
  | .xinvVa rd ra g => Sys2Proof.Machine.execXinvVa rd ra g s
  | .sig ra rb g => Sys2Proof.Machine.execSig ra rb g s
  | .sigMessageArrival n => Sys2Proof.Machine.execSigMessageArrival n s
  | .sigHoldTimeout c => Sys2Proof.Machine.execSigHoldTimeout c s
  | .sigQueueEntry c => Sys2Proof.Machine.execSigQueueEntry c s
  | .msgDelivery c => Sys2Proof.Machine.execMsgDelivery c s
  | .sethnd rd ra rb g => Sys2Proof.Machine.execSethnd rd ra rb g s
  | .gcJoin rd ra rb g => Sys2Proof.Machine.execGcJoin rd ra rb g s
  | .gcLeave rd g => Sys2Proof.Machine.execGcLeave rd g s
  | .gcAnn ra rb g => Sys2Proof.Machine.execGcAnn ra rb g s
  | .gcQuery rd ra g => Sys2Proof.Machine.execGcQuery rd ra g s
  | .brk => Sys2Proof.Machine.execBrk s
  | .asyncEventEntry c => Sys2Proof.Machine.execAsyncEventEntry c s
  | .plainWrite d => Sys2Proof.Machine.execPlainWrite d s
  | .setElementCursor d => Sys2Proof.Machine.execSetElementCursor d s
  | .wideWrite d => Sys2Proof.Machine.execWideWrite d s
  | .nop d => Sys2Proof.Machine.execNop d s
  | .stage d => Sys2Proof.Machine.execStage d s
  | .commit d => Sys2Proof.Machine.execCommit d s
  | .abandon d => Sys2Proof.Machine.execAbandon d s
  | .wave d => Sys2Proof.Machine.execWave d s
  | .clear d => Sys2Proof.Machine.execClear d s
  | .pendingCommandApply e => Sys2Proof.Machine.execPendingCommandApply e s
  | .pendingSwitchApply b => Sys2Proof.Machine.execPendingSwitchApply b s
  | .tokenHop kind at_ port => Sys2Proof.Machine.execTokenHop kind at_ port s
  | .vectorCellFiring e => Sys2Proof.Machine.execVectorCellFiring e s
  | .structuralEmission e => Sys2Proof.Machine.execStructuralEmission e s
  | .controlTokenTake e => Sys2Proof.Machine.execControlTokenTake e s
  | .branchCellFinish e => Sys2Proof.Machine.execBranchCellFinish e s
  | .scannerStep e => Sys2Proof.Machine.execScannerStep e s
  | .fibreBufferRefill e => Sys2Proof.Machine.execFibreBufferRefill e s
  | .skipRequest e => Sys2Proof.Machine.execSkipRequest e s
  | .mergeIntersectStep e => Sys2Proof.Machine.execMergeIntersectStep e s
  | .mergeUnionStep e => Sys2Proof.Machine.execMergeUnionStep e s
  | .repeaterRefStep e => Sys2Proof.Machine.execRepeaterRefStep e s
  | .repeaterFibreLoad e => Sys2Proof.Machine.execRepeaterFibreLoad e s
  | .repeaterFibreReplay e => Sys2Proof.Machine.execRepeaterFibreReplay e s
  | .reducerStep e => Sys2Proof.Machine.execReducerStep e s
  | .levelWriterStep e => Sys2Proof.Machine.execLevelWriterStep e s
  | .matrixRowFiring e => Sys2Proof.Machine.execMatrixRowFiring e s
  | .matrixBurstTake e => Sys2Proof.Machine.execMatrixBurstTake e s
  | .matrixDonePass e => Sys2Proof.Machine.execMatrixDonePass e s
  | .memoryNodeRequest e k => Sys2Proof.Machine.execMemoryNodeRequest e k s
  | .memoryNodeReturn e k => Sys2Proof.Machine.execMemoryNodeReturn e k s
  | .rowBurst e k => Sys2Proof.Machine.execRowBurst e k s
  | .nodeTagTimeout e k => Sys2Proof.Machine.execNodeTagTimeout e k s
  | .milestoneTake e => Sys2Proof.Machine.execMilestoneTake e s
  | .rollback d => Sys2Proof.Machine.execRollback d s
  | .patrolRead line err => Sys2Proof.Machine.execPatrolRead line err s
  | .elementJoin e => Sys2Proof.Machine.execElementJoin e s
  | .invokeStart d => Sys2Proof.Machine.execInvokeStart d s
  | .invocationEnd d => Sys2Proof.Machine.execInvocationEnd d s
  | .gangfault d => Sys2Proof.Machine.execGangfault d s
  | .stallWatchdogExpiry d => Sys2Proof.Machine.execStallWatchdogExpiry d s
  | .heldStoreEntry e k => Sys2Proof.Machine.execHeldStoreEntry e k s
  | .waveCommit d => Sys2Proof.Machine.execWaveCommit d s
  | .launchWindowWrite port ofs bytes => Sys2Proof.Machine.execLaunchWindowWrite port ofs bytes s
  | .hqBaseWrite port q v => Sys2Proof.Machine.execHqBaseWrite port q v s
  | .enable port q => Sys2Proof.Machine.execEnable port q s
  | .disable port q => Sys2Proof.Machine.execDisable port q s
  | .teardown port q => Sys2Proof.Machine.execTeardown port q s
  | .reset port q => Sys2Proof.Machine.execReset port q s
  | .off port q => Sys2Proof.Machine.execOff port q s
  | .queueTorn q => Sys2Proof.Machine.execQueueTorn q s
  | .hubDispatch => Sys2Proof.Machine.execHubDispatch s
  | .pwaitPreemption => Sys2Proof.Machine.execPwaitPreemption s
  | .joinDecrement => Sys2Proof.Machine.execJoinDecrement s
  | .recCopyEnter n => Sys2Proof.Machine.execRecCopyEnter n s
  | .graphWalkStart => Sys2Proof.Machine.execGraphWalkStart s
  | .graphTaskNode n => Sys2Proof.Machine.execGraphTaskNode n s
  | .graphCondNode n => Sys2Proof.Machine.execGraphCondNode n s
  | .graphWhileNode n => Sys2Proof.Machine.execGraphWhileNode n s
  | .graphLoopNode n => Sys2Proof.Machine.execGraphLoopNode n s
  | .graphJoinNode n => Sys2Proof.Machine.execGraphJoinNode n s
  | .schCtlWrite port v => Sys2Proof.Machine.execSchCtlWrite port v s
  | .preempt port c => Sys2Proof.Machine.execPreempt port c s
  | .preemptSaveComplete c => Sys2Proof.Machine.execPreemptSaveComplete c s
  | .taskRestore n => Sys2Proof.Machine.execTaskRestore n s
  | .halt port c => Sys2Proof.Machine.execHalt port c s
  | .unhalt port c => Sys2Proof.Machine.execUnhalt port c s
  | .stop port c => Sys2Proof.Machine.execStop port c s
  | .run port c => Sys2Proof.Machine.execRun port c s
  | .restart port c => Sys2Proof.Machine.execRestart port c s
  | .qcSdataWrite port c v => Sys2Proof.Machine.execQcSdataWrite port c v s
  | .qcSdataRead port c => Sys2Proof.Machine.execQcSdataRead port c s
  | .migrationStart port q v => Sys2Proof.Machine.execMigrationStart port q v s
  | .migrationEnd q => Sys2Proof.Machine.execMigrationEnd q s
  | .pinLoad port => Sys2Proof.Machine.execPinLoad port s
  | .zoneMapWrite port q n v => Sys2Proof.Machine.execZoneMapWrite port q n v s
  | .rpRemapWrite port q v => Sys2Proof.Machine.execRpRemapWrite port q v s
  | .rpCountClear port q => Sys2Proof.Machine.execRpCountClear port q s
  | .lmReload port v => Sys2Proof.Machine.execLmReload port v s
  | .registerWrite port ofs d => Sys2Proof.Machine.execRegisterWrite port ofs d s
  | .announceReceive grp id seq n te => Sys2Proof.Machine.execAnnounceReceive grp id seq n te s
  | .heartbeatSend => Sys2Proof.Machine.execHeartbeatSend s
  | .heartbeatReceive grp m n top => Sys2Proof.Machine.execHeartbeatReceive grp m n top s
  | .joinReceive grp m n notice => Sys2Proof.Machine.execJoinReceive grp m n notice s
  | .stateReceive grp m notice tj members anns => Sys2Proof.Machine.execStateReceive grp m notice tj members anns s
  | .groupFound => Sys2Proof.Machine.execGroupFound s
  | .leaveReceive grp m tl => Sys2Proof.Machine.execLeaveReceive grp m tl s
  | .silentDeclare id => Sys2Proof.Machine.execSilentDeclare id s
  | .silentReceive grp m r => Sys2Proof.Machine.execSilentReceive grp m r s
  | .expelReceive grp => Sys2Proof.Machine.execExpelReceive grp s
  | .ceilingChange => Sys2Proof.Machine.execCeilingChange s
  | .thermalTick t => Sys2Proof.Machine.execThermalTick t s
  | .currentTick pct => Sys2Proof.Machine.execCurrentTick pct s
  | .powerCapTick p => Sys2Proof.Machine.execPowerCapTick p s
  | .rackShareSend => Sys2Proof.Machine.execRackShareSend s
  | .rackShareReceive dev p weight budget group => Sys2Proof.Machine.execRackShareReceive dev p weight budget group s
  | .emergencyThrottle t rails => Sys2Proof.Machine.execEmergencyThrottle t rails s
  | .emergencyRelease t pct => Sys2Proof.Machine.execEmergencyRelease t pct s
  | .flitReceive link seq good => Sys2Proof.Machine.execFlitReceive link seq good s
  | .nakReplay link seq => Sys2Proof.Machine.execNakReplay link seq s
  | .linkRetrain link dir => Sys2Proof.Machine.execLinkRetrain link dir s
  | .laneFail link lane => Sys2Proof.Machine.execLaneFail link lane s
  | .spare port v => Sys2Proof.Machine.execSpare port v s
  | .turn port v => Sys2Proof.Machine.execTurn port v s
  | .idleLane port v => Sys2Proof.Machine.execIdleLane port v s
  | .laneTrained link ok => Sys2Proof.Machine.execLaneTrained link ok s
  | .leave port => Sys2Proof.Machine.execLeave port s
  | .membershipChange => Sys2Proof.Machine.execMembershipChange s
  | .deviceDeparture dev => Sys2Proof.Machine.execDeviceDeparture dev s
  | .domainJoin dev e => Sys2Proof.Machine.execDomainJoin dev e s
  | .ownerCas port v => Sys2Proof.Machine.execOwnerCas port v s
  | .ownerHeartbeat port => Sys2Proof.Machine.execOwnerHeartbeat port s
  | .ownerStale => Sys2Proof.Machine.execOwnerStale s
  | .scaleoutPacketReceive node h o => Sys2Proof.Machine.execScaleoutPacketReceive node h o s
  | .scaleoutRetransmit n => Sys2Proof.Machine.execScaleoutRetransmit n s
  | .deviceReset => Sys2Proof.Machine.execDeviceReset s
  | .loadFirmware c => Sys2Proof.Machine.execLoadFirmware c s
  | .attest port => Sys2Proof.Machine.execAttest port s
  | .attestComplete port => Sys2Proof.Machine.execAttestComplete port s
  | .retrainingEnd side => Sys2Proof.Machine.execRetrainingEnd side s
  | .bar2MemoryWrite port ofs bytes => Sys2Proof.Machine.execBar2MemoryWrite port ofs bytes s
  | .contextCounterAdvance d => Sys2Proof.Machine.execContextCounterAdvance d s

end Sys2Proof.Machine
end

