-- ==== Sys2Proof/Machine/Peer.lean ====
section
/-! DEFINITION. What reaches this device from another of the domain (04 R131; 05 R142, R145, R150; 14 R360, R366, R369; 18 R411, R413; log entry 107). -/

namespace Sys2Proof.Machine

/-- A message of another device takes its effect here. -/
def peerTurn (m : PeerMsg) (s : State) : State :=
  match m with
  | .sig space user bound dst index payload => peerSig space user bound dst index payload s
  | .store pa bytes => peerStore pa bytes s
  | .atomic fn w pa b expect ws => peerAtomic fn w pa b expect ws s
  | .tagged op pa v => peerTagged op pa v s
  | .lock d n space name addr mode age implicit try_ => peerLock d n space name addr mode age implicit try_ s
  | .unlock d n space name addr implicit => peerUnlock d n space name addr implicit s
  | .withdraw d n => withdrawLock (remoteThread d n) s
  | .granted n status => lockGranted n status s
  | .wound t space name addr implicit => peerWound t space name addr implicit s
  | .revoke t name => peerRevoke t name s
  | .linkCommand v => linkCmd farEnd v s
  | .leave dev tm => peerLeave dev tm s
  | .departure dev tm => peerDeparture dev tm s
  | .flitAck link seq => flitAck link seq s
  | .linkState a b down => peerLinkState a b down s

end Sys2Proof.Machine
end

