-- ==== Sys2Proof/Machine/Clock.lean ====
section
/-! DEFINITION. The passing of time: with it the stall counts of the districts, their waves, and the waits that a halt does
not count (00 R4, R8; 09 R262, R280; 13 R356). -/

namespace Sys2Proof.Machine

/-! ## Held elements (09 R262) -/

/-- Has an element joined an invocation that it has not finished? -/
def Elem.working (x : Elem) : Bool := x.joined.isSome && !x.fin

/-- The elements at the sources of the routes that drive a destination of a block, walked backwards; a bollard ends the walk. -/
def routeStarts (s : State) : Nat → Nat → Nat → List Nat
  | 0, _, _ => []
  | n + 1, b, d =>
    ((switch s b).sources d).flatMap (fun i =>
      if idClass i = 3 then [idElem b i]
      else match across b i with
        | some (nb, e, _) => if zoneOf s b = zoneOf s nb then routeStarts s n nb (trackId (idClass i) e (idTrack i)) else []
        | none => [])

/-- The context of a vector cell that is to fire next: the armed one, or in a stepped cell that of the running counter's slot; none while the
cell awaits a control token. -/
def Elem.nextCtx (k : District) (x : Elem) : Option Nat :=
  if x.branch.isSome then none
  else (if x.driven then x.armed
    else
      let v := (x.field (0x54 + k.ctxPos)).toNat
      if !k.ctxRun || v.testBit 4 then none else some (v % 16)).filter (fun j => x.actCtx.contains j && !x.finCtx.contains j)

/-- The empty links from which an element awaits a token: those of the inputs of its next context, or the control port of a cell that waits
under BRANCH; of another element all its bound inputs. -/
def emptyIns (s : State) (k : District) (e : Nat) : List Nat :=
  let x := elem s e
  let ins := if elemKind e = .vector then ((x.nextCtx k).map x.inSet).getD [] else ports
  (ins.filter (fun p => x.inBound p && (mget x.inB p []).isEmpty)) ++
  (match x.branch with
    | some j => if (mget x.ctB (x.ctin j) []).isEmpty then [4 + x.ctin j] else []
    | none => [])

/-- The full links on which an element awaits room: those of the outputs and control ports of its next context, or of another element all its
bound outputs. -/
def fullOuts (s : State) (k : District) (e : Nat) : List Nat :=
  let x := elem s e
  let (outs, ctos) := if elemKind e = .vector then ((x.nextCtx k).map (fun j => (x.outSet j, x.ctoSet j))).getD ([], []) else (ports, [])
  (outs.filter (fun p => x.outBound p && !x.room p)) ++ ((ctos.filter (fun p => decide ((mget x.ctB p []).length ≥ 2))).map (4 + ·))

/-- Does an element wait on an input that a producer of a list drives? -/
def waitsIn (s : State) (k : District) (l : List Nat) (e : Nat) : Bool :=
  (emptyIns s k e).any (fun p => (routeStarts s 512 (elemBlock e) (elemLink e p)).any l.contains)

/-- Does an element wait for room on an output with a consumer of a list? -/
def waitsOut (s : State) (k : District) (l : List Nat) (e : Nat) : Bool :=
  (fullOuts s k e).any (fun p => (routeEnds s 512 (elemBlock e) (elemLink e p)).any l.contains)

/-- Does an element wait on a link bound to a handle of its district's thread? -/
def waitsHandle (s : State) (k : District) (e : Nat) : Bool :=
  (elem s e).working && ((emptyIns s k e).any (fun p => handleAt s k e p false) || (fullOuts s k e).any (fun p => handleAt s k e p true))

/-- The elements that a mark has reached after n rounds, of a list that it may reach, each with its district. -/
def spread (s : State) (es : List (Nat × District)) : Nat → List Nat → List Nat
  | 0, marked => marked
  | n + 1, marked =>
    spread s es n ((es.filter (fun e => marked.contains e.1 ||
      ((elem s e.1).working && (waitsIn s e.2 marked e.1 || waitsOut s e.2 marked e.1)))).map Prod.fst)

/-- The districts of a district's gang, itself among them (09 R256). -/
def gangOf (s : State) (d : Nat) (k : District) : List (Nat × District) :=
  s.districts.filter (fun j => j.1 == d || (k.gang != 0 && j.2.gang == k.gang && j.2.asid == k.asid))

/-- The elements of a district's gang that are halted or held. -/
def heldElems (s : State) (d : Nat) (k : District) : List Nat :=
  let l := gangOf s d k
  let es := l.flatMap (fun j => (distElems s j.2).map (fun e => (e, j.2)))
  spread s es es.length (l.flatMap (fun j => (distElems s j.2).filter (fun e => j.2.gated || waitsHandle s j.2 e)))

/-- Is an element of a district held? -/
def distHeld (s : State) (d : Nat) (k : District) : Bool := (heldElems s d k).any k.hasElem

/-- Does an element hold a token or a pending step? -/
def Elem.busy (x : Elem) : Bool :=
  x.inB.any (fun p => !p.2.isEmpty) || x.outB.any (fun p => !p.2.isEmpty) || x.outL.any (fun p => !p.2.isEmpty) ||
  x.ctB.any (fun p => !p.2.isEmpty) || x.nodes.any (fun n => n.2.half.isSome || !n.2.reqs.isEmpty) || !x.mat.buf.isEmpty ||
  !x.mat.out.isEmpty || x.unit.fib.isSome || x.unit.pendStop.isSome || !x.unit.buf.isEmpty

/-- Does a district's watchdog count an fc in which none of its elements fires? -/
def stalls (s : State) (d : Nat) (k : District) : Bool :=
  k.running.isSome && !k.gated && (distElems s k).any (fun e => (elem s e).busy) && !distHeld s d k

/-- The context counter takes the position that a `ctxset`, or its own count, has noted in the fc (06 R179). -/
def District.countOn (k : District) : District :=
  match k.ctxNext with
  | some (p, n, run) => { k with ctxPos := p, ctxLen := n, ctxRun := run, tick := k.tick + 1, ctxNext := none }
  | none => k

/-- A district after n fc, of which only the first may have seen a firing: its context counter, its stall count, and the waves that are then
complete. -/
def distPass (n : Nat) (s : State) (d : Nat) (k : District) : District :=
  let m := if k.fcFired then n - 1 else n
  markFull s { k.countOn with fcFired := false, stall := if stalls s d k then k.stall + m else k.stall }

/-- Does core c wait at a `push` or a `pull` of a halted district (13 R356)? -/
def waitsHalted (s : State) (c : Nat) : Bool :=
  (thr s c).wait == .again true &&
  (match (streamAt s c).bind (fun h => mget? (thr s c).q h) with
    | some h => (distOf s h.elem).any (fun d => d.2.gated && haltedBy s d.2)
    | none => false)

/-- A core after n fc: a wait that a halt causes does not count against its bound. -/
def corePass (n : Nat) (s : State) (c : Nat) (k : CoreState) : CoreState :=
  if waitsHalted s c then { k with t := { k.t with waitFrom := k.t.waitFrom + n } } else k

/-- The end of an fc in every district: the faults noted in it end their invocations (09 R266; 17 R397). -/
def settleFaults (s : State) : State := s.districts.foldl (fun s d => settleFault d.1 s) s

/-- The fc until the next boundary of 10 µs, at the rate of the clock now (00 R4). -/
def fcsToBoundary (s : State) : Nat := cdiv ((10000 - s.ns % 10000) * (32 + clockStep s) - s.nsRem) 80

/-- n fc pass, with what each boundary brings as it is reached: the clock then runs at the new ceiling (14 R378, R382). -/
def passTo : Nat → Nat → State → State
  | 0, n, s => pass n s
  | fuel + 1, n, s =>
    let k := min n (fcsToBoundary s)
    let s1 := pass k s
    let s2 := if s1.ns / 10000 = s.ns / 10000 then s1 else passBoundary s1
    if n ≤ k then s2 else passTo fuel (n - k) s2

/-- n fc pass. -/
def passAll (n : Nat) (s0 : State) : State :=
  if n = 0 then s0
  else
    let s := settleFaults s0
    passTo n n { s with cores := s.cores.map (fun p => (p.1, corePass n s p.1 p.2)), districts := s.districts.map (fun p => (p.1, distPass n s p.1 p.2)) }

end Sys2Proof.Machine
end

