-- ==== Sys2Proof/Machine/Turn.lean ====
section
/-! DEFINITION. One turn of a control core: its instruction boundary, then the fetch of its next instruction (04 R102,
R124, R129, R133; 05 R166; 14 R368). -/

namespace Sys2Proof.Machine

/-- What a core's turn comes to: a state, or an instruction to run in a state. -/
inductive CoreTurn where
  | rest (s : State)
  | run (i : Instr) (s : State)

/-- A core issues at most one instruction in an fc (04 R102): its second turn in one fc first passes an fc. -/
def issueSlot (c : Nat) (s : State) : State :=
  let s1 := { s with cur := c }
  let s2 := if (core s1 c).lastFc = s1.fc then passAll 1 s1 else s1
  updCore s2 c (fun k => { k with lastFc := s2.fc })

/-- What enters at the instruction boundary of core c before its next instruction, if anything does: a wound that aborts a
transaction, a wound, an event, a message (the order is the model's: log entry 127). An `xinv` whose accesses are performed completes. -/
def boundaryTurn (c : Nat) (s : State) : Option State :=
  if txWoundDue s c then some (txWound c s)
  else if woundDue s c then some (woundEnter c s)
  else if (thr s c).wait = .idle then (if asyncPending s c then some (advanceCore c 4 s) else none)
  else if canEnter s c then
    if !(core s c).events.isEmpty then some (enterEvent c s)
    else if !(core s c).delivery.isEmpty then some (deliver c s)
    else none
  else xinvDone c s

/-- Does the thread issue an instruction at its turn: it waits for nothing, or issues its instruction again? -/
def Wait.issues (w : Wait) : Bool :=
  match w with
  | .none => true
  | .again _ => true
  | _ => false

/-- A core's turn. -/
def coreTurn (c : Nat) (s : State) : CoreTurn :=
  let s1 := issueSlot c s
  if !runsNow s1 c then .rest s1
  else
    match boundaryTurn c s1 with
    | some s2 => .rest s2
    | none =>
      if (thr s1 c).wait.issues then
        match fetchInstr s1 c with
        | (.ok i, s2) => .run i s2
        | (.error (.cause code tv), s2) => .rest (trapCore c code tv s2)
        | (.error (.moving p), s2) => .rest (meetFrozen (.core c) p s2)
      else .rest s1

end Sys2Proof.Machine
end

