-- ==== Sys2Proof/Machine/Schedule.lean ====
section
/-! DEFINITION. The order in which agents move when the agenda names none, and one fc of everything that moves of itself (log
entry 4). -/

namespace Sys2Proof.Machine

/-- Something that moves of itself: the meaning of a machine event. -/
abbrev Event := State → Out

/-- An event for each number below n. -/
def each (n : Nat) (f : Nat → Event) : List Event := (List.range n).map f

/-- What a core may have due beside its instructions. -/
def coreEvents (c : Nat) : List Event :=
  [execSigHoldTimeout c, execSigQueueEntry c, execTagWaitTimeout c, execBarrierWaitTimeout c, execSpawnWaitTimeout c, execStreamWaitTimeout c] ++
  [execDacqWaitGrant c, execCfgConstApply c, execTxCommit c, execPreemptSaveComplete c]

/-- The requests, locks, wounds and messages on their way. -/
def queueEvents (s : State) : List Event :=
  s.icinv.map (fun e => execIcinvAcknowledge e.2.1) ++ each s.lockq.length execLockRequestAtHome ++ each s.wounds.length execWoundArrival ++
  each s.wounds.length execLockRevoke ++ each s.tagq.length execTaggedWaiterServe ++ each s.sigs.length execSigMessageArrival ++
  each s.reqs.length execAtomicAtHome ++ each s.reqs.length execMovedRetry ++ each s.reqs.length (fun n s => .next (peerStored n s)) ++
  each s.dying.length (fun n s => .next (dieNow n s))

/-- The engines of the quarters. -/
def engineEvents (s : State) : List Event :=
  each s.engines.length execDmaEnd ++ each s.engines.length execBinRegionReplay ++ each s.bins.length execBinAppendAtEngine ++ each 4 execMigrationEnd

/-- An event for each path of each walk that the hub follows. -/
def eachPath (s : State) (f : Nat → Event) : List Event :=
  (List.range s.walks.length).flatMap (fun i => (List.range (((s.walks[i]?).map (fun (w : Walk) => w.paths.length)).getD 0)).map (fun j => f (i + 64 * j)))

/-- The hub, the clock group and the regulator. -/
def hubEvents (s : State) : List Event :=
  each s.decrs.length (fun _ => execJoinDecrement) ++ each s.recWait.length execRecCopyEnter ++ [execGraphWalkStart] ++
  eachPath s execGraphTaskNode ++ eachPath s execGraphCondNode ++ eachPath s execGraphWhileNode ++ eachPath s execGraphLoopNode ++
  eachPath s execGraphJoinNode ++ [execHubDispatch] ++ each s.saved.length execTaskRestore ++ [execPwaitPreemption] ++ each 64 execQueueTorn ++
  [execHeartbeatSend, execGroupFound] ++ s.gc.members.map (fun m => execSilentDeclare m.1) ++ [execMembershipChange, execCeilingChange] ++
  [execRackShareSend, execOwnerStale] ++ each s.packets.length execScaleoutRetransmit ++ each 2 execAttestComplete

/-- A district's commands, sequencer and invocations. -/
def districtEvents (d : Nat) : List Event :=
  [execContextCounterAdvance d, execPlainWrite d, execSetElementCursor d, execWideWrite d, execNop d, execStage d, execCommit d, execAbandon d, execWave d,
   execClear d, execCfgLoadEnd d] ++
  [execInvokeStart d, execSeqBFetch d, execSeqBWrite d, execSeqAFetch d, execSeqAAlign d, execSeqABroadcast d, execSeqAAccumulate d, execSeqAccRowMove d,
   execSeqSetCompletion d] ++
  [execRollback d, execGangfault d, execStallWatchdogExpiry d, execWaveCommit d, execMstoneComplete d, execInvocationEnd d, execTdownComplete d]

/-- An element's firings and steps, its memory nodes, and the tokens at its ports. -/
def elemEvents (e : Nat) : List Event :=
  [execElementJoin e, execPendingCommandApply e, execMilestoneTake e, execControlTokenTake e, execStructuralEmission e, execVectorCellFiring e,
   execBranchCellFinish e] ++
  [execScannerStep e, execFibreBufferRefill e, execSkipRequest e, execMergeIntersectStep e, execMergeUnionStep e, execRepeaterRefStep e,
   execRepeaterFibreLoad e, execRepeaterFibreReplay e] ++
  [execReducerStep e, execLevelWriterStep e, execMatrixBurstTake e, execMatrixRowFiring e, execMatrixDonePass e] ++
  (List.range 4).flatMap (fun k => [execMemoryNodeRequest e k, execRowBurst e k, execHeldStoreEntry e k, execNodeTagTimeout e k, execMemoryNodeReturn e k]) ++
  (List.range 8).flatMap (fun p => [execTokenHop 1 e p, execTokenHop 0 e p])

/-- A block's switch. -/
def switchEvents (p : Nat × Switch) : List Event := execPendingSwitchApply p.1 :: p.2.drive.map (fun x => execTokenHop 2 p.1 x.1)

/-- Everything that may move of itself in one fc, in the order in which the model lets it. -/
def fcEvents (s : State) : List Event :=
  s.cores.flatMap (fun p => coreEvents p.1) ++ queueEvents s ++ engineEvents s ++ hubEvents s ++
  s.districts.flatMap (fun p => districtEvents p.1) ++ s.elems.flatMap (fun p => elemEvents p.1) ++ s.switches.flatMap switchEvents

/-- What a party that a migration has held up does next, and with the page open (13 R345). A core has its own turn. -/
def partyEvents (p : Party) (s : State) : List Event :=
  match p with
  | .core _ => []
  | .queue q => [execMigrationEnd q]
  | .node e k => [execRowBurst e k, execMemoryNodeRequest e k, execHeldStoreEntry e k]
  | .elem e => [execMilestoneTake e, execScannerStep e, execFibreBufferRefill e, execRepeaterFibreLoad e, execLevelWriterStep e, execMatrixBurstTake e]
  | .engine id =>
    match s.engines.findIdx? (fun x => x.id == id) with
    | some n => [execDmaEnd n, execBinRegionReplay n]
    | none => []
  | .bin n => [execBinAppendAtEngine n]
  | .dist d => [execPlainWrite d, execCfgLoadEnd d, execSeqBFetch d, execSeqAFetch d, execSeqAccRowMove d, execWaveCommit d, execInvocationEnd d]
  | .hub => [execJoinDecrement, execGraphWalkStart] ++ eachPath s execGraphCondNode ++ eachPath s execGraphWhileNode ++ eachPath s execGraphLoopNode

/-- Runs events in order. -/
def runEvents : List Event → State → Out
  | [], s => .next s
  | f :: l, s =>
    match f s with
    | .next t => runEvents l t
    | r => r

/-- One fc of everything that moves of itself. -/
def fabricTurn (s : State) : Out :=
  match runEvents (fcEvents s) s with
  | .next t => .next (passAll 1 t)
  | r => r

/-- The turn that the model takes with an empty agenda: a core that has not had its turn in this fc, else the fabric. -/
def autoTurn (s : State) : Turn :=
  match (s.cores.find? (fun p => decide (p.1 < 256) && runsNow s p.1 && decide (p.2.lastFc ≠ s.fc))) with
  | some p => .core p.1
  | none => .fabric

end Sys2Proof.Machine
end

