-- ==== Sys2Proof/Machine/Upset.lean ====
section
/-! DEFINITION. Errors that come from outside and show at a read: words under SECDED and registers under parity (17 R393
to R395, R400). The error takes its effect in a turn of its own ahead of the read that finds it (log entry 13). -/

namespace Sys2Proof.Machine

/-! ## Where an error stands, and who counts it -/

/-- Where an on-package word stands: the quarter that counts its errors, whether its owner is a core, the owner's number,
the word's offset, and the wave and space of the log (17 R405). -/
structure SramWord where
  q : Nat
  isCore : Bool
  src : Nat
  word : Nat
  wave : Nat
  asid : Nat
  deriving DecidableEq, Repr

/-- A word of a core: its thread's space. -/
def coreWord (s : State) (c word : Nat) : SramWord := ⟨coreQuarter c, true, c, word, 0, (thr s c).asid.toNat⟩

/-- A word of an element: the last complete wave and the space of its district. -/
def elemWord (s : State) (e word : Nat) : SramWord :=
  match distOf s e with
  | some (d, _) => ⟨elemQ e, false, e, word, distWave s d, distAsid s d⟩
  | none => ⟨elemQ e, false, e, word, 0, 0⟩

/-- A word of a quarter's own: of its memory-side cache or its sync engine. -/
def quarterWord (q word : Nat) : SramWord := ⟨q, false, 0, word, 0, 0⟩

/-- Is the number an element's address, and the element of this kind (02 R55, R56)? -/
def isKind (e : Nat) (p : Kind → Bool) : Bool := decide (e < 2 ^ 18 ∧ elemX e < 200 ∧ elemY e < 200) && p (elemKind e)

/-! ## The effects (17 R393, R400) -/

def SramWord.log (w : SramWord) (kind : Nat) (s : State) : State := logError w.q kind 0 w.src w.isCore w.word w.wave w.asid s

/-- A corrected error of an on-package word; one that corrected at its last read too is a lasting bit. -/
def sramCorrected (w : SramWord) (u : Upset) (s : State) : State :=
  let s1 := w.log 1 (updQuarter s w.q (fun k => { k with sramce := satInc k.sramce }))
  if s.weak.contains (u, false) then w.log 5 (updQuarter s1 w.q (fun k => { k with last := satInc k.last })) else s1

/-- An uncorrectable error of an on-package word is counted. -/
def sramUncorrectable (w : SramWord) (s : State) : State := w.log 2 (updQuarter s w.q (fun k => { k with sramue := satInc k.sramue }))

/-- An element with a lasting fault is retired (17 R400, R402), with the invocation that it has joined, or that runs in its
district. -/
def retireElem (e : Nat) (s : State) : State :=
  match distOf s e with
  | none => retire 0 0 e s
  | some (d, k) => retire d (((elem s e).joined.orElse (fun _ => k.running.map (fun v => v.id))).getD 0) e s

/-- The effect of an error in a word that is not a clean copy: `mark` poisons the word, which carries poison now if `now`. A word of the
element `owner` that has been rewritten since its last uncorrectable error, and has another, is a lasting fault. -/
def wordError (w : SramWord) (u : Upset) (f : Found) (owner : Option Nat) (now : Bool) (mark : State → State) (s : State) : State :=
  noteRead u f (match f with
    | .none => s
    | .one => sramCorrected w u s
    | .two =>
      let s1 := sramUncorrectable w (mark s)
      match owner with
      | some e => if s.weak.contains (u, true) && !now then retireElem e s1 else s1
      | none => s1)

/-- An error in a clean copy: with two bits the line is dropped and will be fetched again, which counts as one corrected
error. -/
def cleanError (w : SramWord) (u : Upset) (f : Found) (drop : State → State) (s : State) : State :=
  noteRead u f (match f with
    | .none => s
    | .one => sramCorrected w u s
    | .two => w.log 1 (updQuarter (drop s) w.q (fun k => { k with sramce := satInc k.sramce })))

/-! ## The words of elements -/

/-- An error in a word of an element that a map of values holds; an entry that is not listed holds 0 and is listed with its mark. -/
def markLane (m : SMap LaneVal) (key : Nat) : SMap LaneVal := mset m key { mget m key .zero with p := true }

def laneError (e w l : Nat) (f : Found) (s : State) : State :=
  wordError (elemWord s e (16 * w + l)) (.lane e w l) f (some e) (mget (elem s e).ls (16 * w + l) .zero).p
    (fun s => updElem s e (fun x => { x with ls := markLane x.ls (16 * w + l) })) s

/-- An error in a word of a matrix cell, at key `i` of a map of it. -/
def matError (e i : Nat) (u : Upset) (f : Found) (now : Mat → Bool) (mark : Mat → Mat) (s : State) : State :=
  wordError (elemWord s e i) u f (some e) (now (elem s e).mat) (fun s => updElem s e (fun x => x.withMat mark)) s

/-- The word of a landing buffer: a response that a node has and has not sent on. -/
def landingNow (r : NodeReq) (l : Nat) : Bool := match r.res.getD l none with
  | some v => v.p
  | none => false

def landingMark (r : NodeReq) (l : Nat) : NodeReq :=
  { r with res := (List.range r.res.length).map (fun i => (r.res.getD i none).map (fun v => if i = l then { v with p := true } else v)) }

/-- An error in lane n mod 16 of response n div 16 of memory node k of an element. -/
def landingError (e k n : Nat) (f : Found) (s : State) : State :=
  match mget? (elem s e).nodes k with
  | none => s
  | some d => match d.reqs[n / 16]? with
    | none => s
    | some r =>
      if (r.res.getD (n % 16) none).isNone then s
      else wordError (elemWord s e n) (.landing e k n) f (some e) (landingNow r (n % 16))
        (fun s => updElem s e (fun x => { x with nodes := mset x.nodes k { d with reqs := d.reqs.set (n / 16) (landingMark r (n % 16)) } })) s

/-- An error in the coordinate (n even) or the payload of entry n div 2 of a FIBRE repeater's buffer. -/
def fibreBufError (e n : Nat) (f : Found) (s : State) : State :=
  match (elem s e).unit.buf[n / 2]? with
  | none => s
  | some (c, p) =>
    let one := if n % 2 = 0 then ({ c with p := true }, p) else (c, { p with p := true })
    wordError (elemWord s e n) (.fibreBuf e n) f (some e) (if n % 2 = 0 then c.p else p.p)
      (fun s => updElem s e (fun x => x.withUnit (fun u => { u with buf := u.buf.set (n / 2) one }))) s

/-! ## The words of cores and quarters -/

/-- An error in the half n mod 2 of the old bytes of line n div 2 of the undo log of a core's transaction. -/
def undoError (c n : Nat) (f : Found) (s : State) : State :=
  match (thr s c).tx.undo[n / 2]? with
  | none => s
  | some (line, bytes, p0, p1) =>
    let one := if n % 2 = 0 then (line, bytes, true, p1) else (line, bytes, p0, true)
    wordError (quarterWord (homeQuarter (128 * line)) n) (.undo c n) f none (if n % 2 = 0 then p0 else p1)
      (fun s => updThr s c (fun t => { t with tx := { t.tx with undo := t.tx.undo.set (n / 2) one } })) s

/-- An error in a word of a cached line of a peer's page. -/
def cachedError (line w : Nat) (f : Found) (s : State) : State :=
  match lcHolder s line, lcFind s line with
  | some q, some l =>
    if w ≥ 8 then s
    else if l.dirty then
      wordError (quarterWord q w) (.lcache line w) f none (l.marks.contains w) (lcPut q line { l with marks := setIns l.marks w }) s
    else cleanError (quarterWord q w) (.lcache line w) f (lcDel line) s
  | _, _ => s

/-- An error in a held store of a district: its gateway stands at the district's first element. -/
def heldError (d n : Nat) (f : Found) (s : State) : State :=
  match mget? s.districts d with
  | none => s
  | some k => match k.hold[n]? with
    | none => s
    | some h => wordError (elemWord s (k.rect.elem 0 0) n) (.held d n) f none h.pois
        (fun s => updDist s d (fun k => { k with hold := k.hold.set n { h with pois := true } })) s

/-! ## Parity (17 R395, R400) -/

/-- Bad parity in a pipeline register of a core: it is repaired, or the core halts. The spec gives it no register number (log entry 134). -/
def corePipeError (c : Nat) (again : Bool) (s : State) : State :=
  let (f, s1) := drawFree s
  if again then coreParityFail c (bits f 63 0) s1 else countCoreRepair c (bits f 63 0) s1

/-- Bad parity in a pipeline register of a vector cell: the stage is repaired, or a region error raised. -/
def cellPipeError (e : Nat) (again : Bool) (s : State) : State :=
  let (f, s1) := drawFree s
  match active s1 e with
  | some (d, _, v) => if again then regionError d v.id e false (cellTval e 0 0) s1 else countRepair d e (bits f 63 0) s1
  | none => s

/-! ## An error -/

/-- The effect of an error. One that names a place that does not exist has none. -/
def upset (u : Upset) (f : Found) (s : State) : State :=
  match u with
  | .dev line => lineRead line f s
  | .spad e w =>
    if isKind e (· == .store) && decide (w < 8192) then
      wordError (elemWord s e w) u f (some e) (placePois s (.spad e (4 * w))) (markPlace (.spad e (4 * w)) true) s
    else s
  | .loc c w =>
    if c < 256 ∧ w < 8192 then wordError (coreWord s c w) u f none (placePois s (.loc c (4 * w))) (markPlace (.loc c (4 * w)) true) s else s
  | .icache c line =>
    if c < 256 ∧ (mget? (core s c).icache line).isSome then cleanError (coreWord s c 0) u f (dropLines c (some line)) s else s
  | .lane e w l => if isKind e (· == .vector) && decide (w < 512 ∧ l < 16) then laneError e w l f s else s
  | .acc e row n =>
    if isKind e (· == .matrix) && decide (row < 64 ∧ n < 128) then
      matError e (row * 128 + n) u f (fun m => (mget m.acc (row * 128 + n) .zero).p)
        (fun m => { m with acc := markLane m.acc (row * 128 + n) }) s
    else s
  | .macroB e k n =>
    if isKind e (· == .matrix) && decide (k < 256 ∧ n < 128) then
      matError e (n * 256 + k) u f (fun m => (mget m.b (n * 256 + k) .none).p)
        (fun m => { m with b := mset m.b (n * 256 + k) { mget m.b (n * 256 + k) .none with p := true } }) s
    else s
  | .macroScale e k n =>
    if isKind e (· == .matrix) && decide (k < 256 ∧ n < 128) then
      matError e (n * 16 + k / 16) u f (fun m => (mget m.sc (n * 16 + k / 16) .one).p)
        (fun m => { m with sc := mset m.sc (n * 16 + k / 16) { mget m.sc (n * 16 + k / 16) .one with p := true } }) s
    else s
  | .held d n => heldError d n f s
  | .fibre e line =>
    match mget? (elem s e).unit.lines line with
    | none => s
    | some (bytes, p) => wordError (elemWord s e line) u f (some e) p
        (fun s => updElem s e (fun x => x.withUnit (fun v => { v with lines := mset v.lines line (bytes, true) }))) s
  | .fibreBuf e n => fibreBufError e n f s
  | .landing e k n => landingError e k n f s
  | .lockRec n =>
    match s.locks[n]? with
    | none => s
    | some r => wordError (quarterWord (lockEngine r.space r.name r.addr) n) u f none false id s
  | .undo c n => if c < 256 then undoError c n f s else s
  | .lcache line w => cachedError line w f s
  | .reg c r again =>
    if c < 256 ∧ r < 40 ∧ r ≠ 0 ∧ r ≠ 32 ∧ f ≠ .none then updCore s c (fun k => { k with parity := mset k.parity r again }) else s
  | .work e r lane again =>
    if isKind e (· == .vector) && decide (r < 192 ∧ lane < 16 ∧ f ≠ .none) then
      updElem s e (fun x => { x with parity := mset x.parity (16 * r + lane) again })
    else s
  | .corePipe c again => if c < 256 ∧ f ≠ .none then corePipeError c again s else s
  | .cellPipe e again => if isKind e (· == .vector) && f != .none then cellPipeError e again s else s

end Sys2Proof.Machine
end

