-- ==== Sys2Proof/Machine/Step.lean ====
section
/-! DEFINITION. One step of the device: the turn that the agenda names, or that the scheduler picks. -/

namespace Sys2Proof.Machine

/-- The next turn, and the state without it (log entry 4). -/
def takeTurn (s : State) : Turn × State :=
  match s.agenda with
  | [] => (autoTurn s, s)
  | t :: rest => (t, { s with agenda := rest })

/-- A core's turn: it rests, or runs an instruction. -/
def coreStep (c : Nat) (s : State) : Host.Outcome State Fault Refusal :=
  if c < 256 then
    match coreTurn c s with
    | .rest s1 => .next s1
    | .run i s1 => exec i s1
  else .fault (.noSuchCore c)

/-- Runs a turn. A machine event never is an instruction of the control cores. -/
def runTurn (t : Turn) (s : State) : Host.Outcome State Fault Refusal :=
  match t with
  | .pass n => .next (passAll n s)
  | .fabric => fabricTurn s
  | .upset u f => .next (upset u f s)
  | .event i => if i.encoded then .next s else exec i s
  | .peer m => .next (peerTurn m s)
  | .party (.core c) => coreStep c s
  | .party p => runEvents (partyEvents p s) s
  | .core c => coreStep c s

/-- One step. -/
def step (s : State) : Host.Outcome State Fault Refusal := runTurn (takeTurn s).1 (takeTurn s).2

/-- The state with an instruction word placed where the next step fetches it (log entry 11). -/
def State.withFetchWord (s : State) (_nbits w : Nat) : State := placeWord s w

end Sys2Proof.Machine
end

