-- ==== Sys2Proof/Safety.lean ====
section
/-! DEFINITION. What counts as a sound state and a safe step, in the terms of the claims. -/

namespace Sys2Proof.Machine

/-- A step is safe when it neither faults nor is refused. -/
def SafeStep (s : State) : Prop := ∃ t, step s = .next t

/-- The program counter of a thread is word aligned and below 2^56 (03 R71). -/
def Thread.pcOk (t : Thread) : Prop := t.pc.toNat % 4 = 0 ∧ t.pc.toNat < 2 ^ 56

/-- The three memories of a state are in canonical form. -/
def memOk (s : State) : Prop := Memory.wf s.dev = true ∧ Memory.wf s.loc = true ∧ Memory.wf s.spad = true

/-- None of some registers of the running core has bad parity (17 R395); 32 + n stands for predicate n. -/
def Clean (s : State) (regs : List Nat) : Prop := ∀ r ∈ regs, mget? (me s).parity r = none

/-- The instruction at hand has its effect (03 R91; 17 R395): its guard g is true and the registers that it reads are good. -/
def Ready (s : State) (g : Nat) (regs : List Nat) : Prop := rk s g = true ∧ Clean s ((32 + g) :: regs)

/-- TruncQ of 04 R104, over the division that rounds towards minus infinity, as its listing has it. -/
def truncQ (n m : Int) : Int :=
  let q := n.fdiv m
  if q < 0 ∧ q * m ≠ n then q + 1 else q


/-- The first word of an instruction, zero-extended, which ILLEGAL and PRIV report (03 R90). -/
def firstWord (i : Instr) : Word := BitVec.ofNat 64 ((encode i).headD 0)

/-- Trap entry of 04 R124 for a synchronous cause at the current instruction, and nothing else: from s to t. -/
structure TrapEntered (code : BitVec 10) (tval : Word) (s t : State) : Prop where
  sstatus : (th t).sstatus = (th s).status
  status : (th t).status = { (th s).status with supv := true, ie := false, intrap := true }
  cause : (th t).cause = ⟨false, code⟩
  epc : (th t).epc = BitVec.ofNat 54 ((th s).pc.toNat / 4)
  tval : (th t).tval = tval
  iter : (th t).iter = 0
  pc : (th t).pc = pcOf ((me s).tvec.toNat * 256)
  x : ∀ r, rx t r = rx s r
  k : ∀ r, rk t r = rk s r
  loops : (th t).loop0 = (th s).loop0 ∧ (th t).loop1 = (th s).loop1
  tvec : (me t).tvec = (me s).tvec
  cores : ∀ c, c ≠ s.cur → core t c = core s c
  mem : t.dev = s.dev ∧ t.loc = s.loc ∧ t.spad = s.spad

/-- A double fault of 13 R348 at the current instruction: from s to t. -/
structure DoubleFaulted (code : BitVec 10) (tval : Word) (s t : State) : Prop where
  dcause : (me t).dcause = ⟨false, code⟩
  depc : (me t).depc = BitVec.ofNat 54 ((th s).pc.toNat / 4)
  dtval : (me t).dtval = tval
  dstatus : (me t).dstatus = (th s).status
  stopped : (me t).cstat = 3
  kept : (th t).cause = (th s).cause ∧ (th t).epc = (th s).epc ∧ (th t).tval = (th s).tval ∧ (th t).sstatus = (th s).sstatus
  x : ∀ r, rx t r = rx s r
  told : s.cur ≠ coreQuarter s.cur * 64 → (core t (coreQuarter s.cur * 64)).events =
    (core s (coreQuarter s.cur * 64)).events ++ [⟨0x381, BitVec.ofNat 64 s.cur, 0⟩]
  owner : t.trust.evt = s.trust.evt ||| BitVec.ofNat 16 (2 ^ (12 + coreQuarter s.cur))
  mem : t.dev = s.dev ∧ t.loc = s.loc ∧ t.spad = s.spad

/-- An access of w bytes at a that the checks of 05 R140 let through to the places ps, all of them on this device, in
memory, not on a page that moves, and not part of a transaction; s1 is the state after the translation. -/
structure PlainAccess (s : State) (a w : Nat) (n : Need) (strict : Bool) (ps : List Place) (s1 : State) : Prop where
  checked : access s s.cur a w n strict = (.ok ps, s1)
  noHub : ps.any isHub = false
  here : ps.any (faraway s1) = false
  free : winBusy s1 a w = false
  plain : lcMode s1 a ps = false
  noTx : (th s1).status.txn = false ∨ region a ≠ 0

/-- Are two places of this device the same byte? -/
def sameByte (p q : Place) : Bool :=
  match p, q with
  | .dev a, .dev b => a == b
  | .loc c o, .loc d u => locKey c o == locKey d u
  | .spad e o, .spad f u => spadKey e o == spadKey f u
  | _, _ => false

/-- Does a store of clean bytes at the places ps empty the byte at p: it stands in a line of device memory that carries a mark and that
the store reaches (17 R394)? -/
def wiped (s : State) (ps : List Place) (p : Place) : Bool :=
  match p with
  | .dev a => isPois s.dev (a / 64) && ps.any (fun q => match q with
      | .dev b => b / 64 == a / 64
      | _ => false)
  | _ => false

/-- The bytes bs have been stored at the places ps by the current instruction, which has completed: from s to t. Where two of the places
are one byte, the later one counts. -/
structure Stored (s t : State) (ps : List Place) (bs : List Byte) : Prop where
  written : ∀ (j : Nat) (p : Place) (b : Byte), ps[j]? = some p → bs[j]? = some b →
    (∀ (k : Nat) (q : Place), j < k → ps[k]? = some q → sameByte p q = false) → placeByte t p = b
  others : ∀ p, (∀ q ∈ ps, sameByte p q = false) → placeByte t p = if wiped s ps p then 0 else placeByte s p
  x : ∀ r, rx t r = rx s r
  k : ∀ r, rk t r = rk s r
  tags : t.dev.full = s.dev.full ∧ t.loc.full = s.loc.full ∧ t.spad.full = s.spad.full
  thread : (th t).status = (th s).status ∧ (th t).bar = (th s).bar ∧ (th t).tx = (th s).tx ∧ (th t).age = (th s).age
  pc : (th t).pc = (th (advance 4 s)).pc

/-- An operation has been sent with its completion object at p emptied (06 R169): from s to t. -/
structure ObjectEmptied (s t : State) (p : Place) (len : Nat) : Prop where
  word : leNat (placeRead t p 4) = 0
  tag : placeTag t p = false
  pc : (th t).pc = (th (advance len s)).pc
  wait : (th t).wait = .none
  x : ∀ i, rx t i = rx s i
  k : ∀ i, rk t i = rk s i

/-- A completion object at p holds its four words, and its tag is full (06 R170). -/
structure ObjectSet (t : State) (p : Place) (w0 w1 w2 w3 : Nat) : Prop where
  word0 : leNat (placeRead t p 4) = w0
  word1 : leNat (placeRead t (p.plus 4) 4) = w1
  word2 : leNat (placeRead t (p.plus 8) 4) = w2
  word3 : leNat (placeRead t (p.plus 12) 4) = w3
  full : placeTag t p = true

end Sys2Proof.Machine
end

