-- ==== Sys2Proof/Certificates/Slice0/Obligations.lean ====
section
/-! DEFINITION. The statements about the model, one definition for each obligation. -/

open Sys2Proof Sys2Proof.Machine

/-- 03 R85 to R89, with words of the listings of chapters 04 to 06. -/
def Obligations.SpecWordsDecode : Prop :=
  decodeWords 0x02A52C00 0 = some (.add 10 10 11 0) ∧
  decodeWords 0x02C5340C 0 = some (.divI64 12 10 13 0) ∧
  decodeWords 0x02E5340E 0 = some (.remI64 14 10 13 0) ∧
  decodeWords 0x04B58001 0 = some (.addi 11 11 0 1) ∧
  decodeWords 0x04D00FFC 0 = some (.addi 13 0 0 0xFFC) ∧
  decodeWords 0x44048002 0 = some (.loop 0 9 0 2) ∧
  decodeWords 0x42008000 0 = some (.callr 0 1 0 0) ∧
  decodeWords 0x24338000 0 = some (.cmpiLtI64 3 7 0 0) ∧
  decodeWords 0x12500000 0x7FFFFFF0 = some (.li 5 0 0x7FFFFFF0) ∧
  decodeWords 0x5B8A0004 0 = some (.ldN32 24 20 0 4) ∧
  decodeWords 0x697A0001 0 = some (.tldKeep 23 20 0) ∧
  decodeWords 0x70929C0B 0 = some (.amoSnap 9 5 7 0) ∧
  decodeWords 0x7002A00C 0 = some (.amoVaddN32 5 8 0) ∧
  decodeWords 0x854AD800 0x00500C3F = some (.dmaLd 20 21 22 0 0x00500C3F) ∧
  decodeWords 0xFE000000 0 = some .brk ∧
  decodeWords 0 0 = none ∧
  decodeWords 0x0272981B 0 = none

/-- 03 R85 to R89: no bit of an encoding is dropped. -/
def Obligations.EncodedBytesDecode : Prop :=
  ∀ (i : Instr) (rest : List Byte), i.encoded = true → i.wf = true →
    decode (encodeBytes i ++ rest) = some (i, rest)

/-- 03 R86, R88, R89: every word outside the encodings is refused. -/
def Obligations.DecodedBytesEncode : Prop :=
  ∀ (bs : List Byte) (i : Instr) (rest : List Byte), decode bs = some (i, rest) →
    i.wf = true ∧ i.encoded = true ∧ bs = encodeBytes i ++ rest

/-- 03 R90; which turn is next is the model's own (log entry 4). -/
def Obligations.StepRunsDecodedInstruction : Prop :=
  ∀ (s s2 : State) (c : Nat) (i : Instr), (takeTurn s).1 = .core c → c < 256 →
    runsNow (issueSlot c (takeTurn s).2) c = true →
    boundaryTurn c (issueSlot c (takeTurn s).2) = none →
    (thr (issueSlot c (takeTurn s).2) c).wait.issues = true →
    fetchInstr (issueSlot c (takeTurn s).2) c = (.ok i, s2) →
    step s = exec i s2

/-- 03 R73, R85, R87, R90 steps 1 and 2; 17 R393.
Where the spec leaves a point open it follows the model's choice: log entry 1. -/
def Obligations.FetchReadsInstructionBytes : Prop :=
  (∀ (s s1 : State) (c va a : Nat), bytePlace s c va needX true = (.ok (.dev a), s1) → a % 64 = va % 64 → va % 4 = 0 →
    mget? (core s1 c).icache (lineKey (thr s1 c).asid.toNat va) = none → migAt s1 (.dev a) = none →
    (placeReadPois s1 (.dev a) 4 = false → (fetchWord s c va).1 = .ok (leNat (placeRead s1 (.dev a) 4))) ∧
    (placeReadPois s1 (.dev a) 4 = true → (fetchWord s c va).1 = .error (.cause 0x109 (BitVec.ofNat 64 va)))) ∧
  (∀ (s s1 : State) (c va : Nat) (p : Place) (l : ILine), bytePlace s c va needX true = (.ok p, s1) → isHub p = false →
    mget? (core s1 c).icache (lineKey (thr s1 c).asid.toNat va) = some l → l.bad = [] →
    fetchWord s c va = (.ok (leNat ((l.bytes.drop (va % 64)).take 4)), s1)) ∧
  (∀ (s s1 : State) (c w : Nat) (i : Instr), fetchWord s c (thr s c).pc.toNat = (.ok w, s1) → isX w = false →
    decodeWords w 0 = some i → fetchInstr s c = (.ok i, s1)) ∧
  (∀ (s s1 s2 : State) (c w e : Nat) (i : Instr), fetchWord s c (thr s c).pc.toNat = (.ok w, s1) → isX w = true →
    fetchWord s1 c (((thr s c).pc.toNat + 4) % 2 ^ 56) = (.ok e, s2) →
    decodeWords w e = some i → fetchInstr s c = (.ok i, s2)) ∧
  (∀ (s s1 : State) (c w : Nat), fetchWord s c (thr s c).pc.toNat = (.ok w, s1) → isX w = false →
    decodeWords w 0 = none → fetchInstr s c = (.error (.cause 0x001 (BitVec.ofNat 64 w)), s1))

/-- 03 R71, R72, R78 to R84. -/
def Obligations.ResetRegistersOfCores : Prop :=
  ∀ c : Nat, c < 256 →
    (∀ r, (thr State.reset c).getX r = 0) ∧ (∀ r, (thr State.reset c).getK r = (r == 0)) ∧
    (thr State.reset c).q = [] ∧ (thr State.reset c).bar = [] ∧ (thr State.reset c).pc = 0 ∧
    sysRead c 0x000 State.reset = BitVec.ofNat 64 (0xFF0001 + 256 * c + if c % 64 = 0 then 128 else 0) ∧
    sysRead c 0x001 State.reset = 1 ∧
    (∀ n ∈ [0x002, 0x003, 0x004, 0x005, 0x006, 0x007, 0x008, 0x010, 0x011, 0x012, 0x013, 0x020, 0x021, 0x022, 0x023,
      0x030, 0x031, 0x032, 0x033, 0x040], sysRead c n State.reset = 0) ∧
    sysRead c 0x024 State.reset = 1 ∧ sysRead c 0x041 State.reset = 0x00100000

/-- 03 R71, 04 R101: the frame of the register instructions, which all end with one of these. -/
def Obligations.ResultFrame : Prop :=
  ∀ (s t : State) (rd n : Nat) (v : Word) (b : Bool),
    (t = retX rd v s ∨ t = retK rd b s ∨ t = advance n s ∨ t = jump n s) →
    (rx (retX rd v s) rd = if rd = 0 then 0 else v) ∧
    (∀ r, r ≠ rd → rx (retX rd v s) r = rx s r) ∧ (∀ r, rk (retX rd v s) r = rk s r) ∧
    (rk (retK rd b s) rd = (rd == 0 || b)) ∧
    (∀ r, r ≠ rd → rk (retK rd b s) r = rk s r) ∧ (∀ r, rx (retK rd b s) r = rx s r) ∧
    (∀ r, rx (advance n s) r = rx s r ∧ rk (advance n s) r = rk s r ∧ rx (jump n s) r = rx s r ∧ rk (jump n s) r = rk s r) ∧
    (th t).status = (th s).status ∧ (th t).sstatus = (th s).sstatus ∧ (th t).cause = (th s).cause ∧
    (th t).epc = (th s).epc ∧ (th t).tval = (th s).tval ∧ (th t).scratch = (th s).scratch ∧ (th t).iter = (th s).iter ∧
    (th t).asid = (th s).asid ∧ (th t).age = (th s).age ∧ (th t).q = (th s).q ∧ (th t).bar = (th s).bar ∧
    (th t).tagwait = (th s).tagwait ∧ (th t).bind = (th s).bind ∧ (th t).tx = (th s).tx ∧
    (∀ c, c ≠ s.cur → core t c = core s c) ∧ t.dev = s.dev ∧ t.loc = s.loc ∧ t.spad = s.spad ∧
    t.reqs = s.reqs ∧ t.hub = s.hub ∧ t.locks = s.locks ∧ t.elems = s.elems ∧ t.districts = s.districts ∧ t.quarters = s.quarters

/-- 04 R120; END of level n is CC_LSTARTn.START × 4 + 4 × BODY − 4. -/
def Obligations.CompletionChecksLoopEnds : Prop :=
  ∀ (t : Thread) (len last : Nat), last = t.pc.toNat + len - 4 →
    let ends (l : HwLoop) : Prop := l.body ≠ 0 ∧ last = l.start.toNat * 4 + 4 * l.body.toNat - 4
    (ends t.loop1 → t.loop1.count ≠ 0 →
      (t.step len).loop1.count = t.loop1.count - 1 ∧ (t.step len).loop1.body = t.loop1.body ∧
      (t.step len).loop0 = t.loop0 ∧ (t.step len).pc = BitVec.ofNat 64 (t.loop1.start.toNat * 4)) ∧
    (ends t.loop1 → t.loop1.count = 0 → (t.step len).loop1.body = 0) ∧
    (¬ ends t.loop1 → (t.step len).loop1 = t.loop1) ∧
    (¬ (ends t.loop1 ∧ t.loop1.count ≠ 0) → ends t.loop0 → t.loop0.count ≠ 0 →
      (t.step len).loop0.count = t.loop0.count - 1 ∧ (t.step len).loop0.body = t.loop0.body ∧
      (t.step len).pc = BitVec.ofNat 64 (t.loop0.start.toNat * 4)) ∧
    (¬ (ends t.loop1 ∧ t.loop1.count ≠ 0) → ends t.loop0 → t.loop0.count = 0 →
      (t.step len).loop0.body = 0 ∧ (t.step len).pc = pcOf (t.pc.toNat + len)) ∧
    (¬ (ends t.loop1 ∧ t.loop1.count ≠ 0) → ¬ ends t.loop0 →
      (t.step len).loop0 = t.loop0 ∧ (t.step len).pc = pcOf (t.pc.toNat + len)) ∧
    (∀ r, (t.step len).getX r = t.getX r) ∧ (∀ r, (t.step len).getK r = t.getK r) ∧ (t.step len).wait = .none

/-- 04 R103, but for its division rows (R104). -/
def Obligations.IntegerInstructions : Prop :=
  ∀ (s : State) (rd ra rb g : Nat) (a b : Word), a = rx s ra → b = rx s rb →
    (Ready s g [ra, rb] →
      exec (.add rd ra rb g) s = .next (retX rd (a + b) s) ∧
      exec (.sub rd ra rb g) s = .next (retX rd (a - b) s) ∧
      exec (.and rd ra rb g) s = .next (retX rd (a &&& b) s) ∧
      exec (.or rd ra rb g) s = .next (retX rd (a ||| b) s) ∧
      exec (.xor rd ra rb g) s = .next (retX rd (a ^^^ b) s) ∧
      exec (.andn rd ra rb g) s = .next (retX rd (a &&& ~~~ b) s) ∧
      exec (.sll rd ra rb g) s = .next (retX rd (a <<< (b &&& 63)) s) ∧
      exec (.srl rd ra rb g) s = .next (retX rd (a >>> (b &&& 63)) s) ∧
      exec (.sra rd ra rb g) s = .next (retX rd (a.sshiftRight' (b &&& 63)) s) ∧
      exec (.mul rd ra rb g) s = .next (retX rd (a * b) s) ∧
      exec (.mulhI64 rd ra rb g) s = .next (retX rd ((a.signExtend 128 * b.signExtend 128).extractLsb' 64 64) s) ∧
      exec (.mulhN64 rd ra rb g) s = .next (retX rd ((a.setWidth 128 * b.setWidth 128).extractLsb' 64 64) s) ∧
      exec (.minI64 rd ra rb g) s = .next (retX rd (if a.slt b then a else b) s) ∧
      exec (.maxI64 rd ra rb g) s = .next (retX rd (if a.slt b then b else a) s) ∧
      exec (.minN64 rd ra rb g) s = .next (retX rd (if a < b then a else b) s) ∧
      exec (.maxN64 rd ra rb g) s = .next (retX rd (if a < b then b else a) s) ∧
      exec (.addsI32 rd ra rb g) s = .next (retX rd (BitVec.ofInt 64
        (max (-2 ^ 31) (min (2 ^ 31 - 1) ((a.setWidth 32).toInt + (b.setWidth 32).toInt)))) s) ∧
      exec (.subsI32 rd ra rb g) s = .next (retX rd (BitVec.ofInt 64
        (max (-2 ^ 31) (min (2 ^ 31 - 1) ((a.setWidth 32).toInt - (b.setWidth 32).toInt)))) s) ∧
      exec (.addsI64 rd ra rb g) s = .next (retX rd (BitVec.ofInt 64
        (max (-2 ^ 63) (min (2 ^ 63 - 1) (a.toInt + b.toInt)))) s) ∧
      exec (.subsI64 rd ra rb g) s = .next (retX rd (BitVec.ofInt 64
        (max (-2 ^ 63) (min (2 ^ 63 - 1) (a.toInt - b.toInt)))) s)) ∧
    (Ready s g [ra] →
      (∃ n : Nat, exec (.clz rd ra g) s = .next (retX rd (BitVec.ofNat 64 n) s) ∧
        (a = 0 → n = 64) ∧ (a ≠ 0 → n < 64 ∧ 2 ^ (63 - n) ≤ a.toNat ∧ a.toNat < 2 ^ (64 - n))) ∧
      (∃ n : Nat, exec (.ctz rd ra g) s = .next (retX rd (BitVec.ofNat 64 n) s) ∧
        (a = 0 → n = 64) ∧ (a ≠ 0 → a.getLsbD n = true ∧ ∀ i, i < n → a.getLsbD i = false)) ∧
      exec (.popc rd ra g) s = .next (retX rd
        (BitVec.ofNat 64 (Finset.univ.filter (fun i : Fin 64 => a.getLsbD i = true)).card) s))

/-- 04 R104; `truncQ` is the listing's TruncQ, over the division that rounds towards minus infinity. -/
def Obligations.DivisionRoundsTowardsZero : Prop :=
  ∀ (s : State) (rd ra rb g : Nat) (n m : Int) (u v : Nat), Ready s g [ra, rb] →
    n = (rx s ra).toInt → m = (rx s rb).toInt → u = (rx s ra).toNat → v = (rx s rb).toNat →
    exec (.divI64 rd ra rb g) s = .next (retX rd (BitVec.ofInt 64
      (if m = 0 then -1 else if n = -2 ^ 63 ∧ m = -1 then -2 ^ 63 else truncQ n m)) s) ∧
    exec (.remI64 rd ra rb g) s = .next (retX rd (BitVec.ofInt 64
      (if m = 0 then n else if n = -2 ^ 63 ∧ m = -1 then 0 else n - truncQ n m * m)) s) ∧
    exec (.divN64 rd ra rb g) s = .next (retX rd (BitVec.ofNat 64 (if v = 0 then 2 ^ 64 - 1 else u / v)) s) ∧
    exec (.remN64 rd ra rb g) s = .next (retX rd (BitVec.ofNat 64 (if v = 0 then u else u - u / v * v)) s) ∧
    (m ≠ 0 → (0 ≤ n → 0 ≤ n - truncQ n m * m) ∧ (n ≤ 0 → n - truncQ n m * m ≤ 0)) ∧
    (n = -15 → m = 4 → exec (.divI64 rd ra rb g) s = .next (retX rd (-3) s) ∧
      exec (.remI64 rd ra rb g) s = .next (retX rd (-3) s))

/-- 04 R105 to R108. -/
def Obligations.ImmediateAndConstantInstructions : Prop :=
  ∀ (s : State) (rd ra g imm n ext : Nat) (a m u : Word), a = rx s ra → m = (BitVec.ofNat 12 imm).signExtend 64 →
    u = ((BitVec.ofNat 20 imm) ++ (0 : BitVec 12)).signExtend 64 →
    (Ready s g [ra] →
      exec (.addi rd ra g imm) s = .next (retX rd (a + m) s) ∧
      exec (.andi rd ra g imm) s = .next (retX rd (a &&& m) s) ∧
      exec (.ori rd ra g imm) s = .next (retX rd (a ||| m) s) ∧
      exec (.xori rd ra g imm) s = .next (retX rd (a ^^^ m) s) ∧
      exec (.slli rd ra g n) s = .next (retX rd (a <<< n) s) ∧
      exec (.srli rd ra g n) s = .next (retX rd (a >>> n) s) ∧
      exec (.srai rd ra g n) s = .next (retX rd (a.sshiftRight n) s)) ∧
    exec (.ldhi rd imm) s = .next (retX rd u s) ∧
    exec (.addpc rd imm) s = .next (retX rd ((th s).pc + u) s) ∧
    (Ready s g [] → exec (.li rd g ext) s = .next (advance 8 (wx s rd ((BitVec.ofNat 32 ext).signExtend 64)))) ∧
    (Ready s g [rd] → exec (.lih rd g ext) s =
      .next (advance 8 (wx s rd ((BitVec.ofNat 32 ext) ++ (rx s rd).setWidth 32))))

/-- 04 R110 to R113. -/
def Obligations.ComparisonsAndPredicateLogic : Prop :=
  ∀ (s : State) (rd ra rb g imm : Nat) (a b m : Word), a = rx s ra → b = rx s rb → m = (BitVec.ofNat 12 imm).signExtend 64 →
    (Ready s g [ra, rb] →
      exec (.cmpEq rd ra rb g) s = .next (retK rd (decide (a = b)) s) ∧
      exec (.cmpNe rd ra rb g) s = .next (retK rd (decide (a ≠ b)) s) ∧
      exec (.cmpLtI64 rd ra rb g) s = .next (retK rd (a.slt b) s) ∧
      exec (.cmpGeI64 rd ra rb g) s = .next (retK rd (b.sle a) s) ∧
      exec (.cmpLtN64 rd ra rb g) s = .next (retK rd (a.ult b) s) ∧
      exec (.cmpGeN64 rd ra rb g) s = .next (retK rd (b.ule a) s)) ∧
    (Ready s g [ra] →
      exec (.cmpiEq rd ra g imm) s = .next (retK rd (decide (a = m)) s) ∧
      exec (.cmpiLtI64 rd ra g imm) s = .next (retK rd (a.slt m) s) ∧
      exec (.cmpiLtN64 rd ra g imm) s = .next (retK rd (a.ult m) s)) ∧
    (Ready s g [32 + ra, 32 + rb] →
      exec (.kand rd ra rb g) s = .next (retK rd (rk s ra && rk s rb) s) ∧
      exec (.kor rd ra rb g) s = .next (retK rd (rk s ra || rk s rb) s) ∧
      exec (.kxor rd ra rb g) s = .next (retK rd (rk s ra ^^ rk s rb) s) ∧
      exec (.kandn rd ra rb g) s = .next (retK rd (rk s ra && !rk s rb) s)) ∧
    (Ready s g [32 + ra] →
      exec (.knot rd ra g) s = .next (retK rd (!rk s ra) s) ∧
      exec (.kmov rd ra g) s = .next (retK rd (rk s ra) s) ∧
      exec (.kget rd ra g) s = .next (retX rd (if rk s ra then 1 else 0) s)) ∧
    (Clean s [ra, rb, 32 + g] →
      exec (.sel rd ra rb g) s = .next (retX rd (if rk s g then a else b) s))

/-- 04 R114, R115, and R118 for a PC-relative target. -/
def Obligations.BranchesCompareAndJump : Prop :=
  ∀ (s : State) (ra rb ofs t : Nat) (a b : Word), a = rx s ra → b = rx s rb →
    t = (((th s).pc.toNat + 4 * (BitVec.ofNat 15 ofs).toInt) % 2 ^ 56).toNat →
    (Clean s [ra, rb] →
      exec (.beq ra rb ofs) s = .next (if a = b then jump t s else advance 4 s) ∧
      exec (.bne ra rb ofs) s = .next (if a ≠ b then jump t s else advance 4 s) ∧
      exec (.bltI64 ra rb ofs) s = .next (if a.slt b then jump t s else advance 4 s) ∧
      exec (.bgeI64 ra rb ofs) s = .next (if b.sle a then jump t s else advance 4 s) ∧
      exec (.bltN64 ra rb ofs) s = .next (if a.ult b then jump t s else advance 4 s) ∧
      exec (.bgeN64 ra rb ofs) s = .next (if b.ule a then jump t s else advance 4 s)) ∧
    (Clean s [32 + ra] →
      exec (.bk ra ofs) s = .next (if rk s ra then jump t s else advance 4 s) ∧
      exec (.bnk ra ofs) s = .next (if rk s ra then advance 4 s else jump t s)) ∧
    ((th s).pc.toNat % 4 = 0 → (th (jump t s)).pc = BitVec.ofNat 64 t) ∧
    (th (jump t s)).loop0 = (th s).loop0 ∧ (th (jump t s)).loop1 = (th s).loop1

/-- 04 R116 to R119. -/
def Obligations.CallsAndHardwareLoops : Prop :=
  (∀ (s : State) (rd ofs : Nat),
    exec (.call rd ofs) s = .next (jump (((th s).pc.toNat + 4 * (BitVec.ofNat 20 ofs).toInt) % 2 ^ 56).toNat
      (wx s rd (pcOf ((th s).pc.toNat + 4))))) ∧
  (∀ (s : State) (rd ra g imm : Nat) (t : Word), Ready s g [ra] → t = rx s ra + (BitVec.ofNat 12 imm).signExtend 64 →
    exec (.callr rd ra g imm) s = .next (if t.toNat % 4 ≠ 0 ∨ 2 ^ 56 ≤ t.toNat then trap 0x004 t s
      else jump t.toNat (wx s rd (pcOf ((th s).pc.toNat + 4))))) ∧
  (∀ (s : State) (lv ra g len : Nat) (l : HwLoop) (nest : Prop), Ready s g [ra] → lv < 2 →
    l = (if lv = 0 then (th s).loop0 else (th s).loop1) →
    (nest ↔ l.body ≠ 0 ∨ (lv = 0 ∧ (th s).loop1.body ≠ 0) ∨ (lv = 1 ∧ (th s).loop0.body ≠ 0 ∧
      (th s).pc.toNat + 4 + 4 * len > (th s).loop0.start.toNat * 4 + 4 * (th s).loop0.body.toNat)) →
    (nest → exec (.loop lv ra g len) s = .next (trap 0x005 (rx s ra) s)) ∧
    (¬ nest → (rx s ra).toNat > 2 ^ 32 → exec (.loop lv ra g len) s = .next (trap 0x006 (rx s ra) s)) ∧
    (¬ nest → (rx s ra).toNat = 0 → exec (.loop lv ra g len) s = .next (jump (((th s).pc.toNat + 4 + 4 * len) % 2 ^ 56) s)) ∧
    (¬ nest → 0 < (rx s ra).toNat → (rx s ra).toNat ≤ 2 ^ 32 → ∃ (t : State), exec (.loop lv ra g len) s = .next t ∧
      (th t).pc = (th (advance 4 s)).pc ∧ (∀ r, rx t r = rx s r) ∧
      (if lv = 0 then (th t).loop0 else (th t).loop1) =
        ⟨BitVec.ofNat 32 ((rx s ra).toNat - 1), BitVec.ofNat 16 len, BitVec.ofNat 54 (((th s).pc.toNat + 4) % 2 ^ 56 / 4)⟩))

/-- 03 R91, after the checks of R90 steps 2 and 3: a false guard, which is the one register that the instruction reads. -/
def Obligations.FalseGuardOnlyAdvances : Prop :=
  ∀ (s : State) (rd ra rb g imm w sc lv md lp : Nat), mget? (me s).parity (32 + g) = none → rk s g = false →
    (exec (.add rd ra rb g) s = .next (advance 4 s) ∧
    exec (.sub rd ra rb g) s = .next (advance 4 s) ∧
    exec (.and rd ra rb g) s = .next (advance 4 s) ∧
    exec (.or rd ra rb g) s = .next (advance 4 s) ∧
    exec (.xor rd ra rb g) s = .next (advance 4 s) ∧
    exec (.andn rd ra rb g) s = .next (advance 4 s) ∧
    exec (.sll rd ra rb g) s = .next (advance 4 s) ∧
    exec (.srl rd ra rb g) s = .next (advance 4 s) ∧
    exec (.sra rd ra rb g) s = .next (advance 4 s) ∧
    exec (.mul rd ra rb g) s = .next (advance 4 s) ∧
    exec (.mulhI64 rd ra rb g) s = .next (advance 4 s) ∧
    exec (.mulhN64 rd ra rb g) s = .next (advance 4 s) ∧
    exec (.divI64 rd ra rb g) s = .next (advance 4 s) ∧
    exec (.divN64 rd ra rb g) s = .next (advance 4 s) ∧
    exec (.remI64 rd ra rb g) s = .next (advance 4 s) ∧
    exec (.remN64 rd ra rb g) s = .next (advance 4 s) ∧
    exec (.minI64 rd ra rb g) s = .next (advance 4 s) ∧
    exec (.maxI64 rd ra rb g) s = .next (advance 4 s) ∧
    exec (.minN64 rd ra rb g) s = .next (advance 4 s) ∧
    exec (.maxN64 rd ra rb g) s = .next (advance 4 s) ∧
    exec (.addsI32 rd ra rb g) s = .next (advance 4 s) ∧
    exec (.subsI32 rd ra rb g) s = .next (advance 4 s) ∧
    exec (.addsI64 rd ra rb g) s = .next (advance 4 s) ∧
    exec (.subsI64 rd ra rb g) s = .next (advance 4 s) ∧
    exec (.clz rd ra g) s = .next (advance 4 s) ∧
    exec (.ctz rd ra g) s = .next (advance 4 s) ∧
    exec (.popc rd ra g) s = .next (advance 4 s) ∧
    exec (.addi rd ra g imm) s = .next (advance 4 s) ∧
    exec (.andi rd ra g imm) s = .next (advance 4 s) ∧
    exec (.ori rd ra g imm) s = .next (advance 4 s) ∧
    exec (.xori rd ra g imm) s = .next (advance 4 s) ∧
    exec (.slli rd ra g imm) s = .next (advance 4 s) ∧
    exec (.srli rd ra g imm) s = .next (advance 4 s) ∧
    exec (.srai rd ra g imm) s = .next (advance 4 s) ∧
    exec (.li rd g imm) s = .next (advance 8 s) ∧
    exec (.lih rd g imm) s = .next (advance 8 s) ∧
    exec (.cmpEq rd ra rb g) s = .next (advance 4 s) ∧
    exec (.cmpNe rd ra rb g) s = .next (advance 4 s) ∧
    exec (.cmpLtI64 rd ra rb g) s = .next (advance 4 s) ∧
    exec (.cmpGeI64 rd ra rb g) s = .next (advance 4 s) ∧
    exec (.cmpLtN64 rd ra rb g) s = .next (advance 4 s) ∧
    exec (.cmpGeN64 rd ra rb g) s = .next (advance 4 s) ∧
    exec (.kand rd ra rb g) s = .next (advance 4 s) ∧
    exec (.kor rd ra rb g) s = .next (advance 4 s) ∧
    exec (.kxor rd ra rb g) s = .next (advance 4 s) ∧
    exec (.kandn rd ra rb g) s = .next (advance 4 s) ∧
    exec (.knot rd ra g) s = .next (advance 4 s) ∧
    exec (.kmov rd ra g) s = .next (advance 4 s) ∧
    exec (.kget rd ra g) s = .next (advance 4 s) ∧
    exec (.cmpiEq rd ra g imm) s = .next (advance 4 s) ∧
    exec (.cmpiLtI64 rd ra g imm) s = .next (advance 4 s) ∧
    exec (.cmpiLtN64 rd ra g imm) s = .next (advance 4 s) ∧
    exec (.callr rd ra g imm) s = .next (advance 4 s) ∧
    exec (.loop lp ra g imm) s = .next (advance 4 s) ∧
    exec (.ldI8 rd ra g imm) s = .next (advance 4 s) ∧
    exec (.ldN8 rd ra g imm) s = .next (advance 4 s) ∧
    exec (.ldI16 rd ra g imm) s = .next (advance 4 s) ∧
    exec (.ldN16 rd ra g imm) s = .next (advance 4 s) ∧
    exec (.ldI32 rd ra g imm) s = .next (advance 4 s) ∧
    exec (.ldN32 rd ra g imm) s = .next (advance 4 s) ∧
    exec (.ldI64 rd ra g imm) s = .next (advance 4 s) ∧
    exec (.stN8 rb ra g imm) s = .next (advance 4 s) ∧
    exec (.stN16 rb ra g imm) s = .next (advance 4 s) ∧
    exec (.stN32 rb ra g imm) s = .next (advance 4 s) ∧
    exec (.stN64 rb ra g imm) s = .next (advance 4 s) ∧
    exec (.tldTake rd ra g) s = .next (advance 4 s) ∧
    exec (.tldKeep rd ra g) s = .next (advance 4 s) ∧
    exec (.tstFill ra rb g) s = .next (advance 4 s) ∧
    exec (.tstSet ra rb g) s = .next (advance 4 s) ∧
    exec (.tagGet rd ra g) s = .next (advance 4 s) ∧
    exec (.tagClr ra g) s = .next (advance 4 s) ∧
    exec (.amoAdd rd ra rb g w) s = .next (advance 4 s) ∧
    exec (.amoAnd rd ra rb g w) s = .next (advance 4 s) ∧
    exec (.amoOr rd ra rb g w) s = .next (advance 4 s) ∧
    exec (.amoXor rd ra rb g w) s = .next (advance 4 s) ∧
    exec (.amoMinSigned rd ra rb g w) s = .next (advance 4 s) ∧
    exec (.amoMaxSigned rd ra rb g w) s = .next (advance 4 s) ∧
    exec (.amoMinUnsigned rd ra rb g w) s = .next (advance 4 s) ∧
    exec (.amoMaxUnsigned rd ra rb g w) s = .next (advance 4 s) ∧
    exec (.amoSwap rd ra rb g w) s = .next (advance 4 s) ∧
    exec (.amoCas rd ra rb g w) s = .next (advance 4 s) ∧
    exec (.amoAddF32 rd ra rb g) s = .next (advance 4 s) ∧
    exec (.amoSnap rd ra rb g) s = .next (advance 4 s) ∧
    exec (.amoVaddN32 ra rb g) s = .next (advance 4 s) ∧
    exec (.amoVaddF32 ra rb g) s = .next (advance 4 s) ∧
    exec (.amoLd rd ra g w) s = .next (advance 4 s) ∧
    exec (.fence g sc) s = .next (advance 4 s) ∧
    exec (.acq ra g sc) s = .next (advance 4 s) ∧
    exec (.rel ra g sc) s = .next (advance 4 s) ∧
    exec (.bind rd ra rb g) s = .next (advance 4 s) ∧
    exec (.unbind rd g) s = .next (advance 4 s) ∧
    exec (.barInit ra g imm) s = .next (advance 4 s) ∧
    exec (.barArrive rd ra g imm) s = .next (advance 4 s) ∧
    exec (.barWait rd ra g imm) s = .next (advance 4 s) ∧
    exec (.barSync ra g imm) s = .next (advance 4 s) ∧
    exec (.lkReq rd ra g lv md) s = .next (advance 4 s) ∧
    exec (.lkTry rd ra g lv md) s = .next (advance 4 s) ∧
    exec (.lkUp rd ra g lv md) s = .next (advance 4 s) ∧
    exec (.lkRel ra g) s = .next (advance 4 s) ∧
    exec (.lkRelall g) s = .next (advance 4 s) ∧
    exec (.lkQuery rd ra g) s = .next (advance 4 s) ∧
    exec (.txBegin rd ra g) s = .next (advance 4 s) ∧
    exec (.txEnd rd g) s = .next (advance 4 s) ∧
    exec (.txAbort ra g) s = .next (advance 4 s) ∧
    exec (.txStat rd g) s = .next (advance 4 s) ∧
    exec (.spawn rd ra g) s = .next (advance 4 s) ∧
    exec (.done g) s = .next (advance 4 s) ∧
    exec (.joinInit rd ra rb g) s = .next (advance 4 s) ∧
    exec (.chunk rd ra g) s = .next (advance 4 s) ∧
    exec (.dacq rd ra rb g) s = .next (advance 4 s) ∧
    exec (.drel g) s = .next (advance 4 s) ∧
    exec (.cfgLoad rd ra rb g) s = .next (advance 4 s) ∧
    exec (.cfgConst ra rb g) s = .next (advance 4 s) ∧
    exec (.invoke rd ra rb g) s = .next (advance 4 s) ∧
    exec (.sbind rd ra g) s = .next (advance 4 s) ∧
    exec (.push rd ra rb g) s = .next (advance 4 s) ∧
    exec (.pull rd ra rb g) s = .next (advance 4 s) ∧
    exec (.drain g) s = .next (advance 4 s) ∧
    exec (.ctxset ra g) s = .next (advance 4 s) ∧
    exec (.mstone rd ra g) s = .next (advance 4 s) ∧
    exec (.tdown rd g) s = .next (advance 4 s) ∧
    exec (.dmaLd rd ra rb g imm) s = .next (advance 8 s) ∧
    exec (.dmaSt rd ra rb g imm) s = .next (advance 8 s) ∧
    exec (.dmaCp rd ra rb g imm) s = .next (advance 8 s) ∧
    exec (.dmaGath rd ra rb g imm) s = .next (advance 8 s) ∧
    exec (.binApp rd ra rb g) s = .next (advance 4 s) ∧
    exec (.binPlay rd ra rb g) s = .next (advance 4 s) ∧
    exec (.rput rd ra rb g imm) s = .next (advance 8 s) ∧
    exec (.rget rd ra rb g imm) s = .next (advance 8 s) ∧
    exec (.ramo rd ra rb g imm) s = .next (advance 8 s) ∧
    exec (.tidWr ra rb g) s = .next (advance 4 s) ∧
    exec (.tidRd ra rb g) s = .next (advance 4 s) ∧
    exec (.mtile rd ra rb g imm) s = .next (advance 8 s) ∧
    exec (.mbload rd ra rb g imm) s = .next (advance 8 s) ∧
    exec (.maccCp rd ra rb g imm) s = .next (advance 8 s) ∧
    exec (.maccZero rd ra g imm) s = .next (advance 8 s) ∧
    exec (.trap g imm) s = .next (advance 4 s) ∧
    exec (.sig ra rb g) s = .next (advance 4 s) ∧
    exec (.gcQuery rd ra g) s = .next (advance 4 s)) ∧
    ((th s).status.supv = true →
      exec (.tack g) s = .next (advance 4 s) ∧
      exec (.eret g) s = .next (advance 4 s) ∧
      exec (.idle g) s = .next (advance 4 s) ∧
      exec (.icinvAll g) s = .next (advance 4 s) ∧
      exec (.icinvLine ra g) s = .next (advance 4 s) ∧
      exec (.xinvAll g) s = .next (advance 4 s) ∧
      exec (.xinvSpace rd g) s = .next (advance 4 s) ∧
      exec (.xinvVa rd ra g) s = .next (advance 4 s) ∧
      exec (.sethnd rd ra rb g) s = .next (advance 4 s) ∧
      exec (.gcJoin rd ra rb g) s = .next (advance 4 s) ∧
      exec (.gcLeave rd g) s = .next (advance 4 s) ∧
      exec (.gcAnn ra rb g) s = .next (advance 4 s)) ∧
    (sysKnown imm = true → (th s).status.supv = true ∨ sysUserRead imm = true →
      exec (.mfs rd g imm) s = .next (advance 4 s)) ∧
    (sysKnown imm = true → (th s).status.supv = true ∨ sysUserWrite imm = true →
      exec (.mts ra g imm) s = .next (advance 4 s))

/-- 04 R124 to R129. -/
def Obligations.TrapEntryAndSystemReturn : Prop :=
  (∀ (s : State) (code : BitVec 10) (v : Word), (th s).status.intrap = false → TrapEntered code v s (trap code v s)) ∧
  (∀ (s : State) (g n : Nat), Ready s g [] → exec (.trap g n) s = .next (trap (BitVec.ofNat 10 (0x3C0 + n)) 0 s)) ∧
  (∀ s : State, exec .brk s = .next (trap 0x003 0 s)) ∧
  (∀ (s : State) (g : Nat), Ready s g [] → (th s).status.supv = true → ∃ (t : State), exec (.tack g) s = .next t ∧
    (th t).status = { (th s).status with intrap := false } ∧ (th t).pc = (th (advance 4 s)).pc ∧
    (∀ r, rx t r = rx s r) ∧ (th t).cause = (th s).cause ∧ (th t).epc = (th s).epc ∧ (th t).tval = (th s).tval) ∧
  (∀ (s : State) (g : Nat), Ready s g [] → (th s).status.supv = true → ∃ (t : State), exec (.eret g) s = .next t ∧
    (th t).status = { (th s).status with supv := (th s).sstatus.supv, ie := (th s).sstatus.ie } ∧
    (th t).pc = BitVec.ofNat 64 ((th s).epc.toNat * 4) ∧ (th t).sstatus = (th s).sstatus ∧
    (∀ r, rx t r = rx s r) ∧ (th t).loop0 = (th s).loop0 ∧ (th t).loop1 = (th s).loop1) ∧
  (∀ (s : State) (g : Nat), Ready s g [] → (th s).status.supv = true →
    (asyncPending s s.cur = true → exec (.idle g) s = .next (advance 4 s)) ∧
    (asyncPending s s.cur = false → ∃ (t : State), exec (.idle g) s = .next t ∧ (th t).wait = .idle ∧ (th t).pc = (th s).pc))

/-- 13 R348; 17 R395, R400, said for `add`, which stands for every instruction: all read through one operation. A register with bad parity is
repaired while its producer is one of the last 8 writers, unless the repaired read finds bad parity again. -/
def Obligations.DoubleFaultsAndParityFailures : Prop :=
  (∀ (s : State) (code : BitVec 10) (v : Word), (th s).status.intrap = true → DoubleFaulted code v s (trap code v s)) ∧
  (∀ (s : State) (rd ra rb g : Nat), (me s).unfit ra = true → mget? (me s).parity (32 + g) = none → rk s g = true →
    ∃ (t : State), exec (.add rd ra rb g) s = .next t ∧ (me t).cstat = 3 ∧ (me t).regpar = true ∧ (me t).dcause = ⟨false, 0x0C2⟩ ∧
      (me t).dtval = BitVec.ofNat 64 ra ∧ (∀ r, rx t r = rx s r) ∧ (th t).pc = (th s).pc ∧
      (quarter t (coreQuarter s.cur)).last = satInc (quarter s (coreQuarter s.cur)).last) ∧
  (∀ (s : State) (rd ra rb g : Nat), (me s).parity = [(ra, false)] → ra ∈ (me s).replay → ra < 32 → rk s g = true →
    ∃ (t : State), exec (.add rd ra rb g) s = .next t ∧ (me t).parity = [] ∧ rx t rd = (if rd = 0 then 0 else rx s ra + rx s rb) ∧
      (quarter t (coreQuarter s.cur)).trans = satInc (quarter s (coreQuarter s.cur)).trans ∧
      (quarter t (coreQuarter s.cur)).parfix = satInc (quarter s (coreQuarter s.cur)).parfix) ∧
  (∀ (k : CoreState) (r : Nat) (again : Bool), mget? k.parity r = some again → (k.unfit r = false ↔ again = false ∧ r ∈ k.replay)) ∧
  (∀ (s : State) (rd : Nat) (v : Word), 0 < rd → rd < 32 → (me (wx s rd v)).replay.head? = some rd ∧ (me (wx s rd v)).replay.length ≤ 8 ∧
    mget? (me (wx s rd v)).parity rd = none)

/-- 03 R76, R90 step 3. The user access column of R76 is written out.
That a register number without a row raises ILLEGAL in either mode, ahead of the guard and of PRIV, is the model's reading: log entry 58. -/
def Obligations.UserModeRefusesSupervisorInstructions : Prop :=
  ∀ (s : State) (rd ra rb g imm : Nat),
    ((th s).status.supv = false →
      exec (.tack g) s = .next (trap 0x002 (firstWord (.tack g)) s) ∧
      exec (.eret g) s = .next (trap 0x002 (firstWord (.eret g)) s) ∧
      exec (.idle g) s = .next (trap 0x002 (firstWord (.idle g)) s) ∧
      exec (.icinvAll g) s = .next (trap 0x002 (firstWord (.icinvAll g)) s) ∧
      exec (.icinvLine ra g) s = .next (trap 0x002 (firstWord (.icinvLine ra g)) s) ∧
      exec (.xinvAll g) s = .next (trap 0x002 (firstWord (.xinvAll g)) s) ∧
      exec (.xinvSpace rd g) s = .next (trap 0x002 (firstWord (.xinvSpace rd g)) s) ∧
      exec (.xinvVa rd ra g) s = .next (trap 0x002 (firstWord (.xinvVa rd ra g)) s) ∧
      exec (.sethnd rd ra rb g) s = .next (trap 0x002 (firstWord (.sethnd rd ra rb g)) s) ∧
      exec (.gcJoin rd ra rb g) s = .next (trap 0x002 (firstWord (.gcJoin rd ra rb g)) s) ∧
      exec (.gcLeave rd g) s = .next (trap 0x002 (firstWord (.gcLeave rd g)) s) ∧
      exec (.gcAnn ra rb g) s = .next (trap 0x002 (firstWord (.gcAnn ra rb g)) s) ∧
      (imm ∈ [0x002, 0x003, 0x004, 0x005, 0x006, 0x007, 0x008, 0x010, 0x011, 0x012, 0x013, 0x020, 0x040, 0x041] →
        exec (.mfs rd g imm) s = .next (trap 0x002 (firstWord (.mfs rd g imm)) s)) ∧
      (imm ∈ [0x000, 0x001, 0x002, 0x003, 0x004, 0x005, 0x006, 0x007, 0x008, 0x010, 0x011, 0x012, 0x013, 0x020, 0x021,
          0x022, 0x023, 0x040, 0x041] →
        exec (.mts ra g imm) s = .next (trap 0x002 (firstWord (.mts ra g imm)) s))) ∧
    (imm ∉ [0x000, 0x001, 0x002, 0x003, 0x004, 0x005, 0x006, 0x007, 0x008, 0x010, 0x011, 0x012, 0x013, 0x020, 0x021,
        0x022, 0x023, 0x024, 0x030, 0x031, 0x032, 0x033, 0x040, 0x041] →
      exec (.mfs rd g imm) s = .next (trap 0x001 (firstWord (.mfs rd g imm)) s) ∧
      exec (.mts ra g imm) s = .next (trap 0x001 (firstWord (.mts ra g imm)) s))

/-- 03 R76 to R84; 04 R121, R122. `mts` writes first and then moves on, so that its own write of a loop register acts on the check
of 04 R120. An OVF that hardware has set in the fc of the write stays (03 R84). -/
def Obligations.SystemRegisterFields : Prop :=
  (∀ (s : State) (rd g n : Nat), sysKnown n = true → (th s).status.supv = true ∨ sysUserRead n = true →
    Ready s g (sysRegs n) → exec (.mfs rd g n) s = .next (retX rd (sysRead s.cur n s) s)) ∧
  (∀ (s : State) (ra g n : Nat), sysKnown n = true → (th s).status.supv = true ∨ sysUserWrite n = true →
    Ready s g [ra] → exec (.mts ra g n) s = .next (advance 4 (sysWrite s.cur n (rx s ra) s))) ∧
  (∀ (s : State) (c : Nat) (v : Word),
    sysRead c 0x001 (sysWrite c 0x001 v s) = ((sysRead c 0x001 s &&& ~~~ (2 : Word)) ||| (v &&& 2)) ∧
    sysRead c 0x002 (sysWrite c 0x002 v s) = v &&& 0x337 ∧
    sysRead c 0x003 (sysWrite c 0x003 v s) = v &&& 0x13FF ∧
    sysRead c 0x004 (sysWrite c 0x004 v s) = v &&& 0x00FFFFFFFFFFFFFC ∧
    sysRead c 0x005 (sysWrite c 0x005 v s) = v ∧
    sysRead c 0x006 (sysWrite c 0x006 v s) = v &&& 0x00FFFFFFFFFFFF00 ∧
    sysRead c 0x007 (sysWrite c 0x007 v s) = v ∧
    sysRead c 0x020 (sysWrite c 0x020 v s) = v &&& 0xFFFF ∧
    sysRead c 0x021 (sysWrite c 0x021 v s) =
      (if (thr s c).status.txn = true ∨ recordsOf s (thr s c).id ≠ [] then sysRead c 0x021 s else v) ∧
    sysRead c 0x024 (sysWrite c 0x024 v s) = (v &&& 0xFE) ||| 1 ∧
    sysRead c 0x030 (sysWrite c 0x030 v s) = v &&& 0xFFFFFFFF0000FFFF ∧
    sysRead c 0x031 (sysWrite c 0x031 v s) = v &&& 0x00FFFFFFFFFFFFFC ∧
    sysRead c 0x032 (sysWrite c 0x032 v s) = v &&& 0xFFFFFFFF0000FFFF ∧
    sysRead c 0x033 (sysWrite c 0x033 v s) = v &&& 0x00FFFFFFFFFFFFFC ∧
    sysRead c 0x041 (sysWrite c 0x041 v s) = v &&& 0xFFFFFFFF ∧
    ((thr s c).status.txn = false → recordsOf s (thr s c).id = [] → (thr (sysWrite c 0x021 v s) c).tx.attempts = 0) ∧
    (v.getLsbD 8 = true →
      (core (sysWrite c 0x040 v s) c).msgOvf = ((core s c).msgOvf && (hwSeen s c).ovfSet)) ∧
    (v.getLsbD 8 = false → sysRead c 0x040 (sysWrite c 0x040 v s) = sysRead c 0x040 s) ∧
    (∀ n ∈ [0x000, 0x008, 0x010, 0x011, 0x012, 0x013, 0x022, 0x023], sysWrite c n v s = s))

/-- 04 R135, R136. A district's held stores have been translated when they entered its list (09 R279), and an entry that a range table gives is
dropped with every address of the range. -/
def Obligations.CacheInvalidations : Prop :=
  (∀ (s : State) (ra g : Nat) (l : Nat), (th s).status.supv = true → l = lineKey (th s).asid.toNat ((rx s ra).toNat % 2 ^ 56) →
    (fenceWaits s s.cur = true →
      (Ready s g [] → exec (.icinvAll g) s = .next (spin false s)) ∧
      (Ready s g [ra] → exec (.icinvLine ra g) s = .next (spin false s))) ∧
    (fenceWaits s s.cur = false →
      (Ready s g [] → ∃ (t : State), exec (.icinvAll g) s = .next t ∧
        (me t).icache = [] ∧ (th t).wait = .icinv ∧ (th t).pc = (th s).pc ∧ (∀ q ∈ t.reqs, q.thread ≠ (th s).id) ∧
        (∀ d, d < 256 → d ≠ s.cur → (s.cur, d, none) ∈ t.icinv)) ∧
      (Ready s g [ra] → ∃ (t : State), exec (.icinvLine ra g) s = .next t ∧
        mget? (me t).icache l = none ∧ (th t).wait = .icinv ∧ (th t).pc = (th s).pc ∧ (∀ q ∈ t.reqs, q.thread ≠ (th s).id) ∧
        (∀ d, d < 256 → d ≠ s.cur → (s.cur, d, some l) ∈ t.icinv)))) ∧
  (∀ (s : State) (c : Nat), (thr s c).wait.midway = false → ∃ (t : State), exec (.icinvAcknowledge c) s = .next t ∧
    t.icinv = s.icinv.filter (fun e => e.2.1 != c) ∧
    (∀ r, (r, c, none) ∈ s.icinv → (core t c).icache = []) ∧
    (∀ r l, (r, c, some l) ∈ s.icinv → mget? (core t c).icache l = none) ∧
    (∀ r l, (r, c, l) ∈ s.icinv → (thr s r).wait = .icinv → (∀ e ∈ t.icinv, e.1 ≠ r) →
      (thr t r).wait = .none ∧ (thr t r).pc = ((thr s r).step 4).pc)) ∧
  (∀ (s : State) (rd ra g a v : Nat), (th s).status.supv = true → a = (rx s rd).toNat % 2 ^ 16 →
    v = (rx s ra).toNat % 2 ^ 56 →
    (Ready s g [] → ∃ (t : State), exec (.xinvAll g) s = .next t ∧
      (∀ p ∈ t.cores, p.2.tlb = []) ∧ (∀ p ∈ t.quarters, p.2.xlat = [] ∧ p.2.rtab = []) ∧
      ((∀ q ∈ s.reqs, q.posted = true) → (∀ p ∈ s.quarters, ∀ m, p.2.mig = some m → m.reqs = []) →
        (∀ w ∈ s.tagq, region w.va ≠ 0) → (∀ d ∈ s.districts, d.2.hold = []) →
        (th t).pc = (th (advance 4 s)).pc ∧ (th t).wait = .none ∧ t.reqs = [])) ∧
    (Ready s g [rd] → ∃ (t : State), exec (.xinvSpace rd g) s = .next t ∧
      (∀ p ∈ t.cores, ∀ e ∈ p.2.tlb, e.asid ≠ a) ∧
      (∀ p ∈ t.quarters, (∀ e ∈ p.2.xlat, e.asid ≠ a) ∧ ∀ e ∈ p.2.rtab, e.1 ≠ a) ∧
      ((∀ q ∈ s.reqs, q.asid = a → q.posted = true) →
        (∀ p ∈ s.quarters, ∀ m, p.2.mig = some m → ∀ q ∈ m.reqs, q.asid ≠ a) →
        (∀ w ∈ s.tagq, region w.va = 0 → tagSpace s w ≠ some a) → (∀ d ∈ s.districts, d.2.asid.toNat = a → d.2.hold = []) →
        (th t).pc = (th (advance 4 s)).pc ∧ (th t).wait = .none ∧ ∀ q ∈ t.reqs, q.asid ≠ a)) ∧
    (Ready s g [rd, ra] → ∃ (t : State), exec (.xinvVa rd ra g) s = .next t ∧
      (∀ p ∈ t.cores, ∀ e ∈ p.2.tlb, entNames e a v = false) ∧
      (∀ p ∈ t.quarters, (∀ e ∈ p.2.xlat, entNames e a v = false) ∧ ∀ e ∈ p.2.rtab, e.1 ≠ a) ∧
      ((∀ q ∈ s.reqs, q.asid = a → q.posted = true) →
        (∀ p ∈ s.quarters, ∀ m, p.2.mig = some m → ∀ q ∈ m.reqs, q.asid ≠ a) →
        (∀ w ∈ s.tagq, region w.va = 0 → tagSpace s w = some a → ∀ r ∈ droppedRanges s a v, ¬ (r.1 ≤ w.va ∧ w.va < r.2)) →
        (∀ d ∈ s.districts, d.2.asid.toNat = a → ∀ h ∈ d.2.hold, ∀ r ∈ droppedRanges s a v, ¬ (r.1 ≤ h.va ∧ h.va < r.2)) →
        (th t).pc = (th (advance 4 s)).pc ∧ (th t).wait = .none ∧ ∀ q ∈ t.reqs, q.asid ≠ a)))

/-- 05 R138, R141, R142; `PlainAccess` is the access that R140 lets through to this device's memory. A load of another device's memory,
of a page that is not in local-caching mode, is sent, with what stands here of an access across two homes; through a line that a memory-side
cache holds it takes the line's bytes (10 R284); a hub register is read in one piece of 8 bytes (13 R336). A load of a transaction takes the
implicit locks of its lines first (05 R165).
Where the spec leaves a point open it follows the model's choice: log entries 93 and 94. -/
def Obligations.LoadsReturnTheirBytes : Prop :=
  ∀ (s s1 : State) (rd ra g imm a n : Nat) (ps : List Place), Ready s g [ra] →
    a = (rx s ra + (BitVec.ofNat 12 imm).signExtend 64).toNat % 2 ^ 56 → n = leNat (readPlaces s1 ps) →
    (poisPlaces s1 ps = false →
      (PlainAccess s a 1 needR false ps s1 → exec (.ldI8 rd ra g imm) s = .next (retX rd ((BitVec.ofNat 8 n).signExtend 64) s1)) ∧
      (PlainAccess s a 1 needR false ps s1 → exec (.ldN8 rd ra g imm) s = .next (retX rd ((BitVec.ofNat 8 n).setWidth 64) s1)) ∧
      (PlainAccess s a 2 needR false ps s1 → exec (.ldI16 rd ra g imm) s = .next (retX rd ((BitVec.ofNat 16 n).signExtend 64) s1)) ∧
      (PlainAccess s a 2 needR false ps s1 → exec (.ldN16 rd ra g imm) s = .next (retX rd ((BitVec.ofNat 16 n).setWidth 64) s1)) ∧
      (PlainAccess s a 4 needR false ps s1 → exec (.ldI32 rd ra g imm) s = .next (retX rd ((BitVec.ofNat 32 n).signExtend 64) s1)) ∧
      (PlainAccess s a 4 needR false ps s1 → exec (.ldN32 rd ra g imm) s = .next (retX rd ((BitVec.ofNat 32 n).setWidth 64) s1)) ∧
      (PlainAccess s a 8 needR false ps s1 → exec (.ldI64 rd ra g imm) s = .next (retX rd (BitVec.ofNat 64 n) s1))) ∧
    (∀ (i : Instr) (w : Nat) (sg : Bool),
      (w = 1 ∧ (i = .ldI8 rd ra g imm ∧ sg = true ∨ i = .ldN8 rd ra g imm ∧ sg = false) ∨
        w = 2 ∧ (i = .ldI16 rd ra g imm ∧ sg = true ∨ i = .ldN16 rd ra g imm ∧ sg = false) ∨
        w = 4 ∧ (i = .ldI32 rd ra g imm ∧ sg = true ∨ i = .ldN32 rd ra g imm ∧ sg = false) ∨
        w = 8 ∧ i = .ldI64 rd ra g imm ∧ sg = true) →
      (poisPlaces s1 ps = true → PlainAccess s a w needR false ps s1 → exec i s = .next (trap 0x109 (BitVec.ofNat 64 a) s1)) ∧
      (∀ (c : BitVec 10) (v : Word), access s s.cur a w needR false = (.fault c v, s1) → exec i s = .next (trap c v s1)) ∧
      (∀ (o : Nat) (qs : List Place), access s s.cur a w needR false = (.ok (.hub o :: qs), s1) →
        exec i s = .next (if w = 8 ∧ a % 8 = 0 then retX rd (hubRead s1 o) s1 else trap 0x104 (BitVec.ofNat 64 a) s1)) ∧
      (∀ (d x : Nat) (qs : List Place), access s s.cur a w needR false = (.ok (.peer d x :: qs), s1) → qs.all isPeer = true →
        lcMode s1 a (.peer d x :: qs) = false → winBusy s1 a w = false → (th s1).status.txn = false →
        exec i s = .next (await (.load rd w sg a)
          (sendReq (mkReq s1 (.peer d x) a 0 (if sg then 1 else 0) 0 0 w rd true) s1))) ∧
      (∀ (hs : List Place) (d x k : Nat), access s s.cur a w needR false = (.ok (hs ++ (List.range (k + 1)).map (fun j => .peer d (x + j))), s1) →
        hs.any isHub = false → hs.any (faraway s1) = false → poisPlaces s1 hs = false →
        lcMode s1 a (hs ++ (List.range (k + 1)).map (fun j => .peer d (x + j))) = false → winBusy s1 a w = false → (th s1).status.txn = false →
        exec i s = .next (await (.load rd w sg a) (sendReq (mkReq s1 (.peer d x) a 0 (if sg then 1 else 0)
          (BitVec.ofNat 64 (leNat (readPlaces s1 hs))) (BitVec.ofNat 64 (2 ^ hs.length - 1)) w rd true) s1))) ∧
      (∀ (s2 : State) (qs : List Place), access s s.cur a w needR false = (.ok qs, s1) → qs ≠ [] → qs.all isPeer = true → winBusy s1 a w = false →
        (th s1).status.txn = false → s2 = lcVisit (lcLines s1 a qs) s1 →
        (∀ p ∈ qs, lcKey p ∈ lcLines s1 a qs ∧ (lcByte s2 p).isSome = true) →
        exec i s = .next (if qs.any (fun p => (lcByte s2 p).any Prod.snd) then trap 0x109 (BitVec.ofNat 64 a) s2
          else retX rd (loadValue w sg (leNat (qs.map (fun p => ((lcByte s2 p).map Prod.fst).getD 0)))) s2)) ∧
      (∀ qs : List Place, access s s.cur a w needR false = (.ok qs, s1) → qs.any isHub = false → winBusy s1 a w = false →
        (th s1).status.txn = true → region a = 0 → s1.lockq.any (fun l => l.thread == (th s1).id && l.implicit) = false →
        (∀ s2, takeImplicit ((accLines a qs).flatMap (fun l => implicitLocks s1 (th s1).asid.toNat l.1 l.2 false)) s1 = .held s2 →
          qs.any (faraway s2) = false → poisPlaces s2 qs = false →
          exec i s = .next (retX rd (loadValue w sg (leNat (readPlaces s2 qs))) s2)) ∧
        (∀ s2, takeImplicit ((accLines a qs).flatMap (fun l => implicitLocks s1 (th s1).asid.toNat l.1 l.2 false)) s1 = .wait s2 →
          exec i s = .next (spin false s2))))

/-- 05 R141; the places are those that `access` finds for the address of R138. A store to another device's memory, of a page that is not
in local-caching mode, is posted, and of one across two homes the part that is not here; on a page in local-caching mode it is written into the
line of a memory-side cache, which becomes dirty (10 R284); a hub register is written in one piece of 8 bytes (13 R336). A store of a
transaction takes the implicit locks of its lines and logs them first (05 R165).
Where the spec leaves a point open it follows the model's choice: log entries 93 and 94. -/
def Obligations.StoresChangeOnlyTheirBytes : Prop :=
  ∀ (s s1 : State) (rb ra g imm a : Nat) (ps : List Place), Ready s g [rb, ra] →
    a = (rx s ra + (BitVec.ofNat 12 imm).signExtend 64).toNat % 2 ^ 56 →
    (memOk s → PlainAccess s a 1 needW false ps s1 → ∃ (t : State), exec (.stN8 rb ra g imm) s = .next t ∧ Stored s t ps (toBytes 1 (rx s rb).toNat)) ∧
    (memOk s → PlainAccess s a 2 needW false ps s1 → ∃ (t : State), exec (.stN16 rb ra g imm) s = .next t ∧ Stored s t ps (toBytes 2 (rx s rb).toNat)) ∧
    (memOk s → PlainAccess s a 4 needW false ps s1 → ∃ (t : State), exec (.stN32 rb ra g imm) s = .next t ∧ Stored s t ps (toBytes 4 (rx s rb).toNat)) ∧
    (memOk s → PlainAccess s a 8 needW false ps s1 → ∃ (t : State), exec (.stN64 rb ra g imm) s = .next t ∧ Stored s t ps (toBytes 8 (rx s rb).toNat)) ∧
    (∀ (i : Instr) (w : Nat),
      (w = 1 ∧ i = .stN8 rb ra g imm ∨ w = 2 ∧ i = .stN16 rb ra g imm ∨ w = 4 ∧ i = .stN32 rb ra g imm ∨
        w = 8 ∧ i = .stN64 rb ra g imm) →
      (∀ (c : BitVec 10) (v : Word), access s s.cur a w needW false = (.fault c v, s1) → exec i s = .next (trap c v s1)) ∧
      (∀ (o : Nat) (qs : List Place), access s s.cur a w needW false = (.ok (.hub o :: qs), s1) →
        exec i s = .next (if w = 8 ∧ a % 8 = 0 then hubWrite (s.cur + 2) o (rx s rb) (advance 4 s1)
          else trap 0x104 (BitVec.ofNat 64 a) s1)) ∧
      (∀ (d x : Nat), access s s.cur a w needW false = (.ok ((List.range w).map (fun j => .peer d (x + j))), s1) → a % 4096 + w ≤ 4096 →
        lcMode s1 a ((List.range w).map (fun j => .peer d (x + j))) = false → winBusy s1 a w = false → (th s1).status.txn = false →
        exec i s = .next (advance 4 (sendReq (mkReq s1 (.peer d x) a 1 0
          (BitVec.ofNat 64 ((rx s rb).toNat % 2 ^ (8 * w))) (BitVec.ofNat 64 a) w 0 false) s1))) ∧
      (∀ (hs : List Place) (s2 : State) (d x k : Nat),
        access s s.cur a w needW false = (.ok (hs ++ (List.range (k + 1)).map (fun j => .peer d (x + j))), s1) →
        hs.length + k + 1 = w → (a + hs.length) % 4096 = 0 → hs.any isHub = false → hs.any (faraway s1) = false →
        lcMode s1 a (hs ++ (List.range (k + 1)).map (fun j => .peer d (x + j))) = false → winBusy s1 a w = false → (th s1).status.txn = false →
        s2 = (hs.zip (toBytes w (rx s rb).toNat)).foldl (fun s y => placeWrite s y.1 [y.2] false) s1 →
        exec i s = .next (advance 4 (sendReq (mkReq s2 (.peer d x) (a + hs.length) 1 0
          (BitVec.ofNat 64 (leNat ((toBytes w (rx s rb).toNat).drop hs.length))) (BitVec.ofNat 64 a) (k + 1) 0 false) s2))) ∧
      (∀ (d x : Nat), access s s.cur a w needW false = (.ok ((List.range w).map (fun j => .peer d (x + j))), s1) → x % 64 + w ≤ 64 → s.cur < 256 →
        lcLines s1 a ((List.range w).map (fun j => .peer d (x + j))) = [lcKey (.peer d x)] → winBusy s1 a w = false →
        (th s1).status.txn = false → (∀ l, lcFind s1 (lcKey (.peer d x)) = some l → l.bytes.length = 64) →
        ∃ (t : State) (l : MLine), exec i s = .next t ∧ lcFind t (lcKey (.peer d x)) = some l ∧ l.dirty = true ∧
          (∀ j, j < w → l.bytes[x % 64 + j]? = (toBytes w (rx s rb).toNat)[j]?) ∧
          t.reqs = s1.reqs ∧ t.dev = s1.dev ∧ t.loc = s1.loc ∧ t.spad = s1.spad ∧ (∀ r, rx t r = rx s1 r) ∧ (th t).pc = (th (advance 4 s1)).pc) ∧
      (∀ qs : List Place, access s s.cur a w needW false = (.ok qs, s1) → qs.any isHub = false → winBusy s1 a w = false →
        (th s1).status.txn = true → region a = 0 → s1.lockq.any (fun l => l.thread == (th s1).id && l.implicit) = false →
        (∀ s2, takeImplicit ((accLines a qs).flatMap (fun l => implicitLocks s1 (th s1).asid.toNat l.1 l.2 true)) s1 = .held s2 →
          qs.any (faraway s2) = false →
          ((logWrite s2 a qs).tx.lines ≤ 8192 → exec i s = .next (advance 4 (writePlaces
            (logSpad (qs.headD (.dev 0)) w (updMe s2 (fun _ => logWrite s2 a qs))) qs (toBytes w (rx s rb).toNat) false))) ∧
          (8192 < (logWrite s2 a qs).tx.lines → exec i s = .next (txAbort 4 0 s1))) ∧
        (∀ s2, takeImplicit ((accLines a qs).flatMap (fun l => implicitLocks s1 (th s1).asid.toNat l.1 l.2 true)) s1 = .wait s2 →
          exec i s = .next (spin false s2))))

/-- The model's own form of memory: it holds after reset, every instruction and every machine event keeps it, and so does every turn of the
machine, of a core, an engine, a district, the hub, another device or an error from outside.
Where the spec leaves a point open it follows the model's choice: log entry 1. -/
def Obligations.MemoryStaysCanonical : Prop :=
  memOk State.reset ∧
  (∀ (i : Instr) (s t : State), memOk s → exec i s = .next t → memOk t) ∧
  (∀ (s t : State), memOk s → step s = .next t → memOk t)


/-- 05 R138 to R140, R149, for one load, one store, one tagged instruction and one atomic of each width.
Where the spec leaves a point open it follows the model's choice: log entry 62. -/
def Obligations.AccessChecksRaiseTheirCauses : Prop :=
  ∀ (s : State) (rd ra rb g imm a b w : Nat), Ready s g [ra, rb] → w < 2 →
    a = (rx s ra + (BitVec.ofNat 12 imm).signExtend 64).toNat % 2 ^ 56 → b = (rx s ra).toNat % 2 ^ 56 →
    (region a = 3 →
      exec (.ldI64 rd ra g imm) s = .next (trap 0x106 (BitVec.ofNat 64 a) s) ∧
      exec (.ldN8 rd ra g imm) s = .next (trap 0x106 (BitVec.ofNat 64 a) s) ∧
      exec (.stN32 rb ra g imm) s = .next (trap 0x106 (BitVec.ofNat 64 a) s)) ∧
    (region a = 1 → (th s).district = none →
      exec (.ldI64 rd ra g imm) s = .next (trap 0x107 (BitVec.ofNat 64 a) s) ∧
      exec (.stN16 rb ra g imm) s = .next (trap 0x107 (BitVec.ofNat 64 a) s)) ∧
    ((th s).status.txn = false → region b = 0 → b % 4 ≠ 0 →
      exec (.tldTake rd ra g) s = .next (trap 0x104 (BitVec.ofNat 64 b) s) ∧
      exec (.tstSet ra rb g) s = .next (trap 0x104 (BitVec.ofNat 64 b) s) ∧
      exec (.amoAdd rd ra rb g w) s = .next (trap 0x104 (BitVec.ofNat 64 b) s)) ∧
    (region b = 1 ∨ region b = 2 → exec (.amoXor rd ra rb g w) s = .next (trap 0x10B (BitVec.ofNat 64 b) s))

/-- 05 R142; 13 R345; 18 R408. The bytes of a load that stood here when it was issued are in the request, under its mask. A posted store that no
path leads to its device is lost, and its thread is told once for each store, with the store's own address.
Where the spec leaves a point open it follows the model's choice: log entries 94 and 135. -/
def Obligations.ReturnsOfSentAccesses : Prop :=
  (∀ (s : State) (c v rd w va : Nat) (sg : Bool) (r : Req),
    s.reqs.find? (fun r => r.core == c && r.kind == 0 && r.wait && !r.moved && isPeer r.place) = some r →
    (thr s c).wait = .load rd w sg va →
    (v < 2 ^ 64 → ∃ (t : State), exec (.loadDataReturn c v) s = .next t ∧
      (thr t c).getX rd = (if rd = 0 then 0 else loadValue w sg (mergeBytes r.expect.toNat r.b.toNat v w)) ∧
      (∀ j, j ≠ rd → (thr t c).getX j = (thr s c).getX j) ∧
      (thr t c).wait = .none ∧ (thr t c).pc = ((thr s c).step 4).pc ∧
      (∀ q ∈ t.reqs, ¬ (q.core = c ∧ q.kind = 0 ∧ q.wait = true))) ∧
    (2 ^ 64 ≤ v → exec (.loadDataReturn c v) s = .next (trapCore c 0x109 (BitVec.ofNat 64 r.va) (dropReqs c 0 s)))) ∧
  (∀ (b v w : Nat) (sg : Bool), loadValue w sg (mergeBytes 0 b v w) = loadValue w sg v) ∧
  (∀ (s : State) (n d x : Nat) (r : Req), s.reqs[n]? = some r → r.kind = 1 → r.place = .peer d x →
    (reachable s d = true → exec (.remoteStoreFail n) s = .next s) ∧
    (reachable s d = false → r.wait = false →
      (r.fn = 1 → exec (.remoteStoreFail n) s = .next { s with reqs := tellOnce r (listDel s.reqs n) }) ∧
      (r.fn ≠ 1 → exec (.remoteStoreFail n) s =
        .next (raiseThread r.thread 0x10E r.expect 0 { s with reqs := tellOnce r (listDel s.reqs n) })) ∧
      (r.fn ≠ 1 → ∀ c, coreOfThread s r.thread = some c → ∃ (t : State), exec (.remoteStoreFail n) s = .next t ∧
        t.reqs = tellOnce r (listDel s.reqs n) ∧ (core t c).events = (core s c).events ++ [⟨0x10E, r.expect, 0⟩]))) ∧
  (∀ (s s1 : State) (n : Nat) (r : Req) (ps : List Place), s.reqs[n]? = some r →
    (r.moved = true ∨ isPeer r.place = true ∧ r.kind ≠ 4) →
    r.core < 256 → reqPlaces r r.width 0 [] s = (some ps, s1) → ps.any (fun p => (migAt s1 p).isSome) = false →
    ps.any isHub = false →
    (ps.any isPeer = false →
      exec (.movedRetry n) s = .next (performHere r ps { s1 with reqs := listDel s1.reqs n }) ∧
      (r.kind = 1 → r.wait = false →
        exec (.movedRetry n) s = .next (writePlaces { s1 with reqs := listDel s1.reqs n } ps r.bytes (r.fn == 2))) ∧
      (r.kind = 0 → ∀ (rd w va : Nat) (sg : Bool), (thr s r.core).wait = .load rd w sg va →
        (∀ p ∈ ps, placePois s1 p = false) → ∃ (t : State), exec (.movedRetry n) s = .next t ∧
          (thr t r.core).getX rd = (if rd = 0 then 0
            else loadValue w sg (mergeBytes r.expect.toNat r.b.toNat (leNat (readPlaces s1 ps)) w)) ∧
          (thr t r.core).wait = .none ∧ (thr t r.core).pc = ((thr s r.core).step 4).pc)) ∧
    (isPeer (ps.headD (.dev 0)) = true → exec (.movedRetry n) s =
      .next { s1 with reqs := listSet s1.reqs n { r with place := ps.headD (.dev 0), moved := false } }))

/-- 05 R144 to R148. A store to a tagged word is a release at the scope of its word: `s2` is the state once the thread's posted stores are
performed and its bound lines written back. -/
def Obligations.TaggedWordInstructions : Prop :=
  (∀ (s : State) (p : Place) (f : Bool), isPeer p = false → isHub p = false → placePois s p = false →
    placeTag (placeSetTag s p f) p = f) ∧
  (∀ (s s1 s2 : State) (rd ra rb g a : Nat) (ps : List Place) (p : Place) (v : Word), Ready s g [ra, rb] →
    a = (rx s ra).toNat % 2 ^ 56 → p = ps.headD (.dev 0) → v = BitVec.ofNat 64 (leNat (placeRead s1 p 4) % 2 ^ 32) →
    s2 = releaseBy (th s1) (BitVec.ofNat 64 a) (settle (tagScope a) s1.cur s1) →
    (PlainAccess s a 4 needRW true ps s1 →
      (placeTag s1 p = true → tagBehind s1 p 0 = false → placeReadPois s1 p 4 = false →
        exec (.tldTake rd ra g) s = .next (advance 4 (wx (placeSetTag (logSpad p 4 s1) p false) rd v))) ∧
      (placeTag s1 p = true → tagBehind s1 p 0 = false → placeReadPois s1 p 4 = true →
        exec (.tldTake rd ra g) s = .next (trap 0x109 (BitVec.ofNat 64 a) s1)) ∧
      (placeTag s1 p = false ∨ tagBehind s1 p 0 = true →
        exec (.tldTake rd ra g) s = .next (await .tag { s1 with tagq := s1.tagq ++ [⟨.core s.cur, p, 0, rd, 0, a, s1.fc⟩] })) ∧
      (tagScope a ≠ 0 → fenceWaits s1 s1.cur = true →
        exec (.tstFill ra rb g) s = .next (spin false s1) ∧ exec (.tstSet ra rb g) s = .next (spin false s1)) ∧
      (tagScope a = 0 ∨ fenceWaits s1 s1.cur = false →
        (placeTag s1 p = false → tagBehind s1 p 2 = false → exec (.tstFill ra rb g) s = .next (advance 4
          (placeSetTag (placeWrite (logSpad p 4 s2) p (toBytes 4 (rx s rb).toNat) false) p true))) ∧
        (placeTag s1 p = true ∨ tagBehind s1 p 2 = true → exec (.tstFill ra rb g) s =
          .next (await .tag { s2 with tagq := s2.tagq ++ [⟨.core s.cur, p, 2, 0, (rx s rb).setWidth 32, a, s2.fc⟩] })) ∧
        exec (.tstSet ra rb g) s = .next (advance 4
          (placeSetTag (placeWrite (logSpad p 4 s2) p (toBytes 4 (rx s rb).toNat) false) p true)))) ∧
    (PlainAccess s a 4 needR true ps s1 →
      (placeTag s1 p = true → tagBehind s1 p 1 = false → placeReadPois s1 p 4 = false →
        exec (.tldKeep rd ra g) s = .next (retX rd v s1)) ∧
      (placeTag s1 p = true → tagBehind s1 p 1 = false → placeReadPois s1 p 4 = true →
        exec (.tldKeep rd ra g) s = .next (trap 0x109 (BitVec.ofNat 64 a) s1)) ∧
      (placeTag s1 p = false ∨ tagBehind s1 p 1 = true →
        exec (.tldKeep rd ra g) s = .next (await .tag { s1 with tagq := s1.tagq ++ [⟨.core s.cur, p, 1, rd, 0, a, s1.fc⟩] })) ∧
      exec (.tagGet rd ra g) s = .next (retX rd (if placeTag s1 p then 1 else 0) s1)) ∧
    (PlainAccess s a 4 needW true ps s1 →
      exec (.tagClr ra g) s = .next (advance 4 (placeSetTag (logSpad p 4 s1) p false)))) ∧
  (∀ (s : State) (ra g a rd rb : Nat), Ready s g [ra, rb] → a = (rx s ra).toNat % 2 ^ 56 → region a = 0 →
    (th s).status.txn = true →
    exec (.tldTake rd ra g) s = .next (txAbort 3 0 s) ∧ exec (.tldKeep rd ra g) s = .next (txAbort 3 0 s) ∧
    exec (.tstFill ra rb g) s = .next (txAbort 3 0 s) ∧ exec (.tstSet ra rb g) s = .next (txAbort 3 0 s) ∧
    exec (.tagGet rd ra g) s = .next (txAbort 3 0 s) ∧ exec (.tagClr ra g) s = .next (txAbort 3 0 s))

/-- 05 R145 to R147; 10 R291. `w` is the first waiter that may go at the word of waiter n. A request that has not reached its word yet has not been
checked there, and its wait does not count. -/
def Obligations.WaitersAtTaggedWordsAreServed : Prop :=
  (∀ (s : State) (n : Nat) (x w : TagWait) (p : Place) (v : W32), s.tagq[n]? = some x → p = x.place → isPeer p = false →
    isHub p = false → s.tagq.find? (fun y => y.place == p && tagReady s p y.op) = some w →
    v = BitVec.ofNat 32 (leNat (placeRead s p 4)) →
    (w.op = 0 → placeReadPois s p 4 = false →
      ∃ (t : State), exec (.taggedWaiterServe n) s = .next t ∧ w ∉ t.tagq ∧ placeTag t p = false ∧
        (∀ c, w.who = .core c → (thr t c).getX w.rd = (if w.rd = 0 then 0 else v.setWidth 64) ∧
          (thr t c).pc = ((thr s c).step 4).pc ∧ (thr t c).wait = .none) ∧
        (∀ e k, w.who = .node e k → (mget (elem t e).nodes k .zero).reqs =
          nodeLane (w.rd % 64) ⟨v, false⟩ (mget (elem s e).nodes k .zero).reqs)) ∧
    (w.op = 1 → placeReadPois s p 4 = false → ∀ c, w.who = .core c → (∀ y ∈ s.tagq, y.who = .core c → y = w) →
      ∃ (t : State), exec (.taggedWaiterServe n) s = .next t ∧ w ∉ t.tagq ∧ placeRead t p 4 = placeRead s p 4 ∧
        (thr t c).getX w.rd = (if w.rd = 0 then 0 else v.setWidth 64) ∧
        (thr t c).pc = ((thr s c).step 4).pc ∧ (thr t c).wait = .none) ∧
    (w.op = 2 → memOk s →
      ∃ (t : State), exec (.taggedWaiterServe n) s = .next t ∧ w ∉ t.tagq ∧ placeTag t p = true ∧
        placeRead t p 4 = toBytes 4 w.v.toNat ∧
        (∀ c, w.who = .core c → (thr t c).pc = ((thr s c).step 4).pc ∧ (thr t c).wait = .none ∧
          ∀ i, (thr t c).getX i = (thr s c).getX i) ∧
        (∀ e k, w.who = .node e k → (mget (elem t e).nodes k .zero).reqs =
          nodeLane (w.rd % 64) .zero (mget (elem s e).nodes k .zero).reqs))) ∧
  (∀ (s : State) (n c : Nat) (w : TagWait), s.tagq[n]? = some w → isPeer w.place = true → w.who = .core c → w.op ≠ 2 →
    (bit (Config.free s.freeIx) 32 = false → ∃ (t : State), exec (.taggedWaiterServe n) s = .next t ∧ w ∉ t.tagq ∧
      (thr t c).getX w.rd = (if w.rd = 0 then 0 else ((Config.free s.freeIx).setWidth 32).setWidth 64) ∧
      (thr t c).pc = ((thr s c).step 4).pc ∧ (thr t c).wait = .none) ∧
    (bit (Config.free s.freeIx) 32 = true → exec (.taggedWaiterServe n) s = .next (trapCore c 0x109 (BitVec.ofNat 64 w.va)
      { s with tagq := s.tagq.filter (fun x => x != w), freeIx := s.freeIx + 1 }))) ∧
  (∀ (s : State) (c : Nat), (thr s c).wait = .tag → (thr s c).tagwait.toNat ≠ 0 →
    (s.fc < (thr s c).waitFrom + (thr s c).tagwait.toNat → exec (.tagWaitTimeout c) s = .next s) ∧
    (atWord s c = false → exec (.tagWaitTimeout c) s = .next s) ∧
    (atWord s c = true → (thr s c).waitFrom + (thr s c).tagwait.toNat ≤ s.fc →
      exec (.tagWaitTimeout c) s = .next (trapCore c 0x110 (BitVec.ofNat 64 (tagWaitAddr s c)) (dropTag c s)) ∧
      ((thr s c).status.intrap = false → ∃ (t : State), exec (.tagWaitTimeout c) s = .next t ∧ (thr t c).cause = ⟨false, 0x110⟩ ∧
        (thr t c).tval = BitVec.ofNat 64 (tagWaitAddr s c) ∧ (thr t c).wait = .none ∧
        (thr t c).pc = pcOf ((core s c).tvec.toNat * 256) ∧ (∀ w ∈ t.tagq, w.who ≠ .core c))))

/-- 05 R149, R150. k is the width in bytes. -/
def Obligations.AtomicsReplaceAndReturnTheOldValue : Prop :=
  ∀ (s s1 : State) (rd ra rb g w k a old b : Nat) (so sb : Int) (sold : Word) (ps : List Place) (p : Place),
    Ready s g [ra, rb, rd] → w < 2 → k = 4 + 4 * w → a = (rx s ra).toNat % 2 ^ 56 → region a = 0 →
    PlainAccess s a k needRW true ps s1 → p = ps.headD (.dev 0) →
    old = leNat (placeRead s1 p k) → b = (rx s rb).toNat % 2 ^ (8 * k) →
    so = (BitVec.ofNat (8 * k) old).toInt → sb = (BitVec.ofNat (8 * k) b).toInt → sold = (BitVec.ofNat (8 * k) old).signExtend 64 →
    (placeReadPois s1 p k = false →
      (rd ≠ 0 → exec (.amoAdd rd ra rb g w) s = .next (retX rd (BitVec.ofNat 64 old) (placeWrite s1 p (toBytes k ((old + b) % 2 ^ (8 * k))) false))) ∧
      (rd = 0 → exec (.amoAdd rd ra rb g w) s = .next (advance 4 (placeWrite s1 p (toBytes k ((old + b) % 2 ^ (8 * k))) false))) ∧
      (rd ≠ 0 → exec (.amoAnd rd ra rb g w) s = .next (retX rd (BitVec.ofNat 64 old) (placeWrite s1 p (toBytes k (old &&& b)) false))) ∧
      (rd = 0 → exec (.amoAnd rd ra rb g w) s = .next (advance 4 (placeWrite s1 p (toBytes k (old &&& b)) false))) ∧
      (rd ≠ 0 → exec (.amoOr rd ra rb g w) s = .next (retX rd (BitVec.ofNat 64 old) (placeWrite s1 p (toBytes k (old ||| b)) false))) ∧
      (rd = 0 → exec (.amoOr rd ra rb g w) s = .next (advance 4 (placeWrite s1 p (toBytes k (old ||| b)) false))) ∧
      (rd ≠ 0 → exec (.amoXor rd ra rb g w) s = .next (retX rd (BitVec.ofNat 64 old) (placeWrite s1 p (toBytes k (old ^^^ b)) false))) ∧
      (rd = 0 → exec (.amoXor rd ra rb g w) s = .next (advance 4 (placeWrite s1 p (toBytes k (old ^^^ b)) false))) ∧
      (rd ≠ 0 → exec (.amoMinUnsigned rd ra rb g w) s = .next (retX rd (BitVec.ofNat 64 old) (placeWrite s1 p (toBytes k (min old b)) false))) ∧
      (rd = 0 → exec (.amoMinUnsigned rd ra rb g w) s = .next (advance 4 (placeWrite s1 p (toBytes k (min old b)) false))) ∧
      (rd ≠ 0 → exec (.amoMaxUnsigned rd ra rb g w) s = .next (retX rd (BitVec.ofNat 64 old) (placeWrite s1 p (toBytes k (max old b)) false))) ∧
      (rd = 0 → exec (.amoMaxUnsigned rd ra rb g w) s = .next (advance 4 (placeWrite s1 p (toBytes k (max old b)) false))) ∧
      (rd ≠ 0 → exec (.amoSwap rd ra rb g w) s = .next (retX rd (BitVec.ofNat 64 old) (placeWrite s1 p (toBytes k (b)) false))) ∧
      (rd = 0 → exec (.amoSwap rd ra rb g w) s = .next (advance 4 (placeWrite s1 p (toBytes k (b)) false))) ∧
      (rd ≠ 0 → exec (.amoMinSigned rd ra rb g w) s = .next (retX rd sold (placeWrite s1 p (toBytes k (if so ≤ sb then old else b)) false))) ∧
      (rd = 0 → exec (.amoMinSigned rd ra rb g w) s = .next (advance 4 (placeWrite s1 p (toBytes k (if so ≤ sb then old else b)) false))) ∧
      (rd ≠ 0 → exec (.amoMaxSigned rd ra rb g w) s = .next (retX rd sold (placeWrite s1 p (toBytes k (if so ≤ sb then b else old)) false))) ∧
      (rd = 0 → exec (.amoMaxSigned rd ra rb g w) s = .next (advance 4 (placeWrite s1 p (toBytes k (if so ≤ sb then b else old)) false))) ∧
      exec (.amoCas rd ra rb g w) s = .next (retX rd (BitVec.ofNat 64 old)
        (placeWrite s1 p (toBytes k (if old = (rx s rd).toNat % 2 ^ (8 * k) then b else old)) false)) ∧
      exec (.amoLd rd ra g w) s = .next (retX rd (BitVec.ofNat 64 old) s1) ∧
      (w = 0 → rd ≠ 0 → exec (.amoAddF32 rd ra rb g) s = .next (retX rd (BitVec.ofNat 64 old)
        (placeWrite s1 p (toBytes 4 (fadd (BitVec.ofNat 32 old) (BitVec.ofNat 32 b) 0).toNat) false))) ∧
      (w = 0 → rd = 0 → exec (.amoAddF32 rd ra rb g) s = .next (advance 4
        (placeWrite s1 p (toBytes 4 (fadd (BitVec.ofNat 32 old) (BitVec.ofNat 32 b) 0).toNat) false)))) ∧
    (placeReadPois s1 p k = true →
      exec (.amoCas rd ra rb g w) s = .next (trap 0x109 (BitVec.ofNat 64 a) s1) ∧
      exec (.amoLd rd ra g w) s = .next (trap 0x109 (BitVec.ofNat 64 a) s1) ∧
      ∀ e, (e = .amoAdd rd ra rb g w ∨ e = .amoAnd rd ra rb g w ∨ e = .amoOr rd ra rb g w ∨ e = .amoXor rd ra rb g w ∨
          e = .amoMinSigned rd ra rb g w ∨ e = .amoMaxSigned rd ra rb g w ∨ e = .amoMinUnsigned rd ra rb g w ∨
          e = .amoMaxUnsigned rd ra rb g w ∨ e = .amoSwap rd ra rb g w ∨ (w = 0 ∧ e = .amoAddF32 rd ra rb g)) →
        (rd ≠ 0 → exec e s = .next (trap 0x109 (BitVec.ofNat 64 a) s1)) ∧
        (rd = 0 → exec e s = .next (advance 4 (raise s.cur 0x109 (BitVec.ofNat 64 a) 0 s1))))

/-- 05 R150 to R153. A snapshot whose copy goes to another device completes once it is written there. In the last clause, and where a word or a block is at another device, what this device cannot tell is free.
Where the spec leaves a point open it follows the model's choice: log entries 66, 67. -/
def Obligations.VectorAtomicsAndHomeEngines : Prop :=
  (∀ (s s1 s2 : State) (ra rb g n a src : Nat) (vs : List W32) (ps : List Place) (p : Place), Ready s g [ra, rb] →
    (th s).status.txn = false → n = (rx s rb).toNat % 16 + 1 → (rx s rb).toNat / 16 % 4 = 0 →
    src = (rx s rb).toNat / 64 % 2 ^ 50 * 64 → a = (rx s ra).toNat % 2 ^ 56 → region a = 0 → a % 4 = 0 → a % 64 + 4 * n ≤ 64 →
    winBusy s src (4 * n) = false → vaddSource src n s = (.words vs, s1) → PlainAccess s1 a 4 needRW true ps s2 →
    ownPending s2 a (4 * n) = false → p = ps.headD (.dev 0) →
    (memOk s → placeReadPois s2 p (4 * vs.length) = false →
      (∃ (t : State), exec (.amoVaddN32 ra rb g) s = .next (advance 4 t) ∧ ∀ j, j < vs.length →
        leNat (placeRead t (p.plus (4 * j)) 4) = (leNat (placeRead s2 (p.plus (4 * j)) 4) + (vs.getD j 0).toNat) % 2 ^ 32) ∧
      (∃ (t : State), exec (.amoVaddF32 ra rb g) s = .next (advance 4 t) ∧ ∀ j, j < vs.length →
        leNat (placeRead t (p.plus (4 * j)) 4) =
          (fadd (BitVec.ofNat 32 (leNat (placeRead s2 (p.plus (4 * j)) 4))) (vs.getD j 0) 0).toNat)) ∧
    (placeReadPois s2 p (4 * vs.length) = true →
      exec (.amoVaddN32 ra rb g) s = .next (advance 4 (raise s2.cur 0x109 (BitVec.ofNat 64 a) 0 s2)) ∧
      exec (.amoVaddF32 ra rb g) s = .next (advance 4 (raise s2.cur 0x109 (BitVec.ofNat 64 a) 0 s2)))) ∧
  (∀ (s s1 : State) (src n : Nat) (qs : List Place) (q : Place), access s s.cur src 4 needR false = (.ok qs, s1) →
    q = qs.headD (.dev 0) → isHub q = false → faraway s1 q = false → placeReadPois s1 q (4 * n) = false →
    vaddSource src n s =
      (.words ((List.range n).map (fun j => BitVec.ofNat 32 (leNat (placeRead s1 (q.plus (4 * j)) 4)))), s1)) ∧
  (∀ (s s1 s2 : State) (rd ra rb g a b x y : Nat) (ps qs : List Place), Ready s g [ra, rb] →
    (th s).status.txn = false → a = (rx s ra).toNat % 2 ^ 56 → b = (rx s rb).toNat % 2 ^ 56 → region a = 0 → region b = 0 →
    a % 64 = 0 → b % 64 = 0 → (a + 64 ≤ b ∨ b + 64 ≤ a) →
    PlainAccess s a 64 needRW true ps s1 → PlainAccess s1 b 64 needW true qs s2 → ps.headD (.dev 0) = .dev x →
    qs.headD (.dev 0) = .dev y → (x + 64 ≤ y ∨ y + 64 ≤ x) →
    (memOk s → placeReadPois s2 (.dev x) 64 = false →
      ∃ (t : State), exec (.amoSnap rd ra rb g) s = .next (retX rd (BitVec.ofNat 64
          (((List.range 16).map (fun j => leNat (placeRead s2 (.dev (x + 4 * j)) 4))).sum)) t) ∧
        placeRead t (.dev y) 64 = placeRead s2 (.dev x) 64 ∧ placeRead t (.dev x) 64 = List.replicate 64 0) ∧
    (placeReadPois s2 (.dev x) 64 = true → exec (.amoSnap rd ra rb g) s = .next (trap 0x109 (BitVec.ofNat 64 a) s2))) ∧
  (∀ (s s1 s2 : State) (rd ra rb g a b x d y : Nat) (ps qs : List Place), Ready s g [ra, rb] →
    (th s).status.txn = false → a = (rx s ra).toNat % 2 ^ 56 → b = (rx s rb).toNat % 2 ^ 56 → region a = 0 → region b = 0 →
    a % 64 = 0 → b % 64 = 0 → (a + 64 ≤ b ∨ b + 64 ≤ a) →
    PlainAccess s a 64 needRW true ps s1 → access s1 s1.cur b 64 needW true = (.ok qs, s2) → ps.headD (.dev 0) = .dev x →
    qs.headD (.dev 0) = .peer d y → ownPending s2 b 64 = false → memOk s → placeReadPois s2 (.dev x) 64 = false →
    ∃ (t : State) (r : Req), exec (.amoSnap rd ra rb g) s = .next t ∧ (th t).wait = .snap rd a b (.peer d y) ∧ (th t).pc = (th s).pc ∧
      t.reqs = s2.reqs ++ [r] ∧ r.kind = 1 ∧ r.place = .peer d y ∧ r.wait = true ∧ r.ws = counters s2 (.dev x) ∧
      r.b = BitVec.ofNat 64 (counterSum (counters s2 (.dev x))) ∧ placeRead t (.dev x) 64 = List.replicate 64 0 ∧
      ∃ (u : State), u = peerStored s2.reqs.length t ∧ u.reqs = s2.reqs ∧
        (thr u s.cur).getX rd = (if rd = 0 then 0 else r.b) ∧ (thr u s.cur).wait = .none ∧ (thr u s.cur).pc = ((th s).step 4).pc) ∧
  (∀ (s : State) (n : Nat) (r : Req), s.reqs[n]? = some r → r.kind = 2 ∨ r.kind = 4 → r.moved = false →
    migAt s r.place = none → isPeer r.place = false →
    (r.fn ≠ 0x0C → r.fn ≠ 0x0D → placeReadPois s r.place r.width = false →
      ∃ (t u : State), exec (.atomicAtHome n) s = .next t ∧ t.reqs = listDel s.reqs n ∧
        u = (if r.fn = 0x0E then s else placeWrite s r.place (toBytes r.width
          (amoNew r.fn r.width (leNat (placeRead s r.place r.width)) r.b.toNat r.expect.toNat)) false) ∧
        t.dev = u.dev ∧ t.loc = u.loc ∧ t.spad = u.spad ∧ (r.wait = false → t.cores = s.cores) ∧
        (∀ rd wide sg va len, r.wait = true → ((thr s r.core).wait = .amo rd wide sg va ∧ len = 4 ∨
            (thr s r.core).wait = .ramo rd wide sg va ∧ len = 8) →
          (thr t r.core).getX rd = (if rd = 0 then 0 else amoResult sg wide (leNat (placeRead s r.place r.width))) ∧
          (thr t r.core).wait = .none ∧ (thr t r.core).pc = ((thr s r.core).step len).pc)) ∧
    (memOk s → r.fn = 0x0C → placeReadPois s r.place (4 * r.ws.length) = false → isHub r.place = false →
      ∃ (t : State), exec (.atomicAtHome n) s = .next t ∧ t.reqs = listDel s.reqs n ∧ ∀ j, j < r.ws.length →
        leNat (placeRead t (r.place.plus (4 * j)) 4) =
          (leNat (placeRead s (r.place.plus (4 * j)) 4) + (r.ws.getD j 0).toNat) % 2 ^ 32)) ∧
  (∀ (s : State) (c v : Nat), (∀ q ∈ s.reqs, q.core = c → q.kind ≠ 5) →
    (∃ q ∈ s.reqs, q.core = c ∧ q.kind = 2 ∧ q.wait = true ∧ q.moved = false ∧ isPeer q.place = true) →
    (∀ rd wide sg va, (thr s c).wait = .amo rd wide sg va →
      (v < 2 ^ 64 → ∃ (t : State), exec (.atomicReply c v) s = .next t ∧
        (∀ q ∈ t.reqs, ¬ (q.core = c ∧ (q.kind = 2 ∨ q.kind = 4) ∧ q.wait = true)) ∧
        (thr t c).getX rd = (if rd = 0 then 0 else amoResult sg wide v) ∧ (thr t c).wait = .none ∧
        (thr t c).pc = ((thr s c).step 4).pc) ∧
      (v = 2 ^ 64 → exec (.atomicReply c v) s =
        .next (trapCore c 0x109 (BitVec.ofNat 64 va) (dropReqs c 4 (dropReqs c 2 s)))))) ∧
  (∀ (s s1 : State) (c v rd a b y : Nat) (q0 : Place) (qs : List Place),
    (∃ q ∈ s.reqs, q.core = c ∧ q.kind = 5 ∧ q.wait = true ∧ q.moved = false ∧ isPeer q.place = true) →
    memOk s → (thr s c).wait = .snap rd a b q0 → v < 2 ^ 512 → access (dropReqs c 5 s) c b 64 needW true = (.ok qs, s1) →
    qs.headD (.dev 0) = .dev y → faraway s1 (.dev y) = false →
    ∃ (t : State), exec (.atomicReply c v) s = .next t ∧ placeRead t (.dev y) 64 = toBytes 64 v ∧
      (thr t c).getX rd = (if rd = 0 then 0 else BitVec.ofNat 64 (((List.range 16).map (fun j => v / 2 ^ (32 * j) % 2 ^ 32)).sum)) ∧
      (thr t c).wait = .none ∧ (thr t c).pc = ((thr s c).step 4).pc)

/-- 05 R154 to R157. A cell-scope fence or release orders nothing beyond the core, where accesses take effect in order.
Where the spec leaves a point open it follows the model's choice: log entries 93 and 126, and 112 for BINDVAL ahead of BINDFULL and the
base taken with all its 64 bits, and 136 for the words that are objects. -/
def Obligations.FencesAcquiresAndBinds : Prop :=
  (∀ (s : State) (ra g sc : Nat), sc ≠ 0 → fenceWaits s s.cur = true →
    (Ready s g [] → exec (.fence g sc) s = .next (spin false s)) ∧
    (Ready s g [ra] → exec (.rel ra g sc) s = .next (spin false s))) ∧
  (∀ (s : State) (g sc : Nat), Ready s g [] → (sc = 0 ∨ fenceWaits s s.cur = false) →
    ∃ (t : State), exec (.fence g sc) s = .next t ∧ (th t).pc = (th (advance 4 s)).pc ∧ (th t).wait = .none ∧
      (sc ≠ 0 → ∀ r ∈ t.reqs, r.thread ≠ (th s).id) ∧
      (sc = 4 → ∀ p ∈ t.quarters, p.2.msc = []) ∧
      (sc ≠ 4 → t.quarters = s.quarters) ∧ (sc = 0 → t.reqs = s.reqs) ∧ (∀ r, rx t r = rx s r)) ∧
  (∀ (s : State) (ra g sc : Nat), Ready s g [ra] →
    (sc ≠ 4 → exec (.acq ra g sc) s = .next (advance 4 s)) ∧
    (sc = 4 → ∃ (t : State), exec (.acq ra g sc) s = .next t ∧ (th t).pc = (th (advance 4 s)).pc ∧
      (∀ p ∈ t.quarters, ∀ e ∈ p.2.msc, boundTo (th s) (rx s ra) e.1 = false) ∧
      (∀ q k, boundTo (th s) (rx s ra) k = false → mget? (quarter t q).msc k = mget? (quarter s q).msc k)) ∧
    (sc = 0 ∨ fenceWaits s s.cur = false → ∃ (t : State), exec (.rel ra g sc) s = .next t ∧
      (th t).pc = (th (advance 4 s)).pc ∧ (sc ≠ 0 → ∀ r ∈ t.reqs, r.thread ≠ (th s).id) ∧
      ∀ p ∈ t.quarters, ∀ e ∈ p.2.msc, boundTo (th s) (rx s ra) e.1 = true → e.2.dirty = false)) ∧
  (∀ (s : State) (rd ra rb g : Nat), Ready s g [rd, ra, rb] →
    (objectOk s (rx s rd) = true → (rx s rb).toNat ≠ 0 → (rx s ra).toNat + (rx s rb).toNat ≤ winBase →
      ((th s).bind.length < 16 → ∃ (t : State), exec (.bind rd ra rb g) s = .next t ∧
        (th t).bind = (th s).bind ++ [⟨rx s rd, (rx s ra).toNat, (rx s rb).toNat⟩] ∧ (th t).pc = (th (advance 4 s)).pc) ∧
      (16 ≤ (th s).bind.length → exec (.bind rd ra rb g) s = .next (trap 0x112 (rx s rd) s))) ∧
    (objectOk s (rx s rd) = false ∨ (rx s rb).toNat = 0 ∨ winBase < (rx s ra).toNat + (rx s rb).toNat →
      exec (.bind rd ra rb g) s = .next (trap 0x113 (rx s rd) s))) ∧
  (∀ (s : State) (rd g : Nat), Ready s g [rd] → ∃ (t : State), exec (.unbind rd g) s = .next t ∧
    (∀ b, b ∈ (th t).bind ↔ b ∈ (th s).bind ∧ b.obj ≠ rx s rd) ∧ (th t).pc = (th (advance 4 s)).pc)

/-- 05 R157, R158. An arrival is a release of the barrier: it waits for the thread's accesses.
Where the spec leaves a point open it follows the model's choice: log entries 68, 112 for BARSPACE ahead of BARINIT, and 136 for the
owner that runs no thread. -/
def Obligations.NamedBarriers : Prop :=
  (∀ (s : State) (ra g n : Nat), Ready s g [ra] → (th s).status.txn = false →
    ((rx s ra).toNat < 2 ^ 16 → ∃ (t : State), exec (.barInit ra g n) s = .next t ∧
      barrier t s.cur n = ⟨BitVec.ofNat 16 (rx s ra).toNat, 0, (barrier s s.cur n).phase⟩ ∧ (th t).pc = (th (advance 4 s)).pc) ∧
    (2 ^ 16 ≤ (rx s ra).toNat → exec (.barInit ra g n) s = .next (trap 0x117 (BitVec.ofNat 64 n) s))) ∧
  (∀ (s : State) (rd ra g n o : Nat) (b : Barrier), Ready s g [ra, rd] → (th s).status.txn = false →
    (ra = 0 ∧ o = s.cur ∨ ra ≠ 0 ∧ (rx s ra).toNat = o ∧ o < 256) → (thr s o).asid = (th s).asid → b = barrier s o n →
    (b.target ≠ 0 → fenceWaits s s.cur = false → ∃ (t : State), exec (.barArrive rd ra g n) s = .next t ∧
      rx t rd = (if rd = 0 then 0 else if b.phase then 1 else 0) ∧ (th t).pc = (th (advance 4 s)).pc ∧
      (∀ q ∈ t.reqs, q.thread ≠ (th s).id) ∧
      (∀ p ∈ t.quarters, ∀ l ∈ p.2.msc, boundTo (th s) (barObject o n) l.1 = true → l.2.dirty = false) ∧
      barrier t o n = (if b.arrivals + 1 = b.target then ⟨b.target, 0, !b.phase⟩ else ⟨b.target, b.arrivals + 1, b.phase⟩)) ∧
    (b.target ≠ 0 → fenceWaits s s.cur = true →
      exec (.barArrive rd ra g n) s = .next (spin false s) ∧
      (mget? (th s).synced (th s).pc.toNat = none → exec (.barSync ra g n) s = .next (spin false s))) ∧
    (b.target = 0 → exec (.barArrive rd ra g n) s = .next (trap 0x114 (BitVec.ofNat 64 n) s) ∧
      (mget? (th s).synced (th s).pc.toNat = none → exec (.barSync ra g n) s = .next (trap 0x114 (BitVec.ofNat 64 n) s))) ∧
    (b.phase ≠ (rx s rd).getLsbD 0 → exec (.barWait rd ra g n) s = .next (advance 4 s)) ∧
    (b.phase = (rx s rd).getLsbD 0 → exec (.barWait rd ra g n) s = .next (spin true s)) ∧
    (mget? (th s).synced (th s).pc.toNat = none → b.target ≠ 0 → fenceWaits s s.cur = false →
      (b.arrivals + 1 = b.target → ∃ (t : State), exec (.barSync ra g n) s = .next t ∧
        (th t).pc = (th (advance 4 s)).pc ∧ (th t).wait = .none ∧ barrier t o n = ⟨b.target, 0, !b.phase⟩) ∧
      (b.arrivals + 1 ≠ b.target → ∃ (t : State), exec (.barSync ra g n) s = .next t ∧
        (th t).pc = (th s).pc ∧ (th t).wait = .again true ∧ mget? (th t).synced (th s).pc.toNat = some b.phase ∧
        barrier t o n = ⟨b.target, b.arrivals + 1, b.phase⟩)) ∧
    (∀ ph, mget? (th s).synced (th s).pc.toNat = some ph →
      (b.phase ≠ ph → ∃ (t : State), exec (.barSync ra g n) s = .next t ∧ (th t).pc = (th (advance 4 s)).pc ∧
        (th t).wait = .none ∧ mget? (th t).synced (th s).pc.toNat = none ∧ barrier t o n = b) ∧
      (b.phase = ph → exec (.barSync ra g n) s = .next (spin true s)))) ∧
  (∀ (s : State) (rd ra g n : Nat), Ready s g [ra, rd] → (th s).status.txn = false → ra ≠ 0 →
    (256 ≤ (rx s ra).toNat → exec (.barArrive rd ra g n) s = .next (trap 0x117 (BitVec.ofNat 64 n) s) ∧
      exec (.barSync ra g n) s = .next (trap 0x117 (BitVec.ofNat 64 n) s) ∧
      exec (.barWait rd ra g n) s = .next (trap 0x117 (BitVec.ofNat 64 n) s)) ∧
    ((rx s ra).toNat < 256 → (thr s (rx s ra).toNat).asid ≠ (th s).asid →
      exec (.barArrive rd ra g n) s = .next (trap 0x115 (BitVec.ofNat 64 n) s) ∧
      exec (.barSync ra g n) s = .next (trap 0x115 (BitVec.ofNat 64 n) s) ∧
      exec (.barWait rd ra g n) s = .next (trap 0x115 (BitVec.ofNat 64 n) s))) ∧
  (∀ (s : State) (c n : Nat), (thr s c).wait = .again true → overrun s c = true → barAt s c = some n →
    exec (.barrierWaitTimeout c) s = .next (trapCore c 0x116 (BitVec.ofNat 64 n) s))

/-- 05 R157, R161, R162. `s1` has the age set, `w` is the request, and `w1`, `s2` are what its home makes of it as it arrives there (14
R363). Where the spec leaves a point open it follows the model's choice: log entry 61. -/
def Obligations.LockRequestsAnswerOrWait : Prop :=
  ∀ (s s1 s2 : State) (rd ra g lv md id : Nat) (sp : BitVec 16) (name : Word) (w w1 : LockWait) (e : Instr) (up tr : Bool),
    Ready s g [ra] → (th s).status.txn = false → name = rx s ra → id = (th s).id → sp = (th s).asid →
    (e = .lkReq rd ra g lv md ∧ up = false ∧ tr = false ∨ e = .lkTry rd ra g lv md ∧ up = false ∧ tr = true ∨
      e = .lkUp rd ra g lv md ∧ up = true ∧ tr = false) →
    (lockNameOk s sp.toNat name = false ∨ nameLevel name ≠ lv → exec e s = .next (trap 0x1C2 name s)) ∧
    (lockNameOk s sp.toNat name = true → nameLevel name = lv →
      (modeAt md lv = false → exec e s = .next (trap 0x1C3 name s)) ∧
      (modeAt md lv = true → (th s).status.wpend = true → exec e s = .next (trap 0x1C1 name (clearWounds id s))) ∧
      (modeAt md lv = true → (th s).status.wpend = false →
        (coveredBy s id sp name md = true → exec e s = .next (retX rd 1 s)) ∧
        (coveredBy s id sp name md = false →
          (∀ h, heldMode s id sp name = some h → covers h md = true → exec e s = .next (retX rd 2 s)) ∧
          (∀ h, heldMode s id sp name = some h → covers h md = false → covers md h = false →
            exec e s = .next (trap 0x1C3 name s)) ∧
          (heldMode s id sp name = none → up = true → exec e s = .next (trap 0x1C5 name s)) ∧
          (heldMode s id sp name = none ∧ up = false ∨
              (∃ h, heldMode s id sp name = some h ∧ covers h md = false ∧ covers md h = true) →
            (orderOk s id sp name md = false → exec e s = .next (trap 0x1C4 name s)) ∧
            (orderOk s id sp name md = true → heldMode s id sp name = none → holdOf s id sp name false false = none →
              256 ≤ (explicitOf s id).length → exec e s = .next (trap 0x1C6 name s)) ∧
            (orderOk s id sp name md = true →
              (heldMode s id sp name = none → holdOf s id sp name false false = none → (explicitOf s id).length < 256) →
              (ageWaits s = true → exec e s = .next (spin false s)) ∧
              (ageWaits s = false → s1 = aged s → w = mkLock s1 name false md false tr false → (w1, s2) = arriving w s1 →
                (lockRemote s1 sp name = true →
                  exec e s = .next (await (.lock rd) { s1 with lockq := s1.lockq ++ [{ w with remote := true }] })) ∧
                (lockRemote s1 sp name = false → lockAtOnce s1 w = false →
                  (tr = true → exec e s = .next (retX rd 3 s1)) ∧
                  (tr = false → exec e s = .next (await (.lock rd) { s1 with lockq := s1.lockq ++ [w] }))) ∧
                (lockRemote s1 sp name = false → grantable s2 w1 = true → (∀ v ∈ s.lockq, v.thread ≠ id) →
                  (escalation s2 w1 = none → ∃ (t : State), exec e s = .next t ∧ rx t rd = 0 ∧
                    (th t).pc = (th (advance 4 s)).pc ∧ heldMode t id sp name = some md ∧
                    (∀ r, ¬ (r.thread = id ∧ r.space = sp ∧ r.name = name ∧ r.addr = false ∧ r.implicit = false) →
                      r.thread = id → (r ∈ t.locks ↔ r ∈ s.locks)) ∧
                    (s.lockq = [] → ∀ r, r.thread ≠ id → (r ∈ t.locks ↔ r ∈ s.locks))) ∧
                  (∀ v, escalation s2 w1 = some v → grantable s2 v = true → ∃ (t : State), exec e s = .next t ∧
                    rx t rd = (if rd = 0 then 0 else 1) ∧ (th t).pc = (th (advance 4 s)).pc ∧
                    ∃ r ∈ t.locks, r.thread = id ∧ r.space = sp ∧ r.name = v.name ∧ r.addr = false ∧ r.implicit = false ∧
                      r.mode = v.mode))))))))

/-- 05 R157, R163; 14 R374. Each release of a lock waits for the thread's accesses and for the commit of a complete wave in its districts, and writes back what the thread has bound to it.
Where the spec leaves a point open it follows the model's choice: log entry 125, and 110 for `lk.query` of a word that is no lock name. -/
def Obligations.LockReleasesAndQueries : Prop :=
  ∀ (s : State) (rd ra g : Nat) (name : Word), Ready s g [ra] → name = rx s ra →
    ((th s).status.txn = false →
      (holdOf s (th s).id (th s).asid name false false = none → exec (.lkRel ra g) s = .next (trap 0x1C5 name s)) ∧
      (holdOf s (th s).id (th s).asid name false false ≠ none →
        ((∃ r ∈ explicitOf s (th s).id, recUnder s (th s).asid name r = true) →
          exec (.lkRel ra g) s = .next (trap 0x1C4 name s)) ∧
        ((∀ r ∈ explicitOf s (th s).id, recUnder s (th s).asid name r = false) →
          (commitWaits s = true ∨ fenceWaits s s.cur = true → exec (.lkRel ra g) s = .next (spin false s)) ∧
          (commitWaits s = false → fenceWaits s s.cur = false → (∀ v ∈ s.lockq, v.thread ≠ (th s).id) →
            ∃ (t : State), exec (.lkRel ra g) s = .next t ∧ (th t).pc = (th (advance 4 s)).pc ∧ (∀ i, rx t i = rx s i) ∧
              (∀ q ∈ t.reqs, q.thread ≠ (th s).id) ∧
              (∀ p ∈ t.quarters, ∀ l ∈ p.2.msc, boundTo (th s) name l.1 = true → l.2.dirty = false) ∧
              (∀ r, r.thread = (th s).id → (r ∈ t.locks ↔ r ∈ s.locks ∧
                ¬ (r.space = (th s).asid ∧ r.name = name ∧ r.addr = false ∧ r.implicit = false))) ∧
              (s.lockq = [] → ∀ r, r.thread ≠ (th s).id → (r ∈ t.locks ↔ r ∈ s.locks))))) ∧
      (commitWaits s = true ∨ fenceWaits s s.cur = true → exec (.lkRelall g) s = .next (spin false s)) ∧
      (commitWaits s = false → fenceWaits s s.cur = false → (∀ v ∈ s.lockq, v.thread ≠ (th s).id) →
        ∃ (t : State), exec (.lkRelall g) s = .next t ∧ (th t).pc = (th (advance 4 s)).pc ∧ (∀ i, rx t i = rx s i) ∧
          (∀ q ∈ t.reqs, q.thread ≠ (th s).id) ∧
          (∀ r, r.thread = (th s).id → (r ∈ t.locks ↔ r ∈ s.locks ∧ r.implicit = true)) ∧
          (s.lockq = [] → ∀ r, r.thread ≠ (th s).id → (r ∈ t.locks ↔ r ∈ s.locks)))) ∧
    (∃ v, exec (.lkQuery rd ra g) s = .next (retX rd v s) ∧
      ((explicitOf s (th s).id).length < 2 ^ 48 → (∀ m, heldMode s (th s).id (th s).asid name = some m → m < 8) →
        bits v 63 16 = (explicitOf s (th s).id).length ∧
        (bit v 4 = true ↔ ∃ a ∈ ancestors s (th s).asid.toNat name, ∃ m, heldMode s (th s).id (th s).asid a = some m ∧
          coversBelow m = true) ∧
        bits v 3 0 = (match heldMode s (th s).id (th s).asid name with | some m => 8 + m | none => 0)))

/-- 14 R363 to R369, R373; 05 R157, R162. `s0` is the state without the request that comes to its home, `w1` and `s1` what the home
makes of it. Where the spec leaves a point open it follows the model's choice: log entry 80, and 108 for the room of an engine. -/
def Obligations.LockManagerGrantsAndWounds : Prop :=
  (∀ (s s0 s1 : State) (w w1 : LockWait) (n rd : Nat), s.lockq[n]? = some w → w.arrived = false → w.remote = false →
    w.implicit = false → s0 = { s with lockq := listDel s.lockq n } → (w1, s1) = arriving w s0 →
    (grantable s1 w1 = true → (thr s w.core).wait = .lock rd → (thr s w.core).id = w.thread →
      (∀ v ∈ s0.lockq, v.thread ≠ w.thread) →
      (escalation s1 w1 = none → ∃ (t : State), exec (.lockRequestAtHome n) s = .next t ∧
        (∃ r ∈ t.locks, r.thread = w.thread ∧ r.same w.space w.name w.addr = true ∧ r.implicit = false ∧ r.mode = w.mode ∧
          r.folded = false) ∧
        (thr t w.core).wait = .none ∧ (thr t w.core).getX rd = 0 ∧ (thr t w.core).pc = ((thr s w.core).step 4).pc) ∧
      (∀ v, escalation s1 w1 = some v → grantable s1 v = true → ∃ (t : State), exec (.lockRequestAtHome n) s = .next t ∧
        (∃ r ∈ t.locks, r.thread = w.thread ∧ r.space = w.space ∧ r.name = v.name ∧ r.implicit = false ∧ r.mode = v.mode) ∧
        (thr t w.core).wait = .none ∧ (thr t w.core).getX rd = (if rd = 0 then 0 else 1) ∧
        (thr t w.core).pc = ((thr s w.core).step 4).pc)) ∧
    (grantable s1 w1 = false → ∃ (t : State) (v : LockWait), exec (.lockRequestAtHome n) s = .next t ∧
      t.lockq = s0.lockq ++ [v] ∧ v.arrived = true ∧ v.name = w.name ∧ v.thread = w.thread ∧ v.mode = w.mode ∧
      t.locks = s.locks ∧ t.cores = s.cores ∧
      ∀ r ∈ s.locks, r.same w.space w.name w.addr = true → r.thread ≠ w.thread → r.folded = false →
        compat w1.mat r.mode w.mode = false → w.age.toNat < r.age.toNat → r.thread ∉ w.wounded →
        ∃ x ∈ t.wounds, x.thread = r.thread ∧ x.space = w.space ∧ x.name = w.name ∧ x.addr = w.addr ∧ x.at_ = s.ns ∧
          x.arrived = false ∧ x.gone = false)) ∧
  (∀ (s : State) (n : Nat) (w : Wound), s.wounds[n]? = some w → w.arrived = false → isRemote w.thread = false →
    (threadOf s w.thread = none → exec (.woundArrival n) s = .next { s with wounds := listDel s.wounds n }) ∧
    ((∃ d ∈ s.dying, d.thread = w.thread) → exec (.woundArrival n) s = .next { s with wounds := listDel s.wounds n }) ∧
    (∀ c, coreOfThread s w.thread = some c → (thr s c).id = w.thread → (∀ d ∈ s.dying, d.thread ≠ w.thread) →
      (woundable s (thr s c) = false → exec (.woundArrival n) s = .next { s with wounds := listDel s.wounds n }) ∧
      (woundable s (thr s c) = true → (core s c).cstat ≠ 4 →
        ((∀ rd, (thr s c).wait ≠ .lock rd) → ∃ (t : State), exec (.woundArrival n) s = .next t ∧
          (thr t c).status.wpend = true ∧ t.wounds = listSet s.wounds n { w with arrived := true }) ∧
        (∀ rd name, (thr s c).wait = .lock rd → waitName s w.thread = some name → (thr s c).status.intrap = false →
          (∀ d, d ≠ c → (thr s d).id ≠ w.thread) → ∃ (t : State), exec (.woundArrival n) s = .next t ∧ (∀ v ∈ t.lockq, v.thread ≠ w.thread) ∧
            (thr t c).cause = ⟨false, 0x1C1⟩ ∧ (thr t c).tval = name ∧ (thr t c).status.wpend = false ∧ (thr t c).wait = .none))) ∧
    (∀ t0, (∀ d ∈ s.dying, d.thread ≠ w.thread) → coreOfThread s w.thread = none → threadOf s w.thread = some t0 → woundable s t0 = true → t0.status.txn = false →
      ∃ (t : State), exec (.woundArrival n) s = .next t ∧
        ∀ k ∈ t.saved, k.t.id = w.thread → k.boost = true ∧ k.t.status.wpend = true)) ∧
  (∀ (s : State) (c : Nat), woundDue s c = true → coreOfThread s (thr s c).id = some c →
    (∀ d, d ≠ c → (thr s d).id ≠ (thr s c).id) →
    ∃ (t : State), exec (.woundAsyncEntry c) s = .next t ∧ (thr t c).cause = ⟨true, 0x1C1⟩ ∧ (thr t c).tval = 0 ∧
      (thr t c).status.wpend = false ∧
      (thr t c).pc = pcOf ((core s c).tvec.toNat * 256) ∧ (thr t c).epc = BitVec.ofNat 54 ((thr s c).pc.toNat / 4) ∧
      (thr t c).status.ie = false ∧ (thr t c).status.supv = true ∧ (thr t c).status.intrap = true) ∧
  (∀ (s : State) (n : Nat) (w : Wound) (c : Nat), s.wounds[n]? = some w → coreOfThread s w.thread = some c →
    (thr s c).id = w.thread → (∀ d, d ≠ c → (thr s d).id ≠ w.thread) → (∀ v ∈ s.lockq, v.thread ≠ w.thread) →
    lmRevoke s ≠ 0 → w.at_ + lmRevoke s * 64000 ≤ s.ns → holdsContested s w = true → accessPending s w.thread = false →
    ∃ (t : State), exec (.lockRevoke n) s = .next t ∧ (∀ x ∈ t.wounds, x.thread = w.thread → x.arrived = false) ∧
      (∀ r ∈ t.locks, r.thread ≠ w.thread) ∧ (s.lockq = [] → ∀ r ∈ s.locks, r.thread ≠ w.thread → r ∈ t.locks) ∧
      (thr t c).status.txn = false ∧ (thr t c).status.wpend = false ∧ t.lmRevokes = satInc s.lmRevokes ∧
      (core t c).events = (core s c).events ++ [⟨0x1C7, w.name, 0⟩]) ∧
  (∀ (s : State) (n : Nat) (w : Wound), s.wounds[n]? = some w → accessPending s w.thread = true → exec (.lockRevoke n) s = .next s) ∧
  (∀ (s : State) (w : LockWait) (e : Nat), e = lockEngine w.space w.name w.addr →
    holdOf s w.thread w.space w.name w.addr w.implicit = none → engineRecords + Config.overflowRecords e ≤ recordsAt s e →
    grantable s w = false)

/-- 05 R157, R164 to R167; 14 R372. Of the thread of core c, from s to t. -/
def Obligations.TransactionsCommitAndAbort : Prop :=
  let aborted (s t : State) (c st : Nat) : Prop :=
    (thr t c).status.txn = false ∧ (thr t c).pc = pcOf (thr s c).tx.restart.toNat ∧ (thr t c).wait = .none ∧
    (thr t c).tx.undo = [] ∧ (thr t c).tx.attempts = (thr s c).tx.attempts + 1 ∧
    ((thr s c).tx.rd ≠ 0 → (thr t c).getX (thr s c).tx.rd = BitVec.ofNat 64 st) ∧
    (thr t c).tx.last = BitVec.ofNat 12 st ∧ (s.lockq = [] → ∀ r, r ∈ t.locks ↔ r ∈ s.locks ∧ ¬ (r.thread = (thr s c).id ∧ r.implicit = true)) ∧
    ((∀ x ∈ pendingWounds s (thr s c).id, x.implicit = true) → (thr t c).status.wpend = false) ∧
    (memOk s → ((thr s c).tx.undo.map Prod.fst).Nodup → (∀ u ∈ (thr s c).tx.undo, u.2.1.length = 128) →
      (∀ u ∈ (thr s c).tx.undo, readBytes t.dev.cells (128 * u.1) 128 = u.2.1 ∧ isPois t.dev (2 * u.1) = u.2.2.1 ∧
        isPois t.dev (2 * u.1 + 1) = u.2.2.2) ∧
      (∀ a, (∀ u ∈ (thr s c).tx.undo, a / 128 ≠ u.1) → cellGet t.dev.cells a = cellGet s.dev.cells a))
  let committed (s t : State) (c rd : Nat) : Prop :=
    (thr t c).status.txn = false ∧ (thr t c).tx.undo = [] ∧ (thr t c).getX rd = 0 ∧
    (thr t c).pc = ((thr s c).step 4).pc ∧ t.dev = s.dev ∧ (s.lockq = [] → ∀ r, r ∈ t.locks ↔ r ∈ s.locks ∧ ¬ (r.thread = (thr s c).id ∧ r.implicit = true)) ∧
    (∀ p ∈ t.quarters, ∀ l ∈ p.2.msc, (∃ x ∈ (thr s c).tx.cached, x.1 = l.1) → l.2.dirty = false)
  (∀ (s : State) (rd ra rb rn lv md n g : Nat), Ready s g [ra] → coreOfThread s (th s).id = some s.cur →
    (∀ d, d ≠ s.cur → (thr s d).id ≠ (th s).id) →
    ((th s).status.txn = false →
      ((rx s ra).toNat % 4 = 0 → (rx s ra).toNat < 2 ^ 56 →
        (ageWaits s = true → exec (.txBegin rd ra g) s = .next (spin false s)) ∧
        (ageWaits s = false → ∃ (t : State), exec (.txBegin rd ra g) s = .next t ∧ (th t).status.txn = true ∧
          (th t).tx.restart = rx s ra ∧ (th t).tx.rd = rd ∧ (th t).tx.undo = [] ∧ rx t rd = 0 ∧ (th t).pc = (th (advance 4 s)).pc ∧
          (th t).age = (if (th s).age = 0 then newAge s else (th s).age) ∧
          (th t).tx.attempts = (if (th s).age = 0 then 0 else (th s).tx.attempts))) ∧
      ((rx s ra).toNat % 4 ≠ 0 ∨ 2 ^ 56 ≤ (rx s ra).toNat → exec (.txBegin rd ra g) s = .next (trap 0x004 (rx s ra) s)) ∧
      exec (.txEnd rd g) s = .next (trap 0x1CA 0 s) ∧ exec (.txAbort ra g) s = .next (trap 0x1CA 0 s)) ∧
    ((th s).status.txn = true →
      (∀ e, (e = .txBegin rd ra g ∨ e = .lkReq rn ra g lv md ∨ e = .lkTry rn ra g lv md ∨ e = .lkUp rn ra g lv md ∨
          e = .lkRel ra g ∨ e = .lkRelall g ∨ e = .barInit ra g n ∨ e = .barArrive rd ra g n ∨ e = .barSync ra g n) →
        ∃ (t : State), exec e s = .next t ∧ aborted s t s.cur 0x300) ∧
      (Clean s [rb] → ∀ e, (e = .sig ra rb g ∨ e = .amoVaddN32 ra rb g ∨ e = .amoVaddF32 ra rb g ∨ e = .amoSnap rd ra rb g ∨
          e = .barWait rb ra g n) → ∃ (t : State), exec e s = .next t ∧ aborted s t s.cur 0x300) ∧
      (∃ (t : State), exec (.txAbort ra g) s = .next t ∧ aborted s t s.cur (0x200 + (rx s ra).toNat % 256)) ∧
      ((th s).status.wpend = true → ∃ (t : State), exec (.txEnd rd g) s = .next t ∧ aborted s t s.cur 0x100) ∧
      ((th s).status.wpend = false →
        (outstanding s s.cur = false → ∃ (t : State), exec (.txEnd rd g) s = .next t ∧ committed s t s.cur rd) ∧
        (outstanding s s.cur = true → exec (.txEnd rd g) s = .next (await (.tx rd) s)))) ∧
    (exec (.txStat rd g) s = .next (retX rd (BitVec.ofNat 64 ((th s).tx.attempts.toNat * 2 ^ 32 +
      (if (th s).status.txn then 2 ^ 31 else 0) + (th s).tx.last.toNat)) s))) ∧
  (∀ (s : State) (c rd : Nat), (thr s c).wait = .tx rd →
    (outstanding s c = true → exec (.txCommit c) s = .next s) ∧
    (outstanding s c = false → (thr s c).status.wpend = false → ∃ (t : State), exec (.txCommit c) s = .next t ∧ committed s t c rd) ∧
    (outstanding s c = false → (thr s c).status.wpend = true → coreOfThread s (thr s c).id = some c →
      (∀ d, d ≠ c → (thr s d).id ≠ (thr s c).id) → ∃ (t : State), exec (.txCommit c) s = .next t ∧ aborted s t c 0x100)) ∧
  (∀ (s : State) (c : Nat), txWoundDue s c = true → coreOfThread s (thr s c).id = some c →
    (∀ d, d ≠ c → (thr s d).id ≠ (thr s c).id) →
    ∃ (t : State), exec (.txWoundAbort c) s = .next t ∧ aborted s t c 0x100)

/-- 06 R203, R204.
Where the spec leaves a point open it follows the model's choice: log entries 35 (the mode in which a decrement is translated), 39, 50, 59, 64 and 128 (a counter outside device memory). -/
def Obligations.TasksSpawnJoinAndEnd : Prop :=
  (∀ (s s1 : State) (rd ra g : Nat) (r : Rec), Ready s g [ra] → (th s).status.txn = false →
    spawnRecord s (addr56 (rx s ra)) = (.ok r, s1) →
    (fenceWaits s1 s1.cur = true → exec (.spawn rd ra g) s = .next (spin false s1)) ∧
    (fenceWaits s1 s1.cur = false → r.bad (queue s1 r.queue).asid false = true ∨ (queue s1 r.queue).state = 0 →
      exec (.spawn rd ra g) s = .next (trap 0x241 (rx s ra) (settle 3 s1.cur s1))) ∧
    (fenceWaits s1 s1.cur = false → r.bad (queue s1 r.queue).asid false = false →
      ((queue s1 r.queue).state ≠ 0 → (queue s1 r.queue).accepts = false →
        ∃ (t : State), exec (.spawn rd ra g) s = .next t ∧ (rd ≠ 0 → rx t rd = 1) ∧ (th t).pc = (th (advance 4 s1)).pc ∧
          t.queues = s1.queues ∧ (r.join ≠ 0 → t.decrs = s1.decrs ++ [⟨r.join, r.asid, false, true, r.queue, none⟩])) ∧
      ((queue s1 r.queue).accepts = true → copyWaits s1 r.queue r = true →
        exec (.spawn rd ra g) s = .next (spin true (settle 3 s1.cur s1))) ∧
      ((queue s1 r.queue).accepts = true → copyWaits s1 r.queue r = false →
        (r.gang = 0 → ((queue s1 r.queue).lane r.prio).length < (queue s1 r.queue).cap →
          ∃ (t : State), exec (.spawn rd ra g) s = .next t ∧ rx t rd = 0 ∧ (th t).pc = (th (advance 4 s1)).pc ∧
            (queue t r.queue).lane r.prio = (queue s1 r.queue).lane r.prio ++ [⟨r, s1.ns, none, none⟩]) ∧
        (r.gang = 0 → (queue s1 r.queue).cap ≤ ((queue s1 r.queue).lane r.prio).length →
          ∃ (t : State), exec (.spawn rd ra g) s = .next t ∧ (th t).wait = .again true ∧ (th t).pc = (th s1).pc ∧ t.queues = s1.queues) ∧
        (r.gang ≠ 0 → gangAt s1 r.asid r.gang = none → s1.gangs.length < 16 →
          ∃ (t : State), exec (.spawn rd ra g) s = .next t ∧ rx t rd = 0 ∧ (th t).pc = (th (advance 4 s1)).pc ∧
            t.gangs = s1.gangs ++ [⟨r.asid, r.gang, r.gsize, r.queue, [⟨r, s1.ns, none, none⟩]⟩]) ∧
        (r.gang ≠ 0 → gangAt s1 r.asid r.gang = none → 16 ≤ s1.gangs.length →
          exec (.spawn rd ra g) s = .next (spin true (settle 3 s1.cur s1))) ∧
        (∀ k m l, r.gang ≠ 0 → gangAt s1 r.asid r.gang = some k → k.members = m :: l →
          (k.size ≤ k.members.length → exec (.spawn rd ra g) s = .next (spin true (settle 3 s1.cur s1))) ∧
          (k.members.length < k.size → k.size ≠ r.gsize ∨ k.q ≠ r.queue ∨ m.r.prio ≠ r.prio →
            exec (.spawn rd ra g) s = .next (trap 0x241 (rx s ra) (settle 3 s1.cur s1))) ∧
          (k.members.length < k.size → k.size = r.gsize → k.q = r.queue → m.r.prio = r.prio →
            ∃ (t : State), exec (.spawn rd ra g) s = .next t ∧ rx t rd = 0 ∧ (th t).pc = (th (advance 4 s1)).pc ∧
              { k with members := k.members ++ [⟨r, s1.ns, none, none⟩] } ∈ t.gangs))))) ∧
  (∀ (s : State) (c : Nat) (a : Word), (thr s c).wait = .again true → overrun s c = true → spawnAt s c = some a →
    exec (.spawnWaitTimeout c) s = .next (trapCore c 0x242 a s)) ∧
  (∀ (s s1 : State) (g : Nat), Ready s g [] → (th s).status.txn = false →
    (doneBusy s = true → exec (.done g) s = .next (trap 0x243 0 s)) ∧
    (doneBusy s = false → engineLeft s = true → (th s).task = none → exec (.done g) s = .next (spin false s)) ∧
    (doneBusy s = false → engineLeft s = false → (th s).task = none →
      ∃ (t : State), exec (.done g) s = .next t ∧ (me t).cstat = 0 ∧ (th t).age = 0 ∧ (th t).task = none ∧ t.decrs = s.decrs) ∧
    (∀ k, doneBusy s = false → (th s).task = some k → joinCheck k s = (.ok (), s1) → engineLeft s1 = true →
      exec (.done g) s = .next (spin false s1)) ∧
    (∀ k, doneBusy s = false → (th s).task = some k → joinCheck k s = (.ok (), s1) → engineLeft s1 = false →
      ∃ (t : State), exec (.done g) s = .next t ∧ (me t).cstat = 0 ∧ (th t).age = 0 ∧ (th t).task = none ∧
        (k.rec_.walk = none → k.rec_.r.join = 0 → t.decrs = s1.decrs) ∧
        (k.rec_.walk ≠ none ∨ k.rec_.r.join ≠ 0 → t.decrs = s1.decrs ++
          [⟨k.rec_.r.join, (th s1).asid, (th s1).status.supv, false, k.q, k.rec_.walk⟩]))) ∧
  (∀ (s s1 : State) (rd ra rb g : Nat) (p : Place), Ready s g [rd, ra, rb] → (th s).status.txn = false →
    tablePlace s (addr56 (rx s ra)) = (.ok p, s1) → isPeer p = false → migAt s1 p = none →
    ownPending s1 (addr56 (rx s ra)) 16 = false →
    (memOk s → 0 < (rx s rb).toNat → (rx s rb).toNat < 2 ^ 32 → (rx s rd).toNat % 32 = 0 → leNat (placeRead s1 p 4) = 0 →
      ∃ (t : State), exec (.joinInit rd ra rb g) s = .next t ∧ leNat (placeRead t p 8) = (rx s rb).toNat ∧
        leNat (placeRead t (p.plus 8) 8) = (rx s rd).toNat ∧ (th t).pc = (th (advance 4 s1)).pc ∧ ∀ i, rx t i = rx s i) ∧
    ((rx s rb).toNat = 0 ∨ 2 ^ 32 ≤ (rx s rb).toNat ∨ (rx s rd).toNat % 32 ≠ 0 ∨ leNat (placeRead s1 p 4) ≠ 0 →
      exec (.joinInit rd ra rb g) s = .next (trap 0x244 (rx s ra) s1))) ∧
  (∀ (s s1 : State) (rd ra g next last min workers rem n : Nat) (p : Place), Ready s g [ra] → (th s).status.txn = false →
    tablePlace s (addr56 (rx s ra)) = (.ok p, s1) → isPeer p = false → migAt s1 p = none →
    ownPending s1 (addr56 (rx s ra)) 16 = false →
    next = leNat (placeRead s1 p 4) → last = leNat (placeRead s1 (p.plus 4) 4) → min = leNat (placeRead s1 (p.plus 8) 4) →
    workers = leNat (placeRead s1 (p.plus 12) 4) → rem = last - next →
    n = Nat.min rem (Nat.max (Nat.max min 1) ((rem + 2 * workers - 1) / (2 * workers))) →
    (workers = 0 → exec (.chunk rd ra g) s = .next (trap 0x245 (rx s ra) s1)) ∧
    (workers ≠ 0 → rem = 0 → exec (.chunk rd ra g) s = .next (retX rd 0 s1)) ∧
    (workers ≠ 0 → rem ≠ 0 → ∃ (t : State), exec (.chunk rd ra g) s = .next t ∧
      (rd ≠ 0 → rx t rd = BitVec.ofNat 64 (next * 2 ^ 32 + n)) ∧ (memOk s → leNat (placeRead t p 4) = (next + n) % 2 ^ 32) ∧
      (th t).pc = (th (advance 4 s1)).pc))

/-- 06 R173 to R175; 09 R257. `reservedFor` is the rectangle that the hub reserved for the thread's task (12 R321).
Where the spec leaves a point open it follows the model's choice: log entry 24. -/
def Obligations.DistrictsAreAcquiredAndReleased : Prop :=
  let taken (s t : State) (c rd : Nat) (r : Rect) (gang : Nat) : Prop :=
    (thr t c).district = some s.nextId ∧ (thr t c).q = [] ∧ (thr t c).wait = .none ∧
    (rd ≠ 0 → (thr t c).getX rd = BitVec.ofNat 64 (r.q * 65536 + r.by_ * 256 + r.bx)) ∧
    (∃ k, mget? t.districts s.nextId = some k ∧ k.rect = r ∧ k.core = c ∧ k.thread = (thr s c).id ∧ k.gang = gang ∧
      k.asid = (thr s c).asid ∧ k.invs = [] ∧ k.cfg = none) ∧
    (∀ e, r.has (elemBlock e) = true → elem t e = .reset) ∧ (∀ d, d ≠ s.nextId → mget? t.districts d = mget? s.districts d)
  (∀ (s : State) (rd ra rb g z gang : Nat), Ready s g [ra, rb] → (th s).status.txn = false →
    gang = (rx s rb).toNat % 2 ^ 16 → z = spaceZone s (th s).asid.toNat →
    ((th s).district ≠ none → exec (.dacq rd ra rb g) s = .next (trap 0x149 (rx s ra) s)) ∧
    ((th s).district = none → dacqBad (rx s ra) (rx s rb) = true → exec (.dacq rd ra rb g) s = .next (trap 0x14B (rx s ra) s)) ∧
    (∀ r, (th s).district = none → dacqBad (rx s ra) (rx s rb) = false → reservedFor s (rx s ra) = some r →
      (gang = 0 ∨ gangSize s (th s).asid gang < 64 → ∃ (t : State), exec (.dacq rd ra rb g) s = .next t ∧
        taken s t s.cur rd r gang ∧ (th t).pc = (th (advance 4 s)).pc) ∧
      (gang ≠ 0 → 64 ≤ gangSize s (th s).asid gang → exec (.dacq rd ra rb g) s = .next (retX rd (2 ^ 63 + 3) s))) ∧
    ((th s).district = none → dacqBad (rx s ra) (rx s rb) = false → reservedFor s (rx s ra) = none →
      ((∀ r ∈ dacqRects (rx s ra), inZone s z r = false) → exec (.dacq rd ra rb g) s = .next (retX rd (2 ^ 63 + 2) (dropReserved s))) ∧
      (gang ≠ 0 → 64 ≤ gangSize s (th s).asid gang → (∃ r ∈ dacqRects (rx s ra), inZone s z r = true) →
        exec (.dacq rd ra rb g) s = .next (retX rd (2 ^ 63 + 3) (dropReserved s))) ∧
      (gang = 0 ∨ gangSize s (th s).asid gang < 64 → (∃ r ∈ dacqRects (rx s ra), inZone s z r = true) →
        (∀ r, firstFit (dropReserved s) z (dacqRects (rx s ra)) = some r → ∃ (t : State), exec (.dacq rd ra rb g) s = .next t ∧
          taken s t s.cur rd r gang ∧ (th t).pc = (th (advance 4 s)).pc) ∧
        (firstFit (dropReserved s) z (dacqRects (rx s ra)) = none →
          (bit (rx s ra) 31 = false → ∃ (t : State), exec (.dacq rd ra rb g) s = .next t ∧ (rd ≠ 0 → rx t rd = 2 ^ 63 + 1) ∧
            (th t).pc = (th (advance 4 s)).pc ∧ (th t).district = none) ∧
          (bit (rx s ra) 31 = true → ∃ (t : State), exec (.dacq rd ra rb g) s = .next t ∧ (th t).wait = .dacq ∧ (th t).pc = (th s).pc))))) ∧
  (∀ (s s1 u : State) (c rd ra rb g gang : Nat), (thr s c).wait = .dacq → runsNow s c = true →
    fetchInstr s c = (.ok (.dacq rd ra rb g), s1) → u = { s1 with cur := c } → gang = (rx u rb).toNat % 2 ^ 16 →
    (gang = 0 ∨ gangSize u (th u).asid gang < 64) → reservedFor u (rx u ra) = none →
    (∃ r ∈ dacqRects (rx u ra), inZone u (spaceZone u (th u).asid.toNat) r = true) →
    (∀ r, firstFit (dropReserved u) (spaceZone u (th u).asid.toNat) (dacqRects (rx u ra)) = some r →
      ∃ (t : State), exec (.dacqWaitGrant c) s = .next t ∧ taken u t c rd r gang ∧ (thr t c).pc = ((thr s c).step 4).pc) ∧
    (firstFit (dropReserved u) (spaceZone u (th u).asid.toNat) (dacqRects (rx u ra)) = none → bit (rx u ra) 31 = true →
      exec (.dacqWaitGrant c) s = .next s)) ∧
  (∀ (s : State) (g d : Nat) (k : District), Ready s g [] → (th s).status.txn = false →
    (myDist s = none → exec (.drel g) s = .next (trap 0x14A 0 s)) ∧
    (myDist s = some (d, k) → k.busy = true → exec (.drel g) s = .next (trap 0x14C 0 s)) ∧
    (myDist s = some (d, k) → k.busy = false → k.tdown ≠ none → exec (.drel g) s = .next (spin false s)) ∧
    (myDist s = some (d, k) → k.busy = false → k.tdown = none → k.thread = (th s).id → coreOfThread s (th s).id = some s.cur →
      ∃ (t : State), exec (.drel g) s = .next t ∧ (th t).pc = (th (advance 4 s)).pc ∧ (th t).district = none ∧ (th t).q = [] ∧
        mget? t.districts d = none ∧ (∀ e, k.hasElem e = true → elem t e = .reset) ∧ (∀ i, rx t i = rx s i) ∧
        (∀ w ∈ t.switches, k.rect.has w.1 = false ∧ ∀ x ∈ w.2.drive, leadsInto k.rect w.1 x.1 = false)))

/-- 06 R169, R173, R176 to R182; 13 R345 (the page of a completion object that is moving holds the instruction).
Where the spec leaves a point open it follows the model's choice: log entries 29, 63. -/
def Obligations.DistrictCommandsAreIssued : Prop :=
  let stream (a n : Word) : Prop := a.toNat % 4 = 0 ∧ (region (addr56 a) = 0 ∨ region (addr56 a) = 2) ∧ 0 < n.toNat ∧ n.toNat ≤ 2 ^ 24
  let flags (f : Word) : Prop := f.toNat < 8 ∧ f.toNat / 2 ≠ 1
  (∀ (s s1 : State) (rd ra rb g d : Nat) (p : Place) (k : District), Ready s g [rd, ra, rb] → (th s).status.txn = false →
    cplPlace s s.cur (addr56 (rx s rd)) = (.ok p, s1) → isPeer p = false →
    (myDist s1 = none → exec (.cfgLoad rd ra rb g) s = .next (trap 0x14A 0 s1) ∧
      exec (.invoke rd ra rb g) s = .next (trap 0x14A 0 s1) ∧ exec (.mstone rd ra g) s = .next (trap 0x14A 0 s1) ∧
      exec (.tdown rd g) s = .next (trap 0x14A 0 s1)) ∧
    (myDist s1 = some (d, k) →
      (stream (rx s ra) (rx s rb) → k.tdown = none → memOk s → migAt s1 p = none →
        ∃ (t : State) (k' : District), exec (.cfgLoad rd ra rb g) s = .next t ∧ ObjectEmptied s1 t p 4 ∧ mget? t.districts d = some k' ∧
          k'.cfgq = k.cfgq ++ [⟨rx s rd, BitVec.ofNat 64 (addr56 (rx s ra)), (rx s rb).toNat, 0, 0, false, none⟩]) ∧
      (stream (rx s ra) (rx s rb) → k.tdown = none → migAt s1 p ≠ none → exec (.cfgLoad rd ra rb g) s = .next (spinMoved false p s1)) ∧
      (stream (rx s ra) (rx s rb) → k.tdown ≠ none → exec (.cfgLoad rd ra rb g) s = .next (spin false s1)) ∧
      (¬ stream (rx s ra) (rx s rb) →
        exec (.cfgLoad rd ra rb g) s = .next (trap 0x14D (rx s ra) s1)) ∧
      (flags (rx s rb) → k.invs.length < 2 → k.tdown = none → memOk s → migAt s1 p = none →
        ∃ (t : State) (k' : District) (v : Inv), exec (.invoke rd ra rb g) s = .next t ∧ ObjectEmptied s1 t p 4 ∧ mget? t.districts d = some k' ∧
          k'.invs = k.invs ++ [v] ∧ v.id = s1.nextInv ∧ v.iter = rx s ra ∧ v.cpl = rx s rd ∧ v.seg = (rx s rb).getLsbD 0 ∧
          v.nan = (rx s rb).toNat / 2 ∧ v.bound = (th s).tagwait ∧ v.started = false) ∧
      (flags (rx s rb) → k.invs.length < 2 → k.tdown = none → migAt s1 p ≠ none →
        exec (.invoke rd ra rb g) s = .next (spinMoved false p s1)) ∧
      (flags (rx s rb) → 2 ≤ k.invs.length ∨ k.tdown ≠ none → exec (.invoke rd ra rb g) s = .next (spin false s1)) ∧
      (¬ flags (rx s rb) → exec (.invoke rd ra rb g) s = .next (trap 0x14F (rx s rb) s1)) ∧
      (k.caughtUp = true → migAt s1 p ≠ none → exec (.tdown rd g) s = .next (spinMoved false p s1) ∧
        ((rx s ra).toNat < 2 ^ 32 → k.lastWave < (rx s ra).toNat → exec (.mstone rd ra g) s = .next (spinMoved false p s1))) ∧
      (k.caughtUp = true → memOk s → migAt s1 p = none →
        ((rx s ra).toNat < 2 ^ 32 → k.lastWave < (rx s ra).toNat →
          ∃ (t : State) (k' : District), exec (.mstone rd ra g) s = .next t ∧ ObjectEmptied s1 t p 4 ∧ mget? t.districts d = some k' ∧
            k'.lastWave = (rx s ra).toNat ∧ k'.miles = k.miles ++ [⟨(rx s ra).toNat, rx s rd, k.running.isNone, false⟩]) ∧
        (∃ (t : State) (k' : District), exec (.tdown rd g) s = .next t ∧ ObjectEmptied s1 t p 4 ∧ mget? t.districts d = some k' ∧
          k'.tdown = some (rx s rd) ∧ k'.invs.length = k.invs.length ∧ ∀ v, k'.invs.getLast? = some v → v.tdown = true)) ∧
      (k.caughtUp = false → exec (.tdown rd g) s = .next (spin false s1) ∧
        ((rx s ra).toNat < 2 ^ 32 → k.lastWave < (rx s ra).toNat → exec (.mstone rd ra g) s = .next (spin false s1))) ∧
      ((rx s ra).toNat ≤ k.lastWave ∨ 2 ^ 32 ≤ (rx s ra).toNat → exec (.mstone rd ra g) s = .next (trap 0x14F (rx s ra) s1)))) ∧
  (∀ (s : State) (ra rb g d : Nat) (k : District), Ready s g [ra, rb] → (th s).status.txn = false →
    (myDist s = none → exec (.ctxset ra g) s = .next (trap 0x14A 0 s) ∧ exec (.cfgConst ra rb g) s = .next (trap 0x14A 0 s) ∧
      exec (.drain g) s = .next (trap 0x14A 0 s)) ∧
    (myDist s = some (d, k) →
      ((rx s ra).toNat < 2 ^ 9 → bits (rx s ra) 7 4 ≤ 11 → bits (rx s ra) 3 0 ≤ bits (rx s ra) 7 4 → k.caughtUp = true →
        ∃ (t : State) (k' : District), exec (.ctxset ra g) s = .next t ∧ mget? t.districts d = some k' ∧
          k'.ctxNext = some (bits (rx s ra) 3 0, bits (rx s ra) 7 4 + 1, (rx s ra).getLsbD 8) ∧ k'.ctxPos = k.ctxPos ∧ (th t).pc = (th (advance 4 s)).pc) ∧
      ((rx s ra).toNat < 2 ^ 9 → bits (rx s ra) 7 4 ≤ 11 → bits (rx s ra) 3 0 ≤ bits (rx s ra) 7 4 → k.caughtUp = false →
        exec (.ctxset ra g) s = .next (spin false s)) ∧
      (2 ^ 9 ≤ (rx s ra).toNat ∨ 11 < bits (rx s ra) 7 4 ∨ bits (rx s ra) 7 4 < bits (rx s ra) 3 0 → exec (.ctxset ra g) s = .next (trap 0x14F (rx s ra) s)) ∧
      (bits (rx s ra) 63 32 ≠ 0 ∨ bits (rx s ra) 23 18 ≠ 0 → exec (.cfgConst ra rb g) s = .next (trap 0x141 (rx s ra) s)) ∧
      (bits (rx s ra) 63 32 = 0 → bits (rx s ra) 23 18 = 0 →
        ¬ (bits (rx s ra) 5 0 < 8 * k.rect.w ∧ bits (rx s ra) 11 6 < 8 * k.rect.h) ∨ isStore (k.rect.elem (bits (rx s ra) 5 0) (bits (rx s ra) 11 6)) = true →
        exec (.cfgConst ra rb g) s = .next (trap 0x142 (rx s ra) s)) ∧
      (∀ e f l, bits (rx s ra) 63 32 = 0 → bits (rx s ra) 23 18 = 0 →
        bits (rx s ra) 5 0 < 8 * k.rect.w → bits (rx s ra) 11 6 < 8 * k.rect.h → e = k.rect.elem (bits (rx s ra) 5 0) (bits (rx s ra) 11 6) →
        isStore e = false → f = 0xC0 + bits (rx s ra) 15 12 → l = k.staging.getD [] →
        (k.caughtUp = false ∨ k.gated = true → exec (.cfgConst ra rb g) s = .next (await .cfgConst s)) ∧
        (k.caughtUp = true → k.gated = false →
          (bits (rx s ra) 17 16 = 0 → ∃ (t : State), exec (.cfgConst ra rb g) s = .next t ∧ (elem t e).field f = lo32 (rx s rb) ∧
            t.districts = s.districts ∧ (th t).pc = (th (advance 4 s)).pc) ∧
          (bits (rx s ra) 17 16 = 1 ∨ bits (rx s ra) 17 16 = 2 → 64 ≤ l.length → exec (.cfgConst ra rb g) s = .next (trap 0x147 (rx s ra) s)) ∧
          (bits (rx s ra) 17 16 = 1 → l.length < 64 →
            ∃ (t : State) (k' : District), exec (.cfgConst ra rb g) s = .next t ∧ mget? t.districts d = some k' ∧
              k'.staging = some (l ++ [(e, f, lo32 (rx s rb))]) ∧ t.elems = s.elems ∧ (th t).pc = (th (advance 4 s)).pc) ∧
          (bits (rx s ra) 17 16 = 2 → l.length < 64 →
            ∃ (t : State) (k' : District), exec (.cfgConst ra rb g) s = .next t ∧ mget? t.districts d = some k' ∧ k'.staging = none ∧
              (elem t e).field f = lo32 (rx s rb) ∧
              ((∀ q ∈ l, q.2.1 ≤ 0xD0) → ∀ (x n : Nat), (elem t x).field n =
                (match (l ++ [(e, f, lo32 (rx s rb))]).reverse.find? (fun q => q.1 == x && q.2.1 == n) with
                | some q => q.2.2
                | none => (elem s x).field n)) ∧
              (th t).pc = (th (advance 4 s)).pc) ∧
          (bits (rx s ra) 17 16 = 3 → ∃ (t : State) (k' : District), exec (.cfgConst ra rb g) s = .next t ∧ mget? t.districts d = some k' ∧
            k'.staging = none ∧ t.elems = s.elems ∧ (th t).pc = (th (advance 4 s)).pc))) ∧
      (k.busy = true ∨ k.tdown ≠ none ∨ anyToken s k = true ∨ pendWords s k ≠ 0 ∨ fenceWaits s s.cur = true →
        exec (.drain g) s = .next (spin false s)) ∧
      (k.busy = false → k.tdown = none → anyToken s k = false → pendWords s k = 0 → fenceWaits s s.cur = false →
        exec (.drain g) s = .next (advance 4 (settle 1 s.cur s))))) ∧
  (∀ (s s1 u : State) (c ra rb g d e f : Nat) (k : District), (thr s c).wait = .cfgConst → runsNow s c = true →
    fetchInstr s c = (.ok (.cfgConst ra rb g), s1) → u = { s1 with cur := c } → myDist u = some (d, k) →
    bits (rx u ra) 63 32 = 0 → bits (rx u ra) 23 18 = 0 → bits (rx u ra) 5 0 < 8 * k.rect.w → bits (rx u ra) 11 6 < 8 * k.rect.h →
    e = k.rect.elem (bits (rx u ra) 5 0) (bits (rx u ra) 11 6) → isStore e = false → f = 0xC0 + bits (rx u ra) 15 12 →
    k.caughtUp = true → k.gated = false →
    (bits (rx u ra) 17 16 = 1 ∨ bits (rx u ra) 17 16 = 2 → 64 ≤ (k.staging.getD []).length →
      exec (.cfgConstApply c) s = .next (trap 0x147 (rx u ra) u)) ∧
    (bits (rx u ra) 17 16 = 0 ∨ bits (rx u ra) 17 16 = 3 ∨ (k.staging.getD []).length < 64 →
      ∃ (t : State), exec (.cfgConstApply c) s = .next t ∧ (thr t c).wait = .none ∧ (thr t c).pc = ((thr u c).step 4).pc ∧
        (bits (rx u ra) 17 16 = 0 ∨ bits (rx u ra) 17 16 = 2 → (elem t e).field f = lo32 (rx u rb)) ∧
        (bits (rx u ra) 17 16 = 1 ∨ bits (rx u ra) 17 16 = 3 → t.elems = s1.elems)))

/-- 06 R170, R176, R179 to R181; 13 R345: an object on a page that is moving is written among the page's requests. -/
def Obligations.DistrictCommandsComplete : Prop :=
  (∀ (s s1 : State) (o : Owner) (xc : Word) (w d1 d2 d3 : Nat) (p : Place),
    memOk s → ownerPlace s o (addr56 xc) needW = (.ok p, s1) → isPeer p = false → isHub p = false →
    w < 2 ^ 32 → d1 < 2 ^ 32 → d2 < 2 ^ 32 → d3 < 2 ^ 32 →
    (migAt s1 p = none → ObjectSet (setCpl o xc w d1 d2 d3 s) p w d1 d2 d3) ∧
    (migAt s1 p ≠ none → setCpl o xc w d1 d2 d3 s = sendReq { peerReq p 6 1 [BitVec.ofNat 32 w, BitVec.ofNat 32 d1, BitVec.ofNat 32 d2, BitVec.ofNat 32 d3]
      0 0 16 with core := o.core, va := addr56 xc, asid := o.asid.toNat } s1)) ∧
  (∀ (s : State) (d : Nat) (k : District) (run : CfgRun), mget? s.districts d = some k → k.cfg = some run → k.gated = false →
    (run.fault = none → k.staging = none → run.len ≤ run.pos →
      ∃ (u : State) (k' : District), exec (.cfgLoadEnd d) s = .next (setCpl k.owner run.cpl (2 ^ 28 + run.tag * 256 + 0x01) run.len 0 0 u) ∧
        mget? u.districts d = some k' ∧ k'.cfg = none ∧ k'.cfgq = k.cfgq) ∧
    (∀ (c : BitVec 10) (ix w n : Nat), (run.fault = some (c, ix, w, n) ∨ (run.fault = none ∧ k.staging ≠ none ∧ run.len ≤ run.pos ∧
        c = 0x145 ∧ ix = run.len ∧ w = 0 ∧ n = run.len)) →
      ∃ (u : State) (k' : District), exec (.cfgLoadEnd d) s = .next (raiseThread k.thread c (BitVec.ofNat 64 ix) 0
          (setCpl k.owner run.cpl (2 ^ 29 + c.toNat * 2 ^ 16 + run.tag * 256 + 0x01) n ix w u)) ∧
        mget? u.districts d = some k' ∧ k'.cfg = none ∧ k'.staging = none) ∧
    (run.fault = none → run.pos < run.len → exec (.cfgLoadEnd d) s = .next s)) ∧
  (∀ (s : State) (d : Nat) (k : District) (m : Mile) (l : List Mile), mget? s.districts d = some k → k.miles = m :: l → m.full = true →
    segHeld k m.wave = false →
    ∃ (u : State) (k' : District), exec (.mstoneComplete d) s = .next (setCpl k.owner m.cpl (2 ^ 28 + 0x03) m.wave 0 0 u) ∧
      mget? u.districts d = some k' ∧ k'.miles = k.miles.drop 1 ∧ k'.complete = m.wave) ∧
  (∀ (s : State) (d : Nat) (k : District) (xc : Word), mget? s.districts d = some k → k.tdown = some xc → k.invs = [] → k.gated = false →
    ∃ (u : State) (k' : District), exec (.tdownComplete d) s = .next (setCpl k.owner xc (2 ^ 28 + 0x04) 0 0 0 u) ∧
      mget? u.districts d = some k' ∧ k'.tdown = none ∧
      ∀ e, k.hasElem e = true → (∀ i, handleAt s k e i true = false) → elem u e = .reset) ∧
  (∀ (s : State) (d : Nat) (k : District), mget? s.districts d = some k → k.gated = false →
    (k.ctxRun = true → k.ctxNext = none →
      ∃ (t : State) (k' : District), exec (.contextCounterAdvance d) s = .next t ∧ mget? t.districts d = some k' ∧
        k'.ctxNext = some ((k.ctxPos + 1) % k.ctxLen, k.ctxLen, true) ∧ k'.ctxPos = k.ctxPos) ∧
    (k.ctxRun = false ∨ k.ctxNext ≠ none → exec (.contextCounterAdvance d) s = .next s)) ∧
  (∀ (s : State) (d n p l : Nat) (r : Bool) (k : District), mget? s.districts d = some k → k.ctxNext = some (p, l, r) →
    (∀ j ∈ s.districts, j.2.faultDue = none) → 0 < n →
    ∃ k', mget? (passAll n s).districts d = some k' ∧ k'.ctxPos = p ∧ k'.ctxLen = l ∧ k'.ctxRun = r ∧ k'.ctxNext = none)

/-- 06 R183 to R185; 02 R52.
Where the spec leaves a point open it follows the model's choice: log entries 59, 107, 126. -/
def Obligations.StreamHandlesBindPushAndPull : Prop :=
  (∀ (s : State) (rd ra g d : Nat) (k : District), Ready s g [ra] → (th s).status.txn = false → myDist s = some (d, k) →
    ((rx s ra).toNat = 2 ^ 63 → ∃ (t : State), exec (.sbind rd ra g) s = .next t ∧ mget? (th t).q rd = none ∧
      (∀ i, i ≠ rd → mget? (th t).q i = mget? (th s).q i) ∧ (th t).pc = (th (advance 4 s)).pc) ∧
    (2 ^ 63 < (rx s ra).toNat → exec (.sbind rd ra g) s = .next (trap 0x184 (rx s ra) s)) ∧
    ((rx s ra).toNat < 2 ^ 63 →
      (∀ h, bindHandle s k rd (rx s ra) = some h → ∃ (t : State), exec (.sbind rd ra g) s = .next t ∧ mget? (th t).q rd = some h ∧
        h.elem = k.rect.elem (bits (rx s ra) 5 0) (bits (rx s ra) 11 6) ∧ h.port = bits (rx s ra) 13 12 ∧
        h.pull = (rx s ra).getLsbD 14 ∧ (∀ i, i ≠ rd → mget? (th t).q i = mget? (th s).q i) ∧ (th t).pc = (th (advance 4 s)).pc ∧
        (k.running = none → h.pull = false → ∀ m ∈ k.miles, m.early = true →
          (mget (elem t h.elem).inB h.port []).any (fun x => x.kind == 9 && x.val.toNat == m.wave % 2 ^ 32) = true) ∧
        ((h.pull = true ∨ k.running.isSome = true) → ∀ e, elem t e = elem s e)) ∧
      (bindHandle s k rd (rx s ra) = none → exec (.sbind rd ra g) s = .next (trap 0x184 (rx s ra) s)))) ∧
  (∀ (s : State) (rd ra g : Nat), Ready s g [ra] → (th s).status.txn = false → myDist s = none →
    exec (.sbind rd ra g) s = .next (trap 0x14A 0 s)) ∧
  (∀ (s s1 : State) (rd ra rb g d : Nat) (k : District) (h : Handle) (ps : List Place), Ready s g [ra, rb] → (th s).status.txn = false →
    (mget? (th s).q rd = none → exec (.push rd ra rb g) s = .next (trap 0x185 (BitVec.ofNat 64 rd) s)) ∧
    (mget? (th s).q rd = some h →
      (h.pull = true → exec (.push rd ra rb g) s = .next (trap 0x186 (BitVec.ofNat 64 rd) s)) ∧
      (h.pull = false → pushBad h (rx s ra) (rx s rb) = true → exec (.push rd ra rb g) s = .next (trap 0x187 (rx s rb) s)) ∧
      (h.pull = false → pushBad h (rx s ra) (rx s rb) = false →
        ((h.vec = false ∨ bits (rx s rb) 3 0 ≠ 0) → myDist s = some (d, k) →
          (k.gated = false → (mget (elem s h.elem).inB h.port []).length < 4 →
            ∃ (t : State) (x : Token) (ms : List Token), exec (.push rd ra rb g) s = .next t ∧ (th t).pc = (th (advance 4 s)).pc ∧
              mget (elem t h.elem).inB h.port [] = mget (elem s h.elem).inB h.port [] ++
                ((if x.kind = 8 then ms else []) ++ [x] ++ (if x.kind = 11 then ms else [])) ∧
              x.vec = h.vec ∧ x.kind = bits (rx s rb) 3 0 ∧ x.ch = bits (rx s rb) 7 4 ∧
              x.pay.toNat = (rx s ra).toNat % 2 ^ 32 ∧ x.p = 0 ∧ x.inv = k.streamInv h.elem h.port ∧
              ms.map (fun m => (m.kind, m.val)) =
                (k.pushMile.filter (fun p => p.1 == h.elem && p.2.1 == h.port)).map (fun p => (9, BitVec.ofNat 32 p.2.2))) ∧
          ((k.gated = true ∨ 4 ≤ (mget (elem s h.elem).inB h.port []).length) → exec (.push rd ra rb g) s = .next (spin true s))) ∧
        (h.vec = true → bits (rx s rb) 3 0 = 0 →
          (∀ c v, payloadPlace s (addr56 (rx s ra)) needR = (.fault c v, s1) → exec (.push rd ra rb g) s = .next (trap c v s1)) ∧
          (payloadPlace s (addr56 (rx s ra)) needR = (.ok ps, s1) →
            ((migAt s1 (ps.headD (.dev 0))).isSome = true →
              exec (.push rd ra rb g) s = .next (spinMoved true (ps.headD (.dev 0)) s1)) ∧
            (migAt s1 (ps.headD (.dev 0)) = none →
              (ownPending s1 (addr56 (rx s ra)) 64 = true → exec (.push rd ra rb g) s = .next (spin true s1)) ∧
              (ownPending s1 (addr56 (rx s ra)) 64 = false → isPeer (ps.headD (.dev 0)) = false →
                (placeReadPois s1 (ps.headD (.dev 0)) 64 = true →
                  exec (.push rd ra rb g) s = .next (trap 0x109 (BitVec.ofNat 64 (addr56 (rx s ra))) s1)) ∧
                (placeReadPois s1 (ps.headD (.dev 0)) 64 = false → myDist s1 = some (d, k) →
                  (k.gated = false → (mget (elem s1 h.elem).inB h.port []).length < 4 →
                    ∃ (t : State) (x : Token), exec (.push rd ra rb g) s = .next t ∧ (th t).pc = (th (advance 4 s1)).pc ∧
                      mget (elem t h.elem).inB h.port [] = mget (elem s1 h.elem).inB h.port [] ++ [x] ∧ x.vec = true ∧ x.kind = 0 ∧
                      x.ch = bits (rx s rb) 7 4 ∧ x.pay = BitVec.ofNat 512 (leNat (readPlaces s1 ps)) ∧
                      x.lv.toNat = (if h.image then 0xFFFF else bits (rx s rb) 31 16) ∧ x.inv = k.streamInv h.elem h.port) ∧
                  ((k.gated = true ∨ 4 ≤ (mget (elem s1 h.elem).inB h.port []).length) →
                    exec (.push rd ra rb g) s = .next (spin true s1)))) ∧
              (ownPending s1 (addr56 (rx s ra)) 64 = false → isPeer (ps.headD (.dev 0)) = true →
                ∀ (l : MLine) (s2 : State), cachedLine s1 (lcKey (ps.headD (.dev 0))) = (some l, s2) →
                  (l.marks ≠ [] → exec (.push rd ra rb g) s = .next (trap 0x109 (BitVec.ofNat 64 (addr56 (rx s ra))) s2)) ∧
                  (l.marks = [] → myDist s2 = some (d, k) → k.gated = false → (mget (elem s2 h.elem).inB h.port []).length < 4 →
                    ∃ (t : State) (x : Token), exec (.push rd ra rb g) s = .next t ∧ (th t).pc = (th (advance 4 s2)).pc ∧
                      mget (elem t h.elem).inB h.port [] = mget (elem s2 h.elem).inB h.port [] ++ [x] ∧ x.kind = 0 ∧
                      x.pay = BitVec.ofNat 512 (leNat l.bytes))))))))) ∧
  (∀ (s s1 : State) (rd ra rb g d : Nat) (k : District) (h : Handle) (x : Token) (rest : List Token) (ps : List Place),
    Ready s g [rb] → (th s).status.txn = false →
    (mget? (th s).q ra = none → exec (.pull rd ra rb g) s = .next (trap 0x185 (BitVec.ofNat 64 ra) s)) ∧
    (mget? (th s).q ra = some h →
      (h.pull = false → exec (.pull rd ra rb g) s = .next (trap 0x186 (BitVec.ofNat 64 ra) s)) ∧
      (h.pull = true → h.vec = false → rb ≠ 0 →
        exec (.pull rd ra rb g) s = .next (trap 0x001 (BitVec.ofNat 64 ((encode (.pull rd ra rb g)).headD 0)) s)) ∧
      (h.pull = true → h.vec = false → rb = 0 → myDist s = some (d, k) →
        (k.gated = true → exec (.pull rd ra rb g) s = .next (spin true s)) ∧
        (k.gated = false →
          ((mget (elem s h.elem).outB h.port []).drop (mget k.pullDrop (h.elem * 4 + h.port) 0) = x :: rest →
            ∃ (t : State), exec (.pull rd ra rb g) s = .next t ∧
              (rd ≠ 0 → rx t rd = BitVec.ofNat 64 (x.pay.toNat % 2 ^ 32 + x.ch * 2 ^ 32 + x.p.toNat % 2 * 2 ^ 36 + x.kind * 2 ^ 37)) ∧
              mget (elem t h.elem).outB h.port [] = rest ∧ (th t).pc = (th (advance 4 s)).pc) ∧
          (mget (elem s h.elem).outB h.port [] = [] → exec (.pull rd ra rb g) s = .next (spin true s)) ∧
          ((mget (elem s h.elem).outB h.port []).length ≤ mget k.pullDrop (h.elem * 4 + h.port) 0 →
            ∃ (t : State), exec (.pull rd ra rb g) s = .next (spin true t) ∧ mget (elem t h.elem).outB h.port [] = [] ∧
              th t = th s))) ∧
      (h.pull = true → h.vec = true →
        (∀ c v, payloadPlace s (addr56 (rx s rb)) needW = (.fault c v, s1) → exec (.pull rd ra rb g) s = .next (trap c v s1)) ∧
        (payloadPlace s (addr56 (rx s rb)) needW = (.ok ps, s1) → myDist s1 = some (d, k) →
          ((migAt s1 (ps.headD (.dev 0))).isSome = true →
            exec (.pull rd ra rb g) s = .next (spinMoved true (ps.headD (.dev 0)) s1)) ∧
          (migAt s1 (ps.headD (.dev 0)) = none → (k.gated = true ∨ ownPending s1 (addr56 (rx s rb)) 64 = true) →
            exec (.pull rd ra rb g) s = .next (spin true s1)) ∧
          (migAt s1 (ps.headD (.dev 0)) = none → k.gated = false → ownPending s1 (addr56 (rx s rb)) 64 = false →
            ((mget (elem s1 h.elem).outB h.port []).drop (mget k.pullDrop (h.elem * 4 + h.port) 0) = x :: rest →
              ∃ (t : State), exec (.pull rd ra rb g) s = .next t ∧
                (rd ≠ 0 → rx t rd = BitVec.ofNat 64 (x.lv.toNat + x.p.toNat * 2 ^ 16 + x.ch * 2 ^ 32 + x.kind * 2 ^ 36)) ∧
                (isPeer (ps.headD (.dev 0)) = false → memOk s →
                  ∀ l, l < 16 → leNat (placeRead t ((ps.headD (.dev 0)).plus (4 * l)) 4) = x.pay.toNat / 2 ^ (32 * l) % 2 ^ 32) ∧
                (isPeer (ps.headD (.dev 0)) = true → (lcFind s1 (lcKey (ps.headD (.dev 0)))).isSome = true →
                  ∃ n, lcFind t (lcKey (ps.headD (.dev 0))) = some n ∧ n.dirty = true ∧
                    (∀ l, l < 16 → leNat ((n.bytes.drop (4 * l)).take 4) = x.pay.toNat / 2 ^ (32 * l) % 2 ^ 32) ∧
                    ∀ i, i ∈ n.marks ↔ i < 8 ∧ (x.p.getLsbD (2 * i) = true ∨ x.p.getLsbD (2 * i + 1) = true)) ∧
                mget (elem t h.elem).outB h.port [] = rest ∧ (th t).pc = (th (advance 4 s1)).pc) ∧
            (mget (elem s1 h.elem).outB h.port [] = [] → exec (.pull rd ra rb g) s = .next (spin true s1))))))) ∧
  (∀ (s : State) (c n : Nat), (thr s c).wait = .again true → overrun s c = true → streamAt s c = some n →
    exec (.streamWaitTimeout c) s = .next (trapCore c 0x188 (BitVec.ofNat 64 n) s))

/-- 06 R188; 13 R335. Where the space has no descriptor that translation may use it follows the model's choice: log entry 122. -/
def Obligations.TensorEntriesReadAndWrite : Prop :=
  ∀ (s s1 : State) (ra rb g n a : Nat) (p : Place) (ps : List Place) (ws : List Word), Ready s g [ra, rb] → (th s).status.txn = false →
    n = (rx s ra).toNat → a = (th s).asid.toNat → p = ps.headD (.dev 0) →
    (4096 ≤ n → exec (.tidWr ra rb g) s = .next (trap 0x2C3 (rx s ra) s) ∧ exec (.tidRd ra rb g) s = .next (trap 0x2C3 (rx s ra) s)) ∧
    (n < 4096 →
      (∀ c v, (payloadPlace s (addr56 (rx s rb)) needR = (.fault c v, s1) → exec (.tidWr ra rb g) s = .next (trap c v s1)) ∧
        (payloadPlace s (addr56 (rx s rb)) needW = (.fault c v, s1) → exec (.tidRd ra rb g) s = .next (trap c v s1))) ∧
      (payloadPlace s (addr56 (rx s rb)) needR = (.ok ps, s1) →
        ((migAt s1 p).isSome = true → exec (.tidWr ra rb g) s = .next (spinMoved false p s1)) ∧
        (migAt s1 p = none → ownPending s1 (addr56 (rx s rb)) 64 = true → exec (.tidWr ra rb g) s = .next (spin false s1)) ∧
        (migAt s1 p = none → ownPending s1 (addr56 (rx s rb)) 64 = false → isPeer p = false →
          (placeReadPois s1 p 64 = true → exec (.tidWr ra rb g) s = .next (trap 0x109 (BitVec.ofNat 64 (addr56 (rx s rb))) s1)) ∧
          (placeReadPois s1 p 64 = false → ws = words8 (readPlaces s1 ps) →
            (∀ c, tidCheck s1 (th s).asid n ws = some c → exec (.tidWr ra rb g) s = .next (trap c (BitVec.ofNat 64 n) s1)) ∧
            (tidCheck s1 (th s).asid n ws = none →
              (∀ q, tidPlace s1 a n = some q → (migAt s1 q).isSome = true → exec (.tidWr ra rb g) s = .next (spinMoved false q s1)) ∧
              ((∀ q, tidPlace s1 a n = some q → migAt s1 q = none) → ∃ (t : State), exec (.tidWr ra rb g) s = .next t ∧
                (∀ j, j < 8 → (tidWords t a n).getD j 0 = BitVec.ofNat 64 (leNat (((readPlaces s1 ps).drop (8 * j)).take 8))) ∧
                (∀ b m, m < 4096 → (b ≠ a ∨ m ≠ n) → tidWords t b m = tidWords s b m) ∧
                (th t).pc = (th (advance 4 s1)).pc ∧
                (∀ i, rx t i = rx s i) ∧
                (memOk s → descOk s1 a = true → spaceTidTab s1 a + 64 * n + 64 ≤ 2 ^ 39 →
                  (∀ j, j < 8 → leNat (placeRead t (.dev (spaceTidTab s1 a + 64 * n + 8 * j)) 8) = ((tidWords t a n).getD j 0).toNat) ∧
                  (∀ x, (x < spaceTidTab s1 a + 64 * n ∨ spaceTidTab s1 a + 64 * n + 64 ≤ x) →
                    placeByte t (.dev x) = placeByte s1 (.dev x))) ∧
                ((descOk s1 a = false ∨ 2 ^ 39 < spaceTidTab s1 a + 64 * n + 64) → t.dev = s1.dev)))))) ∧
      (payloadPlace s (addr56 (rx s rb)) needW = (.ok ps, s1) →
        ((migAt s1 p).isSome = true → exec (.tidRd ra rb g) s = .next (spinMoved false p s1)) ∧
        (migAt s1 p = none → ownPending s1 (addr56 (rx s rb)) 64 = true → exec (.tidRd ra rb g) s = .next (spin false s1)) ∧
        (migAt s1 p = none → ownPending s1 (addr56 (rx s rb)) 64 = false →
          ∃ (t : State), exec (.tidRd ra rb g) s = .next t ∧ t.tid = s.tid ∧ (th t).pc = (th (advance 4 s1)).pc ∧
            (∀ i, rx t i = rx s i) ∧
            (memOk s → isPeer p = false → (tidWords s a n).length = 8 →
              ∀ j, j < 8 → leNat (placeRead t (p.plus (8 * j)) 8) = ((tidWords s a n).getD j 0).toNat))))

/-- 06 R169, R189 to R195; 13 R345 (the page of a completion object that is moving holds the instruction). A descriptor whose SPAD names no
scratchpad window breaks R192, and so `bin.app` and `bin.play` raise BINVAL for it.
Where the spec leaves a point open it follows the model's choice: log entries 27, 30. -/
def Obligations.EngineOperationsAreIssued : Prop :=
  let sent (e : Instr) (s s1 : State) (p : Place) (len kind : Nat) (xc : Word) (near far ext n : Nat) (ws : List Word) : Prop :=
    (migAt s1 p ≠ none → exec e s = .next (spinMoved false p s1)) ∧
    (migAt s1 p = none → ∃ (t : State) (x : Engine), exec e s = .next t ∧ (memOk s → ObjectEmptied s1 t p len) ∧ t.engines = s1.engines ++ [x] ∧ x.kind = kind ∧ x.cpl = xc ∧
      x.near = near ∧ x.far = far ∧ x.ext = ext ∧ x.len = n ∧ x.entry = ws ∧ x.core = s.cur ∧ x.thread = (th s).id ∧ x.asid = (th s).asid ∧
      x.supv = (th s).status.supv ∧ x.rect = (myDist s).map (fun d => d.2.rect) ∧ x.done = 0 ∧ x.stop = false ∧ x.fill = none)
  (∀ (s s1 : State) (rd ra rb g ext : Nat) (c : BitVec 10) (e : Instr), Ready s g [rd, ra, rb] →
    (th s).status.txn = false → cplPlace s s.cur (addr56 (rx s rd)) = (.error c, s1) →
    (e = .dmaLd rd ra rb g ext ∨ e = .dmaSt rd ra rb g ext ∨ e = .dmaCp rd ra rb g ext ∨ e = .dmaGath rd ra rb g ext ∨
      e = .rput rd ra rb g ext ∨ e = .rget rd ra rb g ext ∨ e = .binPlay rd ra rb g) →
    exec e s = .next (trap c (BitVec.ofNat 64 (addr56 (rx s rd))) s1)) ∧
  (∀ (s s1 : State) (rd ra rb g ext near far first n : Nat) (p : Place) (ws : List Word) (e : Ent), Ready s g [rd, ra, rb] →
    (th s).status.txn = false → cplPlace s s.cur (addr56 (rx s rd)) = (.ok p, s1) → isPeer p = false →
    near = addr56 (rx s ra) → far = addr56 (rx s rb) → ws = tidWords s1 (th s1).asid.toNat (dmaN ext) → e = Ent.ofWords ws →
    (entMissing s1 (dmaN ext) = true →
      exec (.dmaLd rd ra rb g ext) s = .next (trap 0x2C5 (BitVec.ofNat 64 (dmaN ext)) s1) ∧
      exec (.dmaSt rd ra rb g ext) s = .next (trap 0x2C5 (BitVec.ofNat 64 (dmaN ext)) s1) ∧
      exec (.dmaGath rd ra rb g ext) s = .next (trap 0x2C5 (BitVec.ofNat 64 (dmaN ext)) s1)) ∧
    (entMissing s1 (dmaN ext) = false → n = dmaRows ext * ((rowBytes e.fmt (dmaCols ext) + 3) / 4 * 4) →
      (tileBad e (tileR (rx s rb).toNat) (tileC (rx s rb).toNat) (dmaRows ext) (dmaCols ext) = true →
        exec (.dmaLd rd ra rb g ext) s = .next (trap 0x202 (BitVec.ofNat 64 ext) s1) ∧
        exec (.dmaSt rd ra rb g ext) s = .next (trap 0x202 (BitVec.ofNat 64 ext) s1)) ∧
      (tileBad e (tileR (rx s rb).toNat) (tileC (rx s rb).toNat) (dmaRows ext) (dmaCols ext) = false →
        first = e.addr (tileR (rx s rb).toNat) (tileC (rx s rb).toNat) →
        (∀ c, firstByte s1 near = some c →
          exec (.dmaLd rd ra rb g ext) s = .next (trap c (BitVec.ofNat 64 near) s1) ∧
          exec (.dmaSt rd ra rb g ext) s = .next (trap c (BitVec.ofNat 64 near) s1)) ∧
        (firstByte s1 near = none →
          (∀ c, firstByte s1 first = some c →
            exec (.dmaLd rd ra rb g ext) s = .next (trap c (BitVec.ofNat 64 first) s1) ∧
            exec (.dmaSt rd ra rb g ext) s = .next (trap c (BitVec.ofNat 64 first) s1)) ∧
          (firstByte s1 first = none →
            (boardRoom s1 near = true → sent (.dmaLd rd ra rb g ext) s s1 p 8 0x10 (rx s rd) near (rx s rb).toNat ext n ws) ∧
            (boardRoom s1 near = false → exec (.dmaLd rd ra rb g ext) s = .next (spin false s1)) ∧
            sent (.dmaSt rd ra rb g ext) s s1 p 8 0x11 (rx s rd) near (rx s rb).toNat ext n ws)))) ∧
    (entMissing s1 (dmaN ext) = false → n = dmaRows ext * ((rowBytes e.fmt e.d0 + 3) / 4 * 4) →
      (gathBad e far ext = true → exec (.dmaGath rd ra rb g ext) s = .next (trap 0x202 (BitVec.ofNat 64 ext) s1)) ∧
      (gathBad e far ext = false →
        (∀ c, firstByte s1 near = some c → exec (.dmaGath rd ra rb g ext) s = .next (trap c (BitVec.ofNat 64 near) s1)) ∧
        (∀ c, firstByte s1 near = none → firstByte s1 far = some c →
          exec (.dmaGath rd ra rb g ext) s = .next (trap c (BitVec.ofNat 64 far) s1)) ∧
        (firstByte s1 near = none → firstByte s1 far = none →
          (boardRoom s1 near = true → sent (.dmaGath rd ra rb g ext) s s1 p 8 0x13 (rx s rd) near far ext n ws) ∧
          (boardRoom s1 near = false → exec (.dmaGath rd ra rb g ext) s = .next (spin false s1))))) ∧
    (∀ c, firstByte s1 near = some c → exec (.dmaCp rd ra rb g ext) s = .next (trap c (BitVec.ofNat 64 near) s1)) ∧
    (∀ c, firstByte s1 near = none → firstByte s1 far = some c →
      exec (.dmaCp rd ra rb g ext) s = .next (trap c (BitVec.ofNat 64 far) s1)) ∧
    (firstByte s1 near = none → firstByte s1 far = none →
      (boardRoom s1 near = true → sent (.dmaCp rd ra rb g ext) s s1 p 8 0x12 (rx s rd) near far ext ext []) ∧
      (boardRoom s1 near = false → exec (.dmaCp rd ra rb g ext) s = .next (spin false s1)))) ∧
  (∀ (s s1 : State) (rd ra rb g ext node a b : Nat) (p : Place), Ready s g [rd, ra, rb] → (th s).status.txn = false →
    cplPlace s s.cur (addr56 (rx s rd)) = (.ok p, s1) → isPeer p = false → node = nb ext 31 22 → ext < 2 ^ 32 →
    a = addr56 (rx s ra) → b = addr56 (rx s rb) →
    (nodeOk s1 node = false → exec (.rput rd ra rb g ext) s = .next (trap 0x11A (BitVec.ofNat 64 node) s1) ∧
      exec (.rget rd ra rb g ext) s = .next (trap 0x11A (BitVec.ofNat 64 node) s1)) ∧
    (nodeOk s1 node = true →
      (∀ c, firstByte s1 b = some c → exec (.rput rd ra rb g ext) s = .next (trap c (BitVec.ofNat 64 b) s1)) ∧
      (∀ c, firstByte s1 a = some c → exec (.rget rd ra rb g ext) s = .next (trap c (BitVec.ofNat 64 a) s1)) ∧
      (∀ c, nodeHere s1 node = true → firstByte s1 b = none → firstByte s1 a = some c →
        exec (.rput rd ra rb g ext) s = .next (trap c (BitVec.ofNat 64 a) s1)) ∧
      (∀ c, nodeHere s1 node = true → firstByte s1 a = none → firstByte s1 b = some c →
        exec (.rget rd ra rb g ext) s = .next (trap c (BitVec.ofNat 64 b) s1)) ∧
      (firstByte s1 b = none → (nodeHere s1 node = true → firstByte s1 a = none) →
        sent (.rput rd ra rb g ext) s s1 p 8 0x20 (rx s rd) b a ext (nb ext 21 0) []) ∧
      (firstByte s1 a = none → (nodeHere s1 node = true → firstByte s1 b = none) →
        sent (.rget rd ra rb g ext) s s1 p 8 0x21 (rx s rd) a b ext (nb ext 21 0) []) ∧
      (144 ≤ node → firstByte s1 b = none → migAt s1 p = none → ∃ (t : State), exec (.rput rd ra rb g ext) s = .next t ∧
        t.packets = s1.packets ++ [⟨node, mget s1.peerSeq (2 * node + 1) 0, 1, s1.ns, s.nextId, 0⟩] ∧
        mget t.peerSeq (2 * node + 1) 0 = mget s1.peerSeq (2 * node + 1) 0 + 1) ∧
      (node < 144 → firstByte s1 b = none → (nodeHere s1 node = true → firstByte s1 a = none) →
        ∃ (t : State), exec (.rput rd ra rb g ext) s = .next t ∧ t.packets = s1.packets))) ∧
  (∀ (s s1 s2 : State) (rd ra rb g : Nat) (p : Place) (ws : List Word) (b : BinSet), Ready s g [rd, ra, rb] →
    (th s).status.txn = false → b = BinSet.ofWords ws →
    (cplPlace s s.cur (addr56 (rx s rd)) = (.ok p, s1) → isPeer p = false →
      (∀ c v, binDesc s1 (addr56 (rx s ra)) (rx s ra) = (.error (some (c, v)), s2) →
        exec (.binPlay rd ra rb g) s = .next (trap c v s2)) ∧
      (binDesc s1 (addr56 (rx s ra)) (rx s ra) = (.error none, s2) → exec (.binPlay rd ra rb g) s = .next (spin false s2)) ∧
      (binDesc s1 (addr56 (rx s ra)) (rx s ra) = (.ok ws, s2) →
        ((binBad ws = true ∨ region b.spad ≠ 1 ∨ b.nreg < bits (rx s rb) 31 0 + bits (rx s rb) 63 32) →
          exec (.binPlay rd ra rb g) s = .next (trap 0x203 (rx s ra) s2)) ∧
        (binBad ws = false → region b.spad = 1 → bits (rx s rb) 31 0 + bits (rx s rb) 63 32 ≤ b.nreg →
          (∀ c, firstByte s2 b.spad = some c → exec (.binPlay rd ra rb g) s = .next (trap c (BitVec.ofNat 64 b.spad) s2)) ∧
          (firstByte s2 b.spad = none →
            (boardRoom s2 b.spad = true →
              sent (.binPlay rd ra rb g) s s2 p 4 0x18 (rx s rd) (bits (rx s rb) 31 0) (addr56 (rx s ra)) 0 (bits (rx s rb) 63 32) ws) ∧
            (boardRoom s2 b.spad = false → exec (.binPlay rd ra rb g) s = .next (spin false s2)))))) ∧
    (∀ c v, binDesc s (addr56 (rx s rd)) (rx s ra) = (.error (some (c, v)), s1) → exec (.binApp rd ra rb g) s = .next (trap c v s1)) ∧
    (binDesc s (addr56 (rx s rd)) (rx s ra) = (.error none, s1) → exec (.binApp rd ra rb g) s = .next (spin false s1)) ∧
    (binDesc s (addr56 (rx s rd)) (rx s ra) = (.ok ws, s1) →
      ((binBad ws = true ∨ region b.spad ≠ 1 ∨ addr56 (rx s ra) < b.tbase ∨ b.nreg ≤ (addr56 (rx s ra) - b.tbase) / 2 ^ b.rshift ∨
          addr56 (rx s ra) % 4 ≠ 0) →
        exec (.binApp rd ra rb g) s = .next (trap 0x203 (rx s ra) s1)) ∧
      (binBad ws = false → region b.spad = 1 → b.tbase ≤ addr56 (rx s ra) → (addr56 (rx s ra) - b.tbase) / 2 ^ b.rshift < b.nreg →
        addr56 (rx s ra) % 4 = 0 →
        ∃ (t : State), exec (.binApp rd ra rb g) s = .next t ∧ (th t).pc = (th (advance 4 s1)).pc ∧ t.bins = s1.bins ++
          [⟨s.cur, (th s).asid, (th s).status.supv, addr56 (rx s rd), addr56 (rx s ra), lo32 (rx s rb)⟩]))) ∧
  (∀ (s s1 : State) (rd ra rb g ext node fn w a old : Nat) (ps : List Place) (p : Place),
    Ready s g ([ra, rb] ++ if nb ext 20 16 = 9 then [rd] else []) → (th s).status.txn = false →
    node = nb ext 31 22 → fn = nb ext 20 16 → w = (if nb ext 21 21 = 1 then 8 else 4) → a = addr56 (rx s ra) →
    (nodeOk s node = false → exec (.ramo rd ra rb g ext) s = .next (trap 0x11A (BitVec.ofNat 64 node) s)) ∧
    (nodeOk s node = true → ∀ c, amoPlaceCause a = some c →
      exec (.ramo rd ra rb g ext) s = .next (trap c (BitVec.ofNat 64 a) s)) ∧
    (nodeOk s node = true → nodeHere s node = true → region a = 0 → PlainAccess s a w needRW true ps s1 → p = ps.headD (.dev 0) →
      old = leNat (placeRead s1 p w) →
      (placeReadPois s1 p w = false →
        ((rd ≠ 0 ∨ fn = 9) → fn ≠ 0x0E →
          exec (.ramo rd ra rb g ext) s = .next (advance 8 (wx (placeWrite s1 p
            (toBytes w (amoNew fn w old ((rx s rb).toNat % 2 ^ (8 * w)) ((rx s rd).toNat % 2 ^ (8 * w)))) false) rd
            (if w = 8 then BitVec.ofNat 64 old else if fn = 4 ∨ fn = 5 then (BitVec.ofNat 32 old).signExtend 64 else BitVec.ofNat 64 old)))) ∧
        (fn = 0x0E → exec (.ramo rd ra rb g ext) s = .next (advance 8 (wx s1 rd (BitVec.ofNat 64 old)))) ∧
        (rd = 0 → fn ≠ 9 → fn ≠ 0x0E →
          exec (.ramo rd ra rb g ext) s = .next (advance 8 (placeWrite s1 p
            (toBytes w (amoNew fn w old ((rx s rb).toNat % 2 ^ (8 * w)) 0)) false)))) ∧
      (placeReadPois s1 p w = true →
        ((rd ≠ 0 ∨ fn = 9 ∨ fn = 0x0E) → exec (.ramo rd ra rb g ext) s = .next (trap 0x109 (BitVec.ofNat 64 a) s1)) ∧
        (rd = 0 → fn ≠ 9 → fn ≠ 0x0E →
          exec (.ramo rd ra rb g ext) s = .next (advance 8 (raise s.cur 0x109 (BitVec.ofNat 64 a) 0 s1))))) ∧
    (nodeHere s node = false → nodeOk s node = true → region a = 0 →
      (a % w ≠ 0 → exec (.ramo rd ra rb g ext) s = .next (trap 0x104 (BitVec.ofNat 64 a) s)) ∧
      (a % w = 0 →
        (rd = 0 → fn ≠ 9 → fn ≠ 0x0E → ∃ (t : State) (r : Req), exec (.ramo rd ra rb g ext) s = .next t ∧ (th t).pc = (th (advance 8 s)).pc ∧
          t.reqs = s.reqs ++ [r] ∧ r.place = .peer node a ∧ r.kind = 4 ∧ r.fn = fn ∧ r.wait = false ∧ r.width = w) ∧
        ((rd ≠ 0 ∨ fn = 9 ∨ fn = 0x0E) → ∃ (t : State) (r : Req), exec (.ramo rd ra rb g ext) s = .next t ∧ (th t).pc = (th s).pc ∧
          (th t).wait = .ramo rd (w == 8) (fn == 4 || fn == 5) a ∧ t.reqs = s.reqs ++ [r] ∧ r.place = .peer node a ∧ r.kind = 4 ∧
          r.fn = fn ∧ r.wait = true ∧ r.width = w))))

/-- 06 R170, R190 to R196. An operation that a pre-emption stops ends with STOPPED, STATE 4, and word 1 at a multiple of 64 bytes, every byte
below it moved and none above.
Where the spec leaves a point open it follows the model's choice: log entries 30, 31, 34, 98, 113, 135; how far a stopped operation had come is a free
value. -/
def Obligations.EngineOperationsEnd : Prop :=
  (∀ (s s1 : State) (e : Engine) (state cause d1 addr : Nat) (p : Place), memOk s → ownerPlace s e.owner (addr56 e.cpl) needW = (.ok p, s1) →
    isPeer p = false → isHub p = false → migAt s1 p = none → state < 16 → cause < 1024 → e.kind < 256 → d1 < 2 ^ 32 → addr < 2 ^ 64 →
    ObjectSet (endEngine e state cause d1 addr s) p (state * 2 ^ 28 + cause * 2 ^ 16 + e.kind) d1 (addr % 2 ^ 32) (addr / 2 ^ 32) ∧
    (∀ x, x ∈ (endEngine e state cause d1 addr s).engines ↔ x ∈ s.engines ∧ x.id ≠ e.id) ∧
    (∀ k ∈ (endEngine e state cause d1 addr s).districts, ∀ b ∈ k.2.board, b.1 ≠ e.id)) ∧
  (∀ (s : State) (n k : Nat) (e : Engine) (r : Rect) (q : Nat → Place), s.engines[n]? = some e → e.kind = 0x12 → memOk s → e.stop = true →
    e.behind s = false → k = (freeBelow (e.len / 64) s).1 → e.rect = some r →
    (∀ i, i < e.len → region (e.near + i) = 1 ∧ winPlace r (winOff (e.near + i)) = some (q i) ∧ region (e.far + i) = 2 ∧
      isPois s.loc (locKey e.core (locOff (e.far + i)) / 4) = false) →
    (∀ i j, i < e.len → j < e.len → i ≠ j → q i ≠ q j) →
    64 * k ≤ e.len ∧ ∃ (u : State), exec (.dmaEnd n) s = .next (endEngine e 4 0 (64 * k) (if 64 * k < e.len then (e.far + 64 * k) % 2 ^ 56 else 0) u) ∧
      u.dev = s.dev ∧ u.loc = s.loc ∧
      (∀ i, i < 64 * k → placeByte u (q i) = cellGet s.loc.cells (locKey e.core (locOff (e.far + i)))) ∧
      (∀ i, 64 * k ≤ i → i < e.len → placeByte u (q i) = placeByte s (q i))) ∧
  (∀ (s : State) (n : Nat) (e : Engine), s.engines[n]? = some e → e.kind = 0x12 → memOk s → e.stop = false → e.held s = false → e.behind s = false →
    (∀ i, i < e.len → region (e.near + i) = 2 ∧ region (e.far + i) = 2) →
    (∀ i j, i < e.len → j < e.len → e.near + i ≠ e.far + j) →
    (∀ i, i < e.len → isPois s.loc (locKey e.core (locOff (e.far + i)) / 4) = false) →
    ∃ (u : State), exec (.dmaEnd n) s = .next (endEngine e 1 0 e.len 0 u) ∧ u.dev = s.dev ∧ u.spad = s.spad ∧
      (∀ i, i < e.len → cellGet u.loc.cells (locKey e.core (locOff (e.near + i))) =
        cellGet s.loc.cells (locKey e.core (locOff (e.far + i)))) ∧
      (∀ a, (∀ i, i < e.len → a ≠ locKey e.core (locOff (e.near + i))) → cellGet u.loc.cells a = cellGet s.loc.cells a)) ∧
  (∀ (s s2 : State) (n m far : Nat) (e : Engine) (c : Option (BitVec 10)) (p : Option Place), s.engines[n]? = some e → e.kind ≠ 0x18 →
    (e.held s = true → exec (.dmaEnd n) s = .next s) ∧
    (e.stop = false → e.behind s = true → exec (.dmaEnd n) s = .next s) ∧
    (e.stop = false → e.held s = false → e.behind s = false →
      (e.kind < 0x18 →
        (runDma e e.len s = .over m far c s2 →
          (c = none → exec (.dmaEnd n) s = .next (endEngine e 1 0 m 0 s2)) ∧
          (∀ x, c = some x → exec (.dmaEnd n) s = .next (endEngine e 2 x.toNat m far s2))) ∧
        (runDma e e.len s = .wait p → exec (.dmaEnd n) s = .next (meetAt (.engine e.id) p s))) ∧
      ((e.kind = 0x20 ∨ e.kind = 0x21) → nodeHere s (e.ext / 2 ^ 22) = true →
        (runSegs { e with kind := if e.kind = 0x20 then 0x11 else 0x12 } e.len [⟨0, e.far, e.len⟩] 0 s = .over m far c s2 →
          (c = none → exec (.dmaEnd n) s = .next (endEngine e 1 0 m 0 s2)) ∧
          (∀ x, c = some x → exec (.dmaEnd n) s = .next (endEngine e 2 x.toNat m far s2)))) ∧
      ((e.kind = 0x20 ∨ e.kind = 0x21) → nodeHere s (e.ext / 2 ^ 22) = false → (∀ i, i < e.len → region (e.near + i) = 2) →
        ∃ (u : State) (k x : Nat), u.dev = s.dev ∧ u.spad = s.spad ∧ k ≤ e.len ∧ 0x041 ≤ x ∧ x ≤ 0x047 ∧
          (exec (.dmaEnd n) s = .next (endEngine e 1 0 e.len 0 u) ∨
            exec (.dmaEnd n) s = .next (endEngine e 2 x k ((e.far + k) % 2 ^ 56) u)))) ∧
    (e.stop = true →
      (e.behind s = true → runUpTo e 0 s = .over m far none s2 → exec (.dmaEnd n) s = .next (endEngine e 4 0 0 far s2)) ∧
      (∀ k u, e.behind s = false → freeBelow (e.len / 64) s = (k, u) → k ≤ e.len / 64 ∧
        (runUpTo e (64 * k) u = .over m far c s2 →
          (c = none → exec (.dmaEnd n) s = .next (endEngine e 4 0 (64 * k) far s2)) ∧
          (∀ x, c = some x → exec (.dmaEnd n) s = .next (endEngine e 2 x.toNat m far s2))) ∧
        (runUpTo e (64 * k) u = .wait p → exec (.dmaEnd n) s = .next (meetAt (.engine e.id) p s))))) ∧
  (∀ (s s1 s2 s3 s4 s5 : State) (n : Nat) (u : BinApp) (o : Owner) (b : BinSet) (g f w : Nat) (l : List (Byte × Bool)) (p : Option Place),
    s.bins[n]? = some u → o = ⟨u.core, u.asid, u.supv⟩ →
    ((s.bins.take n).any (fun v => v.core == u.core && v.desc == u.desc) = true → exec (.binAppendAtEngine n) s = .next s) ∧
    ((s.bins.take n).any (fun v => v.core == u.core && v.desc == u.desc) = false →
      (engRead o none u.desc 64 0 s = (.wait p, s1) → exec (.binAppendAtEngine n) s = .next (meetAt (.bin n) p s)) ∧
      (engRead o none u.desc 64 0 s = (.ok l, s1) → b = BinSet.ofWords (words8 (l.map Prod.fst)) →
        g = (u.addr - b.tbase) / 2 ^ b.rshift → w = u.v.toNat * 2 ^ 32 + (u.addr - b.tbase) % 2 ^ b.rshift →
        binFill o b g s1 = (.ok f, s2) →
        (f < b.cap → binWrite o (b.recAt g f) 8 w s2 = (.ok (), s3) → binWrite o (b.fillAt g) 4 (f + 1) s3 = (.ok (), s4) →
          exec (.binAppendAtEngine n) s = .next { s4 with bins := listDel s4.bins n }) ∧
        (f = b.cap → playing s2 u.desc u.asid g = true → exec (.binAppendAtEngine n) s = .next s) ∧
        (f = b.cap → playing s2 u.desc u.asid g = false → flushBin o b g b.cap 0 s2 = (.ok (), s3) →
          binWrite o (b.recAt g 0) 8 w s3 = (.ok (), s4) → binWrite o (b.fillAt g) 4 1 s4 = (.ok (), s5) →
          exec (.binAppendAtEngine n) s = .next { s5 with bins := listDel s5.bins n })))) ∧
  (∀ (s s1 s2 s3 s4 : State) (n g f f2 : Nat) (e : Engine) (o : Owner) (b : BinSet), s.engines[n]? = some e → e.kind = 0x18 →
    o = e.owner → b = BinSet.ofWords e.entry → g = e.near + e.done →
    (e.held s = true → exec (.binRegionReplay n) s = .next s) ∧
    (e.held s = false →
      (e.len ≤ e.done → exec (.binRegionReplay n) s = .next (endEngine e 1 0 e.done 0 s)) ∧
      (e.done < e.len →
        (e.stop = true → e.fill = none → exec (.binRegionReplay n) s = .next (endEngine e 4 0 e.done 0 s)) ∧
        (e.stop = false → e.fill = none →
          (((e.done = 0 ∧ e.behind s = true) ∨ playing s e.far e.asid g = true) → exec (.binRegionReplay n) s = .next s) ∧
          ((e.done ≠ 0 ∨ e.behind s = false) → playing s e.far e.asid g = false →
            (binFill o b g s = (.ok f, s1) → playCopy o e.rect ((b.tbase + g * 2 ^ b.rshift) % 2 ^ 56) b.spad (2 ^ b.rshift) s1 = .go s2 →
              playRecords o e.rect b g f 0 s2 = .go s3 →
              exec (.binRegionReplay n) s = .next (updEngine e.id (fun x => { x with fill := some f }) s3)) ∧
            (∀ c a, playIn e g s = .stop c a s1 → exec (.binRegionReplay n) s = .next (endEngine e 2 c.toNat e.done a s1)) ∧
            (∀ p, playIn e g s = .wait p → exec (.binRegionReplay n) s = .next (meetAt (.engine e.id) p s)))) ∧
        (e.fill = some f →
          (playCopy o e.rect b.spad ((b.tbase + g * 2 ^ b.rshift) % 2 ^ 56) (2 ^ b.rshift) s = .go s1 →
            binFill o b g s1 = (.ok f2, s2) → playShift o b g f (f2 - f) 0 s2 = .go s3 →
            binWrite o (b.fillAt g) 4 (f2 - f) s3 = (.ok (), s4) →
            exec (.binRegionReplay n) s = .next (updEngine e.id (fun x => { x with fill := none, done := x.done + 1 }) s4)) ∧
          (∀ c a, playOut e g f s = .stop c a s1 → exec (.binRegionReplay n) s = .next (endEngine e 2 c.toNat e.done a s1)) ∧
          (∀ p, playOut e g f s = .wait p → exec (.binRegionReplay n) s = .next (meetAt (.engine e.id) p s)))))) ∧
  (∀ (s : State) (n : Nat) (e : Engine), s.engines[n]? = some e → (e.kind = 0x20 ∨ e.kind = 0x21) → nodeHere s (e.ext / 2 ^ 22) = false →
    (lostNode s (e.ext / 2 ^ 22) = false → exec (.remoteLinkFail n) s = .next s) ∧
    (lostNode s (e.ext / 2 ^ 22) = true → (∀ i, i < e.len → region (e.near + i) = 2) →
    ∃ (m : Nat) (u : State), m ≤ e.len ∧ exec (.remoteLinkFail n) s = .next (endEngine e 2 0x11B m ((e.far + m) % 2 ^ 56) u) ∧
      u.dev = s.dev ∧ u.spad = s.spad ∧ (e.behind s = true → m = 0))) ∧
  (∀ (s : State) (n : Nat) (r : Req) (node a : Nat), s.engines.length ≤ n → s.reqs[n - s.engines.length]? = some r →
    r.place = .peer node a → r.kind = 4 →
    (lostNode s node = false → exec (.remoteLinkFail n) s = .next s) ∧
    (lostNode s node = true → r.wait = true → exec (.remoteLinkFail n) s =
      .next (trapCore r.core 0x11B (BitVec.ofNat 64 node) { s with reqs := listDel s.reqs (n - s.engines.length) })) ∧
    (lostNode s node = true → r.wait = false → exec (.remoteLinkFail n) s =
      .next (raiseThread r.thread 0x11B (BitVec.ofNat 64 node) 0 { s with reqs := listDel s.reqs (n - s.engines.length) })))

/-- 06 R173, R198 to R202; 13 R345 (the page of a completion object that is moving holds the instruction).
Where the spec leaves a point open it follows the model's choice: log entry 75. -/
def Obligations.MatrixInstructionsAreIssued : Prop :=
  ∀ (s s1 : State) (rd ra rb g ext fn d cell : Nat) (p : Place) (k : District) (e : Instr) (xb : Word) (en : Ent),
    Ready s g [rd, ra, rb] → (th s).status.txn = false →
    (e = .mtile rd ra rb g ext ∧ fn = 0 ∧ xb = rx s rb ∨ e = .mbload rd ra rb g ext ∧ fn = 1 ∧ xb = rx s rb ∨
      e = .maccCp rd ra rb g ext ∧ fn = 2 ∧ xb = rx s rb ∨ e = .maccZero rd ra g ext ∧ fn = 3 ∧ xb = 0) →
    (∀ c, cplPlace s s.cur (addr56 (rx s rd)) = (.error c, s1) → exec e s = .next (trap c (BitVec.ofNat 64 (addr56 (rx s rd))) s1)) ∧
    (cplPlace s s.cur (addr56 (rx s rd)) = (.ok p, s1) → isPeer p = false → en = tidEnt s1 (th s1).asid.toNat (dmaN ext) →
      (myDist s1 = none → exec e s = .next (trap 0x14A 0 s1)) ∧
      (myDist s1 = some (d, k) →
        (matBits fn (rx s ra) ext = true → exec e s = .next (trap 0x282 (rx s ra) s1)) ∧
        (matBits fn (rx s ra) ext = false → matCell s1 k (rx s ra) = none → exec e s = .next (trap 0x281 (rx s ra) s1)) ∧
        (matBits fn (rx s ra) ext = false → matCell s1 k (rx s ra) = some cell →
          (fn ≠ 3 → entMissing s1 (dmaN ext) = true → exec e s = .next (trap 0x2C5 (BitVec.ofNat 64 (dmaN ext)) s1)) ∧
          ((fn = 3 ∨ entMissing s1 (dmaN ext) = false) →
            (matFmtBad fn en ext = true → exec e s = .next (trap 0x2C2 (BitVec.ofNat 64 (dmaN ext)) s1)) ∧
            (matFmtBad fn en ext = false → matShapeBad fn en (rx s ra) xb ext = true → exec e s = .next (trap 0x282 (rx s ra) s1)) ∧
            (matFmtBad fn en ext = false → matShapeBad fn en (rx s ra) xb ext = false →
              (k.tdown = none → k.seqq.length < 8 → migAt s1 p ≠ none → exec e s = .next (spinMoved false p s1)) ∧
              (k.tdown = none → k.seqq.length < 8 → migAt s1 p = none → memOk s → ∃ (t : State) (k' : District) (q : SeqInstr), exec e s = .next t ∧
                ObjectEmptied s1 t p 8 ∧ mget? t.districts d = some k' ∧
                k'.seqq = k.seqq ++ [q] ∧ q.fn = fn ∧ q.cell = cell ∧ q.xa = rx s ra ∧ q.xb = xb ∧ q.ext = ext ∧ q.cpl = rx s rd ∧
                q.entry = tidWords s1 (th s1).asid.toNat (dmaN ext) ∧
                q.step = 0 ∧ q.row = 0 ∧ q.fault = none ∧ q.nans = 0 ∧ q.infs = 0 ∧ q.ovfs = 0 ∧
                (k.cfg = none → k.cfgq = [] → (∀ v ∈ k.invs, v.started = true) → q.entered k' = true) ∧
                (k.cfg.isSome = true ∨ k.cfgq ≠ [] → q.entered k' = false)) ∧
              ((8 ≤ k.seqq.length ∨ k.tdown.isSome = true) → exec e s = .next (spin false s1)))))))

/-- 06 R171, R199 to R202: the first access of an instruction waits for those that its thread has made before.
Where the spec leaves a point open it follows the model's choice: log entries 20, 22, 32, 33, 133. -/
def Obligations.SequencerSteps : Prop :=
  let head (t : State) (d : Nat) (k : District) (q : SeqInstr) : Prop :=
    ∃ (k' : District), mget? t.districts d = some k' ∧ k'.seqq = q :: k.seqq.drop 1
  let kept (t : State) (d : Nat) (k : District) : Prop := (mget? t.districts d).map (fun x => x.seqq) = some k.seqq
  (∀ (s : State) (d : Nat), seqHead s d = none →
    exec (.seqBFetch d) s = .next s ∧ exec (.seqBWrite d) s = .next s ∧ exec (.seqAFetch d) s = .next s ∧
    exec (.seqAAlign d) s = .next s ∧ exec (.seqABroadcast d) s = .next s ∧ exec (.seqAAccumulate d) s = .next s ∧
    exec (.seqAccRowMove d) s = .next s ∧ exec (.seqSetCompletion d) s = .next s) ∧
  ∀ (s s1 s2 : State) (d : Nat) (k : District) (q : SeqInstr) (mk : MKind) (es : List BElem) (ss : List BScale) (a b : Nat)
    (cs scs : List (Nat × Bool)) (c : BitVec 10) (p : Option Place), seqHead s d = some (k, q) →
    (q.early k s = true → exec (.seqBFetch d) s = .next s ∧ exec (.seqAFetch d) s = .next s ∧
      (q.at 2 0 = true → exec (.seqAccRowMove d) s = .next s)) ∧
    (q.at 1 0 = true → q.early k s = false → q.kind? = some mk →
      (fetchB k q mk 16 q.row [] [] (0, 0) s = (.ok (es, ss, a, b), s1) → kept s1 d k →
        ∃ (t : State), exec (.seqBFetch d) s = .next t ∧
          head t d k { q with step := 1, fetched := es, fetchedSc := ss, nans := satAdd32 q.nans a, infs := satAdd32 q.infs b }) ∧
      (fetchB k q mk 16 q.row [] [] (0, 0) s = (.fault c, s1) → kept s1 d k →
        ∃ (t : State), exec (.seqBFetch d) s = .next t ∧ head t d k { q with fault := some c }) ∧
      (fetchB k q mk 16 q.row [] [] (0, 0) s = (.wait p, s1) → exec (.seqBFetch d) s = .next (meetAt (.dist d) p s))) ∧
    (q.at 1 1 = true → ∃ (t : State), exec (.seqBWrite d) s = .next t ∧
      head t d k { q with step := 0, row := q.row + 16, fetched := [], fetchedSc := [] } ∧
      (q.row = 0 → (elem t q.cell).mat.kk = q.ext % 256 + 1 ∧ (elem t q.cell).mat.sgroup = q.ent.sgroup ∧
        ((elem t q.cell).mat.clean.isSome = true ↔ q.ext.testBit 15 = true)) ∧
      (∀ i, i < q.fetched.length → mget? (elem t q.cell).mat.b ((q.row + i / (q.ext % 256 + 1)) * 256 + i % (q.ext % 256 + 1)) =
        q.fetched[i]?)) ∧
    (q.at 0 0 = true → q.early k s = false →
      (tileEffectBad s q = true → ∃ (t : State), exec (.seqAFetch d) s = .next t ∧ head t d k { q with fault := some 0x282 }) ∧
      (tileEffectBad s q = false →
        (seqCodes k q.ent (mPlanesX q.ext) (q.r + q.row) q.c (elem s q.cell).mat.kk s = (.ok cs, s1) →
          seqScales k q.ent (q.r + q.row) q.c (elem s q.cell).mat.kk s1 = (.ok scs, s2) → kept s2 d k →
          ∃ (t : State), exec (.seqAFetch d) s = .next t ∧
            head t d k { q with step := 1, fetched := cs.map rawElem, fetchedSc := scs.map rawScale }) ∧
        (seqCodes k q.ent (mPlanesX q.ext) (q.r + q.row) q.c (elem s q.cell).mat.kk s = (.fault c, s1) → kept s1 d k →
          ∃ (t : State), exec (.seqAFetch d) s = .next t ∧ head t d k { q with fault := some c }) ∧
        (seqCodes k q.ent (mPlanesX q.ext) (q.r + q.row) q.c (elem s q.cell).mat.kk s = (.wait p, s1) →
          exec (.seqAFetch d) s = .next (meetAt (.dist d) p s)))) ∧
    (q.at 0 1 = true → q.kind? = some mk → ∃ (t : State), exec (.seqAAlign d) s = .next t ∧
      head t d k { q with
        step := 2, rowInts := (convRow q.nanz mk (q.fetched.map BElem.raw) (fun _ => 0)).1,
        unitE := (convRow q.nanz mk (q.fetched.map BElem.raw) (fun _ => 0)).2,
        rowSc := q.fetchedSc.map (fun x => scaleOf q.ent.fmt x.raw.1 x.raw.2 (factorExp q.ent.fmt mk)), fetched := [], fetchedSc := [] }) ∧
    (q.at 0 2 = true → ∃ (t : State), exec (.seqABroadcast d) s = .next t ∧ head t d k { q with step := 3 }) ∧
    (q.at 0 3 = true → ∃ (t : State) (m : Mat) (n i o : Nat), exec (.seqAAccumulate d) s = .next t ∧
      rowStep q.nanz (elem s q.cell).mat (rowOf q.rowInts q.unitE q.rowSc q.ent.sgroup) (mRow0 q.xa + q.row) = (m, n, i, o) ∧
      (elem t q.cell).mat = m ∧
      head t d k { q with
        step := 0, row := q.row + 1, rowInts := [], rowSc := [], unitE := [],
        nans := satAdd32 q.nans n, infs := satAdd32 q.infs i, ovfs := satAdd32 q.ovfs o }) ∧
    (q.at 3 0 = true → ∃ (t : State), exec (.seqAccRowMove d) s = .next t ∧ head t d k { q with row := q.row + 1 } ∧
      (∀ n, n < 128 → matAcc (elem t q.cell).mat (mRow0 q.xa + q.row) n = .zero) ∧
      (∀ r n, n < 128 → r ≠ mRow0 q.xa + q.row → matAcc (elem t q.cell).mat r n = matAcc (elem s q.cell).mat r n)) ∧
    (q.at 2 0 = true → q.early k s = false → bit q.xa 31 = true →
      (seqCodes k q.ent 0 (q.r + q.row) q.c q.cols s = (.ok cs, s1) → kept s1 d k →
        ∃ (t : State), exec (.seqAccRowMove d) s = .next t ∧ head t d k { q with row := q.row + 1 } ∧
          ∀ j x, cs[j]? = some x → matAcc (elem t q.cell).mat (mRow0 q.xa + q.row) j =
            ⟨widen ((fmtFloat q.ent.fmt).getD fp32) x.1, x.2⟩) ∧
      (seqCodes k q.ent 0 (q.r + q.row) q.c q.cols s = (.fault c, s1) → kept s1 d k →
        ∃ (t : State), exec (.seqAccRowMove d) s = .next t ∧ head t d k { q with fault := some c }) ∧
      (seqCodes k q.ent 0 (q.r + q.row) q.c q.cols s = (.wait p, s1) → exec (.seqAccRowMove d) s = .next (meetAt (.dist d) p s))) ∧
    (∀ m, q.at 2 0 = true → q.early k s = false → bit q.xa 31 = false →
      seqStore k (q.ent.addr (q.r + q.row) q.c) (accBytes q (elem s q.cell).mat) 0 .start s = (m, s1) →
      (m.held = true → exec (.seqAccRowMove d) s = .next (meetAt (.dist d) m.wait s)) ∧
      (m.held = false → m.cause = none → kept s1 d k →
        ∃ (t : State), exec (.seqAccRowMove d) s = .next t ∧ head t d k { q with row := q.row + 1 } ∧ t.elems = s1.elems ∧
          t.dev = (settleMarks m s1).dev ∧ t.loc = (settleMarks m s1).loc ∧ t.spad = (settleMarks m s1).spad) ∧
      (m.held = false → m.cause = some c →
        ∃ (t : State), exec (.seqAccRowMove d) s = .next t ∧ head t d k { q with fault := some c } ∧
          t.dev = s.dev ∧ t.loc = s.loc ∧ t.spad = s.spad)) ∧
    (q.fault = none → q.row < q.rows → exec (.seqSetCompletion d) s = .next s) ∧
    (q.fault = none → q.rows ≤ q.row →
      ∃ (u : State) (k' : District), exec (.seqSetCompletion d) s = .next (setCpl k.owner q.cpl (2 ^ 28 + 0x28 + q.fn) q.nans.toNat q.infs.toNat q.ovfs.toNat u) ∧
        mget? u.districts d = some k' ∧ k'.seqq = k.seqq.drop 1 ∧ u.dev = s.dev ∧ u.loc = s.loc ∧ u.spad = s.spad) ∧
    (q.fault = some c → ∃ (u v : State) (k' : District),
      u = setCpl k.owner q.cpl (2 * 2 ^ 28 + c.toNat * 2 ^ 16 + 0x28 + q.fn) q.nans.toNat q.infs.toNat q.ovfs.toNat s ∧
      v.dev = u.dev ∧ v.loc = u.loc ∧ v.spad = u.spad ∧ mget? v.districts d = some k' ∧
      k'.seqq = (k.seqq.drop 1).filter (fun x => !x.entered k) ∧
      exec (.seqSetCompletion d) s = .next (((k.seqq.drop 1).filter (fun x => x.entered k)).foldl (fun s x =>
        setCpl k.owner x.cpl (3 * 2 ^ 28 + 0x28 + x.fn) x.nans.toNat x.infs.toNat x.ovfs.toNat s) v))

/-- 04 R124, R130 to R134.
Where the spec leaves a point open it follows the model's choice: log entries 50, 59, 109. -/
def Obligations.MessagesAreDeliveredAndEntered : Prop :=
  let gone (s : State) (m : Msg) : List Msg := s.sigs.filter (fun x => x != m)
  (∀ (s : State) (ra rb g : Nat), Ready s g [ra, rb] → (th s).status.txn = false →
    ((rx s ra).toNat < 2 ^ 22 → (bits (rx s ra) 15 8 = 0xFF ∨ isMember s (bits (rx s ra) 15 8) = true) →
      ∃ (t : State) (m : Msg), exec (.sig ra rb g) s = .next t ∧ t.sigs = s.sigs ++ [m] ∧ m.src = s.cur ∧ m.dst = bits (rx s ra) 7 0 ∧
        m.device = bits (rx s ra) 15 8 ∧ m.index = bits (rx s ra) 21 16 ∧ m.payload = rx s rb ∧ m.space = (th s).asid ∧
        m.user = !(th s).status.supv ∧ m.bound = (th s).tagwait.toNat ∧ m.arrived = false ∧ m.room = false ∧ (th t).wait = .sig ∧
        (th t).pc = (th s).pc) ∧
    ((2 ^ 22 ≤ (rx s ra).toNat ∨ (bits (rx s ra) 15 8 ≠ 0xFF ∧ isMember s (bits (rx s ra) 15 8) = false)) →
      exec (.sig ra rb g) s = .next (trap 0x00B (rx s ra) s))) ∧
  (∀ (s : State) (n : Nat) (m : Msg) (h : HandlerEntry), s.sigs[n]? = some m → m.arrived = false → m.src < 256 →
    ((m.device = 0xFF ∨ m.device = s.device) → h = handler s m.dst m.index →
      (h.w = true → ∃ (t : State), exec (.sigMessageArrival n) s = .next t ∧
        t.sigs = gone s m ++ [{ m with arrived := true, at_ := s.fc }] ∧ t.cores = s.cores) ∧
      (h.w = false → h.v = false → (core s m.dst).unclaimed.length < 8 →
        ∃ (t : State), exec (.sigMessageArrival n) s = .next t ∧ t.sigs = gone s m ∧
          (core t m.dst).unclaimed = (core s m.dst).unclaimed ++ [{ m with arrived := true }] ∧
          (core t m.dst).events = (core s m.dst).events ++ [⟨0x00A, BitVec.ofNat 64 m.index, 0⟩] ∧
          thr t m.src = (thr s m.src).step 4) ∧
      (h.w = false → h.v = false → 8 ≤ (core s m.dst).unclaimed.length →
        exec (.sigMessageArrival n) s = .next (trapCore m.src 0x008 m.target { setOvf m.dst s with sigs := gone s m })) ∧
      (h.w = false → h.v = true → m.user = true → m.space ≠ h.space →
        exec (.sigMessageArrival n) s = .next (trapCore m.src 0x00C m.target { s with sigs := gone s m })) ∧
      (h.w = false → h.v = true → (m.user = false ∨ m.space = h.space) →
        ((core s m.dst).delivery.length < 8 → (∀ x ∈ s.sigs, x.dst = m.dst → x.room = false) →
          ∃ (t : State), exec (.sigMessageArrival n) s = .next t ∧ t.sigs = gone s m ∧
            (core t m.dst).delivery = (core s m.dst).delivery ++ [{ m with entry := h.addr }] ∧ thr t m.src = (thr s m.src).step 4) ∧
        (8 ≤ (core s m.dst).delivery.length ∨ (∃ x ∈ s.sigs, x.dst = m.dst ∧ x.room = true) →
          ∃ (t : State), exec (.sigMessageArrival n) s = .next t ∧
            t.sigs = gone s m ++ [{ m with arrived := true, room := true, at_ := s.fc }] ∧ t.cores = s.cores))) ∧
    (m.device ≠ 0xFF → m.device ≠ s.device → ∃ (u : State), u.sigs = gone s m ∧ u.cores = s.cores ∧ u.dev = s.dev ∧
      (exec (.sigMessageArrival n) s = .next (advanceCore m.src 4 u) ∨
        ∃ c, (c = 0x008 ∨ c = 0x009 ∨ c = 0x00C) ∧ exec (.sigMessageArrival n) s = .next (trapCore m.src c m.target u)))) ∧
  (∀ (s : State) (m : Msg) (c : Nat), m.src < 256 →
    (s.sigs.find? (fun x => x.dst == c && (x.arrived && !x.room && decide (x.at_ + 256 ≤ s.fc))) = some m →
      exec (.sigHoldTimeout c) s = .next (trapCore m.src 0x009 m.target { s with sigs := gone s m })) ∧
    ((core s c).unclaimed = [] →
      (s.sigs.find? (fun x => x.dst == c && x.room) = some m → (core s c).delivery.length < 8 →
        ∃ (t : State), exec (.sigQueueEntry c) s = .next t ∧ t.sigs = gone s m ∧
          (core t c).delivery = (core s c).delivery ++ [{ m with entry := (handler s c m.index).addr }] ∧
          thr t m.src = (thr s m.src).step 4) ∧
      (8 ≤ (core s c).delivery.length →
        s.sigs.find? (fun x => x.dst == c && x.room && (decide (x.bound ≠ 0) && decide (x.at_ + x.bound ≤ s.fc))) = some m →
        exec (.sigQueueEntry c) s = .next (trapCore m.src 0x008 m.target { s with sigs := gone s m })))) ∧
  (∀ (s : State) (c : Nat), (∀ m ∈ s.sigs, m.dst = c → ¬ (m.arrived = true ∧ m.room = false ∧ m.at_ + 256 ≤ s.fc)) →
    exec (.sigHoldTimeout c) s = .next s) ∧
  (∀ (s : State) (c : Nat) (m : Msg), (core s c).unclaimed = [m] → m.dst = c → (∀ x ∈ s.sigs, x.dst = c → x.room = false) →
    (core s c).delivery.length < 8 → (handler s c m.index).v = true → (handler s c m.index).w = false →
    ∃ (t : State), exec (.sigQueueEntry c) s = .next t ∧ (core t c).unclaimed = [] ∧ t.sigs = s.sigs ∧
      ((m.user = false ∨ m.space = (handler s c m.index).space) →
        (core t c).delivery = (core s c).delivery ++ [{ m with entry := (handler s c m.index).addr }]) ∧
      (m.user = true → m.space ≠ (handler s c m.index).space →
        (core t c).delivery = (core s c).delivery ∧ (core t c).msgOvf = true)) ∧
  (∀ (s : State) (c : Nat) (m : Msg) (rest : List Msg), (core s c).delivery = m :: rest →
    (canEnter s c = false → exec (.msgDelivery c) s = .next s) ∧
    (canEnter s c = true →
      ((∀ w ∈ s.lockq, w.thread ≠ (thr s c).id) ∨ (∀ d, d ≠ c → (thr s d).id ≠ (thr s c).id)) →
      ∃ (t : State), exec (.msgDelivery c) s = .next t ∧ (core t c).delivery = rest ∧ (thr t c).cause = ⟨true, 0x00D⟩ ∧
        (thr t c).tval = m.payload ∧ (thr t c).pc = pcOf (m.entry.toNat * 4) ∧
        (thr t c).epc = BitVec.ofNat 54 ((thr s c).pc.toNat / 4) ∧ (thr t c).sstatus = (thr s c).status ∧
        (thr t c).status = { (thr s c).status with supv := true, ie := false, intrap := true } ∧ (thr t c).wait = .none)) ∧
  (∀ (s : State) (c : Nat) (e : AsyncEvent) (rest : List AsyncEvent), (core s c).events = e :: rest →
    (canEnter s c = false → exec (.asyncEventEntry c) s = .next s) ∧
    (canEnter s c = true →
      ((∀ w ∈ s.lockq, w.thread ≠ (thr s c).id) ∨ (∀ d, d ≠ c → (thr s d).id ≠ (thr s c).id)) →
      ∃ (t : State), exec (.asyncEventEntry c) s = .next t ∧ (core t c).events = rest ∧ (thr t c).cause = ⟨true, e.cause⟩ ∧
        (thr t c).tval = e.tval ∧ (thr t c).iter = e.iter ∧ (thr t c).pc = pcOf ((core s c).tvec.toNat * 256) ∧
        (thr t c).epc = BitVec.ofNat 54 ((thr s c).pc.toNat / 4) ∧ (thr t c).sstatus = (thr s c).status ∧
        (thr t c).status = { (thr s c).status with supv := true, ie := false, intrap := true } ∧ (thr t c).wait = .none)) ∧
  (∀ (s : State) (rd ra rb g ix : Nat) (e : HandlerEntry), Ready s g [ra, rb] → (th s).status.supv = true →
    ix = bits (rx s ra) 5 0 →
    e = ⟨BitVec.ofNat 54 (bits (rx s rb) 55 2), bit (rx s rb) 0, bit (rx s rb) 1, BitVec.ofNat 16 (bits (rx s ra) 31 16)⟩ →
    ((bits (rx s ra) 63 32 ≠ 0 ∨ bits (rx s ra) 15 6 ≠ 0 ∨ bits (rx s rb) 63 56 ≠ 0) →
      exec (.sethnd rd ra rb g) s = .next (trap 0x00B (rx s ra) s)) ∧
    (bits (rx s ra) 63 32 = 0 → bits (rx s ra) 15 6 = 0 → bits (rx s rb) 63 56 = 0 →
      (e.w = true → exec (.sethnd rd ra rb g) s = .next (retX rd (BitVec.ofNat 64 ((handler s s.cur ix).addr.toNat * 4 +
        (if (handler s s.cur ix).v then 1 else 0))) (updCore s s.cur (fun k => { k with handlers := mset k.handlers ix e })))) ∧
      ((∀ m ∈ s.sigs, m.src ≠ s.cur) →
        ∃ (t : State), exec (.sethnd rd ra rb g) s = .next t ∧ (th t).pc = (th (advance 4 s)).pc ∧ handler t s.cur ix = e ∧
          (∀ i, i ≠ ix → handler t s.cur i = handler s s.cur i) ∧
          (rd ≠ 0 → rx t rd = BitVec.ofNat 64 ((handler s s.cur ix).addr.toNat * 4 + (if (handler s s.cur ix).v then 1 else 0)))) ∧
      (∀ m, (me s).unclaimed = [m] → m.index = ix → m.dst = s.cur → (∀ x ∈ s.sigs, x.dst ≠ s.cur) → e.v = true → e.w = false →
        (m.user = false ∨ m.space = e.space) → (me s).delivery.length < 8 →
        ∃ (t : State), exec (.sethnd rd ra rb g) s = .next t ∧ (me t).unclaimed = [] ∧
          (me t).delivery = (me s).delivery ++ [{ m with entry := e.addr }]) ∧
      (∀ m, (me s).unclaimed = [] → heldMsgs s s.cur ix = [m] → (∀ x ∈ s.sigs, x.dst = s.cur → x.room = false) →
        e.v = true → e.w = false → m.src < 256 → m.src ≠ s.cur → (me s).delivery.length < 8 →
        (s.fc < m.at_ + 256 → (m.user = false ∨ m.space = e.space) →
          ∃ (t : State), exec (.sethnd rd ra rb g) s = .next t ∧ t.sigs = gone s m ∧
            (me t).delivery = (me s).delivery ++ [{ m with entry := e.addr }] ∧ thr t m.src = (thr s m.src).step 4) ∧
        (m.at_ + 256 ≤ s.fc → ∃ (u : State), exec (.sethnd rd ra rb g) s = .next (trapCore m.src 0x009 m.target u) ∧
          u.sigs = gone s m ∧ thr u m.src = thr s m.src))))

/-- 06 R205; 14 R375 to R380; 03 R82.
Where the spec leaves a point open it follows the model's choice: log entries 3, 59, 123, 124. -/
def Obligations.GroupClockInstructions : Prop :=
  (∀ (s : State) (rd ra rb g : Nat), Ready s g [ra, rb] → (th s).status.supv = true →
    ((rx s ra).toNat < 2 ^ 32 → (rx s rb).toNat ≤ 56 → 20 ≤ bits (rx s ra) 31 16 → bits (rx s ra) 31 16 ≤ 500 →
      (ageWaits s = true → exec (.gcJoin rd ra rb g) s = .next (spin false s)) ∧
      (ageWaits s = false →
        (s.gc.group = none → ∃ (t : State), exec (.gcJoin rd ra rb g) s = .next t ∧ t.gc.group = some (bits (rx s ra) 15 0) ∧
          t.gc.notice = bits (rx s ra) 31 16 ∧ t.gc.joinCore = some s.cur ∧ t.gc.joinN = (rx s rb).toNat ∧ t.gc.joinAt = s.ns ∧
          (th t).wait = .gcJoin rd ∧ (th t).pc = (th s).pc ∧ (th t).age = (th (aged s)).age) ∧
        (∀ h, s.gc.group = some h → exec (.gcJoin rd ra rb g) s = .next (retX rd
          (if s.gc.leaving = none ∧ h = bits (rx s ra) 15 0 then 3 else 1) (aged s))))) ∧
    (2 ^ 32 ≤ (rx s ra).toNat ∨ 56 < (rx s rb).toNat ∨ bits (rx s ra) 31 16 < 20 ∨ 500 < bits (rx s ra) 31 16 →
      exec (.gcJoin rd ra rb g) s = .next (trap 0x301 (rx s ra) s)) ∧
    (ageWaits s = true → exec (.gcLeave rd g) s = .next (spin false s)) ∧
    (ageWaits s = false →
      (inGroup s = false → exec (.gcLeave rd g) s = .next (retX rd 1 (aged s))) ∧
      (inGroup s = true → ∃ (t : State), exec (.gcLeave rd g) s = .next t ∧ rx t rd = 0 ∧ (th t).pc = (th (advance 4 s)).pc ∧
        (th t).age = (th (aged s)).age ∧
        (s.gc.leaving = none → t.gc.leaving = some (cdiv (s.ns + s.gc.notice * 1000) 10000 * 10000)) ∧
        (∀ r, s.gc.leaving = some r → t.gc.leaving = some r))) ∧
    (56 < (rx s ra).toNat → exec (.gcAnn ra rb g) s = .next (trap 0x301 (rx s ra) s)) ∧
    ((rx s ra).toNat ≤ 56 → inGroup s = false → exec (.gcAnn ra rb g) s = .next (trap 0x302 (rx s ra) s)) ∧
    ((rx s ra).toNat ≤ 56 → inGroup s = true → (rx s rb).toNat ≠ 0 → (rx s rb).toNat < s.ns + s.gc.notice * 1000 →
      exec (.gcAnn ra rb g) s = .next (trap 0x301 (rx s ra) s)) ∧
    ((rx s ra).toNat ≤ 56 → inGroup s = true → ((rx s rb).toNat = 0 ∨ s.ns + s.gc.notice * 1000 ≤ (rx s rb).toNat) →
      (ageWaits s = true → exec (.gcAnn ra rb g) s = .next (spin false s)) ∧
      (ageWaits s = false →
        ∃ (t : State) (te : Nat), exec (.gcAnn ra rb g) s = .next t ∧ (th t).pc = (th (advance 4 s)).pc ∧ t.gc.ann = (rx s ra).toNat ∧
          (th t).age = (th (aged s)).age ∧
          te = cdiv (if (rx s rb).toNat = 0 then s.ns + s.gc.notice * 1000 else (rx s rb).toNat) 10000 * 10000 ∧
          t.gc.own = s.gc.own ++ [(te, min (min (rx s ra).toNat s.power.nth) (min s.power.ncur s.power.ncap))]))) ∧
  (∀ (s : State) (rd ra rb g : Nat) (e : Instr), (th s).status.supv = false →
    (e = .gcJoin rd ra rb g ∨ e = .gcLeave rd g ∨ e = .gcAnn ra rb g) → exec e s = .next (trap 0x002 (firstWord e) s)) ∧
  (∀ (s : State) (rd ra g : Nat), Ready s g [ra] →
    ((rx s ra).toNat = 0 →
      (∀ n, ceilingAt s.gc s.ns = some n → exec (.gcQuery rd ra g) s = .next (retX rd (BitVec.ofNat 64 n) s)) ∧
      (ceilingAt s.gc s.ns = none → ∃ n, n ≤ 56 ∧
        exec (.gcQuery rd ra g) s = .next (retX rd (BitVec.ofNat 64 n) { s with freeIx := s.freeIx + 1 })) ∧
      (s.gc.group = none → exec (.gcQuery rd ra g) s = .next (retX rd (BitVec.ofNat 64 (ownAt s.gc s.ns)) s))) ∧
    ((rx s ra).toNat = 1 → exec (.gcQuery rd ra g) s = .next (retX rd (BitVec.ofNat 64 (((nextChange s).map Prod.fst).getD 0)) s)) ∧
    ((rx s ra).toNat = 2 → exec (.gcQuery rd ra g) s = .next (retX rd (BitVec.ofNat 64 (((nextChange s).map Prod.snd).getD 0)) s)) ∧
    ((rx s ra).toNat = 3 → exec (.gcQuery rd ra g) s = .next (retX rd
      (if inGroup s then BitVec.ofNat 64 (memberCount s * 65536 + s.gc.group.getD 0) else 0) s)) ∧
    ((rx s ra).toNat = 4 → exec (.gcQuery rd ra g) s = .next (retX rd
      (BitVec.ofNat 64 (min (min s.gc.ann s.power.nth) (min s.power.ncur s.power.ncap))) s)) ∧
    (4 < (rx s ra).toNat → exec (.gcQuery rd ra g) s = .next (trap 0x301 (rx s ra) s))) ∧
  (∀ (s : State) (c rd grp id seq notice tj : Nat) (ms l : List StateRow), s.gc.group = some grp → s.gc.joinCore = some c →
    (thr s c).wait = .gcJoin rd →
    (tj ≠ 0 → ∃ (t : State), exec (.stateReceive grp ⟨id, seq⟩ notice tj ms l) s = .next t ∧ (thr t c).getX rd = 0 ∧ (thr t c).wait = .none ∧
      (thr t c).pc = ((thr s c).step 4).pc ∧
      t.gc.group = some grp ∧ t.gc.joinCore = none ∧ t.gc.tj = cdiv tj 10000 * 10000 ∧ t.gc.notice = notice ∧ t.gc.ann = s.gc.joinN ∧
      t.gc.early = [] ∧
      (s.gc.early = [] → (ms.map Prod.fst).Nodup → ∀ i ∈ ms, ∃ m, mget? t.gc.members i.1 = some m ∧
        m.anns = (l.filter (fun a => a.1 == i.1)).map (fun a => (a.2.1, a.2.2.1, cdiv a.2.2.2 10000 * 10000)) ∧
        m.tj = cdiv i.2.2.1 10000 * 10000 ∧ m.gone = (if i.2.2.2 = 0 then none else some (cdiv i.2.2.2 10000 * 10000)) ∧ m.heard = s.ns)) ∧
    (tj = 0 → ∃ (t : State), exec (.stateReceive grp ⟨id, seq⟩ notice tj ms l) s = .next t ∧ (rd ≠ 0 → (thr t c).getX rd = 2) ∧
      (thr t c).wait = .none ∧ (thr t c).pc = ((thr s c).step 4).pc ∧ t.gc.group = none ∧ t.gc.joinCore = none) ∧
    (s.gc.joinAt + 100000 ≤ s.ns → ∃ (t : State), exec .groupFound s = .next t ∧ (thr t c).getX rd = 0 ∧ (thr t c).wait = .none ∧
      (thr t c).pc = ((thr s c).step 4).pc ∧
      t.gc.group = some grp ∧ t.gc.joinCore = none ∧ t.gc.members = [] ∧
      t.gc.tj = cdiv (s.gc.joinAt + s.gc.notice * 1000) 10000 * 10000) ∧
    (s.ns < s.gc.joinAt + 100000 → exec .groupFound s = .next s))

/-- 14 R376 to R382.
Where the spec leaves a point open it follows the model's choice: log entry 59. -/
def Obligations.GroupClockMessages : Prop :=
  (∀ (s : State) (grp id seq n te top : Nat) (m : Member), inGroup s = true → s.gc.group = some grp → mget? s.gc.members id = some m →
    (m.early = [] → BitVec.ofNat 32 seq = m.next →
      (n ≤ 56 → s.ns ≤ cdiv te 10000 * 10000 → ∃ (t : State), exec (.announceReceive grp id seq n te) s = .next t ∧
        mget? t.gc.members id = some { m with anns := m.anns ++ [(m.next.toNat, n, cdiv te 10000 * 10000)], next := m.next + 1, asked := false } ∧
        t.gc.late = s.gc.late) ∧
      (n ≤ 56 → cdiv te 10000 * 10000 < s.ns → ∃ (t : State), exec (.announceReceive grp id seq n te) s = .next t ∧
        mget? t.gc.members id = some { m with anns := m.anns ++ [(m.next.toNat, n, cdiv te 10000 * 10000)], next := m.next + 1, asked := false } ∧
        t.gc.late = satInc s.gc.late) ∧
      (∃ (t : State), exec (.leaveReceive grp ⟨id, seq⟩ te) s = .next t ∧
        mget? t.gc.members id = some { m with gone := some (min (m.gone.getD (cdiv te 10000 * 10000)) (cdiv te 10000 * 10000)), next := m.next + 1, asked := false }) ∧
      (∀ who w, who ≠ id → mget? s.gc.members who = some w → ∃ (t : State), exec (.silentReceive grp ⟨id, seq⟩ ⟨who, te⟩) s = .next t ∧
        mget? t.gc.members who = some { w with gone := some (min (w.gone.getD (cdiv te 10000 * 10000)) (cdiv te 10000 * 10000)) } ∧
        mget? t.gc.members id = some { m with next := m.next + 1, asked := false })) ∧
    (m.early = [] → BitVec.ofNat 32 seq = m.next + 1 → n ≤ 56 → ∃ (t : State), exec (.announceReceive grp id seq n te) s = .next t ∧
      mget? t.gc.members id = some { m with early := [(m.next + 1, .announce n te)], asked := true } ∧ t.gc.late = s.gc.late) ∧
    (notBehind (BitVec.ofNat 32 seq) m.next = false → exec (.announceReceive grp id seq n te) s = .next s ∧
      exec (.leaveReceive grp ⟨id, seq⟩ te) s = .next s ∧ exec (.silentReceive grp ⟨id, seq⟩ ⟨top, te⟩) s = .next s) ∧
    (∃ (t : State) (m' : Member), exec (.heartbeatReceive grp ⟨id, seq⟩ n top) s = .next t ∧ mget? t.gc.members id = some m' ∧
      m'.heard = s.ns ∧ m'.told = false) ∧
    (m.told = false → (∀ r, m.gone = some r → s.ns < r) → m.heard + max 5 s.gc.silent.toNat * 10000 ≤ s.ns →
      ∃ (t : State), exec (.silentDeclare id) s = .next t ∧
        mget? t.gc.members id = some { m with told := true, gone := some (min (m.gone.getD (cdiv (s.ns + s.gc.notice * 1000) 10000 * 10000))
          (cdiv (s.ns + s.gc.notice * 1000) 10000 * 10000)) } ∧
        t.gc.silents = satInc s.gc.silents ∧
        (core t 0).events = (core s 0).events ++ [⟨0x303, BitVec.ofNat 64 (nodeOf s id * 65536 + grp), 0⟩]) ∧
    ((m.told = true ∨ (∃ r, m.gone = some r ∧ r ≤ s.ns) ∨ s.ns < m.heard + max 5 s.gc.silent.toNat * 10000) →
      exec (.silentDeclare id) s = .next s) ∧
    (∀ d, s.ids = [(d, id)] → isMember s d = true → nodeOf s id = d) ∧
    (s.ids = [] → (∀ k, k < 880 → peerValid s (144 + k) = false) → nodeOf s id = 0x3FF)) ∧
  (∀ (s : State) (grp id seq n te tj notice : Nat) (ms l : List StateRow), (s.gc.group ≠ some grp ∨ (inGroup s = false ∧ s.gc.joinCore = none)) →
    exec (.announceReceive grp id seq n te) s = .next s ∧ exec (.heartbeatReceive grp ⟨id, seq⟩ n te) s = .next s ∧
    exec (.leaveReceive grp ⟨id, seq⟩ te) s = .next s ∧ exec (.silentReceive grp ⟨id, seq⟩ ⟨n, te⟩) s = .next s ∧
    exec (.joinReceive grp ⟨id, seq⟩ n notice) s = .next s ∧ exec (.expelReceive grp) s = .next s ∧
    exec (.stateReceive grp ⟨id, seq⟩ notice tj ms l) s = .next s) ∧
  (∀ (s : State) (grp id seq n te who : Nat), s.gc.group = some grp → s.gc.joinCore ≠ none → n ≤ 56 →
    exec (.announceReceive grp id seq n te) s =
      .next { s with gc := { s.gc with early := s.gc.early ++ [(id, BitVec.ofNat 32 seq, .announce n te)] } } ∧
    exec (.leaveReceive grp ⟨id, seq⟩ te) s =
      .next { s with gc := { s.gc with early := s.gc.early ++ [(id, BitVec.ofNat 32 seq, .leave te)] } } ∧
    exec (.silentReceive grp ⟨id, seq⟩ ⟨who, te⟩) s =
      .next { s with gc := { s.gc with early := s.gc.early ++ [(id, BitVec.ofNat 32 seq, .silent who te)] } }) ∧
  (∀ (s : State) (grp id seq n notice : Nat), inGroup s = true → s.gc.group = some grp → n ≤ 56 →
    (memberCount s < 1024 → isFellow s id = false →
      ∃ (t : State) (m : Member), exec (.joinReceive grp ⟨id, seq⟩ n notice) s = .next t ∧ mget? t.gc.members id = some m ∧ m.anns = [(seq, n, 0)] ∧
        m.tj = cdiv (s.ns + s.gc.notice * 1000) 10000 * 10000 ∧ m.gone = none ∧ m.heard = s.ns ∧ m.next = BitVec.ofNat 32 seq + 1 ∧
        ∀ i, i ≠ id → mget? t.gc.members i = mget? s.gc.members i) ∧
    ((1024 ≤ memberCount s ∨ isFellow s id = true) → exec (.joinReceive grp ⟨id, seq⟩ n notice) s = .next s)) ∧
  (∀ (s : State) (grp id seq notice tj : Nat) (i : StateRow) (l : List StateRow), s.gc.group = some grp → s.gc.joinCore = none →
    (∀ m, mget? s.gc.members id = some m → m.early = []) →
    (mget? s.gc.members i.1 = none → ∃ (t : State) (m : Member), exec (.stateReceive grp ⟨id, seq⟩ notice tj [i] l) s = .next t ∧
      mget? t.gc.members i.1 = some m ∧
      m.anns = (l.filter (fun a => a.1 == i.1)).map (fun a => (a.2.1, a.2.2.1, cdiv a.2.2.2 10000 * 10000)) ∧
      m.tj = cdiv i.2.2.1 10000 * 10000 ∧ m.gone = (if i.2.2.2 = 0 then none else some (cdiv i.2.2.2 10000 * 10000)) ∧ m.heard = s.ns) ∧
    (∀ m, mget? s.gc.members i.1 = some m → BitVec.ofNat 32 i.2.1 + 1 = m.next →
      ∃ (t : State) (m' : Member), exec (.stateReceive grp ⟨id, seq⟩ notice tj [i] l) s = .next t ∧ mget? t.gc.members i.1 = some m' ∧
        m'.anns = m.anns ∧ (i.2.2.2 = 0 → m'.gone = m.gone) ∧
        (i.2.2.2 ≠ 0 → m'.gone = some (min (m.gone.getD (cdiv i.2.2.2 10000 * 10000)) (cdiv i.2.2.2 10000 * 10000))))) ∧
  (∀ (s : State),
    (inGroup s = true → s.gc.hbAt + 10000 ≤ s.ns →
      ∃ (t : State), exec .heartbeatSend s = .next t ∧ t.gc.hbAt = s.ns ∧ t.gc.seq = s.gc.seq + 1) ∧
    ((inGroup s = false ∨ s.ns < s.gc.hbAt + 10000) → exec .heartbeatSend s = .next s)) ∧
  (∀ (s : State) (grp : Nat), inGroup s = true → s.gc.group = some grp →
    ∃ (t : State), exec (.expelReceive grp) s = .next t ∧ t.gc.group = none ∧ t.gc.members = [] ∧
      (core t 0).events = (core s 0).events ++ [⟨0x304, BitVec.ofNat 64 grp, 0⟩]) ∧
  (∀ (s : State), ∃ (t : State), exec .ceilingChange s = .next t ∧ t.ceiling ≤ ownAt s.gc (s.ns / 10000 * 10000) ∧
    (s.gc.group = none → t.ceiling = ownAt s.gc (s.ns / 10000 * 10000)) ∧
    (inGroup s = true → s.gc.leaving = none →
      (∀ (id : Nat) (m : Member), (id, m) ∈ s.gc.members →
        m.counts (s.ns / 10000 * 10000) = true → t.ceiling ≤ m.limit (s.ns / 10000 * 10000)) ∧
      (t.ceiling = ownAt s.gc (s.ns / 10000 * 10000) ∨ ∃ (id : Nat) (m : Member), (id, m) ∈ s.gc.members ∧
        m.counts (s.ns / 10000 * 10000) = true ∧ t.ceiling = m.limit (s.ns / 10000 * 10000))) ∧
    (∀ r, s.gc.leaving = some r →
      (r ≤ s.ns / 10000 * 10000 → t.gc.group = none ∧ t.gc.members = [] ∧ t.gc.leaving = none ∧
        t.ceiling = ownAt s.gc (s.ns / 10000 * 10000)) ∧
      (s.ns / 10000 * 10000 < r → t.gc.group = s.gc.group ∧ t.gc.members = s.gc.members)))

/-- 02 R60 to R70; 06 R171 (a load reads behind its thread's earlier accesses); 09 R276, R277.
Where the spec leaves a point open it follows the model's choice: log entries 25, 26, 70, 114, 119, 120. -/
def Obligations.ConfigurationCommands : Prop :=
  (∀ (s s0 s1 s2 : State) (d w v x y e f : Nat) (k : District) (run : CfgRun), s0 = startLoad d s → mget? s0.districts d = some k →
    k.cfg = some run → k.gated = false → run.fault = none → run.pos < run.len →
    cfgWord k run run.pos s0 = (.ok w, s1) → mget? s1.districts d = some k →
    (run.wave = true → pendWords s1 k < 4096) → (run.pos = 0 → k.behind s0 = false) →
    let moved := fun (t : State) (k' : District) (n : Nat) => mget? t.districts d = some k' ∧
      ∃ (r : CfgRun), k'.cfg = some r ∧ r.pos = run.pos + n ∧ r.fault = none
    let stopped := fun (i : Instr) (c : BitVec 10) (n : Nat) => ∃ (t : State) (k' : District) (r : CfgRun), exec i s = .next t ∧
      mget? t.districts d = some k' ∧ k'.cfg = some r ∧ r.fault = some (c, run.pos, w, run.pos + n) ∧ k'.staging = none
    let good := fun (u : State) (v : W32) => writeCheck u k run.wave e f v = none ∧ (run.wave = false →
      (isConstField f = true → ∀ l, k.staging = some l → l.length < 64) ∧ (isConstField f = false → writeBusy u k e f = false))
    let bad := fun (u : State) (v : W32) (c : BitVec 10) => writeCheck u k run.wave e f v = some c ∨
      (writeCheck u k run.wave e f v = none ∧ run.wave = false ∧
        ((c = 0x147 ∧ isConstField f = true ∧ ∃ l, k.staging = some l ∧ 64 ≤ l.length) ∨
          (c = 0x148 ∧ isConstField f = false ∧ writeBusy u k e f = true)))
    let wrote := fun (u t : State) (k' : District) (v : W32) =>
      (run.wave = false →
        (isSwitchField e f = false → (isConstField f = true → k.staging = none) → (f < 0xD1 ∨ 0xE0 ≤ f) → (elem t e).field f = v) ∧
        (∀ l, isConstField f = true → k.staging = some l → k'.staging = some (l ++ [(e, f, v)]) ∧ t.elems = u.elems) ∧
        (isSwitchField e f = true → f = 0x80 → v.toNat % 2 ^ 16 ∈ (switch t (elemBlock e)).sources (v.toNat / 2 ^ 16)) ∧
        (isSwitchField e f = true → f = 0x81 → (switch t (elemBlock e)).sources (v.toNat / 2 ^ 16) = [])) ∧
      (run.wave = true →
        (isSwitchField e f = false → (elem t e).pend = (elem u e).pend ++ [.write f v] ∧ ∀ i, (elem t e).field i = (elem u e).field i) ∧
        (isSwitchField e f = true → (switch t (elemBlock e)).pend = (switch u (elemBlock e)).pend ++
          [(v.toNat / 2 ^ 16, if f = 0x80 then some (v.toNat % 2 ^ 16) else none, lastInv k)] ∧ t.elems = u.elems))
    (cmdKind w = 0 → v = nb w 21 0 → f = nb w 29 22 →
      (k.cursor = none → stopped (.plainWrite d) 0x142 1) ∧
      (k.cursor = some (x, y) →
        (∀ c, cfgElem k x y = .error c → stopped (.plainWrite d) c 1) ∧
        (cfgElem k x y = .ok e →
          (∀ c, bad s1 (BitVec.ofNat 32 v) c → stopped (.plainWrite d) c 1) ∧
          (good s1 (BitVec.ofNat 32 v) → ∃ (t : State) (k' : District), exec (.plainWrite d) s = .next t ∧ moved t k' 1 ∧
            wrote s1 t k' (BitVec.ofNat 32 v) ∧
            (k.step ≠ 1 → k'.cursor = some (x, y)) ∧ (k.step = 1 → k'.cursor = nextCell k 3 x y))))) ∧
    (cmdKind w = 1 →
      ((nb w 29 22 ≠ 0 ∨ nb w 7 0 ≠ 0 ∨ 2 ≤ nb w 9 8) → stopped (.setElementCursor d) 0x141 1) ∧
      (nb w 29 22 = 0 → nb w 7 0 = 0 → nb w 9 8 < 2 →
        ((8 * k.rect.w ≤ nb w 15 10 ∨ 8 * k.rect.h ≤ nb w 21 16) → stopped (.setElementCursor d) 0x142 1) ∧
        (nb w 15 10 < 8 * k.rect.w → nb w 21 16 < 8 * k.rect.h →
          ∃ (t : State) (k' : District), exec (.setElementCursor d) s = .next t ∧ moved t k' 1 ∧
            k'.cursor = some (nb w 15 10, nb w 21 16) ∧ k'.step = nb w 9 8))) ∧
    (cmdKind w = 2 →
      (run.len ≤ run.pos + 1 → stopped (.wideWrite d) 0x145 1) ∧
      (run.pos + 1 < run.len → cfgWord k run (run.pos + 1) s1 = (.ok v, s2) → mget? s2.districts d = some k → f = nb w 29 22 →
        (nb w 9 0 ≠ 0 → stopped (.wideWrite d) 0x141 2) ∧
        (nb w 9 0 = 0 →
          (∀ c, cfgElem k (nb w 15 10) (nb w 21 16) = .error c → stopped (.wideWrite d) c 2) ∧
          (cfgElem k (nb w 15 10) (nb w 21 16) = .ok e →
            (∀ c, bad s2 (BitVec.ofNat 32 v) c → stopped (.wideWrite d) c 2) ∧
            (good s2 (BitVec.ofNat 32 v) → ∃ (t : State) (k' : District), exec (.wideWrite d) s = .next t ∧ moved t k' 2 ∧
              wrote s2 t k' (BitVec.ofNat 32 v) ∧ k'.cursor = some (nb w 15 10, nb w 21 16)))))) ∧
    (w / 2 ^ 30 = 3 → 6 ≤ nb w 29 26 → stopped (.nop d) 0x141 1) ∧
    (w / 2 ^ 30 = 3 → nb w 25 0 ≠ 0 →
      (nb w 29 26 = 0 → stopped (.nop d) 0x141 1) ∧ (nb w 29 26 = 1 → stopped (.stage d) 0x141 1) ∧
      (nb w 29 26 = 3 → stopped (.abandon d) 0x141 1) ∧ (nb w 29 26 = 4 → stopped (.wave d) 0x141 1) ∧
      (nb w 29 26 = 5 → stopped (.clear d) 0x141 1)) ∧
    (w / 2 ^ 30 = 3 → nb w 25 0 = 0 →
      (nb w 29 26 = 0 → ∃ (t : State) (k' : District), exec (.nop d) s = .next t ∧ moved t k' 1 ∧ t.elems = s1.elems) ∧
      (nb w 29 26 = 1 →
        (run.wave = false → k.staging = none → ∃ (t : State) (k' : District), exec (.stage d) s = .next t ∧ moved t k' 1 ∧
          k'.staging = some []) ∧
        ((run.wave = true ∨ k.staging.isSome = true) → stopped (.stage d) 0x145 1)) ∧
      (nb w 29 26 = 3 → ∃ (t : State) (k' : District), exec (.abandon d) s = .next t ∧ moved t k' 1 ∧ k'.staging = none ∧
        t.elems = s1.elems) ∧
      (nb w 29 26 = 4 → ∃ (t : State) (k' : District) (r : CfgRun), exec (.wave d) s = .next t ∧ moved t k' 1 ∧ k'.cfg = some r ∧
        r.wave = true) ∧
      (nb w 29 26 = 5 →
        (k.cursor = none → stopped (.clear d) 0x142 1) ∧
        (k.cursor = some (x, y) → cfgElem k x y = .ok e →
          (run.wave = false → (elem s1 e).running k = false →
            ∃ (t : State) (k' : District), exec (.clear d) s = .next t ∧ moved t k' 1 ∧ elem t e = .reset ∧
              (elemX e % 8 = 0 → elemY e % 8 = 0 → ∀ i, i ∈ (switch s1 (elemBlock e)).drive.map Prod.fst →
                (switch t (elemBlock e)).sources i = [])) ∧
          (run.wave = false → (elem s1 e).running k = true → stopped (.clear d) 0x148 1) ∧
          (run.wave = true → ∃ (t : State) (k' : District), exec (.clear d) s = .next t ∧ moved t k' 1 ∧
            (elem t e).pend = (elem s1 e).pend ++ [.clear] ∧
            (isOrigin e = true → (switch t (elemBlock e)).pend = (switch s1 (elemBlock e)).pend ++ [(clearAll, none, lastInv k)]))))) ∧
    (w / 2 ^ 30 = 3 → nb w 29 26 = 2 →
      (256 ≤ nb w 25 0 → stopped (.commit d) 0x141 1) ∧
      (nb w 25 0 < 256 → (run.wave = true ∨ k.staging = none) → stopped (.commit d) 0x145 1) ∧
      (∀ l, nb w 25 0 < 256 → run.wave = false → k.staging = some l →
        ∃ (t : State) (k' : District) (r : CfgRun), exec (.commit d) s = .next t ∧ moved t k' 1 ∧ k'.staging = none ∧
          k'.cfg = some r ∧ r.tag = nb w 25 0 ∧
          ∀ (i e f : Nat) (v : W32), l[i]? = some (e, f, v) → (∀ (j : Nat) (u : W32), i < j → l[j]? ≠ some (e, f, u)) →
            (f < 0xD1 ∨ 0xE0 ≤ f) → (elem t e).field f = v))) ∧
  (∀ (s s0 s1 : State) (d kd w : Nat) (k : District) (run : CfgRun) (c : BitVec 10) (p : Option Place) (i : Instr),
    (i = .plainWrite d ∧ kd = 0 ∨ i = .setElementCursor d ∧ kd = 1 ∨ i = .wideWrite d ∧ kd = 2 ∨ i = .nop d ∧ kd = 3 ∨
      i = .stage d ∧ kd = 4 ∨ i = .commit d ∧ kd = 5 ∨ i = .abandon d ∧ kd = 6 ∨ i = .wave d ∧ kd = 7 ∨ i = .clear d ∧ kd = 8) →
    s0 = startLoad d s →
    (mget? s0.districts d = none → exec i s = .next s0) ∧
    (mget? s0.districts d = some k →
      (k.cfg = none → exec i s = .next s0) ∧
      (k.cfg = some run →
        ((k.gated = true ∨ run.fault.isSome = true ∨ run.len ≤ run.pos ∨ (run.pos = 0 ∧ k.behind s0 = true)) → exec i s = .next s0) ∧
        (k.gated = false → run.fault = none → run.pos < run.len → (run.pos = 0 → k.behind s0 = false) →
          (cfgWord k run run.pos s0 = (.ok w, s1) → (cmdKind w ≠ kd ∨ (run.wave = true ∧ 4096 ≤ pendWords s1 k)) → exec i s = .next s1) ∧
          (cfgWord k run run.pos s0 = (.wait p, s1) → exec i s = .next (meetAt (.dist d) p s1)) ∧
          (cfgWord k run run.pos s0 = (.fault c, s1) → exec i s = .next (cfgStop d c run.pos 0 run.pos s1)))))) ∧
  (∀ (s : State) (e d i f : Nat) (k : District) (v : W32), distOf s e = some (d, k) →
    ((k.gated = true ∨ readyPend s k e (elem s e) = none) → exec (.pendingCommandApply e) s = .next s) ∧
    (k.gated = false → readyPend s k e (elem s e) = some i →
      ((elem s e).pend.getD i .clear = .write f v →
        ∃ (t : State), exec (.pendingCommandApply e) s = .next t ∧ (elem t e).pend = listDel (elem s e).pend i ∧
          ((f < 0xD1 ∨ 0xE0 ≤ f) → (elem t e).field f = v) ∧ (∀ j, j ≠ f → (elem t e).field j = (elem s e).field j)) ∧
      ((elem s e).pend.getD i .clear = .clear →
        ∃ (t : State), exec (.pendingCommandApply e) s = .next t ∧ (elem t e).pend = listDel (elem s e).pend i ∧
          (∀ j, (elem t e).field j = 0) ∧
          ((elem s e).running k = false → elem t e = { Elem.reset with pend := listDel (elem s e).pend i })))) ∧
  (∀ (s : State) (b : Nat) (p : Nat × Option Nat × Nat), (switch s b).pend.find? (fun x => pendReady s b x && pendTurn (switch s b).pend x) = some p →
    (p.2.1 = none → ∃ (t : State), exec (.pendingSwitchApply b) s = .next t ∧ (switch t b).sources p.1 = [] ∧
      (switch t b).pend = (switch s b).pend.erase p) ∧
    (∀ (src d : Nat) (k : District), p.2.1 = some src → districtAt s b = some d → mget? s.districts d = some k →
      edgeOk (updSwitch s b (fun w => { w with pend := w.pend.erase p })) k b p.1 true = true →
      edgeOk (updSwitch s b (fun w => { w with pend := w.pend.erase p })) k b src false = true →
      ∃ (t : State), exec (.pendingSwitchApply b) s = .next t ∧ src ∈ (switch t b).sources p.1 ∧
        (switch t b).pend = (switch s b).pend.erase p)) ∧
  (∀ (s : State) (b : Nat), (∀ p ∈ (switch s b).pend, pendReady s b p = false ∨ pendTurn (switch s b).pend p = false) → exec (.pendingSwitchApply b) s = .next s) ∧
  (∀ (s : State) (b : Nat), ((switch s b).pend.head?.map Prod.fst) = some clearAll → exec (.pendingSwitchApply b) s = .next s)

/-- 02 R53, R58; 07 R212, R223 to R225, R228; 09 R270, R271; 13 R358; 17 R395, R396.
Where the spec leaves a point open it follows the model's choice: log entries 16, 17, 28, 60, 77, 116, 118. -/
def Obligations.FabricHopsAndCellFirings : Prop :=
  let passes (s : State) (b i : Nat) : Prop := (switch s b).dests i ≠ [] ∧ ∀ d ∈ (switch s b).dests i,
    ((switch s b).held d).length < hopRoom b (switch s b) d ∧
    (((switch s b).sources d).length < 2 ∨ mget? (switch s b).burst d = none ∨ ∃ n, mget? (switch s b).burst d = some (i, n))
  (∀ (s : State) (e p : Nat),
    ((blockGated s (elemBlock e) = true ∨ 2 ≤ (mget (elem s e).outL p []).length ∨ (switch s (elemBlock e)).dests (elemLink e p) = []) →
      exec (.tokenHop 0 e p) s = .next s) ∧
    (blockGated s (elemBlock e) = false → (mget (elem s e).outL p []).length < 2 →
      (switch s (elemBlock e)).dests (elemLink e p) ≠ [] →
      (∀ x rest, p < 4 → mget (elem s e).outB p [] = x :: rest →
        ∃ (t : State), exec (.tokenHop 0 e p) s = .next t ∧ mget (elem t e).outB p [] = rest ∧
          mget (elem t e).outL p [] = mget (elem s e).outL p [] ++ [x]) ∧
      (∀ v i rest, 4 ≤ p → ((elem s e).field (0x78 + (p - 4))).toNat % 4 = 2 → mget (elem s e).ctB (p - 4) [] = (v, i) :: rest →
        ∃ (t : State) (x : Token), exec (.tokenHop 0 e p) s = .next t ∧ mget (elem t e).ctB (p - 4) [] = rest ∧
          mget (elem t e).outL p [] = mget (elem s e).outL p [] ++ [x] ∧ x.pay.toNat = (if v then 1 else 0) ∧ x.inv = i ∧ x.vec = false))) ∧
  (∀ (s : State) (e p b i : Nat) (x : Token) (rest : List Token), b = elemBlock e → i = elemLink e p → idClass i = 3 → idElem b i = e →
    idLink i = p → blockGated s b = false → mget (elem s e).outL p [] = x :: rest → x.both = false → passes s b i →
    ∃ (t : State), exec (.tokenHop 1 e p) s = .next t ∧ mget (elem t e).outL p [] = rest ∧
      ∀ d ∈ (switch s b).dests i, (switch t b).held d = (switch s b).held d ++ [x]) ∧
  (∀ (s : State) (b d : Nat) (x : Token) (rest : List Token), (switch s b).held d = x :: rest →
    (blockGated s b = true → exec (.tokenHop 2 b d) s = .next s) ∧
    (blockGated s b = false →
      (idClass d = 3 → idLink d < 4 →
        ((mget (elem s (idElem b d)).inB (idLink d) []).length < 4 →
          (routeBad (elem s (idElem b d)) (idLink d) x = false →
            ∃ (t : State), exec (.tokenHop 2 b d) s = .next t ∧ (switch t b).held d = rest ∧
              mget (elem t (idElem b d)).inB (idLink d) [] = mget (elem s (idElem b d)).inB (idLink d) [] ++ [{ x with route := [] }]) ∧
          (∀ p w more d' k' i, routeBad (elem s (idElem b d)) (idLink d) x = true → x.route = (p, w) :: more → distOf s p = some (d', k') →
            (elem s p).joined = some i → p ≠ idElem b d →
            ∃ (u : State), exec (.tokenHop 2 b d) s = .next (regionError d' i p false p u) ∧ (switch u b).held d = rest ∧
              u.districts = s.districts)) ∧
        (4 ≤ (mget (elem s (idElem b d)).inB (idLink d) []).length → exec (.tokenHop 2 b d) s = .next s)) ∧
      (idClass d = 3 → 4 ≤ idLink d →
        ((elem s (idElem b d)).field (0x78 + (idLink d - 4)) = 1 → (mget (elem s (idElem b d)).ctB (idLink d - 4) []).length < 2 →
          ∃ (t : State), exec (.tokenHop 2 b d) s = .next t ∧ (switch t b).held d = rest ∧
            mget (elem t (idElem b d)).ctB (idLink d - 4) [] = mget (elem s (idElem b d)).ctB (idLink d - 4) [] ++
              [(x.pay.toNat % 2 == 1, x.inv)]) ∧
        (((elem s (idElem b d)).field (0x78 + (idLink d - 4)) ≠ 1 ∨ 2 ≤ (mget (elem s (idElem b d)).ctB (idLink d - 4) []).length) →
          exec (.tokenHop 2 b d) s = .next s)) ∧
      (∀ nb e l, idClass d ≠ 3 → across b d = some (nb, e, l) → zoneOf s b ≠ zoneOf s nb → exec (.tokenHop 2 b d) s = .next
        (bollard b d nb x (leaveTrack b d x (updSwitch s b (fun w => { w with hop := mset w.hop d rest }))))) ∧
      (∀ nb e l, idClass d ≠ 3 → across b d = some (nb, e, l) → zoneOf s b ≠ zoneOf s nb →
        ∃ (t : State), exec (.tokenHop 2 b d) s = .next t ∧ (switch t b).held d = rest ∧
          mget (quarter t (blockQ b)).bdrop (zoneOf s b) 0 = satInc (mget (quarter s (blockQ b)).bdrop (zoneOf s b) 0)) ∧
      (∀ nb e l i, idClass d ≠ 3 → across b d = some (nb, e, l) → zoneOf s b = zoneOf s nb → i = trackId (idClass d) e (idTrack d) →
        nb ≠ b → sourceHop nb i = some (b, d) → blockGated s nb = false → x.both = false → passes s nb i →
        ∃ (t : State), exec (.tokenHop 2 b d) s = .next t ∧ (switch t b).held d = rest ∧
          ∀ d' ∈ (switch s nb).dests i, ∃ (y : Token), (switch t nb).held d' = (switch s nb).held d' ++ [y] ∧ { y with inv := x.inv } = x))) ∧
  (∀ (s s1 : State) (e d j n : Nat) (k : District) (v : Inv) (x x1 y : Elem) (env : FireEnv) (f : Fire) (regs : List Nat), cellReady s e = some (d, k, v, j) →
    x = { elem s e with lastTick := k.tick } → n = mget x.counts blindKey 0 →
    x1 = { x with parity := (elem s1 e).parity, counts := if (x.inSet j).isEmpty then mset x.counts blindKey (n + 1) else x.counts } →
    regs = laneKeys x j (readRegs x j) ++ (readRegs x j).map (16 * ·) →
    (env, f) = fireStages x1 j v.iter (openCh k v e (j + 16) n) →
    y = rearm j (emitData x1 j (ctxCh x1 j (openCh k v e j n)) env f) →
    (headsOf x (x.inSet j) = .data →
      (roomFor x (x.outSet j) (x.ctoSet j) = false → exec (.vectorCellFiring e) s = .next s) ∧
      (roomFor x (x.outSet j) (x.ctoSet j) = true →
        (∀ c, burstBad x (x.inSet j) = some c → exec (.vectorCellFiring e) s = .next (elemFault d v e c (cellTval e j 0) s)) ∧
        (burstBad x (x.inSet j) = none →
          (∃ r ∈ regs, mget? x.parity r = some true ∨ (mget? x.parity r ≠ none ∧ ∀ l ∈ x.replay, r ∉ l)) →
          exec (.vectorCellFiring e) s = .next (regionError d v.id e false (cellTval e j 0) s)) ∧
        ((∀ r ∈ regs, mget? x.parity r = none ∨ (mget? x.parity r = some false ∧ ∃ l ∈ x.replay, r ∈ l)) →
          ∃ (u : State), cellParity d e j s = some u ∧ ∀ r, mget? (elem u e).parity r = if r ∈ regs then none else mget? x.parity r) ∧
        (burstBad x (x.inSet j) = none → cellParity d e j s = some s1 →
          (f.stop = none → f.brk = [] → ∃ (t : State), exec (.vectorCellFiring e) s = .next t ∧
            elem t e = { (x1.replayed j 6 y).countCtx j 0 with late := [] }) ∧
          (∀ st more, f.stop = none → f.brk = st :: more → ∃ (u : State),
            exec (.vectorCellFiring e) s = .next (cellBreak d e j st v u) ∧
            elem u e = { (x1.replayed j 6 y).countCtx j 0 with late := more.map (fun m => (j, m, 0x193)) }) ∧
          (∀ st c, f.stop = some (st, c) → f.brk = [] → c ≠ 0x193 → ∃ (u : State),
            exec (.vectorCellFiring e) s = .next (elemFault d v e c (cellTval e j st) u) ∧ elem u e = { (x1.replayed j st f.x).countCtx j 0 with late := [] }) ∧
          (∀ st c b more, f.stop = some (st, c) → f.brk = b :: more → ∃ (u : State),
            exec (.vectorCellFiring e) s = .next (cellBreak d e j b v u) ∧
            elem u e = { (x1.replayed j st f.x).countCtx j 0 with late := more.map (fun m => (j, m, 0x193)) ++ [(j, st, c)] })))) ∧
    (headsOf x (x.inSet j) ≠ .data → exec (.vectorCellFiring e) s = .next s) ∧
    ((headsOf x (x.inSet j) = .wait ∨ headsOf x (x.inSet j) = .data) → exec (.structuralEmission e) s = .next s) ∧
    (∀ c, headsOf x (x.inSet j) = .bad c → exec (.structuralEmission e) s = .next (elemFault d v e c (cellTval e j 0) s)) ∧
    (∀ i h, headsOf x (x.inSet j) = .one i → x.head i = some h →
      (∀ c, burstBad x [i] = some c → exec (.structuralEmission e) s = .next (elemFault d v e c (cellTval e j 0) s)) ∧
      (burstBad x [i] = none →
        (roomFor x (x.outSet j) (x.ctoSet j) = false → exec (.structuralEmission e) s = .next s) ∧
        (roomFor x (x.outSet j) (x.ctoSet j) = true → ∃ (t : State), exec (.structuralEmission e) s = .next t ∧
          mget (elem t e).inB i [] = (mget x.inB i []).drop 1 ∧
          (i ≠ 0 → ∀ p, mget (elem t e).outB p [] = mget x.outB p []) ∧
          (i = 0 → ∀ p ∈ x.outSet j, ∃ (z : Token), mget (elem t e).outB p [] = mget x.outB p [] ++ [z] ∧
            (h.kind = 10 → z.kind = 10 ∧ z.val = h.val) ∧
            (h.kind ≠ 10 → z.kind = 11 ∧ z.val.toNat = if linkBurst (x.inWord 0) then mget x.burstOut p 0 % 2 ^ 32 else h.val.toNat))))) ∧
    (∀ l, headsOf x (x.inSet j) = .stop l →
      (∀ c, burstBad x (x.inSet j) = some c → exec (.structuralEmission e) s = .next (elemFault d v e c (cellTval e j 0) s)) ∧
      (burstBad x (x.inSet j) = none →
        (roomFor x (x.outSet j) (x.ctoSet j) = false → exec (.structuralEmission e) s = .next s) ∧
        (roomFor x (x.outSet j) (x.ctoSet j) = true →
          ∃ (t : State), exec (.structuralEmission e) s = .next t ∧
            (∀ p ∈ x.outSet j, ∃ (z : Token), mget (elem t e).outB p [] = mget x.outB p [] ++ [z] ∧ z.kind = l + 1) ∧
            (∀ p ∈ x.inSet j, mget (elem t e).inB p [] = (mget x.inB p []).drop 1)))) ∧
    (∀ c, headsOf x (x.inSet j) = .done → burstBad x (x.inSet j) = some c →
      exec (.structuralEmission e) s = .next (elemFault d v e c (cellTval e j 0) s)) ∧
    (headsOf x (x.inSet j) = .done → burstBad x (x.inSet j) = none →
      ((roomFor x (x.outSet j) (x.ctoSet j) = false ∨ (doneOuts x j).all x.room = false) →
        exec (.structuralEmission e) s = .next s) ∧
      (roomFor x (x.outSet j) (x.ctoSet j) = true → (doneOuts x j).all x.room = true →
        ∃ (t : State), exec (.structuralEmission e) s = .next t ∧
          elem t e = finishCtx j (lowestTd x (x.inSet j)) (emitDone (doneOuts x j) (markCh x j) (lowestTd x (x.inSet j))
            ((x.inSet j).foldl takeBurst x))))) ∧
  (∀ (s : State) (e d j st : Nat) (k : District) (v : Inv) (c : BitVec 10) (rest : List (Nat × Nat × BitVec 10)),
    active s e = some (d, k, v) → elemKind e = .vector → (elem s e).late = (j, st, c) :: rest →
    (c = 0x193 → exec (.vectorCellFiring e) s = .next (cellBreak d e j st v (updElem s e (fun x => { x with late := rest })))) ∧
    (c ≠ 0x193 → exec (.vectorCellFiring e) s =
      .next (elemFault d v e c (cellTval e j st) (updElem s e (fun x => { x with late := rest })))) ∧
    exec (.structuralEmission e) s = .next s) ∧
  (∀ (s : State) (e d j : Nat) (k : District) (v : Inv) (b : Bool) (rest : List (Bool × Nat)), active s e = some (d, k, v) →
    (elem s e).branch = some j →
    (mget (elem s e).ctB ((elem s e).ctin j) [] = (b, v.id) :: rest →
      (mget (elem s e).counts (ctDropKey ((elem s e).ctin j)) 0 = 0 →
        ∃ (t : State), exec (.controlTokenTake e) s = .next t ∧ (elem t e).branch = none ∧
          (elem t e).armed = some (if b then (elem s e).next1 j else (elem s e).next0 j) ∧
          mget (elem t e).ctB ((elem s e).ctin j) [] = rest) ∧
      (mget (elem s e).counts (ctDropKey ((elem s e).ctin j)) 0 ≠ 0 →
        ∃ (t : State), exec (.controlTokenTake e) s = .next t ∧ (elem t e).branch = some j ∧
          mget (elem t e).ctB ((elem s e).ctin j) [] = rest ∧
          mget (elem t e).counts (ctDropKey ((elem s e).ctin j)) 0 + 1 = mget (elem s e).counts (ctDropKey ((elem s e).ctin j)) 0)) ∧
    (mget (elem s e).ctB ((elem s e).ctin j) [] = [] → exec (.controlTokenTake e) s = .next s) ∧
    (∀ (ins outs : List Nat), ins = ports.filter (fun p => ((elem s e).inSet ((elem s e).next0 j)).contains p ||
        ((elem s e).inSet ((elem s e).next1 j)).contains p) →
      outs = ports.filter (fun p => (elem s e).actCtx.any (fun i => ((elem s e).outSet i).contains p) && !(elem s e).doneOut.contains p) →
      (ins ≠ [] → (∀ p ∈ ins, ∃ (y : Token), (elem s e).head p = some y ∧ y.kind = 8) → outs.all (elem s e).room = true →
        ∃ (t : State), exec (.branchCellFinish e) s = .next t ∧ (elem t e).fin = true ∧
          ∀ p ∈ outs, ∃ (y : Token), mget (elem t e).outB p [] = mget (elem s e).outB p [] ++ [y] ∧ y.kind = 8) ∧
      ((ins = [] ∨ (∃ p ∈ ins, ∀ y, (elem s e).head p = some y → y.kind ≠ 8) ∨ outs.all (elem s e).room = false) →
        exec (.branchCellFinish e) s = .next s))) ∧
  (∀ (s : State) (e : Nat), (active s e = none ∨ (elem s e).branch = none) →
    exec (.controlTokenTake e) s = .next s ∧ exec (.branchCellFinish e) s = .next s)

/-- 08 R231 to R252.
Where the spec leaves a point open it follows the model's choice: log entries 18, 21, 28, 73, 74, 129. -/
def Obligations.StreamUnitSteps : Prop :=
  let live (s : State) (e : Nat) (kd : Kind) (d : Nat) (k : District) (v : Inv) : Prop :=
    elemKind e = kd ∧ active s e = some (d, k, v) ∧ mileDue s k v e = false
  let ready (s : State) (e : Nat) (kd : Kind) (d : Nat) (k : District) (v : Inv) : Prop :=
    live s e kd d k v ∧ markHead (elem s e) (unitPorts kd (elem s e)).1 = none
  let gave (s t : State) (e p kind ch : Nat) (v : W32) : Prop :=
    ∃ (y : Token), mget (elem t e).outB p [] = mget (elem s e).outB p [] ++ [y] ∧ y.kind = kind ∧ y.ch = ch ∧ y.val = v ∧
      some y.inv = (elem s e).joined
  let gaveData (s t : State) (e p ch : Nat) (w : LaneVal) : Prop :=
    ∃ (y : Token), mget (elem t e).outB p [] = mget (elem s e).outB p [] ++ [y] ∧ y.kind = 0 ∧ y.ch = ch ∧ y.val = w.v ∧ y.pois = w.p
  let took (s t : State) (e p : Nat) : Prop := mget (elem t e).inB p [] = (mget (elem s e).inB p []).drop 1
  (∀ (s : State) (e d : Nat) (k : District) (v : Inv) (c : BitVec 10) (kd : Kind), live s e kd d k v →
    markHead (elem s e) (unitPorts kd (elem s e)).1 = some c → ∀ i,
    (i = .scannerStep e ∧ kd = .scanner ∨ i = .mergeIntersectStep e ∧ kd = .merge ∧ (elem s e).mbits 31 30 = 0 ∨
      i = .mergeUnionStep e ∧ kd = .merge ∧ (elem s e).mbits 31 30 = 1 ∨
      i = .repeaterRefStep e ∧ kd = .repeater ∧ (elem s e).mbit 31 = false ∨
      i = .repeaterFibreLoad e ∧ kd = .repeater ∧ (elem s e).mbit 31 = true ∨
      i = .repeaterFibreReplay e ∧ kd = .repeater ∧ (elem s e).mbit 31 = true ∨
      i = .reducerStep e ∧ kd = .reducer ∨ i = .levelWriterStep e ∧ kd = .writer) →
    exec i s = .next (elemFault d v e c e s)) ∧
  ∀ (s : State) (e d : Nat) (k : District) (v : Inv) (a b : Token) (x : Elem), x = elem s e →
    (ready s e .scanner d k v → x.mbit 15 = false → x.unit.fib = none → x.uhead 0 = some a →
      (a.kind = 0 → a.pois = true → exec (.scannerStep e) s = .next (elemFault d v e 0x109 e s)) ∧
      (a.kind = 0 → a.pois = false → x.unit.open_ = false → x.room 0 = true → (x.mbit 14 = true → x.room 1 = true) →
        (scanLevelOf v k.asid.toNat x).lvf = 0 → 1 < (scanLevelOf v k.asid.toNat x).n →
        ∃ (t : State), exec (.scannerStep e) s = .next t ∧ gave s t e 0 0 a.ch 0 ∧
          (x.mbit 14 = true → gave s t e 1 0 a.ch (BitVec.ofNat 32 (a.val.toNat * (scanLevelOf v k.asid.toNat x).n))) ∧
          (elem t e).unit.fib = some (a.val.toNat, 1, (scanLevelOf v k.asid.toNat x).n)) ∧
      (a.kind = 7 → exec (.scannerStep e) s = .next (elemFault d v e 0x1A3 e s)) ∧
      (1 ≤ a.kind → a.kind ≤ 6 → x.room 0 = true → (x.mbit 14 = true → x.room 1 = true) →
        ∃ (t : State), exec (.scannerStep e) s = .next t ∧ gave s t e 0 (a.kind + 1) a.ch 0 ∧
          (x.mbit 14 = true → gave s t e 1 (a.kind + 1) a.ch 0) ∧ took s t e 0 ∧ (elem t e).unit.open_ = false ∧
          (elem t e).unit.seqOut = (x.unit.seqOut + 1) % 2 ^ 16) ∧
      (a.kind = 8 → x.room 0 = true → (x.mbit 14 = true → x.room 1 = true) →
        ∃ (t : State), exec (.scannerStep e) s = .next t ∧ (elem t e).fin = true ∧ took s t e 0 ∧
          gave s t e 0 8 a.ch (if a.td then 1 else 0) ∧ (x.mbit 14 = true → gave s t e 1 8 a.ch (if a.td then 1 else 0)))) ∧
    (∀ p pos fin, ready s e .scanner d k v → x.mbit 15 = false → x.unit.fib = some (p, pos, fin) →
      (scanLevelOf v k.asid.toNat x).lvf = 0 → pos + 1 < fin → x.room 0 = true → (x.mbit 14 = true → x.room 1 = true) →
      ∃ (t : State) (ch : Nat), exec (.scannerStep e) s = .next t ∧ gave s t e 0 0 ch (BitVec.ofNat 32 pos) ∧
        (∀ h, x.head 0 = some h → ch = h.ch) ∧ (elem t e).unit.fib = some (p, pos + 1, fin)) ∧
    (ready s e .scanner d k v → x.mbit 15 = true → x.unit.fib = none → x.room 0 = true → (x.mbit 14 = true → x.room 1 = true) →
      (∀ (L : Level), L = scanLevelOf v k.asid.toNat x → x.unit.open_ = false → L.lvf = 0 → 1 < L.n →
        ∃ (t : State), exec (.scannerStep e) s = .next t ∧ gave s t e 0 0 (openCh k v e 40 0) 0 ∧
          (elem t e).unit.fib = some ((x.field 0xC0).toNat, 1, L.n)) ∧
      (x.unit.open_ = true → x.unit.stop0 = false →
        ∃ (t : State), exec (.scannerStep e) s = .next t ∧ gave s t e 0 1 (openCh k v e 40 0) 0 ∧
          (x.mbit 14 = true → gave s t e 1 1 (openCh k v e 40 0) 0) ∧ (elem t e).unit.stop0 = true) ∧
      (x.unit.open_ = true → x.unit.stop0 = true →
        ∃ (t : State), exec (.scannerStep e) s = .next t ∧ gave s t e 0 8 (openCh k v e 40 0) (if v.tdown then 1 else 0) ∧
          (x.mbit 14 = true → gave s t e 1 8 (openCh k v e 40 0) (if v.tdown then 1 else 0)) ∧ (elem t e).fin = true)) ∧
    (∀ (L : Level) (p pos fin c m a0 b0 : Nat) (s1 s2 s3 : State), L = scanLevelOf v k.asid.toNat x →
      ready s e .scanner d k v → x.mbit 15 = false → x.room 0 = true → (x.mbit 14 = true → x.room 1 = true) →
      (x.unit.fib = some (p, pos, fin) → L.lvf = 1 → scanNeed k e true (wordVa L.crd pos) s = (.ok c, s1) →
        (L.n ≤ c → exec (.scannerStep e) s = .next (elemFault d v e 0x1A2 e s1)) ∧
        (∀ q, c < L.n → x.unit.prev = some q → c ≤ q → exec (.scannerStep e) s = .next (elemFault d v e 0x1A4 e s1)) ∧
        (c < L.n → (∀ q, x.unit.prev = some q → q < c) → pos + 1 < fin →
          ∃ (t : State) (ch : Nat), exec (.scannerStep e) s = .next t ∧ gave s t e 0 0 ch (BitVec.ofNat 32 c) ∧
            (x.mbit 14 = true → gave s t e 1 0 ch (BitVec.ofNat 32 pos)) ∧ (elem t e).unit.fib = some (p, pos + 1, fin) ∧
            (elem t e).unit.prev = some c) ∧
        (c < L.n → (∀ q, x.unit.prev = some q → q < c) → fin ≤ pos + 1 →
          ∃ (t : State) (ch : Nat), exec (.scannerStep e) s = .next t ∧ gave s t e 0 0 ch (BitVec.ofNat 32 c) ∧ took s t e 0 ∧
            (elem t e).unit.fib = none ∧ (elem t e).unit.prev = none ∧ (elem t e).unit.open_ = true)) ∧
      (x.unit.fib = some (p, pos, fin) → L.lvf = 1 → scanWord k e true (wordVa L.crd pos) s = (.ok (c, true), s1) →
        exec (.scannerStep e) s = .next (elemFault d v e 0x109 e s1)) ∧
      (x.unit.fib = some (p, pos, fin) → L.lvf = 2 → m = x.unit.ones → fibrePos k e L p s = (.ok (a0, b0), s1) →
        (∀ q, nextBit k e L p (L.n + 1) (pos + 1) s1 = (.ok (some q), s2) →
          ∃ (t : State) (ch : Nat), exec (.scannerStep e) s = .next t ∧ gave s t e 0 0 ch (BitVec.ofNat 32 pos) ∧
            (x.mbit 14 = true → gave s t e 1 0 ch (BitVec.ofNat 32 (a0 + m))) ∧ (elem t e).unit.fib = some (p, q, fin) ∧
            (elem t e).unit.ones = m + 1) ∧
        (∀ a1 b1, nextBit k e L p (L.n + 1) (pos + 1) s1 = (.ok none, s2) → fibrePos k e L p s2 = (.ok (a1, b1), s3) →
          (m + 1 = b1 - a1 → ∃ (t : State) (ch : Nat), exec (.scannerStep e) s = .next t ∧ gave s t e 0 0 ch (BitVec.ofNat 32 pos) ∧
            took s t e 0 ∧ (elem t e).unit.fib = none ∧ (elem t e).unit.open_ = true) ∧
          (m + 1 ≠ b1 - a1 → exec (.scannerStep e) s = .next (elemFault d v e 0x1A2 e s3)))) ∧
      (x.unit.fib = some (p, pos, fin) → L.lvf = 3 → max pos L.lo < L.hi →
        ∃ (t : State) (ch : Nat), exec (.scannerStep e) s = .next t ∧ gave s t e 0 0 ch (BitVec.ofNat 32 (max pos L.lo)) ∧
          (x.mbit 14 = true → gave s t e 1 0 ch (BitVec.ofNat 32 (p * (L.hi - L.lo) + (max pos L.lo - L.lo)))) ∧
          (max pos L.lo + 1 < L.hi → (elem t e).unit.fib = some (p, max pos L.lo + 1, L.hi)) ∧
          (L.hi ≤ max pos L.lo + 1 → (elem t e).unit.fib = none ∧ took s t e 0)) ∧
      (x.unit.fib = none → x.uhead 0 = some a → a.kind = 0 → a.pois = false → L.lvf = 1 →
        fibrePos k e L a.val.toNat s = (.ok (a0, b0), s1) →
        (a0 < b0 → x.unit.open_ = true →
          ∃ (t : State), exec (.scannerStep e) s = .next t ∧ gave s t e 0 1 a.ch 0 ∧ (x.mbit 14 = true → gave s t e 1 1 a.ch 0) ∧
            (elem t e).unit.fib = some (a.val.toNat, a0, b0) ∧ (elem t e).inB = x.inB) ∧
        (b0 ≤ a0 → x.unit.open_ = false →
          ∃ (t : State), exec (.scannerStep e) s = .next t ∧ took s t e 0 ∧ (elem t e).outB = x.outB ∧ (elem t e).unit.open_ = true) ∧
        (a0 < b0 → x.unit.open_ = false → scanNeed k e true (wordVa L.crd a0) s1 = (.ok c, s2) → c < L.n → x.unit.prev = none →
          a0 + 1 < b0 →
          ∃ (t : State), exec (.scannerStep e) s = .next t ∧ gave s t e 0 0 a.ch (BitVec.ofNat 32 c) ∧
            (elem t e).unit.fib = some (a.val.toNat, a0 + 1, b0))) ∧
      (x.unit.fib = none → x.uhead 0 = some a → a.kind = 0 → a.pois = false → L.lvf = 3 → x.unit.open_ = false →
        (L.lo + 1 < L.hi →
          ∃ (t : State), exec (.scannerStep e) s = .next t ∧ gave s t e 0 0 a.ch (BitVec.ofNat 32 L.lo) ∧
            (elem t e).unit.fib = some (a.val.toNat, L.lo + 1, L.hi)) ∧
        (L.hi ≤ L.lo →
          ∃ (t : State), exec (.scannerStep e) s = .next t ∧ took s t e 0 ∧ (elem t e).outB = x.outB ∧
            (elem t e).unit.open_ = true)) ∧
      (x.unit.fib = none → x.uhead 0 = some a → a.kind = 0 → a.pois = false → (L.lvf = 1 ∨ L.lvf = 2) →
        fibrePos k e L a.val.toNat s = (.fault 0x1A2, s1) →
        exec (.scannerStep e) s = .next (elemFault d v e 0x1A2 e s1))) ∧
    (∀ (pa pb : Token), ready s e .merge d k v → x.mbit 27 = true → x.uhead 0 = some a → x.uhead 1 = some b → a.kind = 0 → b.kind = 0 →
      a.pois = false → b.pois = false → x.unit.last0 = none → x.unit.last1 = none → x.uhead 2 = some pa → x.uhead 3 = some pb →
      (x.mbits 31 30 = 0 → a.val = b.val → (pa.kind ≠ 0 ∨ pb.kind ≠ 0) →
        exec (.mergeIntersectStep e) s = .next (elemFault d v e 0x1A3 e s)) ∧
      (x.mbits 31 30 = 1 → a.val.toNat < b.val.toNat → pa.kind ≠ 0 → exec (.mergeUnionStep e) s = .next (elemFault d v e 0x1A3 e s)) ∧
      (pa.kind = 0 → pb.kind = 0 → x.room 0 = true → x.room 1 = true → x.room 2 = true → (x.mbit 26 = true → x.room 3 = true) →
        (x.mbits 31 30 = 0 → a.val = b.val →
          ∃ (t : State), exec (.mergeIntersectStep e) s = .next t ∧ gave s t e 0 0 a.ch a.val ∧ gaveData s t e 1 a.ch ⟨pa.val, pa.pois⟩ ∧
            gaveData s t e 2 a.ch ⟨pb.val, pb.pois⟩ ∧ took s t e 0 ∧ took s t e 1 ∧ took s t e 2 ∧ took s t e 3) ∧
        (x.mbits 31 30 = 1 → a.val.toNat < b.val.toNat →
          ∃ (t : State), exec (.mergeUnionStep e) s = .next t ∧ gave s t e 0 0 a.ch a.val ∧ gaveData s t e 1 a.ch ⟨pa.val, pa.pois⟩ ∧
            gaveData s t e 2 a.ch ⟨x.field 0xC0, false⟩ ∧ (x.mbit 26 = true → gave s t e 3 0 a.ch 1) ∧ took s t e 0 ∧ took s t e 2 ∧
            mget (elem t e).inB 1 [] = mget x.inB 1 [] ∧ mget (elem t e).inB 3 [] = mget x.inB 3 []) ∧
        (x.mbits 31 30 = 1 → b.val.toNat < a.val.toNat →
          ∃ (t : State), exec (.mergeUnionStep e) s = .next t ∧ gave s t e 0 0 b.ch b.val ∧ gaveData s t e 1 b.ch ⟨x.field 0xC0, false⟩ ∧
            gaveData s t e 2 b.ch ⟨pb.val, pb.pois⟩ ∧ (x.mbit 26 = true → gave s t e 3 0 b.ch 2) ∧ took s t e 1 ∧ took s t e 3 ∧
            mget (elem t e).inB 0 [] = mget x.inB 0 [] ∧ mget (elem t e).inB 2 [] = mget x.inB 2 []) ∧
        (x.mbits 31 30 = 1 → a.val = b.val →
          ∃ (t : State), exec (.mergeUnionStep e) s = .next t ∧ gave s t e 0 0 a.ch a.val ∧ gaveData s t e 1 a.ch ⟨pa.val, pa.pois⟩ ∧
            gaveData s t e 2 a.ch ⟨pb.val, pb.pois⟩ ∧ (x.mbit 26 = true → gave s t e 3 0 a.ch 3) ∧ took s t e 0 ∧ took s t e 1 ∧
            took s t e 2 ∧ took s t e 3))) ∧
    (ready s e .reducer d k v → x.mbit 23 = true → x.room 0 = true → x.room 1 = true →
      (∀ w, x.unit.pendStop = none → x.uhead 0 = some a → a.kind = x.mbits 31 29 + 1 → a.kind < 8 → x.uhead 1 = some b →
        (b.kind ≠ 0 → exec (.reducerStep e) s = .next (elemFault d v e 0x1A3 e s)) ∧
        (b.kind = 0 → x.unit.acc = some w →
          ∃ (t : State), exec (.reducerStep e) s = .next t ∧ gaveData s t e 0 a.ch w ∧ gaveData s t e 1 a.ch ⟨b.val, b.pois⟩ ∧
            took s t e 0 ∧ took s t e 1 ∧ (elem t e).unit.acc = none) ∧
        (b.kind = 0 → x.unit.acc = none → x.mbit 24 = true →
          ∃ (t : State), exec (.reducerStep e) s = .next t ∧ gave s t e 0 0 a.ch 0 ∧ gaveData s t e 1 a.ch ⟨b.val, b.pois⟩ ∧
            took s t e 0 ∧ took s t e 1) ∧
        (b.kind = 0 → x.unit.acc = none → x.mbit 24 = false →
          ∃ (t : State), exec (.reducerStep e) s = .next t ∧ (elem t e).outB = x.outB ∧ took s t e 0 ∧ took s t e 1)) ∧
      (∀ m, x.unit.pendStop = some m → x.uhead 1 = some b →
        (b.kind = m + 1 → ∃ (t : State), exec (.reducerStep e) s = .next t ∧ gave s t e 0 (m + 1) x.unit.ch 0 ∧
          gave s t e 1 (m + 1) x.unit.ch 0 ∧ took s t e 1 ∧ (elem t e).unit.pendStop = none ∧
          mget (elem t e).inB 0 [] = mget x.inB 0 []) ∧
        (b.kind ≠ m + 1 → exec (.reducerStep e) s = .next (elemFault d v e 0x1A3 e s))) ∧
      (x.unit.pendStop = none → x.unit.folded = false → x.uhead 0 = some a → a.kind = 8 → x.uhead 1 = some b →
        (b.kind = 8 → ∃ (t : State), exec (.reducerStep e) s = .next t ∧ (elem t e).fin = true ∧ took s t e 0 ∧ took s t e 1 ∧
          gave s t e 0 8 a.ch (if a.td then 1 else 0) ∧ gave s t e 1 8 a.ch (if a.td then 1 else 0)) ∧
        (b.kind ≠ 8 → exec (.reducerStep e) s = .next (elemFault d v e 0x1A3 e s)))) ∧
    (ready s e .merge d k v → x.mbit 27 = false → x.mbit 26 = false → x.uhead 0 = some a → x.uhead 1 = some b →
      (((a.kind = 0 ∧ a.pois = true) ∨ (b.kind = 0 ∧ b.pois = true)) →
        (x.mbits 31 30 = 0 → exec (.mergeIntersectStep e) s = .next (elemFault d v e 0x109 e s)) ∧
        (x.mbits 31 30 = 1 → exec (.mergeUnionStep e) s = .next (elemFault d v e 0x109 e s))) ∧
      (a.kind = 0 → b.kind = 0 → a.pois = false → b.pois = false → x.unit.last0 = none → x.unit.last1 = none → x.room 0 = true →
        (x.mbits 31 30 = 0 → a.val = b.val →
          ∃ (t : State), exec (.mergeIntersectStep e) s = .next t ∧ gave s t e 0 0 a.ch a.val ∧ took s t e 0 ∧ took s t e 1) ∧
        (x.mbits 31 30 = 1 → a.val.toNat < b.val.toNat →
          ∃ (t : State), exec (.mergeUnionStep e) s = .next t ∧ gave s t e 0 0 a.ch a.val ∧ took s t e 0 ∧
            mget (elem t e).inB 1 [] = mget x.inB 1 []) ∧
        (x.mbits 31 30 = 1 → b.val.toNat < a.val.toNat →
          ∃ (t : State), exec (.mergeUnionStep e) s = .next t ∧ gave s t e 0 0 b.ch b.val ∧ took s t e 1 ∧
            mget (elem t e).inB 0 [] = mget x.inB 0 []) ∧
        (x.mbits 31 30 = 1 → a.val = b.val →
          ∃ (t : State), exec (.mergeUnionStep e) s = .next t ∧ gave s t e 0 0 a.ch a.val ∧ took s t e 0 ∧ took s t e 1)) ∧
      (a.kind = 0 → b.kind = 0 → a.pois = false → b.pois = false → x.mbits 31 30 = 0 → a.val.toNat < b.val.toNat → x.unit.last0 = none →
        (x.mbit 29 = false →
          ∃ (t : State), exec (.mergeIntersectStep e) s = .next t ∧ took s t e 0 ∧ (elem t e).outB = x.outB ∧
            mget (elem t e).inB 1 [] = mget x.inB 1 []) ∧
        (∀ f, x.mbit 29 = true → skipSource s e 0 = some f → f ≠ e →
          ∃ (t : State), exec (.mergeIntersectStep e) s = .next t ∧ took s t e 0 ∧ (elem t e).outB = x.outB ∧
            (elem t f).unit.skips = (elem s f).unit.skips ++ [(b.val.toNat, x.unit.seq0, a.home)])) ∧
      (a.kind = b.kind → 1 ≤ a.kind → a.kind ≤ 7 → x.room 0 = true →
        (x.mbits 31 30 = 0 → ∃ (t : State), exec (.mergeIntersectStep e) s = .next t ∧ gave s t e 0 a.kind a.ch 0 ∧ took s t e 0 ∧
          took s t e 1 ∧ (elem t e).unit.last0 = none ∧ (elem t e).unit.last1 = none) ∧
        (x.mbits 31 30 = 1 → ∃ (t : State), exec (.mergeUnionStep e) s = .next t ∧ gave s t e 0 a.kind a.ch 0 ∧ took s t e 0 ∧
          took s t e 1 ∧ (elem t e).unit.last0 = none ∧ (elem t e).unit.last1 = none)) ∧
      (a.kind = 8 → b.kind = 8 → x.room 0 = true →
        (x.mbits 31 30 = 0 → ∃ (t : State), exec (.mergeIntersectStep e) s = .next t ∧ gave s t e 0 8 a.ch (if a.td then 1 else 0) ∧
          (elem t e).fin = true) ∧
        (x.mbits 31 30 = 1 → ∃ (t : State), exec (.mergeUnionStep e) s = .next t ∧ gave s t e 0 8 a.ch (if a.td then 1 else 0) ∧
          (elem t e).fin = true)) ∧
      (a.kind ≠ b.kind → a.kind ≠ 0 → b.kind ≠ 0 →
        (x.mbits 31 30 = 0 → exec (.mergeIntersectStep e) s = .next (elemFault d v e 0x1A3 e s)) ∧
        (x.mbits 31 30 = 1 → exec (.mergeUnionStep e) s = .next (elemFault d v e 0x1A3 e s)))) ∧
    (ready s e .repeater d k v →
      (x.mbit 31 = false → x.uhead 0 = some a → x.uhead 1 = some b → a.kind = 0 → b.kind = 0 → x.room 0 = true →
        ∃ (t : State), exec (.repeaterRefStep e) s = .next t ∧ gave s t e 0 0 a.ch a.val ∧ took s t e 1 ∧
          mget (elem t e).inB 0 [] = mget x.inB 0 []) ∧
      (x.mbit 31 = false → x.uhead 0 = some a → 1 ≤ a.kind → a.kind ≤ 7 →
        ∃ (t : State), exec (.repeaterRefStep e) s = .next t ∧ took s t e 0 ∧ (elem t e).outB = x.outB) ∧
      (x.mbit 31 = false → x.uhead 0 = some a → x.uhead 1 = some b → a.kind = 0 → 1 ≤ b.kind → b.kind ≤ 7 → x.room 0 = true →
        ∃ (t : State) (ch : Nat), exec (.repeaterRefStep e) s = .next t ∧ gave s t e 0 b.kind ch 0 ∧ took s t e 1 ∧
          (b.kind - 1 < x.mbits 30 28 → mget (elem t e).inB 0 [] = mget x.inB 0 []) ∧
          (x.mbits 30 28 ≤ b.kind - 1 → took s t e 0)) ∧
      (x.mbit 31 = true → x.mbit 27 = false → x.unit.loaded = false → x.unit.stop0 = false → x.uhead 0 = some a → a.kind = 0 →
        a.pois = false → x.unit.buf.length < 4096 → x.unit.prev = none →
        ∃ (t : State), exec (.repeaterFibreLoad e) s = .next t ∧ took s t e 0 ∧
          (elem t e).unit.buf = x.unit.buf ++ [(⟨a.val, false⟩, .zero)]) ∧
      (x.mbit 31 = true → x.unit.loaded = false → x.uhead 0 = some a → a.kind = 0 → a.pois = true →
        exec (.repeaterFibreLoad e) s = .next (elemFault d v e 0x109 e s)) ∧
      (∀ c0 c1 more, x.mbit 31 = true → x.mbit 27 = false → x.unit.loaded = true → x.unit.fib = none → x.unit.open_ = false →
        x.uhead 1 = some b → b.kind = 0 → x.room 0 = true → x.unit.buf = c0 :: c1 :: more →
        ∃ (t : State), exec (.repeaterFibreReplay e) s = .next t ∧ gave s t e 0 0 b.ch c0.1.v ∧
          (elem t e).unit.fib = some (0, 1, x.unit.buf.length))) ∧
    (ready s e .reducer d k v → x.unit.pendStop = none → x.mbit 23 = false → x.uhead 0 = some a →
      (a.kind = 0 → ∃ (t : State), exec (.reducerStep e) s = .next t ∧ took s t e 0 ∧ (elem t e).outB = x.outB ∧
        (elem t e).unit.acc = some (foldIn (x.mbits 28 27) (x.mbits 26 25) x.unit.acc ⟨a.val, a.pois⟩)) ∧
      (∀ w, a.kind = x.mbits 31 29 + 1 → a.kind < 8 → x.unit.acc = some w → x.room 0 = true →
        ∃ (t : State), exec (.reducerStep e) s = .next t ∧ took s t e 0 ∧ gave s t e 0 0 a.ch w.v ∧ (elem t e).unit.acc = none) ∧
      (a.kind = 8 → x.unit.folded = true → exec (.reducerStep e) s = .next (elemFault d v e 0x1A3 e s)) ∧
      (a.kind = 8 → x.unit.folded = false → x.room 0 = true →
        ∃ (t : State), exec (.reducerStep e) s = .next t ∧ took s t e 0 ∧ gave s t e 0 8 a.ch (if a.td then 1 else 0) ∧
          (elem t e).fin = true)) ∧
    (∀ (m : Nat), ready s e .reducer d k v → x.unit.pendStop = some m → x.mbit 23 = false → x.room 0 = true →
      ∃ (t : State), exec (.reducerStep e) s = .next t ∧ gave s t e 0 (m + 1) x.unit.ch 0 ∧ (elem t e).unit.pendStop = none ∧
        (elem t e).inB = x.inB) ∧
    (∀ (s1 : State) (g : LwCfg), ready s e .writer d k v → g = lwCfg v k.asid.toNat x →
      (x.unit.loaded = false → g.L.lvf ≠ 0 → gwStores d v x.mile [(wordVa g.L.pos 0, toBytes 4 0, false)] s = (.ok (), s1) →
        ∃ (t : State), exec (.levelWriterStep e) s = .next t ∧ (elem t e).unit.loaded = true ∧ (elem t e).inB = x.inB ∧ t.dev = s1.dev) ∧
      (x.unit.loaded = true → x.uhead 0 = some a → a.kind = 0 →
        (a.pois = true → exec (.levelWriterStep e) s = .next (elemFault d v e 0x109 e s)) ∧
        (a.pois = false → g.vals = false →
          (g.L.n ≤ a.val.toNat → exec (.levelWriterStep e) s = .next (elemFault d v e 0x1A2 e s)) ∧
          (∀ q, a.val.toNat < g.L.n → x.unit.prev = some q → a.val.toNat ≤ q →
            exec (.levelWriterStep e) s = .next (elemFault d v e 0x1A4 e s)) ∧
          (a.val.toNat < g.L.n → (∀ q, x.unit.prev = some q → q < a.val.toNat) → g.L.lvf = 1 → (g.cap = 0 ∨ x.unit.n + 1 ≤ g.cap) →
            gwStores d v x.mile [(wordVa g.L.crd x.unit.n, toBytes 4 a.val.toNat, false)] s = (.ok (), s1) →
            ∃ (t : State), exec (.levelWriterStep e) s = .next t ∧ took s t e 0 ∧ (elem t e).unit.n = x.unit.n + 1 ∧
              (elem t e).unit.prev = some a.val.toNat ∧ t.dev = s1.dev) ∧
          (a.val.toNat < g.L.n → (∀ q, x.unit.prev = some q → q < a.val.toNat) → g.L.lvf ≠ 0 → g.cap ≠ 0 → g.cap < x.unit.n + 1 →
            exec (.levelWriterStep e) s = .next (elemFault d v e 0x1A5 e s)))) ∧
      (x.unit.loaded = true → g.vals = false → x.uhead 0 = some a → 1 ≤ a.kind → a.kind ≤ 7 → g.L.lvf = 1 →
        gwStores d v x.mile [(wordVa g.L.pos (x.unit.p + 1), toBytes 4 (x.unit.n % 2 ^ 32), false)] s = (.ok (), s1) →
        ∃ (t : State), exec (.levelWriterStep e) s = .next t ∧ took s t e 0 ∧ (elem t e).unit.p = x.unit.p + 1 ∧
          (elem t e).unit.prev = none ∧ t.dev = s1.dev)) ∧
    (∀ (s1 : State) (g : LwCfg), ready s e .writer d k v → g = lwCfg v k.asid.toNat x → g.vals = true → x.unit.loaded = true →
      x.uhead 0 = some a → x.uhead 1 = some b → (a.kind = 0 → a.pois = false) →
      (a.kind ≠ b.kind → exec (.levelWriterStep e) s = .next (elemFault d v e 0x1A3 e s)) ∧
      (a.kind = 0 → b.kind = 0 → a.val.toNat < g.L.n → (∀ q, x.unit.prev = some q → q < a.val.toNat) →
        (g.L.lvf = 0 →
          gwStores d v x.mile (lwFill g x.unit.p ((x.unit.prev.map (· + 1)).getD 0) a.val.toNat ++
            [((g.base + (x.unit.p * g.L.n + a.val.toNat) * g.width) % 2 ^ 56, toBytes g.width b.val.toNat, b.pois)]) s = (.ok (), s1) →
          ∃ (t : State), exec (.levelWriterStep e) s = .next t ∧ took s t e 0 ∧ took s t e 1 ∧
            (elem t e).unit.prev = some a.val.toNat ∧ t.dev = s1.dev) ∧
        (g.L.lvf = 1 → (g.cap = 0 ∨ x.unit.n + 1 ≤ g.cap) →
          gwStores d v x.mile [(wordVa g.L.crd x.unit.n, toBytes 4 a.val.toNat, false),
            ((g.base + x.unit.n * g.width) % 2 ^ 56, toBytes g.width b.val.toNat, b.pois)] s = (.ok (), s1) →
          ∃ (t : State), exec (.levelWriterStep e) s = .next t ∧ took s t e 0 ∧ took s t e 1 ∧ (elem t e).unit.n = x.unit.n + 1 ∧
            (elem t e).unit.prev = some a.val.toNat ∧ t.dev = s1.dev) ∧
        (g.L.lvf = 2 → (g.cap = 0 ∨ x.unit.n + 1 ≤ g.cap) →
          gwStores d v x.mile (lwBits g x.unit ((x.unit.p * g.L.n + a.val.toNat) / 32) ++
            [((g.base + x.unit.n * g.width) % 2 ^ 56, toBytes g.width b.val.toNat, b.pois)]) s = (.ok (), s1) →
          ∃ (t : State), exec (.levelWriterStep e) s = .next t ∧ took s t e 0 ∧ took s t e 1 ∧ (elem t e).unit.n = x.unit.n + 1 ∧
            (elem t e).unit.prev = some a.val.toNat ∧ t.dev = s1.dev)) ∧
      (a.kind = b.kind → 1 ≤ a.kind → a.kind ≤ 7 → g.L.lvf = 0 →
        gwStores d v x.mile (lwFill g x.unit.p ((x.unit.prev.map (· + 1)).getD 0) g.L.n) s = (.ok (), s1) →
        ∃ (t : State), exec (.levelWriterStep e) s = .next t ∧ took s t e 0 ∧ took s t e 1 ∧ (elem t e).unit.p = x.unit.p + 1 ∧
          (elem t e).unit.prev = none ∧ t.dev = s1.dev) ∧
      (a.kind = 8 → b.kind = 8 → x.unit.folded = false → gwStores d v x.mile (lwDone g x) s = (.ok (), s1) →
        ∃ (t : State), exec (.levelWriterStep e) s = .next t ∧ (elem t e).fin = true ∧ t.dev = s1.dev)) ∧
    (∀ (s1 : State) (l : Nat) (bs : List Byte × Bool), elemKind e = .scanner → active s e = some (d, k, v) →
      (x.unit.window false).getLast? = some l → x.unit.window true = [] → x.unit.wants false = true →
      gwLoad k ((l + 1) * 64 % 2 ^ 56) 64 s = (.ok bs, s1) → elem s1 e = x →
      ∃ (t : State), exec (.fibreBufferRefill e) s = .next t ∧ mget? (elem t e).unit.lines (fbKey false (l + 1)) = some bs) ∧
    (∀ (s1 : State) (l : Nat) (bs : List Byte × Bool), elemKind e = .scanner → active s e = some (d, k, v) →
      x.unit.window false = [] → (x.unit.window true).getLast? = some l → x.unit.wants true = true →
      gwLoad k ((l + 1) * 64 % 2 ^ 56) 64 s = (.ok bs, s1) →
      ∃ (t : State), exec (.fibreBufferRefill e) s = .next t ∧ mget? (elem t e).unit.lines (fbKey true (l + 1)) = some bs) ∧
    ((x.unit.window false = [] ∨ x.unit.wants false = false) → (x.unit.window true = [] ∨ x.unit.wants true = false) →
      exec (.fibreBufferRefill e) s = .next s) ∧
    (∀ (t0 n i : Nat) (rest : List (Nat × Nat × Nat)), active s e = some (d, k, v) → x.unit.skips = (t0, n, i) :: rest →
      ((n ≠ x.unit.seqOut ∨ i ≠ v.id) →
        exec (.skipRequest e) s = .next (updElem s e (fun x => x.withUnit (fun u => { u with skips := rest })))) ∧
      (∀ (p pos fin : Nat), n = x.unit.seqOut → i = v.id → elemKind e = .scanner → x.unit.fib = some (p, pos, fin) →
        (scanLevelOf v k.asid.toNat x).lvf = 0 →
        (max pos t0 < fin →
          ∃ (t : State), exec (.skipRequest e) s = .next t ∧ (elem t e).unit.fib = some (p, max pos t0, fin) ∧
            (elem t e).unit.skips = rest) ∧
        (fin ≤ max pos t0 → ∃ (t : State), exec (.skipRequest e) s = .next t ∧ (elem t e).unit.fib = none ∧
          (elem t e).unit.skips = rest ∧ (x.mbit 15 = false → took s t e 0)))) ∧
    ((active s e = none ∨ x.unit.skips = []) → exec (.skipRequest e) s = .next s)

/-- 09 R262, R274, R279; 10 R286 to R288, R290, R291; 11 R306.
Where the spec leaves a point open it follows the model's choice: log entries 14, 15, 23, 28, 60, 69, 129. -/
def Obligations.MatrixCellsAndMemoryNodes : Prop :=
  let took (s t : State) (e : Nat) : Prop := mget (elem t e).inB 0 [] = (mget (elem s e).inB 0 []).drop 1
  let own (x : Elem) (y : Token) : Token := { y with inv := x.joined.getD 0, home := x.joined.getD 0 }
  let asks (s s0 : State) (e n d : Nat) (k : District) (v : Inv) (a : Token) : Prop :=
    nodeLive s e n = some (d, k, v) ∧ (∃ rest, mget (elem s e).outB n [] = a :: rest) ∧ a.inv = v.id ∧
      (node s e n).reqs.length < 16 ∧ (node s e n).reqs.all NodeReq.ready = true ∧ s0 = popOut e n s
  let outLink (s : State) (e n : Nat) : Nat := ((elem s e).nodeField (0x74 + n)).toNat
  let image (s : State) (e n : Nat) : Bool := linkImage (outLink s e n) && linkVec (outLink s e n)
  let full (s : State) (e n : Nat) (a h : Token) (val : Option Token) : Prop :=
    ((node s e n).half = none ∧ h = a ∧ val = none ∧ a.kind = 0 ∧ twoTokens a.ch = false ∧ a.ch ≤ 8 ∧ (a.ch == 8) = image s e n) ∨
    ((node s e n).half = some h ∧ val = some a ∧ a.kind = 0 ∧ a.ch = h.ch)
  let given (val : Option Token) (L : Nat) : LaneVal := (val.map (fun u => reqVal u L)).getD .zero
  (∀ (s : State) (e d : Nat) (k : District) (v : Inv) (x : Elem) (a : Token) (mk : MKind), x = elem s e →
    matActive s e = some (d, k, v) →
    (rowFull x = false → x.head 0 = none → exec (.matrixBurstTake e) s = .next s) ∧
    (rowFull x = true → exec (.matrixBurstTake e) s = .next s) ∧
    (rowFull x = false → x.head 0 = some a →
      (a.kind = 10 → x.mat.inBurst = false → ∃ (t : State), exec (.matrixBurstTake e) s = .next t ∧
        (elem t e).mat.inBurst = true ∧ (elem t e).mat.buf = x.mat.buf ++ [a] ∧ took s t e) ∧
      (a.kind = 0 → x.mat.inBurst = true → ∃ (t : State), exec (.matrixBurstTake e) s = .next t ∧
        (elem t e).mat.buf = x.mat.buf ++ [a] ∧ took s t e) ∧
      (a.kind = 11 → x.mat.inBurst = true → a.val.toNat = tokensSince x.mat.buf →
        tokensSince x.mat.buf = burstTokens x x.mat.bursts → ∃ (t : State), exec (.matrixBurstTake e) s = .next t ∧
          (elem t e).mat.inBurst = false ∧ (elem t e).mat.bursts = x.mat.bursts + 1 ∧ took s t e) ∧
      (1 ≤ a.kind → a.kind ≤ 7 → x.mat.inBurst = false → x.mat.bursts = 0 →
        (x.mEmit = false → ∃ (t : State), exec (.matrixBurstTake e) s = .next t ∧ (elem t e).mat.row = 0 ∧ took s t e ∧
          (elem t e).outB = x.outB) ∧
        (x.mEmit = true → x.room 0 = true → x.mat.out = [] → ∃ (t : State), exec (.matrixBurstTake e) s = .next t ∧
          (elem t e).mat.row = 0 ∧ took s t e ∧
          mget (elem t e).outB 0 [] = mget x.outB 0 [] ++ [own x (plainTok true a.kind a.ch false 0)])) ∧
      (12 ≤ a.kind → exec (.matrixBurstTake e) s = .next (elemFault d v e 0x181 e s)) ∧
      ((a.kind = 0 ∨ a.kind = 11) ∧ x.mat.inBurst = false ∨ 1 ≤ a.kind ∧ a.kind ≤ 10 ∧ x.mat.inBurst = true ∨
        1 ≤ a.kind ∧ a.kind ≤ 8 ∧ x.mat.bursts ≠ 0 → exec (.matrixBurstTake e) s = .next (elemFault d v e 0x183 e s)) ∧
      (a.kind = 11 → x.mat.inBurst = true →
        a.val.toNat ≠ tokensSince x.mat.buf ∨ tokensSince x.mat.buf ≠ burstTokens x x.mat.bursts →
        exec (.matrixBurstTake e) s = .next (elemFault d v e 0x182 e s))) ∧
    (rowFull x = true → x.mat.out = [] → matKind false x.mAfmt x.mPlanes = some mk → ∀ m row,
      row = x.mRow0 + x.mat.row % x.mRows → m = (rowStep (streamNanz v x) x.mat (bufferRow (streamNanz v x) x mk) row).1 →
      (x.mEmit = false → ∃ (t : State), exec (.matrixRowFiring e) s = .next t ∧ (elem t e).mat.row = m.row + 1 ∧
        (elem t e).mat.buf = [] ∧ (elem t e).mat.acc = m.acc ∧ (elem t e).outB = x.outB) ∧
      (x.mEmit = true → mget x.outB 0 [] = [] → ∀ l,
        l = emitRow (x.withMat (fun _ => m)) row ((x.mat.buf.head?.map (fun y => y.ch)).getD 0) →
        ∃ (t : State), exec (.matrixRowFiring e) s = .next t ∧ (elem t e).mat.row = m.row + 1 ∧ (elem t e).mat.buf = [] ∧
          (elem t e).mat.acc = (zeroRow row m).acc ∧ mget (elem t e).outB 0 [] = (l.take 4).map (own x) ∧
          (elem t e).mat.out = l.drop 4) ∧
      (x.mEmit = true → mget x.outB 0 [] ≠ [] → exec (.matrixRowFiring e) s = .next s)) ∧
    (∀ y rest, x.mat.out = y :: rest →
      (x.room 0 = false → exec (.matrixRowFiring e) s = .next s) ∧
      (x.room 0 = true → ∃ (t : State) (l1 l2 : List Token), exec (.matrixRowFiring e) s = .next t ∧ rest = l1 ++ l2 ∧
        mget (elem t e).outB 0 [] = mget x.outB 0 [] ++ (y :: l1).map (own x) ∧ (elem t e).mat.out = l2)) ∧
    (rowFull x = false → x.mat.out = [] → x.head 0 = some a → a.kind = 8 →
      (x.mat.inBurst = true ∨ x.mat.bursts ≠ 0 → exec (.matrixDonePass e) s = .next (elemFault d v e 0x183 e s)) ∧
      (x.mat.inBurst = false → x.mat.bursts = 0 →
        (x.mEmit = false → ∃ (t : State), exec (.matrixDonePass e) s = .next t ∧ (elem t e).fin = true ∧ took s t e ∧
          (elem t e).outB = x.outB) ∧
        (x.mEmit = true → mget x.outB 0 [] = [] → ∃ (t : State), exec (.matrixDonePass e) s = .next t ∧ (elem t e).fin = true ∧
          took s t e ∧ mget (elem t e).outB 0 [] = [own x (plainTok true 8 a.ch false (if a.td then 1 else 0))]) ∧
        (x.mEmit = true → mget x.outB 0 [] ≠ [] → exec (.matrixDonePass e) s = .next s)))) ∧
  (∀ (s s0 : State) (e n d : Nat) (k : District) (v : Inv) (a : Token), asks s s0 e n d k v a →
    (12 ≤ a.kind → exec (.memoryNodeRequest e n) s = .next (elemFault d v e 0x181 e s)) ∧
    (a.kind = 10 ∨ a.kind = 11 → exec (.memoryNodeRequest e n) s = .next (elemFault d v e 0x11C e s)) ∧
    (∀ h, (node s e n).half = some h → a.kind ≤ 9 → a.kind ≠ 0 ∨ a.ch ≠ h.ch →
      exec (.memoryNodeRequest e n) s = .next (elemFault d v e 0x11C e s)) ∧
    ((node s e n).half = none →
      (1 ≤ a.kind → a.kind ≤ 9 → ∃ (t : State) (r : NodeReq), exec (.memoryNodeRequest e n) s = .next t ∧
        (node t e n).reqs = (node s e n).reqs ++ [r] ∧ r.out = [a] ∧ r.ready = true ∧
        (node t e n).mile = if a.kind = 9 then a.val.toNat else (node s e n).mile) ∧
      (a.kind = 0 → 9 ≤ a.ch ∨ (a.ch == 8) ≠ image s e n → exec (.memoryNodeRequest e n) s = .next (elemFault d v e 0x11C e s)) ∧
      (a.kind = 0 → twoTokens a.ch = true → image s e n = false → ∃ (t : State), exec (.memoryNodeRequest e n) s = .next t ∧
        (node t e n).half = some a ∧ (node t e n).reqs = (node s e n).reqs ∧
        mget (elem t e).outB n [] = (mget (elem s e).outB n []).drop 1)) ∧
    (∀ h val, full s e n a h val →
      (h.ch = 8 →
        (h.pois = true → exec (.memoryNodeRequest e n) s = .next (elemFault d v e 0x109 e s)) ∧
        (∀ c, h.pois = false → burstReq v k (elem s0 e) h = .error c →
          exec (.memoryNodeRequest e n) s = .next (elemFault d v e c e s)) ∧
        (∀ b, h.pois = false → burstReq v k (elem s0 e) h = .ok b →
          exec (.memoryNodeRequest e n) s = .next (fired d (addReq e n (mkNodeReq s0 h none []) s0)))) ∧
      (h.ch ≠ 8 → (reqLanes h).any (fun L => (reqVal h L).p) = true →
        exec (.memoryNodeRequest e n) s = .next (elemFault d v e 0x109 e s)) ∧
      (h.ch ≠ 8 → 2 ≤ h.ch → (reqLanes h).any (fun L => (reqVal h L).p) = false →
        (∀ c, lanePlaces (fun L => spadCheck k (reqVal h L).v.toNat) (reqLanes h) = .error c →
          exec (.memoryNodeRequest e n) s = .next (elemFault d v e c e s)) ∧
        (∀ ps, lanePlaces (fun L => spadCheck k (reqVal h L).v.toNat) (reqLanes h) = .ok ps →
          ((reqLanes h).any (fun L => k.boardBusy (reqVal h L).v.toNat 4) = true → exec (.memoryNodeRequest e n) s = .next s) ∧
          ((reqLanes h).any (fun L => k.boardBusy (reqVal h L).v.toNat 4) = false →
            (h.ch = 2 → ∃ (t : State) (r : NodeReq), exec (.memoryNodeRequest e n) s = .next t ∧
              (node t e n).reqs = (node s e n).reqs ++ [r] ∧ r.ready = true ∧ r.tok = h ∧ r.out = [] ∧
              (∀ q, q ∈ ps → r.res.getD q.1 none = some (wordAt s q.2)) ∧
              mget (elem t e).outB n [] = (mget (elem s e).outB n []).drop 1) ∧
            (∀ L p, ps = [(L, p)] → ∃ (r : NodeReq), r.tok = h ∧ r.out = [] ∧
              (h.ch = 3 → r.ready = true ∧ exec (.memoryNodeRequest e n) s = .next (fired d (addReq e n r
                (placeWrite (logSpadAt (some (elem s0 e).mile) p 4 s0) p (toBytes 4 (given val L).v.toNat) (given val L).p)))) ∧
              (h.ch = 7 → r.ready = true ∧ exec (.memoryNodeRequest e n) s = .next (fired d (addReq e n r
                (tagSetWord p (given val L) (logSpadAt (some (elem s0 e).mile) p 4 s0))))) ∧
              (4 ≤ h.ch → h.ch ≤ 6 → tagBehind s0 p (h.ch - 4) = false → tagReady s0 p (h.ch - 4) = true →
                r.ready = true ∧
                r.res.getD L none = some (tagEffect p (h.ch - 4) (given val L) (logSpadAt (some (elem s0 e).mile) p 4 s0)).1 ∧
                exec (.memoryNodeRequest e n) s = .next (fired d (addReq e n r
                  (tagEffect p (h.ch - 4) (given val L) (logSpadAt (some (elem s0 e).mile) p 4 s0)).2))) ∧
              (4 ≤ h.ch → h.ch ≤ 6 → tagBehind s0 p (h.ch - 4) = true ∨ tagReady s0 p (h.ch - 4) = false →
                r.ready = false ∧ ∃ w, w.place = p ∧ w.who = .node e n ∧ w.op = h.ch - 4 ∧ w.v = (given val L).v ∧
                  exec (.memoryNodeRequest e n) s = .next (fired d (addReq e n r { s0 with tagq := s0.tagq ++ [w] }))))))) ∧
      (h.ch ≤ 1 → (reqLanes h).any (fun L => (reqVal h L).p) = false →
        (∀ c, nodeEntry v k (elem s0 e) = .error c → exec (.memoryNodeRequest e n) s = .next (elemFault d v e c e s)) ∧
        (∀ ent, nodeEntry v k (elem s0 e) = .ok ent →
          (ent.dense = false ∨ indexedFmt ent.fmt = false →
            exec (.memoryNodeRequest e n) s = .next (elemFault d v e 0x11C e s)) ∧
          (∀ c, ent.dense = true → indexedFmt ent.fmt = true →
            lanePlaces (fun L => indexAddr ent (reqVal h L).v.toNat) (reqLanes h) = .error c →
            exec (.memoryNodeRequest e n) s = .next (elemFault d v e c e s)) ∧
          (∀ as, ent.dense = true → indexedFmt ent.fmt = true →
            lanePlaces (fun L => indexAddr ent (reqVal h L).v.toNat) (reqLanes h) = .ok as →
            (∀ l s1, val = none → devLoads k ent as s0 = (.ok l, s1) →
              ∃ (r : NodeReq), r.ready = true ∧ r.tok = h ∧ r.res = l.foldl (fun z p => listSet z p.1 (some p.2)) (resAll h none) ∧
                exec (.memoryNodeRequest e n) s = .next (fired d (addReq e n r s1))) ∧
            (∀ c s1, val = none → devLoads k ent as s0 = (.fault c, s1) →
              exec (.memoryNodeRequest e n) s = .next (elemFault d v e c e s)) ∧
            (∀ p s1, val = none → devLoads k ent as s0 = (.wait p, s1) →
              exec (.memoryNodeRequest e n) s = .next (meetAt (.node e n) p s)) ∧
            (∀ u s1, val = some u → gwStores d v (node s0 e n).mile (devStores ent u as) s0 = (.ok (), s1) →
              ∃ (r : NodeReq), r.ready = true ∧ r.tok = h ∧ r.res = resAll h (some .zero) ∧
                exec (.memoryNodeRequest e n) s = .next (fired d (addReq e n r s1))) ∧
            (∀ u c s1, val = some u → gwStores d v (node s0 e n).mile (devStores ent u as) s0 = (.fault c, s1) →
              exec (.memoryNodeRequest e n) s = .next (elemFault d v e c e s)) ∧
            (∀ u p s1, val = some u → gwStores d v (node s0 e n).mile (devStores ent u as) s0 = (.wait (some p), s1) →
              exec (.memoryNodeRequest e n) s = .next (meetFrozen (.node e n) p s)) ∧
            (∀ u s1, val = some u → gwStores d v (node s0 e n).mile (devStores ent u as) s0 = (.wait none, s1) →
              ∃ (r : NodeReq), r.held = true ∧ r.ready = false ∧ r.val = some u ∧ r.tok = h ∧
                exec (.memoryNodeRequest e n) s = .next (fired d (addReq e n r s0)))))))) ∧
  (∀ (s : State) (e n d : Nat) (k : District) (v : Inv), nodeLive s e n = some (d, k, v) →
    (16 ≤ (node s e n).reqs.length ∨ (∃ r, r ∈ (node s e n).reqs ∧ r.ready = false) →
      exec (.memoryNodeRequest e n) s = .next s) ∧
    (mget (elem s e).outB n [] = [] → exec (.memoryNodeRequest e n) s = .next s) ∧
    ((node s e n).reqs = [] → exec (.memoryNodeReturn e n) s = .next s) ∧
    (∀ r rest, (node s e n).reqs = r :: rest →
      (r.ready = false ∨ 4 ≤ (mget (elem s e).inB n []).length → exec (.memoryNodeReturn e n) s = .next s) ∧
      (r.ready = true → (mget (elem s e).inB n []).length < 4 → ∃ (t : State) (y : Token),
        exec (.memoryNodeReturn e n) s = .next t ∧
        mget (elem t e).inB n [] = mget (elem s e).inB n [] ++ [{ y with inv := r.tok.inv, home := r.tok.inv }] ∧
        (r.out = [] → y = returnTok (linkVec (outLink s e n)) r) ∧ (∀ z more, r.out = z :: more → y = z) ∧
        ((elem s e).tear = false → (node t e n).reqs = if r.out.length ≤ 1 then rest else { r with out := r.out.drop 1 } :: rest))) ∧
    (∀ r, (node s e n).reqs.find? (fun r => r.acc == 8 && !r.done) = some r →
      (∀ c, burstReq v k (elem s e) r.tok = .error c → exec (.rowBurst e n) s = .next (elemFault d v e c e s)) ∧
      (∀ b, burstReq v k (elem s e) r.tok = .ok b →
        (∀ l s1, allBursts k b 8 (b.n + 1) b.c s = (.ok l, s1) → exec (.rowBurst e n) s = .next (fired d (updNode e n (fun z =>
          { z with reqs := z.reqs.map (fun q => if q = r then { r with out := l, done := true } else q) }) s1))) ∧
        (∀ c s1, allBursts k b 8 (b.n + 1) b.c s = (.fault c, s1) → exec (.rowBurst e n) s = .next (elemFault d v e c e s)) ∧
        (∀ p s1, allBursts k b 8 (b.n + 1) b.c s = (.wait p, s1) →
          exec (.rowBurst e n) s = .next (meetAt (.node e n) p s)))) ∧
    (∀ r, (node s e n).reqs.find?
        (fun r => !r.done && !r.held && decide (4 ≤ r.acc ∧ r.acc ≤ 6) && r.res.any (fun x => x.isNone)) = some r →
      (v.bound ≠ 0 → r.from_ + v.bound.toNat ≤ s.fc → exec (.nodeTagTimeout e n) s = .next (elemFault d v e 0x110 e s)) ∧
      (v.bound = 0 ∨ s.fc < r.from_ + v.bound.toNat → exec (.nodeTagTimeout e n) s = .next s)) ∧
    (∀ r u ent as, (node s e n).reqs.find? (fun r => r.held) = some r → nodeEntry v k (elem s e) = .ok ent → r.val = some u →
      lanePlaces (fun L => indexAddr ent (reqVal r.tok L).v.toNat) (reqLanes r.tok) = .ok as →
      (∀ s1, gwStores d v (node s e n).mile (devStores ent u as) s = (.ok (), s1) →
        exec (.heldStoreEntry e n) s = .next (fired d (updNode e n (fun z => { z with reqs := z.reqs.map (fun q =>
          if q = r then { r with held := false, done := true, res := resAll r.tok (some .zero) } else q) }) s1))) ∧
      (∀ c s1, gwStores d v (node s e n).mile (devStores ent u as) s = (.fault c, s1) →
        exec (.heldStoreEntry e n) s = .next (elemFault d v e c e s)) ∧
      (∀ p s1, gwStores d v (node s e n).mile (devStores ent u as) s = (.wait p, s1) →
        exec (.heldStoreEntry e n) s = .next (meetAt (.node e n) p s)))) ∧
  (∀ (b : BurstReq) (k : District) (s s1 : State) (ch c n : Nat) (l : List Token), oneBurst k b ch c n s = (.ok l, s1) →
    ∃ (h y : Token) (ds : List Token), l = h :: ds ++ [y] ∧ h.kind = 10 ∧ h.val.toNat / 2 ^ 16 = b.r % 2 ^ 16 ∧
      (b.ent.sbase = 0 → h.val.toNat % 2 ^ 16 = scaleOne b.ent.fmt % 2 ^ 16) ∧ (∀ z, z ∈ ds → z.kind = 0 ∧ z.ch = ch) ∧
      y.kind = 11 ∧ y.val.toNat = ds.length % 2 ^ 32)

/-- 09 R262 to R267, R280, R281; 10 R285; 06 R178, R180; 17 R398.
Where the spec leaves a point open it follows the model's choice: log entries 23, 28, 57, 117, 125. -/
def Obligations.InvocationsRunAndEnd : Prop :=
  (∀ (s : State) (d : Nat) (k : District) (v : Inv), mget? s.districts d = some k → k.invs.find? (fun v => !v.started) = some v →
    (v.loads ≠ 0 ∨ k.gated = true ∨ k.behind s = true → exec (.invokeStart d) s = .next s) ∧
    (v.loads = 0 → k.gated = false → k.behind s = false → k.invs.any (fun u => u.started) = true →
      exec (.invokeStart d) s = .next (updInv d v.id (fun v => { v with started := true }) s)) ∧
    (v.loads = 0 → k.gated = false → k.behind s = false → k.invs.any (fun u => u.started) = false →
      ((partElems s k).any (fun e => !(elem s e).pend.isEmpty) = true → exec (.invokeStart d) s = .next s) ∧
      ((partElems s k).any (fun e => !(elem s e).pend.isEmpty) = false →
        ((partElems s k).findSome? (startCheck s k v) = none →
          ∃ (t : State) (k' : District), exec (.invokeStart d) s = .next t ∧ mget? t.districts d = some k' ∧
            k'.invs = k.invs.map (fun u => if u.id = v.id then { u with started := true, atOnce := true } else u) ∧
            ∀ e, e ∈ partElems s k → (elem t e).joined = some v.id ∧ (elem t e).fin = false ∧ (elem t e).mile = 0 ∧
              (elem t e).fields = (elem s e).fields) ∧
        (∀ c tv, (partElems s k).findSome? (startCheck s k v) = some (c, tv) → exec (.invokeStart d) s =
          .next (invFault d v.id c tv (updInv d v.id (fun v => { v with started := true, atOnce := true }) s)))))) ∧
  (∀ (s : State) (e d : Nat) (k : District) (v : Inv), distOf s e = some (d, k) → nextInvOf s k e = some v →
    (k.gated = true ∨ takesPart s e = false ∨ (elem s e).pend ≠ [] → exec (.elementJoin e) s = .next s) ∧
    (k.gated = false → takesPart s e = true → (elem s e).pend = [] →
      (startCheck s k v e = none → ∃ (t : State), exec (.elementJoin e) s = .next t ∧ (elem t e).joined = some v.id ∧
        (elem t e).fin = false ∧ (elem t e).mile = 0 ∧ (elem t e).fields = (elem s e).fields ∧
        (elem t e).nodeSet = ports.filter (formsNode s e)) ∧
      (∀ c tv, startCheck s k v e = some (c, tv) → exec (.elementJoin e) s = .next (invFault d v.id c tv s)))) ∧
  (∀ (s : State) (e d : Nat) (k : District) (v : Inv) (x : Elem), active s e = some (d, k, v) → x = elem s e →
    (∀ tv, mileInBurst s e = some tv → exec (.milestoneTake e) s = .next (elemFault d v e 0x183 tv s)) ∧
    (mileInBurst s e = none → takeable s k v e = none → exec (.milestoneTake e) s = .next s) ∧
    (∀ w, mileInBurst s e = none → takeable s k v e = some w →
      (holdsOutput (elemKind e) x = true → exec (.milestoneTake e) s = .next s) ∧
      (holdsOutput (elemKind e) x = false → nodeOutputs x w ≠ [] → x.nodeSet.Nodup →
        ∃ (t : State), exec (.milestoneTake e) s = .next t ∧ (elem t e).mile = x.mile ∧ (elem t e).inB = x.inB ∧
          ∀ p, p ∈ nodeOutputs x w → p ∈ (elem t e).mileOut ∧ ∃ (y : Token),
            mget (elem t e).outB p [] = mget x.outB p [] ++ [y] ∧ y.kind = 9 ∧ y.val.toNat = w % 2 ^ 32) ∧
      (holdsOutput (elemKind e) x = false → nodeOutputs x w = [] →
        x.nodeSet.all (nodeDone x w) = false ∨ (routeOutputs x).all x.room = false → exec (.milestoneTake e) s = .next s) ∧
      (holdsOutput (elemKind e) x = false → nodeOutputs x w = [] → x.nodeSet.all (nodeDone x w) = true →
        (routeOutputs x).all x.room = true →
        (conserved (elemKind e) x = false → exec (.milestoneTake e) s = .next (regionError d v.id e false e s)) ∧
        (conserved (elemKind e) x = true →
          ∃ (t : State), exec (.milestoneTake e) s = .next t ∧ (elem t e).mile = w ∧ (elem t e).mileOut = [] ∧
            (∀ p, p ∈ openInputs s e → mget (elem t e).inB p [] = (mget x.inB p []).drop 1) ∧
            (x.nodeSet.Nodup → ∀ p, p ∈ x.nodeSet → atMile x p = true → mget (elem t e).inB p [] = (mget x.inB p []).drop 1) ∧
            ∀ p, p ∈ routeOutputs x → ∃ (y : Token),
              mget (elem t e).outB p [] = mget x.outB p [] ++ [y] ∧ y.kind = 9 ∧ y.val.toNat = w % 2 ^ 32)))) ∧
  (∀ (s : State) (d : Nat) (k : District), mget? s.districts d = some k →
    (completeWave k = none ∨ k.running = none → exec (.waveCommit d) s = .next s) ∧
    (∀ m v, completeWave k = some m → k.running = some v →
      (∀ p, heldFrozen s k.hold = some p → exec (.waveCommit d) s = .next (meetFrozen (.dist d) p s)) ∧
      (heldFrozen s k.hold = none →
        (∃ (t : State) (k' : District), exec (.waveCommit d) s = .next t ∧ mget? t.districts d = some k' ∧
          k'.hold = k.hold.filter (fun h => !(v.seg && h.inv == v.id && decide (h.wave < m.wave)))) ∧
        (∀ h, k.hold.filter (fun h => v.seg && h.inv == v.id && decide (h.wave < m.wave)) = [h] → h.peer = 255 →
          exec (.waveCommit d) s = .next (placeWrite (updDist s d (fun k => { k with
            hold := k.hold.filter (fun h => !(v.seg && h.inv == v.id && decide (h.wave < m.wave))) }))
            (.dev h.pa) h.bytes h.pois))))) ∧
  (∀ (s : State) (d : Nat) (k : District) (v : Inv) (rest : List Inv), mget? s.districts d = some k → k.invs = v :: rest →
    (v.started = false ∨ k.gated = true ∨ k.faultDue.isSome = true ∨ v.lost = true ∨ allFinished s k v = false ∨ doneUnderway s k v.id = true ∨ completeWave k ≠ none →
      exec (.invocationEnd d) s = .next s) ∧
    (v.started = true → k.gated = false → k.faultDue = none → v.lost = false → allFinished s k v = true → doneUnderway s k v.id = false → completeWave k = none →
      (∀ p, heldFrozen s k.hold = some p → exec (.invocationEnd d) s = .next (meetFrozen (.dist d) p s)) ∧
      (heldFrozen s k.hold = none →
        (∀ e, residueAt s k v.id = some e → exec (.invocationEnd d) s = .next (invFault d v.id 0x152 e s)) ∧
        (residueAt s k v.id = none → ∃ (u : State) (c : Inv), exec (.invocationEnd d) s = .next (setCpl k.owner v.cpl (2 ^ 28 + 0x02)
          c.nans.toNat c.infs.toNat c.ovfs.toNat u) ∧ c = invCounts s k v ∧
          ∃ (k' : District), mget? u.districts d = some k' ∧ k'.invs = k.invs.filter (fun w => w.id != v.id) ∧
            k'.hold = k.hold.filter (fun h => h.inv != v.id))))) ∧
  (∀ (s : State) (d : Nat) (k : District), mget? s.districts d = some k →
    (∀ v rest e, k.invs = v :: rest → k.faultMark.find? (fun e => (elem s e).joined == some v.id) = some e →
      exec (.gangfault d) s = .next (invFault d v.id 0x153 e (updDist s d (fun k => { k with faultMark := [] })))) ∧
    (∀ v w e, k.invs = [v, w] → k.faultMark.find? (fun e => (elem s e).joined == some v.id) = none →
      k.faultMark.find? (fun e => (elem s e).joined == some w.id) = some e →
      exec (.gangfault d) s = .next (invFault d w.id 0x153 e (updDist s d (fun k => { k with faultMark := [] })))) ∧
    ((∀ v e, v ∈ k.invs → e ∈ k.faultMark → (elem s e).joined ≠ some v.id) →
      exec (.gangfault d) s = .next (updDist s d (fun k => { k with faultMark := [] })))) ∧
  (∀ (s : State) (d : Nat) (k : District) (v : Inv), mget? s.districts d = some k → k.running = some v →
    (v.bound ≠ 0 → k.gated = false → anyTagDue s k = false → v.bound.toNat ≤ k.stall →
      exec (.stallWatchdogExpiry d) s = .next (noteFault d ⟨v.id, noElem, 0x151, 0⟩ s)) ∧
    (v.bound = 0 ∨ k.gated = true ∨ anyTagDue s k = true ∨ k.stall < v.bound.toNat → exec (.stallWatchdogExpiry d) s = .next s)) ∧
  (∀ (s : State) (d : Nat) (k : District) (f : FaultDue), mget? s.districts d = some k →
    (∀ i c tv, invFault d i c tv s = noteFault d ⟨i, tv % 2 ^ 18, c, tv⟩ s) ∧
    (∃ (k' : District), mget? (noteFault d f s).districts d = some k' ∧ k'.invs = k.invs ∧
      (k.faultDue = none → k'.faultDue = some f) ∧
      (∀ g, k.faultDue = some g → f.before g = true → k'.faultDue = some f) ∧
      (∀ g, k.faultDue = some g → f.before g = false → k'.faultDue = some g)) ∧
    (k.faultDue = none → settleFault d s = s) ∧
    (k.faultDue = some f → k.needRoll = true → settleFault d s = updDist s d (fun k => { k with faultDue := none })) ∧
    (k.faultDue = some f → k.needRoll = false →
      settleFault d s = endFault d f.inv f.cause f.tval (updDist s d (fun k => { k with faultDue := none })))) ∧
  (∀ (s : State) (d i : Nat) (k : District) (v : Inv) (c : BitVec 10) (tv : Nat), mget? s.districts d = some k → k.inv? i = some v →
    ∃ (u : State) (k' : District), endFault d i c tv s = raiseThread k.thread c (BitVec.ofNat 64 tv) v.iter u ∧
      mget? u.districts d = some k' ∧ k'.invs = k.invs.takeWhile (fun w => w.id != i) ∧
      k'.hold = k.hold.filter (fun h => !((k.invs.dropWhile (fun w => w.id != i)).any (fun w => w.id == h.inv))) ∧
      (k'.invs = [] → ∀ e j, k.hasElem e = true → (elem s e).joined = some j → (k.invs.any (fun w => w.id == j)) = true →
        (elem u e).joined = none) ∧
      (k.invs = [v] → ∃ (w : State) (n1 n2 n3 : Nat), u = markGang k
        (setCpl k.owner v.cpl (2 * 2 ^ 28 + c.toNat * 2 ^ 16 + 0x02) n1 n2 n3 w))) ∧
  (∀ (s : State) (d : Nat) (k : District), mget? s.districts d = some k →
    (k.needRoll = false → exec (.rollback d) s = .next s) ∧
    (k.gang = 0 → completeWave k ≠ none → exec (.rollback d) s = .next s) ∧
    (k.needRoll = true → k.gang = 0 → completeWave k = none → rollable k = true →
      (core s k.core).dbrk = false → (core s k.core).dhalt = false → (core s k.core).cstat ≠ 4 →
      ∃ (t : State) (k' : District), exec (.rollback d) s = .next t ∧ mget? t.districts d = some k' ∧ k'.gated = false ∧
        k'.needRoll = false ∧ k'.rolled = k.errAt.isSome ∧ k'.invs = k.invs ∧ k'.faultDue = none ∧
        (∀ m, m ∈ k'.miles → m.full = false) ∧
        (quarter t k.rect.q).rollback = satInc (quarter s k.rect.q).rollback ∧
        ∀ wc snap, k.snaps.head? = some (wc, snap) → k'.stall = mget k.snapStall wc 0 ∧
          k'.hold = k.hold.filter (fun h => decide (h.wave < wc) && (k.running.map (fun v => v.id)) == some h.inv) ∧
          ∀ e x, (e, x) ∈ snap → (∀ y, (e, y) ∈ snap → y = x) →
            (elem t e).joined = x.joined ∧ (elem t e).mile = x.mile ∧ (elem t e).unit = x.unit ∧ (elem t e).fields = x.fields) ∧
    (∀ v rest, k.needRoll = true → k.gang = 0 → completeWave k = none → rollable k = false → k.invs = v :: rest →
      ∃ (u : State), exec (.rollback d) s = .next (ungate d (endFault d v.id 0x0C1 (k.errAt.getD 0) u)) ∧
        u.districts = s.districts ∧ (quarter u k.rect.q).rollback = satInc (quarter s k.rect.q).rollback))

/-- 12 R312 to R318, R324, R325, R332, R333.
Where the spec leaves a point open it follows the model's choice: log entries 35, 39, 40, 55, 65. -/
def Obligations.HubQueuesAndWindows : Prop :=
  let refused (s t : State) (q : Nat) (flags : BitVec 8) : Prop := (queue t q).lanes = (queue s q).lanes ∧
    (queue t q).state = (queue s q).state ∧ t.gangs = s.gangs ∧ t.dev = s.dev ∧ t.decrs = s.decrs ∧
    (queue t q).errFlags = (queue s q).errFlags ||| flags ∧ (queue t q).drops = satInc (queue s q).drops
  let idle (s : State) (q : Nat) : Prop := (queue s q).state = 0 ∨ (queue s q).state = 4
  (∀ (s : State) (port q o : Nat) (bytes : List Nat) (r : Rec), q < 64 → o < 4096 → r = Rec.ofBytes (bytes.map (BitVec.ofNat 8)) →
    (ownerOk s port = false → ∃ (t : State), exec (.launchWindowWrite port (4096 * q + o) bytes) s = .next t ∧ refused s t q 0x04) ∧
    (ownerOk s port = true → bytes.length ≠ 32 ∨ o % 32 ≠ 0 →
      ∃ (t : State), exec (.launchWindowWrite port (4096 * q + o) bytes) s = .next t ∧ refused s t q 0x01) ∧
    (ownerOk s port = true → bytes.length = 32 → o % 32 = 0 →
      (r.bad (queue s q).asid false = true → ∃ (t : State), exec (.launchWindowWrite port (4096 * q + o) bytes) s = .next t ∧
        refused s t q 0x08 ∧ (queue t q).errCause = 0x241) ∧
      (r.bad (queue s q).asid false = false → (queue s q).accepts = false →
        exec (.launchWindowWrite port (4096 * q + o) bytes) s = .next (updQueue q (fun k => { k with drops := satInc k.drops }) s)) ∧
      (r.bad (queue s q).asid false = false → (queue s q).accepts = true →
        (copyWaits s q r = true ∨ r.gang = 0 ∧ (queue s q).cap ≤ ((queue s q).lane r.prio).length ∨
          r.gang ≠ 0 ∧ gangAt s r.asid r.gang = none ∧ 16 ≤ s.gangs.length ∨
          (∃ g, r.gang ≠ 0 ∧ gangAt s r.asid r.gang = some g ∧ g.size ≤ g.members.length) →
          ∃ (t : State), exec (.launchWindowWrite port (4096 * q + o) bytes) s = .next t ∧ refused s t q 0x02 ∧
            (queue t q).errCause = 0x242) ∧
        (copyWaits s q r = false → r.gang = 0 → ((queue s q).lane r.prio).length < (queue s q).cap →
          ∃ (t : State), exec (.launchWindowWrite port (4096 * q + o) bytes) s = .next t ∧
            (queue t q).lane r.prio = (queue s q).lane r.prio ++ [⟨r, s.ns, none, none⟩] ∧
            (queue t q).drops = (queue s q).drops ∧ (∀ p, p ≠ r.prio → (queue t q).lane p = (queue s q).lane p) ∧
            ∀ a, a = (queue s q).slotAddr r.prio (mget (queue s q).tails r.prio 0) → a + 32 ≤ devTop → memOk s →
              placeRead t (.dev a) 32 = r.bytes) ∧
        (copyWaits s q r = false → r.gang ≠ 0 → gangAt s r.asid r.gang = none → s.gangs.length < 16 →
          exec (.launchWindowWrite port (4096 * q + o) bytes) s =
            .next { s with gangs := s.gangs ++ [⟨r.asid, r.gang, r.gsize, q, [⟨r, s.ns, none, none⟩]⟩] }) ∧
        (∀ g x more, copyWaits s q r = false → r.gang ≠ 0 → gangAt s r.asid r.gang = some g → g.members = x :: more →
          g.members.length < g.size →
          (g.size = r.gsize → g.q = q → x.r.prio = r.prio →
            exec (.launchWindowWrite port (4096 * q + o) bytes) s = .next { s with gangs := s.gangs.map (fun h =>
              if h = g then { g with members := g.members ++ [⟨r, s.ns, none, none⟩] } else h) }) ∧
          (g.size ≠ r.gsize ∨ g.q ≠ q ∨ x.r.prio ≠ r.prio →
            ∃ (t : State), exec (.launchWindowWrite port (4096 * q + o) bytes) s = .next t ∧ refused s t q 0x10 ∧
              (queue t q).errCause = 0x247))))) ∧
  (∀ (s : State) (port q : Nat), q < 64 →
    (ownerOk s port = false → ∀ v, exec (.hqBaseWrite port q v) s = .next s ∧ exec (.enable port q) s = .next s ∧
      exec (.disable port q) s = .next s ∧ exec (.teardown port q) s = .next s ∧ exec (.reset port q) s = .next s ∧
      exec (.off port q) s = .next s) ∧
    (ownerOk s port = true →
      (∀ v, v < 2 ^ 64 → idle s q → nb v 3 0 ≤ 11 →
        exec (.hqBaseWrite port q v) s = .next (updQueue q (fun k => { k with
          base := BitVec.ofNat 44 (nb v 55 12), log2size := BitVec.ofNat 4 (nb v 3 0) }) s)) ∧
      (∀ v, v < 2 ^ 64 → ¬ idle s q ∨ 11 < nb v 3 0 →
        exec (.hqBaseWrite port q v) s = .next (updQueue q (fun k => { k with errFlags := k.errFlags ||| 0x40 }) s)) ∧
      (idle s q → exec (.enable port q) s =
        .next (updQueue q (fun k => { k with state := 1, lanes := [], tails := [], drops := 0 }) s)) ∧
      ((queue s q).state = 2 → exec (.enable port q) s = .next (updQueue q (fun k => { k with state := 1 }) s)) ∧
      (¬ idle s q → (queue s q).state ≠ 2 → exec (.enable port q) s = .next s) ∧
      ((queue s q).state = 1 → exec (.disable port q) s = .next (updQueue q (fun k => { k with state := 2 }) s)) ∧
      ((queue s q).state ≠ 1 → exec (.disable port q) s = .next s) ∧
      ((queue s q).state = 4 → exec (.off port q) s = .next (updQueue q (fun k => { k with state := 0 }) s)) ∧
      ((queue s q).state ≠ 4 → exec (.off port q) s = .next s) ∧
      ((queue s q).state = 1 ∨ (queue s q).state = 2 → ∃ (t : State), exec (.teardown port q) s = .next t ∧ (queue t q).state = 3 ∧
        (∀ p, (queue t q).lane p = ((queue s q).lane p).filter (fun x => x.saved.isSome)) ∧
        (∀ g, g ∈ t.gangs → g.q = q → ∀ x, x ∈ g.members → x.saved.isSome = true) ∧
        (∀ x, x ∈ t.recWait → x.r.queue ≠ q) ∧ t.cores = s.cores ∧
        (∀ w, w ∈ t.walks → w.q = q → w.stopped = true ∧ w.cancel = true) ∧
        (∀ x, (∃ p, p < 4 ∧ x ∈ (queue s q).lane p) ∨ (∃ g, g ∈ s.gangs ∧ g.q = q ∧ x ∈ g.members) → x.saved = none →
          x.r.join ≠ 0 ∨ x.walk ≠ none → ⟨x.r.join, x.r.asid, false, true, q, x.walk⟩ ∈ t.decrs) ∧
        (∀ x, x ∈ s.recWait → x.r.queue = q → x.r.join ≠ 0 ∨ x.walk ≠ none →
          ⟨x.r.join, x.r.asid, false, true, q, x.walk⟩ ∈ t.decrs)) ∧
      ((queue s q).state ≠ 1 → (queue s q).state ≠ 2 → exec (.teardown port q) s = .next s) ∧
      ((queue s q).state = 1 ∨ (queue s q).state = 2 ∨ (queue s q).state = 3 →
        s.saved.any (fun x => x.t.task.any (fun k => k.q == q)) = false →
        (coresOf s q = [] → ∃ (t : State), exec (.reset port q) s = .next t ∧ (queue t q).state = 5 ∧
          (∀ p, (queue t q).lane p = []) ∧ t.gangs.any (fun g => g.q == q) = false) ∧
        (∀ c, coresOf s q = [c] → (core s c).restartPend = false → ∃ (t : State), exec (.reset port q) s = .next t ∧
          (core t c).cstat = 0 ∧ (thr t c).task = none ∧ (thr t c).wait = .none)) ∧
      ((queue s q).state ≠ 1 → (queue s q).state ≠ 2 → (queue s q).state ≠ 3 → exec (.reset port q) s = .next s))) ∧
  (∀ (s : State) (c : Nat), (core (killTask c s) c).cstat = 0 ∧ (thr (killTask c s) c).task = none ∧ (thr (killTask c s) c).wait = .none ∧
    ∀ k, (thr s c).task = some k → k.rec_.r.join ≠ 0 ∨ k.rec_.walk ≠ none →
      ⟨k.rec_.r.join, k.rec_.r.asid, false, true, k.q, k.rec_.walk⟩ ∈ (killTask c s).decrs) ∧
  (∀ (s : State) (q : Nat),
    ((queue s q).state = 3 ∨ (queue s q).state = 5 → queueEmpty s q = true →
      exec (.queueTorn q) s = .next (updQueue q (fun k => { k with state := 4 }) s)) ∧
    ((queue s q).state ≠ 3 ∧ (queue s q).state ≠ 5 ∨ queueEmpty s q = false → exec (.queueTorn q) s = .next s)) ∧
  (∀ (s : State) (n : Nat) (x : QRec), s.recWait[n]? = some x →
    (copyWaits { s with recWait := s.recWait.take n } x.r.queue x.r = true → exec (.recCopyEnter n) s = .next s) ∧
    (copyWaits { s with recWait := s.recWait.take n } x.r.queue x.r = false →
      (x.r.bad (queue s x.r.queue).asid true = true ∨ (queue s x.r.queue).accepts = false →
        exec (.recCopyEnter n) s = .next (discardRec x.r.queue x { s with recWait := listDel s.recWait n })) ∧
      (x.r.bad (queue s x.r.queue).asid true = false → (queue s x.r.queue).accepts = true → x.r.gang = 0 →
        ((queue s x.r.queue).cap ≤ ((queue s x.r.queue).lane x.r.prio).length → exec (.recCopyEnter n) s = .next s) ∧
        (((queue s x.r.queue).lane x.r.prio).length < (queue s x.r.queue).cap →
          ∃ (t : State), exec (.recCopyEnter n) s = .next t ∧ t.recWait = listDel s.recWait n ∧
            (queue t x.r.queue).lane x.r.prio = (queue s x.r.queue).lane x.r.prio ++ [{ x with enq := s.ns }]))))

/-- 12 R311, R318, R320 to R330; 13 R355.
Where the spec leaves a point open it follows the model's choice: log entries 35, 36, 38, 41, 42, 43, 44, 45, 46, 102. -/
def Obligations.DispatchAndGraphWalks : Prop :=
  let gone (s t : State) (c : Cand) : Prop := if c.gang then t.gangs = s.gangs.filter (fun g => !(g.q == c.q && g.members == c.members))
    else (queue t c.q).lane c.prio = ((queue s c.q).lane c.prio).drop 1
  (∀ (s : State) (c : Cand) (l : List (Nat × Option Rect)), selectNext s = .place c l → c.isSaved = false →
    ∃ (t : State), exec .hubDispatch s = .next t ∧ gone s t c ∧
      ∀ j x w rect, c.members[j]? = some x → l[j]? = some (w, rect) → (∀ (i : Nat) (u : Nat × Option Rect), l[i]? = some u → u.1 = w → i = j) →
        (core t w).cstat = 1 ∧ (thr t w).pc = pcOf x.r.code ∧ (thr t w).asid = x.r.asid ∧ (thr t w).district = none ∧
        (thr t w).task = some ⟨c.q, x, s.nextId, rect⟩ ∧ (thr t w).getX 2 = BitVec.ofNat 64 x.r.frame ∧ (thr t w).getX 3 = x.r.d3 ∧
        (thr t w).getX 4 = BitVec.ofNat 64 x.r.join ∧ (∀ i, i < 2 ∨ 4 < i → (thr t w).getX i = 0) ∧ (thr t w).age = 0 ∧
        (thr t w).status = ⟨BitVec.ofNat 2 x.r.prio, false, false, false, true, false⟩) ∧
  (∀ (s : State) (c : Cand),
    (selectNext s = .never c → c.isSaved = false → ∃ (t : State), exec .hubDispatch s = .next t ∧ gone s t c ∧
      ∀ x, x ∈ c.members → x.r.join ≠ 0 ∨ x.walk ≠ none → ⟨x.r.join, x.r.asid, false, true, c.q, x.walk⟩ ∈ t.decrs) ∧
    (selectNext s = .nothing ∨ selectNext s = .restore c → exec .hubDispatch s = .next (noteFirst s))) ∧
  (∀ (s : State) (n : Nat) (c : Cand) (x : QRec) (y : SavedTask), selectNext s = .restore c → s.saved[n]? = some y → c.members = [x] →
    x.saved = some y.id → savedOf s x = some y →
    (y.dist = none ∨ (∃ k, y.dist = some k ∧ ∀ p, p ∈ y.elems → p.2.mat.clean = none) →
      ∃ (t : State), exec (.taskRestore n) s = .next t ∧ (core t y.core).cstat = 1 ∧ (core t y.core).dhalt = y.dhalt ∧
        (thr t y.core = { y.t with task := some ⟨(y.t.task.map (fun u => u.q)).getD 0, { x with saved := none }, s.nextId,
          y.t.task.bind (fun u => u.reserved)⟩ }) ∧
        t.saved = s.saved.filter (fun z => z.id != y.id) ∧
        ∀ k, y.dist = some k → mget? t.districts (y.t.district.getD 0) = some { k with gated := y.dhalt || y.dbrk } ∧
          ∀ e z, (e, z) ∈ y.elems → (∀ u, (e, u) ∈ y.elems → u = z) → elem t e = z.shift (s.fc - y.at_))) ∧
  (∀ (s : State) (n : Nat), (∀ c, selectNext s ≠ .restore c) → exec (.taskRestore n) s = .next s) ∧
  (∀ (s : State) (port v : Nat),
    (ownerOk s port = true → ∃ (t : State), exec (.schCtlWrite port v) s = .next t ∧ pwait t = nb v 31 16 ∧ t.queues = s.queues) ∧
    (ownerOk s port = false → exec (.schCtlWrite port v) s = .next s)) ∧
  (∀ (s : State) (c : Cand), firstWaiting s = some c →
    (∀ tm v, s.rankFirst = some (c.key.1, c.key.2, tm) → pwait s ≠ 0 → s.pwaitBusy = none → tm + pwait s * 1000 ≤ s.ns →
      dispatchable s c = false → victim s c.e = some v →
      ∃ (t : State), exec .pwaitPreemption s = .next t ∧ (core t v).cstat = 4 ∧ t.pwaitBusy = some v ∧
        ∀ w, w ∈ gangCores s v → (core t w).cstat = 4) ∧
    (pwait s = 0 ∨ s.pwaitBusy ≠ none ∨ dispatchable s c = true ∨ victim s c.e = none →
      exec .pwaitPreemption s = .next (noteFirst s)) ∧
    (∀ tm, s.rankFirst = some (c.key.1, c.key.2, tm) → s.ns < tm + pwait s * 1000 → exec .pwaitPreemption s = .next s)) ∧
  (∀ (s s0 s1 : State) (d : Decr) (rest : List Decr), s.decrs = d :: rest → d.walk = none →
    (∀ c, hubXlate { s with decrs := rest } d.asid d.supv d.join needRW false = (.error c, s0) →
      exec .joinDecrement s = .next (noteErr d.q 0x80 c.toNat s0)) ∧
    (∀ p, hubXlate { s with decrs := rest } d.asid d.supv d.join needRW false = (.ok p, s0) →
      s1 = (hubXlate { s with decrs := rest } d.asid d.supv d.join needRW true).2 →
      ((migAt s0 p).isSome = true → exec .joinDecrement s = .next (meetFrozen .hub p { s0 with decrs := d :: s0.decrs })) ∧
      ((migAt s0 p).isSome = false → placeReadPois s1 p 16 = true → exec .joinDecrement s = .next (noteErr d.q 0x80 0x109 s1)) ∧
      (∀ w ra, (migAt s0 p).isSome = false → isPeer p = false → placeReadPois s1 p 16 = false →
        w = leNat ((placeRead s1 p 16).take 8) → ra = leNat ((placeRead s1 p 16).drop 8) →
        (w % 2 ^ 32 = 0 → exec .joinDecrement s = .next (updQueue d.q (fun k => { k with errCause := 0x244 }) s1)) ∧
        (∀ u, w % 2 ^ 32 ≠ 0 → u = (if d.cancel then w / 2 ^ 33 * 2 ^ 33 + 2 ^ 32 + (w % 2 ^ 32 - 1) else w - 1) →
          (w % 2 ^ 32 ≠ 1 ∨ ra = 0 → exec .joinDecrement s = .next (placeWrite s1 p (toBytes 8 u) false)) ∧
          (w % 2 ^ 32 = 1 → ra ≠ 0 → exec .joinDecrement s = .next
            (makeCopy d (ra % 2 ^ 56 / 32 * 32) (d.cancel || w.testBit 32) (placeWrite s1 p (toBytes 8 u) false))))))) ∧
  (∀ (s s1 : State) (d : Decr) (ra : Nat) (cancel : Bool),
    (∀ c, hubXlate s d.asid d.supv ra needR true = (.error c, s1) → makeCopy d ra cancel s = noteErr d.q 0x80 c.toNat s1) ∧
    (∀ p, hubXlate s d.asid d.supv ra needR true = (.ok p, s1) →
      (placeReadPois s1 p 32 = true → makeCopy d ra cancel s = noteErr d.q 0x80 0x109 s1) ∧
      (∀ r q, placeReadPois s1 p 32 = false → isPeer p = false →
        r = (if cancel then (Rec.ofBytes (placeRead s1 p 32)).cancelled else Rec.ofBytes (placeRead s1 p 32)) → q = r.queue →
        (r.bad (queue s1 q).asid true = true ∨ (queue s1 q).accepts = false →
          makeCopy d ra cancel s = discardRec q ⟨r, 0, none, none⟩ s1) ∧
        (r.bad (queue s1 q).asid true = false → (queue s1 q).accepts = true →
          (copyWaits s1 q r = true ∨ r.gang = 0 ∧ (queue s1 q).cap ≤ ((queue s1 q).lane r.prio).length →
            makeCopy d ra cancel s = { s1 with recWait := s1.recWait ++ [⟨r, 0, none, none⟩] }) ∧
          (copyWaits s1 q r = false → r.gang = 0 → ((queue s1 q).lane r.prio).length < (queue s1 q).cap →
            (queue (makeCopy d ra cancel s) q).lane r.prio = (queue s1 q).lane r.prio ++ [⟨r, s1.ns, none, none⟩]))))) ∧
  (∀ (s : State) (d : Decr) (rest : List Decr) (wid pid : Nat) (w : Walk) (p : WPath), s.decrs = d :: rest → d.walk = some (wid, pid) →
    s.walks.find? (fun w => w.id == wid) = some w → w.paths.find? (fun p => p.id == pid) = some p →
    ∀ mark, mark = (fun (v : Walk) => { v with cancel := v.cancel || d.cancel }) →
    (1 < p.waiting → exec .joinDecrement s =
      .next (stepPath w p [{ p with waiting := p.waiting - 1 }] mark { s with decrs := rest })) ∧
    (p.waiting ≤ 1 → w.stopped = true → exec .joinDecrement s = .next (stepPath w p [] mark { s with decrs := rest })) ∧
    (p.waiting ≤ 1 → w.stopped = false → exec .joinDecrement s =
      .next (stepPath w p (goOn p.id p.next ++ goOn s.nextId p.alt) mark { s with decrs := rest, nextId := s.nextId + 1 }))) ∧
  (∀ (s s1 : State) (c : Cand) (x : QRec) (w : Walk), (ranked s).find? (fun c => c.isGraph) = some c →
    c.members = [x] → w = ⟨s.nextId, x.r, c.q, x.r.code, 0, [], [], [], false, false⟩ →
    (64 ≤ s.walks.length → exec .graphWalkStart s = .next s) ∧
    (s.walks.length < 64 → x.r.code % 64 ≠ 0 → ∃ (u : State), u.walks = s.walks ++ [w] ∧
      exec .graphWalkStart s = .next (walkFault w 0 0x246 u)) ∧
    (s.walks.length < 64 → x.r.code % 64 = 0 →
      (∀ p, walkRead w x.r.code 64 s = (.wait (some p), s1) → exec .graphWalkStart s = .next (meetFrozen .hub p s)) ∧
      (∀ k, walkRead w x.r.code 64 s = (.fault k, s1) → ∃ (u : State), u.walks = s1.walks ++ [w] ∧
        exec .graphWalkStart s = .next (walkFault w 0 k.toNat u)) ∧
      (∀ bs nodes entry, walkRead w x.r.code 64 s = (.ok bs, s1) → leNat (bs.take 8) = entry * 2 ^ 16 + nodes → nodes < 2 ^ 16 →
        (0 < nodes → nodes ≤ 4096 → entry < nodes → leNat (bs.drop 8) = 0 →
          ∃ (t : State), exec .graphWalkStart s = .next t ∧ (c.isSaved = false → gone s1 t c) ∧
            t.walks = s1.walks ++ [{ w with nodes := nodes, paths := [⟨s1.nextId, entry, 0, 0, 0xFFFF, 0xFFFF⟩] }]) ∧
        (nodes = 0 ∨ 4096 < nodes ∨ nodes ≤ entry ∨ leNat (bs.drop 8) ≠ 0 → ∃ (u : State), u.walks = s1.walks ++ [w] ∧
          exec .graphWalkStart s = .next (walkFault w (entry % 2 ^ 16) 0x246 u))))) ∧
  (∀ (s s1 : State) (n : Nat) (w : Walk) (p : WPath) (a : Nat), readyPath s n = some (w, p) →
    a = (w.image + 0x40 + 64 * p.node) % 2 ^ 56 →
    (∀ (i : Instr), i = .graphTaskNode n ∨ i = .graphCondNode n ∨ i = .graphWhileNode n ∨ i = .graphLoopNode n ∨ i = .graphJoinNode n →
      (∀ pl, walkRead w a 64 s = (.wait (some pl), s1) → exec i s = .next (meetFrozen .hub pl s)) ∧
      (∀ c, walkRead w a 64 s = (.fault c, s1) → exec i s = .next (walkFault w p.node c.toNat s1)) ∧
      (∀ bs, walkRead w a 64 s = (.ok bs, s1) → readNode w.nodes bs = none → exec i s = .next (walkFault w p.node 0x246 s1))) ∧
    (∀ bs g, walkRead w a 64 s = (.ok bs, s1) → readNode w.nodes bs = some g →
      (∀ (f : Word) (s2 : State) (r : Rec), g.kind = 1 → drawFree s1 = (f, s2) → r = nodeRec w g f →
        (r.code = g.word ∧ r.frame = g.frame ∧ r.asid = w.rec_.asid) ∧
        (∀ s3, copyWaits s2 w.q r = false → enter w.q ⟨r, 0, some (w.id, p.id), none⟩ s2 = .queued s3 →
          exec (.graphTaskNode n) s = .next (stepPath w p [{ p with waiting := 1, next := g.next, alt := g.alt }] id s3)) ∧
        (copyWaits s2 w.q r = true ∨ enter w.q ⟨r, 0, some (w.id, p.id), none⟩ s2 = .full →
          exec (.graphTaskNode n) s = .next s)) ∧
      (∀ (s2 : State) (i : Instr), g.kind = 2 ∧ i = .graphCondNode n ∨ g.kind = 3 ∧ i = .graphWhileNode n →
        (∀ pl, walkRead w g.word 4 s1 = (.wait (some pl), s2) → exec i s = .next (meetFrozen .hub pl s)) ∧
        (∀ c, walkRead w g.word 4 s1 = (.fault c, s2) → exec i s = .next (walkFault w p.node c.toNat s2))) ∧
      (∀ (s2 : State) (cs : List Byte), walkRead w g.word 4 s1 = (.ok cs, s2) →
        (g.kind = 2 → exec (.graphCondNode n) s =
          .next (stepPath w p (goOn p.id (if leNat cs ≠ 0 then g.next else g.alt)) id s2)) ∧
        (g.kind = 3 → leNat cs = 0 → exec (.graphWhileNode n) s = .next (stepPath w p (goOn p.id g.alt) id s2)) ∧
        (g.kind = 3 → leNat cs ≠ 0 → (g.count = 0 ∨ mget w.passes p.node 0 + 1 ≤ g.count) → exec (.graphWhileNode n) s =
          .next (stepPath w p (goOn p.id g.next)
            (fun v => { v with passes := mset v.passes p.node (mget w.passes p.node 0 + 1) }) s2)) ∧
        (g.kind = 3 → leNat cs ≠ 0 → g.count ≠ 0 → g.count < mget w.passes p.node 0 + 1 →
          exec (.graphWhileNode n) s = .next (walkFault w p.node 0x246 s2))) ∧
      (g.kind = 4 → p.left ≠ 0 → exec (.graphLoopNode n) s = .next (loopTasks w p g s1)) ∧
      (∀ (s2 : State), g.kind = 4 → p.left = 0 →
        (∀ pl, loopDesc w g s1 = (.wait (some pl), s2) → exec (.graphLoopNode n) s = .next (meetFrozen .hub pl s)) ∧
        (∀ c, loopDesc w g s1 = (.fault c, s2) → exec (.graphLoopNode n) s = .next (walkFault w p.node c.toNat s2)) ∧
        (∀ pl k, loopDesc w g s1 = (.ok (pl, k), s2) →
          (k = 0 ∨ 252 < k → exec (.graphLoopNode n) s = .next (walkFault w p.node 0x246 s2)) ∧
          (0 < k → k ≤ 252 → exec (.graphLoopNode n) s = .next (loopTasks w { p with waiting := k, left := k, next := g.next } g
            (placeWrite s2 pl (toBytes 4 g.start) false))))) ∧
      (g.kind = 5 → mget w.joins p.node 0 + 1 = g.count → exec (.graphJoinNode n) s =
        .next (stepPath w p (goOn p.id g.next) (fun v => { v with joins := mdel v.joins p.node }) s1)) ∧
      (g.kind = 5 → mget w.joins p.node 0 + 1 < g.count → exec (.graphJoinNode n) s =
        .next (stepPath w p [] (fun v => { v with joins := mset v.joins p.node (mget w.joins p.node 0 + 1) }) s1))))

/-- 13 R349 to R356.
Where the spec leaves a point open it follows the model's choice: log entries 47, 48, 49, 55, 101. -/
def Obligations.CoreControlCommands : Prop :=
  (∀ (s : State) (port c : Nat), ownerOk s port = false ∨ 256 ≤ c → exec (.preempt port c) s = .next s ∧
    exec (.halt port c) s = .next s ∧ exec (.unhalt port c) s = .next s ∧ exec (.stop port c) s = .next s ∧
    exec (.run port c) s = .next s ∧ exec (.restart port c) s = .next s ∧ ∀ v, exec (.qcSdataWrite port c v) s = .next s) ∧
  (∀ (s : State) (port c : Nat), ownerOk s port = true → c < 256 →
    ((gangCores s c).all (canSave s) = true →
      (∃ (t : State), exec (.preempt port c) s = .next t ∧ ∀ w, w ∈ gangCores s c → (core t w).cstat = 4) ∧
      (gangCores s c = [c] → s.lockq.any (fun w => w.thread == (thr s c).id) = false →
        ∃ (t : State), exec (.preempt port c) s = .next t ∧
          thr t c = { thr s c with wait := if (thr s c).wait.reissued then .none else (thr s c).wait } ∧
          ∀ d k, (thr s c).district = some d → mget? s.districts d = some k →
            mget? t.districts d = some { k with gated := true })) ∧
    ((gangCores s c).all (canSave s) = false → exec (.preempt port c) s = .next s) ∧
    (∀ d k, (thr s c).district = some d → mget? s.districts d = some k → ((core s c).cstat = 1 ∨ (core s c).cstat = 2) →
      ∃ (t : State), exec (.halt port c) s = .next t ∧ (core t c).dhalt = true ∧ mget? t.districts d = some { k with gated := true }) ∧
    ((thr s c).district = none ∨ (core s c).cstat ≠ 1 ∧ (core s c).cstat ≠ 2 → exec (.halt port c) s = .next s) ∧
    ((core s c).dhalt = true ∨ (core s c).dbrk = true → ∃ (t : State), exec (.unhalt port c) s = .next t ∧
      (core t c).dhalt = false ∧ (core t c).dbrk = false ∧ thr t c = thr s c ∧
      ∀ d k, (thr s c).district = some d → mget? s.districts d = some k → ∃ k', mget? t.districts d = some k' ∧
        (k'.gated = true ↔ haltedBy t k = true ∨ k.needRoll = true)) ∧
    ((core s c).dhalt = false → (core s c).dbrk = false → exec (.unhalt port c) s = .next s) ∧
    ((core s c).cstat = 1 → ∃ (t : State), exec (.stop port c) s = .next t ∧ (core t c).cstat = 2 ∧
      ((thr s c).wait.enterable = true → (thr t c).wait = .none) ∧
      ((thr s c).wait.enterable = false → thr t c = thr s c)) ∧
    ((core s c).cstat ≠ 1 → exec (.stop port c) s = .next s) ∧
    ((core s c).cstat = 2 → exec (.run port c) s = .next (updCore s c (fun k => { k with cstat := 1 }))) ∧
    ((core s c).cstat ≠ 2 → exec (.run port c) s = .next s) ∧
    ((core s c).regpar = false → (core s c).cstat ≠ 0 → (core s c).cstat ≠ 4 →
      ∃ (t : State), exec (.restart port c) s = .next t ∧ (∀ r, (thr t c).getX r = 0) ∧ (thr t c).task = none ∧
        (thr t c).wait = .none ∧ (thr t c).pc = (if c % 64 = 0 then s.trust.entry else 0) ∧
        (core t c).cstat = (CoreState.reset c).cstat ∧ (core t c).depc = (core s c).depc ∧ (core t c).dcause = (core s c).dcause ∧
        (core t c).dtval = (core s c).dtval ∧ (core t c).dstatus = (core s c).dstatus ∧ (core t c).save = (core s c).save) ∧
    ((core s c).regpar = false → (core s c).cstat = 4 →
      exec (.restart port c) s = .next (updCore s c (fun k => { k with restartPend := true }))) ∧
    ((core s c).regpar = true ∨ (core s c).cstat = 0 → exec (.restart port c) s = .next s) ∧
    (∀ v, sdataOk s c = true →
      exec (.qcSdataWrite port c v) s = .next (sysWrite c (core s c).snum.toNat (BitVec.ofNat 64 v) s)) ∧
    (∀ v, sdataOk s c = false → exec (.qcSdataWrite port c v) s = .next (badAcc port s))) ∧
  (∀ (s : State) (port c : Nat), c < 256 →
    (sdataOk s c = true → exec (.qcSdataRead port c) s = .next s ∧ sdataValue s c = sysRead c (core s c).snum.toNat s) ∧
    (sdataOk s c = false → exec (.qcSdataRead port c) s = .next (badAcc port s) ∧ sdataValue s c = 0)) ∧
  (∀ (s : State) (c : Nat),
    ((thr s c).task = none ∨ (gangCores s c).all (saveReady s) = false → exec (.preemptSaveComplete c) s = .next s) ∧
    (∀ (u : Task), (thr s c).task = some u → (gangCores s c).all (saveReady s) = true →
      (∀ w, w ∈ gangCores s c → (core s w).restartPend = false) →
      (∃ (t : State), exec (.preemptSaveComplete c) s = .next t ∧ ∀ w, w ∈ gangCores s c →
        (core t w).cstat = 0 ∧ (thr t w).task = none ∧ t.pwaitBusy ≠ some w ∧ ∃ y, y ∈ t.saved ∧ y.core = w ∧ y.t = thr s w) ∧
      (gangCores s c = [c] → ∃ (t : State) (y : SavedTask), exec (.preemptSaveComplete c) s = .next t ∧ t.saved = s.saved ++ [y] ∧
        y.core = c ∧ y.t = thr s c ∧ y.dhalt = (core s c).dhalt ∧ y.dbrk = (core s c).dbrk ∧
        (∀ d k, (thr s c).district = some d → mget? s.districts d = some k → y.dist = some k ∧ mget? t.districts d = none) ∧
        (u.rec_.r.gang = 0 →
          (queue t u.q).lane u.rec_.r.prio = { u.rec_ with saved := some y.id } :: (queue s u.q).lane u.rec_.r.prio) ∧
        (u.rec_.r.gang ≠ 0 →
          t.gangs = s.gangs ++ [⟨u.rec_.r.asid, u.rec_.r.gang, 1, u.q, [{ u.rec_ with saved := some y.id }]⟩]))))

/-- 13 R342 to R345, R349, R350, R357; 14 R363; 17 R393, R403 to R405; 00 R11; 12 R313, R314; 18 R414.
Where the spec leaves a point open it follows the model's choice: log entries 13, 51, 52, 53, 81, 82, 92, 131. -/
def Obligations.MigrationRepairAndHubRegisters : Prop :=
  (∀ (s : State) (port q : Nat), ownerOk s port = false ∨ 4 ≤ q → ∀ v, exec (.migrationStart port q v) s = .next s ∧
    exec (.rpRemapWrite port q v) s = .next s ∧ exec (.rpCountClear port q) s = .next s ∧
    ∀ n, exec (.zoneMapWrite port q n v) s = .next s) ∧
  (∀ (s : State) (port q : Nat), ownerOk s port = true → q < 4 →
    (∀ (v asid va peer frame c : Nat) (s0 s1 : State) (xc : Word) (o : Owner), c = migOwner port q → o = ⟨c, (thr s c).asid, true⟩ →
      xc = BitVec.ofNat 64 (nb (v % 2 ^ 64) 55 4 * 16) → asid = bits (quarter s q).mig0 15 0 → va = bits (quarter s q).mig1 55 12 * 4096 →
      peer = bits (quarter s q).mig2 63 56 → frame = bits (quarter s q).mig2 55 12 → s0 = emptyCpl o xc s →
      ((quarter s q).mig ≠ none →
        exec (.migrationStart port q v) s = .next (setCpl o xc (2 * 2 ^ 28 + 0x049 * 2 ^ 16 + 0x30) 0 0 0 s0)) ∧
      ((quarter s q).mig = none → findLeaf asid va s0 = (none, s1) →
        exec (.migrationStart port q v) s = .next (setCpl o xc (2 * 2 ^ 28 + 0x049 * 2 ^ 16 + 0x30) 0 0 0 s1)) ∧
      (∀ a e, (quarter s q).mig = none → findLeaf asid va s0 = (some (a, e), s1) →
        (movable s1 e = false ∨ sameHome s1 (nb e 63 56) peer = true ∨ (isLocal s1 peer || isMember s1 peer) = false ∨
          moving s1 asid va (nb e 63 56) (nb e 55 12 * 4096) = true →
          exec (.migrationStart port q v) s = .next (setCpl o xc (2 * 2 ^ 28 + 0x049 * 2 ^ 16 + 0x30) 0 0 0 s1)) ∧
        (movable s1 e = true → sameHome s1 (nb e 63 56) peer = false → (isLocal s1 peer || isMember s1 peer) = true →
          moving s1 asid va (nb e 63 56) (nb e 55 12 * 4096) = false →
          exec (.migrationStart port q v) s = .next (updQuarter s1 q (fun k => { k with mig := some ⟨asid, va, nb e 63 56,
            nb e 55 12 * 4096, peer, frame, a, e, c, (thr s c).asid, xc, [], 0, [], none⟩ }))))) ∧
    (∀ n v, (n < 50 → ∃ (t : State), exec (.zoneMapWrite port q n v) s = .next t ∧
        mget (quarter t q).zmap n 0 = (if n % 2 = 0 then v % 2 ^ 64 else v % 2 ^ 36) ∧
        ∀ j, j ≠ n → mget (quarter t q).zmap j 0 = mget (quarter s q).zmap j 0) ∧
      (50 ≤ n → exec (.zoneMapWrite port q n v) s = .next s)) ∧
    (∀ v, (((quarter s q).remapEn = true ∧ columnHeld s q (quarter s q).remapCol.toNat = true ∨
          v.testBit 8 = true ∧ columnHeld s q (v % 32) = true ∨
          (quarter s q).remapEn = true ∧ v % 32 ≠ (quarter s q).remapCol.toNat ∨ 25 ≤ v % 32 →
        exec (.rpRemapWrite port q v) s = .next (updQuarter s q (fun k => { k with rpBusy := true }))) ∧
      (¬ ((quarter s q).remapEn = true ∧ columnHeld s q (quarter s q).remapCol.toNat = true) →
        ¬ (v.testBit 8 = true ∧ columnHeld s q (v % 32) = true) →
        ¬ ((quarter s q).remapEn = true ∧ v % 32 ≠ (quarter s q).remapCol.toNat) → v % 32 < 25 →
        exec (.rpRemapWrite port q v) s = .next (updQuarter s q (fun k => { k with
          remapEn := v.testBit 8, remapCol := BitVec.ofNat 5 v }))))) ∧
    exec (.rpCountClear port q) s = .next (updQuarter s q (fun k => { k with
      sramce := 0, sramue := 0, hbmce := 0, hbmue := 0, parfix := 0, rollback := 0, trans := 0, last := 0 }))) ∧
  (∀ (s : State) (q : Nat),
    ((quarter s q).mig = none → exec (.migrationEnd q) s = .next s) ∧
    (∀ (m : Migration), (quarter s q).mig = some m → m.opened = none →
      (m.reqs.length = m.queued.length → m.queued.length ≤ 1 →
        ∃ (u : State) (n mv : Nat), exec (.migrationEnd q) s = .next (setCpl m.owner m.cpl (2 ^ 28 + 0x30) n mv 0 u) ∧
        (quarter u q).mig = none ∧ (isLocal s m.oldPeer = true → n = m.queued.length ∧ mv = m.moved) ∧
        (m.queued = [] → s.reqs.any (m.holds s) = false → u.reqs = s.reqs ∧ u.agenda = m.refused.map Turn.party ++ s.agenda ∧
          (∀ k, k ∈ u.cores → ∀ e, e ∈ k.2.tlb → entCovers e m.asid m.va = false) ∧
          (∀ k, k ∈ u.quarters → ∀ e, e ∈ k.2.xlat → entCovers e m.asid m.va = false) ∧
          (isLocal s m.newPeer = false → m.leafAddr < devTop → u.dev = (placeWrite s (.dev m.leafAddr)
            (toBytes 8 (m.leaf % 4096 + m.newFrame * 4096 + m.newPeer * 2 ^ 56)) false).dev)) ∧
        (∀ r a, m.queued = [.req r] → r.place = .dev a → r.core < 256 → isLocal s m.newPeer = false →
          u.reqs = s.reqs ++ [{ r with place := .peer m.newPeer (m.newFrame * 4096 + a % 4096) }]) ∧
        (∀ r j a, m.queued = [.req r] → s.reqs.any (m.holds s) = false → r.place = .peer j a → r.kind = 1 → r.fn = 0 →
          isLocal s m.newPeer = true → isLocal s m.oldPeer = false → ∃ (w : State), u.dev =
            (writePlaces w (r.from (.dev (m.newFrame * 4096 + a % 4096))) r.bytes false).dev)) ∧
      (∀ p rest, m.queued = .party p :: rest → s.reqs.any (m.holds s) = false →
        ∃ (t : State) (n mv : Nat), exec (.migrationEnd q) s = .next t ∧ t.agenda = .party p :: .party (.queue q) :: s.agenda ∧
          (quarter t q).mig = some { m with queued := rest, opened := some (n, mv, true) } ∧
          (isLocal s m.oldPeer = true → n = m.queued.length ∧ mv = m.moved))) ∧
    (∀ (m : Migration) (n mv : Nat) (ok : Bool), (quarter s q).mig = some m → m.opened = some (n, mv, ok) →
      (m.queued = [] → exec (.migrationEnd q) s = .next (if ok then setCpl m.owner m.cpl (2 ^ 28 + 0x30) n mv 0
          (updQuarter { s with agenda := m.refused.map Turn.party ++ s.agenda } q (fun k => { k with mig := none }))
        else setCpl m.owner m.cpl (2 * 2 ^ 28 + 0x049 * 2 ^ 16 + 0x30) 0 0 0
          (updQuarter { s with agenda := m.refused.map Turn.party ++ s.agenda } q (fun k => { k with mig := none })))) ∧
      (∀ p rest, m.queued = .party p :: rest → ∃ (t : State), exec (.migrationEnd q) s = .next t ∧
        t.agenda = .party p :: .party (.queue q) :: s.agenda ∧ (quarter t q).mig = some { m with queued := rest }) ∧
      (∀ r rest, m.queued = .req r :: rest → exec (.migrationEnd q) s = .next (serveQueue q m.queued.length
        (forwardReq m (updQuarter s q (fun k => { k with mig := some { m with queued := rest } })) r))))) ∧
  (∀ (s : State) (port : Nat),
    (ownerOk s port = false → exec (.pinLoad port) s = .next s ∧ ∀ v, exec (.lmReload port v) s = .next s) ∧
    (ownerOk s port = true →
      (∃ (t : State), exec (.pinLoad port) s = .next t ∧ t.pins.length ≤ 8 ∧ (∀ e, e ∈ t.pins → bit (e.getD 0 0) 6 = true) ∧
        (descOk s 0 = false → t.pins = []) ∧ t.hub = s.hub) ∧
      (∀ v, (v.testBit 0 = true → ∃ (t : State), exec (.lmReload port v) s = .next t ∧
          ∀ e sp, e < 4 → sp < 2 ^ 16 → (sp = bits (BitVec.ofNat 64 v) 31 16 → mget? t.cmat (cmatKey e sp) = some (readCmat s sp)) ∧
            (sp ≠ bits (BitVec.ofNat 64 v) 31 16 → mget? t.cmat (cmatKey e sp) = mget? s.cmat (cmatKey e sp))) ∧
        (v.testBit 0 = false → exec (.lmReload port v) s = .next s))) ∧
    (∀ ofs n v, ¬ (0x100000 ≤ ofs ∧ ofs < 0x140000) → ofs % 8 ≠ 0 ∨ n ≠ 8 →
      exec (.registerWrite port ofs ⟨n, v⟩) s = .next (badAcc port s)) ∧
    (∀ ofs n v, 0x100000 ≤ ofs → ofs < 0x140000 → exec (.registerWrite port ofs ⟨n, v⟩) s =
      exec (.launchWindowWrite port (ofs % 2 ^ 18) ((toBytes n v).map (fun b => b.toNat))) s) ∧
    (∀ ofs n, hostRead s ofs n = if ofs % 8 ≠ 0 ∨ n ≠ 8 then 0 else hubRead s ofs) ∧
    (∀ ofs v m r, ofs % 8 = 0 → plainReg ofs = some (m, r) →
      (ownerOk s port = true → ∃ (t : State), exec (.registerWrite port ofs ⟨8, v⟩) s = .next t ∧
        hubRead t ofs = BitVec.ofNat 64 v &&& BitVec.ofNat 64 m ∧ ∀ o, o ≠ ofs → hubRaw t o = hubRaw s o) ∧
      (ownerOk s port = false → exec (.registerWrite port ofs ⟨8, v⟩) s = .next s)) ∧
    (∀ q v, q < 64 → exec (.registerWrite port (0x20000 + 64 * q) ⟨8, v⟩) s = exec (.hqBaseWrite port q v) s ∧
      (ownerOk s port = true → exec (.registerWrite port (0x20018 + 64 * q) ⟨8, v⟩) s = .next (updQueue q (fun k => { k with
        errFlags := k.errFlags &&& ~~~BitVec.ofNat 8 v }) s)) ∧
      (ownerOk s port = true → (queue s q).asid.toNat = v / 2 ^ 48 % 2 ^ 16 ∨ (queue s q).state = 0 → ∀ i,
        (v % 8 = 1 ∧ i = .enable port q ∨ v % 8 = 2 ∧ i = .disable port q ∨ v % 8 = 3 ∧ i = .teardown port q ∨
          v % 8 = 4 ∧ i = .reset port q ∨ v % 8 = 5 ∧ i = .off port q) →
        exec (.registerWrite port (0x20008 + 64 * q) ⟨8, v⟩) s = exec i (updQueue q (fun k => { k with
          agestep := BitVec.ofNat 8 (v / 2 ^ 32), asid := BitVec.ofNat 16 (v / 2 ^ 48) }) s))) ∧
    (∀ q v, q < 4 → exec (.registerWrite port (0x408018 + 65536 * q) ⟨8, v⟩) s = exec (.migrationStart port q v) s ∧
      exec (.registerWrite port (0x408400 + 65536 * q) ⟨8, v⟩) s = exec (.rpRemapWrite port q v) s ∧
      ∀ n, n < 50 → exec (.registerWrite port (0x408200 + 65536 * q + 8 * n) ⟨8, v⟩) s = exec (.zoneMapWrite port q n v) s) ∧
    (∀ c v a, c < 256 → a = 0x400000 + 65536 * (c / 64) + 256 * (c % 64) →
      exec (.registerWrite port (a + 0x48) ⟨8, v⟩) s = exec (.qcSdataWrite port c v) s ∧
      ∀ i, (v % 8 = 1 ∧ i = .preempt port c ∨ v % 8 = 2 ∧ i = .halt port c ∨ v % 8 = 3 ∧ i = .unhalt port c ∨
          v % 8 = 4 ∧ i = .stop port c ∨ v % 8 = 5 ∧ i = .run port c ∨ v % 8 = 6 ∧ i = .restart port c) →
        exec (.registerWrite port (a + 8) ⟨8, v⟩) s = exec i s)) ∧
  (∀ (s : State) (port ofs n v : Nat), port < 2 → hubKnown ofs = false → ¬ (0x100000 ≤ ofs ∧ ofs < 0x140000) →
    exec (.registerWrite port ofs ⟨n, v⟩) s = .next (hostEvent 0x20 s)) ∧
  (∀ (s : State) (line q : Nat), q = homeQuarter (64 * line) →
    (2 ^ 33 ≤ line → ∀ err, exec (.patrolRead line err) s = .next s) ∧
    (line < 2 ^ 33 → ∀ err, err ≠ 1 → err ≠ 2 →
      exec (.patrolRead line err) s = .next { s with weak := s.weak.filter (fun x => x.1 != .dev line) }) ∧
    (line < 2 ^ 33 →
      (s.weak.contains (.dev line, false) = false → ∃ (t : State), exec (.patrolRead line 1) s = .next t ∧
        (quarter t q).hbmce = satInc (quarter s q).hbmce ∧ (quarter t q).hbmue = (quarter s q).hbmue ∧
        (quarter t q).last = (quarter s q).last ∧ t.weak.contains (.dev line, false) = true ∧
        (quarter t q).logN = (quarter s q).logN + if (quarter s q).logBase = 0 then 0 else 1) ∧
      (∃ (t : State), exec (.patrolRead line 2) s = .next t ∧ (quarter t q).hbmue = satInc (quarter s q).hbmue ∧
        (quarter t q).logN = ((quarter s q).logN + if (quarter s q).logBase = 0 then 0 else 1) ∧
        ((quarter s q).logBase = 0 → isPois t.dev line = true ∧ t.dev.cells = s.dev.cells)) ∧
      (s.weak.contains (.dev line, false) = true → ∃ (t : State), exec (.patrolRead line 1) s = .next t ∧
        (quarter t q).hbmce = satInc (quarter s q).hbmce ∧ (quarter t q).last = satInc (quarter s q).last ∧
        (quarter t q).logN = (quarter s q).logN + if (quarter s q).logBase = 0 then 0 else 2)))
/-- 18 R418 to R420.
Where the spec leaves a point open it follows the model's choice: log entry 12. -/
def Obligations.RegulatorTicks : Prop :=
  (∀ (s : State) (v : Nat),
    (s.ns < s.power.thAt + 1000000 →
      exec (.thermalTick v) s = .next { s with power := { s.power with temp := v % 256 } }) ∧
    (s.ns < s.power.curAt + 100000 → exec (.currentTick v) s = .next s) ∧
    (s.ns < s.power.capAt + 100000 → exec (.powerCapTick v) s = .next s) ∧
    (s.power.thAt + 1000000 ≤ s.ns →
      ∃ (t u : State), exec (.thermalTick v) s = .next t ∧ t = announceChange u ∧ u.gc = s.gc ∧ t.power = u.power ∧ t.power.thAt = s.ns ∧
      t.power.temp = v % 256 ∧ t.power.ncur = s.power.ncur ∧ t.power.ncap = s.power.ncap ∧
      (twarn s ≤ v → t.power.nth = s.power.nth - 1) ∧ (v + 5 ≤ twarn s → t.power.nth = min 56 (s.power.nth + 1)) ∧
      (v < twarn s → twarn s < v + 5 → t.power.nth = s.power.nth)) ∧
    (s.power.curAt + 100000 ≤ s.ns →
      ∃ (t u : State), exec (.currentTick v) s = .next t ∧ t = announceChange u ∧ u.gc = s.gc ∧ t.power = u.power ∧ t.power.curAt = s.ns ∧
      t.power.nth = s.power.nth ∧ t.power.ncap = s.power.ncap ∧
      (95 < v → t.power.ncur = s.power.ncur - 2) ∧ (v < 85 → t.power.ncur = min 56 (s.power.ncur + 1)) ∧
      (85 ≤ v → v ≤ 95 → t.power.ncur = s.power.ncur)) ∧
    (s.power.capAt + 100000 ≤ s.ns →
      ∃ (t u : State), exec (.powerCapTick v) s = .next t ∧ t = announceChange u ∧ u.gc = s.gc ∧ t.power = u.power ∧ t.power.capAt = s.ns ∧
      t.power.nth = s.power.nth ∧ t.power.ncur = s.power.ncur ∧ t.power.pwr = v % 65536 ∧
      (97 * s.power.capNow.1 < 100 * v * s.power.capNow.2 → t.power.ncap = s.power.ncap - 2) ∧
      (100 * v * s.power.capNow.2 < 90 * s.power.capNow.1 → t.power.ncap = min 56 (s.power.ncap + 1)) ∧
      (90 * s.power.capNow.1 ≤ 100 * v * s.power.capNow.2 → 100 * v * s.power.capNow.2 ≤ 97 * s.power.capNow.1 →
        t.power.ncap = s.power.ncap))) ∧
  (∀ (s : State), isMember s s.device = true → s.power.shareAt + 100000 ≤ s.ns →
    exec .rackShareSend s = .next { s with power := { s.power with shareAt := s.ns } }) ∧
  (∀ (s : State), isMember s s.device = false ∨ s.ns < s.power.shareAt + 100000 → exec .rackShareSend s = .next s) ∧
  (∀ (s : State) (dev p w b g : Nat), 
    (isMember s dev = true → dev ≠ s.device → ∃ (t : State), exec (.rackShareReceive dev p w b g) s = .next t ∧
      mget? t.power.peers dev = some (p, w % 65536, b % 65536, g % 65536) ∧
      (t.power.bmis = true ↔ ∃ x, x ∈ rackPeers t ∧ x.2 ≠ bits (rcap t) 15 0) ∧ t.power.capNow = s.power.capNow ∧
      t.power.nth = s.power.nth ∧ t.power.ncur = s.power.ncur ∧ t.power.ncap = s.power.ncap ∧ t.gc = s.gc) ∧
    (isMember s dev = false ∨ dev = s.device → exec (.rackShareReceive dev p w b g) s = .next s)) ∧
  (∀ (s : State) (v rails mask : Nat), mask = rails % 2 ^ Config.rails →
    (s.power.emerg = false → (ttrip s ≤ v ∨ mask ≠ 0) →
      exec (.emergencyThrottle v rails) s = .next (hostEvent 0x08 (raise0 0x347 (v % 256 * 2 ^ Config.rails + mask)
        { s with power := { s.power with temp := v % 256, emerg := true } }))) ∧
    (s.power.emerg = true ∨ v < ttrip s ∧ mask = 0 →
      exec (.emergencyThrottle v rails) s = .next { s with power := { s.power with temp := v % 256 } })) ∧
  (∀ (s : State) (v pct : Nat), ∃ (t : State), exec (.emergencyRelease v pct) s = .next t ∧ t.power.temp = v % 256 ∧
    (v + 5 ≤ ttrip s → pct < 90 → t.power.emerg = false) ∧ (ttrip s < v + 5 ∨ 90 ≤ pct → t.power.emerg = s.power.emerg) ∧
    t.power.nth = s.power.nth ∧ t.power.ncur = s.power.ncur ∧ t.power.ncap = s.power.ncap)

/-- 18 R409 to R413.
Where the spec leaves a point open it follows the model's choice: log entries 83, 84, 107, 135. -/
def Obligations.LinksAndTheDomain : Prop :=
  (∀ (s : State) (l : Nat) (k : Link), l < 22 → k = link s l →
    (k.carries (rxDir l) = true →
      (∃ (t : State), exec (.flitReceive l k.rxNext 1) s = .next t ∧ link t l = { k with rxNext := k.rxNext + 1, fails := 0 }) ∧
      (∀ n, n ≠ k.rxNext → exec (.flitReceive l n 1) s = .next s) ∧
      (∀ n, ∃ (t : State), exec (.flitReceive l n 0) s = .next t ∧ link t l = { k with fails := k.fails + 1 }) ∧
      (16 ≤ k.fails → ∃ (t : State), exec (.linkRetrain l (rxDir l)) s = .next t ∧
        link t l = { k with retrain := k.retrain ++ [rxDir l], fails := 0 }) ∧
      (k.fails < 16 → exec (.linkRetrain l (rxDir l)) s = .next s)) ∧
    (k.carries (rxDir l) = false → ∀ n g, exec (.flitReceive l n g) s = .next s) ∧
    (k.carries (txDir l) = true → (∃ (t : State), exec (.linkRetrain l (txDir l)) s = .next t ∧
      link t l = { k with retrain := k.retrain ++ [txDir l] })) ∧
    (∀ dir, dir < 2 → k.carries dir = false → exec (.linkRetrain l dir) s = .next s) ∧
    (∀ n, (k.carries (txDir l) = true → k.txAck ≤ n → n < k.txAck + 512 → ∃ (t : State), exec (.nakReplay l n) s = .next t ∧
        link t l = { k with txAck := n, txNext := max k.txNext (n + 1), retry := satInc k.retry }) ∧
      (k.carries (txDir l) = false ∨ n < k.txAck ∨ k.txAck + 512 ≤ n → exec (.nakReplay l n) s = .next s) ∧
      (k.txAck < n → n ≤ k.txAck + 512 →
        link (peerTurn (.flitAck l n) s) l = { k with txAck := n, txNext := max k.txNext n }) ∧
      (n ≤ k.txAck ∨ k.txAck + 512 < n → peerTurn (.flitAck l n) s = s)) ∧
    (∀ i, i < 18 →
      ((k.lane i = 1 ∨ k.lane i = 2 ∨ k.lane i = 4) → ∃ (t : State), exec (.laneFail l i) s = .next t ∧
        (link t l).lane i = 3 ∧ (link t l).retry = k.retry ∧ (∀ j, j ≠ i → (link t l).lane j = k.lane j) ∧
        (∀ op dir, k.cmd = some (op, i, dir) → (link t l).cmd = none) ∧
        ∀ dir, dir < 2 → k.lane i = dir + 1 → k.width dir = 1 → k.down dir = false →
          (link t l).down dir = true ∧ t.trust.evt = s.trust.evt ||| 0x02) ∧
      (k.lane i = 0 ∨ k.lane i = 3 → exec (.laneFail l i) s = .next s)) ∧
    (∀ (port v i : Nat), v < 2 ^ 64 → nb v 4 0 = l → nb v 12 8 = i →
      (ownerOk s port = false → exec (.spare port v) s = .next s ∧ exec (.turn port v) s = .next s ∧
        exec (.idleLane port v) s = .next s) ∧
      (ownerOk s port = true → ∀ (j : Instr),
        (nb v 21 20 = 1 ∧ j = .spare port v ∨ nb v 21 20 = 2 ∧ j = .turn port v ∨ nb v 21 20 = 3 ∧ j = .idleLane port v) →
        (17 < i → exec j s = .next (refuseCmd port (BitVec.ofNat 64 v) s)) ∧
        (i ≤ 17 → k.retrain ≠ [] → ∃ (t : State), exec j s = .next t ∧
          link t l = { k with cmdWait := k.cmdWait ++ [(port, BitVec.ofNat 64 v)] }) ∧
        (i ≤ 17 → k.retrain = [] → k.cmd ≠ none ∨ cmdOk k (nb v 21 20) i = false →
          exec j s = .next (refuseCmd port (BitVec.ofNat 64 v) s))) ∧
      (ownerOk s port = true → k.retrain = [] → k.cmd = none → i < 18 →
        (nb v 21 20 = 1 → k.lane i = 0 → ∃ (t : State), exec (.spare port v) s = .next t ∧
          link t l = { k with lanes := mset k.lanes i 4, cmd := some (1, i, nb v 16 16) }) ∧
        (∀ dir, nb v 21 20 = 2 → dir < 2 → k.lane i = dir + 1 → 1 < k.width dir → ∃ (t : State), exec (.turn port v) s = .next t ∧
          link t l = { k with
            lanes := mset k.lanes i 4, cmd := some (2, i, 1 - dir),
            retry := if dir = txDir l ∧ k.txAck < k.txNext then satInc k.retry else k.retry }) ∧
        (nb v 21 20 = 3 → k.lane i = 3 →
          ∃ (t : State), exec (.idleLane port v) s = .next t ∧ link t l = { k with lanes := mset k.lanes i 0 }) ∧
        (∀ dir, nb v 21 20 = 3 → dir < 2 → k.lane i = dir + 1 → 1 < k.width dir →
          ∃ (t : State), exec (.idleLane port v) s = .next t ∧ link t l = { k with
            lanes := mset k.lanes i 0,
            retry := if dir = txDir l ∧ k.txAck < k.txNext then satInc k.retry else k.retry }))) ∧
    (k.cmd = none → ∀ ok, exec (.laneTrained l ok) s = .next s) ∧
    (∀ op i dir, k.cmd = some (op, i, dir) → dir < 2 →
      (∃ (t : State), exec (.laneTrained l 1) s = .next t ∧ (link t l).lane i = dir + 1 ∧
        (link t l).cmd = none ∧ (link t l).down dir = false ∧ t.device = (if s.device = 0xFF then slotOf else s.device)) ∧
      (∃ (t : State), exec (.laneTrained l 0) s = .next t ∧ (link t l).lane i = 3 ∧ (link t l).cmd = none)) ∧
    (∀ dir, dir < 2 →
      (k.cmdWait = [] ∨ k.retrain.filter (fun x => x != dir) ≠ [] → ∃ (t : State), exec (.retrainingEnd ⟨l, dir⟩) s = .next t ∧
        link t l = { k with retrain := k.retrain.filter (fun x => x != dir) } ∧
        t.device = (if s.device = 0xFF then slotOf else s.device)) ∧
      (∀ port v, k.cmdWait = [(port, v)] → k.retrain.filter (fun x => x != dir) = [] →
        exec (.retrainingEnd ⟨l, dir⟩) s = .next (linkCmd port v (updLink l (fun k => { k with cmdWait := [] })
          (takeNumber (updLink l (fun k => { k with retrain := [] }) s)))))) ∧
    (∀ dir, 2 ≤ dir → exec (.retrainingEnd ⟨l, dir⟩) s = .next s)) ∧
  (∀ (s : State) (port v : Nat), ownerOk s port = true → v < 2 ^ 64 → 21 < nb v 4 0 → ∀ (j : Instr),
    (nb v 21 20 = 1 ∧ j = .spare port v ∨ nb v 21 20 = 2 ∧ j = .turn port v ∨ nb v 21 20 = 3 ∧ j = .idleLane port v) →
    exec j s = .next (refuseCmd port (BitVec.ofNat 64 v) s)) ∧
  (∀ (s : State) (port : Nat),
    (ownerOk s port = false ∨ staysMember s s.device = false → exec (.leave port) s = .next s) ∧
    (ownerOk s port = true → staysMember s s.device = true → ∃ (t : State), exec (.leave port) s = .next t ∧ t.members = s.members ∧
      t.memberAt = s.memberAt ++ [(boundary (boundary (s.ns + 100000)), s.device, false)] ∧
      (inGroup s = true → s.gc.leaving = none → t.gc.leaving = some (boundary (s.ns + 100000))))) ∧
  (∀ (s : State) (tm dev : Nat) (e : Bool),
    (s.memberAt.filter (fun c => decide (c.1 ≤ s.ns)) = [] → exec .membershipChange s = .next s) ∧
    (s.memberAt.filter (fun c => decide (c.1 ≤ s.ns)) = [(tm, dev, e)] →
      (isMember s dev = e → exec .membershipChange s =
        .next { s with memberAt := s.memberAt.filter (fun c => decide (s.ns < c.1)) }) ∧
      (isMember s dev ≠ e →
        e = true ∨ s.quarters.all (fun q => q.2.mig.isNone) = true ∧ s.reqs.all (fun r => !r.place.isAt dev) = true ∧
          s.tagq.all (fun w => !w.place.isAt dev) = true ∧ s.engines.all (fun x => awayNode s x != some dev) = true →
        ∃ (t : State), exec .membershipChange s = .next t ∧ t.memberAt = s.memberAt.filter (fun c => decide (s.ns < c.1)) ∧
          t.members = (if e = true then setIns s.members dev else setDel s.members dev) ∧ t.trust.evt = s.trust.evt ||| 0x04 ∧
          (core t 0).events = (core s 0).events ++ [⟨0x344, BitVec.ofNat 64 (dev * 2 + if e then 1 else 0), 0⟩]) ∧
      (∀ r, e = false → isMember s dev = true → s.quarters.all (fun q => q.2.mig.isNone) = true → s.tagq = [] → s.engines = [] →
        s.reqs = [r] → r.place.isAt dev = true → r.wait = true → (r.kind = 0 ∨ r.kind = 2) → (thr s r.core).id = r.thread →
        ∃ (t : State), exec .membershipChange s = .next t ∧ t.reqs = [] ∧ (thr t r.core).wait = .again false ∧
          t.members = setDel s.members dev) ∧
      (∀ q k m, e = false → isMember s dev = true → s.quarters.filter (fun q => q.2.mig.isSome) = [(q, k)] → k.mig = some m →
        m.opened = none → m.queued = [] → m.names s dev = true →
        ∃ (u : State), exec .membershipChange s = .next (hostEvent 0x04 (raise0 0x344 (dev * 2) (noteCap
          (loseAt dev (setCpl m.owner m.cpl (2 * 2 ^ 28 + 0x049 * 2 ^ 16 + 0x30) 0 0 0 u))))) ∧ (quarter u q).mig = none ∧
          u.members = setDel s.members dev))) ∧
  (∀ (s : State) (dev : Nat),
    ((∀ j, linkTo dev = some j → (link s j).dnab = false ∨ (link s j).dnba = false) ∨ staysMember s dev = false →
      exec (.deviceDeparture dev) s = .next s) ∧
    (∀ j, linkTo dev = some j → (link s j).dnab = true → (link s j).dnba = true → staysMember s dev = true →
      (inGroup s = false ∨ s.gc.members.filter (fun m => nodeOf s m.1 == dev && !m.2.told) = [] → exec (.deviceDeparture dev) s =
        .next { s with memberAt := s.memberAt ++ [(boundary (s.ns + 250000), dev, false)] }) ∧
      (∀ id m, inGroup s = true → s.gc.members.filter (fun m => nodeOf s m.1 == dev && !m.2.told) = [(id, m)] →
        exec (.deviceDeparture dev) s =
          .next (declareSilent id { s with memberAt := s.memberAt ++ [(boundary (s.ns + 250000), dev, false)] })))) ∧
  (∀ (s : State) (dev tm : Nat),
    (staysMember s dev = false → peerTurn (.leave dev tm) s = s ∧ peerTurn (.departure dev tm) s = s) ∧
    (staysMember s dev = true → peerTurn (.leave dev tm) s =
      { s with memberAt := s.memberAt ++ [(boundary (max tm (s.ns + 100000)), dev, false)] }) ∧
    (staysMember s dev = true → inGroup s = false → peerTurn (.departure dev tm) s =
      { s with memberAt := s.memberAt ++ [(boundary (max tm (s.ns + 100000)), dev, false)] })) ∧
  (∀ (s : State) (dev tm id : Nat),
    (dev < 144 → isMember s dev = false →
      ∃ (t : State), exec (.domainJoin dev ⟨tm, id⟩) s = .next t ∧
        t.memberAt = s.memberAt ++ [(boundary (max tm (s.ns + 100000)), dev, true)] ∧ t.members = s.members ∧
        t.device = (if dev = slotOf ∧ s.device = 0xFF then slotOf else s.device) ∧
        (dev ≠ slotOf → mget t.ids dev 0 = id % 2 ^ 64)) ∧
    (144 ≤ dev ∨ isMember s dev = true → exec (.domainJoin dev ⟨tm, id⟩) s = .next s))
/-- 18 R414 to R417, R421, R422; 03 R75.
Where the spec leaves a point open it follows the model's choice: log entries 7, 85, 86, 87, 88, 89, 90. -/
def Obligations.HostsTransportAndFirmware : Prop :=
  (∀ (s : State) (port v new : Nat) (ok : Prop), v < 2 ^ 64 → new = nb v 1 0 →
    ok = (s.trust.owner = nb v 3 2 ∧ new ≤ 2 ∧
      (ownerOk s port = true ∨ port < 2 ∧ new = port + 1 ∧ (s.trust.owner = 0 ∨ s.trust.stale = true))) →
    (ok → ∃ (t : State), exec (.ownerCas port v) s = .next t ∧ t.trust.owner = new ∧ t.trust.stale = false ∧ t.trust.beatAt = s.ns ∧
      t.trust.evt = s.trust.evt ||| 0x10 ∧ (core t 0).events = (core s 0).events ++ [⟨0x345, BitVec.ofNat 64 new, 0⟩]) ∧
    (¬ ok → exec (.ownerCas port v) s = .next s)) ∧
  (∀ (s : State) (port : Nat),
    (port < 2 → s.trust.owner = port + 1 →
      exec (.ownerHeartbeat port) s = .next { s with trust := { s.trust with beatAt := s.ns, stale := false } }) ∧
    (2 ≤ port ∨ s.trust.owner ≠ port + 1 → exec (.ownerHeartbeat port) s = .next s)) ∧
  (∀ (s : State),
    (s.trust.owner ≠ 0 → ownerTimeout s ≠ 0 → s.trust.beatAt + ownerTimeout s * 1000000 ≤ s.ns →
      exec .ownerStale s = .next { s with trust := { s.trust with stale := true } }) ∧
    (s.trust.owner = 0 ∨ ownerTimeout s = 0 ∨ s.ns < s.trust.beatAt + ownerTimeout s * 1000000 → exec .ownerStale s = .next s)) ∧
  (∀ (s : State) (port ofs : Nat) (bytes : List Nat) (a : Nat), a = bits (hubRaw s 0x1F420) 38 32 * 2 ^ 32 + ofs →
    (2 ≤ port ∨ s.trust.owner ≠ port + 1 ∨ 2 ^ 32 < ofs + bytes.length → exec (.bar2MemoryWrite port ofs bytes) s = .next s) ∧
    (port < 2 → s.trust.owner = port + 1 → ofs + bytes.length ≤ 2 ^ 32 →
      (∀ b, bytes = [b] → (migAt s (.dev a)).isSome = true → exec (.bar2MemoryWrite port ofs bytes) s =
        .next (sendReq (peerReq (.dev a) 1 0 [] (BitVec.ofNat 64 (b % 256)) 0 1) s)) ∧
      ((∀ j, j < bytes.length → migAt s (.dev (a + j)) = none) → a + bytes.length ≤ devTop → memOk s →
        ∃ (t : State), exec (.bar2MemoryWrite port ofs bytes) s = .next t ∧
          (∀ j, j < bytes.length → cellGet t.dev.cells (a + j) = BitVec.ofNat 8 (bytes.getD j 0)) ∧
          (∀ j n, j < n → (bar2Read s ofs n).getD j 0 = cellGet s.dev.cells (a + j)) ∧
          (∀ b, b < a ∨ a + bytes.length ≤ b → isPois s.dev (b / 64) = false →
            cellGet t.dev.cells b = cellGet s.dev.cells b)))) ∧
  (∀ (s : State) (node id seq ack op fn w pa b e : Nat) (bytes : List Nat) (s1 : State),
    s1 = { s with packets := s.packets.filter (fun p => p.node != node || decide (ack ≤ p.seq)) } →
    (node < 144 ∨ 1024 ≤ node ∨ peerValid s node = false ∨ peerIdentity s node ≠ id →
      exec (.scaleoutPacketReceive node ⟨id, seq, ack⟩ ⟨op, fn, w, pa, b, e, bytes⟩) s = .next s) ∧
    (144 ≤ node → node < 1024 → peerValid s node = true → peerIdentity s node = id →
      (seq ≠ mget s.peerSeq (2 * node) 0 → exec (.scaleoutPacketReceive node ⟨id, seq, ack⟩ ⟨op, fn, w, pa, b, e, bytes⟩) s = .next s1) ∧
      (∀ s2, seq = mget s.peerSeq (2 * node) 0 → s2 = { s1 with peerSeq := mset s.peerSeq (2 * node) (seq + 1) } →
        (op = 1 → exec (.scaleoutPacketReceive node ⟨id, seq, ack⟩ ⟨op, fn, w, pa, b, e, bytes⟩) s =
          .next (peerStore pa (bytes.map (BitVec.ofNat 8)) s2)) ∧
        (op = 2 → exec (.scaleoutPacketReceive node ⟨id, seq, ack⟩ ⟨op, fn, w, pa, b, e, bytes⟩) s =
          .next (peerAtomic fn w pa (BitVec.ofNat 64 b) (BitVec.ofNat 64 e) [] s2)) ∧
        (op ≠ 1 → op ≠ 2 → exec (.scaleoutPacketReceive node ⟨id, seq, ack⟩ ⟨op, fn, w, pa, b, e, bytes⟩) s = .next s2)))) ∧
  (∀ (s : State) (n : Nat) (p : Packet), s.packets[n]? = some p → s.ns < p.sentAt + max 1 (bits (soCfg s) 15 0) * 1000 →
    exec (.scaleoutRetransmit n) s = .next s) ∧
  (∀ (s : State) (n : Nat) (p : Packet), s.packets[n]? = some p → p.sentAt + max 1 (bits (soCfg s) 15 0) * 1000 ≤ s.ns →
    (p.tries < max 1 (bits (soCfg s) 23 16) → exec (.scaleoutRetransmit n) s =
      .next { s with packets := listSet s.packets n { p with tries := p.tries + 1, sentAt := s.ns } }) ∧
    (∀ s1, max 1 (bits (soCfg s) 23 16) ≤ p.tries → s1 = failPacket p { s with packets := listDel s.packets n } →
      (p.engine = 0 ∨ s1.engines.any (fun e => e.id == p.engine) = false →
        exec (.scaleoutRetransmit n) s = .next (raise0 0x346 p.node s1)) ∧
      (p.engine ≠ 0 → s1.engines.any (fun e => e.id == p.engine) = true →
        exec (.scaleoutRetransmit n) s = .next { s1 with packets := s.packets }))) ∧
  (∀ (s : State) (port p : Nat),
    (attestBusy s (p % 2) = true → exec (.loadFirmware ⟨port, p⟩) s = .next (hostEvent 0x20 s)) ∧
    (attestBusy s (p % 2) = false → ownerOk s port = false ∨ s.trust.fwok = true → exec (.loadFirmware ⟨port, p⟩) s = .next s)) ∧
  (∀ (s : State) (port p a : Nat) (h body : List Byte), attestBusy s (p % 2) = false → ownerOk s port = true → s.trust.fwok = false →
    a = bits (hubRaw s 0x1F610) 55 6 * 64 → h = readBytes s.dev.cells a 256 → body = readBytes s.dev.cells (a + 256) (bodyLen h) →
    (imageFail h body ≠ 0 → ∃ (t : State), exec (.loadFirmware ⟨port, p⟩) s = .next t ∧
      t.trust.fail = BitVec.ofNat 8 (imageFail h body) ∧ t.trust.fwok = false ∧ t.dev = s.dev ∧ t.cores = s.cores) ∧
    (imageFail h body = 0 → ∃ (t : State), exec (.loadFirmware ⟨port, p⟩) s = .next t ∧ t.trust.fwok = true ∧ t.trust.fail = 0 ∧
      t.trust.svn = leNat (field h 4 4) ∧ t.trust.digest = Config.sha256 body ∧ t.dev = (placeWrite s (.dev Config.firmwareBase) body false).dev ∧
      ∀ c, c < 256 → (core t c).held = false ∧
        (c % 64 = 0 → (thr t c).pc = pcOf (Config.firmwareBase + leNat (field h 0x10 8))))) ∧
  (∀ (s : State) (h body : List Byte), h = Config.flash.take 256 → body = (Config.flash.drop 256).take (bodyLen h) →
    (imageFail h body = 0 → ∃ (t : State), exec .deviceReset s = .next t ∧ t.trust.fwok = true ∧ t.hub = State.reset.hub ∧
      t.dev = (placeWrite State.reset (.dev Config.firmwareBase) body false).dev) ∧
    (imageFail h body ≠ 0 → ∃ (t : State), exec .deviceReset s = .next t ∧ t.dev = State.reset.dev ∧ t.cores = State.reset.cores ∧
      t.trust.fail = BitVec.ofNat 8 (imageFail h body))) ∧
  (∀ (s : State) (port : Nat), port < 2 →
    (attestBusy s port = false → ∃ (t : State), exec (.attest port) s = .next t ∧ attestBusy t port = true ∧ t.trust.rpt = s.trust.rpt) ∧
    (attestBusy s port = true → exec (.attest port) s = .next (hostEvent 0x20 s)) ∧
    (attestBusy s port = false → exec (.attestComplete port) s = .next s) ∧
    (attestBusy s port = true → ∃ (t : State), exec (.attestComplete port) s = .next t ∧ attestBusy t port = false ∧
      ∀ j, j < 32 → mget t.trust.rpt (32 * port + j) 0 = (report s port).getD j 0))
end

