-- ==== Sys2Proof/Laws/State.lean ====
section
/-! SUPPORT. What each update of a state leaves alone: one lemma for each field, so that no proof unfolds a record update. -/

namespace Sys2Proof.Machine

/-! ## setCore -/

@[simp] theorem setCore_fc (s : State) (c : Nat) (k : CoreState) : (setCore s c k).fc = s.fc := rfl
@[simp] theorem setCore_ns (s : State) (c : Nat) (k : CoreState) : (setCore s c k).ns = s.ns := rfl
@[simp] theorem setCore_nsRem (s : State) (c : Nat) (k : CoreState) : (setCore s c k).nsRem = s.nsRem := rfl
@[simp] theorem setCore_ceiling (s : State) (c : Nat) (k : CoreState) : (setCore s c k).ceiling = s.ceiling := rfl
@[simp] theorem setCore_device (s : State) (c : Nat) (k : CoreState) : (setCore s c k).device = s.device := rfl
@[simp] theorem setCore_cur (s : State) (c : Nat) (k : CoreState) : (setCore s c k).cur = s.cur := rfl
@[simp] theorem setCore_agenda (s : State) (c : Nat) (k : CoreState) : (setCore s c k).agenda = s.agenda := rfl
@[simp] theorem setCore_freeIx (s : State) (c : Nat) (k : CoreState) : (setCore s c k).freeIx = s.freeIx := rfl
@[simp] theorem setCore_dev (s : State) (c : Nat) (k : CoreState) : (setCore s c k).dev = s.dev := rfl
@[simp] theorem setCore_loc (s : State) (c : Nat) (k : CoreState) : (setCore s c k).loc = s.loc := rfl
@[simp] theorem setCore_spad (s : State) (c : Nat) (k : CoreState) : (setCore s c k).spad = s.spad := rfl
@[simp] theorem setCore_tid (s : State) (c : Nat) (k : CoreState) : (setCore s c k).tid = s.tid := rfl
@[simp] theorem setCore_tagq (s : State) (c : Nat) (k : CoreState) : (setCore s c k).tagq = s.tagq := rfl
@[simp] theorem setCore_reqs (s : State) (c : Nat) (k : CoreState) : (setCore s c k).reqs = s.reqs := rfl
@[simp] theorem setCore_sigs (s : State) (c : Nat) (k : CoreState) : (setCore s c k).sigs = s.sigs := rfl
@[simp] theorem setCore_icinv (s : State) (c : Nat) (k : CoreState) : (setCore s c k).icinv = s.icinv := rfl
@[simp] theorem setCore_quarters (s : State) (c : Nat) (k : CoreState) : (setCore s c k).quarters = s.quarters := rfl
@[simp] theorem setCore_pins (s : State) (c : Nat) (k : CoreState) : (setCore s c k).pins = s.pins := rfl
@[simp] theorem setCore_hub (s : State) (c : Nat) (k : CoreState) : (setCore s c k).hub = s.hub := rfl
@[simp] theorem setCore_elems (s : State) (c : Nat) (k : CoreState) : (setCore s c k).elems = s.elems := rfl
@[simp] theorem setCore_switches (s : State) (c : Nat) (k : CoreState) : (setCore s c k).switches = s.switches := rfl
@[simp] theorem setCore_allot (s : State) (c : Nat) (k : CoreState) : (setCore s c k).allot = s.allot := rfl
@[simp] theorem setCore_districts (s : State) (c : Nat) (k : CoreState) : (setCore s c k).districts = s.districts := rfl
@[simp] theorem setCore_nextInv (s : State) (c : Nat) (k : CoreState) : (setCore s c k).nextInv = s.nextInv := rfl
@[simp] theorem setCore_nextThread (s : State) (c : Nat) (k : CoreState) : (setCore s c k).nextThread = s.nextThread := rfl
@[simp] theorem setCore_nextId (s : State) (c : Nat) (k : CoreState) : (setCore s c k).nextId = s.nextId := rfl
@[simp] theorem setCore_engines (s : State) (c : Nat) (k : CoreState) : (setCore s c k).engines = s.engines := rfl
@[simp] theorem setCore_bins (s : State) (c : Nat) (k : CoreState) : (setCore s c k).bins = s.bins := rfl
@[simp] theorem setCore_locks (s : State) (c : Nat) (k : CoreState) : (setCore s c k).locks = s.locks := rfl
@[simp] theorem setCore_lockq (s : State) (c : Nat) (k : CoreState) : (setCore s c k).lockq = s.lockq := rfl
@[simp] theorem setCore_wounds (s : State) (c : Nat) (k : CoreState) : (setCore s c k).wounds = s.wounds := rfl
@[simp] theorem setCore_dying (s : State) (c : Nat) (k : CoreState) : (setCore s c k).dying = s.dying := rfl
@[simp] theorem setCore_weak (s : State) (c : Nat) (k : CoreState) : (setCore s c k).weak = s.weak := rfl
@[simp] theorem setCore_cmat (s : State) (c : Nat) (k : CoreState) : (setCore s c k).cmat = s.cmat := rfl
@[simp] theorem setCore_lmWounds (s : State) (c : Nat) (k : CoreState) : (setCore s c k).lmWounds = s.lmWounds := rfl
@[simp] theorem setCore_lmEscal (s : State) (c : Nat) (k : CoreState) : (setCore s c k).lmEscal = s.lmEscal := rfl
@[simp] theorem setCore_lmRevokes (s : State) (c : Nat) (k : CoreState) : (setCore s c k).lmRevokes = s.lmRevokes := rfl
@[simp] theorem setCore_queues (s : State) (c : Nat) (k : CoreState) : (setCore s c k).queues = s.queues := rfl
@[simp] theorem setCore_gangs (s : State) (c : Nat) (k : CoreState) : (setCore s c k).gangs = s.gangs := rfl
@[simp] theorem setCore_decrs (s : State) (c : Nat) (k : CoreState) : (setCore s c k).decrs = s.decrs := rfl
@[simp] theorem setCore_recWait (s : State) (c : Nat) (k : CoreState) : (setCore s c k).recWait = s.recWait := rfl
@[simp] theorem setCore_walks (s : State) (c : Nat) (k : CoreState) : (setCore s c k).walks = s.walks := rfl
@[simp] theorem setCore_saved (s : State) (c : Nat) (k : CoreState) : (setCore s c k).saved = s.saved := rfl
@[simp] theorem setCore_pwaitBusy (s : State) (c : Nat) (k : CoreState) : (setCore s c k).pwaitBusy = s.pwaitBusy := rfl
@[simp] theorem setCore_rankFirst (s : State) (c : Nat) (k : CoreState) : (setCore s c k).rankFirst = s.rankFirst := rfl
@[simp] theorem setCore_gc (s : State) (c : Nat) (k : CoreState) : (setCore s c k).gc = s.gc := rfl
@[simp] theorem setCore_links (s : State) (c : Nat) (k : CoreState) : (setCore s c k).links = s.links := rfl
@[simp] theorem setCore_members (s : State) (c : Nat) (k : CoreState) : (setCore s c k).members = s.members := rfl
@[simp] theorem setCore_ids (s : State) (c : Nat) (k : CoreState) : (setCore s c k).ids = s.ids := rfl
@[simp] theorem setCore_farDown (s : State) (c : Nat) (k : CoreState) : (setCore s c k).farDown = s.farDown := rfl
@[simp] theorem setCore_memberAt (s : State) (c : Nat) (k : CoreState) : (setCore s c k).memberAt = s.memberAt := rfl
@[simp] theorem setCore_power (s : State) (c : Nat) (k : CoreState) : (setCore s c k).power = s.power := rfl
@[simp] theorem setCore_packets (s : State) (c : Nat) (k : CoreState) : (setCore s c k).packets = s.packets := rfl
@[simp] theorem setCore_peerSeq (s : State) (c : Nat) (k : CoreState) : (setCore s c k).peerSeq = s.peerSeq := rfl
@[simp] theorem setCore_trust (s : State) (c : Nat) (k : CoreState) : (setCore s c k).trust = s.trust := rfl

/-! ## updCore -/

@[simp] theorem updCore_fc (s : State) (c : Nat) (f : CoreState → CoreState) : (updCore s c f).fc = s.fc := rfl
@[simp] theorem updCore_ns (s : State) (c : Nat) (f : CoreState → CoreState) : (updCore s c f).ns = s.ns := rfl
@[simp] theorem updCore_nsRem (s : State) (c : Nat) (f : CoreState → CoreState) : (updCore s c f).nsRem = s.nsRem := rfl
@[simp] theorem updCore_ceiling (s : State) (c : Nat) (f : CoreState → CoreState) : (updCore s c f).ceiling = s.ceiling := rfl
@[simp] theorem updCore_device (s : State) (c : Nat) (f : CoreState → CoreState) : (updCore s c f).device = s.device := rfl
@[simp] theorem updCore_cur (s : State) (c : Nat) (f : CoreState → CoreState) : (updCore s c f).cur = s.cur := rfl
@[simp] theorem updCore_agenda (s : State) (c : Nat) (f : CoreState → CoreState) : (updCore s c f).agenda = s.agenda := rfl
@[simp] theorem updCore_freeIx (s : State) (c : Nat) (f : CoreState → CoreState) : (updCore s c f).freeIx = s.freeIx := rfl
@[simp] theorem updCore_dev (s : State) (c : Nat) (f : CoreState → CoreState) : (updCore s c f).dev = s.dev := rfl
@[simp] theorem updCore_loc (s : State) (c : Nat) (f : CoreState → CoreState) : (updCore s c f).loc = s.loc := rfl
@[simp] theorem updCore_spad (s : State) (c : Nat) (f : CoreState → CoreState) : (updCore s c f).spad = s.spad := rfl
@[simp] theorem updCore_tid (s : State) (c : Nat) (f : CoreState → CoreState) : (updCore s c f).tid = s.tid := rfl
@[simp] theorem updCore_tagq (s : State) (c : Nat) (f : CoreState → CoreState) : (updCore s c f).tagq = s.tagq := rfl
@[simp] theorem updCore_reqs (s : State) (c : Nat) (f : CoreState → CoreState) : (updCore s c f).reqs = s.reqs := rfl
@[simp] theorem updCore_sigs (s : State) (c : Nat) (f : CoreState → CoreState) : (updCore s c f).sigs = s.sigs := rfl
@[simp] theorem updCore_icinv (s : State) (c : Nat) (f : CoreState → CoreState) : (updCore s c f).icinv = s.icinv := rfl
@[simp] theorem updCore_quarters (s : State) (c : Nat) (f : CoreState → CoreState) : (updCore s c f).quarters = s.quarters := rfl
@[simp] theorem updCore_pins (s : State) (c : Nat) (f : CoreState → CoreState) : (updCore s c f).pins = s.pins := rfl
@[simp] theorem updCore_hub (s : State) (c : Nat) (f : CoreState → CoreState) : (updCore s c f).hub = s.hub := rfl
@[simp] theorem updCore_elems (s : State) (c : Nat) (f : CoreState → CoreState) : (updCore s c f).elems = s.elems := rfl
@[simp] theorem updCore_switches (s : State) (c : Nat) (f : CoreState → CoreState) : (updCore s c f).switches = s.switches := rfl
@[simp] theorem updCore_allot (s : State) (c : Nat) (f : CoreState → CoreState) : (updCore s c f).allot = s.allot := rfl
@[simp] theorem updCore_districts (s : State) (c : Nat) (f : CoreState → CoreState) : (updCore s c f).districts = s.districts := rfl
@[simp] theorem updCore_nextInv (s : State) (c : Nat) (f : CoreState → CoreState) : (updCore s c f).nextInv = s.nextInv := rfl
@[simp] theorem updCore_nextThread (s : State) (c : Nat) (f : CoreState → CoreState) : (updCore s c f).nextThread = s.nextThread := rfl
@[simp] theorem updCore_nextId (s : State) (c : Nat) (f : CoreState → CoreState) : (updCore s c f).nextId = s.nextId := rfl
@[simp] theorem updCore_engines (s : State) (c : Nat) (f : CoreState → CoreState) : (updCore s c f).engines = s.engines := rfl
@[simp] theorem updCore_bins (s : State) (c : Nat) (f : CoreState → CoreState) : (updCore s c f).bins = s.bins := rfl
@[simp] theorem updCore_locks (s : State) (c : Nat) (f : CoreState → CoreState) : (updCore s c f).locks = s.locks := rfl
@[simp] theorem updCore_lockq (s : State) (c : Nat) (f : CoreState → CoreState) : (updCore s c f).lockq = s.lockq := rfl
@[simp] theorem updCore_wounds (s : State) (c : Nat) (f : CoreState → CoreState) : (updCore s c f).wounds = s.wounds := rfl
@[simp] theorem updCore_dying (s : State) (c : Nat) (f : CoreState → CoreState) : (updCore s c f).dying = s.dying := rfl
@[simp] theorem updCore_weak (s : State) (c : Nat) (f : CoreState → CoreState) : (updCore s c f).weak = s.weak := rfl
@[simp] theorem updCore_cmat (s : State) (c : Nat) (f : CoreState → CoreState) : (updCore s c f).cmat = s.cmat := rfl
@[simp] theorem updCore_lmWounds (s : State) (c : Nat) (f : CoreState → CoreState) : (updCore s c f).lmWounds = s.lmWounds := rfl
@[simp] theorem updCore_lmEscal (s : State) (c : Nat) (f : CoreState → CoreState) : (updCore s c f).lmEscal = s.lmEscal := rfl
@[simp] theorem updCore_lmRevokes (s : State) (c : Nat) (f : CoreState → CoreState) : (updCore s c f).lmRevokes = s.lmRevokes := rfl
@[simp] theorem updCore_queues (s : State) (c : Nat) (f : CoreState → CoreState) : (updCore s c f).queues = s.queues := rfl
@[simp] theorem updCore_gangs (s : State) (c : Nat) (f : CoreState → CoreState) : (updCore s c f).gangs = s.gangs := rfl
@[simp] theorem updCore_decrs (s : State) (c : Nat) (f : CoreState → CoreState) : (updCore s c f).decrs = s.decrs := rfl
@[simp] theorem updCore_recWait (s : State) (c : Nat) (f : CoreState → CoreState) : (updCore s c f).recWait = s.recWait := rfl
@[simp] theorem updCore_walks (s : State) (c : Nat) (f : CoreState → CoreState) : (updCore s c f).walks = s.walks := rfl
@[simp] theorem updCore_saved (s : State) (c : Nat) (f : CoreState → CoreState) : (updCore s c f).saved = s.saved := rfl
@[simp] theorem updCore_pwaitBusy (s : State) (c : Nat) (f : CoreState → CoreState) : (updCore s c f).pwaitBusy = s.pwaitBusy := rfl
@[simp] theorem updCore_rankFirst (s : State) (c : Nat) (f : CoreState → CoreState) : (updCore s c f).rankFirst = s.rankFirst := rfl
@[simp] theorem updCore_gc (s : State) (c : Nat) (f : CoreState → CoreState) : (updCore s c f).gc = s.gc := rfl
@[simp] theorem updCore_links (s : State) (c : Nat) (f : CoreState → CoreState) : (updCore s c f).links = s.links := rfl
@[simp] theorem updCore_members (s : State) (c : Nat) (f : CoreState → CoreState) : (updCore s c f).members = s.members := rfl
@[simp] theorem updCore_ids (s : State) (c : Nat) (f : CoreState → CoreState) : (updCore s c f).ids = s.ids := rfl
@[simp] theorem updCore_farDown (s : State) (c : Nat) (f : CoreState → CoreState) : (updCore s c f).farDown = s.farDown := rfl
@[simp] theorem updCore_memberAt (s : State) (c : Nat) (f : CoreState → CoreState) : (updCore s c f).memberAt = s.memberAt := rfl
@[simp] theorem updCore_power (s : State) (c : Nat) (f : CoreState → CoreState) : (updCore s c f).power = s.power := rfl
@[simp] theorem updCore_packets (s : State) (c : Nat) (f : CoreState → CoreState) : (updCore s c f).packets = s.packets := rfl
@[simp] theorem updCore_peerSeq (s : State) (c : Nat) (f : CoreState → CoreState) : (updCore s c f).peerSeq = s.peerSeq := rfl
@[simp] theorem updCore_trust (s : State) (c : Nat) (f : CoreState → CoreState) : (updCore s c f).trust = s.trust := rfl

/-! ## updThr -/

@[simp] theorem updThr_fc (s : State) (c : Nat) (f : Thread → Thread) : (updThr s c f).fc = s.fc := rfl
@[simp] theorem updThr_ns (s : State) (c : Nat) (f : Thread → Thread) : (updThr s c f).ns = s.ns := rfl
@[simp] theorem updThr_nsRem (s : State) (c : Nat) (f : Thread → Thread) : (updThr s c f).nsRem = s.nsRem := rfl
@[simp] theorem updThr_ceiling (s : State) (c : Nat) (f : Thread → Thread) : (updThr s c f).ceiling = s.ceiling := rfl
@[simp] theorem updThr_device (s : State) (c : Nat) (f : Thread → Thread) : (updThr s c f).device = s.device := rfl
@[simp] theorem updThr_cur (s : State) (c : Nat) (f : Thread → Thread) : (updThr s c f).cur = s.cur := rfl
@[simp] theorem updThr_agenda (s : State) (c : Nat) (f : Thread → Thread) : (updThr s c f).agenda = s.agenda := rfl
@[simp] theorem updThr_freeIx (s : State) (c : Nat) (f : Thread → Thread) : (updThr s c f).freeIx = s.freeIx := rfl
@[simp] theorem updThr_dev (s : State) (c : Nat) (f : Thread → Thread) : (updThr s c f).dev = s.dev := rfl
@[simp] theorem updThr_loc (s : State) (c : Nat) (f : Thread → Thread) : (updThr s c f).loc = s.loc := rfl
@[simp] theorem updThr_spad (s : State) (c : Nat) (f : Thread → Thread) : (updThr s c f).spad = s.spad := rfl
@[simp] theorem updThr_tid (s : State) (c : Nat) (f : Thread → Thread) : (updThr s c f).tid = s.tid := rfl
@[simp] theorem updThr_tagq (s : State) (c : Nat) (f : Thread → Thread) : (updThr s c f).tagq = s.tagq := rfl
@[simp] theorem updThr_reqs (s : State) (c : Nat) (f : Thread → Thread) : (updThr s c f).reqs = s.reqs := rfl
@[simp] theorem updThr_sigs (s : State) (c : Nat) (f : Thread → Thread) : (updThr s c f).sigs = s.sigs := rfl
@[simp] theorem updThr_icinv (s : State) (c : Nat) (f : Thread → Thread) : (updThr s c f).icinv = s.icinv := rfl
@[simp] theorem updThr_quarters (s : State) (c : Nat) (f : Thread → Thread) : (updThr s c f).quarters = s.quarters := rfl
@[simp] theorem updThr_pins (s : State) (c : Nat) (f : Thread → Thread) : (updThr s c f).pins = s.pins := rfl
@[simp] theorem updThr_hub (s : State) (c : Nat) (f : Thread → Thread) : (updThr s c f).hub = s.hub := rfl
@[simp] theorem updThr_elems (s : State) (c : Nat) (f : Thread → Thread) : (updThr s c f).elems = s.elems := rfl
@[simp] theorem updThr_switches (s : State) (c : Nat) (f : Thread → Thread) : (updThr s c f).switches = s.switches := rfl
@[simp] theorem updThr_allot (s : State) (c : Nat) (f : Thread → Thread) : (updThr s c f).allot = s.allot := rfl
@[simp] theorem updThr_districts (s : State) (c : Nat) (f : Thread → Thread) : (updThr s c f).districts = s.districts := rfl
@[simp] theorem updThr_nextInv (s : State) (c : Nat) (f : Thread → Thread) : (updThr s c f).nextInv = s.nextInv := rfl
@[simp] theorem updThr_nextThread (s : State) (c : Nat) (f : Thread → Thread) : (updThr s c f).nextThread = s.nextThread := rfl
@[simp] theorem updThr_nextId (s : State) (c : Nat) (f : Thread → Thread) : (updThr s c f).nextId = s.nextId := rfl
@[simp] theorem updThr_engines (s : State) (c : Nat) (f : Thread → Thread) : (updThr s c f).engines = s.engines := rfl
@[simp] theorem updThr_bins (s : State) (c : Nat) (f : Thread → Thread) : (updThr s c f).bins = s.bins := rfl
@[simp] theorem updThr_locks (s : State) (c : Nat) (f : Thread → Thread) : (updThr s c f).locks = s.locks := rfl
@[simp] theorem updThr_lockq (s : State) (c : Nat) (f : Thread → Thread) : (updThr s c f).lockq = s.lockq := rfl
@[simp] theorem updThr_wounds (s : State) (c : Nat) (f : Thread → Thread) : (updThr s c f).wounds = s.wounds := rfl
@[simp] theorem updThr_dying (s : State) (c : Nat) (f : Thread → Thread) : (updThr s c f).dying = s.dying := rfl
@[simp] theorem updThr_weak (s : State) (c : Nat) (f : Thread → Thread) : (updThr s c f).weak = s.weak := rfl
@[simp] theorem updThr_cmat (s : State) (c : Nat) (f : Thread → Thread) : (updThr s c f).cmat = s.cmat := rfl
@[simp] theorem updThr_lmWounds (s : State) (c : Nat) (f : Thread → Thread) : (updThr s c f).lmWounds = s.lmWounds := rfl
@[simp] theorem updThr_lmEscal (s : State) (c : Nat) (f : Thread → Thread) : (updThr s c f).lmEscal = s.lmEscal := rfl
@[simp] theorem updThr_lmRevokes (s : State) (c : Nat) (f : Thread → Thread) : (updThr s c f).lmRevokes = s.lmRevokes := rfl
@[simp] theorem updThr_queues (s : State) (c : Nat) (f : Thread → Thread) : (updThr s c f).queues = s.queues := rfl
@[simp] theorem updThr_gangs (s : State) (c : Nat) (f : Thread → Thread) : (updThr s c f).gangs = s.gangs := rfl
@[simp] theorem updThr_decrs (s : State) (c : Nat) (f : Thread → Thread) : (updThr s c f).decrs = s.decrs := rfl
@[simp] theorem updThr_recWait (s : State) (c : Nat) (f : Thread → Thread) : (updThr s c f).recWait = s.recWait := rfl
@[simp] theorem updThr_walks (s : State) (c : Nat) (f : Thread → Thread) : (updThr s c f).walks = s.walks := rfl
@[simp] theorem updThr_saved (s : State) (c : Nat) (f : Thread → Thread) : (updThr s c f).saved = s.saved := rfl
@[simp] theorem updThr_pwaitBusy (s : State) (c : Nat) (f : Thread → Thread) : (updThr s c f).pwaitBusy = s.pwaitBusy := rfl
@[simp] theorem updThr_rankFirst (s : State) (c : Nat) (f : Thread → Thread) : (updThr s c f).rankFirst = s.rankFirst := rfl
@[simp] theorem updThr_gc (s : State) (c : Nat) (f : Thread → Thread) : (updThr s c f).gc = s.gc := rfl
@[simp] theorem updThr_links (s : State) (c : Nat) (f : Thread → Thread) : (updThr s c f).links = s.links := rfl
@[simp] theorem updThr_members (s : State) (c : Nat) (f : Thread → Thread) : (updThr s c f).members = s.members := rfl
@[simp] theorem updThr_ids (s : State) (c : Nat) (f : Thread → Thread) : (updThr s c f).ids = s.ids := rfl
@[simp] theorem updThr_farDown (s : State) (c : Nat) (f : Thread → Thread) : (updThr s c f).farDown = s.farDown := rfl
@[simp] theorem updThr_memberAt (s : State) (c : Nat) (f : Thread → Thread) : (updThr s c f).memberAt = s.memberAt := rfl
@[simp] theorem updThr_power (s : State) (c : Nat) (f : Thread → Thread) : (updThr s c f).power = s.power := rfl
@[simp] theorem updThr_packets (s : State) (c : Nat) (f : Thread → Thread) : (updThr s c f).packets = s.packets := rfl
@[simp] theorem updThr_peerSeq (s : State) (c : Nat) (f : Thread → Thread) : (updThr s c f).peerSeq = s.peerSeq := rfl
@[simp] theorem updThr_trust (s : State) (c : Nat) (f : Thread → Thread) : (updThr s c f).trust = s.trust := rfl

/-! ## wx -/

@[simp] theorem wx_fc (s : State) (i : Nat) (v : Word) : (wx s i v).fc = s.fc := rfl
@[simp] theorem wx_ns (s : State) (i : Nat) (v : Word) : (wx s i v).ns = s.ns := rfl
@[simp] theorem wx_nsRem (s : State) (i : Nat) (v : Word) : (wx s i v).nsRem = s.nsRem := rfl
@[simp] theorem wx_ceiling (s : State) (i : Nat) (v : Word) : (wx s i v).ceiling = s.ceiling := rfl
@[simp] theorem wx_device (s : State) (i : Nat) (v : Word) : (wx s i v).device = s.device := rfl
@[simp] theorem wx_cur (s : State) (i : Nat) (v : Word) : (wx s i v).cur = s.cur := rfl
@[simp] theorem wx_agenda (s : State) (i : Nat) (v : Word) : (wx s i v).agenda = s.agenda := rfl
@[simp] theorem wx_freeIx (s : State) (i : Nat) (v : Word) : (wx s i v).freeIx = s.freeIx := rfl
@[simp] theorem wx_dev (s : State) (i : Nat) (v : Word) : (wx s i v).dev = s.dev := rfl
@[simp] theorem wx_loc (s : State) (i : Nat) (v : Word) : (wx s i v).loc = s.loc := rfl
@[simp] theorem wx_spad (s : State) (i : Nat) (v : Word) : (wx s i v).spad = s.spad := rfl
@[simp] theorem wx_tid (s : State) (i : Nat) (v : Word) : (wx s i v).tid = s.tid := rfl
@[simp] theorem wx_tagq (s : State) (i : Nat) (v : Word) : (wx s i v).tagq = s.tagq := rfl
@[simp] theorem wx_reqs (s : State) (i : Nat) (v : Word) : (wx s i v).reqs = s.reqs := rfl
@[simp] theorem wx_sigs (s : State) (i : Nat) (v : Word) : (wx s i v).sigs = s.sigs := rfl
@[simp] theorem wx_icinv (s : State) (i : Nat) (v : Word) : (wx s i v).icinv = s.icinv := rfl
@[simp] theorem wx_quarters (s : State) (i : Nat) (v : Word) : (wx s i v).quarters = s.quarters := rfl
@[simp] theorem wx_pins (s : State) (i : Nat) (v : Word) : (wx s i v).pins = s.pins := rfl
@[simp] theorem wx_hub (s : State) (i : Nat) (v : Word) : (wx s i v).hub = s.hub := rfl
@[simp] theorem wx_elems (s : State) (i : Nat) (v : Word) : (wx s i v).elems = s.elems := rfl
@[simp] theorem wx_switches (s : State) (i : Nat) (v : Word) : (wx s i v).switches = s.switches := rfl
@[simp] theorem wx_allot (s : State) (i : Nat) (v : Word) : (wx s i v).allot = s.allot := rfl
@[simp] theorem wx_districts (s : State) (i : Nat) (v : Word) : (wx s i v).districts = s.districts := rfl
@[simp] theorem wx_nextInv (s : State) (i : Nat) (v : Word) : (wx s i v).nextInv = s.nextInv := rfl
@[simp] theorem wx_nextThread (s : State) (i : Nat) (v : Word) : (wx s i v).nextThread = s.nextThread := rfl
@[simp] theorem wx_nextId (s : State) (i : Nat) (v : Word) : (wx s i v).nextId = s.nextId := rfl
@[simp] theorem wx_engines (s : State) (i : Nat) (v : Word) : (wx s i v).engines = s.engines := rfl
@[simp] theorem wx_bins (s : State) (i : Nat) (v : Word) : (wx s i v).bins = s.bins := rfl
@[simp] theorem wx_locks (s : State) (i : Nat) (v : Word) : (wx s i v).locks = s.locks := rfl
@[simp] theorem wx_lockq (s : State) (i : Nat) (v : Word) : (wx s i v).lockq = s.lockq := rfl
@[simp] theorem wx_wounds (s : State) (i : Nat) (v : Word) : (wx s i v).wounds = s.wounds := rfl
@[simp] theorem wx_dying (s : State) (i : Nat) (v : Word) : (wx s i v).dying = s.dying := rfl
@[simp] theorem wx_weak (s : State) (i : Nat) (v : Word) : (wx s i v).weak = s.weak := rfl
@[simp] theorem wx_cmat (s : State) (i : Nat) (v : Word) : (wx s i v).cmat = s.cmat := rfl
@[simp] theorem wx_lmWounds (s : State) (i : Nat) (v : Word) : (wx s i v).lmWounds = s.lmWounds := rfl
@[simp] theorem wx_lmEscal (s : State) (i : Nat) (v : Word) : (wx s i v).lmEscal = s.lmEscal := rfl
@[simp] theorem wx_lmRevokes (s : State) (i : Nat) (v : Word) : (wx s i v).lmRevokes = s.lmRevokes := rfl
@[simp] theorem wx_queues (s : State) (i : Nat) (v : Word) : (wx s i v).queues = s.queues := rfl
@[simp] theorem wx_gangs (s : State) (i : Nat) (v : Word) : (wx s i v).gangs = s.gangs := rfl
@[simp] theorem wx_decrs (s : State) (i : Nat) (v : Word) : (wx s i v).decrs = s.decrs := rfl
@[simp] theorem wx_recWait (s : State) (i : Nat) (v : Word) : (wx s i v).recWait = s.recWait := rfl
@[simp] theorem wx_walks (s : State) (i : Nat) (v : Word) : (wx s i v).walks = s.walks := rfl
@[simp] theorem wx_saved (s : State) (i : Nat) (v : Word) : (wx s i v).saved = s.saved := rfl
@[simp] theorem wx_pwaitBusy (s : State) (i : Nat) (v : Word) : (wx s i v).pwaitBusy = s.pwaitBusy := rfl
@[simp] theorem wx_rankFirst (s : State) (i : Nat) (v : Word) : (wx s i v).rankFirst = s.rankFirst := rfl
@[simp] theorem wx_gc (s : State) (i : Nat) (v : Word) : (wx s i v).gc = s.gc := rfl
@[simp] theorem wx_links (s : State) (i : Nat) (v : Word) : (wx s i v).links = s.links := rfl
@[simp] theorem wx_members (s : State) (i : Nat) (v : Word) : (wx s i v).members = s.members := rfl
@[simp] theorem wx_ids (s : State) (i : Nat) (v : Word) : (wx s i v).ids = s.ids := rfl
@[simp] theorem wx_farDown (s : State) (i : Nat) (v : Word) : (wx s i v).farDown = s.farDown := rfl
@[simp] theorem wx_memberAt (s : State) (i : Nat) (v : Word) : (wx s i v).memberAt = s.memberAt := rfl
@[simp] theorem wx_power (s : State) (i : Nat) (v : Word) : (wx s i v).power = s.power := rfl
@[simp] theorem wx_packets (s : State) (i : Nat) (v : Word) : (wx s i v).packets = s.packets := rfl
@[simp] theorem wx_peerSeq (s : State) (i : Nat) (v : Word) : (wx s i v).peerSeq = s.peerSeq := rfl
@[simp] theorem wx_trust (s : State) (i : Nat) (v : Word) : (wx s i v).trust = s.trust := rfl

/-! ## wk -/

@[simp] theorem wk_fc (s : State) (i : Nat) (b : Bool) : (wk s i b).fc = s.fc := rfl
@[simp] theorem wk_ns (s : State) (i : Nat) (b : Bool) : (wk s i b).ns = s.ns := rfl
@[simp] theorem wk_nsRem (s : State) (i : Nat) (b : Bool) : (wk s i b).nsRem = s.nsRem := rfl
@[simp] theorem wk_ceiling (s : State) (i : Nat) (b : Bool) : (wk s i b).ceiling = s.ceiling := rfl
@[simp] theorem wk_device (s : State) (i : Nat) (b : Bool) : (wk s i b).device = s.device := rfl
@[simp] theorem wk_cur (s : State) (i : Nat) (b : Bool) : (wk s i b).cur = s.cur := rfl
@[simp] theorem wk_agenda (s : State) (i : Nat) (b : Bool) : (wk s i b).agenda = s.agenda := rfl
@[simp] theorem wk_freeIx (s : State) (i : Nat) (b : Bool) : (wk s i b).freeIx = s.freeIx := rfl
@[simp] theorem wk_dev (s : State) (i : Nat) (b : Bool) : (wk s i b).dev = s.dev := rfl
@[simp] theorem wk_loc (s : State) (i : Nat) (b : Bool) : (wk s i b).loc = s.loc := rfl
@[simp] theorem wk_spad (s : State) (i : Nat) (b : Bool) : (wk s i b).spad = s.spad := rfl
@[simp] theorem wk_tid (s : State) (i : Nat) (b : Bool) : (wk s i b).tid = s.tid := rfl
@[simp] theorem wk_tagq (s : State) (i : Nat) (b : Bool) : (wk s i b).tagq = s.tagq := rfl
@[simp] theorem wk_reqs (s : State) (i : Nat) (b : Bool) : (wk s i b).reqs = s.reqs := rfl
@[simp] theorem wk_sigs (s : State) (i : Nat) (b : Bool) : (wk s i b).sigs = s.sigs := rfl
@[simp] theorem wk_icinv (s : State) (i : Nat) (b : Bool) : (wk s i b).icinv = s.icinv := rfl
@[simp] theorem wk_quarters (s : State) (i : Nat) (b : Bool) : (wk s i b).quarters = s.quarters := rfl
@[simp] theorem wk_pins (s : State) (i : Nat) (b : Bool) : (wk s i b).pins = s.pins := rfl
@[simp] theorem wk_hub (s : State) (i : Nat) (b : Bool) : (wk s i b).hub = s.hub := rfl
@[simp] theorem wk_elems (s : State) (i : Nat) (b : Bool) : (wk s i b).elems = s.elems := rfl
@[simp] theorem wk_switches (s : State) (i : Nat) (b : Bool) : (wk s i b).switches = s.switches := rfl
@[simp] theorem wk_allot (s : State) (i : Nat) (b : Bool) : (wk s i b).allot = s.allot := rfl
@[simp] theorem wk_districts (s : State) (i : Nat) (b : Bool) : (wk s i b).districts = s.districts := rfl
@[simp] theorem wk_nextInv (s : State) (i : Nat) (b : Bool) : (wk s i b).nextInv = s.nextInv := rfl
@[simp] theorem wk_nextThread (s : State) (i : Nat) (b : Bool) : (wk s i b).nextThread = s.nextThread := rfl
@[simp] theorem wk_nextId (s : State) (i : Nat) (b : Bool) : (wk s i b).nextId = s.nextId := rfl
@[simp] theorem wk_engines (s : State) (i : Nat) (b : Bool) : (wk s i b).engines = s.engines := rfl
@[simp] theorem wk_bins (s : State) (i : Nat) (b : Bool) : (wk s i b).bins = s.bins := rfl
@[simp] theorem wk_locks (s : State) (i : Nat) (b : Bool) : (wk s i b).locks = s.locks := rfl
@[simp] theorem wk_lockq (s : State) (i : Nat) (b : Bool) : (wk s i b).lockq = s.lockq := rfl
@[simp] theorem wk_wounds (s : State) (i : Nat) (b : Bool) : (wk s i b).wounds = s.wounds := rfl
@[simp] theorem wk_dying (s : State) (i : Nat) (b : Bool) : (wk s i b).dying = s.dying := rfl
@[simp] theorem wk_weak (s : State) (i : Nat) (b : Bool) : (wk s i b).weak = s.weak := rfl
@[simp] theorem wk_cmat (s : State) (i : Nat) (b : Bool) : (wk s i b).cmat = s.cmat := rfl
@[simp] theorem wk_lmWounds (s : State) (i : Nat) (b : Bool) : (wk s i b).lmWounds = s.lmWounds := rfl
@[simp] theorem wk_lmEscal (s : State) (i : Nat) (b : Bool) : (wk s i b).lmEscal = s.lmEscal := rfl
@[simp] theorem wk_lmRevokes (s : State) (i : Nat) (b : Bool) : (wk s i b).lmRevokes = s.lmRevokes := rfl
@[simp] theorem wk_queues (s : State) (i : Nat) (b : Bool) : (wk s i b).queues = s.queues := rfl
@[simp] theorem wk_gangs (s : State) (i : Nat) (b : Bool) : (wk s i b).gangs = s.gangs := rfl
@[simp] theorem wk_decrs (s : State) (i : Nat) (b : Bool) : (wk s i b).decrs = s.decrs := rfl
@[simp] theorem wk_recWait (s : State) (i : Nat) (b : Bool) : (wk s i b).recWait = s.recWait := rfl
@[simp] theorem wk_walks (s : State) (i : Nat) (b : Bool) : (wk s i b).walks = s.walks := rfl
@[simp] theorem wk_saved (s : State) (i : Nat) (b : Bool) : (wk s i b).saved = s.saved := rfl
@[simp] theorem wk_pwaitBusy (s : State) (i : Nat) (b : Bool) : (wk s i b).pwaitBusy = s.pwaitBusy := rfl
@[simp] theorem wk_rankFirst (s : State) (i : Nat) (b : Bool) : (wk s i b).rankFirst = s.rankFirst := rfl
@[simp] theorem wk_gc (s : State) (i : Nat) (b : Bool) : (wk s i b).gc = s.gc := rfl
@[simp] theorem wk_links (s : State) (i : Nat) (b : Bool) : (wk s i b).links = s.links := rfl
@[simp] theorem wk_members (s : State) (i : Nat) (b : Bool) : (wk s i b).members = s.members := rfl
@[simp] theorem wk_ids (s : State) (i : Nat) (b : Bool) : (wk s i b).ids = s.ids := rfl
@[simp] theorem wk_farDown (s : State) (i : Nat) (b : Bool) : (wk s i b).farDown = s.farDown := rfl
@[simp] theorem wk_memberAt (s : State) (i : Nat) (b : Bool) : (wk s i b).memberAt = s.memberAt := rfl
@[simp] theorem wk_power (s : State) (i : Nat) (b : Bool) : (wk s i b).power = s.power := rfl
@[simp] theorem wk_packets (s : State) (i : Nat) (b : Bool) : (wk s i b).packets = s.packets := rfl
@[simp] theorem wk_peerSeq (s : State) (i : Nat) (b : Bool) : (wk s i b).peerSeq = s.peerSeq := rfl
@[simp] theorem wk_trust (s : State) (i : Nat) (b : Bool) : (wk s i b).trust = s.trust := rfl

/-! ## updQuarter -/

@[simp] theorem updQuarter_fc (s : State) (q : Nat) (f : Quarter → Quarter) : (updQuarter s q f).fc = s.fc := rfl
@[simp] theorem updQuarter_ns (s : State) (q : Nat) (f : Quarter → Quarter) : (updQuarter s q f).ns = s.ns := rfl
@[simp] theorem updQuarter_nsRem (s : State) (q : Nat) (f : Quarter → Quarter) : (updQuarter s q f).nsRem = s.nsRem := rfl
@[simp] theorem updQuarter_ceiling (s : State) (q : Nat) (f : Quarter → Quarter) : (updQuarter s q f).ceiling = s.ceiling := rfl
@[simp] theorem updQuarter_device (s : State) (q : Nat) (f : Quarter → Quarter) : (updQuarter s q f).device = s.device := rfl
@[simp] theorem updQuarter_cur (s : State) (q : Nat) (f : Quarter → Quarter) : (updQuarter s q f).cur = s.cur := rfl
@[simp] theorem updQuarter_agenda (s : State) (q : Nat) (f : Quarter → Quarter) : (updQuarter s q f).agenda = s.agenda := rfl
@[simp] theorem updQuarter_freeIx (s : State) (q : Nat) (f : Quarter → Quarter) : (updQuarter s q f).freeIx = s.freeIx := rfl
@[simp] theorem updQuarter_cores (s : State) (q : Nat) (f : Quarter → Quarter) : (updQuarter s q f).cores = s.cores := rfl
@[simp] theorem updQuarter_dev (s : State) (q : Nat) (f : Quarter → Quarter) : (updQuarter s q f).dev = s.dev := rfl
@[simp] theorem updQuarter_loc (s : State) (q : Nat) (f : Quarter → Quarter) : (updQuarter s q f).loc = s.loc := rfl
@[simp] theorem updQuarter_spad (s : State) (q : Nat) (f : Quarter → Quarter) : (updQuarter s q f).spad = s.spad := rfl
@[simp] theorem updQuarter_tid (s : State) (q : Nat) (f : Quarter → Quarter) : (updQuarter s q f).tid = s.tid := rfl
@[simp] theorem updQuarter_tagq (s : State) (q : Nat) (f : Quarter → Quarter) : (updQuarter s q f).tagq = s.tagq := rfl
@[simp] theorem updQuarter_reqs (s : State) (q : Nat) (f : Quarter → Quarter) : (updQuarter s q f).reqs = s.reqs := rfl
@[simp] theorem updQuarter_sigs (s : State) (q : Nat) (f : Quarter → Quarter) : (updQuarter s q f).sigs = s.sigs := rfl
@[simp] theorem updQuarter_icinv (s : State) (q : Nat) (f : Quarter → Quarter) : (updQuarter s q f).icinv = s.icinv := rfl
@[simp] theorem updQuarter_pins (s : State) (q : Nat) (f : Quarter → Quarter) : (updQuarter s q f).pins = s.pins := rfl
@[simp] theorem updQuarter_hub (s : State) (q : Nat) (f : Quarter → Quarter) : (updQuarter s q f).hub = s.hub := rfl
@[simp] theorem updQuarter_elems (s : State) (q : Nat) (f : Quarter → Quarter) : (updQuarter s q f).elems = s.elems := rfl
@[simp] theorem updQuarter_switches (s : State) (q : Nat) (f : Quarter → Quarter) : (updQuarter s q f).switches = s.switches := rfl
@[simp] theorem updQuarter_allot (s : State) (q : Nat) (f : Quarter → Quarter) : (updQuarter s q f).allot = s.allot := rfl
@[simp] theorem updQuarter_districts (s : State) (q : Nat) (f : Quarter → Quarter) : (updQuarter s q f).districts = s.districts := rfl
@[simp] theorem updQuarter_nextInv (s : State) (q : Nat) (f : Quarter → Quarter) : (updQuarter s q f).nextInv = s.nextInv := rfl
@[simp] theorem updQuarter_nextThread (s : State) (q : Nat) (f : Quarter → Quarter) : (updQuarter s q f).nextThread = s.nextThread := rfl
@[simp] theorem updQuarter_nextId (s : State) (q : Nat) (f : Quarter → Quarter) : (updQuarter s q f).nextId = s.nextId := rfl
@[simp] theorem updQuarter_engines (s : State) (q : Nat) (f : Quarter → Quarter) : (updQuarter s q f).engines = s.engines := rfl
@[simp] theorem updQuarter_bins (s : State) (q : Nat) (f : Quarter → Quarter) : (updQuarter s q f).bins = s.bins := rfl
@[simp] theorem updQuarter_locks (s : State) (q : Nat) (f : Quarter → Quarter) : (updQuarter s q f).locks = s.locks := rfl
@[simp] theorem updQuarter_lockq (s : State) (q : Nat) (f : Quarter → Quarter) : (updQuarter s q f).lockq = s.lockq := rfl
@[simp] theorem updQuarter_wounds (s : State) (q : Nat) (f : Quarter → Quarter) : (updQuarter s q f).wounds = s.wounds := rfl
@[simp] theorem updQuarter_dying (s : State) (q : Nat) (f : Quarter → Quarter) : (updQuarter s q f).dying = s.dying := rfl
@[simp] theorem updQuarter_weak (s : State) (q : Nat) (f : Quarter → Quarter) : (updQuarter s q f).weak = s.weak := rfl
@[simp] theorem updQuarter_cmat (s : State) (q : Nat) (f : Quarter → Quarter) : (updQuarter s q f).cmat = s.cmat := rfl
@[simp] theorem updQuarter_lmWounds (s : State) (q : Nat) (f : Quarter → Quarter) : (updQuarter s q f).lmWounds = s.lmWounds := rfl
@[simp] theorem updQuarter_lmEscal (s : State) (q : Nat) (f : Quarter → Quarter) : (updQuarter s q f).lmEscal = s.lmEscal := rfl
@[simp] theorem updQuarter_lmRevokes (s : State) (q : Nat) (f : Quarter → Quarter) : (updQuarter s q f).lmRevokes = s.lmRevokes := rfl
@[simp] theorem updQuarter_queues (s : State) (q : Nat) (f : Quarter → Quarter) : (updQuarter s q f).queues = s.queues := rfl
@[simp] theorem updQuarter_gangs (s : State) (q : Nat) (f : Quarter → Quarter) : (updQuarter s q f).gangs = s.gangs := rfl
@[simp] theorem updQuarter_decrs (s : State) (q : Nat) (f : Quarter → Quarter) : (updQuarter s q f).decrs = s.decrs := rfl
@[simp] theorem updQuarter_recWait (s : State) (q : Nat) (f : Quarter → Quarter) : (updQuarter s q f).recWait = s.recWait := rfl
@[simp] theorem updQuarter_walks (s : State) (q : Nat) (f : Quarter → Quarter) : (updQuarter s q f).walks = s.walks := rfl
@[simp] theorem updQuarter_saved (s : State) (q : Nat) (f : Quarter → Quarter) : (updQuarter s q f).saved = s.saved := rfl
@[simp] theorem updQuarter_pwaitBusy (s : State) (q : Nat) (f : Quarter → Quarter) : (updQuarter s q f).pwaitBusy = s.pwaitBusy := rfl
@[simp] theorem updQuarter_rankFirst (s : State) (q : Nat) (f : Quarter → Quarter) : (updQuarter s q f).rankFirst = s.rankFirst := rfl
@[simp] theorem updQuarter_gc (s : State) (q : Nat) (f : Quarter → Quarter) : (updQuarter s q f).gc = s.gc := rfl
@[simp] theorem updQuarter_links (s : State) (q : Nat) (f : Quarter → Quarter) : (updQuarter s q f).links = s.links := rfl
@[simp] theorem updQuarter_members (s : State) (q : Nat) (f : Quarter → Quarter) : (updQuarter s q f).members = s.members := rfl
@[simp] theorem updQuarter_ids (s : State) (q : Nat) (f : Quarter → Quarter) : (updQuarter s q f).ids = s.ids := rfl
@[simp] theorem updQuarter_farDown (s : State) (q : Nat) (f : Quarter → Quarter) : (updQuarter s q f).farDown = s.farDown := rfl
@[simp] theorem updQuarter_memberAt (s : State) (q : Nat) (f : Quarter → Quarter) : (updQuarter s q f).memberAt = s.memberAt := rfl
@[simp] theorem updQuarter_power (s : State) (q : Nat) (f : Quarter → Quarter) : (updQuarter s q f).power = s.power := rfl
@[simp] theorem updQuarter_packets (s : State) (q : Nat) (f : Quarter → Quarter) : (updQuarter s q f).packets = s.packets := rfl
@[simp] theorem updQuarter_peerSeq (s : State) (q : Nat) (f : Quarter → Quarter) : (updQuarter s q f).peerSeq = s.peerSeq := rfl
@[simp] theorem updQuarter_trust (s : State) (q : Nat) (f : Quarter → Quarter) : (updQuarter s q f).trust = s.trust := rfl

/-! ## setElem -/

@[simp] theorem setElem_fc (s : State) (e : Nat) (x : Elem) : (setElem s e x).fc = s.fc := rfl
@[simp] theorem setElem_ns (s : State) (e : Nat) (x : Elem) : (setElem s e x).ns = s.ns := rfl
@[simp] theorem setElem_nsRem (s : State) (e : Nat) (x : Elem) : (setElem s e x).nsRem = s.nsRem := rfl
@[simp] theorem setElem_ceiling (s : State) (e : Nat) (x : Elem) : (setElem s e x).ceiling = s.ceiling := rfl
@[simp] theorem setElem_device (s : State) (e : Nat) (x : Elem) : (setElem s e x).device = s.device := rfl
@[simp] theorem setElem_cur (s : State) (e : Nat) (x : Elem) : (setElem s e x).cur = s.cur := rfl
@[simp] theorem setElem_agenda (s : State) (e : Nat) (x : Elem) : (setElem s e x).agenda = s.agenda := rfl
@[simp] theorem setElem_freeIx (s : State) (e : Nat) (x : Elem) : (setElem s e x).freeIx = s.freeIx := rfl
@[simp] theorem setElem_cores (s : State) (e : Nat) (x : Elem) : (setElem s e x).cores = s.cores := rfl
@[simp] theorem setElem_dev (s : State) (e : Nat) (x : Elem) : (setElem s e x).dev = s.dev := rfl
@[simp] theorem setElem_loc (s : State) (e : Nat) (x : Elem) : (setElem s e x).loc = s.loc := rfl
@[simp] theorem setElem_spad (s : State) (e : Nat) (x : Elem) : (setElem s e x).spad = s.spad := rfl
@[simp] theorem setElem_tid (s : State) (e : Nat) (x : Elem) : (setElem s e x).tid = s.tid := rfl
@[simp] theorem setElem_tagq (s : State) (e : Nat) (x : Elem) : (setElem s e x).tagq = s.tagq := rfl
@[simp] theorem setElem_reqs (s : State) (e : Nat) (x : Elem) : (setElem s e x).reqs = s.reqs := rfl
@[simp] theorem setElem_sigs (s : State) (e : Nat) (x : Elem) : (setElem s e x).sigs = s.sigs := rfl
@[simp] theorem setElem_icinv (s : State) (e : Nat) (x : Elem) : (setElem s e x).icinv = s.icinv := rfl
@[simp] theorem setElem_quarters (s : State) (e : Nat) (x : Elem) : (setElem s e x).quarters = s.quarters := rfl
@[simp] theorem setElem_pins (s : State) (e : Nat) (x : Elem) : (setElem s e x).pins = s.pins := rfl
@[simp] theorem setElem_hub (s : State) (e : Nat) (x : Elem) : (setElem s e x).hub = s.hub := rfl
@[simp] theorem setElem_switches (s : State) (e : Nat) (x : Elem) : (setElem s e x).switches = s.switches := rfl
@[simp] theorem setElem_allot (s : State) (e : Nat) (x : Elem) : (setElem s e x).allot = s.allot := rfl
@[simp] theorem setElem_districts (s : State) (e : Nat) (x : Elem) : (setElem s e x).districts = s.districts := rfl
@[simp] theorem setElem_nextInv (s : State) (e : Nat) (x : Elem) : (setElem s e x).nextInv = s.nextInv := rfl
@[simp] theorem setElem_nextThread (s : State) (e : Nat) (x : Elem) : (setElem s e x).nextThread = s.nextThread := rfl
@[simp] theorem setElem_nextId (s : State) (e : Nat) (x : Elem) : (setElem s e x).nextId = s.nextId := rfl
@[simp] theorem setElem_engines (s : State) (e : Nat) (x : Elem) : (setElem s e x).engines = s.engines := rfl
@[simp] theorem setElem_bins (s : State) (e : Nat) (x : Elem) : (setElem s e x).bins = s.bins := rfl
@[simp] theorem setElem_locks (s : State) (e : Nat) (x : Elem) : (setElem s e x).locks = s.locks := rfl
@[simp] theorem setElem_lockq (s : State) (e : Nat) (x : Elem) : (setElem s e x).lockq = s.lockq := rfl
@[simp] theorem setElem_wounds (s : State) (e : Nat) (x : Elem) : (setElem s e x).wounds = s.wounds := rfl
@[simp] theorem setElem_dying (s : State) (e : Nat) (x : Elem) : (setElem s e x).dying = s.dying := rfl
@[simp] theorem setElem_weak (s : State) (e : Nat) (x : Elem) : (setElem s e x).weak = s.weak := rfl
@[simp] theorem setElem_cmat (s : State) (e : Nat) (x : Elem) : (setElem s e x).cmat = s.cmat := rfl
@[simp] theorem setElem_lmWounds (s : State) (e : Nat) (x : Elem) : (setElem s e x).lmWounds = s.lmWounds := rfl
@[simp] theorem setElem_lmEscal (s : State) (e : Nat) (x : Elem) : (setElem s e x).lmEscal = s.lmEscal := rfl
@[simp] theorem setElem_lmRevokes (s : State) (e : Nat) (x : Elem) : (setElem s e x).lmRevokes = s.lmRevokes := rfl
@[simp] theorem setElem_queues (s : State) (e : Nat) (x : Elem) : (setElem s e x).queues = s.queues := rfl
@[simp] theorem setElem_gangs (s : State) (e : Nat) (x : Elem) : (setElem s e x).gangs = s.gangs := rfl
@[simp] theorem setElem_decrs (s : State) (e : Nat) (x : Elem) : (setElem s e x).decrs = s.decrs := rfl
@[simp] theorem setElem_recWait (s : State) (e : Nat) (x : Elem) : (setElem s e x).recWait = s.recWait := rfl
@[simp] theorem setElem_walks (s : State) (e : Nat) (x : Elem) : (setElem s e x).walks = s.walks := rfl
@[simp] theorem setElem_saved (s : State) (e : Nat) (x : Elem) : (setElem s e x).saved = s.saved := rfl
@[simp] theorem setElem_pwaitBusy (s : State) (e : Nat) (x : Elem) : (setElem s e x).pwaitBusy = s.pwaitBusy := rfl
@[simp] theorem setElem_rankFirst (s : State) (e : Nat) (x : Elem) : (setElem s e x).rankFirst = s.rankFirst := rfl
@[simp] theorem setElem_gc (s : State) (e : Nat) (x : Elem) : (setElem s e x).gc = s.gc := rfl
@[simp] theorem setElem_links (s : State) (e : Nat) (x : Elem) : (setElem s e x).links = s.links := rfl
@[simp] theorem setElem_members (s : State) (e : Nat) (x : Elem) : (setElem s e x).members = s.members := rfl
@[simp] theorem setElem_ids (s : State) (e : Nat) (x : Elem) : (setElem s e x).ids = s.ids := rfl
@[simp] theorem setElem_farDown (s : State) (e : Nat) (x : Elem) : (setElem s e x).farDown = s.farDown := rfl
@[simp] theorem setElem_memberAt (s : State) (e : Nat) (x : Elem) : (setElem s e x).memberAt = s.memberAt := rfl
@[simp] theorem setElem_power (s : State) (e : Nat) (x : Elem) : (setElem s e x).power = s.power := rfl
@[simp] theorem setElem_packets (s : State) (e : Nat) (x : Elem) : (setElem s e x).packets = s.packets := rfl
@[simp] theorem setElem_peerSeq (s : State) (e : Nat) (x : Elem) : (setElem s e x).peerSeq = s.peerSeq := rfl
@[simp] theorem setElem_trust (s : State) (e : Nat) (x : Elem) : (setElem s e x).trust = s.trust := rfl

/-! ## advance -/

@[simp] theorem advance_fc (s : State) (n : Nat) : (advance n s).fc = s.fc := rfl
@[simp] theorem advance_ns (s : State) (n : Nat) : (advance n s).ns = s.ns := rfl
@[simp] theorem advance_nsRem (s : State) (n : Nat) : (advance n s).nsRem = s.nsRem := rfl
@[simp] theorem advance_ceiling (s : State) (n : Nat) : (advance n s).ceiling = s.ceiling := rfl
@[simp] theorem advance_device (s : State) (n : Nat) : (advance n s).device = s.device := rfl
@[simp] theorem advance_cur (s : State) (n : Nat) : (advance n s).cur = s.cur := rfl
@[simp] theorem advance_agenda (s : State) (n : Nat) : (advance n s).agenda = s.agenda := rfl
@[simp] theorem advance_freeIx (s : State) (n : Nat) : (advance n s).freeIx = s.freeIx := rfl
@[simp] theorem advance_dev (s : State) (n : Nat) : (advance n s).dev = s.dev := rfl
@[simp] theorem advance_loc (s : State) (n : Nat) : (advance n s).loc = s.loc := rfl
@[simp] theorem advance_spad (s : State) (n : Nat) : (advance n s).spad = s.spad := rfl
@[simp] theorem advance_tid (s : State) (n : Nat) : (advance n s).tid = s.tid := rfl
@[simp] theorem advance_tagq (s : State) (n : Nat) : (advance n s).tagq = s.tagq := rfl
@[simp] theorem advance_reqs (s : State) (n : Nat) : (advance n s).reqs = s.reqs := rfl
@[simp] theorem advance_sigs (s : State) (n : Nat) : (advance n s).sigs = s.sigs := rfl
@[simp] theorem advance_icinv (s : State) (n : Nat) : (advance n s).icinv = s.icinv := rfl
@[simp] theorem advance_quarters (s : State) (n : Nat) : (advance n s).quarters = s.quarters := rfl
@[simp] theorem advance_pins (s : State) (n : Nat) : (advance n s).pins = s.pins := rfl
@[simp] theorem advance_hub (s : State) (n : Nat) : (advance n s).hub = s.hub := rfl
@[simp] theorem advance_elems (s : State) (n : Nat) : (advance n s).elems = s.elems := rfl
@[simp] theorem advance_switches (s : State) (n : Nat) : (advance n s).switches = s.switches := rfl
@[simp] theorem advance_allot (s : State) (n : Nat) : (advance n s).allot = s.allot := rfl
@[simp] theorem advance_districts (s : State) (n : Nat) : (advance n s).districts = s.districts := rfl
@[simp] theorem advance_nextInv (s : State) (n : Nat) : (advance n s).nextInv = s.nextInv := rfl
@[simp] theorem advance_nextThread (s : State) (n : Nat) : (advance n s).nextThread = s.nextThread := rfl
@[simp] theorem advance_nextId (s : State) (n : Nat) : (advance n s).nextId = s.nextId := rfl
@[simp] theorem advance_engines (s : State) (n : Nat) : (advance n s).engines = s.engines := rfl
@[simp] theorem advance_bins (s : State) (n : Nat) : (advance n s).bins = s.bins := rfl
@[simp] theorem advance_locks (s : State) (n : Nat) : (advance n s).locks = s.locks := rfl
@[simp] theorem advance_lockq (s : State) (n : Nat) : (advance n s).lockq = s.lockq := rfl
@[simp] theorem advance_wounds (s : State) (n : Nat) : (advance n s).wounds = s.wounds := rfl
@[simp] theorem advance_dying (s : State) (n : Nat) : (advance n s).dying = s.dying := rfl
@[simp] theorem advance_weak (s : State) (n : Nat) : (advance n s).weak = s.weak := rfl
@[simp] theorem advance_cmat (s : State) (n : Nat) : (advance n s).cmat = s.cmat := rfl
@[simp] theorem advance_lmWounds (s : State) (n : Nat) : (advance n s).lmWounds = s.lmWounds := rfl
@[simp] theorem advance_lmEscal (s : State) (n : Nat) : (advance n s).lmEscal = s.lmEscal := rfl
@[simp] theorem advance_lmRevokes (s : State) (n : Nat) : (advance n s).lmRevokes = s.lmRevokes := rfl
@[simp] theorem advance_queues (s : State) (n : Nat) : (advance n s).queues = s.queues := rfl
@[simp] theorem advance_gangs (s : State) (n : Nat) : (advance n s).gangs = s.gangs := rfl
@[simp] theorem advance_decrs (s : State) (n : Nat) : (advance n s).decrs = s.decrs := rfl
@[simp] theorem advance_recWait (s : State) (n : Nat) : (advance n s).recWait = s.recWait := rfl
@[simp] theorem advance_walks (s : State) (n : Nat) : (advance n s).walks = s.walks := rfl
@[simp] theorem advance_saved (s : State) (n : Nat) : (advance n s).saved = s.saved := rfl
@[simp] theorem advance_pwaitBusy (s : State) (n : Nat) : (advance n s).pwaitBusy = s.pwaitBusy := rfl
@[simp] theorem advance_rankFirst (s : State) (n : Nat) : (advance n s).rankFirst = s.rankFirst := rfl
@[simp] theorem advance_gc (s : State) (n : Nat) : (advance n s).gc = s.gc := rfl
@[simp] theorem advance_links (s : State) (n : Nat) : (advance n s).links = s.links := rfl
@[simp] theorem advance_members (s : State) (n : Nat) : (advance n s).members = s.members := rfl
@[simp] theorem advance_ids (s : State) (n : Nat) : (advance n s).ids = s.ids := rfl
@[simp] theorem advance_farDown (s : State) (n : Nat) : (advance n s).farDown = s.farDown := rfl
@[simp] theorem advance_memberAt (s : State) (n : Nat) : (advance n s).memberAt = s.memberAt := rfl
@[simp] theorem advance_power (s : State) (n : Nat) : (advance n s).power = s.power := rfl
@[simp] theorem advance_packets (s : State) (n : Nat) : (advance n s).packets = s.packets := rfl
@[simp] theorem advance_peerSeq (s : State) (n : Nat) : (advance n s).peerSeq = s.peerSeq := rfl
@[simp] theorem advance_trust (s : State) (n : Nat) : (advance n s).trust = s.trust := rfl

/-! ## jump -/

@[simp] theorem jump_fc (s : State) (n : Nat) : (jump n s).fc = s.fc := rfl
@[simp] theorem jump_ns (s : State) (n : Nat) : (jump n s).ns = s.ns := rfl
@[simp] theorem jump_nsRem (s : State) (n : Nat) : (jump n s).nsRem = s.nsRem := rfl
@[simp] theorem jump_ceiling (s : State) (n : Nat) : (jump n s).ceiling = s.ceiling := rfl
@[simp] theorem jump_device (s : State) (n : Nat) : (jump n s).device = s.device := rfl
@[simp] theorem jump_cur (s : State) (n : Nat) : (jump n s).cur = s.cur := rfl
@[simp] theorem jump_agenda (s : State) (n : Nat) : (jump n s).agenda = s.agenda := rfl
@[simp] theorem jump_freeIx (s : State) (n : Nat) : (jump n s).freeIx = s.freeIx := rfl
@[simp] theorem jump_dev (s : State) (n : Nat) : (jump n s).dev = s.dev := rfl
@[simp] theorem jump_loc (s : State) (n : Nat) : (jump n s).loc = s.loc := rfl
@[simp] theorem jump_spad (s : State) (n : Nat) : (jump n s).spad = s.spad := rfl
@[simp] theorem jump_tid (s : State) (n : Nat) : (jump n s).tid = s.tid := rfl
@[simp] theorem jump_tagq (s : State) (n : Nat) : (jump n s).tagq = s.tagq := rfl
@[simp] theorem jump_reqs (s : State) (n : Nat) : (jump n s).reqs = s.reqs := rfl
@[simp] theorem jump_sigs (s : State) (n : Nat) : (jump n s).sigs = s.sigs := rfl
@[simp] theorem jump_icinv (s : State) (n : Nat) : (jump n s).icinv = s.icinv := rfl
@[simp] theorem jump_quarters (s : State) (n : Nat) : (jump n s).quarters = s.quarters := rfl
@[simp] theorem jump_pins (s : State) (n : Nat) : (jump n s).pins = s.pins := rfl
@[simp] theorem jump_hub (s : State) (n : Nat) : (jump n s).hub = s.hub := rfl
@[simp] theorem jump_elems (s : State) (n : Nat) : (jump n s).elems = s.elems := rfl
@[simp] theorem jump_switches (s : State) (n : Nat) : (jump n s).switches = s.switches := rfl
@[simp] theorem jump_allot (s : State) (n : Nat) : (jump n s).allot = s.allot := rfl
@[simp] theorem jump_districts (s : State) (n : Nat) : (jump n s).districts = s.districts := rfl
@[simp] theorem jump_nextInv (s : State) (n : Nat) : (jump n s).nextInv = s.nextInv := rfl
@[simp] theorem jump_nextThread (s : State) (n : Nat) : (jump n s).nextThread = s.nextThread := rfl
@[simp] theorem jump_nextId (s : State) (n : Nat) : (jump n s).nextId = s.nextId := rfl
@[simp] theorem jump_engines (s : State) (n : Nat) : (jump n s).engines = s.engines := rfl
@[simp] theorem jump_bins (s : State) (n : Nat) : (jump n s).bins = s.bins := rfl
@[simp] theorem jump_locks (s : State) (n : Nat) : (jump n s).locks = s.locks := rfl
@[simp] theorem jump_lockq (s : State) (n : Nat) : (jump n s).lockq = s.lockq := rfl
@[simp] theorem jump_wounds (s : State) (n : Nat) : (jump n s).wounds = s.wounds := rfl
@[simp] theorem jump_dying (s : State) (n : Nat) : (jump n s).dying = s.dying := rfl
@[simp] theorem jump_weak (s : State) (n : Nat) : (jump n s).weak = s.weak := rfl
@[simp] theorem jump_cmat (s : State) (n : Nat) : (jump n s).cmat = s.cmat := rfl
@[simp] theorem jump_lmWounds (s : State) (n : Nat) : (jump n s).lmWounds = s.lmWounds := rfl
@[simp] theorem jump_lmEscal (s : State) (n : Nat) : (jump n s).lmEscal = s.lmEscal := rfl
@[simp] theorem jump_lmRevokes (s : State) (n : Nat) : (jump n s).lmRevokes = s.lmRevokes := rfl
@[simp] theorem jump_queues (s : State) (n : Nat) : (jump n s).queues = s.queues := rfl
@[simp] theorem jump_gangs (s : State) (n : Nat) : (jump n s).gangs = s.gangs := rfl
@[simp] theorem jump_decrs (s : State) (n : Nat) : (jump n s).decrs = s.decrs := rfl
@[simp] theorem jump_recWait (s : State) (n : Nat) : (jump n s).recWait = s.recWait := rfl
@[simp] theorem jump_walks (s : State) (n : Nat) : (jump n s).walks = s.walks := rfl
@[simp] theorem jump_saved (s : State) (n : Nat) : (jump n s).saved = s.saved := rfl
@[simp] theorem jump_pwaitBusy (s : State) (n : Nat) : (jump n s).pwaitBusy = s.pwaitBusy := rfl
@[simp] theorem jump_rankFirst (s : State) (n : Nat) : (jump n s).rankFirst = s.rankFirst := rfl
@[simp] theorem jump_gc (s : State) (n : Nat) : (jump n s).gc = s.gc := rfl
@[simp] theorem jump_links (s : State) (n : Nat) : (jump n s).links = s.links := rfl
@[simp] theorem jump_members (s : State) (n : Nat) : (jump n s).members = s.members := rfl
@[simp] theorem jump_ids (s : State) (n : Nat) : (jump n s).ids = s.ids := rfl
@[simp] theorem jump_farDown (s : State) (n : Nat) : (jump n s).farDown = s.farDown := rfl
@[simp] theorem jump_memberAt (s : State) (n : Nat) : (jump n s).memberAt = s.memberAt := rfl
@[simp] theorem jump_power (s : State) (n : Nat) : (jump n s).power = s.power := rfl
@[simp] theorem jump_packets (s : State) (n : Nat) : (jump n s).packets = s.packets := rfl
@[simp] theorem jump_peerSeq (s : State) (n : Nat) : (jump n s).peerSeq = s.peerSeq := rfl
@[simp] theorem jump_trust (s : State) (n : Nat) : (jump n s).trust = s.trust := rfl

/-! ## spin -/

@[simp] theorem spin_fc (s : State) (b : Bool) : (spin b s).fc = s.fc := rfl
@[simp] theorem spin_ns (s : State) (b : Bool) : (spin b s).ns = s.ns := rfl
@[simp] theorem spin_nsRem (s : State) (b : Bool) : (spin b s).nsRem = s.nsRem := rfl
@[simp] theorem spin_ceiling (s : State) (b : Bool) : (spin b s).ceiling = s.ceiling := rfl
@[simp] theorem spin_device (s : State) (b : Bool) : (spin b s).device = s.device := rfl
@[simp] theorem spin_cur (s : State) (b : Bool) : (spin b s).cur = s.cur := rfl
@[simp] theorem spin_agenda (s : State) (b : Bool) : (spin b s).agenda = s.agenda := rfl
@[simp] theorem spin_freeIx (s : State) (b : Bool) : (spin b s).freeIx = s.freeIx := rfl
@[simp] theorem spin_dev (s : State) (b : Bool) : (spin b s).dev = s.dev := rfl
@[simp] theorem spin_loc (s : State) (b : Bool) : (spin b s).loc = s.loc := rfl
@[simp] theorem spin_spad (s : State) (b : Bool) : (spin b s).spad = s.spad := rfl
@[simp] theorem spin_tid (s : State) (b : Bool) : (spin b s).tid = s.tid := rfl
@[simp] theorem spin_tagq (s : State) (b : Bool) : (spin b s).tagq = s.tagq := rfl
@[simp] theorem spin_reqs (s : State) (b : Bool) : (spin b s).reqs = s.reqs := rfl
@[simp] theorem spin_sigs (s : State) (b : Bool) : (spin b s).sigs = s.sigs := rfl
@[simp] theorem spin_icinv (s : State) (b : Bool) : (spin b s).icinv = s.icinv := rfl
@[simp] theorem spin_quarters (s : State) (b : Bool) : (spin b s).quarters = s.quarters := rfl
@[simp] theorem spin_pins (s : State) (b : Bool) : (spin b s).pins = s.pins := rfl
@[simp] theorem spin_hub (s : State) (b : Bool) : (spin b s).hub = s.hub := rfl
@[simp] theorem spin_elems (s : State) (b : Bool) : (spin b s).elems = s.elems := rfl
@[simp] theorem spin_switches (s : State) (b : Bool) : (spin b s).switches = s.switches := rfl
@[simp] theorem spin_allot (s : State) (b : Bool) : (spin b s).allot = s.allot := rfl
@[simp] theorem spin_districts (s : State) (b : Bool) : (spin b s).districts = s.districts := rfl
@[simp] theorem spin_nextInv (s : State) (b : Bool) : (spin b s).nextInv = s.nextInv := rfl
@[simp] theorem spin_nextThread (s : State) (b : Bool) : (spin b s).nextThread = s.nextThread := rfl
@[simp] theorem spin_nextId (s : State) (b : Bool) : (spin b s).nextId = s.nextId := rfl
@[simp] theorem spin_engines (s : State) (b : Bool) : (spin b s).engines = s.engines := rfl
@[simp] theorem spin_bins (s : State) (b : Bool) : (spin b s).bins = s.bins := rfl
@[simp] theorem spin_locks (s : State) (b : Bool) : (spin b s).locks = s.locks := rfl
@[simp] theorem spin_lockq (s : State) (b : Bool) : (spin b s).lockq = s.lockq := rfl
@[simp] theorem spin_wounds (s : State) (b : Bool) : (spin b s).wounds = s.wounds := rfl
@[simp] theorem spin_dying (s : State) (b : Bool) : (spin b s).dying = s.dying := rfl
@[simp] theorem spin_weak (s : State) (b : Bool) : (spin b s).weak = s.weak := rfl
@[simp] theorem spin_cmat (s : State) (b : Bool) : (spin b s).cmat = s.cmat := rfl
@[simp] theorem spin_lmWounds (s : State) (b : Bool) : (spin b s).lmWounds = s.lmWounds := rfl
@[simp] theorem spin_lmEscal (s : State) (b : Bool) : (spin b s).lmEscal = s.lmEscal := rfl
@[simp] theorem spin_lmRevokes (s : State) (b : Bool) : (spin b s).lmRevokes = s.lmRevokes := rfl
@[simp] theorem spin_queues (s : State) (b : Bool) : (spin b s).queues = s.queues := rfl
@[simp] theorem spin_gangs (s : State) (b : Bool) : (spin b s).gangs = s.gangs := rfl
@[simp] theorem spin_decrs (s : State) (b : Bool) : (spin b s).decrs = s.decrs := rfl
@[simp] theorem spin_recWait (s : State) (b : Bool) : (spin b s).recWait = s.recWait := rfl
@[simp] theorem spin_walks (s : State) (b : Bool) : (spin b s).walks = s.walks := rfl
@[simp] theorem spin_saved (s : State) (b : Bool) : (spin b s).saved = s.saved := rfl
@[simp] theorem spin_pwaitBusy (s : State) (b : Bool) : (spin b s).pwaitBusy = s.pwaitBusy := rfl
@[simp] theorem spin_rankFirst (s : State) (b : Bool) : (spin b s).rankFirst = s.rankFirst := rfl
@[simp] theorem spin_gc (s : State) (b : Bool) : (spin b s).gc = s.gc := rfl
@[simp] theorem spin_links (s : State) (b : Bool) : (spin b s).links = s.links := rfl
@[simp] theorem spin_members (s : State) (b : Bool) : (spin b s).members = s.members := rfl
@[simp] theorem spin_ids (s : State) (b : Bool) : (spin b s).ids = s.ids := rfl
@[simp] theorem spin_farDown (s : State) (b : Bool) : (spin b s).farDown = s.farDown := rfl
@[simp] theorem spin_memberAt (s : State) (b : Bool) : (spin b s).memberAt = s.memberAt := rfl
@[simp] theorem spin_power (s : State) (b : Bool) : (spin b s).power = s.power := rfl
@[simp] theorem spin_packets (s : State) (b : Bool) : (spin b s).packets = s.packets := rfl
@[simp] theorem spin_peerSeq (s : State) (b : Bool) : (spin b s).peerSeq = s.peerSeq := rfl
@[simp] theorem spin_trust (s : State) (b : Bool) : (spin b s).trust = s.trust := rfl

/-! ## await -/

@[simp] theorem await_fc (s : State) (w : Wait) : (await w s).fc = s.fc := rfl
@[simp] theorem await_ns (s : State) (w : Wait) : (await w s).ns = s.ns := rfl
@[simp] theorem await_nsRem (s : State) (w : Wait) : (await w s).nsRem = s.nsRem := rfl
@[simp] theorem await_ceiling (s : State) (w : Wait) : (await w s).ceiling = s.ceiling := rfl
@[simp] theorem await_device (s : State) (w : Wait) : (await w s).device = s.device := rfl
@[simp] theorem await_cur (s : State) (w : Wait) : (await w s).cur = s.cur := rfl
@[simp] theorem await_agenda (s : State) (w : Wait) : (await w s).agenda = s.agenda := rfl
@[simp] theorem await_freeIx (s : State) (w : Wait) : (await w s).freeIx = s.freeIx := rfl
@[simp] theorem await_dev (s : State) (w : Wait) : (await w s).dev = s.dev := rfl
@[simp] theorem await_loc (s : State) (w : Wait) : (await w s).loc = s.loc := rfl
@[simp] theorem await_spad (s : State) (w : Wait) : (await w s).spad = s.spad := rfl
@[simp] theorem await_tid (s : State) (w : Wait) : (await w s).tid = s.tid := rfl
@[simp] theorem await_tagq (s : State) (w : Wait) : (await w s).tagq = s.tagq := rfl
@[simp] theorem await_reqs (s : State) (w : Wait) : (await w s).reqs = s.reqs := rfl
@[simp] theorem await_sigs (s : State) (w : Wait) : (await w s).sigs = s.sigs := rfl
@[simp] theorem await_icinv (s : State) (w : Wait) : (await w s).icinv = s.icinv := rfl
@[simp] theorem await_quarters (s : State) (w : Wait) : (await w s).quarters = s.quarters := rfl
@[simp] theorem await_pins (s : State) (w : Wait) : (await w s).pins = s.pins := rfl
@[simp] theorem await_hub (s : State) (w : Wait) : (await w s).hub = s.hub := rfl
@[simp] theorem await_elems (s : State) (w : Wait) : (await w s).elems = s.elems := rfl
@[simp] theorem await_switches (s : State) (w : Wait) : (await w s).switches = s.switches := rfl
@[simp] theorem await_allot (s : State) (w : Wait) : (await w s).allot = s.allot := rfl
@[simp] theorem await_districts (s : State) (w : Wait) : (await w s).districts = s.districts := rfl
@[simp] theorem await_nextInv (s : State) (w : Wait) : (await w s).nextInv = s.nextInv := rfl
@[simp] theorem await_nextThread (s : State) (w : Wait) : (await w s).nextThread = s.nextThread := rfl
@[simp] theorem await_nextId (s : State) (w : Wait) : (await w s).nextId = s.nextId := rfl
@[simp] theorem await_engines (s : State) (w : Wait) : (await w s).engines = s.engines := rfl
@[simp] theorem await_bins (s : State) (w : Wait) : (await w s).bins = s.bins := rfl
@[simp] theorem await_locks (s : State) (w : Wait) : (await w s).locks = s.locks := rfl
@[simp] theorem await_lockq (s : State) (w : Wait) : (await w s).lockq = s.lockq := rfl
@[simp] theorem await_wounds (s : State) (w : Wait) : (await w s).wounds = s.wounds := rfl
@[simp] theorem await_dying (s : State) (w : Wait) : (await w s).dying = s.dying := rfl
@[simp] theorem await_weak (s : State) (w : Wait) : (await w s).weak = s.weak := rfl
@[simp] theorem await_cmat (s : State) (w : Wait) : (await w s).cmat = s.cmat := rfl
@[simp] theorem await_lmWounds (s : State) (w : Wait) : (await w s).lmWounds = s.lmWounds := rfl
@[simp] theorem await_lmEscal (s : State) (w : Wait) : (await w s).lmEscal = s.lmEscal := rfl
@[simp] theorem await_lmRevokes (s : State) (w : Wait) : (await w s).lmRevokes = s.lmRevokes := rfl
@[simp] theorem await_queues (s : State) (w : Wait) : (await w s).queues = s.queues := rfl
@[simp] theorem await_gangs (s : State) (w : Wait) : (await w s).gangs = s.gangs := rfl
@[simp] theorem await_decrs (s : State) (w : Wait) : (await w s).decrs = s.decrs := rfl
@[simp] theorem await_recWait (s : State) (w : Wait) : (await w s).recWait = s.recWait := rfl
@[simp] theorem await_walks (s : State) (w : Wait) : (await w s).walks = s.walks := rfl
@[simp] theorem await_saved (s : State) (w : Wait) : (await w s).saved = s.saved := rfl
@[simp] theorem await_pwaitBusy (s : State) (w : Wait) : (await w s).pwaitBusy = s.pwaitBusy := rfl
@[simp] theorem await_rankFirst (s : State) (w : Wait) : (await w s).rankFirst = s.rankFirst := rfl
@[simp] theorem await_gc (s : State) (w : Wait) : (await w s).gc = s.gc := rfl
@[simp] theorem await_links (s : State) (w : Wait) : (await w s).links = s.links := rfl
@[simp] theorem await_members (s : State) (w : Wait) : (await w s).members = s.members := rfl
@[simp] theorem await_ids (s : State) (w : Wait) : (await w s).ids = s.ids := rfl
@[simp] theorem await_farDown (s : State) (w : Wait) : (await w s).farDown = s.farDown := rfl
@[simp] theorem await_memberAt (s : State) (w : Wait) : (await w s).memberAt = s.memberAt := rfl
@[simp] theorem await_power (s : State) (w : Wait) : (await w s).power = s.power := rfl
@[simp] theorem await_packets (s : State) (w : Wait) : (await w s).packets = s.packets := rfl
@[simp] theorem await_peerSeq (s : State) (w : Wait) : (await w s).peerSeq = s.peerSeq := rfl
@[simp] theorem await_trust (s : State) (w : Wait) : (await w s).trust = s.trust := rfl

end Sys2Proof.Machine
end

