-- ==== Sys2Proof/Laws/Store.lean ====
section
/-! SUPPORT. Laws of finite maps, rising lists and the byte store: what a read gives after a write, and that every write keeps
the canonical form. -/

namespace Sys2Proof.Machine

/-! ## Finite maps -/

@[simp] theorem mget?_mset_same {α : Type} (m : SMap α) (k : Nat) (v : α) : mget? (mset m k v) k = some v := by
  induction m with
  | nil => simp [mset, mget?]
  | cons a t ih =>
    obtain ⟨j, w⟩ := a
    simp only [mset]
    split
    · simp [mget?]
    · split
      · simp [mget?]
      · simp [mget?, ih]; intro h; omega

@[simp] theorem mget?_mset_other {α : Type} (m : SMap α) (k k' : Nat) (v : α) (h : k' ≠ k) :
    mget? (mset m k v) k' = mget? m k' := by
  induction m with
  | nil => simp [mset, mget?, Ne.symm h]
  | cons a t ih =>
    obtain ⟨j, w⟩ := a
    simp only [mset]
    split
    · subst_vars; simp [mget?, Ne.symm h]
    · split
      · simp [mget?, Ne.symm h]
      · simp only [mget?]; rw [ih]

@[simp] theorem mget_mset_same {α : Type} (m : SMap α) (k : Nat) (v d : α) : mget (mset m k v) k d = v := by
  simp [mget]

@[simp] theorem mget_mset_other {α : Type} (m : SMap α) (k k' : Nat) (v d : α) (h : k' ≠ k) :
    mget (mset m k v) k' d = mget m k' d := by
  simp [mget, h]

@[simp] theorem mget?_mdel_same {α : Type} (m : SMap α) (k : Nat) : mget? (mdel m k) k = none := by
  induction m with
  | nil => simp [mdel, mget?]
  | cons a t ih =>
    obtain ⟨j, w⟩ := a
    by_cases hj : j = k
    · subst hj; simpa [mdel, mget?] using ih
    · have : mdel ((j, w) :: t) k = (j, w) :: mdel t k := by simp [mdel, hj]
      simp [this, mget?, hj, ih]

@[simp] theorem mget?_mdel_other {α : Type} (m : SMap α) (k k' : Nat) (h : k' ≠ k) : mget? (mdel m k) k' = mget? m k' := by
  induction m with
  | nil => simp [mdel, mget?]
  | cons a t ih =>
    obtain ⟨j, w⟩ := a
    by_cases hj : j = k
    · subst hj
      have : mdel ((j, w) :: t) j = mdel t j := by simp [mdel]
      simp [this, mget?, Ne.symm h, ih]
    · have : mdel ((j, w) :: t) k = (j, w) :: mdel t k := by simp [mdel, hj]
      simp [this, mget?, ih]

/-! ## Bytes -/

/-- A lower bound on the addresses of a byte store. -/
def lowerBound (n : Nat) : List Host.Cell → Prop
  | [] => True
  | (k, _) :: _ => n < k

theorem cellsWf_cons {k : Nat} {v : Byte} {t : List Host.Cell} :
    cellsWf ((k, v) :: t) = true ↔ v ≠ 0 ∧ lowerBound k t ∧ cellsWf t = true := by
  cases t with
  | nil => simp [cellsWf, lowerBound]
  | cons a t => obtain ⟨k', v'⟩ := a; simp [cellsWf, lowerBound, and_assoc]

theorem lowerBound_trans {m n : Nat} {l : List Host.Cell} (h : m ≤ n) (hl : lowerBound n l) : lowerBound m l := by
  cases l with
  | nil => trivial
  | cons a t => exact Nat.lt_of_le_of_lt h hl

theorem lowerBound_cellSet {n a : Nat} {b : Byte} {l : List Host.Cell} (hl : lowerBound n l) (h : n < a) (hw : cellsWf l = true) :
    lowerBound n (cellSet l a b) := by
  cases l with
  | nil => simp only [cellSet]; split <;> simp [lowerBound, h]
  | cons c t =>
    obtain ⟨k, v⟩ := c
    simp only [cellSet]
    split
    · split
      · exact hl
      · exact h
    · split
      · split
        · exact lowerBound_trans (Nat.le_of_lt hl) (cellsWf_cons.1 hw).2.1
        · exact h
      · exact hl

/-- Writing a byte keeps the canonical form. -/
theorem cellSet_wf {l : List Host.Cell} (a : Nat) (b : Byte) (h : cellsWf l = true) : cellsWf (cellSet l a b) = true := by
  induction l with
  | nil => simp only [cellSet]; split <;> simp_all [cellsWf]
  | cons c t ih =>
    obtain ⟨k, v⟩ := c
    have ⟨hv, hk, ht⟩ := cellsWf_cons.1 h
    simp only [cellSet]
    split
    · split
      · exact h
      · next hak hb => exact cellsWf_cons.2 ⟨hb, hak, h⟩
    · split
      · split
        · exact ht
        · next h1 h2 hb => subst h2; exact cellsWf_cons.2 ⟨hb, hk, ht⟩
      · exact cellsWf_cons.2 ⟨hv, lowerBound_cellSet hk (by omega) ht, ih ht⟩

theorem cellGet_lowerBound {l : List Host.Cell} {a : Nat} (hl : lowerBound a l) (h : cellsWf l = true) : cellGet l a = 0 := by
  induction l with
  | nil => rfl
  | cons c t ih =>
    obtain ⟨k, v⟩ := c
    have ⟨_, hk, ht⟩ := cellsWf_cons.1 h
    have : a < k := hl
    simp only [cellGet]
    rw [if_neg (by omega)]
    exact ih (lowerBound_trans (by omega) hk) ht

/-- A byte reads as it was written. -/
theorem cellGet_cellSet_same {l : List Host.Cell} (a : Nat) (b : Byte) (h : cellsWf l = true) : cellGet (cellSet l a b) a = b := by
  induction l with
  | nil => simp only [cellSet]; split <;> simp_all [cellGet]
  | cons c t ih =>
    obtain ⟨k, v⟩ := c
    have ⟨_, hk, ht⟩ := cellsWf_cons.1 h
    simp only [cellSet]
    split
    · split
      · next hak hb =>
          rw [hb]
          exact cellGet_lowerBound (l := (k, v) :: t) hak h
      · simp [cellGet]
    · split
      · split
        · next h1 h2 hb => subst h2; rw [hb]; exact cellGet_lowerBound hk ht
        · simp [cellGet]
      · simp only [cellGet]
        rw [if_neg (by omega)]
        exact ih ht

/-- A write leaves every other byte alone. -/
@[simp] theorem cellGet_cellSet_other (l : List Host.Cell) (a a' : Nat) (b : Byte) (h : a' ≠ a) :
    cellGet (cellSet l a b) a' = cellGet l a' := by
  induction l with
  | nil => simp only [cellSet]; split <;> simp [cellGet, Ne.symm h]
  | cons c t ih =>
    obtain ⟨k, v⟩ := c
    simp only [cellSet]
    split
    · split
      · rfl
      · simp [cellGet, Ne.symm h]
    · split
      · split
        · next h1 h2 hb => subst h2; simp [cellGet, Ne.symm h]
        · next h1 h2 hb => subst h2; simp [cellGet, Ne.symm h]
      · simp only [cellGet]; rw [ih]

theorem writeBytes_wf (bs : List Byte) : ∀ {l : List Host.Cell} (a : Nat), cellsWf l = true → cellsWf (writeBytes l a bs) = true := by
  induction bs with
  | nil => intro l a h; exact h
  | cons b t ih => intro l a h; exact ih (a + 1) (cellSet_wf a b h)

/-- A write of bytes leaves every byte outside them alone. -/
theorem cellGet_writeBytes_other (bs : List Byte) : ∀ (l : List Host.Cell) (a a' : Nat), a' < a ∨ a + bs.length ≤ a' →
    cellGet (writeBytes l a bs) a' = cellGet l a' := by
  induction bs with
  | nil => intro l a a' _; rfl
  | cons b t ih =>
    intro l a a' h
    simp only [List.length_cons] at h
    simp only [writeBytes]
    rw [ih _ _ _ (by omega), cellGet_cellSet_other _ _ _ _ (by omega)]

/-- The bytes written read back. -/
theorem readBytes_writeBytes_same (bs : List Byte) : ∀ {l : List Host.Cell} (a : Nat), cellsWf l = true →
    readBytes (writeBytes l a bs) a bs.length = bs := by
  induction bs with
  | nil => intro l a _; rfl
  | cons b t ih =>
    intro l a h
    have hw := cellSet_wf a b h
    simp only [writeBytes, List.length_cons, readBytes]
    rw [ih (a + 1) hw, cellGet_writeBytes_other t _ _ _ (by omega), cellGet_cellSet_same a b h]

/-! ## Numbers in bytes (00 R10) -/

theorem leNat_lt (bs : List Byte) : leNat bs < 256 ^ bs.length := by
  induction bs with
  | nil => simp [leNat]
  | cons b t ih =>
    have := b.isLt
    simp only [leNat, List.length_cons, Nat.pow_succ]
    omega

@[simp] theorem toBytes_length (n v : Nat) : (toBytes n v).length = n := by
  induction n generalizing v with
  | zero => rfl
  | succ n ih => simp [toBytes, ih]

/-- Little-endian bytes give their number back. -/
theorem leNat_toBytes (n v : Nat) : leNat (toBytes n v) = v % 256 ^ n := by
  induction n generalizing v with
  | zero => simp [toBytes, leNat, Nat.mod_one]
  | succ n ih =>
    have e : (256 : Nat) ^ (n + 1) = 256 * 256 ^ n := by rw [Nat.pow_succ, Nat.mul_comm]
    simp only [toBytes, leNat, ih, BitVec.toNat_ofNat]
    rw [e, Nat.mod_mul]

/-! ## Rising lists -/

theorem rising_cons {a : Nat} {l : List Nat} : rising (a :: l) = true ↔ (∀ x ∈ l, a < x) ∧ rising l = true := by
  induction l generalizing a with
  | nil => simp [rising]
  | cons b t ih =>
    simp only [rising, Bool.and_eq_true, decide_eq_true_eq, List.mem_cons, forall_eq_or_imp]
    constructor
    · intro ⟨h, hr⟩
      exact ⟨⟨h, fun x hx => Nat.lt_trans h ((ih.1 hr).1 x hx)⟩, hr⟩
    · intro ⟨⟨h, _⟩, hr⟩
      exact ⟨h, hr⟩

theorem mem_setIns {l : List Nat} {k x : Nat} : x ∈ setIns l k ↔ x = k ∨ x ∈ l := by
  induction l with
  | nil => simp [setIns]
  | cons j t ih =>
    simp only [setIns]
    split
    · next h => subst h; simp
    · split
      · simp
      · simp only [List.mem_cons, ih]; tauto

theorem setIns_rising {l : List Nat} (k : Nat) (h : rising l = true) : rising (setIns l k) = true := by
  induction l with
  | nil => rfl
  | cons j t ih =>
    have ⟨hj, ht⟩ := rising_cons.1 h
    simp only [setIns]
    split
    · exact h
    · split
      · next h1 h2 =>
          refine rising_cons.2 ⟨fun x hx => ?_, h⟩
          rcases List.mem_cons.1 hx with rfl | hx
          · exact h2
          · exact Nat.lt_trans h2 (hj x hx)
      · next h1 h2 =>
          refine rising_cons.2 ⟨fun x hx => ?_, ih ht⟩
          rcases mem_setIns.1 hx with rfl | hx
          · omega
          · exact hj x hx

theorem setDel_rising {l : List Nat} (k : Nat) (h : rising l = true) : rising (setDel l k) = true := by
  induction l with
  | nil => rfl
  | cons j t ih =>
    have ⟨hj, ht⟩ := rising_cons.1 h
    by_cases hk : j = k
    · subst hk; simpa [setDel] using ih ht
    · have : setDel (j :: t) k = j :: setDel t k := by simp [setDel, hk]
      rw [this]
      exact rising_cons.2 ⟨fun x hx => hj x (List.mem_of_mem_filter hx), ih ht⟩

theorem rising_filter {l : List Nat} (p : Nat → Bool) (h : rising l = true) : rising (l.filter p) = true := by
  induction l with
  | nil => rfl
  | cons a t ih =>
    obtain ⟨ha, ht⟩ := rising_cons.1 h
    cases hp : p a
    · simpa [hp] using ih ht
    · simp only [List.filter_cons, hp, if_true]
      exact rising_cons.2 ⟨fun x hx => ha x (List.mem_of_mem_filter hx), ih ht⟩

theorem lowerBound_filter {n : Nat} {l : List Host.Cell} (p : Host.Cell → Bool) (hl : lowerBound n l) (hw : cellsWf l = true) :
    lowerBound n (l.filter p) := by
  induction l generalizing n with
  | nil => trivial
  | cons c t ih =>
    obtain ⟨k, v⟩ := c
    obtain ⟨_, hk, ht⟩ := cellsWf_cons.1 hw
    cases hp : p (k, v)
    · simpa [hp] using ih (lowerBound_trans (Nat.le_of_lt hl) hk) ht
    · simp only [List.filter_cons, hp, if_true]
      exact hl

/-- Leaving cells out keeps the canonical form. -/
theorem cellsWf_filter {l : List Host.Cell} (p : Host.Cell → Bool) (h : cellsWf l = true) : cellsWf (l.filter p) = true := by
  induction l with
  | nil => rfl
  | cons c t ih =>
    obtain ⟨k, v⟩ := c
    obtain ⟨hv, hk, ht⟩ := cellsWf_cons.1 h
    cases hp : p (k, v)
    · simpa [hp] using ih ht
    · simp only [List.filter_cons, hp, if_true]
      exact cellsWf_cons.2 ⟨hv, lowerBound_filter p hk ht, ih ht⟩

/-! ## Memories -/

theorem Memory.wf_iff {m : TagMem} : Memory.wf m = true ↔ cellsWf m.cells = true ∧ rising m.full = true ∧ rising m.pois = true := by
  simp [Memory.wf, and_assoc]

theorem setTag_wf {m : TagMem} (i : Nat) (f : Bool) (h : Memory.wf m = true) : Memory.wf (setTag m i f) = true := by
  have ⟨h1, h2, h3⟩ := Memory.wf_iff.1 h
  refine Memory.wf_iff.2 ⟨h1, ?_, h3⟩
  cases f
  · exact setDel_rising i h2
  · exact setIns_rising i h2

theorem setPois_wf {m : TagMem} (i : Nat) (p : Bool) (h : Memory.wf m = true) : Memory.wf (setPois m i p) = true := by
  have ⟨h1, h2, h3⟩ := Memory.wf_iff.1 h
  refine Memory.wf_iff.2 ⟨h1, h2, ?_⟩
  cases p
  · exact setDel_rising i h3
  · exact setIns_rising i h3

theorem withCells_wf {m : TagMem} {c : List Host.Cell} (h : Memory.wf m = true) (hc : cellsWf c = true) :
    Memory.wf { m with cells := c } = true := by
  have ⟨_, h2, h3⟩ := Memory.wf_iff.1 h
  exact Memory.wf_iff.2 ⟨hc, h2, h3⟩

/-- A byte written to device memory keeps the canonical form. -/
theorem devSetByte_wf {m : TagMem} (a : Nat) (b : Byte) (p : Bool) (h : Memory.wf m = true) : Memory.wf (devSetByte m a b p) = true := by
  have hc := (Memory.wf_iff.1 h).1
  simp only [devSetByte]
  split
  · exact withCells_wf (setPois_wf _ _ h) (cellSet_wf a b hc)
  · split
    · exact withCells_wf (setPois_wf _ _ h) (cellSet_wf a b (writeBytes_wf _ _ hc))
    · exact withCells_wf h (cellSet_wf a b hc)

/-- A store to device memory keeps the canonical form. -/
theorem devWrite_wf (p : Bool) (bs : List Byte) : ∀ {m : TagMem} (a : Nat), Memory.wf m = true → Memory.wf (devWrite m p a bs) = true := by
  induction bs with
  | nil => intro m a h; exact h
  | cons b t ih => intro m a h; exact ih (a + 1) (devSetByte_wf a b p h)

theorem foldl_wf {α : Type} (l : List α) (f : TagMem → α → TagMem) (hf : ∀ m x, Memory.wf m = true → Memory.wf (f m x) = true) :
    ∀ m, Memory.wf m = true → Memory.wf (l.foldl f m) = true := by
  induction l with
  | nil => intro m h; exact h
  | cons x t ih => intro m h; exact ih _ (hf m x h)

/-- A store to an SRAM keeps the canonical form. -/
theorem sramWrite_wf {m : TagMem} (whole : Bool) (a : Nat) (bs : List Byte) (p : Bool) (h : Memory.wf m = true) :
    Memory.wf (sramWrite m whole a bs p) = true := by
  simp only [sramWrite]
  refine foldl_wf _ _ (fun n x hn => ?_) _ (withCells_wf h (writeBytes_wf bs a (Memory.wf_iff.1 h).1))
  split
  · exact setPois_wf _ _ hn
  · split
    · split
      · exact setPois_wf _ _ hn
      · exact hn
    · exact setPois_wf _ _ hn

/-- A store at a place of device memory leaves the bytes of other 64-byte lines alone, and those of its own lines outside the
store unless the line was marked. -/
theorem cellGet_devSetByte_other (m : TagMem) (a a' : Nat) (b : Byte) (p : Bool) (h : a' ≠ a)
    (hl : a' / 64 ≠ a / 64 ∨ isPois m (a / 64) = false ∨ p = true) :
    cellGet (devSetByte m a b p).cells a' = cellGet m.cells a' := by
  simp only [devSetByte]
  split
  · simp [h]
  · split
    · next hp hm =>
        have hl' : a' / 64 ≠ a / 64 := by
          rcases hl with hl | hl | hl
          · exact hl
          · rw [hm] at hl; cases hl
          · exact absurd hl hp
        simp only [cellGet_cellSet_other _ _ _ _ h]
        exact cellGet_writeBytes_other _ _ _ _ (by simp only [List.length_replicate]; omega)
    · simp [h]

end Sys2Proof.Machine
end

