-- ==== Sys2Proof/Laws/Ops.lean ====
section
/-! SUPPORT. What the shared operations do, each said once: memory places, registers, issue, traps. -/

namespace Sys2Proof.Machine

/-! ## Memory places -/

theorem memOk_reset : memOk State.reset := ⟨rfl, rfl, rfl⟩

/-- A store at a place keeps every memory's canonical form. -/
theorem placeWrite_memOk {s : State} (p : Place) (bs : List Byte) (b : Bool) (h : memOk s) : memOk (placeWrite s p bs b) := by
  obtain ⟨h1, h2, h3⟩ := h
  cases p with
  | dev a => exact ⟨devWrite_wf b bs a h1, h2, h3⟩
  | loc c o => exact ⟨h1, sramWrite_wf true _ bs b h2, h3⟩
  | spad e o => exact ⟨h1, h2, sramWrite_wf false _ bs b h3⟩
  | peer d a => exact ⟨h1, h2, h3⟩
  | hub o => exact ⟨h1, h2, h3⟩

/-- Setting a tag keeps every memory's canonical form. -/
theorem placeSetTag_memOk {s : State} (p : Place) (f : Bool) (h : memOk s) : memOk (placeSetTag s p f) := by
  obtain ⟨h1, h2, h3⟩ := h
  cases p with
  | dev a => exact ⟨setTag_wf _ f h1, h2, h3⟩
  | loc c o => exact ⟨h1, setTag_wf _ f h2, h3⟩
  | spad e o => exact ⟨h1, h2, setTag_wf _ f h3⟩
  | peer d a => exact ⟨h1, h2, h3⟩
  | hub o => exact ⟨h1, h2, h3⟩

/-- Setting or clearing the mark of a place keeps every memory's canonical form. -/
theorem markPlace_memOk {s : State} (p : Place) (b : Bool) (h : memOk s) : memOk (markPlace p b s) := by
  obtain ⟨h1, h2, h3⟩ := h
  cases p with
  | dev a => exact ⟨setPois_wf _ b h1, h2, h3⟩
  | loc c o => exact ⟨h1, setPois_wf _ b h2, h3⟩
  | spad e o => exact ⟨h1, h2, setPois_wf _ b h3⟩
  | peer d a => exact ⟨h1, h2, h3⟩
  | hub o => exact ⟨h1, h2, h3⟩

/-- Putting back a line of an aborted transaction keeps every memory's canonical form. -/
theorem undoLine_memOk {s : State} (u : Nat × List Byte × Bool × Bool) (h : memOk s) : memOk (undoLine s u) := by
  obtain ⟨h1, h2, h3⟩ := h
  exact ⟨setPois_wf _ _ (setPois_wf _ _ (withCells_wf h1 (writeBytes_wf _ _ (Memory.wf_iff.1 h1).1))), h2, h3⟩

/-- Putting back the logged words of store cells keeps every memory's canonical form. -/
theorem undoSpad_memOk (l : List (Nat × W32 × Bool × Bool)) : ∀ {s : State}, memOk s → memOk (undoSpad l s) := by
  induction l with
  | nil => intro s h; exact h
  | cons u t ih =>
    intro s h
    have hw := placeSetTag_memOk (.spad (u.1 % 2 ^ 40 / 8192) (u.1 % 8192 * 4)) u.2.2.1
      (placeWrite_memOk (.spad (u.1 % 2 ^ 40 / 8192) (u.1 % 8192 * 4)) (toBytes 4 u.2.1.toNat) false h)
    exact ih ⟨hw.1, hw.2.1, setPois_wf _ _ hw.2.2⟩

/-- The part of a memory that belongs to some elements is canonical. -/
theorem TagMem.part_wf {m : TagMem} (p : Nat → Bool) (h : Memory.wf m = true) : Memory.wf (m.part p) = true := by
  obtain ⟨h1, h2, h3⟩ := Memory.wf_iff.1 h
  exact Memory.wf_iff.2 ⟨cellsWf_filter _ h1, rising_filter _ h2, rising_filter _ h3⟩

/-- Adding another memory's bytes, tags and marks keeps the canonical form. -/
theorem TagMem.add_wf {m : TagMem} (a : TagMem) (h : Memory.wf m = true) : Memory.wf (m.add a) = true := by
  obtain ⟨h1, h2, h3⟩ := Memory.wf_iff.1 h
  refine Memory.wf_iff.2 ⟨?_, ?_, ?_⟩
  · exact List.foldlRecOn (motive := fun l => cellsWf l = true) a.cells _ h1 fun l hl c _ => cellSet_wf c.1 c.2 hl
  · exact List.foldlRecOn (motive := fun l => rising l = true) a.full _ h2 fun l hl i _ => setIns_rising i hl
  · exact List.foldlRecOn (motive := fun l => rising l = true) a.pois _ h3 fun l hl i _ => setIns_rising i hl


/-! ## Cores -/

@[simp] theorem core_setCore_same (s : State) (c : Nat) (k : CoreState) : core (setCore s c k) c = k := by
  simp [core, setCore]

@[simp] theorem core_setCore_other (s : State) (c d : Nat) (k : CoreState) (h : d ≠ c) : core (setCore s c k) d = core s d := by
  simp [core, setCore, h]

@[simp] theorem core_updCore_same (s : State) (c : Nat) (f : CoreState → CoreState) : core (updCore s c f) c = f (core s c) := by
  simp [updCore]

@[simp] theorem core_updCore_other (s : State) (c d : Nat) (f : CoreState → CoreState) (h : d ≠ c) :
    core (updCore s c f) d = core s d := by
  simp [updCore, h]

@[simp] theorem thr_updThr_same (s : State) (c : Nat) (f : Thread → Thread) : thr (updThr s c f) c = f (thr s c) := by
  simp [updThr, thr]

@[simp] theorem core_updThr_other (s : State) (c d : Nat) (f : Thread → Thread) (h : d ≠ c) : core (updThr s c f) d = core s d := by
  simp [updThr, h]

@[simp] theorem th_updMe (s : State) (f : Thread → Thread) : th (updMe s f) = f (th s) := by
  show (core (updCore s s.cur _) s.cur).t = _
  simp [th, me]

/-! ## Registers (03 R71) -/

/-- x0 reads zero. -/
@[simp] theorem rx_zero (s : State) : rx s 0 = 0 := rfl

@[simp] theorem th_wx (s : State) (i : Nat) (v : Word) : th (wx s i v) = (th s).setX i v := by
  show (core (updCore s s.cur _) s.cur).t = _
  simp [th, me]

@[simp] theorem th_wk (s : State) (i : Nat) (b : Bool) : th (wk s i b) = (th s).setK i b := by
  show (core (updCore s s.cur _) s.cur).t = _
  simp [th, me]

/-- A register reads as it was written. -/
theorem rx_wx_same (s : State) (i : Nat) (v : Word) (h : i ≠ 0) : rx (wx s i v) i = v := by
  simp [rx, Thread.setX, Thread.getX, h]

/-- A write leaves every other register alone, and a write of x0 leaves all alone. -/
theorem rx_wx_other (s : State) (i j : Nat) (v : Word) (h : j ≠ i ∨ i = 0) : rx (wx s i v) j = rx s j := by
  by_cases hi : i = 0
  · simp [rx, Thread.setX, hi]
  · have hj : j ≠ i := by rcases h with h | h <;> [exact h; exact absurd h hi]
    simp [rx, Thread.setX, Thread.getX, hi, hj]

/-- A predicate reads as it was written. -/
theorem rk_wk_same (s : State) (i : Nat) (b : Bool) (h : i ≠ 0) : rk (wk s i b) i = b := by
  cases b <;> simp [rk, Thread.setK, Thread.getK, h, mem_setIns, setDel]

/-- A write leaves every other predicate alone. -/
theorem rk_wk_other (s : State) (i j : Nat) (b : Bool) (h : j ≠ i ∨ i = 0) : rk (wk s i b) j = rk s j := by
  by_cases hi : i = 0
  · simp [rk, Thread.setK, hi]
  · have hj : j ≠ i := by rcases h with h | h <;> [exact h; exact absurd h hi]
    cases b <;> simp [rk, Thread.setK, Thread.getK, hi, mem_setIns, setDel, hj]

/-! ## Completion (04 R120) -/

@[simp] theorem th_advance (n : Nat) (s : State) : th (advance n s) = (th s).step n := th_updMe s _

theorem core_advance_other (n : Nat) (s : State) (d : Nat) (h : d ≠ s.cur) : core (advance n s) d = core s d :=
  core_updThr_other s s.cur d _ h

/-! ## Issue (03 R90, R91; 17 R395) -/

theorem parityFix_clean {regs : List Nat} {s : State} (h : Clean s regs) : parityFix regs s = .ok s := by
  have h1 : regs.find? (me s).unfit = none := by
    rw [List.find?_eq_none]
    intro r hr
    simp [CoreState.unfit, h r hr]
  have h2 : regs.filter (fun r => (mget? (me s).parity r).isSome) = [] := by
    rw [List.filter_eq_nil_iff]
    intro r hr
    simp [h r hr]
  simp [parityFix, h1, h2]

/-- A ready instruction has its effect. -/
theorem issue_ready {g len : Nat} {regs : List Nat} {s : State} (h : Ready s g regs) (f : State → State) :
    issue g len regs s f = .next (f s) := by
  have h1 : Clean s [32 + g] := fun r hr => h.2 r (by simp_all)
  have h2 : Clean s regs := fun r hr => h.2 r (by simp [hr])
  simp [issue, parityFix_clean h1, parityFix_clean h2, h.1]

/-- An instruction whose guard is false only moves on: it reads no register but its guard. -/
theorem issue_skip {g len : Nat} {regs : List Nat} {s : State} (hg : rk s g = false) (h : Clean s [32 + g])
    (f : State → State) : issue g len regs s f = .next (advance len s) := by
  simp [issue, parityFix_clean h, hg]

theorem issueB_clean {regs : List Nat} {s : State} (h : Clean s regs) (f : State → State) : issueB regs s f = .next (f s) := by
  simp [issueB, parityFix_clean h]

theorem issueSupv_ready {i : Instr} {g : Nat} {regs : List Nat} {s : State} (hs : (th s).status.supv = true)
    (h : Ready s g regs) (f : State → State) : issueSupv i g regs s f = .next (f s) := by
  simp [issueSupv, hs, issue_ready h]

/-- In user mode a supervisor instruction raises PRIV. -/
theorem issueSupv_user {i : Instr} {g : Nat} {regs : List Nat} {s : State} (hs : (th s).status.supv = false) (f : State → State) :
    issueSupv i g regs s f = .next (trap 0x002 (BitVec.ofNat 64 ((encode i).headD 0)) s) := by
  simp [issueSupv, hs]

/-- Everything that issuing an instruction can come to. -/
theorem issue_cases {g len : Nat} {regs : List Nat} {s t : State} {f : State → State} (h : issue g len regs s f = .next t) :
    (∃ r, parityFix [32 + g] s = .error r ∧ t = parityFail r s) ∨
    (∃ s' r, parityFix [32 + g] s = .ok s' ∧ rk s' g = true ∧ parityFix regs s' = .error r ∧ t = parityFail r s') ∨
    (∃ s' s'', parityFix [32 + g] s = .ok s' ∧ rk s' g = true ∧ parityFix regs s' = .ok s'' ∧ t = f s'') ∨
    (∃ s', parityFix [32 + g] s = .ok s' ∧ rk s' g = false ∧ t = advance len s') := by
  simp only [issue, Host.Outcome.next.injEq] at h
  split at h
  · next r hr => exact .inl ⟨r, hr, h.symm⟩
  · next s' hr =>
    split at h
    · next hk =>
      split at h
      · next r hf => exact .inr (.inl ⟨s', r, hr, hk, hf, h.symm⟩)
      · next s'' hf => exact .inr (.inr (.inl ⟨s', s'', hr, hk, hf, h.symm⟩))
    · next hk => exact .inr (.inr (.inr ⟨s', hr, by simpa using hk, h.symm⟩))

/-! ## Traps (04 R124; 13 R348) -/

/-- Outside a handler a synchronous cause enters the trap handler. -/
theorem trap_enters {s : State} (code : BitVec 10) (tval : Word) (h : (th s).status.intrap = false) :
    trap code tval s = enterTrap s.cur false code tval 0 s := by
  have h' : (thr s s.cur).status.intrap = false := h
  simp [trap, trapCore, h']

/-- In a handler it is a double fault. -/
theorem trap_doubles {s : State} (code : BitVec 10) (tval : Word) (h : (th s).status.intrap = true) :
    trap code tval s = doubleFault s.cur code tval s := by
  have h' : (thr s s.cur).status.intrap = true := h
  simp [trap, trapCore, h']

end Sys2Proof.Machine
end

