-- ==== Sys2Proof/Laws/PerInstr.lean ====
section
/-! SUPPORT. Facts about each constructor of Instr as syntax. -/

namespace Sys2Proof.Laws.EncodeLength

/-- An instruction takes at most two words (03 R85). -/
def Statement (i : Instr) : Prop := (encode i).length ≤ 2

theorem add (rd ra rb g : Nat) : Statement (.add rd ra rb g) := Nat.le_of_ble_eq_true rfl
theorem sub (rd ra rb g : Nat) : Statement (.sub rd ra rb g) := Nat.le_of_ble_eq_true rfl
theorem and (rd ra rb g : Nat) : Statement (.and rd ra rb g) := Nat.le_of_ble_eq_true rfl
theorem or (rd ra rb g : Nat) : Statement (.or rd ra rb g) := Nat.le_of_ble_eq_true rfl
theorem xor (rd ra rb g : Nat) : Statement (.xor rd ra rb g) := Nat.le_of_ble_eq_true rfl
theorem andn (rd ra rb g : Nat) : Statement (.andn rd ra rb g) := Nat.le_of_ble_eq_true rfl
theorem sll (rd ra rb g : Nat) : Statement (.sll rd ra rb g) := Nat.le_of_ble_eq_true rfl
theorem srl (rd ra rb g : Nat) : Statement (.srl rd ra rb g) := Nat.le_of_ble_eq_true rfl
theorem sra (rd ra rb g : Nat) : Statement (.sra rd ra rb g) := Nat.le_of_ble_eq_true rfl
theorem mul (rd ra rb g : Nat) : Statement (.mul rd ra rb g) := Nat.le_of_ble_eq_true rfl
theorem mulhI64 (rd ra rb g : Nat) : Statement (.mulhI64 rd ra rb g) := Nat.le_of_ble_eq_true rfl
theorem mulhN64 (rd ra rb g : Nat) : Statement (.mulhN64 rd ra rb g) := Nat.le_of_ble_eq_true rfl
theorem divI64 (rd ra rb g : Nat) : Statement (.divI64 rd ra rb g) := Nat.le_of_ble_eq_true rfl
theorem divN64 (rd ra rb g : Nat) : Statement (.divN64 rd ra rb g) := Nat.le_of_ble_eq_true rfl
theorem remI64 (rd ra rb g : Nat) : Statement (.remI64 rd ra rb g) := Nat.le_of_ble_eq_true rfl
theorem remN64 (rd ra rb g : Nat) : Statement (.remN64 rd ra rb g) := Nat.le_of_ble_eq_true rfl
theorem minI64 (rd ra rb g : Nat) : Statement (.minI64 rd ra rb g) := Nat.le_of_ble_eq_true rfl
theorem maxI64 (rd ra rb g : Nat) : Statement (.maxI64 rd ra rb g) := Nat.le_of_ble_eq_true rfl
theorem minN64 (rd ra rb g : Nat) : Statement (.minN64 rd ra rb g) := Nat.le_of_ble_eq_true rfl
theorem maxN64 (rd ra rb g : Nat) : Statement (.maxN64 rd ra rb g) := Nat.le_of_ble_eq_true rfl
theorem addsI32 (rd ra rb g : Nat) : Statement (.addsI32 rd ra rb g) := Nat.le_of_ble_eq_true rfl
theorem subsI32 (rd ra rb g : Nat) : Statement (.subsI32 rd ra rb g) := Nat.le_of_ble_eq_true rfl
theorem addsI64 (rd ra rb g : Nat) : Statement (.addsI64 rd ra rb g) := Nat.le_of_ble_eq_true rfl
theorem subsI64 (rd ra rb g : Nat) : Statement (.subsI64 rd ra rb g) := Nat.le_of_ble_eq_true rfl
theorem clz (rd ra g : Nat) : Statement (.clz rd ra g) := Nat.le_of_ble_eq_true rfl
theorem ctz (rd ra g : Nat) : Statement (.ctz rd ra g) := Nat.le_of_ble_eq_true rfl
theorem popc (rd ra g : Nat) : Statement (.popc rd ra g) := Nat.le_of_ble_eq_true rfl
theorem addi (rd ra g imm : Nat) : Statement (.addi rd ra g imm) := Nat.le_of_ble_eq_true rfl
theorem andi (rd ra g imm : Nat) : Statement (.andi rd ra g imm) := Nat.le_of_ble_eq_true rfl
theorem ori (rd ra g imm : Nat) : Statement (.ori rd ra g imm) := Nat.le_of_ble_eq_true rfl
theorem xori (rd ra g imm : Nat) : Statement (.xori rd ra g imm) := Nat.le_of_ble_eq_true rfl
theorem slli (rd ra g n : Nat) : Statement (.slli rd ra g n) := Nat.le_of_ble_eq_true rfl
theorem srli (rd ra g n : Nat) : Statement (.srli rd ra g n) := Nat.le_of_ble_eq_true rfl
theorem srai (rd ra g n : Nat) : Statement (.srai rd ra g n) := Nat.le_of_ble_eq_true rfl
theorem ldhi (rd imm : Nat) : Statement (.ldhi rd imm) := Nat.le_of_ble_eq_true rfl
theorem addpc (rd imm : Nat) : Statement (.addpc rd imm) := Nat.le_of_ble_eq_true rfl
theorem li (rd g ext : Nat) : Statement (.li rd g ext) := Nat.le_of_ble_eq_true rfl
theorem lih (rd g ext : Nat) : Statement (.lih rd g ext) := Nat.le_of_ble_eq_true rfl
theorem cmpEq (rd ra rb g : Nat) : Statement (.cmpEq rd ra rb g) := Nat.le_of_ble_eq_true rfl
theorem cmpNe (rd ra rb g : Nat) : Statement (.cmpNe rd ra rb g) := Nat.le_of_ble_eq_true rfl
theorem cmpLtI64 (rd ra rb g : Nat) : Statement (.cmpLtI64 rd ra rb g) := Nat.le_of_ble_eq_true rfl
theorem cmpGeI64 (rd ra rb g : Nat) : Statement (.cmpGeI64 rd ra rb g) := Nat.le_of_ble_eq_true rfl
theorem cmpLtN64 (rd ra rb g : Nat) : Statement (.cmpLtN64 rd ra rb g) := Nat.le_of_ble_eq_true rfl
theorem cmpGeN64 (rd ra rb g : Nat) : Statement (.cmpGeN64 rd ra rb g) := Nat.le_of_ble_eq_true rfl
theorem kand (rd ra rb g : Nat) : Statement (.kand rd ra rb g) := Nat.le_of_ble_eq_true rfl
theorem kor (rd ra rb g : Nat) : Statement (.kor rd ra rb g) := Nat.le_of_ble_eq_true rfl
theorem kxor (rd ra rb g : Nat) : Statement (.kxor rd ra rb g) := Nat.le_of_ble_eq_true rfl
theorem kandn (rd ra rb g : Nat) : Statement (.kandn rd ra rb g) := Nat.le_of_ble_eq_true rfl
theorem knot (rd ra g : Nat) : Statement (.knot rd ra g) := Nat.le_of_ble_eq_true rfl
theorem kmov (rd ra g : Nat) : Statement (.kmov rd ra g) := Nat.le_of_ble_eq_true rfl
theorem kget (rd ra g : Nat) : Statement (.kget rd ra g) := Nat.le_of_ble_eq_true rfl
theorem sel (rd ra rb kg : Nat) : Statement (.sel rd ra rb kg) := Nat.le_of_ble_eq_true rfl
theorem cmpiEq (rd ra g imm : Nat) : Statement (.cmpiEq rd ra g imm) := Nat.le_of_ble_eq_true rfl
theorem cmpiLtI64 (rd ra g imm : Nat) : Statement (.cmpiLtI64 rd ra g imm) := Nat.le_of_ble_eq_true rfl
theorem cmpiLtN64 (rd ra g imm : Nat) : Statement (.cmpiLtN64 rd ra g imm) := Nat.le_of_ble_eq_true rfl
theorem beq (ra rb ofs : Nat) : Statement (.beq ra rb ofs) := Nat.le_of_ble_eq_true rfl
theorem bne (ra rb ofs : Nat) : Statement (.bne ra rb ofs) := Nat.le_of_ble_eq_true rfl
theorem bltI64 (ra rb ofs : Nat) : Statement (.bltI64 ra rb ofs) := Nat.le_of_ble_eq_true rfl
theorem bgeI64 (ra rb ofs : Nat) : Statement (.bgeI64 ra rb ofs) := Nat.le_of_ble_eq_true rfl
theorem bltN64 (ra rb ofs : Nat) : Statement (.bltN64 ra rb ofs) := Nat.le_of_ble_eq_true rfl
theorem bgeN64 (ra rb ofs : Nat) : Statement (.bgeN64 ra rb ofs) := Nat.le_of_ble_eq_true rfl
theorem bk (ra ofs : Nat) : Statement (.bk ra ofs) := Nat.le_of_ble_eq_true rfl
theorem bnk (ra ofs : Nat) : Statement (.bnk ra ofs) := Nat.le_of_ble_eq_true rfl
theorem call (rd ofs : Nat) : Statement (.call rd ofs) := Nat.le_of_ble_eq_true rfl
theorem callr (rd ra g imm : Nat) : Statement (.callr rd ra g imm) := Nat.le_of_ble_eq_true rfl
theorem loop (lp ra g imm : Nat) : Statement (.loop lp ra g imm) := Nat.le_of_ble_eq_true rfl
theorem ldI8 (rd ra g imm : Nat) : Statement (.ldI8 rd ra g imm) := Nat.le_of_ble_eq_true rfl
theorem ldN8 (rd ra g imm : Nat) : Statement (.ldN8 rd ra g imm) := Nat.le_of_ble_eq_true rfl
theorem ldI16 (rd ra g imm : Nat) : Statement (.ldI16 rd ra g imm) := Nat.le_of_ble_eq_true rfl
theorem ldN16 (rd ra g imm : Nat) : Statement (.ldN16 rd ra g imm) := Nat.le_of_ble_eq_true rfl
theorem ldI32 (rd ra g imm : Nat) : Statement (.ldI32 rd ra g imm) := Nat.le_of_ble_eq_true rfl
theorem ldN32 (rd ra g imm : Nat) : Statement (.ldN32 rd ra g imm) := Nat.le_of_ble_eq_true rfl
theorem ldI64 (rd ra g imm : Nat) : Statement (.ldI64 rd ra g imm) := Nat.le_of_ble_eq_true rfl
theorem loadDataReturn (c v : Nat) : Statement (.loadDataReturn c v) := Nat.le_of_ble_eq_true rfl
theorem stN8 (rb ra g imm : Nat) : Statement (.stN8 rb ra g imm) := Nat.le_of_ble_eq_true rfl
theorem stN16 (rb ra g imm : Nat) : Statement (.stN16 rb ra g imm) := Nat.le_of_ble_eq_true rfl
theorem stN32 (rb ra g imm : Nat) : Statement (.stN32 rb ra g imm) := Nat.le_of_ble_eq_true rfl
theorem stN64 (rb ra g imm : Nat) : Statement (.stN64 rb ra g imm) := Nat.le_of_ble_eq_true rfl
theorem remoteStoreFail (n : Nat) : Statement (.remoteStoreFail n) := Nat.le_of_ble_eq_true rfl
theorem movedRetry (n : Nat) : Statement (.movedRetry n) := Nat.le_of_ble_eq_true rfl
theorem tldTake (rd ra g : Nat) : Statement (.tldTake rd ra g) := Nat.le_of_ble_eq_true rfl
theorem tldKeep (rd ra g : Nat) : Statement (.tldKeep rd ra g) := Nat.le_of_ble_eq_true rfl
theorem tstFill (ra rb g : Nat) : Statement (.tstFill ra rb g) := Nat.le_of_ble_eq_true rfl
theorem tstSet (ra rb g : Nat) : Statement (.tstSet ra rb g) := Nat.le_of_ble_eq_true rfl
theorem tagGet (rd ra g : Nat) : Statement (.tagGet rd ra g) := Nat.le_of_ble_eq_true rfl
theorem tagClr (ra g : Nat) : Statement (.tagClr ra g) := Nat.le_of_ble_eq_true rfl
theorem taggedWaiterServe (n : Nat) : Statement (.taggedWaiterServe n) := Nat.le_of_ble_eq_true rfl
theorem tagWaitTimeout (c : Nat) : Statement (.tagWaitTimeout c) := Nat.le_of_ble_eq_true rfl
theorem amoAdd (rd ra rb g w : Nat) : Statement (.amoAdd rd ra rb g w) := Nat.le_of_ble_eq_true rfl
theorem amoAnd (rd ra rb g w : Nat) : Statement (.amoAnd rd ra rb g w) := Nat.le_of_ble_eq_true rfl
theorem amoOr (rd ra rb g w : Nat) : Statement (.amoOr rd ra rb g w) := Nat.le_of_ble_eq_true rfl
theorem amoXor (rd ra rb g w : Nat) : Statement (.amoXor rd ra rb g w) := Nat.le_of_ble_eq_true rfl
theorem amoMinSigned (rd ra rb g w : Nat) : Statement (.amoMinSigned rd ra rb g w) := Nat.le_of_ble_eq_true rfl
theorem amoMaxSigned (rd ra rb g w : Nat) : Statement (.amoMaxSigned rd ra rb g w) := Nat.le_of_ble_eq_true rfl
theorem amoMinUnsigned (rd ra rb g w : Nat) : Statement (.amoMinUnsigned rd ra rb g w) := Nat.le_of_ble_eq_true rfl
theorem amoMaxUnsigned (rd ra rb g w : Nat) : Statement (.amoMaxUnsigned rd ra rb g w) := Nat.le_of_ble_eq_true rfl
theorem amoSwap (rd ra rb g w : Nat) : Statement (.amoSwap rd ra rb g w) := Nat.le_of_ble_eq_true rfl
theorem amoCas (rd ra rb g w : Nat) : Statement (.amoCas rd ra rb g w) := Nat.le_of_ble_eq_true rfl
theorem amoAddF32 (rd ra rb g : Nat) : Statement (.amoAddF32 rd ra rb g) := Nat.le_of_ble_eq_true rfl
theorem amoSnap (rd ra rb g : Nat) : Statement (.amoSnap rd ra rb g) := Nat.le_of_ble_eq_true rfl
theorem amoVaddN32 (ra rb g : Nat) : Statement (.amoVaddN32 ra rb g) := Nat.le_of_ble_eq_true rfl
theorem amoVaddF32 (ra rb g : Nat) : Statement (.amoVaddF32 ra rb g) := Nat.le_of_ble_eq_true rfl
theorem amoLd (rd ra g w : Nat) : Statement (.amoLd rd ra g w) := Nat.le_of_ble_eq_true rfl
theorem atomicAtHome (n : Nat) : Statement (.atomicAtHome n) := Nat.le_of_ble_eq_true rfl
theorem atomicReply (c v : Nat) : Statement (.atomicReply c v) := Nat.le_of_ble_eq_true rfl
theorem fence (g sc : Nat) : Statement (.fence g sc) := Nat.le_of_ble_eq_true rfl
theorem acq (ra g sc : Nat) : Statement (.acq ra g sc) := Nat.le_of_ble_eq_true rfl
theorem rel (ra g sc : Nat) : Statement (.rel ra g sc) := Nat.le_of_ble_eq_true rfl
theorem bind (rd ra rb g : Nat) : Statement (.bind rd ra rb g) := Nat.le_of_ble_eq_true rfl
theorem unbind (rd g : Nat) : Statement (.unbind rd g) := Nat.le_of_ble_eq_true rfl
theorem barInit (ra g n : Nat) : Statement (.barInit ra g n) := Nat.le_of_ble_eq_true rfl
theorem barArrive (rd ra g n : Nat) : Statement (.barArrive rd ra g n) := Nat.le_of_ble_eq_true rfl
theorem barWait (rd ra g n : Nat) : Statement (.barWait rd ra g n) := Nat.le_of_ble_eq_true rfl
theorem barSync (ra g n : Nat) : Statement (.barSync ra g n) := Nat.le_of_ble_eq_true rfl
theorem barrierWaitTimeout (c : Nat) : Statement (.barrierWaitTimeout c) := Nat.le_of_ble_eq_true rfl
theorem lkReq (rd ra g lv md : Nat) : Statement (.lkReq rd ra g lv md) := Nat.le_of_ble_eq_true rfl
theorem lkTry (rd ra g lv md : Nat) : Statement (.lkTry rd ra g lv md) := Nat.le_of_ble_eq_true rfl
theorem lkUp (rd ra g lv md : Nat) : Statement (.lkUp rd ra g lv md) := Nat.le_of_ble_eq_true rfl
theorem lkRel (ra g : Nat) : Statement (.lkRel ra g) := Nat.le_of_ble_eq_true rfl
theorem lkRelall (g : Nat) : Statement (.lkRelall g) := Nat.le_of_ble_eq_true rfl
theorem lkQuery (rd ra g : Nat) : Statement (.lkQuery rd ra g) := Nat.le_of_ble_eq_true rfl
theorem lockRequestAtHome (n : Nat) : Statement (.lockRequestAtHome n) := Nat.le_of_ble_eq_true rfl
theorem woundArrival (n : Nat) : Statement (.woundArrival n) := Nat.le_of_ble_eq_true rfl
theorem woundAsyncEntry (c : Nat) : Statement (.woundAsyncEntry c) := Nat.le_of_ble_eq_true rfl
theorem lockRevoke (n : Nat) : Statement (.lockRevoke n) := Nat.le_of_ble_eq_true rfl
theorem txBegin (rd ra g : Nat) : Statement (.txBegin rd ra g) := Nat.le_of_ble_eq_true rfl
theorem txEnd (rd g : Nat) : Statement (.txEnd rd g) := Nat.le_of_ble_eq_true rfl
theorem txAbort (ra g : Nat) : Statement (.txAbort ra g) := Nat.le_of_ble_eq_true rfl
theorem txStat (rd g : Nat) : Statement (.txStat rd g) := Nat.le_of_ble_eq_true rfl
theorem txCommit (c : Nat) : Statement (.txCommit c) := Nat.le_of_ble_eq_true rfl
theorem txWoundAbort (c : Nat) : Statement (.txWoundAbort c) := Nat.le_of_ble_eq_true rfl
theorem spawn (rd ra g : Nat) : Statement (.spawn rd ra g) := Nat.le_of_ble_eq_true rfl
theorem spawnWaitTimeout (c : Nat) : Statement (.spawnWaitTimeout c) := Nat.le_of_ble_eq_true rfl
theorem done (g : Nat) : Statement (.done g) := Nat.le_of_ble_eq_true rfl
theorem joinInit (rd ra rb g : Nat) : Statement (.joinInit rd ra rb g) := Nat.le_of_ble_eq_true rfl
theorem chunk (rd ra g : Nat) : Statement (.chunk rd ra g) := Nat.le_of_ble_eq_true rfl
theorem dacq (rd ra rb g : Nat) : Statement (.dacq rd ra rb g) := Nat.le_of_ble_eq_true rfl
theorem dacqWaitGrant (c : Nat) : Statement (.dacqWaitGrant c) := Nat.le_of_ble_eq_true rfl
theorem drel (g : Nat) : Statement (.drel g) := Nat.le_of_ble_eq_true rfl
theorem cfgLoad (rd ra rb g : Nat) : Statement (.cfgLoad rd ra rb g) := Nat.le_of_ble_eq_true rfl
theorem cfgLoadEnd (d : Nat) : Statement (.cfgLoadEnd d) := Nat.le_of_ble_eq_true rfl
theorem cfgConst (ra rb g : Nat) : Statement (.cfgConst ra rb g) := Nat.le_of_ble_eq_true rfl
theorem cfgConstApply (c : Nat) : Statement (.cfgConstApply c) := Nat.le_of_ble_eq_true rfl
theorem invoke (rd ra rb g : Nat) : Statement (.invoke rd ra rb g) := Nat.le_of_ble_eq_true rfl
theorem sbind (rd ra g : Nat) : Statement (.sbind rd ra g) := Nat.le_of_ble_eq_true rfl
theorem push (rd ra rb g : Nat) : Statement (.push rd ra rb g) := Nat.le_of_ble_eq_true rfl
theorem pull (rd ra rb g : Nat) : Statement (.pull rd ra rb g) := Nat.le_of_ble_eq_true rfl
theorem streamWaitTimeout (c : Nat) : Statement (.streamWaitTimeout c) := Nat.le_of_ble_eq_true rfl
theorem drain (g : Nat) : Statement (.drain g) := Nat.le_of_ble_eq_true rfl
theorem ctxset (ra g : Nat) : Statement (.ctxset ra g) := Nat.le_of_ble_eq_true rfl
theorem mstone (rd ra g : Nat) : Statement (.mstone rd ra g) := Nat.le_of_ble_eq_true rfl
theorem mstoneComplete (d : Nat) : Statement (.mstoneComplete d) := Nat.le_of_ble_eq_true rfl
theorem tdown (rd g : Nat) : Statement (.tdown rd g) := Nat.le_of_ble_eq_true rfl
theorem tdownComplete (d : Nat) : Statement (.tdownComplete d) := Nat.le_of_ble_eq_true rfl
theorem dmaLd (rd ra rb g ext : Nat) : Statement (.dmaLd rd ra rb g ext) := Nat.le_of_ble_eq_true rfl
theorem dmaSt (rd ra rb g ext : Nat) : Statement (.dmaSt rd ra rb g ext) := Nat.le_of_ble_eq_true rfl
theorem dmaCp (rd ra rb g ext : Nat) : Statement (.dmaCp rd ra rb g ext) := Nat.le_of_ble_eq_true rfl
theorem dmaGath (rd ra rb g ext : Nat) : Statement (.dmaGath rd ra rb g ext) := Nat.le_of_ble_eq_true rfl
theorem dmaEnd (n : Nat) : Statement (.dmaEnd n) := Nat.le_of_ble_eq_true rfl
theorem binApp (rd ra rb g : Nat) : Statement (.binApp rd ra rb g) := Nat.le_of_ble_eq_true rfl
theorem binAppendAtEngine (n : Nat) : Statement (.binAppendAtEngine n) := Nat.le_of_ble_eq_true rfl
theorem binPlay (rd ra rb g : Nat) : Statement (.binPlay rd ra rb g) := Nat.le_of_ble_eq_true rfl
theorem binRegionReplay (n : Nat) : Statement (.binRegionReplay n) := Nat.le_of_ble_eq_true rfl
theorem rput (rd ra rb g ext : Nat) : Statement (.rput rd ra rb g ext) := Nat.le_of_ble_eq_true rfl
theorem rget (rd ra rb g ext : Nat) : Statement (.rget rd ra rb g ext) := Nat.le_of_ble_eq_true rfl
theorem ramo (rd ra rb g ext : Nat) : Statement (.ramo rd ra rb g ext) := Nat.le_of_ble_eq_true rfl
theorem remoteLinkFail (n : Nat) : Statement (.remoteLinkFail n) := Nat.le_of_ble_eq_true rfl
theorem tidWr (ra rb g : Nat) : Statement (.tidWr ra rb g) := Nat.le_of_ble_eq_true rfl
theorem tidRd (ra rb g : Nat) : Statement (.tidRd ra rb g) := Nat.le_of_ble_eq_true rfl
theorem mtile (rd ra rb g ext : Nat) : Statement (.mtile rd ra rb g ext) := Nat.le_of_ble_eq_true rfl
theorem mbload (rd ra rb g ext : Nat) : Statement (.mbload rd ra rb g ext) := Nat.le_of_ble_eq_true rfl
theorem maccCp (rd ra rb g ext : Nat) : Statement (.maccCp rd ra rb g ext) := Nat.le_of_ble_eq_true rfl
theorem maccZero (rd ra g ext : Nat) : Statement (.maccZero rd ra g ext) := Nat.le_of_ble_eq_true rfl
theorem seqBFetch (d : Nat) : Statement (.seqBFetch d) := Nat.le_of_ble_eq_true rfl
theorem seqBWrite (d : Nat) : Statement (.seqBWrite d) := Nat.le_of_ble_eq_true rfl
theorem seqAFetch (d : Nat) : Statement (.seqAFetch d) := Nat.le_of_ble_eq_true rfl
theorem seqAAlign (d : Nat) : Statement (.seqAAlign d) := Nat.le_of_ble_eq_true rfl
theorem seqABroadcast (d : Nat) : Statement (.seqABroadcast d) := Nat.le_of_ble_eq_true rfl
theorem seqAAccumulate (d : Nat) : Statement (.seqAAccumulate d) := Nat.le_of_ble_eq_true rfl
theorem seqAccRowMove (d : Nat) : Statement (.seqAccRowMove d) := Nat.le_of_ble_eq_true rfl
theorem seqSetCompletion (d : Nat) : Statement (.seqSetCompletion d) := Nat.le_of_ble_eq_true rfl
theorem mfs (rd g imm : Nat) : Statement (.mfs rd g imm) := Nat.le_of_ble_eq_true rfl
theorem mts (ra g imm : Nat) : Statement (.mts ra g imm) := Nat.le_of_ble_eq_true rfl
theorem trap (g n : Nat) : Statement (.trap g n) := Nat.le_of_ble_eq_true rfl
theorem tack (g : Nat) : Statement (.tack g) := Nat.le_of_ble_eq_true rfl
theorem eret (g : Nat) : Statement (.eret g) := Nat.le_of_ble_eq_true rfl
theorem idle (g : Nat) : Statement (.idle g) := Nat.le_of_ble_eq_true rfl
theorem icinvAll (g : Nat) : Statement (.icinvAll g) := Nat.le_of_ble_eq_true rfl
theorem icinvLine (ra g : Nat) : Statement (.icinvLine ra g) := Nat.le_of_ble_eq_true rfl
theorem icinvAcknowledge (c : Nat) : Statement (.icinvAcknowledge c) := Nat.le_of_ble_eq_true rfl
theorem xinvAll (g : Nat) : Statement (.xinvAll g) := Nat.le_of_ble_eq_true rfl
theorem xinvSpace (rd g : Nat) : Statement (.xinvSpace rd g) := Nat.le_of_ble_eq_true rfl
theorem xinvVa (rd ra g : Nat) : Statement (.xinvVa rd ra g) := Nat.le_of_ble_eq_true rfl
theorem sig (ra rb g : Nat) : Statement (.sig ra rb g) := Nat.le_of_ble_eq_true rfl
theorem sigMessageArrival (n : Nat) : Statement (.sigMessageArrival n) := Nat.le_of_ble_eq_true rfl
theorem sigHoldTimeout (c : Nat) : Statement (.sigHoldTimeout c) := Nat.le_of_ble_eq_true rfl
theorem sigQueueEntry (c : Nat) : Statement (.sigQueueEntry c) := Nat.le_of_ble_eq_true rfl
theorem msgDelivery (c : Nat) : Statement (.msgDelivery c) := Nat.le_of_ble_eq_true rfl
theorem sethnd (rd ra rb g : Nat) : Statement (.sethnd rd ra rb g) := Nat.le_of_ble_eq_true rfl
theorem gcJoin (rd ra rb g : Nat) : Statement (.gcJoin rd ra rb g) := Nat.le_of_ble_eq_true rfl
theorem gcLeave (rd g : Nat) : Statement (.gcLeave rd g) := Nat.le_of_ble_eq_true rfl
theorem gcAnn (ra rb g : Nat) : Statement (.gcAnn ra rb g) := Nat.le_of_ble_eq_true rfl
theorem gcQuery (rd ra g : Nat) : Statement (.gcQuery rd ra g) := Nat.le_of_ble_eq_true rfl
theorem brk : Statement (.brk) := Nat.le_of_ble_eq_true rfl
theorem asyncEventEntry (c : Nat) : Statement (.asyncEventEntry c) := Nat.le_of_ble_eq_true rfl
theorem plainWrite (d : Nat) : Statement (.plainWrite d) := Nat.le_of_ble_eq_true rfl
theorem setElementCursor (d : Nat) : Statement (.setElementCursor d) := Nat.le_of_ble_eq_true rfl
theorem wideWrite (d : Nat) : Statement (.wideWrite d) := Nat.le_of_ble_eq_true rfl
theorem nop (d : Nat) : Statement (.nop d) := Nat.le_of_ble_eq_true rfl
theorem stage (d : Nat) : Statement (.stage d) := Nat.le_of_ble_eq_true rfl
theorem commit (d : Nat) : Statement (.commit d) := Nat.le_of_ble_eq_true rfl
theorem abandon (d : Nat) : Statement (.abandon d) := Nat.le_of_ble_eq_true rfl
theorem wave (d : Nat) : Statement (.wave d) := Nat.le_of_ble_eq_true rfl
theorem clear (d : Nat) : Statement (.clear d) := Nat.le_of_ble_eq_true rfl
theorem pendingCommandApply (e : Nat) : Statement (.pendingCommandApply e) := Nat.le_of_ble_eq_true rfl
theorem pendingSwitchApply (b : Nat) : Statement (.pendingSwitchApply b) := Nat.le_of_ble_eq_true rfl
theorem tokenHop (kind at_ port : Nat) : Statement (.tokenHop kind at_ port) := Nat.le_of_ble_eq_true rfl
theorem vectorCellFiring (e : Nat) : Statement (.vectorCellFiring e) := Nat.le_of_ble_eq_true rfl
theorem structuralEmission (e : Nat) : Statement (.structuralEmission e) := Nat.le_of_ble_eq_true rfl
theorem controlTokenTake (e : Nat) : Statement (.controlTokenTake e) := Nat.le_of_ble_eq_true rfl
theorem branchCellFinish (e : Nat) : Statement (.branchCellFinish e) := Nat.le_of_ble_eq_true rfl
theorem scannerStep (e : Nat) : Statement (.scannerStep e) := Nat.le_of_ble_eq_true rfl
theorem fibreBufferRefill (e : Nat) : Statement (.fibreBufferRefill e) := Nat.le_of_ble_eq_true rfl
theorem skipRequest (e : Nat) : Statement (.skipRequest e) := Nat.le_of_ble_eq_true rfl
theorem mergeIntersectStep (e : Nat) : Statement (.mergeIntersectStep e) := Nat.le_of_ble_eq_true rfl
theorem mergeUnionStep (e : Nat) : Statement (.mergeUnionStep e) := Nat.le_of_ble_eq_true rfl
theorem repeaterRefStep (e : Nat) : Statement (.repeaterRefStep e) := Nat.le_of_ble_eq_true rfl
theorem repeaterFibreLoad (e : Nat) : Statement (.repeaterFibreLoad e) := Nat.le_of_ble_eq_true rfl
theorem repeaterFibreReplay (e : Nat) : Statement (.repeaterFibreReplay e) := Nat.le_of_ble_eq_true rfl
theorem reducerStep (e : Nat) : Statement (.reducerStep e) := Nat.le_of_ble_eq_true rfl
theorem levelWriterStep (e : Nat) : Statement (.levelWriterStep e) := Nat.le_of_ble_eq_true rfl
theorem matrixRowFiring (e : Nat) : Statement (.matrixRowFiring e) := Nat.le_of_ble_eq_true rfl
theorem matrixBurstTake (e : Nat) : Statement (.matrixBurstTake e) := Nat.le_of_ble_eq_true rfl
theorem matrixDonePass (e : Nat) : Statement (.matrixDonePass e) := Nat.le_of_ble_eq_true rfl
theorem memoryNodeRequest (e k : Nat) : Statement (.memoryNodeRequest e k) := Nat.le_of_ble_eq_true rfl
theorem memoryNodeReturn (e k : Nat) : Statement (.memoryNodeReturn e k) := Nat.le_of_ble_eq_true rfl
theorem rowBurst (e k : Nat) : Statement (.rowBurst e k) := Nat.le_of_ble_eq_true rfl
theorem nodeTagTimeout (e k : Nat) : Statement (.nodeTagTimeout e k) := Nat.le_of_ble_eq_true rfl
theorem milestoneTake (e : Nat) : Statement (.milestoneTake e) := Nat.le_of_ble_eq_true rfl
theorem rollback (d : Nat) : Statement (.rollback d) := Nat.le_of_ble_eq_true rfl
theorem patrolRead (line err : Nat) : Statement (.patrolRead line err) := Nat.le_of_ble_eq_true rfl
theorem elementJoin (e : Nat) : Statement (.elementJoin e) := Nat.le_of_ble_eq_true rfl
theorem invokeStart (d : Nat) : Statement (.invokeStart d) := Nat.le_of_ble_eq_true rfl
theorem invocationEnd (d : Nat) : Statement (.invocationEnd d) := Nat.le_of_ble_eq_true rfl
theorem gangfault (d : Nat) : Statement (.gangfault d) := Nat.le_of_ble_eq_true rfl
theorem stallWatchdogExpiry (d : Nat) : Statement (.stallWatchdogExpiry d) := Nat.le_of_ble_eq_true rfl
theorem heldStoreEntry (e k : Nat) : Statement (.heldStoreEntry e k) := Nat.le_of_ble_eq_true rfl
theorem waveCommit (d : Nat) : Statement (.waveCommit d) := Nat.le_of_ble_eq_true rfl
theorem launchWindowWrite (port ofs : Nat) (bytes : List Nat) : Statement (.launchWindowWrite port ofs bytes) := Nat.le_of_ble_eq_true rfl
theorem hqBaseWrite (port q v : Nat) : Statement (.hqBaseWrite port q v) := Nat.le_of_ble_eq_true rfl
theorem enable (port q : Nat) : Statement (.enable port q) := Nat.le_of_ble_eq_true rfl
theorem disable (port q : Nat) : Statement (.disable port q) := Nat.le_of_ble_eq_true rfl
theorem teardown (port q : Nat) : Statement (.teardown port q) := Nat.le_of_ble_eq_true rfl
theorem reset (port q : Nat) : Statement (.reset port q) := Nat.le_of_ble_eq_true rfl
theorem off (port q : Nat) : Statement (.off port q) := Nat.le_of_ble_eq_true rfl
theorem queueTorn (q : Nat) : Statement (.queueTorn q) := Nat.le_of_ble_eq_true rfl
theorem hubDispatch : Statement (.hubDispatch) := Nat.le_of_ble_eq_true rfl
theorem pwaitPreemption : Statement (.pwaitPreemption) := Nat.le_of_ble_eq_true rfl
theorem joinDecrement : Statement (.joinDecrement) := Nat.le_of_ble_eq_true rfl
theorem recCopyEnter (n : Nat) : Statement (.recCopyEnter n) := Nat.le_of_ble_eq_true rfl
theorem graphWalkStart : Statement (.graphWalkStart) := Nat.le_of_ble_eq_true rfl
theorem graphTaskNode (n : Nat) : Statement (.graphTaskNode n) := Nat.le_of_ble_eq_true rfl
theorem graphCondNode (n : Nat) : Statement (.graphCondNode n) := Nat.le_of_ble_eq_true rfl
theorem graphWhileNode (n : Nat) : Statement (.graphWhileNode n) := Nat.le_of_ble_eq_true rfl
theorem graphLoopNode (n : Nat) : Statement (.graphLoopNode n) := Nat.le_of_ble_eq_true rfl
theorem graphJoinNode (n : Nat) : Statement (.graphJoinNode n) := Nat.le_of_ble_eq_true rfl
theorem schCtlWrite (port v : Nat) : Statement (.schCtlWrite port v) := Nat.le_of_ble_eq_true rfl
theorem preempt (port c : Nat) : Statement (.preempt port c) := Nat.le_of_ble_eq_true rfl
theorem preemptSaveComplete (c : Nat) : Statement (.preemptSaveComplete c) := Nat.le_of_ble_eq_true rfl
theorem taskRestore (n : Nat) : Statement (.taskRestore n) := Nat.le_of_ble_eq_true rfl
theorem halt (port c : Nat) : Statement (.halt port c) := Nat.le_of_ble_eq_true rfl
theorem unhalt (port c : Nat) : Statement (.unhalt port c) := Nat.le_of_ble_eq_true rfl
theorem stop (port c : Nat) : Statement (.stop port c) := Nat.le_of_ble_eq_true rfl
theorem run (port c : Nat) : Statement (.run port c) := Nat.le_of_ble_eq_true rfl
theorem restart (port c : Nat) : Statement (.restart port c) := Nat.le_of_ble_eq_true rfl
theorem qcSdataWrite (port c v : Nat) : Statement (.qcSdataWrite port c v) := Nat.le_of_ble_eq_true rfl
theorem qcSdataRead (port c : Nat) : Statement (.qcSdataRead port c) := Nat.le_of_ble_eq_true rfl
theorem migrationStart (port q v : Nat) : Statement (.migrationStart port q v) := Nat.le_of_ble_eq_true rfl
theorem migrationEnd (q : Nat) : Statement (.migrationEnd q) := Nat.le_of_ble_eq_true rfl
theorem pinLoad (port : Nat) : Statement (.pinLoad port) := Nat.le_of_ble_eq_true rfl
theorem zoneMapWrite (port q n v : Nat) : Statement (.zoneMapWrite port q n v) := Nat.le_of_ble_eq_true rfl
theorem rpRemapWrite (port q v : Nat) : Statement (.rpRemapWrite port q v) := Nat.le_of_ble_eq_true rfl
theorem rpCountClear (port q : Nat) : Statement (.rpCountClear port q) := Nat.le_of_ble_eq_true rfl
theorem lmReload (port v : Nat) : Statement (.lmReload port v) := Nat.le_of_ble_eq_true rfl
theorem registerWrite (port : Nat) (ofs : Nat) (d : WriteData) : Statement (.registerWrite port ofs d) := Nat.le_of_ble_eq_true rfl
theorem announceReceive (grp id seq n te : Nat) : Statement (.announceReceive grp id seq n te) := Nat.le_of_ble_eq_true rfl
theorem heartbeatSend : Statement (.heartbeatSend) := Nat.le_of_ble_eq_true rfl
theorem heartbeatReceive (grp : Nat) (m : MsgHead) (n : Nat) (top : Nat) : Statement (.heartbeatReceive grp m n top) := Nat.le_of_ble_eq_true rfl
theorem joinReceive (grp : Nat) (m : MsgHead) (n : Nat) (notice : Nat) : Statement (.joinReceive grp m n notice) := Nat.le_of_ble_eq_true rfl
theorem stateReceive (grp : Nat) (m : MsgHead) (notice : Nat) (tj : Nat) (members : List (Nat × Nat × Nat × Nat)) (anns : List (Nat × Nat × Nat × Nat)) : Statement (.stateReceive grp m notice tj members anns) := Nat.le_of_ble_eq_true rfl
theorem groupFound : Statement (.groupFound) := Nat.le_of_ble_eq_true rfl
theorem leaveReceive (grp : Nat) (m : MsgHead) (tl : Nat) : Statement (.leaveReceive grp m tl) := Nat.le_of_ble_eq_true rfl
theorem silentDeclare (id : Nat) : Statement (.silentDeclare id) := Nat.le_of_ble_eq_true rfl
theorem silentReceive (grp : Nat) (m : MsgHead) (r : Removal) : Statement (.silentReceive grp m r) := Nat.le_of_ble_eq_true rfl
theorem expelReceive (grp : Nat) : Statement (.expelReceive grp) := Nat.le_of_ble_eq_true rfl
theorem ceilingChange : Statement (.ceilingChange) := Nat.le_of_ble_eq_true rfl
theorem thermalTick (t : Nat) : Statement (.thermalTick t) := Nat.le_of_ble_eq_true rfl
theorem currentTick (pct : Nat) : Statement (.currentTick pct) := Nat.le_of_ble_eq_true rfl
theorem powerCapTick (p : Nat) : Statement (.powerCapTick p) := Nat.le_of_ble_eq_true rfl
theorem rackShareSend : Statement (.rackShareSend) := Nat.le_of_ble_eq_true rfl
theorem rackShareReceive (dev p weight budget group : Nat) : Statement (.rackShareReceive dev p weight budget group) := Nat.le_of_ble_eq_true rfl
theorem emergencyThrottle (t rails : Nat) : Statement (.emergencyThrottle t rails) := Nat.le_of_ble_eq_true rfl
theorem emergencyRelease (t pct : Nat) : Statement (.emergencyRelease t pct) := Nat.le_of_ble_eq_true rfl
theorem flitReceive (link seq good : Nat) : Statement (.flitReceive link seq good) := Nat.le_of_ble_eq_true rfl
theorem nakReplay (link seq : Nat) : Statement (.nakReplay link seq) := Nat.le_of_ble_eq_true rfl
theorem linkRetrain (link dir : Nat) : Statement (.linkRetrain link dir) := Nat.le_of_ble_eq_true rfl
theorem laneFail (link lane : Nat) : Statement (.laneFail link lane) := Nat.le_of_ble_eq_true rfl
theorem spare (port v : Nat) : Statement (.spare port v) := Nat.le_of_ble_eq_true rfl
theorem turn (port v : Nat) : Statement (.turn port v) := Nat.le_of_ble_eq_true rfl
theorem idleLane (port v : Nat) : Statement (.idleLane port v) := Nat.le_of_ble_eq_true rfl
theorem laneTrained (link ok : Nat) : Statement (.laneTrained link ok) := Nat.le_of_ble_eq_true rfl
theorem leave (port : Nat) : Statement (.leave port) := Nat.le_of_ble_eq_true rfl
theorem membershipChange : Statement (.membershipChange) := Nat.le_of_ble_eq_true rfl
theorem deviceDeparture (dev : Nat) : Statement (.deviceDeparture dev) := Nat.le_of_ble_eq_true rfl
theorem domainJoin (dev : Nat) (e : Entry) : Statement (.domainJoin dev e) := Nat.le_of_ble_eq_true rfl
theorem ownerCas (port v : Nat) : Statement (.ownerCas port v) := Nat.le_of_ble_eq_true rfl
theorem ownerHeartbeat (port : Nat) : Statement (.ownerHeartbeat port) := Nat.le_of_ble_eq_true rfl
theorem ownerStale : Statement (.ownerStale) := Nat.le_of_ble_eq_true rfl
theorem scaleoutPacketReceive (node : Nat) (h : PacketHead) (o : PacketOp) : Statement (.scaleoutPacketReceive node h o) := Nat.le_of_ble_eq_true rfl
theorem scaleoutRetransmit (n : Nat) : Statement (.scaleoutRetransmit n) := Nat.le_of_ble_eq_true rfl
theorem deviceReset : Statement (.deviceReset) := Nat.le_of_ble_eq_true rfl
theorem loadFirmware (c : SecWrite) : Statement (.loadFirmware c) := Nat.le_of_ble_eq_true rfl
theorem attest (port : Nat) : Statement (.attest port) := Nat.le_of_ble_eq_true rfl
theorem attestComplete (port : Nat) : Statement (.attestComplete port) := Nat.le_of_ble_eq_true rfl
theorem retrainingEnd (side : LinkSide) : Statement (.retrainingEnd side) := Nat.le_of_ble_eq_true rfl
theorem bar2MemoryWrite (port ofs : Nat) (bytes : List Nat) : Statement (.bar2MemoryWrite port ofs bytes) := Nat.le_of_ble_eq_true rfl
theorem contextCounterAdvance (d : Nat) : Statement (.contextCounterAdvance d) := Nat.le_of_ble_eq_true rfl

end Sys2Proof.Laws.EncodeLength
end

