-- ==== Sys2Proof/Laws/Thread.lean ====
section
/-! SUPPORT. What completing an instruction and writing a register leave alone of a thread: one lemma for each field. -/

namespace Sys2Proof.Machine

/-! ## Thread.step (04 R120) -/

@[simp] theorem Thread.step_id (t : Thread) (n : Nat) : (t.step n).id = t.id := by
  simp only [Thread.step]; split_ifs <;> rfl
@[simp] theorem Thread.step_x (t : Thread) (n : Nat) : (t.step n).x = t.x := by
  simp only [Thread.step]; split_ifs <;> rfl
@[simp] theorem Thread.step_k (t : Thread) (n : Nat) : (t.step n).k = t.k := by
  simp only [Thread.step]; split_ifs <;> rfl
@[simp] theorem Thread.step_q (t : Thread) (n : Nat) : (t.step n).q = t.q := by
  simp only [Thread.step]; split_ifs <;> rfl
@[simp] theorem Thread.step_bar (t : Thread) (n : Nat) : (t.step n).bar = t.bar := by
  simp only [Thread.step]; split_ifs <;> rfl
@[simp] theorem Thread.step_status (t : Thread) (n : Nat) : (t.step n).status = t.status := by
  simp only [Thread.step]; split_ifs <;> rfl
@[simp] theorem Thread.step_sstatus (t : Thread) (n : Nat) : (t.step n).sstatus = t.sstatus := by
  simp only [Thread.step]; split_ifs <;> rfl
@[simp] theorem Thread.step_cause (t : Thread) (n : Nat) : (t.step n).cause = t.cause := by
  simp only [Thread.step]; split_ifs <;> rfl
@[simp] theorem Thread.step_epc (t : Thread) (n : Nat) : (t.step n).epc = t.epc := by
  simp only [Thread.step]; split_ifs <;> rfl
@[simp] theorem Thread.step_tval (t : Thread) (n : Nat) : (t.step n).tval = t.tval := by
  simp only [Thread.step]; split_ifs <;> rfl
@[simp] theorem Thread.step_scratch (t : Thread) (n : Nat) : (t.step n).scratch = t.scratch := by
  simp only [Thread.step]; split_ifs <;> rfl
@[simp] theorem Thread.step_iter (t : Thread) (n : Nat) : (t.step n).iter = t.iter := by
  simp only [Thread.step]; split_ifs <;> rfl
@[simp] theorem Thread.step_asid (t : Thread) (n : Nat) : (t.step n).asid = t.asid := by
  simp only [Thread.step]; split_ifs <;> rfl
@[simp] theorem Thread.step_age (t : Thread) (n : Nat) : (t.step n).age = t.age := by
  simp only [Thread.step]; split_ifs <;> rfl
@[simp] theorem Thread.step_tagwait (t : Thread) (n : Nat) : (t.step n).tagwait = t.tagwait := by
  simp only [Thread.step]; split_ifs <;> rfl
@[simp] theorem Thread.step_bind (t : Thread) (n : Nat) : (t.step n).bind = t.bind := by
  simp only [Thread.step]; split_ifs <;> rfl
@[simp] theorem Thread.step_tx (t : Thread) (n : Nat) : (t.step n).tx = t.tx := by
  simp only [Thread.step]; split_ifs <;> rfl
@[simp] theorem Thread.step_waitFrom (t : Thread) (n : Nat) : (t.step n).waitFrom = t.waitFrom := by
  simp only [Thread.step]; split_ifs <;> rfl
@[simp] theorem Thread.step_synced (t : Thread) (n : Nat) : (t.step n).synced = t.synced := by
  simp only [Thread.step]; split_ifs <;> rfl
@[simp] theorem Thread.step_district (t : Thread) (n : Nat) : (t.step n).district = t.district := by
  simp only [Thread.step]; split_ifs <;> rfl
@[simp] theorem Thread.step_task (t : Thread) (n : Nat) : (t.step n).task = t.task := by
  simp only [Thread.step]; split_ifs <;> rfl
@[simp] theorem Thread.step_wait (t : Thread) (n : Nat) : (t.step n).wait = .none := by
  simp only [Thread.step]; split_ifs <;> rfl
@[simp] theorem Thread.getX_step (t : Thread) (n r : Nat) : (t.step n).getX r = t.getX r := by simp [Thread.getX]
@[simp] theorem Thread.getK_step (t : Thread) (n r : Nat) : (t.step n).getK r = t.getK r := by simp [Thread.getK]

/-! ## Thread.setX (03 R71) -/

@[simp] theorem Thread.setX_id (t : Thread) (i : Nat) (v : Word) : (t.setX i v).id = t.id := by
  simp only [Thread.setX]; split_ifs <;> rfl
@[simp] theorem Thread.setX_k (t : Thread) (i : Nat) (v : Word) : (t.setX i v).k = t.k := by
  simp only [Thread.setX]; split_ifs <;> rfl
@[simp] theorem Thread.setX_q (t : Thread) (i : Nat) (v : Word) : (t.setX i v).q = t.q := by
  simp only [Thread.setX]; split_ifs <;> rfl
@[simp] theorem Thread.setX_bar (t : Thread) (i : Nat) (v : Word) : (t.setX i v).bar = t.bar := by
  simp only [Thread.setX]; split_ifs <;> rfl
@[simp] theorem Thread.setX_status (t : Thread) (i : Nat) (v : Word) : (t.setX i v).status = t.status := by
  simp only [Thread.setX]; split_ifs <;> rfl
@[simp] theorem Thread.setX_sstatus (t : Thread) (i : Nat) (v : Word) : (t.setX i v).sstatus = t.sstatus := by
  simp only [Thread.setX]; split_ifs <;> rfl
@[simp] theorem Thread.setX_cause (t : Thread) (i : Nat) (v : Word) : (t.setX i v).cause = t.cause := by
  simp only [Thread.setX]; split_ifs <;> rfl
@[simp] theorem Thread.setX_epc (t : Thread) (i : Nat) (v : Word) : (t.setX i v).epc = t.epc := by
  simp only [Thread.setX]; split_ifs <;> rfl
@[simp] theorem Thread.setX_tval (t : Thread) (i : Nat) (v : Word) : (t.setX i v).tval = t.tval := by
  simp only [Thread.setX]; split_ifs <;> rfl
@[simp] theorem Thread.setX_scratch (t : Thread) (i : Nat) (v : Word) : (t.setX i v).scratch = t.scratch := by
  simp only [Thread.setX]; split_ifs <;> rfl
@[simp] theorem Thread.setX_iter (t : Thread) (i : Nat) (v : Word) : (t.setX i v).iter = t.iter := by
  simp only [Thread.setX]; split_ifs <;> rfl
@[simp] theorem Thread.setX_asid (t : Thread) (i : Nat) (v : Word) : (t.setX i v).asid = t.asid := by
  simp only [Thread.setX]; split_ifs <;> rfl
@[simp] theorem Thread.setX_age (t : Thread) (i : Nat) (v : Word) : (t.setX i v).age = t.age := by
  simp only [Thread.setX]; split_ifs <;> rfl
@[simp] theorem Thread.setX_tagwait (t : Thread) (i : Nat) (v : Word) : (t.setX i v).tagwait = t.tagwait := by
  simp only [Thread.setX]; split_ifs <;> rfl
@[simp] theorem Thread.setX_bind (t : Thread) (i : Nat) (v : Word) : (t.setX i v).bind = t.bind := by
  simp only [Thread.setX]; split_ifs <;> rfl
@[simp] theorem Thread.setX_tx (t : Thread) (i : Nat) (v : Word) : (t.setX i v).tx = t.tx := by
  simp only [Thread.setX]; split_ifs <;> rfl
@[simp] theorem Thread.setX_waitFrom (t : Thread) (i : Nat) (v : Word) : (t.setX i v).waitFrom = t.waitFrom := by
  simp only [Thread.setX]; split_ifs <;> rfl
@[simp] theorem Thread.setX_synced (t : Thread) (i : Nat) (v : Word) : (t.setX i v).synced = t.synced := by
  simp only [Thread.setX]; split_ifs <;> rfl
@[simp] theorem Thread.setX_district (t : Thread) (i : Nat) (v : Word) : (t.setX i v).district = t.district := by
  simp only [Thread.setX]; split_ifs <;> rfl
@[simp] theorem Thread.setX_task (t : Thread) (i : Nat) (v : Word) : (t.setX i v).task = t.task := by
  simp only [Thread.setX]; split_ifs <;> rfl
@[simp] theorem Thread.setX_pc (t : Thread) (i : Nat) (v : Word) : (t.setX i v).pc = t.pc := by
  simp only [Thread.setX]; split_ifs <;> rfl
@[simp] theorem Thread.setX_wait (t : Thread) (i : Nat) (v : Word) : (t.setX i v).wait = t.wait := by
  simp only [Thread.setX]; split_ifs <;> rfl
@[simp] theorem Thread.setX_loop0 (t : Thread) (i : Nat) (v : Word) : (t.setX i v).loop0 = t.loop0 := by
  simp only [Thread.setX]; split_ifs <;> rfl
@[simp] theorem Thread.setX_loop1 (t : Thread) (i : Nat) (v : Word) : (t.setX i v).loop1 = t.loop1 := by
  simp only [Thread.setX]; split_ifs <;> rfl

/-! ## Thread.setK (03 R71) -/

@[simp] theorem Thread.setK_id (t : Thread) (i : Nat) (v : Bool) : (t.setK i v).id = t.id := by
  simp only [Thread.setK]; split_ifs <;> rfl
@[simp] theorem Thread.setK_x (t : Thread) (i : Nat) (v : Bool) : (t.setK i v).x = t.x := by
  simp only [Thread.setK]; split_ifs <;> rfl
@[simp] theorem Thread.setK_q (t : Thread) (i : Nat) (v : Bool) : (t.setK i v).q = t.q := by
  simp only [Thread.setK]; split_ifs <;> rfl
@[simp] theorem Thread.setK_bar (t : Thread) (i : Nat) (v : Bool) : (t.setK i v).bar = t.bar := by
  simp only [Thread.setK]; split_ifs <;> rfl
@[simp] theorem Thread.setK_status (t : Thread) (i : Nat) (v : Bool) : (t.setK i v).status = t.status := by
  simp only [Thread.setK]; split_ifs <;> rfl
@[simp] theorem Thread.setK_sstatus (t : Thread) (i : Nat) (v : Bool) : (t.setK i v).sstatus = t.sstatus := by
  simp only [Thread.setK]; split_ifs <;> rfl
@[simp] theorem Thread.setK_cause (t : Thread) (i : Nat) (v : Bool) : (t.setK i v).cause = t.cause := by
  simp only [Thread.setK]; split_ifs <;> rfl
@[simp] theorem Thread.setK_epc (t : Thread) (i : Nat) (v : Bool) : (t.setK i v).epc = t.epc := by
  simp only [Thread.setK]; split_ifs <;> rfl
@[simp] theorem Thread.setK_tval (t : Thread) (i : Nat) (v : Bool) : (t.setK i v).tval = t.tval := by
  simp only [Thread.setK]; split_ifs <;> rfl
@[simp] theorem Thread.setK_scratch (t : Thread) (i : Nat) (v : Bool) : (t.setK i v).scratch = t.scratch := by
  simp only [Thread.setK]; split_ifs <;> rfl
@[simp] theorem Thread.setK_iter (t : Thread) (i : Nat) (v : Bool) : (t.setK i v).iter = t.iter := by
  simp only [Thread.setK]; split_ifs <;> rfl
@[simp] theorem Thread.setK_asid (t : Thread) (i : Nat) (v : Bool) : (t.setK i v).asid = t.asid := by
  simp only [Thread.setK]; split_ifs <;> rfl
@[simp] theorem Thread.setK_age (t : Thread) (i : Nat) (v : Bool) : (t.setK i v).age = t.age := by
  simp only [Thread.setK]; split_ifs <;> rfl
@[simp] theorem Thread.setK_tagwait (t : Thread) (i : Nat) (v : Bool) : (t.setK i v).tagwait = t.tagwait := by
  simp only [Thread.setK]; split_ifs <;> rfl
@[simp] theorem Thread.setK_bind (t : Thread) (i : Nat) (v : Bool) : (t.setK i v).bind = t.bind := by
  simp only [Thread.setK]; split_ifs <;> rfl
@[simp] theorem Thread.setK_tx (t : Thread) (i : Nat) (v : Bool) : (t.setK i v).tx = t.tx := by
  simp only [Thread.setK]; split_ifs <;> rfl
@[simp] theorem Thread.setK_waitFrom (t : Thread) (i : Nat) (v : Bool) : (t.setK i v).waitFrom = t.waitFrom := by
  simp only [Thread.setK]; split_ifs <;> rfl
@[simp] theorem Thread.setK_synced (t : Thread) (i : Nat) (v : Bool) : (t.setK i v).synced = t.synced := by
  simp only [Thread.setK]; split_ifs <;> rfl
@[simp] theorem Thread.setK_district (t : Thread) (i : Nat) (v : Bool) : (t.setK i v).district = t.district := by
  simp only [Thread.setK]; split_ifs <;> rfl
@[simp] theorem Thread.setK_task (t : Thread) (i : Nat) (v : Bool) : (t.setK i v).task = t.task := by
  simp only [Thread.setK]; split_ifs <;> rfl
@[simp] theorem Thread.setK_pc (t : Thread) (i : Nat) (v : Bool) : (t.setK i v).pc = t.pc := by
  simp only [Thread.setK]; split_ifs <;> rfl
@[simp] theorem Thread.setK_wait (t : Thread) (i : Nat) (v : Bool) : (t.setK i v).wait = t.wait := by
  simp only [Thread.setK]; split_ifs <;> rfl
@[simp] theorem Thread.setK_loop0 (t : Thread) (i : Nat) (v : Bool) : (t.setK i v).loop0 = t.loop0 := by
  simp only [Thread.setK]; split_ifs <;> rfl
@[simp] theorem Thread.setK_loop1 (t : Thread) (i : Nat) (v : Bool) : (t.setK i v).loop1 = t.loop1 := by
  simp only [Thread.setK]; split_ifs <;> rfl
@[simp] theorem Thread.getK_setX (t : Thread) (i : Nat) (v : Word) (r : Nat) : (t.setX i v).getK r = t.getK r := by simp [Thread.getK]
@[simp] theorem Thread.getX_setK (t : Thread) (i : Nat) (v : Bool) (r : Nat) : (t.setK i v).getX r = t.getX r := by simp [Thread.getX]

end Sys2Proof.Machine
end

