-- ==== Sys2Proof/Laws/Xlate.lean ====
section
/-! SUPPORT. What translating and checking an access can change: cached translations, counts, pending events and the free
values drawn, and nothing that a program's registers or memory hold. -/

namespace Sys2Proof.Machine

/-- The threads, the memories, the requests, the districts and the migrations of t are those of s. -/
structure Keeps (s t : State) : Prop where
  cur : t.cur = s.cur
  fc : t.fc = s.fc
  device : t.device = s.device
  thr : ∀ c, thr t c = thr s c
  parity : ∀ c, (core t c).parity = (core s c).parity
  dev : t.dev = s.dev
  loc : t.loc = s.loc
  spad : t.spad = s.spad
  reqs : t.reqs = s.reqs
  tagq : t.tagq = s.tagq
  districts : t.districts = s.districts
  elems : t.elems = s.elems
  allot : t.allot = s.allot
  mig : ∀ q, (quarter t q).mig = (quarter s q).mig

theorem Keeps.refl (s : State) : Keeps s s := by constructor <;> intros <;> rfl

theorem Keeps.trans {s t u : State} (h : Keeps s t) (k : Keeps t u) : Keeps s u where
  cur := k.cur.trans h.cur
  fc := k.fc.trans h.fc
  device := k.device.trans h.device
  thr c := (k.thr c).trans (h.thr c)
  parity c := (k.parity c).trans (h.parity c)
  dev := k.dev.trans h.dev
  loc := k.loc.trans h.loc
  spad := k.spad.trans h.spad
  reqs := k.reqs.trans h.reqs
  tagq := k.tagq.trans h.tagq
  districts := k.districts.trans h.districts
  elems := k.elems.trans h.elems
  allot := k.allot.trans h.allot
  mig q := (k.mig q).trans (h.mig q)

@[simp] theorem quarter_updQuarter_same (s : State) (q : Nat) (f : Quarter → Quarter) : quarter (updQuarter s q f) q = f (quarter s q) := by
  simp [quarter, updQuarter]

@[simp] theorem quarter_updQuarter_other (s : State) (q r : Nat) (f : Quarter → Quarter) (h : r ≠ q) :
    quarter (updQuarter s q f) r = quarter s r := by
  simp [quarter, updQuarter, h]

theorem Keeps.updQuarter {s t : State} (h : Keeps s t) (q : Nat) (f : Quarter → Quarter) (hf : ∀ k, (f k).mig = k.mig) :
    Keeps s (updQuarter t q f) :=
  h.trans (by
    constructor <;> intros <;> try rfl
    rename_i r
    by_cases e : r = q
    · subst e; simp [hf]
    · simp [e])

theorem Keeps.updCore {s t : State} (h : Keeps s t) (c : Nat) (f : CoreState → CoreState)
    (hf : ∀ k, (f k).t = k.t ∧ (f k).parity = k.parity) : Keeps s (updCore t c f) :=
  h.trans (by
    constructor <;> intros <;> try rfl
    all_goals
      rename_i d
      by_cases e : d = c
      · subst e; simp [Machine.thr, (hf _).1, (hf _).2]
      · simp [Machine.thr, core_updCore_other _ _ _ _ e])

theorem Keeps.free {s t : State} (h : Keeps s t) (n : Nat) : Keeps s { t with freeIx := n } :=
  h.trans (by constructor <;> intros <;> rfl)

theorem rangeTable_keeps (s : State) (q asid : Nat) : Keeps s (rangeTable s q asid).2 := by
  unfold rangeTable
  split
  · exact .refl s
  · dsimp only
    refine Keeps.updQuarter (.refl s) _ _ ?_
    intro; rfl

theorem lookupFresh_keeps (s : State) (w : Who) (va : Nat) : Keeps s (lookupFresh s w va).2 := by
  unfold lookupFresh
  split
  · exact .refl s
  · have h := rangeTable_keeps s w.q w.asid
    dsimp only
    split
    · split <;> exact h
    · split
      · exact h
      · exact h.free _

theorem lookup_keeps (s : State) (w : Who) (va : Nat) : Keeps s (lookup s w va).2 := by
  have hf := lookupFresh_keeps s w va
  unfold lookup
  split
  · exact .refl s
  · dsimp only
    split
    · exact .refl s
    · have hr : Keeps s (match (quarter s w.q).xlat.find? (fun e => entCovers e w.asid va) with
          | some e => ((.ok e, s) : Except (BitVec 10) XEnt × State)
          | none => match lookupFresh s w va with
            | (.ok e, s1) => (.ok e, { Machine.updQuarter s1 w.q (fun k => { k with xlat := cacheAdd 4096 s1.freeIx k.xlat e }) with
                freeIx := s1.freeIx + 1 })
            | (.error x, s1) => (.error x, s1)).2 := by
        split
        · exact .refl s
        · split
          · next e s1 he => rw [he] at hf; refine Keeps.free (Keeps.updQuarter hf _ _ ?_) _; intro; rfl
          · next e s1 he => rw [he] at hf; exact hf
      have last : ∀ rs : Except (BitVec 10) XEnt × State, Keeps s rs.2 → Keeps s (match rs, w.core with
          | (.ok e, s1), some c =>
            ((.ok e, { Machine.updCore s1 c (fun k => { k with tlb := cacheAdd 64 s1.freeIx k.tlb e }) with freeIx := s1.freeIx + 1 }) :
              Except (BitVec 10) XEnt × State)
          | rs, _ => rs).2 := by
        intro rs h
        split
        · refine Keeps.free (Keeps.updCore h _ _ ?_) _
          intro; exact ⟨rfl, rfl⟩
        · exact h
      exact last _ hr

theorem noteCounted_keeps (w : Who) (va : Nat) (s : State) : Keeps s (noteCounted w va s) := by
  unfold noteCounted
  split
  · refine Keeps.updCore (.refl s) _ _ ?_
    intro; exact ⟨rfl, rfl⟩
  · exact .refl s

theorem countAccess_keeps (w : Who) (va : Nat) (e : XEnt) (s : State) : Keeps s (countAccess w va e s) := by
  have h := noteCounted_keeps w va s
  unfold countAccess
  split
  · exact .refl s
  · dsimp only
    split
    · exact h
    · split
      · unfold raise
        refine Keeps.updCore (Keeps.updQuarter (Keeps.updQuarter h _ _ ?_) _ _ ?_) _ _ ?_
        · intro; rfl
        · intro; rfl
        · intro; exact ⟨rfl, rfl⟩
      · refine Keeps.updQuarter h _ _ ?_
        intro; rfl

theorem xlate_keeps (s : State) (w : Who) (va : Nat) (n : Need) (b : Bool) : Keeps s (xlate s w va n b).2 := by
  have h := lookup_keeps s w va
  unfold xlate
  split
  · next x s1 he => rw [he] at h; exact h
  · next e s1 he =>
    rw [he] at h
    split
    · exact h
    · split
      · exact h
      · dsimp only; split
        · exact h.trans (countAccess_keeps _ _ _ _)
        · exact h

/-- The last component of a pair that ends in the same state. -/
theorem keeps_pair {α : Type} (s : State) (x : α) : Keeps s (x, s).2 := .refl s

theorem bytePlace_keeps (s : State) (c va : Nat) (n : Need) (b : Bool) : Keeps s (bytePlace s c va n b).2 := by
  unfold bytePlace
  split
  · exact xlate_keeps s _ va n b
  · split
    · exact keeps_pair s _
    · split
      · exact keeps_pair s _
      · split <;> exact keeps_pair s _
  · exact keeps_pair s _
  · exact keeps_pair s _

theorem restPlaces_keeps (c va r0 : Nat) (n : Need) : ∀ (k j : Nat) (acc : List Place) (s : State),
    Keeps s (restPlaces s c va r0 n k j acc).2 := by
  intro k
  induction k with
  | zero => intro j acc s; exact .refl s
  | succ k ih =>
    intro j acc s
    unfold restPlaces
    dsimp only
    split
    · exact .refl s
    · have h := bytePlace_keeps s c ((va + j) % 2 ^ 56) n
        (region ((va + j) % 2 ^ 56) == 0 && leafStart s c ((va + j) % 2 ^ 56))
      split
      · next x s1 he => rw [he] at h; exact h
      · next p s1 he => rw [he] at h; exact h.trans (ih _ _ _)

/-- Checking an access changes nothing that `Keeps` names. -/
theorem access_keeps (s : State) (c va w : Nat) (n : Need) (st : Bool) : Keeps s (access s c va w n st).2 := by
  unfold access
  dsimp only
  split
  · exact .refl s
  · split
    · exact .refl s
    · have h := bytePlace_keeps s c va n true
      split
      · next x s1 he => rw [he] at h; exact h
      · next p s1 he => rw [he] at h; exact h.trans (restPlaces_keeps _ _ _ _ _ _ _ _)

/-- A checked access leaves the running thread's registers alone. -/
theorem access_th {s s1 : State} {a w : Nat} {n : Need} {st : Bool} {r : Acc} (h : access s s.cur a w n st = (r, s1)) : th s1 = th s := by
  have k := access_keeps s s.cur a w n st
  rw [h] at k
  show Machine.thr s1 s1.cur = Machine.thr s s.cur
  rw [k.cur]; exact k.thr _

end Sys2Proof.Machine
end

