-- ==== Sys2Proof/Tests/Slice0.lean ====
section
/-! SUPPORT. Checks of the model: well-formedness, decoding against words written out from the spec, single steps against the spec's
tables, and witnesses that meet the hypotheses of the statements. -/

namespace Sys2Proof.Machine.Tests

open Sys2Proof

/-! ## Small states -/

/-- Supervisor mode on core 0, with the addresses below 2^39 mapped onto themselves. -/
def base : State := { State.reset with pins := [identityPin] }

def thr0 (f : Thread → Thread) (s : State) : State := updThr s 0 f
def core0 (f : CoreState → CoreState) (s : State) : State := updCore s 0 f
def regs (l : SMap Word) (s : State) : State := thr0 (fun t => { t with x := l }) s

/-- With no register of bad parity, an instruction guarded by k0 is ready (03 R91; 17 R395). -/
theorem ready_k0 (s : State) (l : List Nat) (h : (me s).parity = []) : Ready s 0 l := ⟨rfl, fun _ _ => by rw [h]; rfl⟩

/-- An access that the checks of 05 R140 let through, from its decidable parts. -/
theorem plain_of (s : State) (a w : Nat) (n : Need) (st : Bool) (ps : List Place)
    (h : (access s s.cur a w n st).1 = .ok ps ∧ ps.any isHub = false ∧ ps.any (faraway (access s s.cur a w n st).2) = false ∧
      winBusy (access s s.cur a w n st).2 a w = false ∧ lcMode (access s s.cur a w n st).2 a ps = false ∧
      ((th (access s s.cur a w n st).2).status.txn = false ∨ region a ≠ 0)) :
    PlainAccess s a w n st ps (access s s.cur a w n st).2 :=
  ⟨Prod.ext h.1 rfl, h.2.1, h.2.2.1, h.2.2.2.1, h.2.2.2.2.1, h.2.2.2.2.2⟩

/-- Device places in a row. -/
def devs (a w : Nat) : List Place := (List.range w).map (fun j => .dev (a + j))

/-! ## Witnesses: encodings, turns and fetches -/

theorem wit_EncodedBytesDecode : (Instr.sel 31 31 31 7).encoded = true ∧ (Instr.sel 31 31 31 7).wf = true := by decide
theorem wit_DecodedBytesEncode : decode (wordBytes 0x02A52C00 ++ [1, 2]) = some (.add 10 10 11 0, [1, 2]) := by decide

/-- Core 0 about to run `add x10, x10, x11` at 0x1000. -/
def atAdd : State := State.reset.withFetchWord 32 0x02A52C00

theorem wit_StepRunsDecodedInstruction : (takeTurn atAdd).1 = .core 0 ∧ runsNow (issueSlot 0 (takeTurn atAdd).2) 0 = true ∧
    (boundaryTurn 0 (issueSlot 0 (takeTurn atAdd).2)).isNone = true ∧ (thr (issueSlot 0 (takeTurn atAdd).2) 0).wait.issues = true ∧
    (fetchInstr (issueSlot 0 (takeTurn atAdd).2) 0).1.toOption = some (.add 10 10 11 0) := by decide

theorem wit_Fetch_line : (bytePlace atAdd 0 0x103C needX true).1.toOption = some (.dev 0x103C) ∧
    mget? (core (bytePlace atAdd 0 0x103C needX true).2 0).icache (lineKey 0 0x103C) = none ∧
    placeReadPois (bytePlace atAdd 0 0x103C needX true).2 (.dev 0x1000) 64 = false := by decide
theorem wit_Fetch_short : (fetchWord atAdd 0 (thr atAdd 0).pc.toNat).1.toOption = some 0x02A52C00 ∧ isX 0x02A52C00 = false ∧
    decodeWords 0x02A52C00 0 = some (.add 10 10 11 0) := by decide
theorem wit_Fetch_long : let s := State.reset.withFetchWord 64 (0x7FFFFFF0 * 2 ^ 32 + 0x12500000)
    (fetchWord s 0 (thr s 0).pc.toNat).1.toOption = some 0x12500000 ∧ isX 0x12500000 = true ∧
    (fetchWord (fetchWord s 0 0x1000).2 0 0x1004).1.toOption = some 0x7FFFFFF0 ∧
    decodeWords 0x12500000 0x7FFFFFF0 = some (.li 5 0 0x7FFFFFF0) := by decide
theorem wit_Fetch_illegal : let s := State.reset.withFetchWord 32 0x0272981B
    (fetchWord s 0 (thr s 0).pc.toNat).1.toOption = some 0x0272981B ∧ isX 0x0272981B = false ∧ decodeWords 0x0272981B 0 = none := by decide

/-! ## Witnesses: registers, control flow and traps -/

/-- A thread whose next instruction of 4 bytes ends the body of loop 0 or of loop 1. -/
def ending (c0 c1 : BitVec 32) (b0 b1 : BitVec 16) : Thread :=
  { Thread.reset 0 with pc := 0x1004, loop0 := ⟨c0, b0, 0x400⟩, loop1 := ⟨c1, b1, 0x400⟩ }

theorem wit_CompletionChecksLoopEnds :
    let ends (t : Thread) (l : HwLoop) : Prop := l.body ≠ 0 ∧ t.pc.toNat + 4 - 4 = l.start.toNat * 4 + 4 * l.body.toNat - 4
    (ends (ending 5 1 2 2) (ending 5 1 2 2).loop1 ∧ (ending 5 1 2 2).loop1.count ≠ 0) ∧
    (ends (ending 5 0 2 2) (ending 5 0 2 2).loop1 ∧ ends (ending 5 0 2 2) (ending 5 0 2 2).loop0) ∧
    (¬ ends (ending 1 0 2 0) (ending 1 0 2 0).loop1 ∧ ends (ending 1 0 2 0) (ending 1 0 2 0).loop0) ∧
    ((ending 0 0 2 0).loop0.count = 0 ∧ ends (ending 0 0 2 0) (ending 0 0 2 0).loop0) ∧
    ¬ ends (ending 1 1 1 3) (ending 1 1 1 3).loop0 := by decide

theorem wit_IntegerInstructions : Ready (regs [(1, 2 ^ 63), (2, 0xFFFFFFFFFFFFFFFF)] base) 0 [1, 2] := ready_k0 _ _ (by decide)
theorem wit_DivisionRoundsTowardsZero :
    (rx (regs [(1, 0xFFFFFFFFFFFFFFF1), (2, 4)] base) 1).toInt = -15 ∧ (rx (regs [(1, 0x8000000000000000)] base) 1).toInt = -2 ^ 63 ∧
    (rx (regs [(2, 0xFFFFFFFFFFFFFFFF)] base) 2).toInt = -1 ∧ (rx base 2).toInt = 0 ∧ Ready base 0 [1, 2] :=
  ⟨by decide, by decide, by decide, by decide, ready_k0 _ _ (by decide)⟩
theorem wit_ComparisonsAndPredicateLogic : Ready base 0 [32 + 7, 32 + 1] ∧ Clean base [1, 2, 32 + 3] :=
  ⟨ready_k0 _ _ (by decide), fun r _ => by rw [show (me base).parity = [] from by decide]; rfl⟩
theorem wit_FalseGuardOnlyAdvances : (me base).parity = [] ∧ rk base 1 = false := by decide

/-- A loop level 0 of four words is active over the program counter, and X[1] holds a count. -/
def looping (b0 b1 : BitVec 16) (n : Word) : State :=
  regs [(1, n)] (thr0 (fun t => { t with pc := 0x1004, loop0 := ⟨1, b0, 0x400⟩, loop1 := ⟨1, b1, 0x400⟩ }) base)

theorem wit_Loop_nest : (th (looping 4 0 1)).loop0.body ≠ 0 ∧ (th (looping 0 4 1)).loop1.body ≠ 0 ∧
    (th (looping 4 0 1)).pc.toNat + 4 + 4 * 3 > (th (looping 4 0 1)).loop0.start.toNat * 4 + 4 * (th (looping 4 0 1)).loop0.body.toNat := by
  decide
theorem wit_Loop_open : (th (looping 4 0 (2 ^ 32))).loop1.body = 0 ∧ ¬ ((th (looping 4 0 (2 ^ 32))).pc.toNat + 4 + 4 * 2 >
    (th (looping 4 0 (2 ^ 32))).loop0.start.toNat * 4 + 4 * (th (looping 4 0 (2 ^ 32))).loop0.body.toNat) ∧
    (rx (looping 4 0 (2 ^ 32)) 1).toNat = 2 ^ 32 ∧ (rx (looping 4 0 0) 1).toNat = 0 ∧ (rx (looping 4 0 (2 ^ 32 + 1)) 1).toNat > 2 ^ 32 := by
  decide

theorem wit_TrapEntryAndSystemReturn : (th base).status.intrap = false ∧ (th base).status.supv = true ∧ asyncPending base base.cur = false ∧
    asyncPending (raise 0 0x303 0 0 base) 0 = true := by decide
theorem wit_DoubleFaultsAndParityFailures :
    (th (thr0 (fun t => { t with status := { t.status with intrap := true } }) base)).status.intrap = true ∧
    (me (core0 (fun k => { k with parity := [(31, false)] }) base)).unfit 31 = true ∧
    (me (core0 (fun k => { k with parity := [(31, true)], replay := [31] }) base)).unfit 31 = true ∧
    (let k := me (core0 (fun k => { k with parity := [(31, false)], replay := [31] }) base)
     k.parity = [(31, false)] ∧ 31 ∈ k.replay ∧ mget? k.parity 31 = some false ∧ mget? k.parity 32 = none) := by decide
/-- Core 0 in user mode. -/
def user : State := thr0 (fun t => { t with status := .zero }) base
theorem wit_UserMode : (th user).status.supv = false ∧ 0x041 ∈ [0x002, 0x041] ∧
    0x014 ∉ [0x000, 0x001, 0x002, 0x003, 0x004, 0x005, 0x006, 0x007, 0x008, 0x010, 0x011, 0x012, 0x013] := by decide
theorem wit_SystemRegisterFields : sysKnown 0x041 = true ∧ sysUserRead 0x033 = true ∧ sysUserWrite 0x024 = true ∧
    (thr user 0).status.txn = false ∧ recordsOf user (thr user 0).id = [] := by decide
theorem wit_CacheInvalidations :
    let s := { thr0 (fun t => { t with wait := .icinv }) base with icinv := [(0, 255, none)] }
    s.icinv = [(0, 255, none)] ∧ (thr s 0).wait = .icinv ∧ (th s).status.supv = true ∧ s.reqs = [] := by decide

/-! ## Witnesses: memory -/

theorem wit_Load_top : PlainAccess base (2 ^ 39 - 8) 8 needR false (devs (2 ^ 39 - 8) 8) (access base base.cur (2 ^ 39 - 8) 8 needR false).2 ∧
    poisPlaces base (devs (2 ^ 39 - 8) 8) = false := ⟨plain_of _ _ _ _ _ _ (by decide), by decide⟩
theorem wit_Load_narrow : PlainAccess base 1 1 needR false (devs 1 1) (access base base.cur 1 1 needR false).2 ∧
    PlainAccess base 1 2 needR false (devs 1 2) (access base base.cur 1 2 needR false).2 ∧
    PlainAccess base 1 4 needR false (devs 1 4) (access base base.cur 1 4 needR false).2 :=
  ⟨plain_of _ _ _ _ _ _ (by decide), plain_of _ _ _ _ _ _ (by decide), plain_of _ _ _ _ _ _ (by decide)⟩
/-- A line of device memory is marked. -/
def marked : State := { base with dev := ⟨[], [], [1]⟩ }
theorem wit_Load_poison : PlainAccess marked 0x40 8 needR false (devs 0x40 8) (access marked marked.cur 0x40 8 needR false).2 ∧
    poisPlaces marked (devs 0x40 8) = true ∧ placeReadPois marked (.dev 0x40) 8 = true :=
  ⟨plain_of _ _ _ _ _ _ (by decide), by decide, by decide⟩
theorem wit_Load_fault : (access base base.cur (2 ^ 39) 4 needR false).1 = .fault 0x046 (2 ^ 39) := by decide
theorem wit_Store_loc : PlainAccess base locBase 8 needW false ((List.range 8).map (fun j => .loc 0 j)) (access base base.cur locBase 8 needW false).2 ∧
    PlainAccess base (locTop - 1) 1 needW false [.loc 0 32767] (access base base.cur (locTop - 1) 1 needW false).2 ∧
    PlainAccess base 3 2 needW false (devs 3 2) (access base base.cur 3 2 needW false).2 ∧
    PlainAccess base 2 4 needW false (devs 2 4) (access base base.cur 2 4 needW false).2 :=
  ⟨plain_of _ _ _ _ _ _ (by decide), plain_of _ _ _ _ _ _ (by decide), plain_of _ _ _ _ _ _ (by decide), plain_of _ _ _ _ _ _ (by decide)⟩
theorem wit_MemoryStaysCanonical : Memory.wf base.dev = true ∧ Memory.wf base.loc = true ∧ Memory.wf base.spad = true ∧
    effAddr (rx base 1) 0xFFF = 2 ^ 56 - 1 ∧ effAddr (rx base 1) 0x7FF = 0x7FF := by decide
theorem wit_AccessChecks : region (2 ^ 56 - 1) = 3 ∧ region locTop = 3 ∧ region (winBase - 1) = 0 ∧ region winBase = 1 ∧ region winTop = 3 ∧
    region locBase = 2 ∧ (th base).district = none ∧ (th base).status.txn = false ∧ region 1 = 0 := by decide

/-- A request of core 0 to device 3. -/
def away (kind : Nat) (w : Bool) : Req := ⟨0, 0, .peer 3 0x40, 0x40, 0, kind, 0, [], 7, 0, 8, 5, w, false, 0⟩
def sentAway (kind : Nat) (w : Wait) (b : Bool) : State := { thr0 (fun t => { t with wait := w }) base with reqs := [away kind b] }
theorem wit_LoadDataReturn : let s := sentAway 0 (.load 5 8 false 0x40) true
    s.reqs = [away 0 true] ∧ isPeer (away 0 true).place = true ∧ (thr s 0).wait = .load 5 8 false 0x40 := by decide
theorem wit_RemoteStoreFail : (sentAway 1 .none false).reqs[0]? = some (away 1 false) ∧ (away 1 false).place = .peer 3 0x40 ∧
    (away 1 false).wait = false ∧ reachable (sentAway 1 .none false) 3 = false ∧ { away 1 false with fn := 1 }.kind = 1 ∧ (away 1 false).fn ≠ 1 ∧
    coreOfThread (sentAway 1 .none false) 0 = some 0 := by decide
/-- The next device of this device's row. -/
def neighbour : Nat := slotOf / 12 * 12 + (slotOf % 12 + 1) % 12
theorem linkTo_neighbour : ∃ j, linkTo neighbour = some j ∧ adjacent slotOf neighbour = true := by
  have h : ∀ a : Fin 144, ((List.range 22).find? (fun j => linkPeer a.val j == a.val / 12 * 12 + (a.val % 12 + 1) % 12)).isSome = true ∧
      adjacent a.val (a.val / 12 * 12 + (a.val % 12 + 1) % 12) = true := by decide +kernel
  obtain ⟨h1, h2⟩ := h ⟨slotOf, Nat.mod_lt _ (by omega)⟩
  obtain ⟨j, hj⟩ := Option.isSome_iff_exists.mp h1
  exact ⟨j, hj, h2⟩
/-- A member of the row is reached over its own link. -/
theorem wit_RemoteStore_reachable : reachable { base with members := [neighbour] } neighbour = true := by
  obtain ⟨j, hj, ha⟩ := linkTo_neighbour
  have hl : linkUp { base with members := [neighbour] } slotOf neighbour = true := by
    simp [linkUp, hj, link, mget, mget?, base, State.reset, Link.reset]
  simp [reachable, isMember, route, rowPath, ha, pathUp, hl]
theorem wit_MovedRetry : let s := { base with reqs := [{ away 1 false with place := .dev 0x40, moved := true }] }
    (reqPlaces { away 1 false with place := .dev 0x40, moved := true } 8 0 [] s).1 = some (devs 0x40 8) ∧
    (devs 0x40 8).any (fun p => (migAt s p).isSome) = false ∧ (devs 0x40 8).any isHub = false := by decide

theorem wit_Tagged_access : PlainAccess base 0x40 4 needRW true (devs 0x40 4) (access base base.cur 0x40 4 needRW true).2 ∧
    PlainAccess base 0x40 4 needR true (devs 0x40 4) (access base base.cur 0x40 4 needR true).2 ∧
    PlainAccess base 0x40 4 needW true (devs 0x40 4) (access base base.cur 0x40 4 needW true).2 :=
  ⟨plain_of _ _ _ _ _ _ (by decide), plain_of _ _ _ _ _ _ (by decide), plain_of _ _ _ _ _ _ (by decide)⟩
/-- The word at 0x40 is full. -/
def full : State := { base with dev := ⟨[(0x40, 9)], [0x10], []⟩ }
theorem wit_Tagged_words : placeTag full (.dev 0x40) = true ∧ tagBehind full (.dev 0x40) 0 = false ∧ placeReadPois full (.dev 0x40) 4 = false ∧
    placeTag base (.dev 0x40) = false ∧ tagBehind base (.dev 0x40) 2 = false ∧ placePois base (.dev 0x40) = false := by decide
def waiter (k : Nat) : TagWait := ⟨.core 0, .dev 0x40, k, 5, 7, 0x40, 0⟩
theorem wit_WaitersAtTaggedWordsAreServed : { full with tagq := [waiter 0] }.tagq = [waiter 0] ∧ placeTag full (.dev 0x40) = true ∧
    (let s := { thr0 (fun t => { t with wait := .tag }) base with fc := 0x00100000 }
     (thr s 0).wait = .tag ∧ overrun s 0 = true) := by decide
theorem wit_Atomics : PlainAccess base 0x7C 4 needRW true (devs 0x7C 4) (access base base.cur 0x7C 4 needRW true).2 ∧
    PlainAccess base 0x78 8 needRW true (devs 0x78 8) (access base base.cur 0x78 8 needRW true).2 ∧ region 0x78 = 0 ∧
    placeReadPois base (.dev 0x78) 8 = false ∧ placeReadPois marked (.dev 0x78) 8 = true :=
  ⟨plain_of _ _ _ _ _ _ (by decide), plain_of _ _ _ _ _ _ (by decide), by decide, by decide, by decide⟩
theorem wit_VectorAtomics : (match (vaddSource 0x80 16 base).1 with | .words l => l == List.replicate 16 0 | _ => false) = true ∧ winBusy base 0x80 64 = false ∧
    (0x40 : Nat) % 64 + 4 * 16 ≤ 64 ∧ PlainAccess (vaddSource 0x80 16 base).2 0x40 4 needRW true (devs 0x40 4)
      (access (vaddSource 0x80 16 base).2 (vaddSource 0x80 16 base).2.cur 0x40 4 needRW true).2 :=
  ⟨by decide, by decide, by decide, plain_of _ _ _ _ _ _ (by decide)⟩
theorem wit_Snap : PlainAccess base 0x40 64 needRW true (devs 0x40 64) (access base base.cur 0x40 64 needRW true).2 ∧
    PlainAccess base 0x80 64 needRW true (devs 0x80 64) (access base base.cur 0x80 64 needRW true).2 ∧ (0x40 : Nat) + 64 ≤ 0x80 :=
  ⟨plain_of _ _ _ _ _ _ (by decide), plain_of _ _ _ _ _ _ (by decide), by decide⟩
theorem wit_AtomicAtHome : let r := { away 2 true with place := .dev 0x40 }
    let s := { thr0 (fun t => { t with wait := .amo 5 true false 0x40 }) base with reqs := [r] }
    s.reqs = [r] ∧ r.fn = 0 ∧ migAt s r.place = none ∧ placeReadPois s (.dev 0x40) 8 = false ∧ (thr s r.core).wait = .amo 5 true false 0x40 := by
  decide
theorem wit_AtomicReply : let s := sentAway 2 (.amo 5 true false 0x40) true
    s.reqs = [away 2 true] ∧ (thr s 0).wait = .amo (away 2 true).rd true false 0x40 := by decide

theorem wit_Fence : fenceWaits base base.cur = false ∧ fenceWaits (sentAway 1 .none false) 0 = false := by decide
theorem wit_Bind : objectOk base 0x40 = true ∧ (0x1000 : Nat) + 64 ≤ winBase ∧ objectOk base (BitVec.ofNat 64 (2 ^ 61)) = false ∧
    (th (thr0 (fun t => { t with bind := List.replicate 16 ⟨0x40, 0, 1⟩ }) base)).bind.length = 16 := by decide
/-- Barrier 95 of core 0 has its last arrival to come. -/
def barred : State := regs [(1, 255), (2, 256), (3, 1)] (thr0 (fun t => { t with bar := [(95, ⟨2, 1, false⟩)] }) base)
theorem wit_NamedBarriers : (barrier barred 0 95).target ≠ 0 ∧ (barrier barred 0 95).arrivals + 1 = (barrier barred 0 95).target ∧
    (barrier base 0 95).target = 0 ∧ (rx barred 1).toNat = 255 ∧ (thr barred 255).asid = (th barred).asid ∧ (rx barred 2).toNat = 256 ∧
    (barrier barred 0 95).phase ≠ (rx barred 3).getLsbD 0 ∧ (barrier barred 0 95).phase = (rx barred 0).getLsbD 0 ∧
    mget? (th barred).synced (th barred).pc.toNat = none ∧
    (thr (updThr base 255 (fun t => { t with asid := 1 })) 255).asid ≠ (th base).asid := by decide
/-- Core 0 waits at `bar.wait` at 0x1000 past its bound. -/
def barWaiting : State :=
  let s := State.reset.withFetchWord 32 ((encode (.barWait 1 2 0 95)).headD 0)
  { thr0 (fun t => { t with wait := .again true }) s with fc := 0x00100000 }
theorem wit_BarrierWaitTimeout : (thr barWaiting 0).wait = .again true ∧ overrun barWaiting 0 = true ∧ barAt barWaiting 0 = some 95 := by decide

/-! ## Witnesses: locks and transactions -/

/-- Tensor 3 of space 0: FP32, two rows of 64, 256 bytes apart, at 0x10000, with tiles of 16 columns. -/
def tensor : List Word := [1 + 2 ^ 7 + 4 * 2 ^ 32, 0x10000, 0, 64 + 2 * 2 ^ 32, 1 + 2 ^ 32, 256, 0, 0]
/-- X[1] names the tensor, X[2] its tile 0, X[3] its line 3, X[4] a line outside it. -/
def locky (s : State) : State :=
  regs [(1, mkName 0 3 0), (2, mkName 1 3 0), (3, mkName 2 3 3), (4, mkName 2 3 4)] { s with tid := [(tidKey 0 3, tensor)] }
def holds (l : List LockRec) : State := { locky base with locks := l }
def whole (thread mode : Nat) : LockRec := ⟨0, mkName 0 3 0, false, false, thread, 2 ^ 63, mode, false, false⟩
def lockWaitOf (n : Word) (mode : Nat) (a : Bool) : LockWait := ⟨0, n, false, 0, 0, mode, newAge base, false, none, false, false, a, (defaultCmat, 32), []⟩

/-- What a home makes of a request as it arrives. -/
def homeGrants (w : LockWait) (s : State) : Bool := grantable (arriving w s).2 (arriving w s).1
def homeEscalates (w : LockWait) (s : State) : Option LockWait := escalation (arriving w s).2 (arriving w s).1

theorem wit_Lock_names : lockNameOk (holds []) 0 (rx (holds []) 3) = true ∧ lockNameOk (holds []) 0 (rx (holds []) 4) = false ∧
    nameLevel (rx (holds []) 3) = 2 ∧ modeAt 1 2 = false ∧ modeAt 4 2 = true ∧ (th (holds [])).status.wpend = false ∧
    (th (thr0 (fun t => { t with status := { t.status with wpend := true } }) (holds []))).status.wpend = true := by decide
theorem wit_Lock_held : coveredBy (holds [whole 0 4]) 0 0 (rx (holds [whole 0 4]) 2) 4 = true ∧
    coveredBy (holds [whole 0 1]) 0 0 (rx (holds [whole 0 1]) 1) 0 = false ∧ heldMode (holds [whole 0 1]) 0 0 (mkName 0 3 0) = some 1 ∧
    covers 1 0 = true ∧ orderOk (holds []) 0 0 (mkName 1 3 0) 4 = false ∧ heldMode (holds []) 0 0 (mkName 1 3 0) = none ∧
    coveredBy (holds []) 0 0 (mkName 1 3 0) 4 = false := by decide
theorem wit_Lock_grant : orderOk (holds []) 0 0 (mkName 0 3 0) 4 = true ∧ (aged (holds [])).lockq = [] ∧
    lockRemote (aged (holds [])) 0 (mkName 0 3 0) = false ∧
    ageWaits (holds []) = false ∧ homeGrants (lockWaitOf (mkName 0 3 0) 4 false) (aged (holds [])) = true ∧
    homeEscalates (lockWaitOf (mkName 0 3 0) 4 false) (aged (holds [])) = none ∧
    holdOf (holds []) 0 0 (mkName 0 3 0) false false = none ∧ (explicitOf (holds []) 0).length < 256 := by decide
theorem wit_Lock_upgrade : heldMode (holds [whole 0 2]) 0 0 (mkName 0 3 0) = some 2 ∧ covers 2 4 = false ∧ covers 4 2 = true ∧
    orderOk (holds [whole 0 2]) 0 0 (mkName 0 3 0) 4 = true ∧
    homeGrants (lockWaitOf (mkName 0 3 0) 4 false) (aged (holds [whole 0 2])) = true := by decide
theorem wit_Lock_wait : homeGrants (lockWaitOf (mkName 0 3 0) 4 false) (aged (holds [whole 1 4])) = false ∧
    holdOf (holds [whole 1 4]) 0 0 (mkName 0 3 0) false false = none ∧ coveredBy (holds [whole 1 4]) 0 0 (mkName 0 3 0) 4 = false := by decide
theorem wit_LockReleasesAndQueries : holdOf (holds [whole 0 4]) 0 0 (mkName 0 3 0) false false ≠ none ∧ (holds [whole 0 4]).lockq = [] ∧
    (∀ r ∈ explicitOf (holds [whole 0 4]) 0, recUnder (holds [whole 0 4]) 0 (mkName 0 3 0) r = false) ∧
    (let s := holds [whole 0 1, ⟨0, mkName 1 3 0, false, false, 0, 0, 4, false, false⟩]
     ∃ r ∈ explicitOf s 0, recUnder s 0 (mkName 0 3 0) r = true) := by decide

/-- A request of core 0 waits for its home, with some records held. -/
def asked (l : List LockRec) : State :=
  { thr0 (fun t => { t with wait := .lock 5 }) (holds l) with lockq := [lockWaitOf (mkName 0 3 0) 4 false] }
set_option maxRecDepth 4000 in
theorem wit_LockRequestAtHome : (thr (asked []) 0).wait = .lock 5 ∧ (thr (asked []) 0).id = 0 ∧
    homeGrants (lockWaitOf (mkName 0 3 0) 4 false) { asked [] with lockq := [] } = true ∧
    homeEscalates (lockWaitOf (mkName 0 3 0) 4 false) { asked [] with lockq := [] } = none ∧
    homeGrants (lockWaitOf (mkName 0 3 0) 4 false) { asked [whole 1 4] with lockq := [] } = false ∧
    compat (defaultCmat, 32) 4 4 = false ∧ (newAge base).toNat < (whole 1 4).age.toNat := by decide
/-- The thread of core 0 holds line 2 of the tensor, now with tiles of a row, whose space escalates at two lines. -/
def crowded : State :=
  let held (n : Word) (m : Nat) : LockRec := ⟨0, n, false, false, 0, newAge base, m, false, false⟩
  { holds [held (mkName 0 3 0) 1, held (mkName 1 3 1) 1, held (mkName 2 3 2) 4] with
    tid := [(tidKey 0 3, (tensor.set 0 (1 + 2 ^ 7 + 6 * 2 ^ 32)))],
    cmat := [(cmatKey (lockEngine 0 (mkName 2 3 3) false) 0, (defaultCmat, 1))] }
theorem wit_Lock_escalates : orderOk crowded 0 0 (mkName 2 3 3) 4 = true ∧ homeGrants (lockWaitOf (mkName 2 3 3) 4 false) (aged crowded) = true ∧
    ((homeEscalates (lockWaitOf (mkName 2 3 3) 4 false) (aged crowded)).map (fun v =>
      (v.name == mkName 1 3 1) && grantable (arriving (lockWaitOf (mkName 2 3 3) 4 false) (aged crowded)).2 v)) = some true ∧
    heldMode crowded 0 0 (mkName 2 3 3) = none ∧ holdOf crowded 0 0 (mkName 2 3 3) false false = none := by decide
/-- A wound of the thread of core 0 is under way. -/
def wound (a : Bool) : Wound := ⟨0, mkName 0 3 0, false, 0, 0, a, false, false, false⟩
theorem wit_WoundArrival : let s := { holds [whole 0 4] with wounds := [wound false] }
    coreOfThread s 0 = some 0 ∧ woundable s (thr s 0) = true ∧ (core s 0).cstat ≠ 4 ∧ (thr s 0).wait = .none ∧
    woundable (holds []) (thr (holds []) 0) = false ∧
    (let u := { thr0 (fun t => { t with wait := .lock 5 }) s with lockq := [lockWaitOf (mkName 0 3 0) 4 true] }
     (thr u 0).wait = .lock 5 ∧ (thr u 0).status.intrap = false ∧ coreOfThread u 0 = some 0) := by decide
/-- Core 0 runs with IE = 1. -/
def enabled (w : Bool) (supv txn : Bool) : State :=
  core0 (fun k => { k with held := false, t := { k.t with status := ⟨0, txn, w, false, true, supv⟩ } }) base
theorem wit_Lock_engineFull : let e := lockEngine 0 (mkName 0 3 0) false
    let s := holds (List.replicate (engineRecords + Config.overflowRecords e) (whole 1 4))
    holdOf s 0 0 (mkName 0 3 0) false false = none ∧ engineRecords + Config.overflowRecords e ≤ recordsAt s e := by
  constructor
  · rw [holdOf, List.find?_eq_none]
    intro r hr
    simp only [holds, List.mem_replicate] at hr
    simp [hr.2, whole]
  · simp [recordsAt, holds, whole]
theorem wit_WoundAsyncEntry : woundDue (enabled true true false) 0 = true ∧ (enabled true true false).lockq = [] ∧
    coreOfThread (enabled true true false) 0 = some 0 := by decide
theorem wit_LockRevoke : let s := { holds [whole 0 4] with wounds := [wound true], ns := 2 ^ 30 }
    coreOfThread s 0 = some 0 ∧ (s.cores.map Prod.fst).Pairwise (· < ·) ∧ lmRevoke s ≠ 0 ∧ 0 + lmRevoke s * 64000 ≤ s.ns ∧
    holdsContested s (wound true) = true ∧ accessPending s 0 = false := by decide

/-- What taking the implicit locks of an access of 8 bytes comes to. -/
def implicitAt (s : State) (a : Nat) (write : Bool) : TxAcc :=
  takeImplicit ((accLines a (devs a 8)).flatMap (fun l => implicitLocks s (th s).asid.toNat l.1 l.2 write)) s
/-- Core 0 in an open transaction that has written one line. -/
def inTx : State := thr0 (fun t => { t with
  status := { t.status with txn := true }, tx := ⟨0x2000, 5, [(1, List.replicate 128 7, false, true)], [], [], 0, 0⟩ }) base
theorem wit_TransactionsCommitAndAbort : coreOfThread inTx (th inTx).id = some inTx.cur ∧ (th inTx).status.txn = true ∧
    outstanding inTx inTx.cur = false ∧ inTx.lockq = [] ∧ (th inTx).tx.rd ≠ 0 ∧
    outstanding (sentAway 1 .none false) 0 = true ∧ (th base).status.txn = false ∧ (th base).age = 0 ∧
    (rx (regs [(1, 0xFFFFFFFFFFFFFC)] base) 1).toNat % 4 = 0 ∧ (rx (regs [(1, 0xFFFFFFFFFFFFFC)] base) 1).toNat < 2 ^ 56 := by decide
set_option maxRecDepth 4000 in
/-- A line lock granted at once, and one that an older thread holds. -/
theorem wit_Tx_access : let places (s : State) (a w : Nat) (n : Need) : Option (List Place) :=
      match (access s s.cur a w n false).1 with
      | .ok ps => some ps
      | .fault _ _ => none
    let u := { inTx with locks := [⟨0, lineName (.dev 0x80), true, false, 1, 0, 4, true, false⟩] }
    places inTx 0x80 8 needR = some (devs 0x80 8) ∧ places inTx 0x80 8 needW = some (devs 0x80 8) ∧ region 0x80 = 0 ∧ inTx.lockq = [] ∧
    winBusy (access inTx 0 0x80 8 needR false).2 0x80 8 = false ∧ (th (access inTx 0 0x80 8 needW false).2).status.txn = true ∧
    (match implicitAt inTx 0x80 false with | .held s2 => !(devs 0x80 8).any (faraway s2) && !poisPlaces s2 (devs 0x80 8) | _ => false) = true ∧
    (match implicitAt inTx 0x80 true with
      | .held s2 => !(devs 0x80 8).any (faraway s2) && decide ((logWrite s2 0x80 (devs 0x80 8)).tx.lines ≤ 8192) | _ => false) = true ∧
    (match implicitAt (thr0 (fun t => { t with tx := { t.tx with away := List.replicate 8192 (3, 0) } }) inTx) 0x80 true with
      | .held s2 => decide (8192 < (logWrite s2 0x80 (devs 0x80 8)).tx.lines) | _ => false) = true ∧
    (match implicitAt u 0x80 false with | .wait _ => true | _ => false) = true ∧
    (match implicitAt u 0x80 true with | .wait _ => true | _ => false) = true := by decide +kernel
theorem wit_TxCommit : (thr (thr0 (fun t => { t with wait := .tx 5 }) inTx) 0).wait = .tx 5 ∧ (thr inTx 0).status.wpend = false := by decide
theorem wit_TxWoundAbort : txWoundDue (enabled true false true) 0 = true ∧ coreOfThread (enabled true false true) 0 = some 0 := by decide

/-! ## Witnesses: tasks and districts -/

/-- A record of queue 5 in space 0, with its bytes at 0x100. -/
def rec5 (gang join : Nat) : Rec := ⟨0x2000, 0x3000, BitVec.ofNat 64 join, BitVec.ofNat 64 (gang * 2 ^ 32 + 5 * 2 ^ 16)⟩
def recBytes (r : Rec) : List Byte := [r.d0, r.d1, r.d2, r.d3].flatMap (fun w => toBytes 8 w.toNat)
def withRec (r : Rec) (st : Nat) (lane : List QRec) : State :=
  regs [(1, 0x100)] { placeWrite base (.dev 0x100) (recBytes r) false with
    queues := [(5, { Queue.reset with state := st, lanes := [(0, lane)] })] }
set_option maxRecDepth 8000 in
theorem wit_Spawn_record : (spawnRecord (withRec (rec5 0 0) 1 []) 0x100).1.toOption = some (rec5 0 0) := by decide
theorem wit_Spawn_queue : (rec5 0 0).bad 0 false = false ∧ (rec5 0 0).gang = 0 ∧
    (rec5 0 0).queue = 5 ∧ (queue (withRec (rec5 0 0) 1 []) 5).accepts = true ∧ copyWaits (withRec (rec5 0 0) 1 []) 5 (rec5 0 0) = false ∧
    (queue (withRec (rec5 0 0) 1 []) 5).cap = 16 ∧
    (queue (withRec (rec5 0 0) 3 []) 5).accepts = false ∧ (queue (withRec (rec5 0 0) 0 []) 5).state = 0 := by decide
theorem wit_Spawn_settled : fenceWaits (withRec (rec5 0 0) 1 []) 0 = false := by rfl
theorem wit_Spawn_full : (queue (withRec (rec5 0 0) 1 (List.replicate 16 ⟨rec5 0 0, 0, none, none⟩)) 5).cap ≤
    ((queue (withRec (rec5 0 0) 1 (List.replicate 16 ⟨rec5 0 0, 0, none, none⟩)) 5).lane (rec5 0 0).prio).length := by decide
set_option maxRecDepth 8000 in
theorem wit_Spawn_gang : (rec5 9 0).bad 0 false = false ∧ (rec5 9 0).gang = 9 ∧ gangAt base 0 9 = none ∧
    (spawnRecord (withRec (rec5 9 0) 1 []) 0x100).1.toOption = some (rec5 9 0) := by decide
/-- Core 0 waits at `spawn` past its bound. -/
def spawning : State :=
  let s := State.reset.withFetchWord 32 ((encode (.spawn 5 1 0)).headD 0)
  { regs [(1, 0x100)] (thr0 (fun t => { t with wait := .again true }) s) with fc := 0x00100000 }
set_option maxRecDepth 8000 in
theorem wit_SpawnWaitTimeout : (thr spawning 0).wait = .again true ∧ overrun spawning 0 = true ∧ spawnAt spawning 0 = some 0x100 := by decide
def running (join : Nat) : State := thr0 (fun t => { t with task := some ⟨5, ⟨rec5 0 join, 0, none, none⟩, 1, none⟩ }) base
theorem wit_Done : doneBusy base = false ∧ engineLeft base = false ∧ (th base).task = none ∧ doneBusy inTx = true ∧ doneBusy (running 0x200) = false ∧
    engineLeft (running 0x200) = false := by decide
theorem wit_Done_join : (joinCheck ⟨5, ⟨rec5 0 0x200, 0, none, none⟩, 1, none⟩ (running 0x200)).1 = .ok () := by rfl
theorem wit_Join : let s := regs [(1, 0x200), (2, 0xFFFFFFFF), (3, 0x1000)] base
    (tablePlace s (addr56 (rx s 1))).1.toOption = some (.dev 0x200) ∧ migAt s (.dev 0x200) = none ∧ 0 < (rx s 2).toNat ∧ (rx s 2).toNat < 2 ^ 32 ∧
    (rx s 3).toNat % 32 = 0 ∧ leNat (placeRead s (.dev 0x200) 4) = 0 := by decide
/-- A chunk descriptor at 0x200: NEXT 5, LAST 45, MIN 3, WORKERS w. -/
def chunks (w : Nat) : State := regs [(1, 0x200)] (placeWrite base (.dev 0x200) (toBytes 4 5 ++ toBytes 4 45 ++ toBytes 4 3 ++ toBytes 4 w) false)
theorem wit_Chunk : leNat (placeRead (chunks 2) (.dev 0x200) 4) = 5 ∧ leNat (placeRead (chunks 2) (.dev 0x204) 4) = 45 ∧
    leNat (placeRead (chunks 2) (.dev 0x20C) 4) = 2 ∧ leNat (placeRead (chunks 0) (.dev 0x20C) 4) = 0 ∧
    Nat.min 40 (Nat.max (Nat.max 3 1) ((40 + 2 * 2 - 1) / (2 * 2))) = 10 := by decide

/-- A district of one block at the origin of quarter 0, of the thread of core 0. -/
def dist0 : District := newDistrict base ⟨0, 0, 0, 1, 1⟩ 0
def withD (k : District) (s : State) : State :=
  { thr0 (fun t => { t with district := some 1 }) s with districts := [(1, k)], nextId := 2 }
theorem wit_Dacq : let s := regs [(1, 0x200)] base
    dacqBad (rx s 1) (rx s 2) = false ∧ reservations s = [] ∧ (th s).task = none ∧ dacqRects (rx s 1) = [⟨0, 0, 0, 1, 1⟩] ∧
    firstFit s (spaceZone s 0) (dacqRects (rx s 1)) = some ⟨0, 0, 0, 1, 1⟩ ∧ (∃ r ∈ dacqRects (rx s 1), inZone s (spaceZone s 0) r = true) ∧
    dacqBad 0x80 0 = true ∧ (th (withD dist0 s)).district ≠ none ∧ gangSize s 0 65535 < 64 := by decide
theorem wit_Dacq_taken : let s := { base with districts := [(1, dist0)] }
    firstFit s (spaceZone s 0) (dacqRects 0x200) = none ∧ bit 0x80000200 31 = true ∧
    (∃ r ∈ dacqRects 0x80000200, inZone s (spaceZone s 0) r = true) ∧
    (let u := { base with quarters := [(0, { Quarter.reset with zmap := [(0, 1)] })] }
     ∀ r ∈ dacqRects 0x200, inZone u (spaceZone u 0) r = false) := by decide
def waitingD : State :=
  let s := State.reset.withFetchWord 32 ((encode (.dacq 5 1 2 0)).headD 0)
  regs [(1, 0x80000200)] (thr0 (fun t => { t with wait := .dacq }) s)
theorem wit_DacqWaitGrant : (thr waitingD 0).wait = .dacq ∧ runsNow waitingD 0 = true ∧
    (fetchInstr waitingD 0).1.toOption = some (.dacq 5 1 2 0) ∧ (rx waitingD 2).toNat % 2 ^ 16 = 0 ∧
    firstFit (fetchInstr waitingD 0).2 0 (dacqRects (rx waitingD 1)) = some ⟨0, 0, 0, 1, 1⟩ := by decide
theorem wit_Drel : myDist (withD dist0 base) = some (1, dist0) ∧ dist0.busy = false ∧ dist0.thread = (th base).id ∧ myDist base = none ∧
    coreOfThread (withD dist0 base) 0 = some 0 ∧ { dist0 with board := [(1, 0, 4)] }.busy = true := by decide

/-- X[1] an object, X[2] and X[3] operands, with a district. -/
def issuing (a b : Word) (k : District) : State := regs [(1, 0x400), (2, a), (3, b)] (withD k base)
theorem wit_Issue : (cplPlace (issuing 0x100 4 dist0) 0 (addr56 (rx (issuing 0x100 4 dist0) 1))).1.toOption = some (.dev 0x400) ∧
    myDist (issuing 0x100 4 dist0) = some (1, dist0) ∧ region (rx (issuing 0x100 4 dist0) 2).toNat = 0 ∧ dist0.tdown = none ∧
    (rx (issuing 0x100 0x1000000 dist0) 3).toNat ≤ 2 ^ 24 ∧ dist0.caughtUp = true ∧ dist0.lastWave < 0xFFFFFFFF ∧ dist0.invs.length < 2 ∧
    (cplPlace base 0 (addr56 0x400)).1.toOption = some (.dev 0x400) := by decide
theorem wit_Ctxset : (rx (issuing 0x1BB 0 dist0) 2).toNat < 2 ^ 9 ∧ bits (rx (issuing 0x1BB 0 dist0) 2) 7 4 ≤ 11 ∧
    bits (rx (issuing 0x1BB 0 dist0) 2) 3 0 ≤ bits (rx (issuing 0x1BB 0 dist0) 2) 7 4 ∧ bits 0xC0 7 4 > 11 := by decide
theorem wit_CfgConst : let w (m : Nat) : Word := BitVec.ofNat 64 (m * 2 ^ 16 + 0xF000)
    (∀ m, m < 4 → bits (w m) 63 32 = 0 ∧ bits (w m) 23 18 = 0 ∧ bits (w m) 17 16 = m ∧ bits (w m) 5 0 < 8 * dist0.rect.w ∧
      bits (w m) 11 6 < 8 * dist0.rect.h) ∧ isStore (dist0.rect.elem 0 0) = false ∧ dist0.gated = false ∧ dist0.caughtUp = true ∧
    (dist0.staging.getD []).length = 0 ∧ (∀ q ∈ [((0 : Nat), (0xC0 : Nat), (9 : W32))], q.2.1 ≤ 0xD0) ∧
    ({ dist0 with staging := some (List.replicate 64 (0, 0xC0, 9)) }.staging.getD []).length = 64 := by decide
theorem wit_CfgConst_refused : bits (2 ^ 32 : Word) 63 32 ≠ 0 ∧ bits (2 ^ 18 : Word) 23 18 ≠ 0 ∧ ¬ bits (8 : Word) 5 0 < 8 * dist0.rect.w ∧
    isStore (dist0.rect.elem 1 0) = true := by decide
def waitingC : State :=
  let s := State.reset.withFetchWord 32 ((encode (.cfgConst 2 3 0)).headD 0)
  thr0 (fun t => { t with wait := .cfgConst }) (withD dist0 (regs [(2, 0xF000), (3, 7)] s))
theorem wit_CfgConstApply : (thr waitingC 0).wait = .cfgConst ∧ runsNow waitingC 0 = true ∧
    (fetchInstr waitingC 0).1.toOption = some (.cfgConst 2 3 0) ∧ myDist (fetchInstr waitingC 0).2 = some (1, dist0) ∧
    rx (fetchInstr waitingC 0).2 2 = 0xF000 ∧ bits (0xF000 : Word) 17 16 = 0 := by decide

theorem wit_SetCpl : (ownerPlace base ⟨0, 0, true⟩ (addr56 0x400) needW).1.toOption = some (.dev 0x400) := by decide
def loading (f : Option (BitVec 10 × Nat × Nat × Nat)) : District := { dist0 with cfg := some ⟨0x400, 0x100, 4, 4, 7, false, f⟩ }
theorem wit_CfgLoadEnd : (loading none).cfg = some ⟨0x400, 0x100, 4, 4, 7, false, none⟩ ∧ (loading none).staging = none ∧
    (loading (some (0x142, 0, 0, 1))).gated = false ∧ coreOfThread (withD (loading (some (0x142, 0, 0, 1))) base) dist0.thread = some 0 := by decide
def inv1 : Inv := ⟨1, 0, false, 0, 0x400, 0, true, false, 0, 0, 0, 0, false, false, [(tidKey 0 3, tensor)]⟩
theorem wit_Completions : let k := { dist0 with miles := [⟨3, 0x400, false, true⟩], tdown := some 0x400, ctxRun := true }
    segHeld k 3 = false ∧ k.needRoll = false ∧ mget? (withD k base).districts 1 = some k ∧
    k.invs = [] ∧ k.ctxRun = true ∧ k.gated = false ∧ k.ctxNext = none ∧ { k with ctxNext := some (3, 4, true) }.ctxNext = some (3, 4, true) ∧
    (∀ j ∈ (withD k base).districts, j.2.faultDue = none) := by decide

/-! ## Witnesses: streams, tensors, engines and the sequencer -/

def tok (kind : Nat) (v : BitVec 512) : Token := ⟨false, kind, 3, 0, 0, v, 1, 1, []⟩
/-- A cell of the district with input link 0 and output link 0 on its ports, of width w. -/
def ported (w : W32) (buf : List Token) : State :=
  { withD dist0 (regs [(1, 2 ^ 14), (2, 0x1000000)] base) with
    elems := [(0, { Elem.reset with fields := [(0x70, w), (0x74, w)], inB := [(0, buf)], outB := [(0, buf)] })] }
def handle (pull vec : Bool) (h : State) : State := thr0 (fun t => { t with q := [(6, ⟨0, 0, pull, vec, false⟩)] }) h
theorem wit_Sbind : (rx (ported 1 []) 1).toNat < 2 ^ 63 ∧ bindHandle (ported 1 []) dist0 6 (rx (ported 1 []) 1) = some ⟨0, 0, true, false, false⟩ ∧
    bindHandle (ported 0 []) dist0 6 (rx (ported 0 []) 1) = none ∧ myDist (ported 1 []) = some (1, dist0) ∧
    (th (ported 1 [])).status.txn = false := by decide
theorem wit_Push_scalar : let s := handle false false (ported 1 [tok 0 5, tok 0 6, tok 0 7])
    mget? (th s).q 6 = some ⟨0, 0, false, false, false⟩ ∧ pushBad ⟨0, 0, false, false, false⟩ (rx s 1) (rx s 0) = false ∧
    pushBad ⟨0, 0, false, false, false⟩ 0 12 = true ∧ dist0.gated = false ∧ (mget (elem s 0).inB 0 []).length = 3 := by decide
theorem wit_Push_full : 4 ≤ (mget (elem (handle false false (ported 1 (List.replicate 4 (tok 0 5)))) 0).inB 0 []).length := by decide
theorem wit_Push_vector : let s := handle false true (ported 5 [])
    bits (rx s 0) 3 0 = 0 ∧ (payloadPlace s 0 needR).1 = .ok (devs 0 64) ∧ placeReadPois (payloadPlace s 0 needR).2 (.dev 0) 64 = false ∧
    migAt s (.dev 0) = none := by decide
theorem wit_Pull : let s := handle true false (ported 1 [tok 4 5])
    mget? (th s).q 6 = some ⟨0, 0, true, false, false⟩ ∧ mget dist0.pullDrop (0 * 4 + 0) 0 = 0 ∧
    (mget (elem s 0).outB 0 []).map Token.kind = [4] ∧ (payloadPlace s 0 needW).1 = .ok (devs 0 64) ∧ mget? (th base).q 6 = none := by decide
def streaming : State :=
  let s := State.reset.withFetchWord 32 ((encode (.push 6 1 2 0)).headD 0)
  { thr0 (fun t => { t with wait := .again true }) s with fc := 0x00100000 }
theorem wit_StreamWaitTimeout : (thr streaming 0).wait = .again true ∧ overrun streaming 0 = true ∧ streamAt streaming 0 = some 6 := by decide

/-- The tensor in memory at 0x200, X[1] its number, X[2] its address. -/
def tensorAt (n : Word) (ws : List Word) : State :=
  regs [(1, n), (2, 0x200)] (placeWrite base (.dev 0x200) (ws.flatMap (fun w => toBytes 8 w.toNat)) false)
set_option maxRecDepth 4000 in
theorem wit_TidWr : let s := tensorAt 4095 tensor
    (payloadPlace s 0x200 needR).1 = .ok (devs 0x200 64) ∧ placeReadPois s (.dev 0x200) 64 = false ∧ migAt s (.dev 0x200) = none ∧
    tidCheck s 0 4095 (words8 (readPlaces s (devs 0x200 64))) = none ∧
    tidCheck s 0 4095 (words8 (readPlaces (tensorAt 4095 [3]) (devs 0x200 64))) = some 0x2C3 := by decide
theorem wit_TidRd : (tidWords (tensorAt 0 tensor) 0 0).length = 8 ∧ (rx (tensorAt 4096 []) 1).toNat = 4096 ∧
    (payloadPlace (tensorAt 0 []) 0x200 needW).1 = .ok (devs 0x200 64) := by decide

/-- X[1] an object, X[2] a near address, X[3] a tile, with the tensor in entry 3. -/
def dmaing (near tile : Word) (board : Nat) : State :=
  let k := { dist0 with board := List.replicate board (9, 0, 0) }
  { withD k (regs [(1, 0x400), (2, near), (3, tile)] base) with tid := [(tidKey 0 3, tensor)], device := 3 }
/-- Entry 3, two rows of 64 columns. -/
def dext : Nat := 3 * 2 ^ 20 + 1 * 2 ^ 10 + 63
theorem wit_DmaTile : let s := dmaing winBase 0 15
    (cplPlace s 0 0x400).1 = .ok (.dev 0x400) ∧ entMissing s (dmaN dext) = false ∧ entMissing base 3 = true ∧
    tileBad (Ent.ofWords tensor) 0 0 2 64 = false ∧ tileBad (Ent.ofWords tensor) 0 1 2 64 = true ∧
    firstByte s winBase = none ∧ firstByte s ((Ent.ofWords tensor).addr 0 0) = none ∧ boardRoom s winBase = true ∧
    boardRoom (dmaing winBase 0 16) winBase = false := by decide
theorem wit_DmaGath : gathBad (Ent.ofWords tensor) 0x100 (3 * 2 ^ 20) = false ∧ firstByte (dmaing 0x2000 0x100 0) 0x2000 = none ∧
    boardRoom (dmaing 0x2000 0x100 16) 0x2000 = true := by decide
theorem wit_Rput : nodeOk (dmaing 0 0 0) 3 = true ∧ nodeOk (dmaing 0 0 0) 4 = false ∧ nodeOk { dmaing 0 0 0 with members := [4] } 4 = true ∧
    nb (4 * 2 ^ 22 + 8) 31 22 = 4 ∧ nb (4 * 2 ^ 22 + 8) 21 0 = 8 := by decide

/-- A binning descriptor of four regions of 1,024 bytes, with its bins at 0x8000, its fill counts at 0x9000 and its copy in
local memory or in the window. -/
def binDescr (spad : Nat) : List Word := [0x10000, 4 * 2 ^ 32 + 10, 0x8000, 8, 0x9000, BitVec.ofNat 64 spad, 0, 0]
def binning (spad : Nat) (addr cnt : Word) : State :=
  withD dist0 (regs [(1, 0x200), (2, addr), (3, cnt)] (placeWrite base (.dev 0x200) ((binDescr spad).flatMap (fun w => toBytes 8 w.toNat)) false))
set_option maxRecDepth 4000 in
theorem wit_BinDesc : (binDesc (binning winBase 0 0) 0x200 0).1.toOption = some (binDescr winBase) := by decide
theorem wit_BinPlay : binBad (binDescr winBase) = false ∧ region (BinSet.ofWords (binDescr winBase)).spad = 1 ∧
    bits ((4 : Word) * 2 ^ 32) 31 0 + bits ((4 : Word) * 2 ^ 32) 63 32 ≤ (BinSet.ofWords (binDescr winBase)).nreg ∧
    firstByte (binning winBase 0 0) winBase = none ∧ boardRoom (binning winBase 0 0) winBase = true := by decide
theorem wit_BinApp : (BinSet.ofWords (binDescr winBase)).tbase ≤ 0x10FFC ∧ (0x10FFC - 0x10000) / 2 ^ 10 < 4 ∧ (0x10FFC : Nat) % 4 = 0 := by decide
theorem wit_Ramo : let s := regs [(1, 0x78)] { base with device := 3, members := [4] }
    nodeOk s s.device = true ∧ nb (3 * 2 ^ 22 + 2 ^ 21) 31 22 = s.device ∧
    PlainAccess s 0x78 8 needRW true (devs 0x78 8) (access s s.cur 0x78 8 needRW true).2 ∧
    placeReadPois s (.dev 0x78) 8 = false ∧ nb (4 * 2 ^ 22) 31 22 ≠ s.device ∧ nodeOk s 4 = true ∧ nodeOk s 5 = false ∧ region 0x78 = 0 :=
  ⟨by decide, by decide, plain_of _ _ _ _ _ _ (by decide), by decide, by decide, by decide, by decide, by decide⟩

/-- An operation of core 0 over `len` bytes. -/
def eng (kind near far ext len : Nat) : Engine := ⟨7, kind, 0, 0, 0, true, 0x400, near, far, ext, len, [], none, 0, false, none⟩
def withE (e : Engine) : State := { base with engines := [e] }
theorem wit_DmaCp_end : let s := withE (eng 0x12 locBase (locBase + 64) 0 64)
    (eng 0x12 locBase (locBase + 64) 0 64).held s = false ∧ region (locBase + 127) = 2 ∧ isPois s.loc (locKey 0 (locOff (locBase + 64)) / 4) = false := by
  decide
theorem wit_Dma_stopped : let e := { eng 0x12 winBase locBase 0 64 with stop := true, rect := some dist0.rect }
    let s := withE e
    let qs := (List.range 64).map (fun i => winPlace dist0.rect (winOff (e.near + i)))
    (ownerPlace s e.owner (addr56 e.cpl) needW).1.toOption = some (.dev 0x400) ∧ migAt s (.dev 0x400) = none ∧ e.behind s = false ∧
    qs.all Option.isSome = true ∧ qs.Nodup ∧ (∀ i, i < 64 → region (e.near + i) = 1 ∧ region (e.far + i) = 2) := by decide +kernel
theorem wit_DmaEnd : (match runDma (eng 0x12 0x1000 0x2000 0 2) 2 (withE (eng 0x12 0x1000 0x2000 0 2)) with
      | .over 2 0 none _ => true | _ => false) = true ∧
    (match runDma (eng 0x12 0x1000 (2 ^ 40) 0 2) 2 (withE (eng 0x12 0x1000 (2 ^ 40) 0 2)) with
      | .over 0 a (some 0x046) _ => a == 2 ^ 40 | _ => false) = true := by decide
def binU : BinApp := ⟨0, 0, true, 0x200, 0x10FFC, 7⟩
def own0 : Owner := ⟨0, 0, true⟩
def isOk {α : Type} (r : Gw α × State) : Bool := match r.1 with | .ok _ => true | _ => false
/-- An update at the engine whose bin holds n records. -/
def appending (n : Nat) : State :=
  { placeWrite (binning winBase 0 0) (.dev (0x9000 + 4 * 3)) (toBytes 4 n) false with bins := [binU] }
/-- The update can be recorded at place i, after what the state s1 shows. -/
def recorded (i : Nat) (s1 : State) : Bool :=
  let b := BinSet.ofWords (binDescr winBase)
  let r := binWrite own0 (b.recAt 3 i) 8 (7 * 2 ^ 32 + 0x3FC) s1
  isOk r && isOk (binWrite own0 (b.fillAt 3) 4 (i + 1) r.2)
theorem wit_BinAppendAtEngine :
    (match engRead own0 none 0x200 64 0 (appending 7) with | (.ok l, _) => words8 (l.map Prod.fst) == binDescr winBase | _ => false) = true ∧
    (match binFill own0 (BinSet.ofWords (binDescr winBase)) 3 (appending 7) with | (.ok f, s1) => f == 7 && recorded 7 s1 | _ => false) = true ∧
    (match binFill own0 (BinSet.ofWords (binDescr winBase)) 3 (appending 8) with
      | (.ok f, s1) => f == 8 && !playing s1 0x200 0 3 && (let r := flushBin own0 (BinSet.ofWords (binDescr winBase)) 3 8 0 s1
        isOk r && recorded 0 r.2)
      | _ => false) = true := by decide +kernel
def replay (done len : Nat) (fill : Option Nat) : Engine := { eng 0x18 0 0x200 0 len with entry := binDescr winBase, done := done, fill := fill }
/-- A replay of one word, with one record, whose copy goes to 0x20000. -/
def replay1 (base_ : Nat) (fill : Option Nat) : Engine :=
  { replay 0 1 fill with entry := [BitVec.ofNat 64 base_, 2 ^ 32 + 2, 0x8000, 8, 0x9000, 0x20000, 0, 0] }
def replayS (e : Engine) : State := { placeWrite base (.dev 0x9000) (toBytes 4 1) false with engines := [e] }
theorem wit_BinRegionReplay : (replay 2 2 none).held (withE (replay 2 2 none)) = false ∧ (replay 2 2 none).len ≤ (replay 2 2 none).done ∧
    (match playIn (replay1 0x10000 none) 0 (replayS (replay1 0x10000 none)) with | .go _ => true | _ => false) = true ∧
    (match playIn (replay1 (2 ^ 40) none) 0 (replayS (replay1 (2 ^ 40) none)) with | .stop 0x046 _ _ => true | _ => false) = true ∧
    (match playOut (replay1 0x10000 (some 1)) 0 1 (replayS (replay1 0x10000 (some 1))) with | .go _ => true | _ => false) = true ∧
    playing (replayS (replay1 0x10000 (some 1))) 0x200 0 0 = true ∧ (replay1 0x10000 none).behind (replayS (replay1 0x10000 none)) = false := by
  decide +kernel
theorem wit_RemoteLinkFail : (eng 0x20 locBase 0x1000 (4 * 2 ^ 22) 8).ext / 2 ^ 22 ≠ (withE (eng 0x20 locBase 0x1000 (4 * 2 ^ 22) 8)).device ∧
    region (locBase + 7) = 2 ∧ (sentAway 4 .none true).engines = [] ∧ (sentAway 4 .none true).reqs = [away 4 true] ∧
    (away 4 true).place = .peer 3 0x40 ∧ lostNode (sentAway 4 .none true) 3 = true ∧ lostNode (withE (eng 0x20 locBase 0x1000 (4 * 2 ^ 22) 8)) 4 = true ∧
    lostNode base 144 = false := by decide

/-- The same tensor in FP16. -/
def tensor16 : List Word := [1 + 4 + 2 ^ 7, 0x10000, 0, 64 + 2 * 2 ^ 32, 1 + 2 ^ 32, 256, 0, 0]
/-- Element 4 is a matrix cell; X[1] an object, X[2] names the cell, X[3] a tile; q instructions wait. -/
def seqs (q : List SeqInstr) (b : Word) : State :=
  { withD { dist0 with seqq := q } (regs [(1, 0x400), (2, 4), (3, b)] base) with tid := [(tidKey 0 3, tensor16)] }
def mtileQ (step row : Nat) : SeqInstr :=
  ⟨0, 4, 4, 0, 3 * 2 ^ 20 + 2 ^ 10, 0x400, tensor16, 0, 0, step, row, [], [], [], [], [], none, 0, 0, 0⟩
theorem wit_Matrix : let k := { dist0 with seqq := List.replicate 7 (mtileQ 0 0) }
    myDist (seqs (List.replicate 7 (mtileQ 0 0)) 0) = some (1, k) ∧ matBits 0 4 (3 * 2 ^ 20 + 2 ^ 10) = false ∧ matBits 0 (2 ^ 63) 0 = true ∧
    matCell (seqs [] 0) k 4 = some 4 ∧ matCell (seqs [] 0) k 0 = none ∧ entMissing (seqs [] 0) 3 = false ∧
    matFmtBad 0 (Ent.ofWords tensor16) (3 * 2 ^ 20 + 2 ^ 10) = false ∧ matShapeBad 0 (Ent.ofWords tensor16) 4 0 (3 * 2 ^ 20 + 2 ^ 10) = false ∧
    k.tdown = none ∧ k.seqq.length < 8 ∧ 8 ≤ (List.replicate 8 (mtileQ 0 0)).length := by decide
/-- An instruction of the sequencer over the tensor in E4M3, at a step and a row. -/
def seqQ (fn ext step row : Nat) (f : Option (BitVec 10)) : SeqInstr :=
  ⟨fn, 4, if fn = 2 then 2 ^ 31 else 0, 0, ext, 0x400, [1 + 3 * 4 + 2 ^ 7, 0x10000, 0, 64 + 2 * 2 ^ 32, 1 + 2 ^ 32, 256, 0, 0], 0, 0, step, row,
    [], [], [], [], [], f, 0, 0, 0⟩
def seqK (q : SeqInstr) : District := { dist0 with seqq := [q] }
/-- The cell holds a B of one column. -/
def seqS (q : SeqInstr) : State := { withD (seqK q) base with elems := [(4, { Elem.reset with mat := { Mat.zero with kk := 1 } })] }
def okIn {α : Type} (r : Gw α × State) (d : Nat) (k : District) : Bool :=
  match r.1 with
  | .ok _ => decide (mget? r.2.districts d = some k)
  | _ => false
theorem wit_Seq_head : seqHead (seqS (seqQ 1 0 0 0 none)) 1 = some (seqK (seqQ 1 0 0 0 none), seqQ 1 0 0 0 none) := by decide
set_option maxRecDepth 4000 in
theorem wit_Seq_B : let q := seqQ 1 0 1 0 none
    q.at 1 1 = true ∧ (seqQ 1 0 0 0 none).at 1 0 = true ∧ q.kind? = some (.al e4m3 8) ∧
    okIn (fetchB (seqK (seqQ 1 0 0 0 none)) (seqQ 1 0 0 0 none) (.al e4m3 8) 16 0 [] [] (0, 0) (seqS (seqQ 1 0 0 0 none))) 1 (seqK (seqQ 1 0 0 0 none)) = true := by
  decide
set_option maxRecDepth 4000 in
theorem wit_Seq_A : let q := seqQ 0 0 0 0 none
    q.at 0 0 = true ∧ (seqQ 0 0 1 0 none).at 0 1 = true ∧ (seqQ 0 0 2 0 none).at 0 2 = true ∧ (seqQ 0 0 3 0 none).at 0 3 = true ∧
    (seqQ 0 0 1 0 none).kind? = some (.al e4m3 10) ∧ tileEffectBad (seqS q) q = false ∧
    tileEffectBad (withD (seqK q) base) q = true ∧ okIn (seqCodes (seqK q) q.ent (mPlanesX q.ext) (q.r + q.row) q.c (elem (seqS q) q.cell).mat.kk (seqS q)) 1 (seqK q) = true ∧
    okIn (seqScales (seqK q) q.ent (q.r + q.row) q.c (elem (seqS q) q.cell).mat.kk (seqS q)) 1 (seqK q) = true := by decide
theorem wit_Seq_early : let q := seqQ 1 0 0 0 none
    let s := seqS q
    q.early (seqK q) s = false ∧ q.early (seqK q) { s with reqs := [{ away 1 false with place := .dev 0x40, moved := true }] } = true ∧
    (seqQ 0 0 0 0 none).early (seqK q) s = false ∧ (seqQ 2 0 0 0 none).early (seqK q) s = false := by decide
theorem wit_Seq_acc : (seqQ 3 0 0 0 none).at 3 0 = true ∧ (seqQ 2 0 0 0 none).at 2 0 = true ∧ bit (seqQ 2 0 0 0 none).xa 31 = true ∧
    { seqQ 2 0 0 0 none with xa := 0 }.at 2 0 = true := by decide
theorem wit_Seq_end : (seqQ 3 0 0 1 none).fault = none ∧ (seqQ 3 0 0 1 none).rows ≤ (seqQ 3 0 0 1 none).row ∧
    (seqQ 3 0 0 1 (some 0x282)).fault = some 0x282 ∧ (seqK (seqQ 3 0 0 1 (some 0x282))).seqq = [seqQ 3 0 0 1 (some 0x282)] := by decide
/-- One column, stored or loaded by `macc.cp`. -/
def oneCol (st : Bool) : SeqInstr :=
  { seqQ 2 0 0 0 none with entry := [1 + 2 ^ 7, 0x10000, 0, 1 + 2 * 2 ^ 32, 1 + 2 ^ 32, 256, 0, 0], xa := if st then 0 else 2 ^ 31 }
set_option maxRecDepth 8000 in
theorem wit_Seq_row : okIn (seqCodes (seqK (oneCol false)) (oneCol false).ent 0 0 0 (oneCol false).cols (seqS (oneCol false))) 1 (seqK (oneCol false)) = true ∧
    (let q := oneCol true
     let r := seqStore (seqK q) (q.ent.addr 0 0) (accBytes q (elem (seqS q) 4).mat) 0 .start (seqS q)
     r.1.held = false ∧ r.1.cause = none ∧ mget? r.2.districts 1 = some (seqK q)) := by decide

/-! ## Witnesses: messages and the group clock -/

theorem wit_Sig : let s := regs [(1, 0x3FFF05), (2, 0x400000)] base
    (rx s 1).toNat < 2 ^ 22 ∧ bits (rx s 1) 15 8 = 0xFF ∧ 2 ^ 22 ≤ (rx s 2).toNat ∧ (th s).status.txn = false := by decide
def msg (arrived room user : Bool) : Msg := ⟨3, 0, 0xFF, 63, 7, 9, user, 0x40, arrived, room, 0, 0⟩
def sent (m : Msg) (h : HandlerEntry) (n : Nat) : State :=
  core0 (fun k => { k with handlers := [(63, h)], unclaimed := List.replicate n m, delivery := List.replicate n m })
    { base with sigs := [m], fc := 256 }
theorem wit_SigMessageArrival : handler (sent (msg false false false) ⟨0x40, true, true, 9⟩ 0) 0 63 = ⟨0x40, true, true, 9⟩ ∧
    (core (sent (msg false false false) ⟨0x40, false, false, 9⟩ 7) 0).unclaimed.length = 7 ∧
    (core (sent (msg false false false) ⟨0x40, false, false, 9⟩ 8) 0).unclaimed.length = 8 ∧ (msg false false true).space ≠ 8 ∧
    (core (sent (msg false false true) ⟨0x40, true, false, 9⟩ 7) 0).delivery.length = 7 := by decide
theorem wit_SigWaits : (msg true false false).at_ + 256 ≤ (sent (msg true false false) .zero 0).fc ∧
    (core (sent (msg true true false) ⟨0x40, true, false, 9⟩ 0) 0).unclaimed = [] ∧ (msg true true false).src ≠ 0 := by decide
/-- Core 0 runs with IE = 1, with something to enter. -/
def entering : State := core0 (fun k => { k with held := false, delivery := [msg false false false], events := [⟨0x303, 0, 0⟩] }) (enabled false true false)
theorem wit_Entries : (core entering 0).delivery = [msg false false false] ∧ (core entering 0).events = [⟨0x303, 0, 0⟩] ∧
    canEnter entering 0 = true ∧ entering.lockq = [] := by decide
theorem wit_Sethnd : let s := regs [(1, 0xFFFF003F), (2, 0xFFFFFFFFFFFFFF), (3, 2 ^ 32)] base
    (th s).status.supv = true ∧ bits (rx s 1) 63 32 = 0 ∧ bits (rx s 1) 15 6 = 0 ∧ bits (rx s 2) 63 56 = 0 ∧ (me s).unclaimed = [] ∧ s.sigs = [] ∧
    bits (rx s 3) 63 32 ≠ 0 := by decide

def member1 : Member := ⟨[(0, 56, 0)], 0, none, 0, 0, [], false, false⟩
/-- This device belongs to group 9 with a notice of 20 µs, at a time in ns. -/
def grouped (ns : Nat) : State := { base with ns := ns, gc := { ClockGroup.reset with group := some 9, notice := 20, members := [(4, member1)] } }
theorem wit_GcJoin : let s := regs [(1, 20 * 65536 + 9), (2, 56), (3, 501 * 65536), (4, 57)] base
    (rx s 1).toNat < 2 ^ 32 ∧ (rx s 2).toNat ≤ 56 ∧ 20 ≤ bits (rx s 1) 31 16 ∧ bits (rx s 1) 31 16 ≤ 500 ∧ s.gc.group = none ∧
    (grouped 0).gc.group = some 9 ∧ 500 < bits (rx s 3) 31 16 ∧ 56 < (rx s 4).toNat ∧ inGroup base = false ∧ inGroup (grouped 0) = true ∧
    (th s).status.supv = true := by decide
theorem wit_GcAnn : let s := regs [(1, 56), (2, 20000)] (grouped 0)
    (rx s 1).toNat ≤ 56 ∧ s.ns + s.gc.notice * 1000 ≤ (rx s 2).toNat ∧ (rx s 0).toNat = 0 ∧ inGroup s = true := by decide
/-- Core 0 waits at `gc.join`. -/
def joining : State := thr0 (fun t => { t with wait := .gcJoin 5 })
  { grouped 100000 with gc := { (grouped 0).gc with joinCore := some 0, joinAt := 0 } }
theorem wit_GcJoin_answer : joining.gc.group = some 9 ∧ joining.gc.joinCore = some 0 ∧ (thr joining 0).wait = .gcJoin 5 ∧
    joining.gc.joinAt + 100000 ≤ joining.ns ∧ joining.gc.early = [] ∧ ([(4, 7, 20000, 0), (5, 1, 0, 30000)] : List StateRow).map Prod.fst = [4, 5] ∧
    [4, 5].Nodup := by decide
theorem wit_GroupClockMessages : let s := grouped 250000
    inGroup s = true ∧ s.gc.group = some 9 ∧ mget? s.gc.members 4 = some member1 ∧ s.gc.joinCore = none ∧ member1.gone = none ∧
    member1.heard + max 5 s.gc.silent.toNat * 10000 ≤ s.ns ∧ memberCount s < 1024 ∧ s.gc.hbAt + 10000 ≤ s.ns ∧ s.gc.leaving = none ∧
    member1.counts (s.ns / 10000 * 10000) = true ∧ member1.early = [] ∧ BitVec.ofNat 32 0 = member1.next ∧ BitVec.ofNat 32 1 = member1.next + 1 ∧
    notBehind (BitVec.ofNat 32 (2 ^ 32 - 1)) member1.next = false ∧ member1.told = false ∧ isFellow s 4 = true ∧ isFellow s 5 = false ∧
    s.ids = [] ∧ { s with ids := [(9, 4)], members := [9] }.ids = [(9, 4)] ∧ isMember { s with members := [9] } 9 = true := by decide
theorem wit_GroupClock_peers : ∀ k, k < 880 → peerValid (grouped 0) (144 + k) = false := by
  have h : (List.range 880).all (fun k => !peerValid (grouped 0) (144 + k)) = true := by decide +kernel
  intro k hk
  simpa using List.all_eq_true.mp h k (List.mem_range.mpr hk)

/-! ## Witnesses: configuration, the fabric and cells -/

/-- A load of two words, of which the first is w and the second is v, at 0x100, with cursor, staging and an element e. -/
def cfgK (cur : Option (Nat × Nat)) (stg : Option (List (Nat × Nat × W32))) : District :=
  { dist0 with cfg := some ⟨0x400, 0x100, 2, 0, 7, false, none⟩, cursor := cur, staging := stg }
def cfgS (k : District) (w v : Nat) : State := placeWrite (withD k base) (.dev 0x100) (toBytes 4 w ++ toBytes 4 v) false
def cfgIs (k : District) (w v i r : Nat) : Bool :=
  match (cfgWord k ⟨0x400, 0x100, 2, 0, 7, false, none⟩ i (startLoad 1 (cfgS k w v))) with
  | (.ok u, s1) => u == r && decide (mget? s1.districts 1 = some k)
  | _ => false
theorem wit_Cfg_words : cfgIs (cfgK (some (0, 0)) none) 0x30000005 0 0 0x30000005 = true ∧
    cfgIs (cfgK none none) 0xB0C22800 7 1 7 = true ∧ cfgIs (cfgK none (some [(0, 0xC0, 9)])) 0xC80000FF 0 0 0xC80000FF = true := by decide
theorem wit_Cfg_plain : let s := cfgS (cfgK (some (0, 0)) none) 0x30000005 0
    cmdKind 0x30000005 = 0 ∧ nb 0x30000005 29 22 = 0xC0 ∧ writeCheck s (cfgK (some (0, 0)) none) false 0 0xC0 5 = none ∧
    isSwitchField 0 0xC0 = false ∧ isConstField 0xC0 = true ∧ (0xC0 : Nat) < 0xD1 ∧
    writeCheck s (cfgK (some (0, 0)) none) false 0 0x70 1 = none ∧ writeBusy s (cfgK (some (0, 0)) none) 0 0x70 = false := by decide
theorem wit_Cfg_place : (cfgElem (cfgK (some (7, 7)) none) 7 7).toOption = some 1799 ∧ (cfgElem dist0 0 0).toOption = some 0 := by decide
theorem wit_Cfg_cursor : let w := 0x40000000 + 7 * 65536 + 7 * 1024 + 256
    cmdKind w = 1 ∧ nb w 29 22 = 0 ∧ nb w 7 0 = 0 ∧ nb w 9 8 = 1 ∧ nb w 15 10 < 8 * dist0.rect.w ∧ nb w 21 16 < 8 * dist0.rect.h := by decide
theorem wit_Cfg_wide : cmdKind 0xB0800000 = 2 ∧ nb 0xB0800000 9 0 = 0 ∧ nb 0xB0800000 29 22 = 0xC2 ∧
    (cfgElem dist0 (nb 0xB0800000 15 10) (nb 0xB0800000 21 16)).toOption = some 0 := by decide
theorem wit_Cfg_control : nb 0xC0000000 29 26 = 0 ∧ nb 0xC4000000 29 26 = 1 ∧ nb 0xCC000000 29 26 = 3 ∧ nb 0xD0000000 29 26 = 4 ∧
    nb 0xD4000000 29 26 = 5 ∧ nb 0xD4000000 25 0 = 0 ∧ nb 0xC80000FF 25 0 = 255 ∧ nb 0xC80000FF 29 26 = 2 ∧ 0xC80000FF / 2 ^ 30 = 3 ∧
    (elem (cfgS dist0 0 0) 0).running dist0 = false := by decide
/-- Element 0 has a pending command, and the switch of its block a pending setting. -/
def pended (p : Pend) (src : Option Nat) : State :=
  { withD dist0 base with elems := [(0, { Elem.reset with pend := [p] })], switches := [(0, { Switch.zero with pend := [(3088, src, 1)] })] }
theorem wit_Pending : distOf (pended .clear none) 0 = some (1, dist0) ∧
    readyPend (updSwitch (pended .clear none) 0 (fun w => { w with pend := [(clearAll, none, 1)] })) dist0 0 (elem (pended .clear none) 0) = some 0 ∧
    readyPend (pended (.write 0xD0 5) none) dist0 0 (elem (pended (.write 0xD0 5) none) 0) = some 0 ∧ (elem (pended .clear none) 0).running dist0 = false ∧
    (switch (pended .clear none) 0).pend = [(3088, none, 1)] ∧ pendReady (pended .clear none) 0 (3088, none, 1) = true ∧
    pendTurn (switch (pended .clear none) 0).pend (3088, none, 1) = true := by decide
theorem wit_PendingSwitch : let s := pended .clear (some 3072)
    pendReady s 0 (3088, some 3072, 1) = true ∧ districtAt s 0 = some 1 ∧
    mget? s.districts 1 = some dist0 ∧ edgeOk (updSwitch s 0 (fun w => { w with pend := [] })) dist0 0 3088 true = true ∧
    edgeOk (updSwitch s 0 (fun w => { w with pend := [] })) dist0 0 3072 false = true := by decide

/-- Element 0 sends on link 0 to link 0 of element 2. -/
def hopping (b l : List Token) (h : List Token) : State :=
  { base with elems := [(0, { Elem.reset with outB := [(0, b)], outL := [(0, l)] })],
              switches := [(0, { Switch.zero with drive := [(3088, [3072])], hop := [(3088, h)] })] }
theorem wit_TokenHop : let s := hopping [tok 8 0] [tok 0 5] [tok 0 6]
    elemLink 0 0 = 3072 ∧ elemLink 2 0 = 3088 ∧ blockGated s 0 = false ∧ (mget (elem s 0).outL 0 []).length < 2 ∧
    (switch s (elemBlock 0)).dests 3072 = [3088] ∧ (switch s 0).sources 3088 = [3072] ∧ idClass 3088 = 3 ∧ idLink 3088 = 0 ∧
    idElem 0 3088 = 2 ∧ ((switch s 0).held 3088).length < hopRoom 0 (switch s 0) 3088 ∧ (mget (elem s 2).inB 0 []).length < 4 ∧
    ((switch s 0).held 3088).map Token.kind = [0] ∧ routeBad (elem s 2) 0 (tok 0 6) = false := by decide

theorem wit_TokenHop_from : idClass (elemLink 0 0) = 3 ∧ idElem (elemBlock 0) (elemLink 0 0) = 0 ∧ idLink (elemLink 0 0) = 0 := by decide

def live (k : District) (x : Elem) (e : Nat) : State :=
  { withD { k with invs := [inv1] } base with elems := [(e, { x with joined := some 1 })] }
def liveK : District := { dist0 with invs := [inv1], ctxRun := true }
/-- A milestone of element 3 that counts a token which has not arrived at element 2. -/
theorem wit_TokenHop_route : let x := { tok 9 5 with route := [(3, [1])] }
    let s := { live liveK Elem.reset 3 with switches := [(0, { Switch.zero with drive := [(3088, [3072])], hop := [(3088, [x])] })] }
    routeBad (elem s 2) 0 x = true ∧ x.route = [(3, [1])] ∧ (distOf s 3).isSome = true ∧ (elem s 3).joined = some 1 ∧ (3 : Nat) ≠ idElem 0 3088 ∧
    (switch s 0).held 3088 = [x] := by decide +kernel
/-- A cell that moves its token on port 0 to port 1. -/
def cellX (ctl : W32) (l : List Token) : Elem :=
  { Elem.reset with fields := [(0, 0x02220000), (0x48, ctl), (0x60, 0x1200), (0x70, 1), (0x75, 1)], inB := [(0, l)], actCtx := [0], armed := some 0 }
theorem wit_Cell : let s := live liveK (cellX 3 [tok 0 5]) 0
    cellReady s 0 = some (1, liveK, inv1, 0) ∧ (elem s 0).inSet 0 = [0] ∧ (elem s 0).outSet 0 = [1] ∧
    (match headsOf (elem s 0) [0] with | .data => true | _ => false) = true ∧
    roomFor (elem s 0) [1] ((elem s 0).ctoSet 0) = true ∧ burstBad (elem s 0) [0] = none ∧ (elem s 0).parity = [] := by
  decide
theorem wit_Cell_parity : cellParity 1 0 0 (live liveK (cellX 3 [tok 0 5]) 0) = some (live liveK (cellX 3 [tok 0 5]) 0) := by rfl
theorem wit_Cell_fires : let x := elem (live liveK (cellX 3 [tok 0 5]) 0) 0
    (fireStages x 0 0 0).2.stop = none ∧ (fireStages x 0 0 0).2.brk = [] := by decide
theorem wit_Cell_structural : (match headsOf (elem (live liveK (cellX 3 [tok 4 0]) 0) 0) [0] with | .stop 3 => true | _ => false) = true ∧
    (match headsOf (elem (live liveK (cellX 3 [tok 8 0]) 0) 0) [0] with | .done => true | _ => false) = true ∧
    burstBad (elem (live liveK (cellX 3 [tok 8 0]) 0) 0) [0] = none ∧
    (doneOuts (elem (live liveK (cellX 3 [tok 8 0]) 0) 0) 0).all (elem (live liveK (cellX 3 [tok 8 0]) 0) 0).room = true := by decide
theorem wit_Branch : let s := live liveK { cellX 3 [tok 8 0] with branch := some 0, ctB := [(0, [(true, 1)])] } 0
    active s 0 = some (1, liveK, inv1) ∧ (elem s 0).branch = some 0 ∧ mget (elem s 0).ctB ((elem s 0).ctin 0) [] = [(true, 1)] ∧
    mget (elem s 0).counts (ctDropKey 0) 0 = 0 ∧
    ports.filter (fun p => ((elem s 0).inSet ((elem s 0).next0 0)).contains p || ((elem s 0).inSet ((elem s 0).next1 0)).contains p) = [0] ∧
    ((elem s 0).head 0).map Token.kind = some 8 := by decide

/-! ## Witnesses: stream units, matrix cells and memory nodes -/

def unit (mode : W32) (a b : List Token) (u : StreamUnit) : Elem :=
  { Elem.reset with fields := [(0, mode), (0x70, 1), (0x71, 1), (0x74, 1)], inB := [(0, a), (1, b)], unit := u }
/-- An element may step in the invocation of its district. -/
def readyAt (v : Inv) (kd : Kind) (s : State) (e : Nat) : Bool :=
  let k := { dist0 with invs := [v], ctxRun := true }
  elemKind e == kd && decide (active s e = some (1, k, v)) && !mileDue s k v e && (markHead (elem s e) (unitPorts kd (elem s e)).1).isNone
def unitReady (kd : Kind) (x : Elem) (e : Nat) : Bool := readyAt inv1 kd (live liveK x e) e
theorem wit_Scanner : unitReady .scanner (unit 0x00300000 [tok 0 5] [] .zero) 6 = true ∧
    (scanLevelOf inv1 0 (unit 0x00300000 [tok 0 5] [] .zero)).n = 64 ∧
    (scanLevelOf inv1 0 (unit 0x00300000 [tok 0 5] [] .zero)).lvf = 0 ∧
    (unit 0x00300000 [] [] .zero).mbit 15 = false ∧ (unit 0x00300000 [] [] .zero).mbit 14 = false := by decide
theorem wit_Merge : unitReady .merge (unit 0 [tok 0 5] [tok 0 5] .zero) 1540 = true ∧ unitReady .merge (unit 0x40000000 [tok 0 5] [tok 0 9] .zero) 1540 = true ∧
    (unit 0 [] [] .zero).mbits 31 30 = 0 ∧ (unit 0x40000000 [] [] .zero).mbits 31 30 = 1 ∧ (tok 0 5).val.toNat < (tok 0 9).val.toNat ∧
    (tok 0 5).pois = false ∧ (unit 0 [] [] .zero).mbit 29 = false := by decide +kernel
theorem wit_Repeater : unitReady .repeater (unit 0 [tok 0 5] [tok 0 6] .zero) 1799 = true ∧
    unitReady .repeater (unit 0x80000000 [tok 0 5] [tok 0 6] .zero) 1799 = true ∧
    unitReady .repeater (unit 0x80000000 [] [tok 0 6] { StreamUnit.zero with loaded := true, buf := [(⟨4, false⟩, .zero), (⟨5, false⟩, .zero)] }) 1799 = true ∧
    (unit 0x80000000 [] [] .zero).mbit 31 = true ∧ (unit 0x80000000 [] [] .zero).mbit 27 = false := by decide
theorem wit_Reducer : unitReady .reducer (unit 0 [tok 0 5] [] .zero) 1030 = true ∧
    unitReady .reducer (unit 0xC0000000 [tok 7 0] [] { StreamUnit.zero with acc := some ⟨3, false⟩ }) 1030 = true ∧
    (unit 0xC0000000 [] [] .zero).mbits 31 29 + 1 = 7 ∧ (unit 0xC0000000 [] [] .zero).mbit 23 = false := by decide
/-- An invocation issued when level 0 of entry 3 had its positions at 0x30000 and its coordinates, or bits, at 0x20000. -/
def invL : Inv := { inv1 with tid := [(tidKey 0 3, tensor), (tidKey 0 4, [0x30002, 0x20000, 0, 0, 0, 0, 0, 0])] }
def liveL (x : Elem) (e : Nat) : State :=
  { withD { dist0 with invs := [invL], ctxRun := true } base with elems := [(e, { x with joined := some 1 })] }
/-- A level writer of the compressed level. -/
def writeS : State := liveL (unit 0x00310000 [tok 0 5] [] { StreamUnit.zero with loaded := true }) 1542
def writeG : LwCfg := lwCfg invL 0 (elem writeS 1542)
theorem wit_LevelWriter : readyAt invL .writer writeS 1542 = true ∧ writeG.vals = false ∧ writeG.L.lvf = 1 ∧
    writeG.cap = 0 ∧ 5 < writeG.L.n ∧ (elem writeS 1542).unit.loaded = true := by decide
theorem wit_LevelWriter_stores : isOk (gwStores 1 invL 0 [(wordVa writeG.L.crd 0, toBytes 4 5, false)] writeS) = true := by decide
theorem wit_FibreBuffer : let x := unit 0x00300000 [] [] { StreamUnit.zero with lines := [(fbKey false 7, ([], false))], skips := [(9, 0, 1)], fib := some (0, 1, 64) }
    let y := unit 0x00300000 [] [] { StreamUnit.zero with lines := [(fbKey true 7, ([], false))] }
    active (live liveK x 6) 6 = some (1, liveK, inv1) ∧ (9 : Nat) < 64 ∧ x.unit.skips = [(9, x.unit.seqOut, inv1.id)] ∧
    (x.unit.window false).getLast? = some 7 ∧ x.unit.window true = [] ∧ x.unit.wants false = true ∧
    (y.unit.window true).getLast? = some 7 ∧ y.unit.window false = [] ∧ y.unit.wants true = true := by decide
set_option maxRecDepth 4000 in
theorem wit_FibreBuffer_load : (match gwLoad liveK (8 * 64 % 2 ^ 56) 64 (live liveK (unit 0x00300000 [] [] .zero) 6) with
    | (.ok _, s1) => decide ((elem s1 6).joined = some 1) | _ => false) = true := by decide

/-- A matrix cell in stream mode with a loaded column of one element in FP16. -/
def matX (l : List Token) (m : Mat) : Elem :=
  { Elem.reset with fields := [(0, 5), (0x70, 0x1D)], inB := [(0, l)], mat := { m with kk := 1, sgroup := 32 } }
theorem wit_MatrixBurst : let x := matX [tok 10 0] Mat.zero
    matActive (live liveK x 4) 4 = some (1, liveK, inv1) ∧ rowFull x = false ∧ x.mat.inBurst = false ∧
    ((elem (live liveK x 4) 4).head 0).map Token.kind = some 10 ∧ tokensSince [tok 10 0, tok 0 0] = 1 ∧
    burstTokens (matX [tok 11 1] { Mat.zero with buf := [tok 10 0, tok 0 0], inBurst := true }) 0 = 1 ∧ (tok 11 1).val.toNat = 1 := by decide +kernel
theorem wit_MatrixRow : let x := matX [tok 8 0] { Mat.zero with bursts := 1, buf := [tok 10 0, tok 0 0, tok 11 1] }
    rowFull x = true ∧ x.mat.out = [] ∧ x.mEmit = false ∧ matKind false x.mAfmt x.mPlanes = some (.al fp16 12) ∧
    rowFull (matX [tok 8 0] Mat.zero) = false := by decide

/-- A word node on port 0 of element 0, reading the scratchpad, with a request or a token to take. -/
def nodeX (l : List Token) (r : List NodeReq) : Elem :=
  { Elem.reset with fields := [(0x70, 1), (0x74, 1), (0xCC, 1), (0xCE, 3)], outB := [(0, l)], nodes := [(0, ⟨none, r, 0⟩)], nodeSet := [0] }
def nodeS (l : List Token) (r : List NodeReq) (v : Inv) (fc : Nat) : State :=
  { withD { liveK with invs := [v] } base with elems := [(0, { nodeX l r with joined := some 1 })], fc := fc, tid := [(tidKey 0 3, tensor)] }
def spadTok : Token := { tok 0 0x8000 with ch := 2 }
def nreq (acc : Nat) (held : Bool) : NodeReq := ⟨acc, tok 0 1, some (tok 0 7), [none], [], false, held, 0⟩
theorem wit_NodeRequest : nodeLive (nodeS [spadTok] [] inv1 0) 0 0 = some (1, liveK, inv1) ∧ spadTok.ch = 2 ∧ spadTok.inv = inv1.id ∧ spadTok.vec = false ∧
    spadTok.pois = false ∧ linkVec ((elem (nodeS [spadTok] [] inv1 0) 0).outWord 0) = false ∧ liveK.boardBusy 0x8000 4 = false ∧
    (spadCheck liveK spadTok.val.toNat).toOption.isSome = true := by decide +kernel
theorem wit_NodeReturn : (mget (elem (nodeS [] [{ nreq 2 false with res := [some .zero] }] inv1 0) 0).inB 0 []).length < 4 ∧
    { nreq 2 false with res := [some .zero] }.ready = true := by decide
theorem wit_RowBurst : let s := nodeS [] [nreq 8 false] inv1 0
    (match burstReq inv1 liveK (elem s 0) (tok 0 1) with
      | .ok b => b.r == 1 && b.c == 0 && b.n == 1 && (match allBursts liveK b 8 (b.n + 1) b.c s with | (.ok _, s1) => decide ((elem s1 0).joined = some 1) | _ => false)
      | _ => false) = true := by decide +kernel
theorem wit_NodeTimeout : let v := { inv1 with bound := 100 }
    v.bound ≠ 0 ∧ (nreq 4 false).from_ + v.bound.toNat ≤ 100 ∧ none ∈ (nreq 6 false).res ∧
    nodeLive (nodeS [] [nreq 4 false] v 100) 0 0 = some (1, { liveK with invs := [v] }, v) := by decide
set_option maxRecDepth 4000 in
theorem wit_HeldStore : let s := nodeS [] [nreq 3 true] inv1 0
    (match nodeEntry inv1 liveK (elem s 0) with
      | .ok e => (match lanePlaces (fun L => indexAddr e (reqVal (nreq 3 true).tok L).v.toNat) (reqLanes (nreq 3 true).tok) with
        | .ok as => (match (gwStores 1 inv1 0 (devStores e (tok 0 7) as) s).1 with | .ok _ => true | _ => false)
        | _ => false)
      | _ => false) = true := by decide +kernel

/-! ## Witnesses: invocations -/

def inv0 : Inv := { inv1 with started := false }
theorem wit_InvokeStart : let k := { liveK with invs := [inv0] }
    let s := { withD k base with elems := [(0, cellX 1 [])] }
    partElems s k = [0] ∧ startCheck s k inv0 0 = none ∧ k.behind s = false ∧ k.behind { s with reqs := [{ away 1 false with place := .dev 0x40, moved := true }] } = true ∧ (elem s 0).pend.isEmpty = true ∧ (cellX 1 []).initBit 0 = false ∧
    startCheck { s with elems := [(0, cellX 3 [])] } k inv0 0 = some (0x190, 0) := by decide
theorem wit_ElementJoin : let v := { inv1 with atOnce := false }
    let k := { liveK with invs := [v] }
    let s := { withD k base with elems := [(0, cellX 1 [])] }
    distOf s 0 = some (1, k) ∧ nextInvOf s k 0 = some v ∧ takesPart s 0 = true ∧ startCheck s k v 0 = none ∧ (elem s 0).pend.length = 0 := by decide
theorem wit_MilestoneTake : let s := live liveK (cellX 3 [tok 9 5]) 0
    active s 0 = some (1, liveK, inv1) ∧ mget? s.elems 0 ≠ none ∧ holdsOutput .vector (elem s 0) = false ∧
    nodeOutputs (elem s 0) 5 = [] ∧ (elem s 0).nodeSet.all (nodeDone (elem s 0) 5) = true ∧ mileInBurst s 0 = none ∧ routeOutputs (elem s 0) = [1] ∧
    (routeOutputs (elem s 0)).all (elem s 0).room = true ∧ conserved .vector (elem s 0) = true ∧ (elem s 0).nodeSet.Nodup ∧
    takeable s liveK inv1 0 = some 5 := by decide +kernel
/-- Port 1 of the cell is a memory node, to which the wave has not gone, or has gone, or from which it has come back. -/
def mileNode (out : List Nat) (b : List Token) : State :=
  live liveK { cellX 3 [tok 9 5] with fields := (cellX 3 []).fields ++ [(0x71, 1)], inB := [(0, [tok 9 5]), (1, b)], nodeSet := [1], mileOut := out } 0
theorem wit_MilestoneTake_nodes : (let s := mileNode [] []
      takeable s liveK inv1 0 = some 5 ∧ mileInBurst s 0 = none ∧ holdsOutput .vector (elem s 0) = false ∧ nodeOutputs (elem s 0) 5 = [1] ∧
      (elem s 0).nodeSet.Nodup) ∧
    (let s := mileNode [1] []
     takeable s liveK inv1 0 = some 5 ∧ nodeOutputs (elem s 0) 5 = [] ∧ (elem s 0).nodeSet.all (nodeDone (elem s 0) 5) = false) ∧
    (let s := mileNode [1] [tok 9 5]
     takeable s liveK inv1 0 = some 5 ∧ nodeOutputs (elem s 0) 5 = [] ∧ (elem s 0).nodeSet.all (nodeDone (elem s 0) 5) = true ∧
     atMile (elem s 0) 1 = true) ∧
    (let s := live liveK { cellX 3 [tok 9 5] with unit := { StreamUnit.zero with pendStop := some 2 } } 0
     holdsOutput .vector (elem s 0) = true ∧ takeable s liveK inv1 0 = some 5) ∧
    (let s := live liveK { cellX 3 [tok 9 5] with outB := [(1, List.replicate 4 (tok 0 1))] } 0
     takeable s liveK inv1 0 = some 5 ∧ (routeOutputs (elem s 0)).all (elem s 0).room = false) ∧
    conserved .scanner { unit 0 [] [] .zero with counts := [(countKey true 0 2, 1)] } = false := by decide +kernel
theorem wit_InvocationEnd : let s := live liveK { Elem.reset with fin := true } 0
    liveK.invs = [inv1] ∧ allFinished s liveK inv1 = true ∧ doneUnderway s liveK 1 = false ∧ heldFrozen s liveK.hold = none ∧
    completeWave liveK = none ∧ residueAt s liveK 1 = none ∧
    residueAt (live liveK { Elem.reset with fin := true, inB := [(0, [tok 0 5])] } 0) liveK 1 = some 0 := by decide
theorem wit_Gangfault : let k := { liveK with faultMark := [0], stall := 100, invs := [{ inv1 with bound := 100 }] }
    let s := { withD k base with elems := [(0, { Elem.reset with joined := some 1 })] }
    (elem s 0).joined = some 1 ∧ (k.inv? 1).isSome = true ∧ k.running = some { inv1 with bound := 100 } ∧ (100 : BitVec 32).toNat ≤ k.stall ∧
    coreOfThread s k.thread = some 0 ∧ k.gang = 0 ∧ k.miles = [] := by decide
theorem wit_Rollback : let k := { liveK with needRoll := true, canRoll := true }
    let s := core0 (fun c => { c with held := false }) (withD k base)
    k.gang = 0 ∧ completeWave k = none ∧ rollable { k with canRoll := false } = false ∧
    ({ k with snaps := [(3, [(0, Elem.reset)])] }.snaps.head?.map Prod.fst) = some 3 ∧
    rollable k = true ∧ (core s k.core).dbrk = false ∧ (core s k.core).dhalt = false ∧ (core s k.core).cstat ≠ 4 := by decide

/-! ## Witnesses: the hub -/

def qrec (r : Rec) : QRec := ⟨r, 0, none, none⟩
/-- Queue 5 in a state, with lane 0. -/
def hubQ (st : Nat) (l : List QRec) : State := { base with queues := [(5, { Queue.reset with state := st, lanes := [(0, l)] })] }
theorem wit_LaunchWindow : Rec.ofBytes ((recBytes (rec5 0 0)).map (fun b => BitVec.ofNat 8 b.toNat)) = rec5 0 0 ∧ (recBytes (rec5 0 0)).length = 32 ∧
    ownerOk (hubQ 1 []) 2 = true ∧ ownerOk (hubQ 1 []) 0 = false ∧ (rec5 0 0).bad (queue (hubQ 1 []) 5).asid false = false ∧
    (queue (hubQ 1 []) 5).accepts = true ∧ copyWaits (hubQ 1 []) 5 (rec5 0 0) = false ∧ (rec5 0 0).gang = 0 ∧ ([] : List Nat).length ≠ 32 := by decide
theorem wit_QueueControl : nb (2 ^ 55 + 11) 3 0 ≤ 11 ∧ (queue (hubQ 4 []) 5).state = 4 ∧ (queue (hubQ 2 []) 5).state = 2 ∧ coresOf (hubQ 3 []) 5 = [] ∧
    (hubQ 3 []).saved.any (fun x => x.t.task.any (fun k => k.q == 5)) = false ∧ queueEmpty (hubQ 3 []) 5 = true ∧
    queueEmpty (hubQ 5 []) 5 = true := by decide
theorem wit_Teardown : let x := qrec (rec5 0 0x200)
    (queue (hubQ 1 [x]) 5).lane 0 = [x] ∧ x.saved = none ∧ x.r.join ≠ 0 := by decide
theorem wit_RecCopyEnter : let s := { hubQ 1 [] with recWait := [qrec (rec5 0 0)] }
    s.recWait[0]? = some (qrec (rec5 0 0)) ∧ copyWaits { s with recWait := s.recWait.take 0 } 5 (rec5 0 0) = false ∧
    (rec5 0 0).bad (queue s 5).asid true = false := by decide

/-- Core 1 stands ready, or runs a task of queue 5. -/
def worker (cs : Nat) (r : Option Rec) (s : State) : State :=
  updCore s 1 (fun k => { k with held := false, cstat := cs, save := 1, t := { k.t with task := r.map (fun r => ⟨5, qrec r, 1, none⟩) } })
def cand5 (x : QRec) : Cand := ⟨5, false, 0, 0, 0, [x]⟩
theorem wit_HubDispatch : (match selectNext (worker 0 none (hubQ 1 [qrec (rec5 0 0)])) with
    | .place c l => c == cand5 (qrec (rec5 0 0)) && l == [(1, none)] | _ => false) = true := by decide
def savedX : QRec := { qrec (rec5 0 0) with saved := some 9 }
def saved9 : SavedTask :=
  ⟨9, 9, 1, { Thread.reset 7 with task := some ⟨5, qrec (rec5 0 0), 1, none⟩ }, none, [], [], ⟨[], [], []⟩, [], [], 0, false, false, false, []⟩
def savedS : State := { worker 0 none (hubQ 1 [savedX]) with saved := [saved9] }
theorem wit_TaskRestore : (match selectNext savedS with
    | .restore c => c == cand5 savedX | _ => false) = true ∧ savedS.saved[0]? = some saved9 ∧ savedOf savedS savedX = some saved9 ∧ saved9.dist = none := by decide
/-- A record of priority 3 waits while core 1 runs a task of priority 0 and every other core is held. -/
def waitR : Rec := { rec5 0 0 with d3 := BitVec.ofNat 64 (3 * 2 ^ 24 + 5 * 2 ^ 16) }
def preS : State :=
  let s := worker 1 (some (rec5 0 0)) { base with queues := [(5, { Queue.reset with state := 1, lanes := [(3, [qrec waitR])] })] }
  { s with hub := [(0x1F000, 2 ^ 16)], ns := 1000, rankFirst := some (5 * 8 + 3 * 2, 0, 0) }
theorem wit_PwaitPreemption : (match firstWaiting preS with
      | some c => c.key == (5 * 8 + 3 * 2, 0) && dispatchable preS c == false && victim preS c.e == some 1
      | none => false) = true ∧ pwait preS = 1 ∧ preS.pwaitBusy = none ∧ 0 + pwait preS * 1000 ≤ preS.ns ∧ canSave preS 1 = true ∧
    ((thr preS 1).task.map (fun u => u.rec_.r.gang)) = some 0 := by decide

/-- A decrement of the counter at 0x200, whose COUNT is n. -/
def counting (n : Nat) (cancel : Bool) : State :=
  { placeWrite base (.dev 0x200) (toBytes 8 n) false with decrs := [⟨0x200, 0, true, cancel, 5, none⟩] }
theorem wit_JoinDecrement : (hubXlate { counting 2 false with decrs := [] } 0 true 0x200 needRW false).1.toOption = some (.dev 0x200) ∧
    leNat ((placeRead (counting 2 false) (.dev 0x200) 16).take 8) = 2 ∧ placeReadPois (counting 2 false) (.dev 0x200) 16 = false ∧
    leNat ((placeRead (counting 1 false) (.dev 0x200) 16).take 8) = 1 ∧ leNat ((placeRead (counting 1 false) (.dev 0x200) 16).drop 8) = 0 ∧
    (0 : Nat) % 2 ^ 32 = 0 ∧ migAt (counting 2 false) (.dev 0x200) = none := by decide

/-- A graph at 0x2000 of one node, with the pages below 2^39 open to user mode. -/
def userRange : List Word := [BitVec.ofNat 64 (2 ^ 5 + 2 ^ 4 + 2 ^ 3 + 2 ^ 2 + 1), BitVec.ofNat 64 (2 ^ 39), 0, BitVec.ofNat 64 (255 * 2 ^ 56)]
def graphRec : Rec := { rec5 0 0 with d1 := 0, d3 := BitVec.ofNat 64 (2 ^ 22 + 5 * 2 ^ 16) }
def nodeW (kind count word desc start : Nat) : List Word :=
  [BitVec.ofNat 64 (0xFFFF * 2 ^ 48 + 0xFFFF * 2 ^ 32 + count * 2 ^ 16 + kind), BitVec.ofNat 64 word, 0x600, 0, BitVec.ofNat 64 desc, BitVec.ofNat 64 start, 0, 0]
def gwalk : Walk := ⟨4, graphRec, 5, 0x2000, 1, [⟨6, 0, 0, 0, 0xFFFF, 0xFFFF⟩], [], [], false, false⟩
def graphS (ws : List Word) : State :=
  let s := placeWrite { hubQ 1 [qrec graphRec] with pins := [], quarters := [(0, { Quarter.reset with rtab := [(0, userRange)] })], nextId := 8 } (.dev 0x2000) (toBytes 8 1) false
  let s := placeWrite s (.dev 0) (toBytes 8 (255 * 2 ^ 56 + 1)) false
  { placeWrite s (.dev 0x2040) (ws.flatMap (fun w => toBytes 8 w.toNat)) false with walks := [gwalk] }
theorem wit_GraphWalkStart : let s := { graphS [] with walks := [] }
    let w : Walk := ⟨8, graphRec, 5, 0x2000, 0, [], [], [], false, false⟩
    ((ranked s).find? (fun c => c.isGraph)).map Cand.members = some [qrec graphRec] ∧ graphRec.code = 0x2000 ∧ graphRec.code % 64 = 0 ∧
    (match walkRead w 0x2000 64 s with
      | (.ok bs, s1) => s1.nextId == 8 && leNat (bs.take 8) == 0 * 2 ^ 16 + 1 && leNat (bs.drop 8) == 0
      | _ => false) = true := by decide
theorem wit_Graph_path : (readyPath (graphS []) 0).map (fun p => (p.1, p.2.id, p.2.node)) = some (gwalk, 6, 0) := by decide
def nodeIs (ws : List Word) (kind count : Nat) : Bool :=
  match walkRead gwalk 0x2040 64 (graphS ws) with
  | (.ok bs, _) => (match readNode 1 bs with
    | some g => g.kind == kind && g.count == count
    | none => false)
  | _ => false
set_option maxRecDepth 4000 in
theorem wit_Graph_nodes : nodeIs (nodeW 1 0 0x500 0 0) 1 0 = true ∧ nodeIs (nodeW 2 0 0x500 0 0) 2 0 = true ∧ nodeIs (nodeW 3 65535 0x500 0 0) 3 65535 = true ∧
    nodeIs (nodeW 4 0 0x500 0x200 7) 4 0 = true ∧ nodeIs (nodeW 5 1 0 0 0) 5 1 = true ∧ nodeIs (nodeW 5 0 0 0 0) 5 0 = false := by decide
set_option maxRecDepth 4000 in
theorem wit_Graph_condition : (match walkRead gwalk 0x500 4 (graphS []) with | (.ok cs, _) => leNat cs == 0 | _ => false) = true ∧
    (match loopDesc gwalk ⟨0xFFFF, 0xFFFF, 0, 4, 0x500, 0, 0, 0x200, 7⟩ (placeWrite (graphS []) (.dev 0x20C) (toBytes 4 252) false) with
      | (.ok (.dev 0x200, n), _) => n == 252 | _ => false) = true ∧
    mget gwalk.joins 0 0 + 1 = 1 ∧ mget gwalk.passes 0 0 + 1 ≤ 65535 := by decide
theorem wit_Graph_task : (match enter 5 ⟨nodeRec gwalk ⟨0xFFFF, 0xFFFF, 0, 1, 0x500, 0x600, 0, 0, 0⟩ 0, 0, some (4, 6), none⟩ (graphS []) with
    | .queued _ => true | _ => false) = true := by decide

theorem wit_CoreControl : let s := worker 1 (some (rec5 0 0)) base
    ownerOk s 2 = true ∧ (thr s 1).task.map (fun u => u.rec_.r.gang) = some 0 ∧ canSave s 1 = true ∧ (core s 1).cstat = 1 ∧ (core s 1).regpar = false ∧
    (core (worker 4 none base) 1).cstat = 4 ∧ (core (core0 (fun k => { k with dhalt := true }) base) 0).dhalt = true ∧
    sdataOk (worker 2 none base) 1 = true := by decide
theorem wit_Halt : (thr (withD dist0 base) 0).district = some 1 ∧ mget? (withD dist0 base).districts 1 = some dist0 ∧
    (core (core0 (fun k => { k with cstat := 1 }) (withD dist0 base)) 0).cstat = 1 := by decide
theorem wit_PreemptSave : let s := worker 4 (some (rec5 0 0)) base
    saveReady s 1 = true ∧ (core s 1).restartPend = false ∧ (thr s 1).task.isSome = true := by decide

/-- Space 0 has a page table with a migratable leaf for page 0 at 0x6000. -/
def leafS : State :=
  let next (a : Nat) : List Byte := toBytes 8 (255 * 2 ^ 56 + a + 1)
  let s0 := placeWrite base (.dev 0) (toBytes 8 (255 * 2 ^ 56 + 0x2000 + 1)) false
  let s1 := placeWrite s0 (.dev 0x2000) (next 0x3000) false
  let s2 := placeWrite s1 (.dev 0x3000) (next 0x4000) false
  let s3 := placeWrite s2 (.dev 0x4000) (next 0x5000) false
  let s4 := placeWrite s3 (.dev 0x5000) (next 0x6000) false
  let s5 := placeWrite s4 (.dev 0x6000) (toBytes 8 (255 * 2 ^ 56 + 0x9000 + 2 * 2 ^ 7 + 7)) false
  { s5 with members := [3], quarters := [(0, { Quarter.reset with mig2 := BitVec.ofNat 64 (3 * 2 ^ 56 + 0x7000) })] }
def leafE : Nat := 255 * 2 ^ 56 + 0x9000 + 2 * 2 ^ 7 + 7
theorem wit_MigrationStart : let s := emptyCpl ⟨migOwner 2 0, 0, true⟩ 0x400 leafS
    (findLeaf 0 0 s).1 = some (0x6000, leafE) ∧ movable s leafE = true ∧ sameHome s (nb leafE 63 56) 3 = false ∧ isMember s 3 = true ∧
    moving s 0 0 255 0x9000 = false ∧ (quarter leafS 0).mig = none ∧ bits (quarter leafS 0).mig2 63 56 = 3 := by decide +kernel
def mig0 : Migration := ⟨0, 0, 255, 0x9000, 3, 7, 0x6000, leafE, 0, 0, 0x400, [], 0, [], none⟩
theorem wit_MigrationEnd : let s := { base with quarters := [(0, { Quarter.reset with mig := some mig0 })] }
    (quarter s 0).mig = some mig0 ∧ isLocal s mig0.oldPeer = true ∧ isLocal s mig0.newPeer = false ∧ mig0.leafAddr < devTop := by decide
theorem wit_HubRegisters : columnHeld base 3 24 = false ∧ (quarter base 3).remapEn = false ∧ (1 : Nat).testBit 0 = true ∧
    (plainReg 0x1F000).isSome = true ∧ 0x1F000 % 8 = 0 ∧ descOk base 0 = false := by decide
theorem wit_HubRegisters_unknown : hubKnown 0x1FFF8 = false ∧ 0x1FFF8 < 0x100000 := by decide
theorem wit_Patrol : (quarter base (homeQuarter (64 * (2 ^ 33 - 1)))).logBase = 0 := by decide

/-! ## Witnesses: power, links, hosts and firmware -/

theorem wit_RegulatorTicks : base.power.nth ≤ 56 ∧ base.power.ncur ≤ 56 ∧ base.power.ncap ≤ 56 ∧ twarn base ≤ 110 ∧ 0 + 5 ≤ twarn base + 5 ∧
    97 * base.power.capNow.1 < 100 * 3493 * base.power.capNow.2 ∧ 100 * 3239 * base.power.capNow.2 < 90 * base.power.capNow.1 ∧
    90 * base.power.capNow.1 ≤ 100 * 3240 * base.power.capNow.2 ∧ 100 * 3492 * base.power.capNow.2 ≤ 97 * base.power.capNow.1 := by decide
theorem wit_RegulatorTicks_due : 999999 < base.power.thAt + 1000000 ∧ 99999 < base.power.curAt + 100000 ∧
    base.power.thAt + 1000000 ≤ 1000000 ∧ base.power.curAt + 100000 ≤ 100000 ∧ base.power.capAt + 100000 ≤ 100000 := by decide
theorem wit_RackShare : let s := { base with device := 3, members := [3, 143], ns := 100000 }
    isMember s s.device = true ∧ s.power.shareAt + 100000 ≤ s.ns ∧ isMember s 143 = true ∧ 143 ≠ s.device := by decide
theorem wit_Emergency : base.power.emerg = false ∧ ttrip base ≤ 110 := by decide

theorem wit_Link : (link base 21).carries 0 = true ∧ (link base 21).carries 1 = true ∧ (link base 21).lane 0 = 1 ∧ (link base 21).lane 17 = 0 ∧
    (link base 21).lane 8 = 2 ∧ 1 < (link base 21).width 0 ∧ (link base 21).retrain = [] ∧ (link base 21).cmd = none ∧ (link base 21).txAck ≤ 0 ∧
    cmdOk (link base 21) 3 15 = true ∧ (link base 21).cmdWait = [] ∧ ownerOk base 2 = true := by decide
theorem wit_Link_down : { Link.reset with fails := 16 }.carries 0 = true ∧ { Link.reset with cmd := some (1, 17, 1) }.cmd = some (1, 17, 1) ∧
    { Link.reset with cmdWait := [(2, 0)] }.cmdWait = [(2, 0)] ∧ nb (0x100000 + 17 * 256 + 21) 4 0 = 21 ∧ nb (0x100000 + 17 * 256 + 21) 12 8 = 17 ∧
    nb (0x100000 + 17 * 256 + 21) 21 20 = 1 := by decide
theorem wit_MembershipChange : let s := { base with memberAt := [(20000, 5, true)], ns := 20000 }
    s.memberAt = [(20000, 5, true)] ∧ s.quarters = [] ∧ isMember base 143 = false ∧ base.memberAt = [] ∧ base.gc.members = [] := by decide
/-- Host 0 owns the device. -/
def owned (h : Nat) (st : Bool) : State := { base with trust := { Trust.reset with owner := h, stale := st }, ns := 100000000 }
theorem wit_OwnerCas : casOk base 0 0 1 = true ∧ casOk base 1 0 1 = false ∧ casOk (owned 1 true) 1 1 2 = true ∧ casOk (owned 1 false) 0 1 0 = true ∧
    (owned 1 false).trust.owner ≠ nb 0 3 2 := by decide
theorem wit_Owner : (owned 2 false).trust.owner = 1 + 1 ∧ ownerTimeout (owned 2 false) ≠ 0 ∧
    (owned 2 false).trust.beatAt + ownerTimeout (owned 2 false) * 1000000 ≤ (owned 2 false).ns := by decide
theorem wit_Bar2 : 2 ^ 32 - 4 + [1, 2, 3, 4].length ≤ 2 ^ 32 ∧ bits (hubRaw (owned 1 false) 0x1F420) 38 32 * 2 ^ 32 + (2 ^ 32 - 4) + 4 ≤ devTop ∧
    migAt (owned 1 false) (.dev (2 ^ 32 - 4)) = none := by decide
/-- Peer node 1023 has a valid entry. -/
def peers : State :=
  let p : Packet := ⟨1023, 0, 0, 0, 0, 0⟩
  { placeWrite base (.dev (32 * 879 + 16)) (toBytes 8 65536) false with packets := [p, { p with tries := 8 }], ns := 50000 }
theorem wit_Packets : peerValid peers 1023 = true ∧ mget peers.peerSeq (2 * 1023) 0 = 0 ∧ max 1 (bits (soCfg peers) 15 0) = 50 ∧
    0 + max 1 (bits (soCfg peers) 15 0) * 1000 ≤ peers.ns ∧ 0 < max 1 (bits (soCfg peers) 23 16) ∧ max 1 (bits (soCfg peers) 23 16) ≤ 8 := by decide
set_option maxRecDepth 8000 in
theorem wit_LoadFirmware_refused : imageFail (readBytes base.dev.cells 0 256) [] = 1 ∧ base.trust.fwok = false := by decide
/-- An image that names a fused key and carries its digest and a signature that verifies is accepted (18 R421). -/
theorem wit_LoadFirmware_accepted (h body : List Byte) (hm : leNat (field h 0 4) = 0x43584657) (h1 : leNat (field h 0x18 8) = 0)
    (h2 : leNat (field h 0xC0 64) = 0) (hk : (keyIndex (field h 0x40 64)).isSome = true) (hv : Config.fusedSvn ≤ leNat (field h 4 4))
    (hs : Config.ecdsaOk (field h 0x40 64) (field h 0x80 64) (field h 0 0x80) = true) (hl : leNat (field h 8 8) ≤ 2 ^ 26)
    (hd : digestBytes (Config.sha256 body) = field h 0x20 32) : imageFail h body = 0 := by
  have hn : keyIndex (field h 0x40 64) ≠ none := by intro e; simp [e] at hk
  simp [imageFail, *, Nat.not_lt.mpr hv]
  omega
theorem wit_Attest : attestBusy base 0 = false ∧ attestBusy { base with trust := { Trust.reset with busy1 := true } } 1 = true := by decide

/-! ## Witnesses: clauses of memory, locks, tasks and streams -/

theorem wit_memOk : memOk base ∧ memOk full ∧ memOk inTx :=
  ⟨⟨by decide, by decide, by decide⟩, ⟨by decide, by decide, by decide⟩, ⟨by decide, by decide, by decide⟩⟩

/-- `base` with device 3 in the domain: from 2^40 its memory, from 2^41 the hub registers. -/
def mapped : State := { base with device := 1, members := [1, 3], pins := [identityPin,
  [BitVec.ofNat 64 (2 ^ 40 + 29), BitVec.ofNat 64 (2 ^ 41), BitVec.ofNat 64 (2 ^ 56 - 2 ^ 40), BitVec.ofNat 64 (3 * 2 ^ 56)],
  [BitVec.ofNat 64 (2 ^ 41 + 29), BitVec.ofNat 64 (2 ^ 41 + 2 ^ 24), BitVec.ofNat 64 (2 ^ 56 - 2 ^ 40), BitVec.ofNat 64 (255 * 2 ^ 56)]] }
def places (s : State) (a w : Nat) (n : Need) : Option (List Place) :=
  match (access s s.cur a w n false).1 with
  | .ok ps => some ps
  | .fault _ _ => none
def peersAt (x w : Nat) : List Place := (List.range w).map (fun j => .peer 3 (x + j))
theorem wit_AccessToHubAndPeers : places mapped (2 ^ 40 + 8) 8 needR = some (peersAt 8 8) ∧ (peersAt 8 8).all isPeer = true ∧
    places mapped (2 ^ 40 + 8) 8 needW = some (peersAt 8 8) ∧ (2 ^ 40 + 8) % 4096 + 8 ≤ 4096 ∧
    lcMode (access mapped 0 (2 ^ 40 + 8) 8 needR false).2 (2 ^ 40 + 8) (peersAt 8 8) = false ∧
    winBusy (access mapped 0 (2 ^ 40 + 8) 8 needW false).2 (2 ^ 40 + 8) 8 = false ∧
    (places mapped (2 ^ 41 + 8) 8 needR).bind List.head? = some (.hub 8) ∧ (places mapped (2 ^ 41 + 4) 4 needW).bind List.head? = some (.hub 4) ∧
    (th mapped).status.txn = false := by decide

/-- `base` with a page of device 3 from 2^39 on, where this device's memory ends, and one in local-caching mode from 2^41 on. -/
def twoHomes : State := { base with device := 1, members := [1, 3], pins := [identityPin,
  [BitVec.ofNat 64 (2 ^ 39 + 29), BitVec.ofNat 64 (2 ^ 40), BitVec.ofNat 64 (2 ^ 56 - 2 ^ 39), BitVec.ofNat 64 (3 * 2 ^ 56)],
  [BitVec.ofNat 64 (2 ^ 41 + 2 ^ 7 + 29), BitVec.ofNat 64 (2 ^ 42), BitVec.ofNat 64 (2 ^ 56 - 2 ^ 41), BitVec.ofNat 64 (3 * 2 ^ 56)]] }
theorem wit_Access_twoHomes : let ps := devs (2 ^ 39 - 4) 4 ++ (List.range 4).map (fun j => .peer 3 (0 + j))
    let s1 (n : Need) := (access twoHomes 0 (2 ^ 39 - 4) 8 n false).2
    places twoHomes (2 ^ 39 - 4) 8 needR = some ps ∧ places twoHomes (2 ^ 39 - 4) 8 needW = some ps ∧
    (devs (2 ^ 39 - 4) 4).any isHub = false ∧ (devs (2 ^ 39 - 4) 4).any (faraway (s1 needR)) = false ∧
    poisPlaces (s1 needR) (devs (2 ^ 39 - 4) 4) = false ∧ lcMode (s1 needR) (2 ^ 39 - 4) ps = false ∧ winBusy (s1 needR) (2 ^ 39 - 4) 8 = false ∧
    (devs (2 ^ 39 - 4) 4).any (faraway (s1 needW)) = false ∧ lcMode (s1 needW) (2 ^ 39 - 4) ps = false ∧
    winBusy (s1 needW) (2 ^ 39 - 4) 8 = false ∧ (devs (2 ^ 39 - 4) 4).length + 3 + 1 = 8 ∧ (2 ^ 39 - 4 + (devs (2 ^ 39 - 4) 4).length) % 4096 = 0 := by
  decide +kernel
/-- The line at 2^41 stands in a cache of quarter 0. -/
def lcS (l : MLine) : State := updQuarter twoHomes 0 (fun q => { q with msc := [(lcKey (.peer 3 0), l)] })
theorem lcVisit_kept (s : State) (k : Nat) (l : MLine) (hl : lcFind s k = some l) (h : bit (Config.free s.freeIx) 0 = false) :
    lcVisit [k] s = { s with freeIx := s.freeIx + 1 } := by simp [lcVisit, cachedLine, hl, drawFree, h]
theorem wit_Access_cached : let s1 (n : Need) := (access (lcS ⟨List.replicate 64 1, [], false⟩) 0 (2 ^ 41 + 8) 8 n false).2
    places (lcS ⟨List.replicate 64 1, [], false⟩) (2 ^ 41 + 8) 8 needR = some (peersAt 8 8) ∧
    places (lcS ⟨List.replicate 64 1, [], false⟩) (2 ^ 41 + 8) 8 needW = some (peersAt 8 8) ∧
    winBusy (s1 needR) (2 ^ 41 + 8) 8 = false ∧ lcLines (s1 needR) (2 ^ 41 + 8) (peersAt 8 8) = [lcKey (.peer 3 0)] ∧
    (lcFind (s1 needR) (lcKey (.peer 3 0))).isSome = true ∧
    (∀ p ∈ peersAt 8 8, lcKey p = lcKey (.peer 3 0) ∧ (lcByte { s1 needR with freeIx := (s1 needR).freeIx + 1 } p).isSome = true) ∧
    winBusy (s1 needW) (2 ^ 41 + 8) 8 = false ∧ lcLines (s1 needW) (2 ^ 41 + 8) (peersAt 8 8) = [lcKey (.peer 3 8)] ∧
    ((lcFind (s1 needW) (lcKey (.peer 3 8))).map (fun l => l.bytes.length)) = some 64 ∧ (8 : Nat) % 64 + 8 ≤ 64 := by decide +kernel

/-- Core 0 has sent an access that no fence counts as performed. -/
def unsettled (s : State) : State := { s with reqs := [{ away 1 false with place := .dev 0x40, moved := true }] }
theorem wit_FenceWaits : fenceWaits (unsettled base) 0 = true ∧ fenceWaits (unsettled barred) 0 = true ∧ fenceWaits (unsettled (holds [whole 0 4])) 0 = true ∧
    fenceWaits (unsettled (withRec (rec5 0 0) 1 [])) 0 = true ∧ engineLeft (unsettled base) = true ∧ engineLeft (unsettled (running 0)) = true ∧
    tagScope 0x40 = 3 ∧ tagScope (locBase + 4) = 0 := by decide
theorem wit_Icinv : let s := { sentAway 1 .icinv false with icinv := [(0, 255, none), (0, 254, some 7)] }
    (thr s 255).wait.midway = false ∧ (0, 254, some 7) ∈ s.icinv ∧ fenceWaits s 0 = false ∧ (th s).status.supv = true ∧
    (∀ q ∈ s.reqs, q.posted = true) ∧ s.tagq = [] ∧ (∀ p ∈ s.quarters, p.2.mig = none) ∧
    (∀ w ∈ [waiter 0], region w.va ≠ 0 ∨ tagSpace base w ≠ some 1) ∧ s.districts = [] ∧
    (∀ r ∈ droppedRanges base 0 (2 ^ 30), ¬ (r.1 ≤ 0x40 ∧ 0x40 < r.2)) := by decide

/-- A line of a peer's page that a cache holds, dirty. -/
def cached (s : State) : State := updQuarter s 0 (fun q => { q with msc := [(lcKey (.peer 3 0), ⟨List.replicate 64 1, [], true⟩)] })
def bound (s : State) : State := thr0 (fun t => { t with bind := [⟨0x40, 2 ^ 40, 64⟩, ⟨barObject 0 95, 2 ^ 40, 64⟩, ⟨mkName 0 3 0, 2 ^ 40, 64⟩] }) s
theorem wit_BoundLines : let k := lcKey (.peer 3 0)
    let s := bound (cached base)
    (quarter s 0).msc.map Prod.fst = [k] ∧ boundTo (th s) 0x40 k = true ∧ boundTo (th s) (barObject 0 95) k = true ∧
    boundTo (th s) (mkName 0 3 0) k = true ∧ boundTo (th s) 0x41 k = false ∧ fenceWaits s 0 = false := by decide

theorem wit_Tagged_waits : let s := { full with tagq := [waiter 0] }
    placeTag s (.dev 0x40) = true ∧ tagBehind s (.dev 0x40) 0 = true ∧ tagBehind s (.dev 0x40) 1 = true ∧ tagBehind { base with tagq := [waiter 2] } (.dev 0x40) 2 = true ∧
    placeReadPois { full with dev := { full.dev with pois := [1] } } (.dev 0x40) 4 = true ∧
    (th inTx).status.txn = true ∧ region (rx inTx 1).toNat = 0 := by decide
/-- The waiter that may go at the word, with w alone waiting. -/
def queuedAt (s : State) (w : TagWait) : Option TagWait :=
  ({ s with tagq := [w] }).tagq.find? (fun y => y.place == Place.dev 0x40 && tagReady { s with tagq := [w] } (.dev 0x40) y.op)
theorem wit_Waiters : (queuedAt full (waiter 0)).isSome = true ∧ (queuedAt full (waiter 1)).isSome = true ∧
    (queuedAt base (waiter 2)).isSome = true ∧ (queuedAt full { waiter 0 with who := .node 0 1 }).isSome = true ∧
    isPeer { waiter 0 with place := .peer 3 0x40 }.place = true ∧ placeReadPois full (.dev 0x40) 4 = false ∧
    (let s := { thr0 (fun t => { t with wait := .tag }) base with fc := 0x00100000 }
     (thr s 0).waitFrom + (thr s 0).tagwait.toNat ≤ s.fc ∧ (thr s 0).tagwait.toNat ≠ 0 ∧ (thr s 0).status.intrap = false ∧
     { s with fc := 7 }.fc < (thr s 0).waitFrom + (thr s 0).tagwait.toNat ∧ atWord s 0 = false ∧ atWord { s with tagq := [waiter 0] } 0 = true) := by decide

theorem wit_VectorAtomics_poison : placeReadPois marked (.dev 0x40) 64 = true ∧ ownPending base 0x40 64 = false ∧
    (vaddSource 0x80 16 marked).2.cur = 0 ∧ (match (vaddSource 0x80 16 marked).1 with | .words _ => true | _ => false) = true ∧
    places base 0x80 4 needR = some (devs 0x80 4) ∧ faraway base (Place.dev 0x80) = false ∧ placeReadPois base (Place.dev 0x80) 64 = false ∧
    (rx (regs [(2, 0x8F)] base) 2).toNat / 16 % 4 = 0 ∧ (rx (regs [(2, 0x8F)] base) 2).toNat / 64 % 2 ^ 50 * 64 = 0x80 := by decide
theorem wit_Snap_away : PlainAccess mapped 0x40 64 needRW true (devs 0x40 64) (access mapped mapped.cur 0x40 64 needRW true).2 ∧
    (match (access mapped 0 (2 ^ 40) 64 needW true).1 with | .ok qs => qs.headD (.dev 0) == .peer 3 0 | _ => false) = true ∧
    ownPending (access mapped 0 (2 ^ 40) 64 needW true).2 (2 ^ 40) 64 = false ∧ (0x40 : Nat) + 64 ≤ 2 ^ 40 ∧
    placeReadPois (access mapped 0 (2 ^ 40) 64 needW true).2 (.dev 0x40) 64 = false :=
  ⟨plain_of _ _ _ _ _ _ (by decide +kernel), by decide +kernel, by decide +kernel, by decide, by decide +kernel⟩
theorem wit_AtomicAtHome_vector : let r := { away 2 false with place := .dev 0x40, fn := 0x0C, ws := [1, 2] }
    { base with reqs := [r] }.reqs[0]? = some r ∧ placeReadPois base r.place (4 * r.ws.length) = false ∧ isHub r.place = false := by decide
theorem wit_AtomicReply_snap : let s := { thr0 (fun t => { t with wait := .snap 5 (2 ^ 40) 0x80 (.dev 0x80) }) base with reqs := [away 5 true] }
    (thr s 0).wait = .snap 5 (2 ^ 40) 0x80 (.dev 0x80) ∧ (away 5 true) ∈ s.reqs ∧
    (match (access (dropReqs 0 5 s) 0 0x80 64 needW true).1 with | .ok ps => ps.headD (.hub 0) == .dev 0x80 | _ => false) = true ∧
    faraway (access (dropReqs 0 5 s) 0 0x80 64 needW true).2 (.dev 0x80) = false ∧
    (∀ q ∈ (sentAway 2 (.amo 5 true false 0x40) true).reqs, q.core = 0 → q.kind ≠ 5) := by decide
theorem wit_Synced : let s := thr0 (fun t => { t with synced := [((th barred).pc.toNat, false)] }) barred
    mget? (th s).synced (th s).pc.toNat = some false ∧ (barrier s 0 95).phase = false ∧
    (barrier (thr0 (fun t => { t with bar := [(95, ⟨2, 1, true⟩)] }) s) 0 95).phase ≠ false ∧
    (barrier (thr0 (fun t => { t with bar := [(95, ⟨3, 1, true⟩)] }) s) 0 95).arrivals + 1 ≠ 3 := by decide

set_option maxRecDepth 8000 in
theorem wit_Lock_cases : modeAt 2 1 = true ∧ heldMode (holds [whole 0 1]) 0 0 (mkName 0 3 0) = some 1 ∧ covers 1 2 = false ∧ covers 2 1 = false ∧
    256 ≤ (explicitOf (holds (List.replicate 256 (whole 0 4))) 0).length ∧
    (let s := core0 (fun k => { k with lastAge := some (newAge base) }) (holds [])
     (th s).age = 0 ∧ ageWaits s = true) ∧
    (let s := { holds [] with device := 1, members := [1, 3], pins := mapped.pins, tid := [(tidKey 0 3, tensor.set 1 (BitVec.ofNat 64 (2 ^ 40)))] }
     lockRemote (aged s) 0 (mkName 0 3 0) = true ∧ lockNameOk s 0 (mkName 0 3 0) = true) ∧
    lockAtOnce (aged (holds [whole 1 4])) (lockWaitOf (mkName 0 3 0) 4 false) = false ∧
    lockRemote (aged (holds [whole 1 4])) 0 (mkName 0 3 0) = false := by decide

/-- The thread of core 0 waits at queue 5, its task saved. -/
def savedThread : SavedTask := ⟨9, 0, 0, { Thread.reset 300 with status := ⟨0, false, false, false, false, false⟩ }, none, [], [], ⟨[], [], []⟩, [], [], 0, false, false, false, []⟩
theorem wit_WoundArrival_saved : let s := { holds [whole 300 4] with saved := [savedThread], wounds := [{ wound false with thread := 300 }] }
    coreOfThread s 300 = none ∧ (threadOf s 300).map (fun t => (t.id, t.status.txn, woundable s t)) = some (300, false, true) ∧
    isRemote 300 = false ∧ threadOf (holds []) 300 = none ∧
    (let u := { thr0 (fun t => { t with wait := .lock 5 }) (holds [whole 0 4]) with lockq := [lockWaitOf (mkName 0 3 0) 4 true] }
     waitName u 0 = some (mkName 0 3 0)) ∧ accessPending (holds [whole 0 4]) 0 = false ∧ (wound true).at_ = 0 ∧
    accessPending (unsettled (holds [whole 0 4])) 0 = true ∧ (⟨0, 0, .zero, none⟩ : Dying).thread = (wound false).thread := by decide
theorem wit_Tx_cases : (th (thr0 (fun t => { t with status := { t.status with wpend := true } }) inTx)).status.wpend = true ∧
    outstanding (unsettled inTx) 0 = true ∧ (inTx.lockq = []) ∧ (∀ x ∈ pendingWounds inTx 0, x.implicit = true) ∧
    ((th inTx).tx.undo.map Prod.fst).Nodup ∧ (∀ u ∈ (th inTx).tx.undo, u.2.1.length = 128) ∧
    (let s := core0 (fun k => { k with lastAge := some (newAge base) }) base
     ageWaits s = true) ∧ (th { base with ns := 640 }).age = 0 := by decide +kernel

def laned (r : Rec) (w : List QRec) (gs : List Gang) : State := { withRec r 1 [] with recWait := w, gangs := gs }
/-- A record of gang 9, of two members. -/
def pair9 : Rec := { rec5 9 0 with d3 := (rec5 9 0).d3 + 2 ^ 26 }
def member (r : Rec) : QRec := ⟨r, 0, none, none⟩
theorem wit_Spawn_gangs : copyWaits (laned (rec5 0 0) [member (rec5 0 0)] []) 5 (rec5 0 0) = true ∧
    (laned pair9 [] (List.replicate 16 ⟨0, 8, 1, 5, []⟩)).gangs.length = 16 ∧
    gangAt (laned pair9 [] (List.replicate 16 ⟨0, 8, 1, 5, []⟩)) 0 9 = none ∧ pair9.gsize = 2 ∧ pair9.bad 0 false = false ∧
    copyWaits (laned pair9 [] [⟨0, 9, 2, 5, [member pair9]⟩]) 5 pair9 = false ∧
    (gangAt (laned pair9 [] [⟨0, 9, 2, 5, [member pair9]⟩]) 0 9).map (fun k => (k.size, k.q, k.members.map (fun m => m.r.prio))) = some (2, 5, [0]) ∧
    (rec5 9 0).gsize = 1 := by decide

theorem wit_Dacq_gang : let s := { base with districts := (List.range 64).map (fun i => (i + 1, { dist0 with gang := 7 })) }
    64 ≤ gangSize s 0 7 ∧ dacqBad 0x200 7 = false ∧ reservedFor s 0x200 = none ∧ (∃ r ∈ dacqRects 0x200, inZone s (spaceZone s 0) r = true) ∧
    (let u := thr0 (fun t => { t with task := some ⟨5, member (rec5 0 0), 1, some ⟨0, 0, 0, 1, 1⟩⟩ }) s
     reservedFor u 0 = some ⟨0, 0, 0, 1, 1⟩ ∧ 64 ≤ gangSize u 0 7) ∧
    reservedFor (thr0 (fun t => { t with task := some ⟨5, member (rec5 0 0), 1, some ⟨0, 0, 0, 1, 1⟩⟩ }) base) 0 = some ⟨0, 0, 0, 1, 1⟩ := by
  decide +kernel
theorem wit_DacqWaitGrant_none : let s := { waitingD with districts := [(1, dist0)] }
    runsNow s 0 = true ∧ reservedFor (fetchInstr s 0).2 (rx s 1) = none ∧
    firstFit (dropReserved (fetchInstr s 0).2) 0 (dacqRects (rx s 1)) = none ∧ bit (rx s 1) 31 = true := by decide +kernel
theorem wit_Drel_tdown : myDist (withD { dist0 with tdown := some 0x400 } base) = some (1, { dist0 with tdown := some 0x400 }) ∧
    { dist0 with tdown := some 0x400 }.busy = false := by decide
theorem wit_Issue_cases : { dist0 with invs := [inv1, inv1] }.invs.length = 2 ∧ { dist0 with tdown := some 0x400 }.tdown ≠ none ∧
    (rx (issuing 0x102 0 dist0) 2).toNat % 4 ≠ 0 ∧ region (addr56 winBase) = 1 ∧ (rx (issuing 0 2 dist0) 3).toNat / 2 = 1 ∧
    (rx (issuing 0 7 dist0) 3).toNat / 2 ≠ 1 ∧
    { dist0 with cfgq := [⟨0x400, 0x100, 4, 0, 0, false, none⟩] }.caughtUp = false ∧ dist0.lastWave < (rx (issuing 1 0 dist0) 2).toNat ∧
    { dist0 with invs := [inv1] }.caughtUp = true ∧ myDist base = none ∧ memOk (issuing 0 0 dist0) :=
  ⟨by decide, by decide, by decide, by decide, by decide, by decide, by decide, by decide, by decide, by decide, by decide, by decide, by decide⟩
theorem wit_CfgConst_waits : { dist0 with gated := true }.gated = true ∧ { dist0 with cfgq := [⟨0x400, 0x100, 4, 0, 0, false, none⟩] }.caughtUp = false := by
  decide
theorem wit_Drain : dist0.busy = false ∧ pendWords (withD dist0 base) dist0 = 0 ∧ anyToken (withD dist0 base) dist0 = false ∧
    fenceWaits (withD dist0 base) 0 = false ∧ fenceWaits (unsettled (withD dist0 base)) 0 = true ∧
    { dist0 with board := [(1, 0, 4)] }.busy = true := by decide
theorem wit_Issue_moving : let s := regs [(1, 0x9000)] (withD dist0 (updQuarter base 0 (fun q => { q with mig := some ⟨0, 0, 255, 0x9000, 3, 7, 0x6000, 0, 0, 0, 0x400, [], 0, [], none⟩ })))
    (cplPlace s 0 (addr56 (rx s 1))).1.toOption = some (.dev 0x9000) ∧ migAt s (.dev 0x9000) = some 0 ∧ migAt s (.dev 0x400) = none ∧
    (ownerPlace s ⟨0, 0, true⟩ (addr56 0x9000) needW).1.toOption = some (.dev 0x9000) := by decide
theorem wit_Completions_more : (ownerPlace base ⟨0, 0, true⟩ (addr56 0x400) needW).1.toOption = some (.dev 0x400) ∧
    (let r : CfgRun := ⟨0x400, 0x100, 4, 4, 7, false, none⟩
     r.fault = none ∧ r.len ≤ r.pos ∧ { r with pos := 3 }.pos < r.len ∧ { dist0 with cfg := some r, staging := some [] }.staging ≠ none) ∧
    { dist0 with miles := [⟨3, 0x400, false, true⟩] }.miles.map Mile.full = [true] ∧ { dist0 with tdown := some 0x400 }.invs = [] := by decide

theorem wit_Sbind_miles : let k := { dist0 with miles := [⟨3, 0x400, true, false⟩] }
    let s := { ported 1 [] with districts := [(1, k)] }
    bindHandle s k 6 0 = some ⟨0, 0, false, false, false⟩ ∧ k.running = none ∧ (k.miles.any Mile.early) = true ∧
    (2 : Nat) ^ 63 < (rx (regs [(1, 2 ^ 63 + 1)] base) 1).toNat ∧ { dist0 with invs := [inv1] }.running.isSome = true := by decide +kernel
theorem wit_Push_cases : (let s := handle false true (unsettled (ported 5 []))
      (payloadPlace s 0x40 needR).1 = .ok (devs 0x40 64) ∧ ownPending (payloadPlace s 0x40 needR).2 0x40 64 = true) ∧
    (let s := handle false true { ported 5 [] with dev := ⟨[], [], [0]⟩ }
     placeReadPois (payloadPlace s 0 needR).2 (.dev 0) 64 = true ∧ myDist s = some (1, dist0)) ∧
    (match (payloadPlace (handle false true (ported 5 [])) (2 ^ 39) needR).1 with | .fault _ _ => true | _ => false) = true ∧
    mget? (th (handle true false base)).q 6 = some ⟨0, 0, true, false, false⟩ ∧ mget? (th base).q 6 = none ∧
    (let k := { dist0 with pushMile := [(0, 0, 3)] }
     (k.pushMile.filter (fun p => p.1 == 0 && p.2.1 == 0)).length = 1 ∧ { k with gated := true }.gated = true) := by decide +kernel
/-- X[1] holds an address of a peer's page in local-caching mode whose line a cache holds. -/
def pushPeer : State := handle false true (cached { ported 5 [] with device := 1, members := [1, 3], pins := mapped.pins })
theorem cachedLine_kept (s : State) (k : Nat) (l : MLine) (hl : lcFind s k = some l)
    (h : bit (Config.free s.freeIx) 0 = false) : (cachedLine s k).1 = some l := by simp [cachedLine, hl, drawFree, h]
theorem wit_Push_peer : (lcFind pushPeer (lcKey (.peer 3 0))).map MLine.marks = some [] ∧
    (match (payloadPlace pushPeer (2 ^ 40) needR).1 with | .ok ps => isPeer (ps.headD (.dev 0)) | _ => false) = true ∧
    ownPending pushPeer (2 ^ 40) 64 = false ∧ (mget (elem pushPeer 0).inB 0 []).length < 4 := by decide +kernel
theorem wit_Pull_cases : (let s := handle true true (ported 5 [{ tok 0 5 with vec := true }])
      mget? (th s).q 6 = some ⟨0, 0, true, true, false⟩ ∧ (payloadPlace s 0 needW).1 = .ok (devs 0 64) ∧ myDist (payloadPlace s 0 needW).2 = some (1, dist0) ∧
      ownPending (payloadPlace s 0 needW).2 0 64 = false ∧ memOk s) ∧
    (let k := { dist0 with pullDrop := [(0, 1)] }
     (mget (elem (ported 1 [tok 4 5]) 0).outB 0 []).length ≤ mget k.pullDrop (0 * 4 + 0) 0) ∧
    (match (payloadPlace (ported 5 []) (2 ^ 39) needW).1 with | .fault _ _ => true | _ => false) = true ∧
    (match payloadPlace pushPeer (2 ^ 40) needW with
      | (.ok ps, s1) => isPeer (ps.headD (.dev 0)) && (lcFind s1 (lcKey (ps.headD (.dev 0)))).isSome && !ownPending s1 (2 ^ 40) 64
      | _ => false) = true :=
  ⟨⟨by decide, by decide, by decide, by decide, by decide, by decide, by decide⟩, by decide, by decide, by decide +kernel⟩

/-! ## Witnesses: clauses of engines, the sequencer and messages -/

/-- The page at 0x9000 is moving. -/
def frozen (s : State) : State := updQuarter s 0 (fun q => { q with mig := some ⟨0, 0, 255, 0x9000, 3, 7, 0x6000, 255 * 2 ^ 56 + 0x9000 + 263, 0, 0, 0x400, [], 0, [], none⟩ })
/-- Space 0 has a descriptor, whose tensor-identifier table stands at 2^18. -/
def described (s : State) : State := placeWrite s (.dev 0) (toBytes 8 1 ++ toBytes 8 0 ++ toBytes 8 (2 ^ 18)) false
set_option maxRecDepth 4000 in
theorem wit_Tid_table : let s := described (tensorAt 5 tensor)
    descOk s 0 = true ∧ spaceTidTab s 0 + 64 * 5 + 64 ≤ 2 ^ 39 ∧ tidPlace s 0 5 = some (.dev (2 ^ 18 + 320)) ∧ migAt s (.dev (2 ^ 18 + 320)) = none ∧
    (payloadPlace s 0x200 needR).1 = .ok (devs 0x200 64) ∧ memOk s ∧
    descOk (tensorAt 5 tensor) 0 = false ∧ migAt (frozen s) (.dev 0x9000) = some 0 ∧
    (payloadPlace (frozen s) 0x9000 needR).1 = .ok (devs 0x9000 64) ∧
    (let t := updQuarter s 0 (fun q => { q with mig := some ⟨0, 0, 255, 2 ^ 18, 3, 7, 0x6000, 263, 0, 0, 0x400, [], 0, [], none⟩ })
     tidPlace t 0 5 = some (.dev (2 ^ 18 + 320)) ∧ migAt t (.dev (2 ^ 18 + 320)) = some 0) ∧
    ownPending (payloadPlace (unsettled s) 0x40 needR).2 0x40 64 = true ∧
    placeReadPois { s with dev := { s.dev with pois := [8] } } (.dev 0x200) 64 = true :=
  ⟨by decide, by decide, by decide, by decide, by decide, ⟨by decide, by decide, by decide⟩, by decide, by decide, by decide, by decide, by decide, by decide⟩

theorem wit_Dma_causes : (match (cplPlace (dmaing 0 0 0) 0 0x401).1 with | .error _ => true | .ok _ => false) = true ∧
    firstByte (dmaing 0 0 0) (2 ^ 56 - 1) = some 0x106 ∧ gathBad (Ent.ofWords tensor) 2 (3 * 2 ^ 20) = true ∧ boardRoom (dmaing winBase 0 16) winBase = false := by decide
theorem wit_Remote_cases : nodeHere (dmaing 0 0 0) 3 = true ∧ nodeHere (dmaing 0 0 0) 4 = false ∧ firstByte (dmaing 0 0 0) 0x1000 = none ∧
    amoPlaceCause locBase ≠ none ∧ (0x79 : Nat) % 4 ≠ 0 ∧ placeReadPois marked (.dev 0x78) 8 = true := by decide
theorem wit_Bin_cases : (match (binDesc base 0x201 0).1 with | .error (some _) => true | _ => false) = true ∧
    (match (binDesc (frozen base) 0x9000 0).1 with | .error none => true | _ => false) = true ∧
    binBad (binDescr winBase) = false ∧ region (BinSet.ofWords (binDescr 0x8000)).spad ≠ 1 ∧
    (match (engRead own0 none 0x9000 64 0 (frozen base)).1 with | .wait _ => true | _ => false) = true ∧
    ([binU].any (fun v => v.core == binU.core && v.desc == binU.desc)) = true := by decide
def gate (s : State) : State := { s with districts := [(1, { dist0 with gated := true })] }
theorem wit_Engine_waits : let e := { eng 0x12 winBase (locBase + 64) 0 64 with rect := some dist0.rect }
    e.held (gate (withE e)) = true ∧ e.behind (unsettled (withE e)) = true ∧ e.held (unsettled (withE e)) = false ∧
    (match runDma (eng 0x12 locBase 0x9000 0 2) 2 (frozen (withE (eng 0x12 locBase 0x9000 0 2))) with | .wait _ => true | _ => false) = true ∧
    (match runUpTo { e with stop := true } 0 (withE e) with | .over 0 _ none _ => true | _ => false) = true ∧
    (match runUpTo { eng 0x12 0x1000 0x2000 0 64 with stop := true } 64 (withE (eng 0x12 0x1000 0x2000 0 64)) with | .over _ _ none _ => true | _ => false) = true := by
  decide +kernel
theorem wit_Transfer_here : let e := eng 0x20 locBase 0x1000 (3 * 2 ^ 22) 8
    let s := { withE e with device := 3 }
    nodeHere s (e.ext / 2 ^ 22) = true ∧ nodeHere (withE e) (e.ext / 2 ^ 22) = false ∧
    (match runSegs { e with kind := 0x11 } e.len [⟨0, e.far, e.len⟩] 0 s with | .over 8 _ none _ => true | _ => false) = true := by decide +kernel
theorem wit_Replay_cases : let r := { replay 0 1 none with entry := (replay1 0x10000 none).entry, rect := some dist0.rect }
    r.held (gate (withE r)) = true ∧ { r with stop := true }.held (gate (withE r)) = false ∧ r.behind (unsettled (withE r)) = true ∧
    (match playIn (replay1 0x9000 none) 0 (frozen (replayS (replay1 0x9000 none))) with | .wait _ => true | _ => false) = true ∧
    (match playOut (replay1 0x9000 (some 1)) 0 1 (frozen (replayS (replay1 0x9000 (some 1)))) with | .wait _ => true | _ => false) = true ∧
    (match playOut (replay1 (2 ^ 40) (some 1)) 0 1 (replayS (replay1 (2 ^ 40) (some 1))) with | .stop _ _ _ => true | _ => false) = true := by
  decide +kernel

theorem wit_Matrix_cases : matFmtBad 0 (Ent.ofWords [3, 0, 0, 0, 0, 0, 0, 0]) 0 = true ∧ matShapeBad 0 (Ent.ofWords tensor16) 4 (2 ^ 6) (3 * 2 ^ 20 + 2 ^ 10) = true ∧
    entMissing (seqs [] 0) 9 = true ∧ { dist0 with tdown := some 0x400 }.tdown.isSome = true ∧
    (mtileQ 0 0).entered dist0 = true ∧ { mtileQ 0 0 with loads := 1 }.entered dist0 = false ∧
    (match (cplPlace (seqs [] 0) 0 0x401).1 with | .error _ => true | .ok _ => false) = true := by decide
theorem wit_Seq_none : seqHead base 1 = none ∧ seqHead (gate base) 1 = none := by decide
def seqAt (q : SeqInstr) (b : Word) : SeqInstr := { q with entry := q.entry.set 1 b }
def faultIn {α : Type} (r : Gw α × State) (d : Nat) (k : District) : Bool :=
  match r.1 with
  | .fault _ => decide (mget? r.2.districts d = some k)
  | _ => false
def waitIn {α : Type} (r : Gw α × State) : Bool := match r.1 with | .wait _ => true | _ => false
set_option maxRecDepth 8000 in
theorem wit_Seq_stops : (let q := seqAt (seqQ 1 0 0 0 none) (2 ^ 40)
      faultIn (fetchB (seqK q) q (.al e4m3 8) 16 0 [] [] (0, 0) (seqS q)) 1 (seqK q) = true) ∧
    (let q := seqAt (seqQ 1 0 0 0 none) 0x9000
     waitIn (fetchB (seqK q) q (.al e4m3 8) 16 0 [] [] (0, 0) (frozen (seqS q))) = true) ∧
    (let q := seqAt (seqQ 0 0 0 0 none) (2 ^ 40)
     faultIn (seqCodes (seqK q) q.ent (mPlanesX q.ext) (q.r + q.row) q.c (elem (seqS q) q.cell).mat.kk (seqS q)) 1 (seqK q) = true) ∧
    (let q := seqAt (seqQ 0 0 0 0 none) 0x9000
     waitIn (seqCodes (seqK q) q.ent (mPlanesX q.ext) (q.r + q.row) q.c (elem (seqS q) q.cell).mat.kk (frozen (seqS q))) = true) ∧
    (let q := seqAt (oneCol false) (2 ^ 40)
     faultIn (seqCodes (seqK q) q.ent 0 0 0 q.cols (seqS q)) 1 (seqK q) = true) ∧
    (let q := seqAt (oneCol true) 0x9000
     (seqStore (seqK q) (q.ent.addr 0 0) (accBytes q (elem (seqS q) 4).mat) 0 .start (frozen (seqS q))).1.held = true) ∧
    (let q := seqAt (oneCol true) (2 ^ 40)
     (seqStore (seqK q) (q.ent.addr 0 0) (accBytes q (elem (seqS q) 4).mat) 0 .start (seqS q)).1.cause.isSome = true) := by decide +kernel

theorem wit_Sig_refused : isMember base (bits ((0x0500 : Word)) 15 8) = false ∧ bits (0x0500 : Word) 15 8 ≠ 0xFF := by decide
theorem wit_Arrivals : (msg false false true).user = true ∧ (∀ x ∈ [msg false false false], x.dst = 0 → x.room = false) ∧
    { msg true true false with src := 1 }.room = true ∧ (msg false false false).src < 256 ∧ { msg false false false with device := 7 }.device ≠ base.device ∧
    (handler (sent (msg false false false) ⟨0x40, true, false, 9⟩ 0) 0 63).v = true ∧
    (core (sent (msg false false false) ⟨0x40, true, false, 9⟩ 8) 0).delivery.length = 8 := by decide
theorem wit_QueueEntry : let m := { msg true true false with bound := 5 }
    let s := sent m ⟨0x40, true, false, 9⟩ 8
    s.sigs.find? (fun x => x.dst == 0 && x.room && (decide (x.bound ≠ 0) && decide (x.at_ + x.bound ≤ s.fc))) = some m ∧
    8 ≤ (core s 0).delivery.length ∧ (core (core0 (fun k => { k with unclaimed := [] }) s) 0).unclaimed = [] ∧
    (core (sent m ⟨0x40, true, false, 9⟩ 0) 0).delivery.length < 8 ∧
    (sent (msg true false false) .zero 0).sigs.find? (fun x => x.dst == 0 && (x.arrived && !x.room && decide (x.at_ + 256 ≤ 256))) = some (msg true false false) := by
  decide
theorem wit_Unclaimed : let s := { sent (msg true false false) ⟨0x40, true, false, 0⟩ 1 with sigs := [] }
    let u := core0 (fun k => { k with delivery := [] }) s
    (core u 0).unclaimed = [msg true false false] ∧ (handler u 0 63).v = true ∧ (handler u 0 63).w = false ∧ (core u 0).delivery.length < 8 ∧
    (msg true false false).user = false ∧ { msg true false false with user := true }.space ≠ 0 := by decide
theorem wit_Sethnd_releases : let s := { core0 (fun k => { k with handlers := [(63, ⟨0x40, false, true, 9⟩)] }) base with sigs := [msg true false false], fc := 255 }
    heldMsgs s 0 63 = [msg true false false] ∧ s.fc < (msg true false false).at_ + 256 ∧ (msg true false false).at_ + 256 ≤ { s with fc := 256 }.fc ∧
    (∀ x ∈ s.sigs, x.dst = s.cur → x.room = false) ∧ (me s).unclaimed = [] ∧ (me s).delivery.length < 8 := by decide
theorem wit_Entry_waits : canEnter (sent (msg true false false) .zero 1) 0 = false ∧
    (∀ d ∈ List.range 256, d ≠ 0 → (thr entering d).id ≠ (thr entering 0).id) := by decide +kernel

def youngAge (s : State) : State := core0 (fun k => { k with lastAge := some (newAge s) }) s
theorem wit_Gc_cases : ageWaits (youngAge base) = true ∧ ageWaits base = false ∧ ceilingAt base.gc base.ns = some (ownAt base.gc 0) ∧
    base.gc.group = none ∧ { (grouped 0).gc with leaving := some 30000 }.leaving = some 30000 ∧
    ceilingAt { (grouped 0).gc with members := [], tj := 10 } 0 = none ∧ (rx (regs [(2, 1)] (grouped 0)) 2).toNat < (grouped 0).ns + (grouped 0).gc.notice * 1000 ∧
    (th user).status.supv = false := by decide
theorem wit_GcJoin_times : joining.gc.joinAt + 100000 ≤ joining.ns ∧ { joining with ns := 5 }.ns < joining.gc.joinAt + 100000 := by decide
theorem wit_GcMessages_more : (∃ r, { member1 with gone := some 7 }.gone = some r ∧ r ≤ (grouped 7).ns) ∧ { member1 with told := true }.told = true ∧
    joining.gc.group = some 9 ∧ joining.gc.joinCore ≠ none ∧ (grouped 0).ns < member1.heard + max 5 (grouped 0).gc.silent.toNat * 10000 ∧
    inGroup base = false ∧ mget? (grouped 0).gc.members 5 = none ∧ (grouped 7).ns < (grouped 7).gc.hbAt + 10000 ∧
    1024 ≤ memberCount { grouped 0 with gc := { (grouped 0).gc with members := (List.range 1023).map (fun i => (i, member1)) } } := by decide +kernel

/-! ## Witnesses: clauses of configuration, the fabric and cells -/

def waveK : District := { dist0 with cfg := some ⟨0x400, 0x100, 2, 0, 7, true, none⟩, cursor := some (0, 0) }
theorem wit_Cfg_checks : let k := cfgK (some (0, 0)) none
    let s := cfgS k 0 0
    cfgElem k 8 0 = .error 0x142 ∧ writeCheck s k false 0 0x70 0xFFFFFFFF = some 0x141 ∧
    writeCheck s k false 0 0x80 (3088 * 65536 + 3072) = none ∧ writeCheck s k false 0 0x81 (3088 * 65536) = none ∧ isSwitchField 0 0x80 = true ∧
    (cfgK (some (0, 0)) (some (List.replicate 64 (0, 0xC0, 9)))).staging.map List.length = some 64 ∧
    writeBusy (live liveK (cellX 3 []) 0) liveK 0 0x70 = true ∧ isConstField 0x70 = false ∧ (cfgK none none).cursor = none :=
  ⟨by rfl, by decide, by decide, by decide, by decide, by decide, by decide, by decide, by decide⟩
theorem wit_Cfg_wave : (waveK.cfg.map CfgRun.wave) = some true ∧ pendWords (cfgS waveK 0 0) waveK = 0 ∧
    writeCheck (cfgS waveK 0 0) waveK true 0 0xC0 5 = none ∧ writeCheck (cfgS waveK 0 0) waveK true 0 0x80 (3088 * 65536 + 3072) = none ∧
    pendWords { cfgS waveK 0 0 with elems := [(0, { Elem.reset with pend := List.replicate 4096 .clear })] } waveK = 4096 := by decide +kernel
theorem wit_Cfg_refused : nb 0x40400000 29 22 ≠ 0 ∧ cmdKind 0x40400000 = 1 ∧ nb 0x40000001 7 0 ≠ 0 ∧ nb 0x40000200 9 8 = 2 ∧ 8 * dist0.rect.w ≤ nb 0x40002000 15 10 ∧
    nb 0xB0800001 9 0 ≠ 0 ∧ (⟨0x400, 0x100, 2, 1, 7, false, none⟩ : CfgRun).len ≤ 1 + 1 ∧ nb 0xD8000000 29 26 = 6 ∧ nb 0xC0000001 25 0 ≠ 0 ∧ nb 0xC8000100 25 0 = 256 ∧
    (cfgK none (some [])).staging.isSome = true ∧ (elem (live liveK (cellX 3 []) 0) 0).running liveK = true := by decide
theorem wit_Cfg_waits : mget? (startLoad 1 base).districts 1 = none ∧ dist0.cfg = none ∧ { cfgK none none with gated := true }.gated = true ∧
    (match (cfgWord { dist0 with cfg := none } ⟨0x400, 0x9000, 2, 0, 7, false, none⟩ 0 (frozen (withD dist0 base))).1 with | .wait _ => true | _ => false) = true ∧
    (match (cfgWord dist0 ⟨0x400, BitVec.ofNat 64 (2 ^ 40), 2, 0, 7, false, none⟩ 0 (withD dist0 base)).1 with | .fault _ => true | _ => false) = true ∧
    cmdKind 0x30000005 ≠ 1 := by decide
theorem wit_Pending_waits : let x := { cellX 3 [] with joined := some 1, pend := [.clear] }
    readyPend (live liveK x 0) liveK 0 x = none ∧ readyPend base dist0 0 (elem (pended (.write 0xC0 5) none) 0) = some 0 ∧ (switch base 0).pend = [] ∧
    pendTurn [(3088, some 3072, 1), (3088, none, 1)] (3088, none, 1) = false ∧ isOrigin 0 = true ∧ isOrigin 1 = false ∧
    ([(clearAll, none, 1)] : List (Nat × Option Nat × Nat)).head?.map Prod.fst = some clearAll ∧
    dist0.behind (withD dist0 base) = false ∧ dist0.behind (unsettled (withD dist0 base)) = true := by decide

/-- A token on track 256 of block 0, which leads to block 1. -/
def crossing (z : Nat) : State :=
  { base with quarters := [(0, { Quarter.reset with zmap := [(0, z)] })],
              switches := [(0, { Switch.zero with drive := [(256, [3072])], hop := [(256, [tok 0 5])] }), (1, { Switch.zero with drive := [(3080, [768])] })] }
theorem wit_TokenHop_track : idClass 256 ≠ 3 ∧ across 0 256 = some (1, 3, 1) ∧ ((switch (crossing 0) 0).held 256).map Token.kind = [0] ∧
    zoneOf (crossing 1) 0 ≠ zoneOf (crossing 1) 1 ∧ zoneOf (crossing 0) 0 = zoneOf (crossing 0) 1 ∧ trackId (idClass 256) 3 (idTrack 256) = 768 ∧
    sourceHop 1 768 = some (0, 256) ∧ blockGated (crossing 0) 1 = false ∧ (tok 0 5).both = false ∧ (switch (crossing 0) 1).dests 768 = [3080] ∧
    ((switch (crossing 0) 1).held 3080).length < hopRoom 1 (switch (crossing 0) 1) 3080 ∧ ((switch (crossing 0) 1).sources 3080).length < 2 := by decide
def ctlPort (w : W32) (b : List (Bool × Nat)) : State :=
  { base with elems := [(0, { Elem.reset with fields := [(0x78, w)], ctB := [(0, b)] })],
              switches := [(0, { Switch.zero with drive := [(3076, [256]), (256, [3076])], hop := [(3076, [tok 0 1])] })] }
theorem wit_TokenHop_control : (switch (ctlPort 2 [(true, 1)]) 0).dests (elemLink 0 4) ≠ [] ∧ ((elem (ctlPort 2 [(true, 1)]) 0).field 0x78).toNat % 4 = 2 ∧
    mget (elem (ctlPort 2 [(true, 1)]) 0).ctB 0 [] = [(true, 1)] ∧ idClass 3076 = 3 ∧ idLink 3076 = 4 ∧ idElem 0 3076 = 0 ∧
    (elem (ctlPort 1 []) 0).field 0x78 = 1 ∧ (elem (ctlPort 2 []) 0).field 0x78 ≠ 1 ∧ ((switch (ctlPort 1 []) 0).held 3076).map Token.kind = [0] ∧
    (switch base 0).dests (elemLink 0 0) = [] ∧ 2 ≤ (mget (elem (hopping [] [tok 0 1, tok 0 2] []) 0).outL 0 []).length ∧
    blockGated { gate base with districts := [(1, { dist0 with gated := true })] } 0 = true := by decide

/-- The cell of `cellX` with some heads and a burst check on its input. -/
def liveX (x : Elem) : Elem := elem (live liveK x 0) 0
def burstX (l : List Token) (n : Option Nat) : Elem := liveX
  { cellX 3 l with fields := [(0, 0x02220000), (0x48, 3), (0x60, 0x1200), (0x70, 0x11), (0x75, 1)], burstIn := (n.map (fun m => (0, m))).toList }
theorem wit_Cell_bursts : burstBad (burstX [tok 0 5] none) [0] = some 0x183 ∧ burstBad (burstX [tok 11 1] none) [0] = some 0x182 ∧
    burstBad (burstX [tok 4 0] (some 1)) [0] = some 0x183 ∧ burstBad (burstX [tok 8 0] (some 1)) [0] = some 0x183 ∧
    (match headsOf (burstX [tok 10 0] none) [0] with | .one 0 => true | _ => false) = true ∧
    (match headsOf (burstX [tok 13 0] none) [0] with | .bad 0x181 => true | _ => false) = true ∧
    (match headsOf (liveX (cellX 3 [])) [0] with | .wait => true | _ => false) = true := by decide +kernel
theorem wit_Cell_room : roomFor { cellX 3 [tok 0 5] with outB := [(1, List.replicate 4 (tok 0 1))] } [1] [] = false ∧
    cellReady (live liveK { cellX 3 [tok 0 5] with outB := [(1, List.replicate 4 (tok 0 1))] } 0) 0 = some (1, liveK, inv1, 0) ∧
    (doneOuts (liveX { cellX 3 [tok 8 0] with outB := [(1, List.replicate 4 (tok 0 1))] }) 0).all
      (liveX { cellX 3 [tok 8 0] with outB := [(1, List.replicate 4 (tok 0 1))] }).room = false := by decide

/-! ## Witnesses: clauses of stream units, matrix cells and memory nodes -/

/-! More steps of units: a mode word, heads and a unit state. -/

theorem wit_Scanner_cases : unitReady .scanner (unit 0x00300000 [tok 7 0] [] .zero) 6 = true ∧ unitReady .scanner (unit 0x00300000 [tok 4 0] [] .zero) 6 = true ∧
    unitReady .scanner (unit 0x00300000 [tok 8 0] [] .zero) 6 = true ∧ unitReady .scanner (unit 0x00300000 [{ tok 0 5 with p := 1 }] [] .zero) 6 = true ∧
    { tok 0 5 with p := 1 }.pois = true ∧ (elem (live liveK (unit 0x00300000 [tok 4 0] [] .zero) 6) 6).room 0 = true ∧
    unitReady .scanner (unit 0x00300000 [tok 0 5] [] { StreamUnit.zero with fib := some (5, 3, 64) }) 6 = true ∧
    ((elem (live liveK (unit 0x00300000 [tok 0 5] [] .zero) 6) 6).uhead 0).map Token.kind = some 0 ∧
    (unit 0x00304000 [] [] .zero).mbit 14 = true := by decide
def headBad (kd : Kind) (mode : W32) (e : Nat) : Bool :=
  let x := elem (live liveK (unit mode [tok 13 0] [tok 13 0] .zero) e) e
  elemKind e == kd && markHead x (unitPorts kd x).1 == some 0x181
theorem wit_Unit_reserved : headBad .scanner 0x00300000 6 = true ∧ headBad .merge 0 1540 = true ∧ headBad .merge 0x40000000 1540 = true ∧
    headBad .repeater 0 1799 = true ∧ headBad .repeater 0x80000000 1799 = true ∧ headBad .reducer 0 1030 = true ∧ headBad .writer 0x00310000 1542 = true := by
  decide +kernel
/-- A scanner of a level form, and the arrays of its level. -/
def scanL (mode : W32) (l : List Token) (u : StreamUnit) (pos crd : List Nat) : State :=
  let x := { Elem.reset with fields := [(0, mode), (0x70, 1), (0x74, 1), (0x75, 1), (0xC0, 7), (0xC1, 3), (0xC2, 9)], inB := [(0, l)], unit := u }
  placeWrite (placeWrite (liveL x 6) (.dev 0x30000) (pos.flatMap (toBytes 4)) false) (.dev 0x20000) (crd.flatMap (toBytes 4)) false
def level (s : State) : Level := scanLevelOf invL 0 (elem s 6)
def liveLK : District := { dist0 with invs := [invL], ctxRun := true }
def okEq {α : Type} [DecidableEq α] (r : Gw α × State) (a : α) : Bool := match r.1 with | .ok b => decide (b = a) | _ => false
def inFib (p pos fin : Nat) : StreamUnit := { StreamUnit.zero with fib := some (p, pos, fin) }
theorem wit_Scanner_compressed : let s (u : StreamUnit) (crd : List Nat) := scanL 0x00314000 [tok 0 0] u [0, 2] crd
    let need (u : StreamUnit) (crd : List Nat) := scanNeed liveLK 6 true (wordVa (level (s u crd)).crd 0) (s u crd)
    readyAt invL .scanner (s (inFib 0 0 2) [5, 9]) 6 = true ∧ (level (s .zero [])).lvf = 1 ∧ (level (s .zero [])).n = 64 ∧
    (elem (s .zero []) 6).room 0 = true ∧ (elem (s .zero []) 6).room 1 = true ∧
    okEq (need (inFib 0 0 2) [5, 9]) 5 = true ∧ okEq (need (inFib 0 0 1) [63]) 63 = true ∧ okEq (need (inFib 0 0 2) [64]) 64 = true ∧
    ({ inFib 0 0 2 with prev := some 5 }).prev = some 5 ∧
    okEq (scanWord liveLK 6 true (wordVa (level (s .zero [])).crd 0) { s .zero [5] with dev := { (s .zero [5]).dev with pois := [0x20000 / 64] } }) (5, true) = true := by
  decide +kernel
theorem wit_Scanner_bitmap : let s (u : StreamUnit) := scanL 0x00324000 [tok 0 0] u [4, 6] [544, 0]
    let L := level (s .zero)
    readyAt invL .scanner (s (inFib 0 5 64)) 6 = true ∧ L.lvf = 2 ∧
    (match fibrePos liveLK 6 L 0 (s (inFib 0 5 64)) with
      | (.ok (4, 6), s1) => okEq (nextBit liveLK 6 L 0 65 6 s1) (some 9) | _ => false) = true ∧
    (match fibrePos liveLK 6 L 0 (s { inFib 0 9 64 with ones := 1 }) with
      | (.ok _, s1) => (match nextBit liveLK 6 L 0 65 10 s1 with | (.ok none, s2) => okEq (fibrePos liveLK 6 L 0 s2) (4, 6) | _ => false) | _ => false) = true ∧
    (1 : Nat) + 1 = 6 - 4 ∧ (0 : Nat) + 1 ≠ 6 - 4 := by decide +kernel
theorem wit_Scanner_range : let s (u : StreamUnit) := scanL 0x00334000 [tok 0 2] u [] []
    readyAt invL .scanner (s (inFib 2 3 9)) 6 = true ∧ readyAt invL .scanner (s .zero) 6 = true ∧ (level (s .zero)).lvf = 3 ∧
    max 3 (level (s .zero)).lo < (level (s .zero)).hi ∧ max 8 (level (s .zero)).lo + 1 = (level (s .zero)).hi ∧
    (level (updElem (s .zero) 6 (fun x => { x with fields := mset x.fields 0xC2 3 }))).hi ≤ 3 := by decide +kernel
theorem wit_Scanner_opens : let s (u : StreamUnit) (pos : List Nat) := scanL 0x00314000 [tok 0 0] u pos [5, 9]
    readyAt invL .scanner (s .zero [0, 2]) 6 = true ∧ readyAt invL .scanner (s { StreamUnit.zero with open_ := true } [0, 2]) 6 = true ∧
    (match fibrePos liveLK 6 (level (s .zero [])) 0 (s .zero [0, 2]) with
      | (.ok (0, 2), s1) => okEq (scanNeed liveLK 6 true (wordVa (level (s .zero [])).crd 0) s1) 5 | _ => false) = true ∧
    okEq (fibrePos liveLK 6 (level (s .zero [])) 0 (s .zero [2, 2])) (2, 2) = true ∧
    (match (fibrePos liveLK 6 (level (s .zero [])) 0 (s .zero [2, 1])).1 with | .fault 0x1A2 => true | _ => false) = true := by decide +kernel
theorem wit_Scanner_root : let s (u : StreamUnit) := scanL 0x0030C000 [] u [] []
    readyAt invL .scanner (s .zero) 6 = true ∧ readyAt invL .scanner (s { StreamUnit.zero with open_ := true }) 6 = true ∧
    readyAt invL .scanner (s { StreamUnit.zero with open_ := true, stop0 := true }) 6 = true ∧ (elem (s .zero) 6).mbit 15 = true ∧
    (level (s .zero)).lvf = 0 ∧ 1 < (level (s .zero)).n := by decide +kernel
/-- A unit with four inputs and four outputs. -/
def unit4 (mode : W32) (l : List (List Token)) (u : StreamUnit) : Elem :=
  { Elem.reset with fields := [(0, mode), (0x70, 1), (0x71, 1), (0x72, 1), (0x73, 1), (0x74, 1), (0x75, 1), (0x76, 1), (0x77, 1), (0xC0, 3)],
                    inB := (List.range 4).zip l, unit := u }
theorem wit_Merge_payload : let x (m : W32) (a b pa pb : Token) := unit4 m [[a], [b], [pa], [pb]] .zero
    ([(0x08000000 : W32), 0x4C000000].all (fun m => [tok 0 1, tok 4 0].all (fun pa =>
      unitReady .merge (x m (tok 0 5) (tok 0 5) pa (tok 0 2)) 1540))) = true ∧
    unitReady .merge (x 0x4C000000 (tok 0 5) (tok 0 9) (tok 4 0) (tok 0 2)) 1540 = true ∧
    unitReady .merge (x 0x4C000000 (tok 0 5) (tok 0 9) (tok 0 1) (tok 0 2)) 1540 = true ∧
    unitReady .merge (x 0x4C000000 (tok 0 9) (tok 0 5) (tok 0 1) (tok 0 2)) 1540 = true ∧
    (x 0x4C000000 (tok 0 5) (tok 0 5) (tok 0 1) (tok 0 2)).mbit 27 = true ∧ (x 0x4C000000 (tok 0 5) (tok 0 5) (tok 0 1) (tok 0 2)).mbit 26 = true ∧
    ports.all (elem (live liveK (x 0x4C000000 (tok 0 5) (tok 0 5) (tok 0 1) (tok 0 2)) 1540) 1540).room = true := by decide +kernel
theorem wit_Reducer_coord : let x (m : W32) (a b : Token) (u : StreamUnit) := unit4 m [[a], [b]] u
    unitReady .reducer (x 0x00800000 (tok 1 0) (tok 0 7) { StreamUnit.zero with acc := some ⟨3, false⟩ }) 1030 = true ∧
    unitReady .reducer (x 0x00800000 (tok 1 0) (tok 0 7) .zero) 1030 = true ∧ unitReady .reducer (x 0x01800000 (tok 1 0) (tok 0 7) .zero) 1030 = true ∧
    unitReady .reducer (x 0x00800000 (tok 1 0) (tok 4 0) .zero) 1030 = true ∧ (x 0x01800000 (tok 1 0) (tok 0 7) .zero).mbit 24 = true ∧
    (tok 1 0).kind = (x 0x00800000 (tok 1 0) (tok 0 7) .zero).mbits 31 29 + 1 ∧
    unitReady .reducer (x 0x00800000 (tok 0 5) (tok 3 0) { StreamUnit.zero with pendStop := some 2 }) 1030 = true ∧
    unitReady .reducer (x 0x00800000 (tok 0 5) (tok 0 0) { StreamUnit.zero with pendStop := some 2 }) 1030 = true ∧
    unitReady .reducer (x 0x00800000 (tok 8 0) (tok 8 0) .zero) 1030 = true ∧ unitReady .reducer (x 0x00800000 (tok 8 0) (tok 0 0) .zero) 1030 = true := by
  decide +kernel
theorem wit_Merge_cases : unitReady .merge (unit 0 [tok 4 0] [tok 4 0] .zero) 1540 = true ∧ unitReady .merge (unit 0 [tok 8 0] [tok 8 0] .zero) 1540 = true ∧
    unitReady .merge (unit 0 [tok 4 0] [tok 5 0] .zero) 1540 = true ∧ unitReady .merge (unit 0 [{ tok 0 5 with p := 1 }] [tok 0 5] .zero) 1540 = true ∧
    unitReady .merge (unit 0 [tok 0 5] [tok 0 9] .zero) 1540 = true ∧ unitReady .merge (unit 0x40000000 [tok 0 9] [tok 0 5] .zero) 1540 = true ∧
    unitReady .merge (unit 0x40000000 [tok 0 5] [tok 0 5] .zero) 1540 = true ∧ unitReady .merge (unit 0x40000000 [tok 8 0] [tok 8 0] .zero) 1540 = true ∧
    unitReady .merge (unit 0x40000000 [tok 4 0] [tok 4 0] .zero) 1540 = true ∧ (unit 0 [] [] .zero).mbit 27 = false ∧ (unit 0 [] [] .zero).mbit 26 = false := by
  decide +kernel
theorem wit_Repeater_cases : unitReady .repeater (unit 0 [tok 4 0] [tok 4 0] .zero) 1799 = true ∧ unitReady .repeater (unit 0 [tok 0 5] [tok 4 0] .zero) 1799 = true ∧
    unitReady .repeater (unit 0x80000000 [{ tok 0 5 with p := 1 }] [] .zero) 1799 = true ∧ StreamUnit.zero.prev = none ∧ StreamUnit.zero.loaded = false ∧
    StreamUnit.zero.stop0 = false ∧ (unit 0x10000000 [] [] .zero).mbits 30 28 = 1 := by decide
theorem wit_Reducer_cases : unitReady .reducer (unit 0 [tok 8 0] [] .zero) 1030 = true ∧ StreamUnit.zero.folded = false ∧
    unitReady .reducer (unit 0 [tok 8 0] [] { StreamUnit.zero with folded := true }) 1030 = true ∧
    unitReady .reducer (unit 0 [] [] { StreamUnit.zero with pendStop := some 2 }) 1030 = true := by decide
def writeX (l : List Token) (u : StreamUnit) : State := { writeS with elems := [(1542, { unit 0x00310000 l [] u with joined := some 1 })] }
theorem wit_LevelWriter_cases : readyAt invL .writer (writeX [tok 4 0] { StreamUnit.zero with loaded := true }) 1542 = true ∧
    ((elem (writeX [{ tok 0 5 with p := 1 }] .zero) 1542).uhead 0).map Token.pois = some true ∧
    writeG.L.n ≤ 64 ∧ (some 7 : Option Nat) = { StreamUnit.zero with prev := some 7 }.prev ∧
    (let s := updElem writeS 1542 (fun x => { x with fields := mset x.fields 1 1, unit := { x.unit with n := 1 } })
     (lwCfg invL 0 (elem s 1542)).cap = 1 ∧ (lwCfg invL 0 (elem s 1542)).cap < (elem s 1542).unit.n + 1) ∧
    isOk (gwStores 1 invL 0 [(wordVa writeG.L.pos 0, toBytes 4 0, false)] writeS) = true ∧
    isOk (gwStores 1 invL 0 [(wordVa writeG.L.pos 1, toBytes 4 0, false)] writeS) = true := by decide
/-- A level writer with values, of a level form, with CAP 4. -/
def valuesS (lvf : W32) (a b : Token) (u : StreamUnit) : State :=
  liveL { unit (0x00308000 + lvf * 65536) [a] [b] u with fields := [(0, 0x00308000 + lvf * 65536), (1, 4), (0x70, 1), (0x71, 1)] } 1542
theorem wit_LevelWriter_values : let u := { StreamUnit.zero with loaded := true, prev := some 3, n := 3 }
    let g (lvf : W32) := lwCfg invL 0 (elem (valuesS lvf (tok 0 5) (tok 0 9) u) 1542)
    (∀ i, i < 3 → let s := valuesS (BitVec.ofNat 32 i) (tok 0 5) (tok 0 9) u
      readyAt invL .writer s 1542 = true ∧ (g (BitVec.ofNat 32 i)).vals = true ∧ (g (BitVec.ofNat 32 i)).L.lvf = i ∧
      (g (BitVec.ofNat 32 i)).cap = 4 ∧ 5 < (g (BitVec.ofNat 32 i)).L.n) ∧
    isOk (gwStores 1 invL 0 (lwFill (g 0) 0 4 5 ++ [((g 0).base % 2 ^ 56 + (0 * (g 0).L.n + 5) * (g 0).width, toBytes (g 0).width 9, false)])
      (valuesS 0 (tok 0 5) (tok 0 9) u)) = true ∧
    isOk (gwStores 1 invL 0 [(wordVa (g 1).L.crd 3, toBytes 4 5, false), (((g 1).base + 3 * (g 1).width) % 2 ^ 56, toBytes (g 1).width 9, false)]
      (valuesS 1 (tok 0 5) (tok 0 9) u)) = true ∧
    isOk (gwStores 1 invL 0 (lwBits (g 2) u 0 ++ [(((g 2).base + 3 * (g 2).width) % 2 ^ 56, toBytes (g 2).width 9, false)])
      (valuesS 2 (tok 0 5) (tok 0 9) u)) = true ∧
    isOk (gwStores 1 invL 0 (lwFill (g 0) 0 4 (g 0).L.n) (valuesS 0 (tok 1 0) (tok 1 0) u)) = true ∧
    readyAt invL .writer (valuesS 0 (tok 1 0) (tok 1 0) u) 1542 = true ∧ readyAt invL .writer (valuesS 0 (tok 0 5) (tok 4 0) u) 1542 = true ∧
    readyAt invL .writer (valuesS 2 (tok 8 0) (tok 8 0) u) 1542 = true ∧
    isOk (gwStores 1 invL 0 (lwDone (g 2) (elem (valuesS 2 (tok 8 0) (tok 8 0) u) 1542)) (valuesS 2 (tok 8 0) (tok 8 0) u)) = true := by
  decide +kernel
theorem wit_Skips : (unit 0x00300000 [] [] { StreamUnit.zero with skips := [(9, 1, 1)] }).unit.seqOut ≠ 1 ∧
    max 1 9 < (64 : Nat) ∧ (64 : Nat) ≤ max 1 70 ∧ StreamUnit.zero.skips = [] ∧ active base 6 = none ∧
    (StreamUnit.zero.window false) = [] ∧ (StreamUnit.zero.window true) = [] := by decide

def liveM (l : List Token) (m : Mat) (ctl : W32) : State :=
  live liveK { matX l m with fields := [(0, 5 + ctl), (0x70, 0x1D), (0x74, 1)] } 4
theorem wit_Matrix_tokens : ((elem (liveM [] .zero 0) 4).head 0).isNone = true ∧ ((elem (liveM [tok 4 0] .zero 0) 4).head 0).map Token.kind = some 4 ∧
    ((elem (liveM [tok 13 0] .zero 0) 4).head 0).map Token.kind = some 13 ∧ ((elem (liveM [tok 0 0] .zero 0) 4).head 0).map Token.kind = some 0 ∧
    (elem (liveM [tok 4 0] { Mat.zero with inBurst := true } 0) 4).mat.inBurst = true ∧ rowFull (elem (liveM [tok 4 0] .zero 0) 4) = false ∧
    ((elem (liveM [tok 11 0] .zero 0) 4).head 0).map Token.kind = some 11 ∧ (elem (liveM [tok 11 0] .zero 0) 4).mat.inBurst = false ∧
    (11 : Nat) ≤ 11 ∧ (tok 11 3).val.toNat ≠ tokensSince [tok 10 0, tok 0 0] ∧ (elem (liveM [tok 8 0] .zero 0) 4).mEmit = false := by decide +kernel
theorem wit_Matrix_emit : (elem (liveM [] .zero 0x00800000) 4).mEmit = true ∧ mget (elem (liveM [] .zero 0) 4).outB 0 [] = [] ∧
    (elem (liveM [] { Mat.zero with out := [tok 0 1] } 0) 4).mat.out = [tok 0 1] ∧ (elem (liveM [] .zero 0) 4).room 0 = true ∧
    (elem { live liveK { matX [] .zero with outB := [(0, List.replicate 4 (tok 0 1))] } 4 with fc := 1 } 4).room 0 = false := by decide +kernel

/-- Node 0 of element 0 has a token to take, the first half of a two-token request, and no request. -/
def nodeH (a : Token) (h : Option Token) (w : W32) (ix : W32) : State :=
  let s := nodeS [a] [] inv1 0
  { s with elems := [(0, { elem s 0 with nodes := [(0, ⟨h, [], 0⟩)], fields := [(0x70, w), (0x74, w), (0xCC, 1), (0xCE, ix)] })] }
def asked0 (s : State) : Bool := decide (nodeLive s 0 0 = some (1, liveK, inv1)) && (node s 0 0).reqs.length == 0
def chTok (ch : Nat) (v : BitVec 512) : Token := { tok 0 v with ch := ch }
theorem wit_Node_kinds : asked0 (nodeH (tok 13 0) none 1 3) = true ∧ asked0 (nodeH (tok 10 0) none 1 3) = true ∧ asked0 (nodeH (tok 4 0) none 1 3) = true ∧
    asked0 (nodeH (chTok 9 0) none 1 3) = true ∧ asked0 (nodeH (chTok 3 0x8000) none 1 3) = true ∧ twoTokens 3 = true ∧
    asked0 (nodeH (tok 4 0) (some (chTok 3 0x8000)) 1 3) = true ∧ asked0 (nodeH (chTok 3 7) (some (chTok 3 0x8000)) 1 3) = true ∧
    asked0 (nodeH (chTok 6 7) (some (chTok 6 0x8000)) 1 3) = true ∧ asked0 (nodeH (chTok 7 7) (some (chTok 7 0x8000)) 1 3) = true ∧
    asked0 (nodeH (chTok 4 0x8000) none 1 3) = true ∧ twoTokens 4 = false ∧ asked0 (nodeH (chTok 0 5) none 1 3) = true ∧
    asked0 (nodeH (chTok 1 7) (some (chTok 1 5)) 1 3) = true ∧ asked0 (nodeH { chTok 0 5 with p := 1 } none 1 3) = true ∧
    asked0 (nodeH (chTok 8 1) none 5 3) = true := by decide +kernel
theorem wit_Node_places : (let s := nodeH (chTok 4 0x8000) none 1 3
      (match lanePlaces (fun L => spadCheck liveK (reqVal (chTok 4 0x8000) L).v.toNat) (reqLanes (chTok 4 0x8000)) with
        | .ok [(0, p)] => tagBehind s p 0 == false && tagReady s p 0 == false && tagReady s p 2 == true && tagReady { s with spad := (placeSetTag s p true).spad } p 0 == true
        | _ => false) = true) ∧
    (match lanePlaces (fun L => spadCheck liveK (reqVal (chTok 4 0x8001) L).v.toNat) (reqLanes (chTok 4 0x8001)) with | .error 0x104 => true | _ => false) = true ∧
    { liveK with board := [(9, 0x8000, 4)] }.boardBusy 0x8000 4 = true := by decide +kernel
/-- The places of the lanes of an index request, with the tensor at an address. -/
def lanesAt (b : Nat) : List (Nat × Nat) :=
  match lanePlaces (fun L => indexAddr { Ent.ofWords tensor with base := b } (reqVal (chTok 0 5) L).v.toNat) (reqLanes (chTok 0 5)) with
  | .ok as => as
  | .error _ => []
def faulted {α : Type} (r : Gw α × State) : Bool := match r.1 with | .fault _ => true | _ => false
theorem wit_Node_entries : (let s := nodeH (chTok 0 5) none 1 3
      (match nodeEntry inv1 liveK (elem s 0) with
        | .ok e => e.dense && indexedFmt e.fmt && isOk (devLoads liveK e (lanesAt e.base) s) && waitIn (devLoads liveK e (lanesAt 0x9000) (frozen s)) &&
            faulted (devLoads liveK e (lanesAt (2 ^ 40)) s) && isOk (gwStores 1 inv1 0 (devStores e (tok 0 7) (lanesAt e.base)) s) &&
            waitIn (gwStores 1 inv1 0 (devStores e (tok 0 7) (lanesAt 0x9000)) (frozen s)) &&
            faulted (gwStores 1 inv1 0 (devStores e (tok 0 7) (lanesAt (2 ^ 40))) s) && (match indexAddr e 128 with | .error 0x11D => true | _ => false)
        | _ => false) = true) ∧ (lanesAt 0x10000).length = 1 ∧
    (let s := nodeH (chTok 0 5) none 1 9
     (match nodeEntry inv1 liveK (elem s 0) with | .error 0x2C5 => true | _ => false) = true) ∧
    indexedFmt 5 = false ∧ (match burstReq inv1 liveK (elem (nodeH (chTok 8 5) none 5 3) 0) (tok 0 5) with | .error 0x11D => true | _ => false) = true := by
  decide +kernel
theorem wit_Node_waits : (node (nodeS [] (List.replicate 16 (nreq 2 false)) inv1 0) 0 0).reqs.length = 16 ∧ (nreq 2 false).ready = false ∧
    (mget (elem (nodeS [] [] inv1 0) 0).outB 0 []) = [] ∧ (node (nodeS [] [] inv1 0) 0 0).reqs = [] ∧ { nreq 8 false with out := [tok 10 0], done := true }.out ≠ [] ∧
    (elem (nodeS [] [] inv1 0) 0).tear = false ∧ (inv1.bound = 0) := by decide +kernel

theorem wit_Invoke_waits : { inv0 with loads := 1 }.loads ≠ 0 ∧ { liveK with invs := [inv1, { inv0 with id := 2 }] }.invs.any (fun u => u.started) = true ∧
    { liveK with invs := [inv1, { inv0 with id := 2 }] }.invs.find? (fun v => !v.started) = some { inv0 with id := 2 } ∧
    (let k := { liveK with invs := [inv0] }
     let s := { withD k base with elems := [(0, { cellX 1 [] with pend := [.clear] })] }
     (partElems s k).any (fun e => !(elem s e).pend.isEmpty) = true) ∧ takesPart base 0 = false := by decide +kernel
theorem wit_Milestone_cases : (let s := live liveK { burstX [tok 9 5] (some 1) with joined := some 1 } 0
      mileInBurst s 0 = some (cellTval 0 0 0)) ∧
    (let s := live liveK (cellX 3 [tok 0 5]) 0
     takeable s liveK inv1 0 = none ∧ mileInBurst s 0 = none) := by decide +kernel
/-- Two faults of one fc: of the earlier invocation first, then of the lower element. -/
theorem wit_Faults : let f : FaultDue := ⟨1, 3, 0x190, 3⟩
    let g : FaultDue := ⟨1, 5, 0x191, 5⟩
    { liveK with faultDue := some g }.faultDue = some g ∧ f.before g = true ∧ g.before f = false ∧ f.before { g with inv := 2, elem := 0 } = true ∧
    liveK.faultDue = none ∧ liveK.needRoll = false ∧ { inv1 with lost := true }.lost = true ∧ inv1.lost = false := by decide
def heldAt (pa : Nat) : Held := ⟨1, 0, 255, pa, 0, [1, 2, 3, 4], false⟩
theorem wit_WaveCommit : completeWave { liveK with miles := [] } = none ∧ heldFrozen (frozen base) [heldAt 0x9000] = some (.dev 0x9000) ∧
    heldFrozen base [heldAt 0x9000] = none := by decide
theorem wit_LockReleases_commit : commitWaits (holds [whole 0 4]) = false ∧
    commitWaits (withD { liveK with invs := [{ inv1 with seg := true }], miles := [⟨3, 0x400, false, true⟩], hold := [heldAt 0x9000] }
      (holds [whole 0 4])) = true := by decide

/-! ## Witnesses: clauses of the hub, links and hosts -/

/-- A gang of queue 5 that holds some of its members. -/
def gangOf (n size : Nat) : Gang := ⟨0, n, size, 5, [qrec (rec5 n 0)]⟩
/-- A record of gang 3 whose gang has two members. -/
def pairR : Rec := { rec5 3 0 with d3 := BitVec.ofNat 64 (3 * 2 ^ 32 + 1 * 2 ^ 26 + 5 * 2 ^ 16) }
theorem wit_LaunchWindow_stops : (List.replicate 31 (0 : Nat)).length ≠ 32 ∧ (4095 % 32 ≠ 0) ∧
    ({ rec5 0 0 with d0 := 1 }).bad (queue (hubQ 1 []) 5).asid false = true ∧ (queue (hubQ 3 []) 5).accepts = false ∧
    copyWaits { hubQ 1 [] with recWait := [qrec (rec5 0 0)] } 5 (rec5 0 0) = true ∧
    (queue (hubQ 1 (List.replicate 16 (qrec (rec5 0 0)))) 5).cap ≤ ((queue (hubQ 1 (List.replicate 16 (qrec (rec5 0 0)))) 5).lane 0).length := by decide
theorem wit_LaunchWindow_gangs : pairR.gang = 3 ∧ pairR.gsize = 2 ∧ pairR.bad 0 false = false ∧ gangAt (hubQ 1 []) 0 3 = none ∧
    copyWaits (hubQ 1 []) 5 pairR = false ∧
    (let g := gangOf 3 2
     let s := { hubQ 1 [] with gangs := [g] }
     gangAt s 0 3 = some g ∧ g.members = [qrec (rec5 3 0)] ∧ g.members.length < g.size ∧ g.size = pairR.gsize ∧ g.q = 5 ∧ copyWaits s 5 pairR = false) ∧
    (gangOf 3 1).size ≤ (gangOf 3 1).members.length ∧ (gangOf 3 4).members.length < (gangOf 3 4).size ∧ (gangOf 3 4).size ≠ pairR.gsize ∧
    (let s := { hubQ 1 [] with gangs := List.replicate 16 (gangOf 4 1) }
     gangAt s 0 3 = none ∧ 16 ≤ s.gangs.length) := by decide
theorem wit_QueueControl_stops : 11 < nb 12 3 0 ∧ (queue (hubQ 1 []) 5).state ≠ 0 ∧ (queue (hubQ 1 []) 5).state ≠ 4 ∧
    queueEmpty (hubQ 3 [qrec (rec5 0 0)]) 5 = false ∧ coresOf (worker 1 (some (rec5 0 0)) (hubQ 1 [])) 5 = [1] ∧
    (core (worker 1 (some (rec5 0 0)) (hubQ 1 [])) 1).restartPend = false := by decide
theorem wit_RecCopyEnter_stops : let s (st : Nat) (r : Rec) := { hubQ st [] with recWait := [qrec r] }
    (queue (s 3 (rec5 0 0)) 5).accepts = false ∧ ({ rec5 0 0 with d0 := 1 }).bad (queue (s 1 (rec5 0 0)) 5).asid true = true ∧
    (let u := { hubQ 1 [] with recWait := [qrec (rec5 0 0), qrec (rec5 0 0)] }
     copyWaits { u with recWait := u.recWait.take 1 } 5 (rec5 0 0) = true) := by decide

theorem wit_HubDispatch_none : (match selectNext (hubQ 1 []) with | .nothing => true | _ => false) = true := by decide
theorem wit_PwaitPreemption_waits : pwait { preS with hub := [] } = 0 ∧ ({ preS with pwaitBusy := some 1 }).pwaitBusy ≠ none ∧
    ({ preS with ns := 999 }).ns < 0 + pwait { preS with ns := 999 } * 1000 := by decide
theorem wit_JoinDecrement_stops :
    (match hubXlate { counting 2 false with decrs := [] } 1 false 0x200 needRW false with | (.error _, _) => true | _ => false) = true ∧
    (let s := frozen { placeWrite base (.dev 0x9000) (toBytes 8 2) false with decrs := [⟨0x9000, 0, true, false, 5, none⟩] }
     (hubXlate s 0 true 0x9000 needRW false).1.toOption = some (.dev 0x9000) ∧ (migAt s (.dev 0x9000)).isSome = true) ∧
    placeReadPois (placeWrite base (.dev 0x200) (toBytes 8 2) true) (.dev 0x200) 16 = true ∧
    leNat ((placeRead (counting 0 false) (.dev 0x200) 16).take 8) % 2 ^ 32 = 0 ∧
    (let s := placeWrite (counting 1 true) (.dev 0x208) (toBytes 8 0x400) false
     leNat ((placeRead s (.dev 0x200) 16).take 8) % 2 ^ 32 = 1 ∧ leNat ((placeRead s (.dev 0x200) 16).drop 8) ≠ 0) := by decide
/-- The record at 0x400. -/
def copyAt (st : Nat) (r : Rec) : State := placeWrite (hubQ st []) (.dev 0x400) (recBytes r) false
set_option maxRecDepth 4000 in
theorem wit_MakeCopy : (hubXlate (copyAt 1 (rec5 0 0)) 0 true 0x400 needR true).1.toOption = some (.dev 0x400) ∧
    Rec.ofBytes (placeRead (copyAt 1 (rec5 0 0)) (.dev 0x400) 32) = rec5 0 0 ∧ (rec5 0 0).cancelled.bad 0 true = false ∧
    (queue (copyAt 1 (rec5 0 0)) 5).accepts = true ∧ copyWaits (copyAt 1 (rec5 0 0)) 5 (rec5 0 0) = false ∧
    (queue (copyAt 3 (rec5 0 0)) 5).accepts = false ∧ placeReadPois (copyAt 1 (rec5 0 0)) (.dev 0x400) 32 = false := by decide
/-- A walk whose path waits for n tasks. -/
def pathWaits (n : Nat) (stop : Bool) : State :=
  { graphS [] with decrs := [⟨0, 0, false, true, 5, some (4, 6)⟩], walks := [{ gwalk with paths := [⟨6, 0, n, 0, 0xFFFF, 0xFFFF⟩], stopped := stop }] }
theorem wit_JoinDecrement_walk : ((pathWaits 2 false).walks.find? (fun w => w.id == 4)).bind (fun w => w.paths.find? (fun p => p.id == 6)) =
      some ⟨6, 0, 2, 0, 0xFFFF, 0xFFFF⟩ ∧ ((pathWaits 1 true).walks.map Walk.stopped) = [true] ∧ ((pathWaits 0 false).walks.map Walk.stopped) = [false] := by decide
theorem wit_GraphWalkStart_stops : (List.replicate 64 gwalk).length = 64 ∧ ({ graphRec with d0 := 0x2004 }).code % 64 ≠ 0 ∧
    (match walkRead gwalk (2 ^ 39) 64 (graphS []) with | (.fault _, _) => true | _ => false) = true ∧
    (match walkRead gwalk 0x9000 64 (frozen (graphS [])) with | (.wait (some p), _) => p == .dev 0x9000 | _ => false) = true := by decide
set_option maxRecDepth 4000 in
theorem wit_Graph_stops : readNode 1 (List.replicate 64 (0 : Byte)) = none ∧
    (let x : QRec := ⟨nodeRec gwalk ⟨0xFFFF, 0xFFFF, 0, 1, 0x500, 0x600, 0, 0, 0⟩ 0, 0, some (4, 6), none⟩
     copyWaits { graphS [] with recWait := [qrec (rec5 0 0)] } 5 x.r = true ∧ copyWaits (graphS []) 5 x.r = false ∧
     (match enter 5 x { graphS [] with queues := [(5, { Queue.reset with state := 1, lanes := [(0, List.replicate 16 x)] })] } with
       | .full => true | _ => false) = true) ∧
    (match walkRead gwalk 0x500 4 (placeWrite (graphS []) (.dev 0x500) (toBytes 4 1) false) with | (.ok cs, _) => leNat cs == 1 | _ => false) = true ∧
    (match loopDesc gwalk ⟨0xFFFF, 0xFFFF, 0, 4, 0x500, 0, 0, 0x200, 7⟩ (graphS []) with | (.ok (_, n), _) => n == 0 | _ => false) = true := by decide

theorem wit_CoreControl_states : ownerOk base 0 = false ∧ (gangCores base 1).all (canSave base) = false ∧
    gangCores (worker 1 (some (rec5 0 0)) base) 1 = [1] ∧ (thr base 1).district = none ∧
    (let k (f : CoreState → CoreState) := core (updCore (worker 1 none base) 1 f) 1
     (k id).dhalt = false ∧ (k id).dbrk = false ∧ (k id).regpar = false ∧ (k (fun k => { k with cstat := 2 })).cstat = 2 ∧
     (k (fun k => { k with regpar := true })).regpar = true ∧ (k (fun k => { k with cstat := 0 })).cstat = 0) ∧
    (Wait.load 5 8 false 0x40).enterable = false ∧
    (Wait.again 0).enterable = true ∧ sdataOk (worker 1 none base) 1 = false := by decide
theorem wit_PreemptSave_gang : let s := worker 4 (some (rec5 3 0)) base
    (gangCores s 1).all (saveReady s) = true ∧ gangCores s 1 = [1] ∧ (thr s 1).task.map (fun u => u.rec_.r.gang) = some 3 ∧
    (thr base 1).task = none ∧ (gangCores (worker 1 (some (rec5 0 0)) base) 1).all (saveReady (worker 1 (some (rec5 0 0)) base)) = false := by decide

theorem wit_MigrationStart_stops : (quarter (frozen base) 0).mig ≠ none ∧ (findLeaf 0 0 base).1 = none ∧ movable base 0 = false ∧
    sameHome base 255 255 = true ∧ (isLocal base 143 || isMember base 143) = false := by decide +kernel
theorem wit_MigrationEnd_queued : let r := { away 1 false with place := .dev 0x9040 }
    let m := { mig0 with queued := [.req r] }
    m.reqs = [r] ∧ r.core < 256 ∧ isLocal base m.newPeer = false ∧
    (let r := away 1 false
     let m := { mig0 with oldPeer := 3, newPeer := 255, queued := [.req r] }
     m.reqs = [r] ∧ r.place = .peer 3 0x40 ∧ r.kind = 1 ∧ isLocal base m.newPeer = true ∧ isLocal base m.oldPeer = false) := by decide
theorem wit_Remap : (255 : Nat).testBit 8 = false ∧ ((quarter base 0).remapEn = false) ∧ 31 % 32 ≥ 25 ∧ columnHeld base 0 24 = false ∧
    (let s := updQuarter base 0 (fun q => { q with remapEn := true, remapCol := 3 })
     (quarter s 0).remapEn = true ∧ 4 % 32 ≠ (quarter s 0).remapCol.toNat ∧ columnHeld s 0 3 = false) := by decide
theorem wit_MigrationEnd_order : let m := { mig0 with queued := [.party (.queue 1), .party (.queue 2)] }
    (base.reqs.any (m.holds base) = false ∧ m.queued.length = 2) ∧
    (let o (ok : Bool) (l : List Queued) : Migration := { mig0 with opened := some (2, 3, ok), queued := l }
     (quarter (updQuarter base 0 (fun q => { q with mig := some (o true []) })) 0).mig = some (o true []) ∧
     (o false []).opened = some (2, 3, false) ∧ (o true [.req (away 1 false)]).queued = [.req (away 1 false)] ∧
     (o true [.party (.queue 1)]).queued = [.party (.queue 1)]) := by decide
theorem wit_Patrol_again : let s := { base with weak := [(.dev 7, false)] }
    s.weak.contains (.dev 7, false) = true ∧ base.weak.contains (.dev 7, false) = false ∧ (7 : Nat) < 2 ^ 33 := by decide
theorem wit_RegisterWrite_width : ¬ (0x100000 ≤ 0x1F004 ∧ 0x1F004 < 0x140000) ∧ 0x1F004 % 8 ≠ 0 ∧ (4 : Nat) ≠ 8 ∧ 0x13FFF8 < 0x140000 := by decide
theorem wit_RegisterWrite : 4 % 8 ≠ 0 ∧ nb 1 2 0 = 1 ∧ (queue base 5).state = 0 ∧ (queue (hubQ 1 []) 5).asid.toNat = 0 / 2 ^ 48 % 2 ^ 16 := by decide

theorem wit_Link_states : (link { base with links := [(21, { Link.reset with retrain := [0] })] } 21).retrain ≠ [] ∧
    ({ Link.reset with lanes := mset Link.reset.lanes 0 3 }).lane 0 = 3 ∧ ({ Link.reset with dnab := true, dnba := true }).carries 0 = false ∧
    ({ Link.reset with lanes := [(0, 1), (8, 2)] }).width 0 = 1 ∧ ({ Link.reset with lanes := [(0, 1), (8, 2)] }).down 0 = false ∧
    cmdOk Link.reset 1 0 = false ∧ 17 < nb (18 * 256) 12 8 ∧ 21 < nb 22 4 0 := by decide
theorem wit_Link_ends : (link base 21).retrain.filter (fun x => x != 0) = [] ∧
    ({ Link.reset with retrain := [0, 1] }).retrain.filter (fun x => x != 0) ≠ [] ∧ Link.reset.txAck + 511 < Link.reset.txAck + 512 ∧
    ({ Link.reset with txAck := 3 }).txAck < 515 ∧ 515 ≤ 3 + 512 ∧ 1 < Link.reset.width 1 ∧ Link.reset.lane 8 = 2 ∧
    cmdOk Link.reset 2 17 = false := by decide
theorem wit_MembershipChange_mig : let s := { frozen base with members := [3], memberAt := [(20000, 3, false)], ns := 20000 }
    s.memberAt.filter (fun c => decide (c.1 ≤ s.ns)) = [(20000, 3, false)] ∧ (s.quarters.filter (fun q => q.2.mig.isSome)).length = 1 ∧
    ((quarter s 0).mig.map (fun m => m.names s 3)) = some true ∧ ({ base with memberAt := [(20000, 3, false)] }).ns < 20000 := by decide
/-- A neighbour whose link is down in both directions is gone, and its member of the group with it. -/
theorem wit_DeviceDeparture_member : ∃ j, let s := { grouped 0 with
      members := [neighbour], ids := [(neighbour, 4)], links := [(j, { Link.reset with dnab := true, dnba := true })] }
    linkTo neighbour = some j ∧ (link s j).dnab = true ∧ (link s j).dnba = true ∧ staysMember s neighbour = true ∧ inGroup s = true ∧
    s.gc.members.filter (fun m => nodeOf s m.1 == neighbour && !m.2.told) = [(4, member1)] ∧ inGroup { s with gc := .reset } = false ∧
    (link { s with links := [] } j).dnab = false ∧
    staysMember { s with memberAt := [(9, neighbour, false)] } neighbour = false := by
  obtain ⟨j, hj, -⟩ := linkTo_neighbour
  exact ⟨j, by simp [hj, link, mget, mget?, staysMember, isMember, grouped, base, State.reset, Link.reset, inGroup, nodeOf, member1,
    ClockGroup.reset]⟩
theorem wit_PeerDeparture : let s := { base with members := [143] }
    staysMember s 143 = true ∧ inGroup s = false ∧ staysMember base 143 = false := by decide
theorem wit_DomainJoin : isMember base 143 = false ∧ isMember { base with members := [143] } 143 = true := by decide
theorem wit_Membership_lost :
    (let s := { base with memberAt := [(20000, 3, false)], ns := 20000 }
     s.memberAt.filter (fun c => decide (c.1 ≤ s.ns)) = [(20000, 3, false)] ∧ isMember s 3 = false) ∧
    (let s := { base with
        members := [3], memberAt := [(20000, 3, false)], ns := 20000, reqs := [away 0 true] }
     isMember s 3 = true ∧ s.quarters.all (fun q => q.2.mig.isNone) = true ∧ (away 0 true).place.isAt 3 = true ∧ (away 0 true).wait = true ∧
     (away 0 true).kind = 0 ∧ (thr s (away 0 true).core).id = (away 0 true).thread ∧ s.reqs.all (fun r => !r.place.isAt 4) = true) := by decide
theorem wit_Leave : inGroup (grouped 0) = true ∧ (grouped 0).gc.leaving = none ∧ ownerOk base 1 = false := by decide

theorem wit_OwnerStale : ¬ (owned 2 false).trust.owner = 0 ∧ ({ owned 2 false with ns := 0 }).ns < 0 + ownerTimeout (owned 2 false) * 1000000 := by decide
theorem wit_Bar2_stops : 2 ^ 32 < (2 ^ 32 - 3) + [1, 2, 3, 4].length ∧ (owned 1 false).trust.owner ≠ 1 + 1 ∧
    (migAt (frozen (owned 1 false)) (.dev 0x9000)).isSome = true := by decide
theorem wit_Packet_operations : peerIdentity peers 1023 = 0 ∧ peerIdentity peers 1023 ≠ 5 ∧
    (failPacket ⟨1023, 0, 8, 0, 9, 0⟩ peers).engines.any (fun x => x.id == 9) = false := by decide
/-- A transfer whose own side stands at a page that moves, of which some bytes are to be written: the number is the free value that the step
draws. -/
def keptS : State := frozen { withE { eng 0x20 0x9000 0 0 64 with id := 9 } with packets := [] }
theorem wit_Packet_kept (h : (Config.free 0).toNat % 65 = 64) :
    (failPacket ⟨1023, 0, 8, 0, 9, 0⟩ keptS).engines.any (fun x => x.id == 9) = true := by
  have hf : freeBelow 64 keptS = (64, { keptS with freeIx := 1 }) := by
    simp only [freeBelow, drawFree]; exact Prod.ext h rfl
  have he : failPacket ⟨1023, 0, 8, 0, 9, 0⟩ keptS = failEngine { eng 0x20 0x9000 0 0 64 with id := 9 } keptS := rfl
  have hb : Engine.behind { eng 0x20 0x9000 0 0 64 with id := 9 } keptS = false := by decide
  have hl : (({ eng 0x20 0x9000 0 0 64 with id := 9 } : Engine)).len = 64 := rfl
  rw [he, failEngine, hb, hl, hf]
  decide
theorem wit_Packets_order : (1 : Nat) ≠ mget peers.peerSeq (2 * 1023) 0 ∧ peerValid peers 1022 = false ∧
    ({ peers with ns := 49999 }).ns < 0 + max 1 (bits (soCfg peers) 15 0) * 1000 := by decide

/-! ## Decoding: words of 03 R85 to R89, each field with a value of its own -/

theorem test_decode_integer_1 :
    decodeWords 0x0355EA80 0 = some (.add 21 11 26 5) ∧
    decodeWords 0x0355EA81 0 = some (.sub 21 11 26 5) ∧
    decodeWords 0x0355EA82 0 = some (.and 21 11 26 5) ∧
    decodeWords 0x0355EA83 0 = some (.or 21 11 26 5) ∧
    decodeWords 0x0355EA84 0 = some (.xor 21 11 26 5) ∧
    decodeWords 0x0355EA85 0 = some (.andn 21 11 26 5) ∧
    decodeWords 0x0355EA86 0 = some (.sll 21 11 26 5) ∧
    decodeWords 0x0355EA87 0 = some (.srl 21 11 26 5) ∧
    decodeWords 0x0355EA88 0 = some (.sra 21 11 26 5) ∧
    decodeWords 0x0355EA89 0 = some (.mul 21 11 26 5) ∧
    decodeWords 0x0355EA8A 0 = some (.mulhI64 21 11 26 5) ∧
    decodeWords 0x0355EA8B 0 = some (.mulhN64 21 11 26 5) ∧
    decodeWords 0x0355EA8C 0 = some (.divI64 21 11 26 5) ∧
    decodeWords 0x0355EA8D 0 = some (.divN64 21 11 26 5) ∧
    decodeWords 0x0355EA8E 0 = some (.remI64 21 11 26 5) ∧
    decodeWords 0x0355EA8F 0 = some (.remN64 21 11 26 5) := by decide
theorem test_decode_integer_2 :
    decodeWords 0x0355EA90 0 = some (.minI64 21 11 26 5) ∧
    decodeWords 0x0355EA91 0 = some (.maxI64 21 11 26 5) ∧
    decodeWords 0x0355EA92 0 = some (.minN64 21 11 26 5) ∧
    decodeWords 0x0355EA93 0 = some (.maxN64 21 11 26 5) ∧
    decodeWords 0x0355EA94 0 = some (.addsI32 21 11 26 5) ∧
    decodeWords 0x0355EA95 0 = some (.subsI32 21 11 26 5) ∧
    decodeWords 0x0355EA96 0 = some (.addsI64 21 11 26 5) ∧
    decodeWords 0x0355EA97 0 = some (.subsI64 21 11 26 5) ∧
    decodeWords 0x03558298 0 = some (.clz 21 11 5) ∧
    decodeWords 0x03558299 0 = some (.ctz 21 11 5) ∧
    decodeWords 0x0355829A 0 = some (.popc 21 11 5) := by decide
theorem test_decode_immediate :
    decodeWords 0x0555DA5C 0 = some (.addi 21 11 5 2652) ∧
    decodeWords 0x0755DA5C 0 = some (.andi 21 11 5 2652) ∧
    decodeWords 0x0955DA5C 0 = some (.ori 21 11 5 2652) ∧
    decodeWords 0x0B55DA5C 0 = some (.xori 21 11 5 2652) ∧
    decodeWords 0x0D55D02D 0 = some (.slli 21 11 5 45) ∧
    decodeWords 0x0D55D06D 0 = some (.srli 21 11 5 45) ∧
    decodeWords 0x0D55D0AD 0 = some (.srai 21 11 5 45) ∧
    decodeWords 0x0F5A5C3D 0 = some (.ldhi 21 678973) ∧
    decodeWords 0x115A5C3D 0 = some (.addpc 21 678973) ∧
    decodeWords 0x13500280 0x9ABCDEF1 = some (.li 21 5 2596069105) ∧
    decodeWords 0x13500281 0x9ABCDEF1 = some (.lih 21 5 2596069105) := by decide
theorem test_decode_predicate_1 :
    decodeWords 0x2055EA80 0 = some (.cmpEq 5 11 26 5) ∧
    decodeWords 0x2055EA81 0 = some (.cmpNe 5 11 26 5) ∧
    decodeWords 0x2055EA82 0 = some (.cmpLtI64 5 11 26 5) ∧
    decodeWords 0x2055EA83 0 = some (.cmpGeI64 5 11 26 5) ∧
    decodeWords 0x2055EA84 0 = some (.cmpLtN64 5 11 26 5) ∧
    decodeWords 0x2055EA85 0 = some (.cmpGeN64 5 11 26 5) ∧
    decodeWords 0x20519A88 0 = some (.kand 5 3 6 5) ∧
    decodeWords 0x20519A89 0 = some (.kor 5 3 6 5) ∧
    decodeWords 0x20519A8A 0 = some (.kxor 5 3 6 5) ∧
    decodeWords 0x20519A8B 0 = some (.kandn 5 3 6 5) ∧
    decodeWords 0x2051828C 0 = some (.knot 5 3 5) ∧
    decodeWords 0x2051828E 0 = some (.kmov 5 3 5) ∧
    decodeWords 0x2151828F 0 = some (.kget 21 3 5) ∧
    decodeWords 0x2155EB10 0 = some (.sel 21 11 26 6) ∧
    decodeWords 0x2255DA5C 0 = some (.cmpiEq 5 11 5 2652) ∧
    decodeWords 0x2455DA5C 0 = some (.cmpiLtI64 5 11 5 2652) := by decide
theorem test_decode_predicate_2 :
    decodeWords 0x2655DA5C 0 = some (.cmpiLtN64 5 11 5 2652) := by decide
theorem test_decode_branch :
    decodeWords 0x30BD5A3C 0 = some (.beq 11 26 23100) ∧
    decodeWords 0x32BD5A3C 0 = some (.bne 11 26 23100) ∧
    decodeWords 0x34BD5A3C 0 = some (.bltI64 11 26 23100) ∧
    decodeWords 0x36BD5A3C 0 = some (.bgeI64 11 26 23100) ∧
    decodeWords 0x38BD5A3C 0 = some (.bltN64 11 26 23100) ∧
    decodeWords 0x3ABD5A3C 0 = some (.bgeN64 11 26 23100) ∧
    decodeWords 0x3C305A3C 0 = some (.bk 3 23100) ∧
    decodeWords 0x3E305A3C 0 = some (.bnk 3 23100) := by decide
theorem test_decode_jump :
    decodeWords 0x41585A3C 0 = some (.call 21 547388) ∧
    decodeWords 0x4355DA5C 0 = some (.callr 21 11 5 2652) ∧
    decodeWords 0x4415DA5C 0 = some (.loop 1 11 5 2652) := by decide
theorem test_decode_load :
    decodeWords 0x5155DA5C 0 = some (.ldI8 21 11 5 2652) ∧
    decodeWords 0x5355DA5C 0 = some (.ldN8 21 11 5 2652) ∧
    decodeWords 0x5555DA5C 0 = some (.ldI16 21 11 5 2652) ∧
    decodeWords 0x5755DA5C 0 = some (.ldN16 21 11 5 2652) ∧
    decodeWords 0x5955DA5C 0 = some (.ldI32 21 11 5 2652) ∧
    decodeWords 0x5B55DA5C 0 = some (.ldN32 21 11 5 2652) ∧
    decodeWords 0x5D55DA5C 0 = some (.ldI64 21 11 5 2652) := by decide
theorem test_decode_store :
    decodeWords 0x61A5DA5C 0 = some (.stN8 26 11 5 2652) ∧
    decodeWords 0x63A5DA5C 0 = some (.stN16 26 11 5 2652) ∧
    decodeWords 0x65A5DA5C 0 = some (.stN32 26 11 5 2652) ∧
    decodeWords 0x67A5DA5C 0 = some (.stN64 26 11 5 2652) := by decide
theorem test_decode_tagged :
    decodeWords 0x69558280 0 = some (.tldTake 21 11 5) ∧
    decodeWords 0x69558281 0 = some (.tldKeep 21 11 5) ∧
    decodeWords 0x6805EA82 0 = some (.tstFill 11 26 5) ∧
    decodeWords 0x6805EA83 0 = some (.tstSet 11 26 5) ∧
    decodeWords 0x69558284 0 = some (.tagGet 21 11 5) ∧
    decodeWords 0x68058285 0 = some (.tagClr 11 5) := by decide
theorem test_decode_atomic :
    decodeWords 0x7155EAA0 0 = some (.amoAdd 21 11 26 5 1) ∧
    decodeWords 0x7155EAA1 0 = some (.amoAnd 21 11 26 5 1) ∧
    decodeWords 0x7155EAA2 0 = some (.amoOr 21 11 26 5 1) ∧
    decodeWords 0x7155EAA3 0 = some (.amoXor 21 11 26 5 1) ∧
    decodeWords 0x7155EAA4 0 = some (.amoMinSigned 21 11 26 5 1) ∧
    decodeWords 0x7155EAA5 0 = some (.amoMaxSigned 21 11 26 5 1) ∧
    decodeWords 0x7155EAA6 0 = some (.amoMinUnsigned 21 11 26 5 1) ∧
    decodeWords 0x7155EAA7 0 = some (.amoMaxUnsigned 21 11 26 5 1) ∧
    decodeWords 0x7155EAA8 0 = some (.amoSwap 21 11 26 5 1) ∧
    decodeWords 0x7155EAA9 0 = some (.amoCas 21 11 26 5 1) ∧
    decodeWords 0x7155EA8A 0 = some (.amoAddF32 21 11 26 5) ∧
    decodeWords 0x7155EA8B 0 = some (.amoSnap 21 11 26 5) ∧
    decodeWords 0x7005EA8C 0 = some (.amoVaddN32 11 26 5) ∧
    decodeWords 0x7005EA8D 0 = some (.amoVaddF32 11 26 5) ∧
    decodeWords 0x715582AE 0 = some (.amoLd 21 11 5 1) := by decide
theorem test_decode_order :
    decodeWords 0x74000284 0 = some (.fence 5 4) ∧
    decodeWords 0x7405828C 0 = some (.acq 11 5 4) ∧
    decodeWords 0x74058294 0 = some (.rel 11 5 4) ∧
    decodeWords 0x7555EA98 0 = some (.bind 21 11 26 5) ∧
    decodeWords 0x755002A0 0 = some (.unbind 21 5) ∧
    decodeWords 0x7605D05F 0 = some (.barInit 11 5 95) ∧
    decodeWords 0x7755D0DF 0 = some (.barArrive 21 11 5 95) ∧
    decodeWords 0x7755D15F 0 = some (.barWait 21 11 5 95) ∧
    decodeWords 0x7605D1DF 0 = some (.barSync 11 5 95) := by decide
theorem test_decode_lock :
    decodeWords 0x79558296 0 = some (.lkReq 21 11 5 2 6) ∧
    decodeWords 0x795582B6 0 = some (.lkTry 21 11 5 2 6) ∧
    decodeWords 0x795582D6 0 = some (.lkUp 21 11 5 2 6) ∧
    decodeWords 0x7A058280 0 = some (.lkRel 11 5) ∧
    decodeWords 0x7A000281 0 = some (.lkRelall 5) ∧
    decodeWords 0x7B558282 0 = some (.lkQuery 21 11 5) := by decide
theorem test_decode_region_1 :
    decodeWords 0x7D558280 0 = some (.txBegin 21 11 5) ∧
    decodeWords 0x7D500281 0 = some (.txEnd 21 5) ∧
    decodeWords 0x7C058282 0 = some (.txAbort 11 5) ∧
    decodeWords 0x7D500283 0 = some (.txStat 21 5) ∧
    decodeWords 0x81558280 0 = some (.spawn 21 11 5) ∧
    decodeWords 0x80000281 0 = some (.done 5) ∧
    decodeWords 0x8155EA82 0 = some (.joinInit 21 11 26 5) ∧
    decodeWords 0x81558283 0 = some (.chunk 21 11 5) ∧
    decodeWords 0x8355EA80 0 = some (.dacq 21 11 26 5) ∧
    decodeWords 0x82000281 0 = some (.drel 5) ∧
    decodeWords 0x8355EA82 0 = some (.cfgLoad 21 11 26 5) ∧
    decodeWords 0x8205EA83 0 = some (.cfgConst 11 26 5) ∧
    decodeWords 0x8355EA84 0 = some (.invoke 21 11 26 5) ∧
    decodeWords 0x82958285 0 = some (.sbind 9 11 5) ∧
    decodeWords 0x8295EA86 0 = some (.push 9 11 26 5) ∧
    decodeWords 0x83536A87 0 = some (.pull 21 6 26 5) := by decide
theorem test_decode_region_2 :
    decodeWords 0x82000288 0 = some (.drain 5) ∧
    decodeWords 0x82058289 0 = some (.ctxset 11 5) ∧
    decodeWords 0x8355828A 0 = some (.mstone 21 11 5) ∧
    decodeWords 0x8350028B 0 = some (.tdown 21 5) := by decide
theorem test_decode_engine :
    decodeWords 0x8555EA80 0x9ABCDEF1 = some (.dmaLd 21 11 26 5 2596069105) ∧
    decodeWords 0x8555EA81 0x9ABCDEF1 = some (.dmaSt 21 11 26 5 2596069105) ∧
    decodeWords 0x8555EA82 0x9ABCDEF1 = some (.dmaCp 21 11 26 5 2596069105) ∧
    decodeWords 0x8555EA83 0x9ABCDEF1 = some (.dmaGath 21 11 26 5 2596069105) ∧
    decodeWords 0x8755EA80 0 = some (.binApp 21 11 26 5) ∧
    decodeWords 0x8755EA81 0 = some (.binPlay 21 11 26 5) ∧
    decodeWords 0x8955EA80 0x9ABCDEF1 = some (.rput 21 11 26 5 2596069105) ∧
    decodeWords 0x8955EA81 0x9ABCDEF1 = some (.rget 21 11 26 5 2596069105) ∧
    decodeWords 0x8955EA82 0xE9680000 = some (.ramo 21 11 26 5 3915907072) ∧
    decodeWords 0x8A05EA80 0 = some (.tidWr 11 26 5) ∧
    decodeWords 0x8A05EA81 0 = some (.tidRd 11 26 5) ∧
    decodeWords 0x8D55EA80 0x9ABCDEF1 = some (.mtile 21 11 26 5 2596069105) ∧
    decodeWords 0x8D55EA81 0x9ABCDEF1 = some (.mbload 21 11 26 5 2596069105) ∧
    decodeWords 0x8D55EA82 0x9ABCDEF1 = some (.maccCp 21 11 26 5 2596069105) ∧
    decodeWords 0x8D558283 0x9ABCDEF1 = some (.maccZero 21 11 5 2596069105) := by decide
theorem test_decode_system_1 :
    decodeWords 0xA1505A5C 0 = some (.mfs 21 5 2652) ∧
    decodeWords 0xA205DA5C 0 = some (.mts 11 5 2652) ∧
    decodeWords 0xA400502D 0 = some (.trap 5 45) ∧
    decodeWords 0xA4005040 0 = some (.tack 5) ∧
    decodeWords 0xA4005080 0 = some (.eret 5) ∧
    decodeWords 0xA40050C0 0 = some (.idle 5) ∧
    decodeWords 0xA4005100 0 = some (.icinvAll 5) ∧
    decodeWords 0xA405D101 0 = some (.icinvLine 11 5) ∧
    decodeWords 0xA4005140 0 = some (.xinvAll 5) ∧
    decodeWords 0xA5505141 0 = some (.xinvSpace 21 5) ∧
    decodeWords 0xA555D142 0 = some (.xinvVa 21 11 5) ∧
    decodeWords 0xA605EA80 0 = some (.sig 11 26 5) ∧
    decodeWords 0xA755EA81 0 = some (.sethnd 21 11 26 5) ∧
    decodeWords 0xA955EA80 0 = some (.gcJoin 21 11 26 5) ∧
    decodeWords 0xA9500281 0 = some (.gcLeave 21 5) ∧
    decodeWords 0xA805EA82 0 = some (.gcAnn 11 26 5) := by decide
theorem test_decode_system_2 :
    decodeWords 0xA9558283 0 = some (.gcQuery 21 11 5) ∧
    decodeWords 0xFE000000 0 = some .brk := by decide

/-! ## Words that 03 R85 to R89 refuse -/

theorem test_decode_refuses : decodeWords 0 0 = none ∧ decodeWords 0x0272981B 0 = none ∧ decodeWords 0xFE000001 0 = none ∧
    decodeWords 0x02029818 0 = none ∧ decodeWords 0x70929C40 0 = none ∧ decodeWords 0x74000005 0 = none ∧ decodeWords 0x7800005F 0 = none ∧
    decodeWords 0x78000007 0 = none ∧ decodeWords 0x22A00001 0 = none := by decide

/-! ## Terms without an encoding, one for each check of 03 R85 to R89 and 06 R195 -/

theorem test_wf_registers : (Instr.add 32 0 0 0).wf = false ∧ (Instr.add 0 32 0 0).wf = false ∧ (Instr.add 0 0 32 0).wf = false ∧
    (Instr.add 0 0 0 8).wf = false ∧ (Instr.cmpEq 8 0 0 0).wf = false ∧ (Instr.kand 0 8 0 0).wf = false ∧ (Instr.kand 0 0 8 0).wf = false ∧
    (Instr.sel 0 0 0 8).wf = false ∧ (Instr.sbind 16 0 0).wf = false ∧ (Instr.pull 0 16 0 0).wf = false ∧ (Instr.add 31 31 31 7).wf = true := by decide
theorem test_wf_immediates : (Instr.addi 0 0 0 4096).wf = false ∧ (Instr.ldhi 0 1048576).wf = false ∧ (Instr.call 0 1048576).wf = false ∧
    (Instr.beq 0 0 32768).wf = false ∧ (Instr.slli 0 0 0 64).wf = false ∧ (Instr.li 0 0 4294967296).wf = false ∧ (Instr.loop 2 0 0 1).wf = false ∧
    (Instr.loop 0 0 0 0).wf = false ∧ (Instr.trap 0 64).wf = false ∧ (Instr.addi 31 31 7 4095).wf = true := by decide
theorem test_wf_selectors : (Instr.amoAdd 0 0 0 0 2).wf = false ∧ (Instr.fence 0 5).wf = false ∧ (Instr.barInit 0 0 96).wf = false ∧
    (Instr.lkReq 0 0 0 3 0).wf = false ∧ (Instr.lkReq 0 0 0 0 7).wf = false ∧ (Instr.ramo 0 0 0 0 1).wf = false ∧
    (Instr.ramo 0 0 0 0 0x000B0000).wf = false ∧ (Instr.ramo 0 0 0 0 0x002A0000).wf = false ∧ (Instr.ramo 0 0 0 0 0x002E0000).wf = true := by decide

/-! ## Single steps against the worked examples of the spec -/

/-- What a step leaves, where it leaves a state. -/
def after {α : Type} (o : Out) (f : State → α) : Option α :=
  match o with
  | .next t => some (f t)
  | _ => none

/-- 04 R104: −15 by 4. -/
theorem test_division : let s := regs [(1, 0xFFFFFFFFFFFFFFF1), (2, 4)] base
    after (exec (.divI64 3 1 2 0) s) (fun t => rx t 3) = some 0xFFFFFFFFFFFFFFFD ∧
    after (exec (.remI64 3 1 2 0) s) (fun t => rx t 3) = some 0xFFFFFFFFFFFFFFFD := by decide
/-- 05 R153: the constants of its routine. -/
theorem test_constants : after (exec (.ldhi 6 0xFFFF0) base) (fun t => rx t 6) = some 0xFFFFFFFFFFFF0000 ∧
    after (exec (.lih 5 0 0x10) (regs [(5, 0x4000)] base)) (fun t => (rx t 5, (th t).pc)) = some (0x1000004000, 8) := by decide
/-- A whole step fetches, decodes and runs: `add x10, x10, x11`. -/
theorem test_step_add : after (step (regs [(10, 7), (11, 5)] atAdd)) (fun t => (rx t 10, (th t).pc)) = some (12, 0x1004) := by decide
/-- 03 R90; 04 R124: a word that is no instruction enters the trap handler with itself in CC_TVAL. -/
theorem test_step_illegal : after (step (State.reset.withFetchWord 32 0x0272981B)) (fun t => ((th t).cause, (th t).tval, (th t).status.intrap)) =
    some (⟨false, 0x001⟩, 0x0272981B, true) := by decide
set_option maxRecDepth 8000 in
/-- 12 R312: with lanes of 16 records from 0x4000 on, the second record of lane 1 stands at 0x4000 + 32 × 17. -/
theorem test_ring_slot :
    let r : Rec := ⟨0x2000, 0x3000, 0, 0x1050000⟩
    after (exec (.launchWindowWrite 2 0x5000 ((recBytes r).map BitVec.toNat))
      (updQueue 5 (fun k => { k with base := 4, tails := [(1, 1)] }) (hubQ 1 [])))
      (fun t => (placeRead t (.dev 0x4220) 32, (queue t 5).tails)) = some (recBytes r, [(1, 2)]) := by decide
/-- 17 R395: bad parity in x11 is repaired from the replay queue, and the sum stands. -/
theorem test_upset_repaired : after (step (upset (.reg 0 11 false) .one (core0 (fun k => { k with replay := [11] }) (regs [(10, 7), (11, 5)] atAdd))))
    (fun t => (rx t 10, (quarter t 0).parfix, (quarter t 0).trans)) = some (12, 1, 1) := by decide
/-- 17 R395, R400: when the producer has left the queue, the core halts with REGPAR and the register number. -/
theorem test_upset_regpar : after (step (upset (.reg 0 11 false) .one atAdd))
    (fun t => ((core t 0).dcause, (core t 0).dtval, (core t 0).cstat, (quarter t 0).last)) = some (⟨false, 0x0C2⟩, 11, 3, 1) := by decide
/-- 17 R393, R394: two bits in word 3 of a local memory count as uncorrectable and leave the mark; the next whole word
clears it. -/
theorem test_upset_local : let t := upset (.loc 5 3) .two base
    placePois t (.loc 5 12) = true ∧ (quarter t 0).sramue = 1 ∧
    placePois (placeWrite t (.loc 5 12) [1, 2, 3, 4] false) (.loc 5 12) = false := by decide
/-- 17 R393: a clean line of an instruction cache is dropped, which counts as one corrected error. -/
theorem test_upset_icache : let t := upset (.icache 0 7) .two (core0 (fun k => { k with icache := [(7, ⟨[], []⟩)] }) base)
    (core t 0).icache = [] ∧ (quarter t 0).sramce = 1 ∧ (quarter t 0).sramue = 0 := by decide
/-- 05 R153: the local words 1 to 16 at 0xFF_FFFF_FFFF_0000 and counters of 100, word 3 all ones. -/
def counters : State :=
  let s := placeWrite base (.loc 0 0) ((List.range 16).flatMap (fun i => toBytes 4 (i + 1))) false
  regs [(5, 0x4000), (7, 0x4040), (8, 0xFFFFFFFFFFFF000F)]
    (placeWrite s (.dev 0x4000) ((List.range 16).flatMap (fun i => toBytes 4 (if i = 3 then 0xFFFFFFFF else 100))) false)
set_option maxRecDepth 8000 in
theorem test_vadd : after (exec (.amoVaddN32 5 8 0) counters) (fun t => [0, 3, 15].map (fun i => leNat (placeRead t (.dev (0x4000 + 4 * i)) 4))) =
    some [101, 3, 116] := by decide +kernel
theorem test_snap : after (exec (.amoSnap 9 5 7 0) (placeWrite counters (.dev 0x4000) ((List.range 16).flatMap (fun i =>
      toBytes 4 (if i = 3 then 3 else 101 + i))) false)) (fun t => (rx t 9, leNat (placeRead t (.dev 0x4000) 64), leNat (placeRead t (.dev 0x407C) 4))) =
    some (0x663, 0, 116) := by decide +kernel
/-- 06 R204: 100 items, four workers, at least 4 at a time: the first chunk has 13, and the last 3 remain. -/
def items (next : Nat) : State := regs [(1, 0x200)] (placeWrite base (.dev 0x200) (toBytes 4 next ++ toBytes 4 100 ++ toBytes 4 4 ++ toBytes 4 4) false)
theorem test_chunk : after (exec (.chunk 2 1 0) (items 0)) (fun t => (rx t 2, leNat (placeRead t (.dev 0x200) 4))) = some (13, 13) ∧
    after (exec (.chunk 2 1 0) (items 97)) (fun t => (rx t 2, leNat (placeRead t (.dev 0x200) 4))) = some (97 * 2 ^ 32 + 3, 100) := by decide
/-- 06 R191: `dma.ld` of rows 2 to 5 of the BF16 entry T5 into the window: 512 bytes, covered by the scoreboard. -/
def tile5 : State :=
  { withD dist0 (regs [(20, 0xFFFFFFFFFFFF0100), (21, 0xFFFFFFFFF8000000), (22, 0x02000000)] base) with
    tid := [(tidKey 0 5, [0x89, 0x1000200000, 0, 0x0000000800000040, 0x0000000100000001, 128, 0, 0])] }
theorem test_dmaLd : after (exec (.dmaLd 20 21 22 0 0x00500C3F) tile5) (fun t => (t.engines.map (fun e => (e.kind, e.len, e.near)),
      (t.districts.map (fun d => d.2.board.map (fun b => b.2))))) =
    some ([(0x10, 512, 0xFFFFFFF8000000)], [[(0, 512)]]) ∧
    ((Ent.ofWords [0x89, 0x1000200000, 0, 0x0000000800000040, 0x0000000100000001, 128, 0, 0]).addr 2 0) = 0x1000200100 := by decide
/-- 01 R35: 3.0, 1.5 × 2⁻⁹, 2.5 × 2⁻⁹ and −1.0 in BF16 against 1, 3, 5 and 7. -/
theorem test_row_step : let r := makeRow false 2 (.al bf16 12) [(0x4040, false), (0x3B40, false), (0x3BA0, false), (0xBF80, false)] [(0x3F80, false)] 32
    let m := { Mat.zero with kk := 4, b := [(0, ⟨1, 0, false⟩), (1, ⟨3, 0, false⟩), (2, ⟨5, 0, false⟩), (3, ⟨7, 0, false⟩)] }
    r.ints.map BElem.i = [1536, 2, 2, -512] ∧ r.units = [-9] ∧ (accWord false m r 0 0).1.v = 0xC07E0000 := by decide +kernel
/-- 07 R229: the pruning context, and its token. -/
def pruneX : Elem :=
  { Elem.reset with
    fields := [(0, 0x0B122000), (1, 0xD0106101), (2, 0xD4246101), (0x48, 0x00040001), (0x60, 0x1300), (0x70, 5), (0x74, 5), (0x75, 5),
      (0xC0, 0x40000000), (0xC1, 2)],
    inB := [(0, [⟨true, 0, 0, 0, 0xFFFF, BitVec.ofNat 512 ([0x3F800000, 0xC0400000, 0x3F000000, 0x40000000, 0, 0, 0xBF800000, 0x3F800000,
      0x40800000, 0x40800000, 0xC0800000, 0x3E800000, 0x40E00000, 0xBF000000, 0x3F000000, 0xBF000000].foldr (fun w a => w + 2 ^ 32 * a) 0), 1, 1, []⟩])],
    actCtx := [0], joined := some 1 }
theorem test_prune : let x := emitData pruneX 0 (ctxCh pruneX 0 0) (fireStages pruneX 0 0 0).1 (fireStages pruneX 0 0 0).2
    (mget x.outB 0 []).map (fun t => ((List.range 16).map (fun i => (t.lane i).toNat), t.lv)) = [([0, 0xC0C00000, 0, 0x40800000, 0, 0, 0xC0000000,
      0x40000000, 0x41000000, 0x41000000, 0, 0, 0x41600000, 0xBF800000, 0, 0], 0xFFFF)] ∧
    (mget x.outB 1 []).map (fun t => (t.lane 0, t.lane 15, t.lv)) = [(0x33CA, 0x33CA, 0xFFFF)] := by decide +kernel
/-- 18 R411: lanes 2, 5 and 6 fail, lanes 16 and 17 join AB, and lane 15 turns. -/
def trainedAs (w : Nat) (s : State) : State :=
  (after (if nb w 21 20 = 1 then execSpare 2 w s else execTurn 2 w s) (fun t => (after (execLaneTrained 0 1 t) id).getD t)).getD s
theorem test_link : let failed := [2, 5, 6].foldl (fun s i => (after (execLaneFail 0 i s) id).getD s) { base with device := 5 }
    let s := [2 ^ 20 + 16 * 256, 2 ^ 20 + 17 * 256, 2 * 2 ^ 20 + 15 * 256].foldl (fun s w => trainedAs w s) failed
    (link s 0).width 0 = 8 ∧ (link s 0).width 1 = 7 ∧ (link (trainedAs (2 * 2 ^ 20 + 14 * 256) s) 0).width 0 = 9 := by decide
end Sys2Proof.Machine.Tests
end

section
/-! PROOFS. What the elements, the switches and the districts of a state hold after each update of one of them. -/

namespace Sys2Proof.Machine

/-! ## Finite maps -/

@[simp] theorem mget_mdel_same {α : Type} (m : SMap α) (k : Nat) (d : α) : mget (mdel m k) k d = d := by simp [mget]

@[simp] theorem mget_mdel_other {α : Type} (m : SMap α) (k k' : Nat) (d : α) (h : k' ≠ k) : mget (mdel m k) k' d = mget m k' d := by
  simp [mget, h]

/-! ## Elements -/

@[simp] theorem elem_setElem_same (s : State) (e : Nat) (x : Elem) : elem (setElem s e x) e = x := by simp [elem, setElem]

@[simp] theorem elem_setElem_other (s : State) (e i : Nat) (x : Elem) (h : i ≠ e) : elem (setElem s e x) i = elem s i := by
  simp [elem, setElem, h]

@[simp] theorem elem_updElem_same (s : State) (e : Nat) (f : Elem → Elem) : elem (updElem s e f) e = f (elem s e) := by simp [updElem]

@[simp] theorem elem_updElem_other (s : State) (e i : Nat) (f : Elem → Elem) (h : i ≠ e) : elem (updElem s e f) i = elem s i := by
  simp [updElem, h]

@[simp] theorem updElem_districts (s : State) (e : Nat) (f : Elem → Elem) : (updElem s e f).districts = s.districts := rfl

@[simp] theorem switch_setElem (s : State) (e b : Nat) (x : Elem) : switch (setElem s e x) b = switch s b := rfl
@[simp] theorem switch_updElem (s : State) (e b : Nat) (f : Elem → Elem) : switch (updElem s e f) b = switch s b := rfl

/-- Elements are read from the state's list of them alone. -/
theorem elem_of_elems {s t : State} (h : t.elems = s.elems) (e : Nat) : elem t e = elem s e := by simp [elem, h]

/-- Switches are read from the state's list of them alone. -/
theorem switch_of_switches {s t : State} (h : t.switches = s.switches) (b : Nat) : switch t b = switch s b := by simp [switch, h]

/-! ## Switches -/

@[simp] theorem switch_updSwitch_same (s : State) (b : Nat) (f : Switch → Switch) : switch (updSwitch s b f) b = f (switch s b) := by
  simp [switch, updSwitch]

@[simp] theorem switch_updSwitch_other (s : State) (b i : Nat) (f : Switch → Switch) (h : i ≠ b) :
    switch (updSwitch s b f) i = switch s i := by
  simp [switch, updSwitch, h]

@[simp] theorem updSwitch_districts (s : State) (b : Nat) (f : Switch → Switch) : (updSwitch s b f).districts = s.districts := rfl
@[simp] theorem updSwitch_elems (s : State) (b : Nat) (f : Switch → Switch) : (updSwitch s b f).elems = s.elems := rfl
@[simp] theorem elem_updSwitch (s : State) (b e : Nat) (f : Switch → Switch) : elem (updSwitch s b f) e = elem s e := rfl

/-! ## Districts -/

@[simp] theorem updDist_elems (s : State) (d : Nat) (f : District → District) : (updDist s d f).elems = s.elems := by
  unfold updDist; split <;> rfl
@[simp] theorem updDist_switches (s : State) (d : Nat) (f : District → District) : (updDist s d f).switches = s.switches := by
  unfold updDist; split <;> rfl
@[simp] theorem elem_updDist (s : State) (d e : Nat) (f : District → District) : elem (updDist s d f) e = elem s e :=
  elem_of_elems (updDist_elems s d f) e
@[simp] theorem switch_updDist (s : State) (d b : Nat) (f : District → District) : switch (updDist s d f) b = switch s b :=
  switch_of_switches (updDist_switches s d f) b

theorem mget?_updDist {s : State} {d : Nat} {k : District} (f : District → District) (h : mget? s.districts d = some k) :
    mget? (updDist s d f).districts d = some (f k) := by
  simp [updDist, h]

/-! ## Settings of a switch (09 R271) -/

@[simp] theorem allotTrack_districts (k : District) (b i : Nat) (drives : Bool) (s : State) :
    (allotTrack k b i drives s).districts = s.districts := by
  unfold allotTrack; dsimp only; split <;> rfl
@[simp] theorem allotTrack_elems (k : District) (b i : Nat) (drives : Bool) (s : State) :
    (allotTrack k b i drives s).elems = s.elems := by
  unfold allotTrack; dsimp only; split <;> rfl
@[simp] theorem allotTrack_switches (k : District) (b i : Nat) (drives : Bool) (s : State) :
    (allotTrack k b i drives s).switches = s.switches := by
  unfold allotTrack; dsimp only; split <;> rfl
@[simp] theorem switch_allotTrack (k : District) (b i c : Nat) (drives : Bool) (s : State) :
    switch (allotTrack k b i drives s) c = switch s c :=
  switch_of_switches (allotTrack_switches k b i drives s) c

@[simp] theorem switchSet_districts (k : District) (b dest src : Nat) (s : State) :
    (switchSet k b dest src s).districts = s.districts := by simp [switchSet]
@[simp] theorem switchSet_elems (k : District) (b dest src : Nat) (s : State) : (switchSet k b dest src s).elems = s.elems := by
  simp [switchSet]

theorem mem_addSource (l : List Nat) (x : Nat) : x ∈ addSource l x := by
  unfold addSource; split <;> simp_all

theorem mem_sources_switchSet (k : District) (b dest src : Nat) (s : State) :
    src ∈ (switch (switchSet k b dest src s) b).sources dest := by
  simp [switchSet, Switch.sources, mem_addSource]

@[simp] theorem pend_switchSet (k : District) (b dest src : Nat) (s : State) :
    (switch (switchSet k b dest src s) b).pend = (switch s b).pend := by simp [switchSet]

@[simp] theorem switchClear_districts (b dest : Nat) (s : State) : (switchClear b dest s).districts = s.districts := rfl

theorem switch_switchClear (b dest : Nat) (s : State) : switch (switchClear b dest s) b =
    { switch s b with drive := mdel (switch s b).drive dest, burst := mdel (switch s b).burst dest, made := mdel (switch s b).made dest } := by
  simp [switchClear, freeTracks, switch, updSwitch]

@[simp] theorem sources_switchClear_same (b dest : Nat) (s : State) : (switch (switchClear b dest s) b).sources dest = [] := by
  simp [switch_switchClear, Switch.sources]

theorem sources_switchClear_other (b dest i : Nat) (s : State) (h : i ≠ dest) :
    (switch (switchClear b dest s) b).sources i = (switch s b).sources i := by
  simp [switch_switchClear, Switch.sources, h]

@[simp] theorem held_switchClear (b dest : Nat) (s : State) : (switch (switchClear b dest s) b).held = (switch s b).held := by
  funext i; simp [switch_switchClear, Switch.held]

@[simp] theorem pend_switchClear (b dest : Nat) (s : State) : (switch (switchClear b dest s) b).pend = (switch s b).pend := by
  simp [switch_switchClear]

end Sys2Proof.Machine
end

section
/-! PROOFS. What a write, a group and a CLEAR of a configuration stream do to the elements and switches (02 R65 to R70). -/

namespace Sys2Proof.Machine

/-! ## Fields of an element (02 R66) -/

/-- A field of the array that only writes of 0 reach holds no value (01 R29). -/
def writable (f : Nat) : Prop := f < 0xD1 ∨ 0xE0 ≤ f

theorem foldl_seedCtx_fields (l : List Nat) (v : W32) : ∀ (x : Elem), (l.foldl (fun x j => seedCtx j v x) x).fields = x.fields := by
  induction l with
  | nil => intro x; rfl
  | cons j l ih => intro x; exact ih (seedCtx j v x)

theorem Elem.setField_fields (e f : Nat) (v : W32) (x : Elem) : (Elem.setField e f v x).fields =
    if 0xD1 ≤ f ∧ f < 0xE0 then x.fields else if v = 0 then mdel x.fields f else mset x.fields f v := by
  unfold Elem.setField
  dsimp only
  split
  · rfl
  · split
    · rfl
    · split
      · exact foldl_seedCtx_fields _ _ _
      · split
        · split <;> rfl
        · rfl

theorem Elem.field_setField_same {f : Nat} (e : Nat) (v : W32) (x : Elem) (h : writable f) : (Elem.setField e f v x).field f = v := by
  have hf : ¬ (0xD1 ≤ f ∧ f < 0xE0) := by unfold writable at h; omega
  unfold Elem.field
  rw [Elem.setField_fields, if_neg hf]
  split
  · next h0 => simp [h0]
  · simp

theorem Elem.field_setField_other {f j : Nat} (e : Nat) (v : W32) (x : Elem) (h : j ≠ f) :
    (Elem.setField e f v x).field j = x.field j := by
  unfold Elem.field
  rw [Elem.setField_fields]
  split
  · rfl
  · split <;> simp [h]

@[simp] theorem setField_districts (e f : Nat) (v : W32) (s : State) : (setField e f v s).districts = s.districts := rfl

theorem field_setField_same {f : Nat} (e : Nat) (v : W32) (s : State) (h : writable f) : (elem (setField e f v s) e).field f = v := by
  simp [setField, Elem.field_setField_same e v _ h]

/-- A write leaves every other field of every element alone. -/
theorem field_setField_other {e f i j : Nat} (v : W32) (s : State) (h : i ≠ e ∨ j ≠ f) :
    (elem (setField e f v s) i).field j = (elem s i).field j := by
  by_cases hi : i = e
  · subst hi
    simp [setField, Elem.field_setField_other i v _ (h.resolve_left (fun n => n rfl))]
  · simp [setField, hi]

/-! ## Groups (02 R68) -/

/-- The writes of a group applied one after another. -/
def applyWrites (l : List (Nat × Nat × W32)) (s : State) : State := l.foldl (fun s p => setField p.1 p.2.1 p.2.2 s) s

theorem commitGroup_eq (d : Nat) (l : List (Nat × Nat × W32)) (s : State) :
    commitGroup d l s = applyWrites l (updDist s d (fun k => { k with staging := none })) := rfl

@[simp] theorem applyWrites_districts (l : List (Nat × Nat × W32)) : ∀ (s : State), (applyWrites l s).districts = s.districts := by
  induction l with
  | nil => intro s; rfl
  | cons p l ih => intro s; exact ih (setField p.1 p.2.1 p.2.2 s)

theorem field_applyWrites_other {e f : Nat} (l : List (Nat × Nat × W32)) : ∀ (s : State), (∀ (j : Nat) (u : W32), l[j]? ≠ some (e, f, u)) →
    (elem (applyWrites l s) e).field f = (elem s e).field f := by
  induction l with
  | nil => intro s _; rfl
  | cons p l ih =>
    intro s h
    have hp : e ≠ p.1 ∨ f ≠ p.2.1 := by
      have h0 := h 0 p.2.2
      by_contra hc
      push Not at hc
      exact h0 (by simp [hc.1, hc.2])
    exact (ih (setField p.1 p.2.1 p.2.2 s) (fun j u => h (j + 1) u)).trans (field_setField_other p.2.2 s hp)

/-- The last write of a group to a field is the one that stands. -/
theorem field_applyWrites_last {e f : Nat} {v : W32} (hf : writable f) (l : List (Nat × Nat × W32)) : ∀ (s : State) (i : Nat),
    l[i]? = some (e, f, v) → (∀ (j : Nat) (u : W32), i < j → l[j]? ≠ some (e, f, u)) → (elem (applyWrites l s) e).field f = v := by
  induction l with
  | nil => intro s i h; simp at h
  | cons p l ih =>
    intro s i h hlast
    cases i with
    | zero =>
      have hp : p = (e, f, v) := by simpa using h
      subst hp
      exact (field_applyWrites_other l _ (fun j u => hlast (j + 1) u (by omega))).trans (field_setField_same e v s hf)
    | succ i => exact ih _ i h (fun j u hj => hlast (j + 1) u (by omega))

/-! ## CLEAR (02 R64; 09 R278) -/

/-- The settings of some destinations of a switch go. -/
def clearDests (b : Nat) (l : List Nat) (s : State) : State := l.foldl (fun s i => switchClear b i s) s

theorem clearSwitch_eq (b : Nat) (s : State) : clearSwitch b s = clearDests b ((switch s b).drive.map Prod.fst) s := rfl

@[simp] theorem clearDests_elems (b : Nat) (l : List Nat) : ∀ (s : State), (clearDests b l s).elems = s.elems := by
  induction l with
  | nil => intro s; rfl
  | cons i l ih => intro s; exact ih (switchClear b i s)

@[simp] theorem clearDests_districts (b : Nat) (l : List Nat) : ∀ (s : State), (clearDests b l s).districts = s.districts := by
  induction l with
  | nil => intro s; rfl
  | cons i l ih => intro s; exact ih (switchClear b i s)

/-- A destination is without sources once it is among those cleared, or where it had none before. -/
theorem sources_clearDests {b i : Nat} (l : List Nat) : ∀ (s : State), i ∈ l ∨ (switch s b).sources i = [] →
    (switch (clearDests b l s) b).sources i = [] := by
  induction l with
  | nil => intro s h; simpa [clearDests] using h
  | cons j l ih =>
    intro s h
    refine ih (switchClear b j s) ?_
    by_cases hij : i = j
    · subst hij; exact .inr (sources_switchClear_same b i s)
    · rw [sources_switchClear_other b j i s hij]
      simpa [hij] using h

@[simp] theorem clearElem_districts (e : Nat) (keep : Bool) (s : State) : (clearElem e keep s).districts = s.districts := by
  unfold clearElem
  cases keep <;> dsimp only <;> split <;> simp [clearSwitch_eq]

theorem elem_clearElem (e : Nat) (keep : Bool) (s : State) :
    elem (clearElem e keep s) e = if keep then (elem s e).toPool else .reset := by
  have hs : elem (if keep then updElem s e Elem.toPool else { s with elems := mdel s.elems e }) e =
      if keep then (elem s e).toPool else .reset := by
    cases keep
    · simp [elem]
    · simp
  unfold clearElem
  dsimp only
  split
  · rw [clearSwitch_eq, elem_of_elems (clearDests_elems _ _ _), hs]
  · exact hs

/-- A CLEAR of a block's origin leaves no setting of the block's switch (02 R66). -/
theorem sources_clearElem {e i : Nat} (keep : Bool) (s : State) (hx : elemX e % 8 = 0) (hy : elemY e % 8 = 0)
    (hi : i ∈ (switch s (elemBlock e)).drive.map Prod.fst) : (switch (clearElem e keep s) (elemBlock e)).sources i = [] := by
  unfold clearElem
  rw [if_pos ⟨hx, hy⟩, clearSwitch_eq]
  refine sources_clearDests _ _ (.inl ?_)
  cases keep <;> exact hi

/-! ## One field write (02 R65 to R70) -/

/-- A write that its checks let through: outside a wave a constant finds room in an open group, and another field an element that does not run. -/
def WriteFits (k : District) (run : CfgRun) (e f : Nat) (u : State) (v : W32) : Prop :=
  writeCheck u k run.wave e f v = none ∧ (run.wave = false →
    (isConstField f = true → ∀ l, k.staging = some l → l.length < 64) ∧ (isConstField f = false → writeBusy u k e f = false))

/-- A write that a check refuses for a cause. -/
def WriteRefused (k : District) (run : CfgRun) (e f : Nat) (u : State) (v : W32) (c : BitVec 10) : Prop :=
  writeCheck u k run.wave e f v = some c ∨
    (writeCheck u k run.wave e f v = none ∧ run.wave = false ∧
      ((c = 0x147 ∧ isConstField f = true ∧ ∃ l, k.staging = some l ∧ 64 ≤ l.length) ∨
        (c = 0x148 ∧ isConstField f = false ∧ writeBusy u k e f = true)))

/-- What a write outside a wave leaves: its field, a longer group, or a setting of the switch. -/
def WroteNow (k : District) (e f : Nat) (u t : State) (k' : District) (v : W32) : Prop :=
  (isSwitchField e f = false → (isConstField f = true → k.staging = none) → (f < 0xD1 ∨ 0xE0 ≤ f) → (elem t e).field f = v) ∧
  (∀ l, isConstField f = true → k.staging = some l → k'.staging = some (l ++ [(e, f, v)]) ∧ t.elems = u.elems) ∧
  (isSwitchField e f = true → f = 0x80 → v.toNat % 2 ^ 16 ∈ (switch t (elemBlock e)).sources (v.toNat / 2 ^ 16)) ∧
  (isSwitchField e f = true → f = 0x81 → (switch t (elemBlock e)).sources (v.toNat / 2 ^ 16) = [])

/-- What a write in a wave leaves: a pending command of its element or its switch. -/
def WrotePending (k : District) (e f : Nat) (u t : State) (v : W32) : Prop :=
  (isSwitchField e f = false → (elem t e).pend = (elem u e).pend ++ [.write f v] ∧ ∀ i, (elem t e).field i = (elem u e).field i) ∧
  (isSwitchField e f = true → (switch t (elemBlock e)).pend = (switch u (elemBlock e)).pend ++
    [(v.toNat / 2 ^ 16, if f = 0x80 then some (v.toNat % 2 ^ 16) else none, lastInv k)] ∧ t.elems = u.elems)

def Wrote (k : District) (run : CfgRun) (e f : Nat) (u t : State) (k' : District) (v : W32) : Prop :=
  (run.wave = false → WroteNow k e f u t k' v) ∧ (run.wave = true → WrotePending k e f u t v)

/-- What a write leaves is read from the elements, the switches and the open group alone. -/
theorem Wrote.of_same {k k1 k2 : District} {run : CfgRun} {e f : Nat} {u t1 t2 : State} {v : W32} (h : Wrote k run e f u t1 k1 v)
    (he : t2.elems = t1.elems) (hs : t2.switches = t1.switches) (hk : k2.staging = k1.staging) : Wrote k run e f u t2 k2 v := by
  unfold Wrote WroteNow WrotePending at *
  rw [elem_of_elems he, switch_of_switches hs, hk, he]
  exact h

theorem isConstField_of_isSwitchField {e f : Nat} (h : isSwitchField e f = true) : isConstField f = false := by
  unfold isSwitchField at h
  simp only [Bool.and_eq_true, Bool.or_eq_true, beq_iff_eq] at h
  obtain ⟨⟨hf, -⟩, -⟩ := h
  simp only [isConstField, decide_eq_false_iff_not]
  omega

theorem isSwitchField_field {e f : Nat} (h : isSwitchField e f = true) : f = 0x80 ∨ f = 0x81 := by
  unfold isSwitchField at h
  simp only [Bool.and_eq_true, Bool.or_eq_true, beq_iff_eq] at h
  exact h.1.1

theorem fieldWrite_refused {d e f : Nat} {k : District} {run : CfgRun} {u : State} {v : W32} {c : BitVec 10}
    (h : WriteRefused k run e f u v c) : fieldWrite d k run e f v u = .error c := by
  unfold fieldWrite
  obtain h | ⟨h, hw, ⟨rfl, hc, l, hl, hn⟩ | ⟨rfl, hc, hb⟩⟩ := h
  · simp [h]
  · rw [h]; simp [hw, directWrite, hc, hl, hn]
  · rw [h]; simp [hw, directWrite, hc, hb]

/-- A pending setting, clear or CLEAR changes its switch's list of pending commands alone. -/
theorem switch_pendSwitch (k : District) (b dest : Nat) (src : Option Nat) (s : State) : switch (pendSwitch k b dest src s) b =
    { switch s b with pend := (switch s b).pend ++ [(dest, src, lastInv k)] } := by
  unfold pendSwitch; cases src <;> simp

@[simp] theorem pendSwitch_elems (k : District) (b dest : Nat) (src : Option Nat) (s : State) :
    (pendSwitch k b dest src s).elems = s.elems := by
  unfold pendSwitch; cases src <;> simp

@[simp] theorem pendSwitch_districts (k : District) (b dest : Nat) (src : Option Nat) (s : State) :
    (pendSwitch k b dest src s).districts = s.districts := by
  unfold pendSwitch; cases src <;> simp

theorem pendWrite_wrote (k : District) (e f : Nat) (v : W32) (u : State) :
    (pendWrite k e f v u).districts = u.districts ∧ WrotePending k e f u (pendWrite k e f v u) v := by
  unfold pendWrite WrotePending
  cases hs : isSwitchField e f
  · simp [Elem.field]
  · simp [switch_pendSwitch]

/-- A write outside a wave that fits takes its effect; it can lengthen the open group of its district, and nothing else of the district. -/
theorem directWrite_wrote {d e f : Nat} {k : District} {u : State} {v : W32} (hk : mget? u.districts d = some k)
    (hc : isConstField f = true → ∀ l, k.staging = some l → l.length < 64) (hb : isConstField f = false → writeBusy u k e f = false) :
    ∃ (t : State) (g : Option (List (Nat × Nat × W32))), directWrite d k e f v u = .ok t ∧
      mget? t.districts d = some { k with staging := g } ∧ WroteNow k e f u t { k with staging := g } v := by
  unfold directWrite
  cases hf : isConstField f
  case true =>
    have hs : isSwitchField e f = false := by
      by_contra h
      simp [isConstField_of_isSwitchField (by simpa using h)] at hf
    cases hg : k.staging with
    | none =>
      exact ⟨setField e f v u, none, rfl, by rw [setField_districts, hk, ← hg], fun _ _ h => field_setField_same e v u h,
        by simp [hg], by simp [hs], by simp [hs]⟩
    | some l =>
      refine ⟨_, some (l ++ [(e, f, v)]), if_neg (Nat.not_le.2 (hc hf l hg)), mget?_updDist _ hk, ?_⟩
      simp [WroteNow, hs, hf, hg]
  case false =>
    cases hs : isSwitchField e f
    case false =>
      exact ⟨setField e f v u, k.staging, by simp [hb hf], hk, fun _ _ h => field_setField_same e v u h,
        by simp [hf], by simp [hs], by simp [hs]⟩
    case true =>
      obtain rfl | rfl := isSwitchField_field hs
      · refine ⟨switchSet k (elemBlock e) (v.toNat / 2 ^ 16) (v.toNat % 2 ^ 16) u, k.staging, by simp [hb hf], by simp [hk], ?_⟩
        simpa [WroteNow, hs, hf] using mem_sources_switchSet k (elemBlock e) _ _ u
      · refine ⟨switchClear (elemBlock e) (v.toNat / 2 ^ 16) u, k.staging, by simp [hb hf], by simp [hk], ?_⟩
        simp [WroteNow, hs, hf]

theorem fieldWrite_fits {d e f : Nat} {k : District} {run : CfgRun} {u : State} {v : W32} (hk : mget? u.districts d = some k)
    (h : WriteFits k run e f u v) : ∃ (t : State) (g : Option (List (Nat × Nat × W32))), fieldWrite d k run e f v u = .ok t ∧
      mget? t.districts d = some { k with staging := g } ∧ Wrote k run e f u t { k with staging := g } v := by
  obtain ⟨hcheck, hdirect⟩ := h
  unfold fieldWrite
  rw [hcheck]
  cases hw : run.wave with
  | true =>
    obtain ⟨hd, hp⟩ := pendWrite_wrote k e f v u
    exact ⟨pendWrite k e f v u, k.staging, rfl, by rw [hd, hk], by simp [hw], fun _ => hp⟩
  | false =>
    obtain ⟨hc, hb⟩ := hdirect hw
    obtain ⟨t, g, ht, hd, hn⟩ := directWrite_wrote hk hc hb
    exact ⟨t, g, ht, hd, fun _ => hn, by simp [hw]⟩

end Sys2Proof.Machine
end

section
/-! PROOFS. The load of a configuration stream: how a command's answer moves it on or stops it, the effect of each command, and where a command
has none (02 R60 to R70; 06 R171, R176). -/

namespace Sys2Proof.Machine

/-! ## The load under way (06 R171, R176) -/

/-- A load under way whose next word is w, read into the state s1: nothing keeps the command from its effect. -/
structure LoadAt (s : State) (d : Nat) (k : District) (run : CfgRun) (w : Nat) (s1 : State) : Prop where
  dist : mget? (startLoad d s).districts d = some k
  cfg : k.cfg = some run
  clock : k.gated = false
  good : run.fault = none
  more : run.pos < run.len
  word : cfgWord k run run.pos (startLoad d s) = (.ok w, s1)
  kept : mget? s1.districts d = some k
  room : run.wave = true → pendWords s1 k < 4096
  first : run.pos = 0 → k.behind (startLoad d s) = false

/-- The load goes on behind the n words of a command. -/
def loadMoved (d : Nat) (run : CfgRun) (n : Nat) (s : State) : State :=
  updDist s d (fun k => { k with cfg := k.cfg.map (fun r => { r with pos := run.pos + n }) })

/-- What the result of a command of n words does to its load. -/
def cmdEnd (d : Nat) (run : CfgRun) (w n : Nat) (s : State) : CmdRes → State
  | .error c => cfgStop d c run.pos w (run.pos + n) s
  | .ok t => loadMoved d run n t

/-- The effect of a command word of a kind on its load. -/
def cmdStep (kind d : Nat) (k : District) (run : CfgRun) (w : Nat) (s : State) : State :=
  match kind with
  | 0 => cmdEnd d run w 1 s (cmdPlain d k run w s)
  | 1 => cmdEnd d run w 1 s (cmdCursor d k w s)
  | 2 =>
    if run.pos + 1 ≥ run.len then cfgStop d 0x145 run.pos w (run.pos + 1) s
    else match cfgWord k run (run.pos + 1) s with
      | (.wait p, s2) => meetAt (.dist d) p s2
      | (.fault c, s2) => cfgStop d c (run.pos + 1) 0 (run.pos + 1) s2
      | (.ok v, s2) => cmdEnd d run w 2 s2 (cmdWide d k run w v s2)
  | _ => cmdEnd d run w 1 s (cmdControl d k run w s)

theorem command_atWord {s s1 : State} {d w : Nat} {k : District} {run : CfgRun} (kind : Nat)
    (dist : mget? (startLoad d s).districts d = some k) (cfg : k.cfg = some run) (clock : k.gated = false) (good : run.fault = none)
    (more : run.pos < run.len) (first : run.pos = 0 → k.behind (startLoad d s) = false)
    (word : cfgWord k run run.pos (startLoad d s) = (.ok w, s1)) :
    command kind d s = if cmdKind w ≠ kind then s1 else if run.wave && decide (pendWords s1 k ≥ 4096) then s1
      else cmdStep kind d k run w s1 := by
  have hgo : (k.gated || run.fault.isSome || decide (run.pos ≥ run.len) || (run.pos == 0 && k.behind (startLoad d s))) = false := by
    simpa [clock, good, more] using first
  unfold command
  simp only [dist, cfg, hgo, word]
  rfl

/-- A command takes its effect. -/
theorem LoadAt.command_eq {s s1 : State} {d w : Nat} {k : District} {run : CfgRun} (h : LoadAt s d k run w s1) {kind : Nat}
    (hk : cmdKind w = kind) : command kind d s = cmdStep kind d k run w s1 := by
  have hroom : (run.wave && decide (pendWords s1 k ≥ 4096)) = false := by
    simpa using h.room
  rw [command_atWord kind h.dist h.cfg h.clock h.good h.more h.first h.word, if_neg (by simp [hk]), hroom]
  rfl

/-- An instruction stops its load: the word and what was read stand in the fault, and an open group is abandoned (02 R65). -/
def Stops (s : State) (i : Instr) (d : Nat) (run : CfgRun) (w : Nat) (c : BitVec 10) (n : Nat) : Prop :=
  ∃ (t : State) (k' : District) (r : CfgRun), exec i s = .next t ∧ mget? t.districts d = some k' ∧ k'.cfg = some r ∧
    r.fault = some (c, run.pos, w, run.pos + n) ∧ k'.staging = none

/-- A load goes on behind n words. -/
def Moves (d : Nat) (run : CfgRun) (t : State) (k' : District) (n : Nat) : Prop :=
  mget? t.districts d = some k' ∧ ∃ (r : CfgRun), k'.cfg = some r ∧ r.pos = run.pos + n ∧ r.fault = none

theorem stops_of_cfgStop {s u : State} {i : Instr} {d w n : Nat} {k : District} {run : CfgRun} {c : BitVec 10}
    (hi : exec i s = .next (cfgStop d c run.pos w (run.pos + n) u)) (hu : mget? u.districts d = some k) (hc : k.cfg = some run) :
    Stops s i d run w c n :=
  ⟨_, _, { run with fault := some (c, run.pos, w, run.pos + n) }, hi, mget?_updDist _ hu, by simp [hc], rfl, rfl⟩

@[simp] theorem elem_loadMoved (d e n : Nat) (run : CfgRun) (s : State) : elem (loadMoved d run n s) e = elem s e :=
  elem_updDist s d e _
@[simp] theorem switch_loadMoved (d b n : Nat) (run : CfgRun) (s : State) : switch (loadMoved d run n s) b = switch s b :=
  switch_updDist s d b _
@[simp] theorem loadMoved_elems (d n : Nat) (run : CfgRun) (s : State) : (loadMoved d run n s).elems = s.elems := updDist_elems s d _
@[simp] theorem loadMoved_switches (d n : Nat) (run : CfgRun) (s : State) : (loadMoved d run n s).switches = s.switches :=
  updDist_switches s d _

/-- A district whose load stands behind n words. -/
def District.movedTo (k : District) (run r : CfgRun) (n : Nat) : District := { k with cfg := some { r with pos := run.pos + n } }

theorem loadMoved_moves {d n : Nat} {k : District} {run r : CfgRun} {s : State} (hs : mget? s.districts d = some k) (hc : k.cfg = some r)
    (hr : r.fault = none) : Moves d run (loadMoved d run n s) (k.movedTo run r n) n := by
  refine ⟨?_, { r with pos := run.pos + n }, rfl, rfl, hr⟩
  rw [loadMoved, mget?_updDist _ hs, hc]
  rfl

/-! ## What each command answers (02 R61 to R64, R68 to R70) -/

theorem cmdPlain_refused {d x y e w : Nat} {k : District} {run : CfgRun} {s : State} {c : BitVec 10} (hc : k.cursor = some (x, y))
    (he : cfgElem k x y = .ok e) (hw : WriteRefused k run e (nb w 29 22) s (BitVec.ofNat 32 (nb w 21 0)) c) :
    cmdPlain d k run w s = .error c := by
  simp [cmdPlain, hc, he, fieldWrite_refused hw]

/-- The next position looks at the district's rectangle alone. -/
theorem nextCell_rect {k k' : District} (h : k'.rect = k.rect) : ∀ (n x y : Nat), nextCell k' n x y = nextCell k n x y := by
  intro n
  induction n with
  | zero => intro x y; rfl
  | succ n ih =>
    intro x y
    simp only [nextCell, h, ih]

/-- Where the cursor stands behind a plain write (02 R62). -/
def cursorAfter (k : District) (x y : Nat) : Option (Nat × Nat) := if k.step = 1 then nextCell k 3 x y else some (x, y)

theorem cmdPlain_fits {d x y e w : Nat} {k : District} {run : CfgRun} {s : State} (hk : mget? s.districts d = some k)
    (hc : k.cursor = some (x, y)) (he : cfgElem k x y = .ok e)
    (hw : WriteFits k run e (nb w 29 22) s (BitVec.ofNat 32 (nb w 21 0))) :
    ∃ (t : State) (g : Option (List (Nat × Nat × W32))), cmdPlain d k run w s = .ok t ∧
      mget? t.districts d = some { k with staging := g, cursor := cursorAfter k x y } ∧
      Wrote k run e (nb w 29 22) s t { k with staging := g, cursor := cursorAfter k x y } (BitVec.ofNat 32 (nb w 21 0)) := by
  obtain ⟨t, g, ht, hd, hwrote⟩ := fieldWrite_fits hk hw
  unfold cmdPlain cursorAfter
  simp only [hc, he, ht]
  by_cases hstep : k.step = 1
  · simp only [if_pos hstep]
    have hnext : nextCell { k with staging := g } 3 x y = nextCell k 3 x y := nextCell_rect rfl 3 x y
    exact ⟨_, g, rfl, by rw [mget?_updDist _ hd, hnext],
      hwrote.of_same (updDist_elems _ _ _) (updDist_switches _ _ _) rfl⟩
  · simp only [if_neg hstep]
    exact ⟨t, g, rfl, by rw [hd, ← hc], hwrote.of_same rfl rfl rfl⟩

theorem cmdWide_refused {d e w v : Nat} {k : District} {run : CfgRun} {s : State} {c : BitVec 10} (h0 : nb w 9 0 = 0)
    (he : cfgElem k (nb w 15 10) (nb w 21 16) = .ok e) (hw : WriteRefused k run e (nb w 29 22) s (BitVec.ofNat 32 v) c) :
    cmdWide d k run w v s = .error c := by
  simp [cmdWide, h0, he, fieldWrite_refused hw]

theorem cmdWide_fits {d e w v : Nat} {k : District} {run : CfgRun} {s : State} (hk : mget? s.districts d = some k) (h0 : nb w 9 0 = 0)
    (he : cfgElem k (nb w 15 10) (nb w 21 16) = .ok e) (hw : WriteFits k run e (nb w 29 22) s (BitVec.ofNat 32 v)) :
    ∃ (t : State) (g : Option (List (Nat × Nat × W32))), cmdWide d k run w v s = .ok t ∧
      mget? t.districts d = some { k with staging := g, cursor := some (nb w 15 10, nb w 21 16) } ∧
      Wrote k run e (nb w 29 22) s t { k with staging := g, cursor := some (nb w 15 10, nb w 21 16) } (BitVec.ofNat 32 v) := by
  obtain ⟨t, g, ht, hd, hwrote⟩ := fieldWrite_fits hk hw
  refine ⟨updDist t d (fun k => { k with cursor := some (nb w 15 10, nb w 21 16) }), g, by simp [cmdWide, h0, he, ht],
    mget?_updDist _ hd, hwrote.of_same (updDist_elems _ _ _) (updDist_switches _ _ _) rfl⟩

/-- A control command with a reserved operation, or a reserved bit. -/
theorem cmdControl_reserved {d w : Nat} {k : District} {run : CfgRun} {s : State}
    (h : 6 ≤ nb w 29 26 ∨ nb w 29 26 = 2 ∧ 256 ≤ nb w 25 0 ∨ nb w 29 26 ≠ 2 ∧ nb w 25 0 ≠ 0) : cmdControl d k run w s = .error 0x141 := by
  unfold cmdControl
  refine if_pos ?_
  obtain h | ⟨h2, h⟩ | ⟨h2, h⟩ := h
  · exact .inl h
  · exact .inr (by rwa [if_pos h2])
  · exact .inr (by rwa [if_neg h2])

theorem cmdControl_nop {d w : Nat} {k : District} {run : CfgRun} {s : State} (hop : nb w 29 26 = 0) (hx : nb w 25 0 = 0) :
    cmdControl d k run w s = .ok s := by simp [cmdControl, hop, hx]

theorem cmdControl_stage {d w : Nat} {k : District} {run : CfgRun} {s : State} (hop : nb w 29 26 = 1) (hx : nb w 25 0 = 0) :
    cmdControl d k run w s = if run.wave || k.staging.isSome then .error 0x145
      else .ok (updDist s d (fun k => { k with staging := some [] })) := by simp [cmdControl, hop, hx]

theorem cmdControl_commit_none {d w : Nat} {k : District} {run : CfgRun} {s : State} (hop : nb w 29 26 = 2) (hx : nb w 25 0 < 256)
    (h : run.wave = true ∨ k.staging = none) : cmdControl d k run w s = .error 0x145 := by
  cases hw : run.wave with
  | true => simp [cmdControl, hop, hx, hw]
  | false => simp [cmdControl, hop, hx, h.resolve_left (by simp [hw])]

theorem cmdControl_commit {d w : Nat} {k : District} {run : CfgRun} {s : State} {l : List (Nat × Nat × W32)} (hop : nb w 29 26 = 2)
    (hx : nb w 25 0 < 256) (hw : run.wave = false) (hl : k.staging = some l) : cmdControl d k run w s =
      .ok (updDist (commitGroup d l s) d (fun k => { k with cfg := k.cfg.map (fun r => { r with tag := nb w 25 0 }) })) := by
  simp [cmdControl, hop, hx, hw, hl]

theorem cmdControl_abandon {d w : Nat} {k : District} {run : CfgRun} {s : State} (hop : nb w 29 26 = 3) (hx : nb w 25 0 = 0) :
    cmdControl d k run w s = .ok (updDist s d (fun k => { k with staging := none })) := by simp [cmdControl, hop, hx]

theorem cmdControl_wave {d w : Nat} {k : District} {run : CfgRun} {s : State} (hop : nb w 29 26 = 4) (hx : nb w 25 0 = 0) :
    cmdControl d k run w s = .ok (updDist s d (fun k => { k with cfg := k.cfg.map (fun r => { r with wave := true }) })) := by
  simp [cmdControl, hop, hx]

theorem cmdControl_clear {d w : Nat} {k : District} {run : CfgRun} {s : State} (hop : nb w 29 26 = 5) (hx : nb w 25 0 = 0) :
    cmdControl d k run w s = cmdClear k run s := by simp [cmdControl, hop, hx]

theorem cmdClear_noCursor {k : District} {run : CfgRun} {s : State} (hc : k.cursor = none) : cmdClear k run s = .error 0x142 := by
  simp [cmdClear, hc]

theorem cmdClear_at {k : District} {run : CfgRun} {s : State} {x y e : Nat} (hc : k.cursor = some (x, y)) (he : cfgElem k x y = .ok e) :
    cmdClear k run s = if run.wave then .ok (pendClear k e s)
      else if (elem s e).running k then .error 0x148 else .ok (clearElem e false s) := by simp [cmdClear, hc, he]

@[simp] theorem pendClear_districts (k : District) (e : Nat) (s : State) : (pendClear k e s).districts = s.districts := by
  unfold pendClear; dsimp only; split <;> simp

theorem elem_pendClear (k : District) (e : Nat) (s : State) :
    (elem (pendClear k e s) e).pend = (elem s e).pend ++ [.clear] := by
  unfold pendClear
  dsimp only
  split
  · rw [elem_of_elems (pendSwitch_elems _ _ _ _ _)]; simp
  · simp

/-- A pending CLEAR of a block's origin keeps its place among the settings of the block's switch (02 R70). -/
theorem switch_pendClear (k : District) (e : Nat) (s : State) (h : isOrigin e = true) :
    (switch (pendClear k e s) (elemBlock e)).pend = (switch s (elemBlock e)).pend ++ [(clearAll, none, lastInv k)] := by
  simp [pendClear, h, switch_pendSwitch]

/-! ## The effect of each command on its load (02 R60 to R70) -/

section
variable {s s1 : State} {d w : Nat} {k : District} {run : CfgRun}

/-- A command of one word that is refused stops its load. -/
theorem LoadAt.stops {i : Instr} {kind : Nat} {r : CmdRes} {c : BitVec 10} (h : LoadAt s d k run w s1)
    (hi : exec i s = .next (command kind d s)) (hk : cmdKind w = kind) (hs : cmdStep kind d k run w s1 = cmdEnd d run w 1 s1 r)
    (hr : r = .error c) : Stops s i d run w c 1 := by
  refine stops_of_cfgStop (u := s1) ?_ h.kept h.cfg
  rw [hi, h.command_eq hk, hs, hr]
  rfl

/-- A command of one word that takes its effect moves its load on. -/
theorem LoadAt.moves {i : Instr} {kind : Nat} {r : CmdRes} {t : State} (h : LoadAt s d k run w s1)
    (hi : exec i s = .next (command kind d s)) (hk : cmdKind w = kind) (hs : cmdStep kind d k run w s1 = cmdEnd d run w 1 s1 r)
    (hr : r = .ok t) : exec i s = .next (loadMoved d run 1 t) := by
  rw [hi, h.command_eq hk, hs, hr]
  rfl

theorem plainWrite_effect (h : LoadAt s d k run w s1) {v x y e f : Nat} (hk : cmdKind w = 0) (hv : v = nb w 21 0)
    (hf : f = nb w 29 22) :
    (k.cursor = none → Stops s (.plainWrite d) d run w 0x142 1) ∧
    (k.cursor = some (x, y) →
      (∀ c, cfgElem k x y = .error c → Stops s (.plainWrite d) d run w c 1) ∧
      (cfgElem k x y = .ok e →
        (∀ c, WriteRefused k run e f s1 (BitVec.ofNat 32 v) c → Stops s (.plainWrite d) d run w c 1) ∧
        (WriteFits k run e f s1 (BitVec.ofNat 32 v) → ∃ (t : State) (k' : District), exec (.plainWrite d) s = .next t ∧
          Moves d run t k' 1 ∧ Wrote k run e f s1 t k' (BitVec.ofNat 32 v) ∧
          (k.step ≠ 1 → k'.cursor = some (x, y)) ∧ (k.step = 1 → k'.cursor = nextCell k 3 x y)))) := by
  subst hv hf
  have stops {c} (hr : cmdPlain d k run w s1 = .error c) : Stops s (.plainWrite d) d run w c 1 := h.stops rfl hk rfl hr
  refine ⟨fun hc => stops (by simp [cmdPlain, hc]), fun hc => ⟨fun c he => stops (by simp [cmdPlain, hc, he]), fun he =>
    ⟨fun c hw => stops (cmdPlain_refused hc he hw), fun hw => ?_⟩⟩⟩
  obtain ⟨t, g, ht, hd, hwrote⟩ := cmdPlain_fits h.kept hc he hw
  refine ⟨loadMoved d run 1 t, _, h.moves rfl hk rfl ht, loadMoved_moves hd h.cfg h.good,
    hwrote.of_same (loadMoved_elems _ _ _ _) (loadMoved_switches _ _ _ _) rfl, fun hstep => ?_, fun hstep => ?_⟩
  · exact if_neg hstep
  · exact if_pos hstep

theorem setElementCursor_effect (h : LoadAt s d k run w s1) (hk : cmdKind w = 1) :
    ((nb w 29 22 ≠ 0 ∨ nb w 7 0 ≠ 0 ∨ 2 ≤ nb w 9 8) → Stops s (.setElementCursor d) d run w 0x141 1) ∧
    (nb w 29 22 = 0 → nb w 7 0 = 0 → nb w 9 8 < 2 →
      ((8 * k.rect.w ≤ nb w 15 10 ∨ 8 * k.rect.h ≤ nb w 21 16) → Stops s (.setElementCursor d) d run w 0x142 1) ∧
      (nb w 15 10 < 8 * k.rect.w → nb w 21 16 < 8 * k.rect.h →
        ∃ (t : State) (k' : District), exec (.setElementCursor d) s = .next t ∧ Moves d run t k' 1 ∧
          k'.cursor = some (nb w 15 10, nb w 21 16) ∧ k'.step = nb w 9 8)) := by
  have stops {c} (hr : cmdCursor d k w s1 = .error c) : Stops s (.setElementCursor d) d run w c 1 := h.stops rfl hk rfl hr
  refine ⟨fun hb => stops (if_pos hb), fun h0 h1 h2 => ?_⟩
  have hok : ¬ (nb w 29 22 ≠ 0 ∨ nb w 7 0 ≠ 0 ∨ nb w 9 8 ≥ 2) := by omega
  refine ⟨fun hb => stops ((if_neg hok).trans (if_pos hb)), fun hx hy => ?_⟩
  have hin : ¬ (nb w 15 10 ≥ 8 * k.rect.w ∨ nb w 21 16 ≥ 8 * k.rect.h) := by omega
  exact ⟨_, _, h.moves (r := cmdCursor d k w s1) rfl hk rfl ((if_neg hok).trans (if_neg hin)),
    loadMoved_moves (mget?_updDist _ h.kept) h.cfg h.good, rfl, rfl⟩

theorem wideWrite_effect (h : LoadAt s d k run w s1) {s2 : State} {v e f : Nat} (hk : cmdKind w = 2) :
    (run.len ≤ run.pos + 1 → Stops s (.wideWrite d) d run w 0x145 1) ∧
    (run.pos + 1 < run.len → cfgWord k run (run.pos + 1) s1 = (.ok v, s2) → mget? s2.districts d = some k → f = nb w 29 22 →
      (nb w 9 0 ≠ 0 → Stops s (.wideWrite d) d run w 0x141 2) ∧
      (nb w 9 0 = 0 →
        (∀ c, cfgElem k (nb w 15 10) (nb w 21 16) = .error c → Stops s (.wideWrite d) d run w c 2) ∧
        (cfgElem k (nb w 15 10) (nb w 21 16) = .ok e →
          (∀ c, WriteRefused k run e f s2 (BitVec.ofNat 32 v) c → Stops s (.wideWrite d) d run w c 2) ∧
          (WriteFits k run e f s2 (BitVec.ofNat 32 v) → ∃ (t : State) (k' : District), exec (.wideWrite d) s = .next t ∧
            Moves d run t k' 2 ∧ Wrote k run e f s2 t k' (BitVec.ofNat 32 v) ∧ k'.cursor = some (nb w 15 10, nb w 21 16))))) := by
  have hexec : exec (.wideWrite d) s = .next (cmdStep 2 d k run w s1) := congrArg Host.Outcome.next (h.command_eq hk)
  refine ⟨fun hl => stops_of_cfgStop (hexec.trans (congrArg Host.Outcome.next (if_pos hl))) h.kept h.cfg, fun hl hv hk2 hf => ?_⟩
  subst hf
  have hwide : exec (.wideWrite d) s = .next (cmdEnd d run w 2 s2 (cmdWide d k run w v s2)) := by
    rw [hexec]
    simp only [cmdStep, hv, if_neg (Nat.not_le.2 hl)]
  have stops {c} (hr : cmdWide d k run w v s2 = .error c) : Stops s (.wideWrite d) d run w c 2 := by
    rw [hr] at hwide
    exact stops_of_cfgStop hwide hk2 h.cfg
  refine ⟨fun h0 => stops (if_pos h0), fun h0 => ⟨fun c he => stops (by simp [cmdWide, h0, he]), fun he =>
    ⟨fun c hw => stops (cmdWide_refused h0 he hw), fun hw => ?_⟩⟩⟩
  obtain ⟨t, g, ht, hd, hwrote⟩ := cmdWide_fits hk2 h0 he hw
  rw [ht] at hwide
  exact ⟨loadMoved d run 2 t, _, hwide, loadMoved_moves hd h.cfg h.good,
    hwrote.of_same (loadMoved_elems _ _ _ _) (loadMoved_switches _ _ _ _) rfl, rfl⟩

theorem cmdKind_control (hw : w / 2 ^ 30 = 3) (h6 : nb w 29 26 < 6) : cmdKind w = 3 + nb w 29 26 := by
  unfold cmdKind
  rw [if_neg (by omega), if_pos h6]

theorem cmdKind_reserved (hw : w / 2 ^ 30 = 3) (h6 : 6 ≤ nb w 29 26) : cmdKind w = 3 := by
  unfold cmdKind
  rw [if_neg (by omega), if_neg (by omega)]

/-- A reserved bit stops a control command, whatever its operation. -/
theorem LoadAt.control_reserved (h : LoadAt s d k run w s1) {i : Instr} {op : Nat} (hi : exec i s = .next (command (3 + op) d s))
    (hw : w / 2 ^ 30 = 3) (hop : nb w 29 26 = op) (h6 : op < 6) (hb : op = 2 ∧ 256 ≤ nb w 25 0 ∨ op ≠ 2 ∧ nb w 25 0 ≠ 0) :
    Stops s i d run w 0x141 1 :=
  h.stops hi (by rw [cmdKind_control hw (by omega), hop]) (by rw [Nat.add_comm]; rfl) (cmdControl_reserved (.inr (hop ▸ hb)))

/-- The effect of a control command that moves its load on. -/
theorem LoadAt.control_moves (h : LoadAt s d k run w s1) {i : Instr} {op : Nat} {t : State}
    (hi : exec i s = .next (command (3 + op) d s)) (hw : w / 2 ^ 30 = 3) (hop : nb w 29 26 = op) (h6 : op < 6)
    (hr : cmdControl d k run w s1 = .ok t) : exec i s = .next (loadMoved d run 1 t) :=
  h.moves hi (by rw [cmdKind_control hw (by omega), hop]) (by rw [Nat.add_comm]; rfl) hr

/-- A control command that is refused stops its load. -/
theorem LoadAt.control_stops (h : LoadAt s d k run w s1) {i : Instr} {op : Nat} {c : BitVec 10}
    (hi : exec i s = .next (command (3 + op) d s)) (hw : w / 2 ^ 30 = 3) (hop : nb w 29 26 = op) (h6 : op < 6)
    (hr : cmdControl d k run w s1 = .error c) : Stops s i d run w c 1 :=
  h.stops hi (by rw [cmdKind_control hw (by omega), hop]) (by rw [Nat.add_comm]; rfl) hr

theorem nop_effect (h : LoadAt s d k run w s1) (hw : w / 2 ^ 30 = 3) (hx : nb w 25 0 = 0) (hop : nb w 29 26 = 0) :
    ∃ (t : State) (k' : District), exec (.nop d) s = .next t ∧ Moves d run t k' 1 ∧ t.elems = s1.elems :=
  ⟨_, _, h.control_moves rfl hw hop (by omega) (cmdControl_nop hop hx), loadMoved_moves h.kept h.cfg h.good, loadMoved_elems _ _ _ _⟩

theorem stage_effect (h : LoadAt s d k run w s1) (hw : w / 2 ^ 30 = 3) (hx : nb w 25 0 = 0) (hop : nb w 29 26 = 1) :
    (run.wave = false → k.staging = none → ∃ (t : State) (k' : District), exec (.stage d) s = .next t ∧ Moves d run t k' 1 ∧
      k'.staging = some []) ∧
    ((run.wave = true ∨ k.staging.isSome = true) → Stops s (.stage d) d run w 0x145 1) := by
  have hstage := cmdControl_stage (d := d) (k := k) (run := run) (s := s1) hop hx
  refine ⟨fun hwave hg => ?_, fun hno => h.control_stops rfl hw hop (by omega) (hstage.trans (if_pos (by simpa using hno)))⟩
  exact ⟨_, _, h.control_moves rfl hw hop (by omega) (hstage.trans (if_neg (by simp [hwave, hg]))),
    loadMoved_moves (mget?_updDist _ h.kept) h.cfg h.good, rfl⟩

theorem abandon_effect (h : LoadAt s d k run w s1) (hw : w / 2 ^ 30 = 3) (hx : nb w 25 0 = 0) (hop : nb w 29 26 = 3) :
    ∃ (t : State) (k' : District), exec (.abandon d) s = .next t ∧ Moves d run t k' 1 ∧ k'.staging = none ∧ t.elems = s1.elems :=
  ⟨_, _, h.control_moves rfl hw hop (by omega) (cmdControl_abandon hop hx),
    loadMoved_moves (mget?_updDist _ h.kept) h.cfg h.good, rfl, by simp⟩

theorem wave_effect (h : LoadAt s d k run w s1) (hw : w / 2 ^ 30 = 3) (hx : nb w 25 0 = 0) (hop : nb w 29 26 = 4) :
    ∃ (t : State) (k' : District) (r : CfgRun), exec (.wave d) s = .next t ∧ Moves d run t k' 1 ∧ k'.cfg = some r ∧ r.wave = true :=
  ⟨_, _, { run with wave := true, pos := run.pos + 1 }, h.control_moves rfl hw hop (by omega) (cmdControl_wave hop hx),
    loadMoved_moves (r := { run with wave := true }) (mget?_updDist _ h.kept) (by simp [h.cfg]) h.good, rfl, rfl⟩

theorem clear_effect (h : LoadAt s d k run w s1) {x y e : Nat} (hw : w / 2 ^ 30 = 3) (hx : nb w 25 0 = 0) (hop : nb w 29 26 = 5) :
    (k.cursor = none → Stops s (.clear d) d run w 0x142 1) ∧
    (k.cursor = some (x, y) → cfgElem k x y = .ok e →
      (run.wave = false → (elem s1 e).running k = false →
        ∃ (t : State) (k' : District), exec (.clear d) s = .next t ∧ Moves d run t k' 1 ∧ elem t e = .reset ∧
          (elemX e % 8 = 0 → elemY e % 8 = 0 → ∀ i, i ∈ (switch s1 (elemBlock e)).drive.map Prod.fst →
            (switch t (elemBlock e)).sources i = [])) ∧
      (run.wave = false → (elem s1 e).running k = true → Stops s (.clear d) d run w 0x148 1) ∧
      (run.wave = true → ∃ (t : State) (k' : District), exec (.clear d) s = .next t ∧ Moves d run t k' 1 ∧
        (elem t e).pend = (elem s1 e).pend ++ [.clear] ∧
        (isOrigin e = true → (switch t (elemBlock e)).pend = (switch s1 (elemBlock e)).pend ++ [(clearAll, none, lastInv k)]))) := by
  have hclear := cmdControl_clear (d := d) (k := k) (run := run) (s := s1) hop hx
  have stops {c} (hr : cmdClear k run s1 = .error c) : Stops s (.clear d) d run w c 1 :=
    h.control_stops rfl hw hop (by omega) (hclear.trans hr)
  have moves {t} (hr : cmdClear k run s1 = .ok t) : exec (.clear d) s = .next (loadMoved d run 1 t) :=
    h.control_moves rfl hw hop (by omega) (hclear.trans hr)
  refine ⟨fun hc => stops (cmdClear_noCursor hc), fun hc he => ?_⟩
  have hat := cmdClear_at (run := run) (s := s1) hc he
  refine ⟨fun hwave hrun => ?_, fun hwave hrun => stops (by simp [hat, hwave, hrun]), fun hwave => ?_⟩
  · refine ⟨_, _, moves (t := clearElem e false s1) (by simp [hat, hwave, hrun]),
      loadMoved_moves (by rw [clearElem_districts, h.kept]) h.cfg h.good, by simp [elem_clearElem], fun hx0 hy0 i hi => ?_⟩
    rw [switch_loadMoved, sources_clearElem false s1 hx0 hy0 hi]
  · refine ⟨_, _, moves (t := pendClear k e s1) (by simp [hat, hwave]),
      loadMoved_moves (by rw [pendClear_districts, h.kept]) h.cfg h.good, by rw [elem_loadMoved, elem_pendClear], fun ho => ?_⟩
    rw [switch_loadMoved, switch_pendClear k e s1 ho]

theorem commit_effect (h : LoadAt s d k run w s1) (hw : w / 2 ^ 30 = 3) (hop : nb w 29 26 = 2) :
    (256 ≤ nb w 25 0 → Stops s (.commit d) d run w 0x141 1) ∧
    (nb w 25 0 < 256 → (run.wave = true ∨ k.staging = none) → Stops s (.commit d) d run w 0x145 1) ∧
    (∀ l, nb w 25 0 < 256 → run.wave = false → k.staging = some l →
      ∃ (t : State) (k' : District) (r : CfgRun), exec (.commit d) s = .next t ∧ Moves d run t k' 1 ∧ k'.staging = none ∧
        k'.cfg = some r ∧ r.tag = nb w 25 0 ∧
        ∀ (i e f : Nat) (v : W32), l[i]? = some (e, f, v) → (∀ (j : Nat) (u : W32), i < j → l[j]? ≠ some (e, f, u)) →
          (f < 0xD1 ∨ 0xE0 ≤ f) → (elem t e).field f = v) := by
  refine ⟨fun hx => h.control_reserved rfl hw hop (by omega) (.inl ⟨rfl, hx⟩),
    fun hx hno => h.control_stops rfl hw hop (by omega) (cmdControl_commit_none hop hx hno), fun l hx hwave hl => ?_⟩
  have hgroup : mget? (commitGroup d l s1).districts d = some { k with staging := none } := by
    rw [commitGroup_eq, applyWrites_districts, mget?_updDist _ h.kept]
  refine ⟨_, _, { run with tag := nb w 25 0, pos := run.pos + 1 },
    h.control_moves rfl hw hop (by omega) (cmdControl_commit hop hx hwave hl),
    loadMoved_moves (r := { run with tag := nb w 25 0 }) (mget?_updDist _ hgroup) (by simp [h.cfg]) h.good, rfl, rfl, rfl, ?_⟩
  intro i e f v hi hlast hf
  rw [elem_loadMoved, elem_updDist, commitGroup_eq]
  exact field_applyWrites_last hf l _ i hi hlast

end

/-! ## Where a command has no effect (02 R60; 06 R171, R176) -/

/-- An instruction of a configuration stream with the kind of its command word. -/
def isCommand (i : Instr) (d kd : Nat) : Prop :=
  i = .plainWrite d ∧ kd = 0 ∨ i = .setElementCursor d ∧ kd = 1 ∨ i = .wideWrite d ∧ kd = 2 ∨ i = .nop d ∧ kd = 3 ∨
    i = .stage d ∧ kd = 4 ∨ i = .commit d ∧ kd = 5 ∨ i = .abandon d ∧ kd = 6 ∨ i = .wave d ∧ kd = 7 ∨ i = .clear d ∧ kd = 8

theorem exec_of_isCommand {i : Instr} {d kd : Nat} (h : isCommand i d kd) (s : State) : exec i s = .next (command kd d s) := by
  obtain ⟨rfl, rfl⟩ | ⟨rfl, rfl⟩ | ⟨rfl, rfl⟩ | ⟨rfl, rfl⟩ | ⟨rfl, rfl⟩ | ⟨rfl, rfl⟩ | ⟨rfl, rfl⟩ | ⟨rfl, rfl⟩ | ⟨rfl, rfl⟩ := h
  all_goals rfl

theorem command_noDistrict {s : State} {d : Nat} (kd : Nat) (h : mget? (startLoad d s).districts d = none) :
    command kd d s = startLoad d s := by
  simp [command, h]

theorem command_noLoad {s : State} {d : Nat} {k : District} (kd : Nat) (h : mget? (startLoad d s).districts d = some k)
    (hc : k.cfg = none) : command kd d s = startLoad d s := by
  simp [command, h, hc]

/-- A gated or stopped load, one at its end, and one before its first word behind earlier accesses, waits. -/
theorem command_waits {s : State} {d : Nat} {k : District} {run : CfgRun} (kd : Nat)
    (h : mget? (startLoad d s).districts d = some k) (hc : k.cfg = some run)
    (hw : k.gated = true ∨ run.fault.isSome = true ∨ run.len ≤ run.pos ∨ (run.pos = 0 ∧ k.behind (startLoad d s) = true)) :
    command kd d s = startLoad d s := by
  have hwait : (k.gated || run.fault.isSome || decide (run.pos ≥ run.len) || (run.pos == 0 && k.behind (startLoad d s))) = true := by
    simpa [or_assoc] using hw
  unfold command
  simp only [h, hc, hwait, if_true]

/-- The word of a load that goes on is read: a wait or a fault of the read is met, whatever the command. -/
theorem command_wordWaits {s s1 : State} {d : Nat} {k : District} {run : CfgRun} {p : Option Place} (kd : Nat)
    (h : mget? (startLoad d s).districts d = some k) (hc : k.cfg = some run) (clock : k.gated = false) (good : run.fault = none)
    (more : run.pos < run.len) (first : run.pos = 0 → k.behind (startLoad d s) = false)
    (word : cfgWord k run run.pos (startLoad d s) = (.wait p, s1)) : command kd d s = meetAt (.dist d) p s1 := by
  have hgo : (k.gated || run.fault.isSome || decide (run.pos ≥ run.len) || (run.pos == 0 && k.behind (startLoad d s))) = false := by
    simpa [clock, good, more] using first
  unfold command
  simp [h, hc, hgo, word]

theorem command_wordFaults {s s1 : State} {d : Nat} {k : District} {run : CfgRun} {c : BitVec 10} (kd : Nat)
    (h : mget? (startLoad d s).districts d = some k) (hc : k.cfg = some run) (clock : k.gated = false) (good : run.fault = none)
    (more : run.pos < run.len) (first : run.pos = 0 → k.behind (startLoad d s) = false)
    (word : cfgWord k run run.pos (startLoad d s) = (.fault c, s1)) : command kd d s = cfgStop d c run.pos 0 run.pos s1 := by
  have hgo : (k.gated || run.fault.isSome || decide (run.pos ≥ run.len) || (run.pos == 0 && k.behind (startLoad d s))) = false := by
    simpa [clock, good, more] using first
  unfold command
  simp [h, hc, hgo, word]

end Sys2Proof.Machine
end

section
/-! PROOFS. Pending commands and pending settings (02 R70; 09 R276, R277), and O49. -/

namespace Sys2Proof.Machine

/-! ## Pending commands of an element (09 R276) -/

theorem pendingCommand_waits {s : State} {e d : Nat} {k : District} (hd : distOf s e = some (d, k))
    (h : k.gated = true ∨ readyPend s k e (elem s e) = none) : exec (.pendingCommandApply e) s = .next s := by
  change execPendingCommandApply e s = .next s
  unfold execPendingCommandApply
  obtain h | h := h <;> simp [hd, h]

theorem pendingWrite_applies {s : State} {e d i f : Nat} {k : District} {v : W32} (hd : distOf s e = some (d, k)) (hg : k.gated = false)
    (hr : readyPend s k e (elem s e) = some i) (hp : (elem s e).pend.getD i .clear = .write f v) :
    exec (.pendingCommandApply e) s =
      .next (setElem s e { Elem.setField e f v (elem s e) with pend := listDel (elem s e).pend i }) := by
  change execPendingCommandApply e s = _
  unfold execPendingCommandApply
  simp only [hd, hg, hr, hp]
  rfl

theorem pendingClear_applies {s : State} {e d i : Nat} {k : District} (hd : distOf s e = some (d, k)) (hg : k.gated = false)
    (hr : readyPend s k e (elem s e) = some i) (hp : (elem s e).pend.getD i .clear = .clear) :
    exec (.pendingCommandApply e) s =
      .next (updElem (applyClear e ((elem s e).running k) s) e (fun x => { x with pend := listDel (elem s e).pend i })) := by
  change execPendingCommandApply e s = _
  unfold execPendingCommandApply
  simp only [hd, hg, hr, hp]
  rfl

theorem elem_applyClear (e : Nat) (keep : Bool) (s : State) :
    elem (applyClear e keep s) e = if keep then (elem s e).toPool else .reset := by
  unfold applyClear
  dsimp only
  split
  · rw [elem_updSwitch, elem_clearElem]
  · exact elem_clearElem e keep s

/-- An element in the pool, or at reset, holds no field. -/
theorem field_applyClear (e j : Nat) (keep : Bool) (s : State) : (elem (applyClear e keep s) e).field j = 0 := by
  rw [elem_applyClear]
  cases keep <;> rfl

theorem pendingCommand_effect {s : State} {e d i f : Nat} {k : District} {v : W32} (hd : distOf s e = some (d, k)) :
    ((k.gated = true ∨ readyPend s k e (elem s e) = none) → exec (.pendingCommandApply e) s = .next s) ∧
    (k.gated = false → readyPend s k e (elem s e) = some i →
      ((elem s e).pend.getD i .clear = .write f v →
        ∃ (t : State), exec (.pendingCommandApply e) s = .next t ∧ (elem t e).pend = listDel (elem s e).pend i ∧
          ((f < 0xD1 ∨ 0xE0 ≤ f) → (elem t e).field f = v) ∧ (∀ j, j ≠ f → (elem t e).field j = (elem s e).field j)) ∧
      ((elem s e).pend.getD i .clear = .clear →
        ∃ (t : State), exec (.pendingCommandApply e) s = .next t ∧ (elem t e).pend = listDel (elem s e).pend i ∧
          (∀ j, (elem t e).field j = 0) ∧
          ((elem s e).running k = false → elem t e = { Elem.reset with pend := listDel (elem s e).pend i }))) := by
  refine ⟨pendingCommand_waits hd, fun hg hr => ⟨fun hp => ?_, fun hp => ?_⟩⟩
  · refine ⟨_, pendingWrite_applies hd hg hr hp, ?_⟩
    rw [elem_setElem_same]
    exact ⟨rfl, fun hf => Elem.field_setField_same e v _ hf, fun j hj => Elem.field_setField_other e v _ hj⟩
  · refine ⟨_, pendingClear_applies hd hg hr hp, ?_⟩
    rw [elem_updElem_same]
    refine ⟨rfl, fun j => field_applyClear e j _ s, fun hrun => ?_⟩
    rw [elem_applyClear, hrun]
    rfl

/-! ## Pending settings of a switch (09 R277) -/

theorem pendingSwitch_effect {s : State} {b : Nat} {p : Nat × Option Nat × Nat}
    (hp : (switch s b).pend.find? (fun x => pendReady s b x && pendTurn (switch s b).pend x) = some p) :
    (p.2.1 = none → ∃ (t : State), exec (.pendingSwitchApply b) s = .next t ∧ (switch t b).sources p.1 = [] ∧
      (switch t b).pend = (switch s b).pend.erase p) ∧
    (∀ (src d : Nat) (k : District), p.2.1 = some src → districtAt s b = some d → mget? s.districts d = some k →
      edgeOk (updSwitch s b (fun w => { w with pend := w.pend.erase p })) k b p.1 true = true →
      edgeOk (updSwitch s b (fun w => { w with pend := w.pend.erase p })) k b src false = true →
      ∃ (t : State), exec (.pendingSwitchApply b) s = .next t ∧ src ∈ (switch t b).sources p.1 ∧
        (switch t b).pend = (switch s b).pend.erase p) := by
  have hexec : exec (.pendingSwitchApply b) s = execPendingSwitchApply b s := rfl
  rw [hexec]
  unfold execPendingSwitchApply
  simp only [hp]
  refine ⟨fun hnone => ?_, fun src d k hsrc hat hk hdest hfrom => ?_⟩
  · simp only [hnone]
    exact ⟨_, rfl, sources_switchClear_same _ _ _, by simp⟩
  · simp only [hsrc, hat, hk, hdest, hfrom, Bool.and_self, if_true]
    refine ⟨_, rfl, ?_, by simp⟩
    rw [switch_updSwitch_same]
    exact mem_sources_switchSet _ _ _ _ _

theorem pendingSwitch_waits {s : State} {b : Nat}
    (h : (switch s b).pend.find? (fun x => pendReady s b x && pendTurn (switch s b).pend x) = none) :
    exec (.pendingSwitchApply b) s = .next s := by
  change execPendingSwitchApply b s = .next s
  unfold execPendingSwitchApply
  simp only [h]

/-- Behind a pending CLEAR of the block's origin at the head of a list, no setting has its turn (02 R70). -/
theorem pendTurn_behind_clearAll {l : List (Nat × Option Nat × Nat)} (h : l.head?.map Prod.fst = some clearAll) (p : Nat × Option Nat × Nat) :
    pendTurn l p = false := by
  cases l with
  | nil => simp at h
  | cons a l =>
    have ha : a.1 = clearAll := by simpa using h
    by_cases hp : a = p
    · subst hp; simp [pendTurn, ha]
    · simp [pendTurn, hp, ha]

/-- Settles O49: each command is a case of `cmdStep`, which `LoadAt.command_eq` shows to be the effect of a load that goes on; where a load
does not go on, `command` ends before it. -/
theorem configurationCommands : Obligations.ConfigurationCommands := by
  unfold Obligations.ConfigurationCommands
  refine ⟨?_, ?_, fun s e d i f k v hd => pendingCommand_effect hd, fun s b p hp => pendingSwitch_effect hp, ?_, ?_⟩
  · intro s s0 s1 s2 d w v x y e f k run hs0 hdist hcfg hclock hgood hmore hword hkept hroom hfirst moved stopped good bad wrote
    subst hs0
    have h : LoadAt s d k run w s1 := ⟨hdist, hcfg, hclock, hgood, hmore, hword, hkept, hroom, hfirst⟩
    refine ⟨fun hk hv hf => plainWrite_effect h hk hv hf, fun hk => setElementCursor_effect h hk, fun hk => wideWrite_effect h hk,
      fun hw h6 => h.stops rfl (cmdKind_reserved hw h6) rfl (cmdControl_reserved (.inl h6)), fun hw hx => ?_, fun hw hx => ?_,
      fun hw hop => commit_effect h hw hop⟩
    · have reserved {i : Instr} {op : Nat} (hi : exec i s = .next (command (3 + op) d s)) (h6 : op < 6) (h2 : op ≠ 2)
          (hop : nb w 29 26 = op) : Stops s i d run w 0x141 1 := h.control_reserved hi hw hop h6 (.inr ⟨h2, hx⟩)
      exact ⟨reserved rfl (by omega) (by omega), reserved rfl (by omega) (by omega), reserved rfl (by omega) (by omega),
        reserved rfl (by omega) (by omega), reserved rfl (by omega) (by omega)⟩
    · exact ⟨nop_effect h hw hx, stage_effect h hw hx, abandon_effect h hw hx, wave_effect h hw hx, clear_effect h hw hx⟩
  · intro s s0 s1 d kd w k run c p i hi hs0
    subst hs0
    rw [exec_of_isCommand hi]
    refine ⟨fun hno => by rw [command_noDistrict kd hno], fun hk => ⟨fun hno => by rw [command_noLoad kd hk hno], fun hrun =>
      ⟨fun hwait => by rw [command_waits kd hk hrun hwait], fun hclock hgood hmore hfirst => ⟨fun hword hother => ?_, fun hword => ?_,
        fun hword => ?_⟩⟩⟩⟩
    · rw [command_atWord kd hk hrun hclock hgood hmore hfirst hword]
      obtain hother | ⟨hwave, hfull⟩ := hother
      · rw [if_pos hother]
      · simp [hwave, hfull]
    · rw [command_wordWaits kd hk hrun hclock hgood hmore hfirst hword]
    · rw [command_wordFaults kd hk hrun hclock hgood hmore hfirst hword]
  · intro s b hnone
    refine pendingSwitch_waits (List.find?_eq_none.2 fun p hp => ?_)
    simpa [Bool.and_eq_true, ← Bool.not_eq_true, imp_iff_not_or] using hnone p hp
  · intro s b hhead
    exact pendingSwitch_waits (List.find?_eq_none.2 fun p _ => by simp [pendTurn_behind_clearAll hhead p])

end Sys2Proof.Machine
end

section
/-! PROOFS. The hops of a token (02 R58; 09 R271): from a port to its link, into a switch, and from a hop into a port, over a zone boundary,
or on to the next switch. -/

namespace Sys2Proof.Machine

/-! ## What is read from the districts, or the quarters, alone -/

theorem districtAt_of_districts {s t : State} (h : t.districts = s.districts) (b : Nat) : districtAt t b = districtAt s b := by
  simp [districtAt, h]

theorem distOf_of_districts {s t : State} (h : t.districts = s.districts) (e : Nat) : distOf t e = distOf s e := by
  simp [distOf, districtAt_of_districts h, h]

theorem quarter_of_quarters {s t : State} (h : t.quarters = s.quarters) (q : Nat) : quarter t q = quarter s q := by simp [quarter, h]

theorem zoneOf_of_quarters {s t : State} (h : t.quarters = s.quarters) (b : Nat) : zoneOf t b = zoneOf s b := by
  simp [zoneOf, zmapReg, quarter_of_quarters h]

/-! ## From a port to its link -/

theorem portToLink_waits {s : State} {e p : Nat} (h : blockGated s (elemBlock e) = true ∨ 2 ≤ (mget (elem s e).outL p []).length ∨
    (switch s (elemBlock e)).dests (elemLink e p) = []) : portToLink e p s = s := by
  unfold portToLink
  refine if_pos ?_
  simpa [or_assoc] using h

/-- Nothing keeps a token from its link: an ungated block, room on the link, and somewhere to go. -/
structure LinkOpen (s : State) (e p : Nat) : Prop where
  clock : blockGated s (elemBlock e) = false
  room : (mget (elem s e).outL p []).length < 2
  leads : (switch s (elemBlock e)).dests (elemLink e p) ≠ []

theorem LinkOpen.passes {s : State} {e p : Nat} (h : LinkOpen s e p) : (blockGated s (elemBlock e) ||
    decide ((mget (elem s e).outL p []).length ≥ 2) || ((switch s (elemBlock e)).dests (elemLink e p)).isEmpty) = false := by
  simpa [h.clock, h.leads] using h.room

theorem portToLink_data {s : State} {e p : Nat} {x : Token} {rest : List Token} (h : LinkOpen s e p) (hp : p < 4)
    (hx : mget (elem s e).outB p [] = x :: rest) : portToLink e p s = setElem s e { elem s e with
      outB := mset (elem s e).outB p rest, outL := mset (elem s e).outL p (mget (elem s e).outL p [] ++ [x]) } := by
  unfold portToLink
  simp [h.passes, hp, hx]

/-- A control token as it leaves its port (02 R54). -/
def ctToken (v : Bool) (i : Nat) : Token := ⟨false, 0, 0, 0, 0, if v then 1 else 0, i, i, []⟩

theorem portToLink_control {s : State} {e p i : Nat} {v : Bool} {rest : List (Bool × Nat)} (h : LinkOpen s e p) (hp : 4 ≤ p)
    (hw : ((elem s e).field (0x78 + (p - 4))).toNat % 4 = 2) (hx : mget (elem s e).ctB (p - 4) [] = (v, i) :: rest) :
    portToLink e p s = setElem s e { elem s e with
      ctB := mset (elem s e).ctB (p - 4) rest, outL := mset (elem s e).outL p (mget (elem s e).outL p [] ++ [ctToken v i]) } := by
  unfold portToLink
  simp only [h.passes, if_neg (Nat.not_lt.2 hp), hx, hw]
  rfl

/-! ## Placing a token at the hops of its destinations -/

theorem placeHop_eq (b d i : Nat) (t : Token) (s : State) : ∃ (g : SMap (Nat × Nat)), switch (placeHop b d i t s) b =
    { switch s b with hop := mset (switch s b).hop d ((switch s b).held d ++ [t]), burst := g } := by
  unfold placeHop
  rw [switch_updSwitch_same]
  dsimp only
  split
  · exact ⟨_, rfl⟩
  · split
    · exact ⟨_, rfl⟩
    · split <;> exact ⟨_, rfl⟩

theorem held_placeHop_same (b d i : Nat) (t : Token) (s : State) :
    (switch (placeHop b d i t s) b).held d = (switch s b).held d ++ [t] := by
  obtain ⟨g, h⟩ := placeHop_eq b d i t s
  rw [h]
  exact mget_mset_same _ _ _ _

theorem held_placeHop_other {d d' : Nat} (b i : Nat) (t : Token) (s : State) (hd : d' ≠ d) :
    (switch (placeHop b d i t s) b).held d' = (switch s b).held d' := by
  obtain ⟨g, h⟩ := placeHop_eq b d i t s
  rw [h]
  exact mget_mset_other _ _ _ _ _ hd

/-- A token is placed at the hop of each destination of a list. -/
def placeHops (b i : Nat) (t : Token) (l : List Nat) (s : State) : State := l.foldl (fun s d => placeHop b d i t s) s

@[simp] theorem placeHops_elems (b i : Nat) (t : Token) (l : List Nat) : ∀ (s : State), (placeHops b i t l s).elems = s.elems := by
  induction l with
  | nil => intro s; rfl
  | cons d l ih => intro s; exact ih (placeHop b d i t s)

theorem switch_placeHops_other {b c : Nat} (i : Nat) (t : Token) (l : List Nat) (hc : c ≠ b) : ∀ (s : State),
    switch (placeHops b i t l s) c = switch s c := by
  induction l with
  | nil => intro s; rfl
  | cons d l ih => intro s; exact (ih (placeHop b d i t s)).trans (switch_updSwitch_other s b c _ hc)

theorem held_placeHops_other {b i d : Nat} (t : Token) (l : List Nat) (hd : d ∉ l) : ∀ (s : State),
    (switch (placeHops b i t l s) b).held d = (switch s b).held d := by
  induction l with
  | nil => intro s; rfl
  | cons a l ih =>
    intro s
    obtain ⟨ha, hl⟩ : d ≠ a ∧ d ∉ l := by simpa using hd
    exact (ih hl (placeHop b a i t s)).trans (held_placeHop_other b i t s ha)

theorem held_placeHops {b i d : Nat} (t : Token) (l : List Nat) : ∀ (s : State), l.Nodup → d ∈ l →
    (switch (placeHops b i t l s) b).held d = (switch s b).held d ++ [t] := by
  induction l with
  | nil => intro s _ hd; simp at hd
  | cons a l ih =>
    intro s hn hd
    obtain ⟨ha, hl⟩ := List.nodup_cons.1 hn
    by_cases hda : d = a
    · subst hda
      exact (held_placeHops_other t l ha (placeHop b d i t s)).trans (held_placeHop_same b d i t s)
    · exact (ih (placeHop b a i t s) hl ((List.mem_cons.1 hd).resolve_left hda)).trans (by rw [held_placeHop_other b i t s hda])

/-! ## A head that moves alone through a switch (02 R58; 09 R271) -/

/-- Every destination of a source has room, and no burst of another source holds the merge before it. -/
def Passes (s : State) (b i : Nat) : Prop := (switch s b).dests i ≠ [] ∧ ∀ d ∈ (switch s b).dests i,
  ((switch s b).held d).length < hopRoom b (switch s b) d ∧
  (((switch s b).sources d).length < 2 ∨ mget? (switch s b).burst d = none ∨ ∃ n, mget? (switch s b).burst d = some (i, n))

theorem Token.alone {t : Token} (h : t.both = false) : t.kind ≠ 8 ∧ t.kind ≠ 9 := by
  have := of_decide_eq_false h
  omega

theorem passOk_of_passes {s : State} {b i d : Nat} {x : Token} (hx : x.both = false) (hp : Passes s b i)
    (hd : d ∈ (switch s b).dests i) (group : List Nat) : passOk s b group i x d = true := by
  obtain ⟨hroom, hsrc⟩ := hp.2 d hd
  unfold passOk
  obtain h | h | ⟨n, h⟩ := hsrc <;> simp [hroom, h, hx]

/-- A head that passes merges by itself draws no other source with it. -/
theorem together_alone {s : State} {b i : Nat} {x : Token} {rest : List Token} (hl : sourceList s b i = x :: rest)
    (hx : x.both = false) (n : Nat) : together s b n [i] = [i] := by
  cases n with
  | zero => rfl
  | succ n => simp [together, hl, hx]

theorem mergedToken_alone {x : Token} (hx : x.both = false) (s : State) (b d : Nat) : mergedToken s b d x = x := by
  obtain ⟨h8, h9⟩ := Token.alone hx
  simp [mergedToken, h8, h9]

theorem relabel_state {x : Token} (hx : x.kind ≠ 8) (s : State) (b i : Nat) : (relabel s b i x).2 = s := by
  unfold relabel enterStream
  split
  · split
    · rfl
    · split
      · rfl
      · rfl
  · rfl

theorem relabel_link {i : Nat} (hi : idClass i = 3) (s : State) (b : Nat) (x : Token) : relabel s b i x = (x, s) := by
  simp [relabel, sourceHop, hi]

theorem relabelHeads_one (s : State) (b i : Nat) (x : Token) : relabelHeads b [(i, some x)] s =
    (mset [] i (relabel s b i x).1.inv, (relabel s b i x).2) := rfl

/-- Of the moves of one token to several destinations, the first to each is kept. -/
theorem foldl_firsts {α : Type} (c : α) (l : List Nat) : ∀ (acc : List Nat), acc.Nodup → ∃ (m : List Nat), m.Nodup ∧
    (∀ d, d ∈ m ↔ d ∈ acc ∨ d ∈ l) ∧ (l.map (fun d => (d, c))).foldl (fun acc x => if acc.any (fun y => y.1 == x.1) then acc else acc ++ [x])
      (acc.map (fun d => (d, c))) = m.map (fun d => (d, c)) := by
  induction l with
  | nil => intro acc h; exact ⟨acc, h, by simp, rfl⟩
  | cons a l ih =>
    intro acc h
    by_cases ha : a ∈ acc
    · obtain ⟨m, hm, hmem, he⟩ := ih acc h
      refine ⟨m, hm, fun d => ?_, ?_⟩
      · rw [hmem, List.mem_cons]
        constructor
        · rintro (hd | hd)
          · exact .inl hd
          · exact .inr (.inr hd)
        · rintro (hd | rfl | hd)
          · exact .inl hd
          · exact .inl ha
          · exact .inr hd
      · rw [← he]
        simp [ha]
    · have hn : (acc ++ [a]).Nodup := by
        rw [List.nodup_append]
        simp only [List.nodup_singleton, List.mem_singleton]
        exact ⟨h, trivial, fun y hy z hz => by rintro rfl; exact ha (hz ▸ hy)⟩
      obtain ⟨m, hm, hmem, he⟩ := ih (acc ++ [a]) hn
      refine ⟨m, hm, fun d => ?_, ?_⟩
      · rw [hmem]; simp [or_assoc]
      · rw [← he]
        simp [ha]

/-- The head of a source that moves alone goes to every hop that it is set to, each once. -/
theorem switchMove_alone {s : State} {b i : Nat} {x : Token} {rest : List Token} (hl : sourceList s b i = x :: rest)
    (hx : x.both = false) (hg : blockGated s b = false) (hf : foreignTrack s b i = false) (hp : Passes s b i) :
    ∃ (m : List Nat) (n : Nat), m.Nodup ∧ (∀ d, d ∈ m ↔ d ∈ (switch s b).dests i) ∧ n = (relabel (sourceSet b i rest s) b i x).1.inv ∧
      switchMove b i s = placeHops b i { x with inv := n } m (sourceSet b i rest s) := by
  obtain ⟨m, hm, hmem, huniq⟩ := foldl_firsts (i, some x) ((switch s b).dests i) [] List.nodup_nil
  obtain ⟨h8, -⟩ := Token.alone hx
  refine ⟨m, _, hm, by simpa using hmem, rfl, ?_⟩
  have hgroup : together s b 64 [i] = [i] := together_alone hl hx 64
  have hall : ((switch s b).dests i).all (passOk s b [i] i x) = true :=
    List.all_eq_true.2 (fun d hd => passOk_of_passes hx hp hd [i])
  have hleave (nb d : Nat) : leaveTrack nb d x (sourceSet b i rest s) = sourceSet b i rest s := by simp [leaveTrack, h8]
  have hput : (m.map (fun d => (d, (i, some x)))).filterMap (fun y => y.2.2.map (fun t => (y.1, y.2.1, mergedToken s b y.1 t))) =
      m.map (fun d => (d, i, x)) := by
    rw [List.filterMap_map, ← List.filterMap_eq_map]
    refine List.filterMap_congr (fun d _ => ?_)
    simp [mergedToken_alone hx]
  have hfirst : (((switch s b).dests i).map (fun d => (d, i, some x))).foldl
      (fun acc x => if acc.any (fun y => y.1 == x.1) then acc else acc ++ [x]) [] = m.map (fun d => (d, i, some x)) := huniq
  unfold switchMove
  rcases hsrc : sourceHop b i with _ | ⟨nb, d⟩ <;>
    simp [hgroup, hl, hg, hf, hall, hp.1, hsrc, hleave, hfirst, hput, relabelHeads_one, relabel_state h8, placeHops, List.foldl_map]

/-- A head leaves a link alone: it comes to every hop that the link is set to. -/
theorem switchMove_link {s : State} {e p b i : Nat} {x : Token} {rest : List Token} (hi : idClass i = 3) (he : idElem b i = e)
    (hp : idLink i = p) (hg : blockGated s b = false) (hx : mget (elem s e).outL p [] = x :: rest) (hb : x.both = false)
    (hpass : Passes s b i) : ∃ (t : State), switchMove b i s = t ∧ mget (elem t e).outL p [] = rest ∧
      ∀ d ∈ (switch s b).dests i, (switch t b).held d = (switch s b).held d ++ [x] := by
  have hl : sourceList s b i = x :: rest := by rw [sourceList, if_pos hi, he, hp, hx]
  have hs : sourceSet b i rest s = updElem s e (fun y => { y with outL := mset y.outL p rest }) := by
    rw [sourceSet, if_pos hi, he, hp]
  have hf : foreignTrack s b i = false := by simp [foreignTrack, sourceHop, hi]
  obtain ⟨m, n, hm, hmem, hn, hmove⟩ := switchMove_alone hl hb hg hf hpass
  rw [hn, relabel_link hi, hs] at hmove
  refine ⟨_, hmove, ?_, fun d hd => held_placeHops x m _ hm ((hmem d).2 hd)⟩
  rw [elem_of_elems (placeHops_elems _ _ _ _ _), elem_updElem_same]
  exact mget_mset_same _ _ _ _

/-- What a track's identifier says where it comes in: the hop that drives it. -/
theorem sourceHop_track {b i nb d : Nat} (h : sourceHop b i = some (nb, d)) (s : State) (l : List Token) :
    sourceList s b i = (switch s nb).held d ∧
      sourceSet b i l s = updSwitch s nb (fun w => { w with hop := mset w.hop d l }) := by
  unfold sourceHop at h
  unfold sourceList sourceSet
  split at h
  · simp at h
  · next hi =>
    split at h
    · next nb' e' l' hacross =>
      obtain ⟨rfl, rfl⟩ : nb' = nb ∧ trackId (idClass i) e' (idTrack i) = d := by simpa using h
      simp [hi]
    · simp at h

/-- A head leaves the hop of a track alone: it comes to every hop that the track is set to in the next switch, under the label of the
district that it enters (09 R265). -/
theorem switchMove_track {s : State} {b d nb i : Nat} {x : Token} {rest : List Token} (hsrc : sourceHop nb i = some (b, d))
    (hnb : nb ≠ b) (hzone : zoneOf s b = zoneOf s nb) (hg : blockGated s nb = false) (hx : (switch s b).held d = x :: rest)
    (hb : x.both = false) (hpass : Passes s nb i) : ∃ (t : State), switchMove nb i s = t ∧ (switch t b).held d = rest ∧
      ∀ d' ∈ (switch s nb).dests i, ∃ (y : Token), (switch t nb).held d' = (switch s nb).held d' ++ [y] ∧ { y with inv := x.inv } = x := by
  obtain ⟨hlist, hset⟩ := sourceHop_track hsrc s rest
  have hf : foreignTrack s nb i = false := by simp [foreignTrack, hsrc, hzone]
  obtain ⟨m, n, hm, hmem, -, hmove⟩ := switchMove_alone (hlist.trans hx) hb hg hf hpass
  rw [hset] at hmove
  refine ⟨_, hmove, ?_, fun d' hd' => ⟨{ x with inv := n }, ?_, rfl⟩⟩
  · rw [switch_placeHops_other _ _ _ hnb.symm, switch_updSwitch_same]
    exact mget_mset_same _ _ _ _
  · rw [held_placeHops _ m _ hm ((hmem d').2 hd'), switch_updSwitch_other _ _ _ _ hnb]

/-! ## A token leaves a hop (02 R58) -/

/-- The token at the head of a hop is gone from it. -/
def popHop (b d : Nat) (t : Token) (rest : List Token) (s : State) : State :=
  leaveTrack b d t (updSwitch s b (fun w => { w with hop := mset w.hop d rest }))

@[simp] theorem leaveTrack_districts (b d : Nat) (t : Token) (s : State) : (leaveTrack b d t s).districts = s.districts := by
  unfold leaveTrack; dsimp only; split
  · rfl
  · split <;> rfl
@[simp] theorem leaveTrack_elems (b d : Nat) (t : Token) (s : State) : (leaveTrack b d t s).elems = s.elems := by
  unfold leaveTrack; dsimp only; split
  · rfl
  · split <;> rfl
@[simp] theorem leaveTrack_quarters (b d : Nat) (t : Token) (s : State) : (leaveTrack b d t s).quarters = s.quarters := by
  unfold leaveTrack; dsimp only; split
  · rfl
  · split <;> rfl

@[simp] theorem held_leaveTrack (b d : Nat) (t : Token) (s : State) : (switch (leaveTrack b d t s) b).held = (switch s b).held := by
  have hpass : (switch (updSwitch s b (fun w => { w with passed := w.passed ++ [(d, t.inv)] })) b).held = (switch s b).held := by
    rw [switch_updSwitch_same]; rfl
  unfold leaveTrack
  dsimp only
  split
  · rfl
  · split
    · rw [held_switchClear, hpass]
    · exact hpass

@[simp] theorem popHop_districts (b d : Nat) (t : Token) (rest : List Token) (s : State) :
    (popHop b d t rest s).districts = s.districts := leaveTrack_districts _ _ _ _
@[simp] theorem popHop_elems (b d : Nat) (t : Token) (rest : List Token) (s : State) :
    (popHop b d t rest s).elems = s.elems := leaveTrack_elems _ _ _ _
@[simp] theorem popHop_quarters (b d : Nat) (t : Token) (rest : List Token) (s : State) :
    (popHop b d t rest s).quarters = s.quarters := leaveTrack_quarters _ _ _ _
@[simp] theorem elem_popHop (b d e : Nat) (t : Token) (rest : List Token) (s : State) : elem (popHop b d t rest s) e = elem s e :=
  elem_of_elems (popHop_elems b d t rest s) e

theorem held_popHop (b d : Nat) (t : Token) (rest : List Token) (s : State) : (switch (popHop b d t rest s) b).held d = rest := by
  rw [popHop, held_leaveTrack, switch_updSwitch_same]
  exact mget_mset_same _ _ _ _

section
variable {s : State} {b d : Nat} {x : Token} {rest : List Token}

theorem hopOnward_gated (hx : (switch s b).held d = x :: rest) (hg : blockGated s b = true) : hopOnward b d s = s := by
  simp [hopOnward, hx, hg]

theorem hopOnward_arrives {s1 : State} (hx : (switch s b).held d = x :: rest) (hg : blockGated s b = false) (hd : idClass d = 3)
    (ha : arrive b d x s = some s1) : hopOnward b d s = popHop b d x rest s1 := by
  simp [hopOnward, hx, hg, hd, ha, popHop]

theorem hopOnward_stays (hx : (switch s b).held d = x :: rest) (hg : blockGated s b = false) (hd : idClass d = 3)
    (ha : arrive b d x s = none) : hopOnward b d s = s := by
  simp [hopOnward, hx, hg, hd, ha]

theorem hopOnward_bollard {nb e l : Nat} (hx : (switch s b).held d = x :: rest) (hg : blockGated s b = false) (hd : idClass d ≠ 3)
    (ha : across b d = some (nb, e, l)) (hz : zoneOf s b ≠ zoneOf s nb) :
    hopOnward b d s = bollard b d nb x (popHop b d x rest s) := by
  simp [hopOnward, hx, hg, hd, ha, hz, popHop]

theorem hopOnward_track {nb e l : Nat} (hx : (switch s b).held d = x :: rest) (hg : blockGated s b = false) (hd : idClass d ≠ 3)
    (ha : across b d = some (nb, e, l)) (hz : zoneOf s b = zoneOf s nb) :
    hopOnward b d s = switchMove nb (trackId (idClass d) e (idTrack d)) s := by
  simp [hopOnward, hx, hg, hd, ha, hz]

end

/-! ## Into a port (09 R260; 17 R396) -/

section
variable {s : State} {b d : Nat} {x : Token}

theorem arrive_data (hp : idLink d < 4) (hr : (mget (elem s (idElem b d)).inB (idLink d) []).length < 4) :
    arrive b d x s = some (updElem s (idElem b d) (fun y => y.fromRoute (idLink d) x)) := by
  simp [arrive, hp, hr]

theorem arrive_data_full (hp : idLink d < 4) (hr : 4 ≤ (mget (elem s (idElem b d)).inB (idLink d) []).length) :
    arrive b d x s = none := by
  simp [arrive, hp, Nat.not_lt.2 hr]

theorem arrive_control (hp : 4 ≤ idLink d) (hw : (elem s (idElem b d)).field (0x78 + (idLink d - 4)) = 1)
    (hr : (mget (elem s (idElem b d)).ctB (idLink d - 4) []).length < 2) :
    arrive b d x s = some (updElem s (idElem b d) (fun y => { y with
      ctB := mset y.ctB (idLink d - 4) (mget y.ctB (idLink d - 4) [] ++ [(x.pay.toNat % 2 == 1, x.inv)]) })) := by
  simp [arrive, Nat.not_lt.2 hp, hw, hr]

theorem arrive_control_shut (hp : 4 ≤ idLink d) (h : (elem s (idElem b d)).field (0x78 + (idLink d - 4)) ≠ 1 ∨
    2 ≤ (mget (elem s (idElem b d)).ctB (idLink d - 4) []).length) : arrive b d x s = none := by
  have hno : ¬ ((elem s (idElem b d)).field (0x78 + (idLink d - 4)) = 1 ∧ (mget (elem s (idElem b d)).ctB (idLink d - 4) []).length < 2) :=
    fun hc => h.elim (fun hw => hw hc.1) (fun hr => Nat.not_lt.2 hr hc.2)
  simp only [arrive, if_neg (Nat.not_lt.2 hp), if_neg hno]

end

theorem inB_fromRoute (y : Elem) (p : Nat) (t : Token) : mget (y.fromRoute p t).inB p [] =
    mget y.inB p [] ++ [if routeBad y p t then t else { t with route := [] }] := mget_mset_same _ _ _ _

theorem hopArrive_same {s : State} {b d : Nat} (h : hopOnward b d s = s) : hopArrive b d s = s := by
  simp [hopArrive, h]

theorem hopArrive_control {s s1 : State} {b d : Nat} (h : hopOnward b d s = s1)
    (hin : (elem s1 (idElem b d)).inB = (elem s (idElem b d)).inB) : hopArrive b d s = s1 := by
  simp [hopArrive, h, hin]

theorem hopArrive_data {s s1 : State} {b d : Nat} {u : Token} (h : hopOnward b d s = s1)
    (hin : mget (elem s1 (idElem b d)).inB (idLink d) [] = mget (elem s (idElem b d)).inB (idLink d) [] ++ [u]) :
    hopArrive b d s = routeCheck (idElem b d) (idLink d) s1 := by
  simp [hopArrive, h, hin]

theorem routeCheck_met {s : State} {e p : Nat} {l : List Token} {u : Token} (h : mget (elem s e).inB p [] = l ++ [u]) (hu : u.route = []) :
    routeCheck e p s = s := by
  simp [routeCheck, h, hu]

/-- Where the counts of a milestone are not met, the first producer that it names has a region error (17 R396; log entry 57). -/
theorem routeCheck_bad {s : State} {e port p i d : Nat} {w : List Nat} {more : List (Nat × List Nat)} {l : List Token} {u : Token} {k : District}
    (h : mget (elem s e).inB port [] = l ++ [u]) (hu : u.route = (p, w) :: more) (hd : distOf s p = some (d, k))
    (hj : (elem s p).joined = some i) (hp : p ≠ e) : routeCheck e port s = regionError d i p false p
      (updElem s e (fun x => { x with inB := mset x.inB port ((mget x.inB port []).map (fun u => { u with route := [] })) })) := by
  simp only [routeCheck, h, List.getLast?_concat, hu, distOf_of_districts (updElem_districts s e _), hd, elem_updElem_other _ _ _ _ hp, hj]

/-! ## Bollards (13 R358, R359) -/

@[simp] theorem placeWrite_switches (s : State) (p : Place) (bs : List Byte) (m : Bool) : (placeWrite s p bs m).switches = s.switches := by
  cases p <;> rfl
@[simp] theorem placeWrite_quarters (s : State) (p : Place) (bs : List Byte) (m : Bool) : (placeWrite s p bs m).quarters = s.quarters := by
  cases p <;> rfl
@[simp] theorem placeWrite_elems (s : State) (p : Place) (bs : List Byte) (m : Bool) : (placeWrite s p bs m).elems = s.elems := by
  cases p <;> rfl

theorem faultQueue_keeps (asid elemA zs zf track iter : Nat) (s : State) :
    (faultQueue asid elemA zs zf track iter s).switches = s.switches ∧ (faultQueue asid elemA zs zf track iter s).quarters = s.quarters := by
  by_cases h : spaceFq s asid = 0
  · simp only [faultQueue, if_pos h, and_self]
  · simp only [faultQueue, if_neg h, placeWrite_switches, placeWrite_quarters, and_self]

@[simp] theorem raise_switches (c : Nat) (code : BitVec 10) (tval iter : Word) (s : State) :
    (raise c code tval iter s).switches = s.switches := rfl
@[simp] theorem raise_quarters (c : Nat) (code : BitVec 10) (tval iter : Word) (s : State) :
    (raise c code tval iter s).quarters = s.quarters := rfl

/-- A drop is counted, and a DONE among the drops is noted as lost. -/
def dropCounted (b : Nat) (t : Token) (s : State) : State :=
  let s0 := updQuarter s (blockQ b) (fun k => { k with bdrop := mset k.bdrop (zoneOf s b) (satInc (mget k.bdrop (zoneOf s b) 0)) })
  if t.kind = 8 then loseDone t.home s0 else s0

theorem quarter_dropCounted (b : Nat) (t : Token) (s : State) : quarter (dropCounted b t s) (blockQ b) =
    { quarter s (blockQ b) with
      bdrop := mset (quarter s (blockQ b)).bdrop (zoneOf s b) (satInc (mget (quarter s (blockQ b)).bdrop (zoneOf s b) 0)) } := by
  have hq : (dropCounted b t s).quarters = (updQuarter s (blockQ b)
      (fun k => { k with bdrop := mset k.bdrop (zoneOf s b) (satInc (mget k.bdrop (zoneOf s b) 0)) })).quarters := by
    unfold dropCounted
    dsimp only
    split <;> rfl
  rw [quarter_of_quarters hq, quarter_updQuarter_same]

theorem switch_dropCounted (b c : Nat) (t : Token) (s : State) : switch (dropCounted b t s) c = switch s c := by
  unfold dropCounted
  dsimp only
  split <;> rfl

/-- Behind the count a bollard notes at most, at its own switch, that the drop has been told. -/
theorem bollard_cases (b d nb : Nat) (t : Token) (s : State) :
    (bollard b d nb t s).quarters = (dropCounted b t s).quarters ∧
    ((bollard b d nb t s).switches = (dropCounted b t s).switches ∨ (bollard b d nb t s).switches =
      (updSwitch (dropCounted b t s) b (fun w => { w with dropped := w.dropped ++ [(d, t.inv)] })).switches) := by
  unfold bollard
  dsimp only
  split
  · exact ⟨rfl, .inl rfl⟩
  · split
    · exact ⟨rfl, .inl rfl⟩
    · split
      · exact ⟨rfl, .inl rfl⟩
      · rw [raise_quarters, raise_switches, (faultQueue_keeps _ _ _ _ _ _ _).1, (faultQueue_keeps _ _ _ _ _ _ _).2]
        exact ⟨rfl, .inr rfl⟩

theorem held_bollard (b d nb : Nat) (t : Token) (s : State) : (switch (bollard b d nb t s) b).held = (switch s b).held := by
  obtain h | h := (bollard_cases b d nb t s).2
  · rw [switch_of_switches h, switch_dropCounted]
  · rw [switch_of_switches h, switch_updSwitch_same, ← switch_dropCounted b b t s]
    rfl

theorem bdrop_bollard (b d nb : Nat) (t : Token) (s : State) : mget (quarter (bollard b d nb t s) (blockQ b)).bdrop (zoneOf s b) 0 =
    satInc (mget (quarter s (blockQ b)).bdrop (zoneOf s b) 0) := by
  rw [quarter_of_quarters (bollard_cases b d nb t s).1, quarter_dropCounted]
  exact mget_mset_same _ _ _ _

/-! ## The effect of each hop -/

theorem exec_tokenHop_port (s : State) (e p : Nat) : exec (.tokenHop 0 e p) s = .next (portToLink e p s) := rfl

theorem exec_tokenHop_link (s : State) (e p : Nat) :
    exec (.tokenHop 1 e p) s = .next (switchMove (elemBlock e) (elemLink e p) s) := rfl

theorem exec_tokenHop_arrive {d : Nat} (h : idClass d = 3) (s : State) (b : Nat) :
    exec (.tokenHop 2 b d) s = .next (hopArrive b d s) := congrArg Host.Outcome.next (if_pos h)

theorem exec_tokenHop_onward {d : Nat} (h : idClass d ≠ 3) (s : State) (b : Nat) :
    exec (.tokenHop 2 b d) s = .next (hopOnward b d s) := congrArg Host.Outcome.next (if_neg h)

theorem tokenHop_port_effect (s : State) (e p : Nat) :
    ((blockGated s (elemBlock e) = true ∨ 2 ≤ (mget (elem s e).outL p []).length ∨ (switch s (elemBlock e)).dests (elemLink e p) = []) →
      exec (.tokenHop 0 e p) s = .next s) ∧
    (blockGated s (elemBlock e) = false → (mget (elem s e).outL p []).length < 2 →
      (switch s (elemBlock e)).dests (elemLink e p) ≠ [] →
      (∀ x rest, p < 4 → mget (elem s e).outB p [] = x :: rest →
        ∃ (t : State), exec (.tokenHop 0 e p) s = .next t ∧ mget (elem t e).outB p [] = rest ∧
          mget (elem t e).outL p [] = mget (elem s e).outL p [] ++ [x]) ∧
      (∀ v i rest, 4 ≤ p → ((elem s e).field (0x78 + (p - 4))).toNat % 4 = 2 → mget (elem s e).ctB (p - 4) [] = (v, i) :: rest →
        ∃ (t : State) (x : Token), exec (.tokenHop 0 e p) s = .next t ∧ mget (elem t e).ctB (p - 4) [] = rest ∧
          mget (elem t e).outL p [] = mget (elem s e).outL p [] ++ [x] ∧ x.pay.toNat = (if v then 1 else 0) ∧ x.inv = i ∧ x.vec = false)) := by
  rw [exec_tokenHop_port]
  refine ⟨fun h => by rw [portToLink_waits h], fun hg hr hl => ⟨fun x rest hp hx => ?_, fun v i rest hp hw hx => ?_⟩⟩
  · rw [portToLink_data ⟨hg, hr, hl⟩ hp hx]
    refine ⟨_, rfl, ?_⟩
    rw [elem_setElem_same]
    exact ⟨mget_mset_same _ _ _ _, mget_mset_same _ _ _ _⟩
  · rw [portToLink_control ⟨hg, hr, hl⟩ hp hw hx]
    refine ⟨_, ctToken v i, rfl, ?_⟩
    rw [elem_setElem_same]
    refine ⟨mget_mset_same _ _ _ _, mget_mset_same _ _ _ _, ?_, rfl, rfl⟩
    cases v
    · exact BitVec.toNat_zero
    · exact BitVec.toNat_one (by omega)

theorem tokenHop_link_effect {s : State} {e p b i : Nat} {x : Token} {rest : List Token} (hb : b = elemBlock e) (hi : i = elemLink e p)
    (hc : idClass i = 3) (he : idElem b i = e) (hp : idLink i = p) (hg : blockGated s b = false)
    (hx : mget (elem s e).outL p [] = x :: rest) (hboth : x.both = false) (hpass : Passes s b i) :
    ∃ (t : State), exec (.tokenHop 1 e p) s = .next t ∧ mget (elem t e).outL p [] = rest ∧
      ∀ d ∈ (switch s b).dests i, (switch t b).held d = (switch s b).held d ++ [x] := by
  obtain ⟨t, ht, heffect⟩ := switchMove_link hc he hp hg hx hboth hpass
  exact ⟨t, by rw [exec_tokenHop_link, ← hb, ← hi, ht], heffect⟩

section
variable {s : State} {b d : Nat} {x : Token} {rest : List Token}

/-- A token enters a data port; a milestone whose counts are met drops its route there. -/
theorem tokenHop_data (hx : (switch s b).held d = x :: rest) (hg : blockGated s b = false) (hd : idClass d = 3) (hp : idLink d < 4)
    (hr : (mget (elem s (idElem b d)).inB (idLink d) []).length < 4) : exec (.tokenHop 2 b d) s = .next (routeCheck (idElem b d) (idLink d)
      (popHop b d x rest (updElem s (idElem b d) (fun y => y.fromRoute (idLink d) x)))) := by
  rw [exec_tokenHop_arrive hd]
  refine congrArg _ (hopArrive_data (u := if routeBad (elem s (idElem b d)) (idLink d) x then x else { x with route := [] })
    (hopOnward_arrives hx hg hd (arrive_data hp hr)) ?_)
  rw [elem_popHop, elem_updElem_same, inB_fromRoute]

theorem tokenHop_data_met (hx : (switch s b).held d = x :: rest) (hg : blockGated s b = false) (hd : idClass d = 3) (hp : idLink d < 4)
    (hr : (mget (elem s (idElem b d)).inB (idLink d) []).length < 4) (hroute : routeBad (elem s (idElem b d)) (idLink d) x = false) :
    ∃ (t : State), exec (.tokenHop 2 b d) s = .next t ∧ (switch t b).held d = rest ∧
      mget (elem t (idElem b d)).inB (idLink d) [] = mget (elem s (idElem b d)).inB (idLink d) [] ++ [{ x with route := [] }] := by
  have hin : mget (elem (popHop b d x rest (updElem s (idElem b d) (fun y => y.fromRoute (idLink d) x))) (idElem b d)).inB (idLink d) [] =
      mget (elem s (idElem b d)).inB (idLink d) [] ++ [{ x with route := [] }] := by
    rw [elem_popHop, elem_updElem_same, inB_fromRoute, hroute]
    rfl
  exact ⟨_, (tokenHop_data hx hg hd hp hr).trans (by rw [routeCheck_met hin rfl]), held_popHop _ _ _ _ _, hin⟩

theorem tokenHop_data_bad {p d' i : Nat} {w : List Nat} {more : List (Nat × List Nat)} {k' : District}
    (hx : (switch s b).held d = x :: rest) (hg : blockGated s b = false) (hd : idClass d = 3) (hp : idLink d < 4)
    (hr : (mget (elem s (idElem b d)).inB (idLink d) []).length < 4) (hbad : routeBad (elem s (idElem b d)) (idLink d) x = true)
    (hroute : x.route = (p, w) :: more) (hat : distOf s p = some (d', k')) (hj : (elem s p).joined = some i) (hpe : p ≠ idElem b d) :
    ∃ (u : State), exec (.tokenHop 2 b d) s = .next (regionError d' i p false p u) ∧ (switch u b).held d = rest ∧
      u.districts = s.districts := by
  have hin : mget (elem (popHop b d x rest (updElem s (idElem b d) (fun y => y.fromRoute (idLink d) x))) (idElem b d)).inB (idLink d) [] =
      mget (elem s (idElem b d)).inB (idLink d) [] ++ [x] := by
    rw [elem_popHop, elem_updElem_same, inB_fromRoute, hbad]
    rfl
  have hjoin : (elem (popHop b d x rest (updElem s (idElem b d) (fun y => y.fromRoute (idLink d) x))) p).joined = some i := by
    rw [elem_popHop, elem_updElem_other _ _ _ _ hpe, hj]
  refine ⟨_, (tokenHop_data hx hg hd hp hr).trans (by
    rw [routeCheck_bad hin hroute ((distOf_of_districts (popHop_districts _ _ _ _ _) p).trans hat) hjoin hpe]), ?_, ?_⟩
  · rw [switch_updElem, held_popHop]
  · rw [updElem_districts, popHop_districts, updElem_districts]

theorem tokenHop_full (hx : (switch s b).held d = x :: rest) (hg : blockGated s b = false) (hd : idClass d = 3)
    (ha : arrive b d x s = none) : exec (.tokenHop 2 b d) s = .next s := by
  rw [exec_tokenHop_arrive hd, hopArrive_same (hopOnward_stays hx hg hd ha)]

theorem tokenHop_control (hx : (switch s b).held d = x :: rest) (hg : blockGated s b = false) (hd : idClass d = 3) (hp : 4 ≤ idLink d)
    (hw : (elem s (idElem b d)).field (0x78 + (idLink d - 4)) = 1)
    (hr : (mget (elem s (idElem b d)).ctB (idLink d - 4) []).length < 2) :
    ∃ (t : State), exec (.tokenHop 2 b d) s = .next t ∧ (switch t b).held d = rest ∧
      mget (elem t (idElem b d)).ctB (idLink d - 4) [] = mget (elem s (idElem b d)).ctB (idLink d - 4) [] ++
        [(x.pay.toNat % 2 == 1, x.inv)] := by
  have hon := hopOnward_arrives hx hg hd (arrive_control hp hw hr)
  refine ⟨_, (exec_tokenHop_arrive hd s b).trans (congrArg _ (hopArrive_control hon ?_)), held_popHop _ _ _ _ _, ?_⟩
  · rw [elem_popHop, elem_updElem_same]
  · rw [elem_popHop, elem_updElem_same]
    exact mget_mset_same _ _ _ _

theorem tokenHop_gated (hx : (switch s b).held d = x :: rest) (hg : blockGated s b = true) : exec (.tokenHop 2 b d) s = .next s := by
  have hon := hopOnward_gated hx hg
  by_cases hd : idClass d = 3
  · rw [exec_tokenHop_arrive hd, hopArrive_same hon]
  · rw [exec_tokenHop_onward hd, hon]

theorem tokenHop_bollard {nb e l : Nat} (hx : (switch s b).held d = x :: rest) (hg : blockGated s b = false) (hd : idClass d ≠ 3)
    (ha : across b d = some (nb, e, l)) (hz : zoneOf s b ≠ zoneOf s nb) :
    exec (.tokenHop 2 b d) s = .next (bollard b d nb x (popHop b d x rest s)) := by
  rw [exec_tokenHop_onward hd, hopOnward_bollard hx hg hd ha hz]

theorem tokenHop_bollard_counts {nb e l : Nat} (hx : (switch s b).held d = x :: rest) (hg : blockGated s b = false) (hd : idClass d ≠ 3)
    (ha : across b d = some (nb, e, l)) (hz : zoneOf s b ≠ zoneOf s nb) :
    ∃ (t : State), exec (.tokenHop 2 b d) s = .next t ∧ (switch t b).held d = rest ∧
      mget (quarter t (blockQ b)).bdrop (zoneOf s b) 0 = satInc (mget (quarter s (blockQ b)).bdrop (zoneOf s b) 0) := by
  have hq := popHop_quarters b d x rest s
  refine ⟨_, tokenHop_bollard hx hg hd ha hz, by rw [held_bollard, held_popHop], ?_⟩
  rw [← zoneOf_of_quarters hq b, bdrop_bollard, quarter_of_quarters hq]

theorem tokenHop_track {nb e l i : Nat} (hx : (switch s b).held d = x :: rest) (hg : blockGated s b = false) (hd : idClass d ≠ 3)
    (ha : across b d = some (nb, e, l)) (hz : zoneOf s b = zoneOf s nb) (hi : i = trackId (idClass d) e (idTrack d)) (hnb : nb ≠ b)
    (hsrc : sourceHop nb i = some (b, d)) (hgn : blockGated s nb = false) (hboth : x.both = false) (hpass : Passes s nb i) :
    ∃ (t : State), exec (.tokenHop 2 b d) s = .next t ∧ (switch t b).held d = rest ∧
      ∀ d' ∈ (switch s nb).dests i, ∃ (y : Token), (switch t nb).held d' = (switch s nb).held d' ++ [y] ∧ { y with inv := x.inv } = x := by
  obtain ⟨t, ht, heffect⟩ := switchMove_track hsrc hnb hz hgn hx hboth hpass
  exact ⟨t, by rw [exec_tokenHop_onward hd, hopOnward_track hx hg hd ha hz, ← hi, ht], heffect⟩

end

end Sys2Proof.Machine
end

section
/-! PROOFS. What an element's ports hold after it has taken and emitted tokens (07 R212, R224; 02 R53). -/

namespace Sys2Proof.Machine

/-! ## Taking heads -/

theorem Elem.count_eq (x : Elem) (out : Bool) (port kind : Nat) : ∃ (c : SMap Nat), x.count out port kind = { x with counts := c } := by
  unfold Elem.count
  split
  · exact ⟨x.counts, rfl⟩
  · exact ⟨_, rfl⟩

theorem Elem.take_eq (x : Elem) (k : Nat) : ∃ (c : SMap Nat) (i : SMap (List Token)), x.take k = { x with inB := i, counts := c } ∧
    mget i k [] = (mget x.inB k []).drop 1 ∧ ∀ p, p ≠ k → mget i p [] = mget x.inB p [] := by
  unfold Elem.take
  split
  · next t rest h =>
    obtain ⟨c, hc⟩ := Elem.count_eq { x with inB := mset x.inB k rest } false k t.kind
    exact ⟨c, mset x.inB k rest, hc, by rw [mget_mset_same, h]; rfl, fun p hp => mget_mset_other _ _ _ _ _ hp⟩
  · next h => exact ⟨x.counts, x.inB, rfl, by rw [h]; rfl, fun _ _ => rfl⟩

theorem burstStep_eq (i : Nat) (t : Token) (x : Elem) : ∃ (g : SMap Nat), burstStep i t x = { x with burstIn := g } := by
  unfold burstStep
  split
  · exact ⟨_, rfl⟩
  · split
    · exact ⟨_, rfl⟩
    · split
      · split
        · exact ⟨_, rfl⟩
        · exact ⟨x.burstIn, rfl⟩
      · exact ⟨x.burstIn, rfl⟩

/-- An element that has taken tokens differs in its input ports, its open bursts and its counts alone. -/
def TookOnly (x y : Elem) : Prop := ∃ (i : SMap (List Token)) (g c : SMap Nat), y = { x with inB := i, burstIn := g, counts := c }

theorem TookOnly.refl (x : Elem) : TookOnly x x := ⟨x.inB, x.burstIn, x.counts, rfl⟩

theorem TookOnly.trans {x y z : Elem} (h : TookOnly x y) (k : TookOnly y z) : TookOnly x z := by
  obtain ⟨i, g, c, rfl⟩ := h
  obtain ⟨i', g', c', rfl⟩ := k
  exact ⟨i', g', c', rfl⟩

theorem TookOnly.outB {x y : Elem} (h : TookOnly x y) : y.outB = x.outB := by obtain ⟨i, g, c, rfl⟩ := h; rfl
theorem TookOnly.joined {x y : Elem} (h : TookOnly x y) : y.joined = x.joined := by obtain ⟨i, g, c, rfl⟩ := h; rfl
theorem TookOnly.fields {x y : Elem} (h : TookOnly x y) : y.fields = x.fields := by obtain ⟨i, g, c, rfl⟩ := h; rfl
theorem TookOnly.burstOut {x y : Elem} (h : TookOnly x y) : y.burstOut = x.burstOut := by obtain ⟨i, g, c, rfl⟩ := h; rfl

theorem takeBurst_of_head {x : Elem} {i : Nat} {t : Token} (h : x.head i = some t) : TookOnly x (takeBurst x i) ∧
    mget (takeBurst x i).inB i [] = (mget x.inB i []).drop 1 ∧ ∀ p, p ≠ i → mget (takeBurst x i).inB p [] = mget x.inB p [] := by
  obtain ⟨c, l, ht, hsame, hother⟩ := Elem.take_eq x i
  obtain ⟨g, hg⟩ := burstStep_eq i t (x.take i)
  have heq : takeBurst x i = { x with inB := l, burstIn := g, counts := c } := by
    rw [takeBurst, h]
    exact hg.trans (by rw [ht])
  rw [heq]
  exact ⟨⟨l, g, c, rfl⟩, hsame, hother⟩

theorem takeBurst_tookOnly (x : Elem) (i : Nat) : TookOnly x (takeBurst x i) := by
  cases h : x.head i with
  | some t => exact (takeBurst_of_head h).1
  | none => rw [takeBurst, h]; exact .refl x

theorem foldl_takeBurst_tookOnly (l : List Nat) : ∀ (x : Elem), TookOnly x (l.foldl takeBurst x) := by
  induction l with
  | nil => intro x; exact .refl x
  | cons i l ih => intro x; exact (takeBurst_tookOnly x i).trans (ih (takeBurst x i))

/-- The head of a port depends on the port's own tokens, and on the invocation that the element has joined. -/
theorem Elem.head_of_inB {x y : Elem} {p : Nat} (hb : mget y.inB p [] = mget x.inB p []) (hj : y.joined = x.joined) :
    y.head p = x.head p := by
  simp [Elem.head, hb, hj]

theorem inB_foldl_takeBurst_other {p : Nat} (l : List Nat) : ∀ (x : Elem), p ∉ l →
    mget (l.foldl takeBurst x).inB p [] = mget x.inB p [] := by
  induction l with
  | nil => intro x _; rfl
  | cons i l ih =>
    intro x hp
    obtain ⟨hpi, hpl⟩ : p ≠ i ∧ p ∉ l := by simpa using hp
    refine (ih (takeBurst x i) hpl).trans ?_
    cases h : x.head i with
    | some t => exact (takeBurst_of_head h).2.2 p hpi
    | none => rw [takeBurst, h]

/-- Each port of a list whose heads all stand gives one token. -/
theorem inB_foldl_takeBurst {p : Nat} (l : List Nat) : ∀ (x : Elem), l.Nodup → (∀ i ∈ l, ∃ t, x.head i = some t) → p ∈ l →
    mget (l.foldl takeBurst x).inB p [] = (mget x.inB p []).drop 1 := by
  induction l with
  | nil => intro x _ _ hp; simp at hp
  | cons i l ih =>
    intro x hn hh hp
    obtain ⟨hi, hl⟩ := List.nodup_cons.1 hn
    obtain ⟨t, ht⟩ := hh i List.mem_cons_self
    obtain ⟨htook, hsame, hother⟩ := takeBurst_of_head ht
    by_cases hpi : p = i
    · subst hpi
      exact (inB_foldl_takeBurst_other l _ hi).trans hsame
    · refine (ih (takeBurst x i) hl (fun q hq => ?_) ((List.mem_cons.1 hp).resolve_left hpi)).trans (by rw [hother p hpi])
      have hqi : q ≠ i := fun hqi => hi (hqi ▸ hq)
      rw [Elem.head_of_inB (hother q hqi) htook.joined]
      exact hh q (List.mem_cons_of_mem i hq)

/-! ## Emitting tokens -/

/-- A token as an element emits it: in the invocation that it has joined. -/
def Elem.labelled (x : Elem) (t : Token) : Token := { t with inv := x.joined.getD 0, home := x.joined.getD 0 }

theorem Elem.emit_eq (x : Elem) (k : Nat) (t : Token) : ∃ (c : SMap Nat), x.emit k t =
    { x with outB := mset x.outB k (mget x.outB k [] ++ [x.labelled t]), counts := c } :=
  Elem.count_eq { x with outB := mset x.outB k (mget x.outB k [] ++ [x.labelled t]) } true k t.kind

@[simp] theorem Elem.emit_outB (x : Elem) (k : Nat) (t : Token) :
    (x.emit k t).outB = mset x.outB k (mget x.outB k [] ++ [x.labelled t]) := by
  obtain ⟨c, h⟩ := Elem.emit_eq x k t
  rw [h]
@[simp] theorem Elem.emit_inB (x : Elem) (k : Nat) (t : Token) : (x.emit k t).inB = x.inB := by
  obtain ⟨c, h⟩ := Elem.emit_eq x k t
  rw [h]
@[simp] theorem Elem.emit_fields (x : Elem) (k : Nat) (t : Token) : (x.emit k t).fields = x.fields := by
  obtain ⟨c, h⟩ := Elem.emit_eq x k t
  rw [h]

/-- A step that emits one token, of property P, on the port that it is given. -/
structure Emits (P : Elem → Nat → Token → Prop) (f : Elem → Nat → Elem) : Prop where
  out : ∀ (x : Elem) (p : Nat), ∃ (z : Token), (f x p).outB = mset x.outB p (mget x.outB p [] ++ [z]) ∧ P x p z
  kept : ∀ (x : Elem) (p q : Nat) (z : Token), P (f x p) q z → P x q z
  inB : ∀ (x : Elem) (p : Nat), (f x p).inB = x.inB

theorem Emits.foldl_inB {P : Elem → Nat → Token → Prop} {f : Elem → Nat → Elem} (h : Emits P f) (l : List Nat) : ∀ (x : Elem),
    (l.foldl f x).inB = x.inB := by
  induction l with
  | nil => intro x; rfl
  | cons a l ih => intro x; exact (ih (f x a)).trans (h.inB x a)

theorem Emits.foldl_other {P : Elem → Nat → Token → Prop} {f : Elem → Nat → Elem} (h : Emits P f) {p : Nat} (l : List Nat) : ∀ (x : Elem),
    p ∉ l → mget (l.foldl f x).outB p [] = mget x.outB p [] := by
  induction l with
  | nil => intro x _; rfl
  | cons a l ih =>
    intro x hp
    obtain ⟨hpa, hpl⟩ : p ≠ a ∧ p ∉ l := by simpa using hp
    obtain ⟨z, hz, -⟩ := h.out x a
    exact (ih (f x a) hpl).trans (by rw [hz, mget_mset_other _ _ _ _ _ hpa])

/-- Each port of a list gets one token. -/
theorem Emits.foldl_out {P : Elem → Nat → Token → Prop} {f : Elem → Nat → Elem} (h : Emits P f) {p : Nat} (l : List Nat) : ∀ (x : Elem),
    l.Nodup → p ∈ l → ∃ (z : Token), mget (l.foldl f x).outB p [] = mget x.outB p [] ++ [z] ∧ P x p z := by
  induction l with
  | nil => intro x _ hp; simp at hp
  | cons a l ih =>
    intro x hn hp
    obtain ⟨ha, hl⟩ := List.nodup_cons.1 hn
    obtain ⟨z, hz, hPz⟩ := h.out x a
    by_cases hpa : p = a
    · subst hpa
      exact ⟨z, (h.foldl_other l (f x p) ha).trans (by rw [hz, mget_mset_same]), hPz⟩
    · obtain ⟨y, hy, hPy⟩ := ih (f x a) hl ((List.mem_cons.1 hp).resolve_left hpa)
      exact ⟨y, hy.trans (by rw [hz, mget_mset_other _ _ _ _ _ hpa]), h.kept x a p y hPy⟩

theorem plainTok_val (vec : Bool) (kind ch n : Nat) (p : Bool) : (plainTok vec kind ch p n).val.toNat = n % 2 ^ 32 := by
  unfold Token.val plainTok
  rw [BitVec.setWidth_ofNat_of_le (by omega), BitVec.toNat_ofNat, Nat.mod_mod]

/-- Emissions of tokens without lanes, all of one kind. -/
theorem emits_plain (kind ch : Nat) (td : Bool) (n : Nat) : Emits (fun _ _ z => z.kind = kind)
    (fun y p => y.emit p (plainTok (linkVec (y.outWord p)) kind ch td n)) where
  out x p := ⟨_, Elem.emit_outB x p _, rfl⟩
  kept _ _ _ _ h := h
  inB x p := Elem.emit_inB x p _

/-- DONE comes out on each port of a list. -/
theorem outB_emitDone {outs : List Nat} (hn : outs.Nodup) (ch : Nat) (td : Bool) (x : Elem) : ∀ p ∈ outs, ∃ (z : Token),
    mget (emitDone outs ch td x).outB p [] = mget x.outB p [] ++ [z] ∧ z.kind = 8 :=
  fun _ hp => (emits_plain 8 ch false (if td then 1 else 0)).foldl_out outs x hn hp

theorem outB_settlePool (x : Elem) : x.settlePool.outB = x.outB := by
  unfold Elem.settlePool; split <;> rfl
theorem fin_settlePool (x : Elem) : x.settlePool.fin = x.fin := by
  unfold Elem.settlePool; split <;> rfl

/-- An element that finishes is done, and what it has emitted still leaves it (09 R264, R278). -/
theorem Elem.finish_keeps (td : Bool) (x : Elem) : (x.finish td).fin = true ∧ (x.finish td).outB = x.outB := by
  unfold Elem.finish
  cases td
  · exact ⟨rfl, rfl⟩
  · exact ⟨fin_settlePool _, outB_settlePool _⟩

theorem lt_of_mem_portSet {v lo p : Nat} (h : p ∈ portSet v lo) : p < 4 := by
  have hp : p ∈ ports := (List.mem_filter.1 h).1
  simp only [ports, List.mem_cons, List.not_mem_nil, or_false] at hp
  omega

theorem portSet_nodup (v lo : Nat) : (portSet v lo).Nodup := List.Nodup.filter _ (by decide)

/-! ## Taking a HEAD or TAIL (07 R224; 02 R53) -/

/-- A HEAD is passed on to an output, whose burst is open from then on. -/
def passHead (ch : Nat) (t : Token) (x : Elem) (p : Nat) : Elem :=
  { x.emit p (plainTok (linkVec (x.outWord p)) 10 ch t.pois t.val.toNat) with burstOut := mset (mset x.burstOut p 0) (openKey p) 1 }

/-- A TAIL is passed on to an output: with the number of tokens emitted, or with its own count. -/
def passTail (i ch : Nat) (t : Token) (x : Elem) (p : Nat) : Elem :=
  { x.emit p (plainTok (linkVec (x.outWord p)) 11 ch false (if linkBurst (x.inWord i) then mget x.burstOut p 0 else t.val.toNat)) with
    burstOut := mdel x.burstOut (openKey p) }

theorem emits_passHead (ch : Nat) (t : Token) : Emits (fun _ _ z => z.kind = 10 ∧ z.val = t.val) (passHead ch t) where
  out x p := ⟨_, Elem.emit_outB x p _, rfl, BitVec.eq_of_toNat_eq
    ((plainTok_val (linkVec (x.outWord p)) 10 ch t.val.toNat t.pois).trans (Nat.mod_eq_of_lt t.val.isLt))⟩
  kept _ _ _ _ h := h
  inB x p := Elem.emit_inB x p _

/-- The count that a TAIL carries out of a port. -/
def tailCount (i : Nat) (t : Token) (x : Elem) (p : Nat) : Nat :=
  if linkBurst (x.inWord i) then mget x.burstOut p 0 % 2 ^ 32 else t.val.toNat

theorem emits_passTail (i ch : Nat) (t : Token) :
    Emits (fun x p z => p < 4 → z.kind = 11 ∧ z.val.toNat = tailCount i t x p) (passTail i ch t) where
  out x p := by
    refine ⟨_, Elem.emit_outB x p _, fun _ => ⟨rfl, (plainTok_val (linkVec (x.outWord p)) 11 ch _ false).trans ?_⟩⟩
    unfold tailCount
    split
    · rfl
    · exact Nat.mod_eq_of_lt t.val.isLt
  kept x p q z h hq := by
    have hopen : q ≠ openKey p := by unfold openKey; omega
    have hcount : tailCount i t (passTail i ch t x p) q = tailCount i t x q := by
      unfold tailCount passTail Elem.inWord Elem.field
      dsimp only
      rw [Elem.emit_fields, mget_mdel_other _ _ _ _ hopen]
    rw [← hcount]
    exact h hq
  inB x p := Elem.emit_inB x p _

section
variable {x : Elem} {i j : Nat} {t : Token}

theorem takeMark_waits (ch : Nat) (hh : x.head i = some t) (hr : roomFor x (x.outSet j) (x.ctoSet j) = false) :
    takeMark x j i ch = none := by
  simp [takeMark, hh, hr]

/-- The outputs to which a HEAD or TAIL of an input is passed on: those of its context, from port 0. -/
def markOuts (x : Elem) (j i : Nat) : List Nat := if i = 0 then x.outSet j else []

theorem takeMark_head (ch : Nat) (hh : x.head i = some t) (hr : roomFor x (x.outSet j) (x.ctoSet j) = true) (hk : t.kind = 10) :
    takeMark x j i ch = some ((markOuts x j i).foldl (passHead ch t)
      { takeBurst x i with hsc := mset (mset (takeBurst x i).hsc i (t.pay.setWidth 16)) (4 + i) (if t.pois then 1 else 0) }) := by
  simp only [takeMark, hh, hr, hk]
  rfl

theorem takeMark_tail (ch : Nat) (hh : x.head i = some t) (hr : roomFor x (x.outSet j) (x.ctoSet j) = true) (hk : t.kind ≠ 10) :
    takeMark x j i ch = some ((markOuts x j i).foldl (passTail i ch t)
      { takeBurst x i with hsc := mset (takeBurst x i).hsc (4 + i) 0 }) := by
  simp only [takeMark, hh, hr, if_neg hk]
  rfl

/-- A HEAD or TAIL leaves its input; from port 0 it comes out on every output of the context, a TAIL with its count. -/
theorem takeMark_takes (ch : Nat) (hh : x.head i = some t) (hr : roomFor x (x.outSet j) (x.ctoSet j) = true) :
    ∃ (y : Elem), takeMark x j i ch = some y ∧ mget y.inB i [] = (mget x.inB i []).drop 1 ∧
      (i ≠ 0 → ∀ p, mget y.outB p [] = mget x.outB p []) ∧
      (i = 0 → ∀ p ∈ x.outSet j, ∃ (z : Token), mget y.outB p [] = mget x.outB p [] ++ [z] ∧
        (t.kind = 10 → z.kind = 10 ∧ z.val = t.val) ∧
        (t.kind ≠ 10 → z.kind = 11 ∧ z.val.toNat = tailCount 0 t x p)) := by
  obtain ⟨htook, hin, -⟩ := takeBurst_of_head hh
  by_cases hk : t.kind = 10
  · have hem := emits_passHead ch t
    refine ⟨_, takeMark_head ch hh hr hk, by rw [hem.foldl_inB]; exact hin, fun hi p => ?_, fun hi p hp => ?_⟩
    · rw [markOuts, if_neg hi]
      exact congrArg (fun o => mget o p []) htook.outB
    · rw [markOuts, if_pos hi]
      obtain ⟨z, hz, hzk⟩ := hem.foldl_out (x.outSet j) _ (portSet_nodup _ _) hp
      exact ⟨z, hz.trans (congrArg (fun o => mget o p [] ++ [z]) htook.outB), fun _ => hzk, fun hne => absurd hk hne⟩
  · have hem := emits_passTail i ch t
    refine ⟨_, takeMark_tail ch hh hr hk, by rw [hem.foldl_inB]; exact hin, fun hi p => ?_, fun hi p hp => ?_⟩
    · rw [markOuts, if_neg hi]
      exact congrArg (fun o => mget o p []) htook.outB
    · subst hi
      rw [markOuts, if_pos rfl]
      obtain ⟨z, hz, hzk⟩ := hem.foldl_out (x.outSet j) _ (portSet_nodup _ _) hp
      refine ⟨z, hz.trans (congrArg (fun o => mget o p [] ++ [z]) htook.outB), fun he => absurd he hk, fun _ => ?_⟩
      obtain ⟨hkind, hval⟩ := hzk (lt_of_mem_portSet hp)
      refine ⟨hkind, hval.trans ?_⟩
      unfold tailCount Elem.inWord Elem.field
      dsimp only
      rw [htook.fields, htook.burstOut]

end

end Sys2Proof.Machine
end

section
/-! PROOFS. The vector cell (07 R207 to R230; 09 R270): the repair of the registers that a firing reads, and a data
firing with what stands behind it. -/

namespace Sys2Proof.Machine

/-! ## Parity of the registers that a firing reads (17 R395) -/

@[simp] theorem logError_elems (q kind cause src : Nat) (isCore : Bool) (addr wave asid : Nat) (s : State) :
    (logError q kind cause src isCore addr wave asid s).elems = s.elems := by
  unfold logError
  dsimp only
  split
  · rfl
  · rw [updQuarter_elems]
    split
    · exact placeWrite_elems _ _ _ _
    · rfl

@[simp] theorem countRepair_elems (d e word : Nat) (s : State) : (countRepair d e word s).elems = s.elems :=
  (logError_elems _ _ _ _ _ _ _ _ _).trans (updQuarter_elems _ _ _)

/-- One lane of a register is repaired, and the repair counted. -/
def repairLane (d e : Nat) (s : State) (r : Nat) : State := countRepair d e r (updElem s e (fun x => { x with parity := mdel x.parity r }))

theorem elem_repairLane (d e r : Nat) (s : State) : elem (repairLane d e s r) e = { elem s e with parity := mdel (elem s e).parity r } := by
  rw [repairLane, elem_of_elems (countRepair_elems _ _ _ _), elem_updElem_same]

/-- The repairs of a list leave bad parity nowhere in it, and every other mark as it was. -/
theorem parity_foldl_repairLane (d e i : Nat) (l : List Nat) : ∀ (s : State),
    mget? (elem (l.foldl (repairLane d e) s) e).parity i = if i ∈ l then none else mget? (elem s e).parity i := by
  induction l with
  | nil => intro s; simp
  | cons r l ih =>
    intro s
    rw [List.foldl_cons, ih, elem_repairLane]
    by_cases hi : i = r
    · simp [hi]
    · simp [hi]

/-- The lanes whose parity a firing of a context checks: those that are on of the registers that it reads, and lane 0. -/
def checkedLanes (x : Elem) (j : Nat) : List Nat := laneKeys x j (readRegs x j) ++ (readRegs x j).map (16 * ·)

/-- Those of them that are bad. -/
def badLanes (x : Elem) (j : Nat) : List Nat := (checkedLanes x j).dedup.filter (fun r => (mget? x.parity r).isSome)

theorem mem_badLanes {x : Elem} {j r : Nat} : r ∈ badLanes x j ↔ r ∈ checkedLanes x j ∧ (mget? x.parity r).isSome = true := by
  rw [badLanes, List.mem_filter, List.mem_dedup]

/-- Cannot a lane be repaired: its repair has failed, or its writer has left the replay queue? -/
def beyondRepair (x : Elem) (r : Nat) : Bool := mget? x.parity r == some true || !x.replay.any (fun l => l.contains r)

theorem cellParity_eq (d e j : Nat) (s : State) : cellParity d e j s =
    if (badLanes (elem s e) j).any (beyondRepair (elem s e)) then none else some ((badLanes (elem s e) j).foldl (repairLane d e) s) := rfl

section
variable {s : State} {d e j : Nat} {x : Elem}

theorem cellParity_fails (hp : x.parity = (elem s e).parity) (hq : x.replay = (elem s e).replay)
    (h : ∃ r ∈ checkedLanes (elem s e) j, mget? x.parity r = some true ∨ (mget? x.parity r ≠ none ∧ ∀ l ∈ x.replay, r ∉ l)) :
    cellParity d e j s = none := by
  obtain ⟨r, hr, hbad⟩ := h
  rw [hp, hq] at hbad
  rw [cellParity_eq]
  refine if_pos (List.any_eq_true.2 ⟨r, mem_badLanes.2 ⟨hr, ?_⟩, ?_⟩)
  · obtain h | ⟨h, -⟩ := hbad
    · simp [h]
    · exact Option.isSome_iff_ne_none.2 h
  · obtain h | ⟨-, h⟩ := hbad
    · simp [beyondRepair, h]
    · simpa [beyondRepair] using .inr h

theorem cellParity_repairs (hp : x.parity = (elem s e).parity) (hq : x.replay = (elem s e).replay)
    (h : ∀ r ∈ checkedLanes (elem s e) j, mget? x.parity r = none ∨ (mget? x.parity r = some false ∧ ∃ l ∈ x.replay, r ∈ l)) :
    ∃ (u : State), cellParity d e j s = some u ∧
      ∀ r, mget? (elem u e).parity r = if r ∈ checkedLanes (elem s e) j then none else mget? x.parity r := by
  rw [hp, hq] at h
  have hnone : (badLanes (elem s e) j).any (beyondRepair (elem s e)) = false := by
    refine List.any_eq_false.2 (fun r hr => ?_)
    obtain ⟨hr, hsome⟩ := mem_badLanes.1 hr
    obtain h | ⟨h, l, hl, hrl⟩ := h r hr
    · simp [h] at hsome
    · simpa [beyondRepair, h] using ⟨l, hl, hrl⟩
  refine ⟨_, by rw [cellParity_eq, hnone]; rfl, fun r => ?_⟩
  rw [parity_foldl_repairLane, hp]
  by_cases hr : r ∈ checkedLanes (elem s e) j
  · by_cases hsome : (mget? (elem s e).parity r).isSome = true
    · rw [if_pos (mem_badLanes.2 ⟨hr, hsome⟩), if_pos hr]
    · rw [if_neg (fun hb => hsome (mem_badLanes.1 hb).2), if_pos hr]
      simpa using hsome
  · rw [if_neg (fun hb => hr (mem_badLanes.1 hb).1), if_neg hr]

end

/-! ## Breaks and faults behind a firing (07 R223) -/

@[simp] theorem elem_fired (d e : Nat) (s : State) : elem (fired d s) e = elem s e := elem_updDist s d e _

@[simp] theorem elem_putFired (d e : Nat) (x : Elem) (s : State) : elem (putFired d e x s) e = x := by
  unfold putFired
  dsimp only
  split
  · rw [elem_updDist, elem_fired, elem_setElem_same]
  · rw [elem_fired, elem_setElem_same]

section
variable {s : State} {d e j st : Nat} {c : BitVec 10} {rest : List (Nat × Nat × BitVec 10)}

theorem fireEnd_nothing (v : Inv) (h : (elem s e).late = []) : fireEnd d e v s = s := by
  simp only [fireEnd, h]

theorem fireEnd_break (v : Inv) (h : (elem s e).late = (j, st, 0x193) :: rest) :
    fireEnd d e v s = cellBreak d e j st v (updElem s e (fun x => { x with late := rest })) := by
  simp only [fireEnd, h, if_true]

theorem fireEnd_fault (v : Inv) (h : (elem s e).late = (j, st, c) :: rest) (hc : c ≠ 0x193) :
    fireEnd d e v s = elemFault d v e c (cellTval e j st) (updElem s e (fun x => { x with late := rest })) := by
  simp only [fireEnd, h, if_neg hc]

end

/-! ## A data firing (07 R212) -/

section
variable {s s1 : State} {e d j n : Nat} {k : District} {v : Inv} {x x1 y : Elem} {env : FireEnv} {f : Fire}

theorem exec_vectorCellFiring (hr : cellReady s e = some (d, k, v, j)) (hx : x = { elem s e with lastTick := k.tick }) :
    exec (.vectorCellFiring e) s =
      .next (if headsOf x (x.inSet j) = .data ∧ roomFor x (x.outSet j) (x.ctoSet j) = true then fireData d k v e j s else s) := by
  subst hx
  change execVectorCellFiring e s = _
  unfold execVectorCellFiring
  rw [hr]
  rfl

theorem fireData_burst {c : BitVec 10} (hx : x = { elem s e with lastTick := k.tick }) (hb : burstBad x (x.inSet j) = some c) :
    fireData d k v e j s = elemFault d v e c (cellTval e j 0) s := by
  subst hx
  simp only [fireData, hb]

theorem fireData_parity (hx : x = { elem s e with lastTick := k.tick }) (hb : burstBad x (x.inSet j) = none)
    (hc : cellParity d e j s = none) : fireData d k v e j s = regionError d v.id e false (cellTval e j 0) s := by
  subst hx
  simp only [fireData, hb, hc]

/-- A firing that no check keeps from its stages: x is the cell, x1 the cell with its registers repaired and its firing numbered, y what the
cell is behind its emissions. -/
structure FireRun (s s1 : State) (e d j n : Nat) (k : District) (v : Inv) (x x1 y : Elem) (env : FireEnv) (f : Fire) : Prop where
  cell : x = { elem s e with lastTick := k.tick }
  number : n = mget x.counts blindKey 0
  repaired : x1 = { x with parity := (elem s1 e).parity, counts := if (x.inSet j).isEmpty then mset x.counts blindKey (n + 1) else x.counts }
  stages : (env, f) = fireStages x1 j v.iter (openCh k v e (j + 16) n)
  emitted : y = rearm j (emitData x1 j (ctxCh x1 j (openCh k v e j n)) env f)
  bursts : burstBad x (x.inSet j) = none
  parity : cellParity d e j s = some s1

/-- The breaks of a firing, one after another. -/
def lateBreaks (j : Nat) (l : List Nat) : List (Nat × Nat × BitVec 10) := l.map (fun st => (j, st, (0x193 : BitVec 10)))

/-- A firing whose stages all run puts the cell with its emissions back. -/
theorem FireRun.ends (h : FireRun s s1 e d j n k v x x1 y env f) (hs : f.stop = none) : fireData d k v e j s =
    fireEnd d e v (putFired d e { (x1.replayed j 6 y).countCtx j 0 with late := lateBreaks j f.brk } s1) := by
  obtain ⟨rfl, rfl, rfl, hstages, rfl, hb, hc⟩ := h
  unfold fireData
  simp only [hb, hc, ← hstages, hs]
  rfl

/-- A firing that a stage stops puts the cell back as that stage found it. -/
theorem FireRun.stops {st : Nat} {c : BitVec 10} (h : FireRun s s1 e d j n k v x x1 y env f) (hs : f.stop = some (st, c)) :
    fireData d k v e j s = fireEnd d e v (putFired d e
      { (x1.replayed j st f.x).countCtx j 0 with late := lateBreaks j f.brk ++ [(j, st, c)] } s1) := by
  obtain ⟨rfl, rfl, rfl, hstages, rfl, hb, hc⟩ := h
  unfold fireData
  simp only [hb, hc, ← hstages, hs]
  rfl

/-- The cell behind the first of the breaks and faults that a firing has left. -/
theorem elem_late_putFired (d e : Nat) (x : Elem) (l : List (Nat × Nat × BitVec 10)) (s : State) :
    elem (updElem (putFired d e x s) e (fun x => { x with late := l })) e = { x with late := l } := by
  rw [elem_updElem_same, elem_putFired]

theorem FireRun.effect (h : FireRun s s1 e d j n k v x x1 y env f)
    (hexec : exec (.vectorCellFiring e) s = .next (fireData d k v e j s)) :
    (f.stop = none → f.brk = [] → ∃ (t : State), exec (.vectorCellFiring e) s = .next t ∧
      elem t e = { (x1.replayed j 6 y).countCtx j 0 with late := [] }) ∧
    (∀ st more, f.stop = none → f.brk = st :: more → ∃ (u : State), exec (.vectorCellFiring e) s = .next (cellBreak d e j st v u) ∧
      elem u e = { (x1.replayed j 6 y).countCtx j 0 with late := more.map (fun m => (j, m, 0x193)) }) ∧
    (∀ st c, f.stop = some (st, c) → f.brk = [] → c ≠ 0x193 → ∃ (u : State),
      exec (.vectorCellFiring e) s = .next (elemFault d v e c (cellTval e j st) u) ∧
      elem u e = { (x1.replayed j st f.x).countCtx j 0 with late := [] }) ∧
    (∀ st c b more, f.stop = some (st, c) → f.brk = b :: more → ∃ (u : State),
      exec (.vectorCellFiring e) s = .next (cellBreak d e j b v u) ∧
      elem u e = { (x1.replayed j st f.x).countCtx j 0 with late := more.map (fun m => (j, m, 0x193)) ++ [(j, st, c)] }) := by
  rw [hexec]
  refine ⟨fun hs hbrk => ?_, fun st more hs hbrk => ?_, fun st c hs hbrk hc => ?_, fun st c b more hs hbrk => ?_⟩
  · rw [h.ends hs, hbrk, fireEnd_nothing v (by rw [elem_putFired]; rfl)]
    exact ⟨_, rfl, elem_putFired _ _ _ _⟩
  · rw [h.ends hs, hbrk, fireEnd_break v (by rw [elem_putFired]; rfl)]
    exact ⟨_, rfl, elem_late_putFired _ _ _ _ _⟩
  · rw [h.stops hs, hbrk, fireEnd_fault v (by rw [elem_putFired]; rfl) hc]
    exact ⟨_, rfl, elem_late_putFired _ _ _ _ _⟩
  · rw [h.stops hs, hbrk, fireEnd_break v (by rw [elem_putFired]; rfl)]
    exact ⟨_, rfl, elem_late_putFired _ _ _ _ _⟩

end

end Sys2Proof.Machine
end

section
/-! PROOFS. The vector cell: structural emissions and control tokens (07 R224 to R228; 09 R270). -/

namespace Sys2Proof.Machine

/-! ## Structural emissions (07 R224) -/

/-- Where a context finds stop heads, every port of its IN has a head. -/
theorem head_of_stop {x : Elem} {ins : List Nat} {l p : Nat} (h : headsOf x ins = .stop l) (hp : p ∈ ins) : ∃ t, x.head p = some t := by
  cases hh : x.head p with
  | some t => exact ⟨t, rfl⟩
  | none =>
    exfalso
    have hany : (ins.map (fun i => (i, x.head i))).any (fun h => h.2.isNone || h.2.any (fun t => t.kind == 9)) = true :=
      List.any_eq_true.2 ⟨(p, x.head p), List.mem_map.2 ⟨p, hp, rfl⟩, by simp [hh]⟩
    unfold headsOf at h
    dsimp only at h
    split at h
    · cases h
    · split at h
      · cases h
      · cases h

section
variable {s : State} {e d j : Nat} {k : District} {v : Inv} {x : Elem}

theorem structural_idle (hr : cellReady s e = some (d, k, v, j)) (hx : x = { elem s e with lastTick := k.tick })
    (h : headsOf x (x.inSet j) = .wait ∨ headsOf x (x.inSet j) = .data) : exec (.structuralEmission e) s = .next s := by
  subst hx
  change execStructuralEmission e s = _
  obtain h | h := h <;> simp only [execStructuralEmission, hr, h]

theorem structural_mixed {c : BitVec 10} (hr : cellReady s e = some (d, k, v, j)) (hx : x = { elem s e with lastTick := k.tick })
    (h : headsOf x (x.inSet j) = .bad c) : exec (.structuralEmission e) s = .next (elemFault d v e c (cellTval e j 0) s) := by
  subst hx
  change execStructuralEmission e s = _
  simp only [execStructuralEmission, hr, h]

/-- A structural emission whose heads fail a burst check faults, whatever the heads. -/
theorem structural_burst {c : BitVec 10} {l : List Nat} (hr : cellReady s e = some (d, k, v, j))
    (hx : x = { elem s e with lastTick := k.tick }) (h : (∃ i, headsOf x (x.inSet j) = .one i ∧ l = [i]) ∨
      ((∃ q, headsOf x (x.inSet j) = .stop q) ∨ headsOf x (x.inSet j) = .done) ∧ l = x.inSet j)
    (hb : burstBad x l = some c) : exec (.structuralEmission e) s = .next (elemFault d v e c (cellTval e j 0) s) := by
  subst hx
  change execStructuralEmission e s = _
  obtain ⟨i, h, rfl⟩ | ⟨⟨q, h⟩ | h, rfl⟩ := h <;> simp only [execStructuralEmission, hr, h, hb]

theorem structural_mark {i : Nat} {t : Token} (hr : cellReady s e = some (d, k, v, j)) (hx : x = { elem s e with lastTick := k.tick })
    (h : headsOf x (x.inSet j) = .one i) (hh : x.head i = some t) (hb : burstBad x [i] = none) :
    (takeMark x j i (markCh x j) = none → exec (.structuralEmission e) s = .next s) ∧
    (∀ y, takeMark x j i (markCh x j) = some y → exec (.structuralEmission e) s = .next (putFired d e (y.countCtx j t.kind) s)) := by
  subst hx
  change (_ → execStructuralEmission e s = _) ∧ ∀ y, _ → execStructuralEmission e s = _
  unfold execStructuralEmission
  simp only [hr, h, hb, hh]
  exact ⟨fun hm => by rw [hm], fun y hm => by rw [hm]; rfl⟩

/-- The cell that has taken its stop heads and passed the next stop on. -/
def passStop (x : Elem) (j l : Nat) : Elem :=
  emitAll (x.outSet j) (fun p y => plainTok (linkVec (y.outWord p)) (l + 1) (markCh x j) false 0) ((x.inSet j).foldl takeBurst x)

theorem structural_stop {l : Nat} (hr : cellReady s e = some (d, k, v, j)) (hx : x = { elem s e with lastTick := k.tick })
    (h : headsOf x (x.inSet j) = .stop l) (hb : burstBad x (x.inSet j) = none) : exec (.structuralEmission e) s =
      .next (if roomFor x (x.outSet j) (x.ctoSet j) = true then putFired d e ((passStop x j l).countCtx j (l + 1)) s else s) := by
  subst hx
  change execStructuralEmission e s = _
  unfold execStructuralEmission
  simp only [hr, h, hb, Bool.not_eq_true', ← Bool.not_eq_true, ite_not]
  rfl

/-- The cell of a context that has taken its DONE heads. -/
def passDone (x : Elem) (j : Nat) : Elem :=
  finishCtx j (lowestTd x (x.inSet j)) (emitDone (doneOuts x j) (markCh x j) (lowestTd x (x.inSet j)) ((x.inSet j).foldl takeBurst x))

theorem structural_done (hr : cellReady s e = some (d, k, v, j)) (hx : x = { elem s e with lastTick := k.tick })
    (h : headsOf x (x.inSet j) = .done) (hb : burstBad x (x.inSet j) = none) : exec (.structuralEmission e) s =
      .next (if (!(doneOuts x j).all x.room || !roomFor x (x.outSet j) (x.ctoSet j)) = true then s else putFired d e (passDone x j) s) := by
  subst hx
  change execStructuralEmission e s = _
  simp only [execStructuralEmission, hr, h, hb]
  rfl

/-- The next stop comes out on every OUT port, and every IN port has given its token. -/
theorem passStop_effect {l : Nat} (h : headsOf x (x.inSet j) = .stop l) :
    (∀ p ∈ x.outSet j, ∃ (z : Token), mget (passStop x j l).outB p [] = mget x.outB p [] ++ [z] ∧ z.kind = l + 1) ∧
    (∀ p ∈ x.inSet j, mget (passStop x j l).inB p [] = (mget x.inB p []).drop 1) := by
  have hem := emits_plain (l + 1) (markCh x j) false 0
  have htook := foldl_takeBurst_tookOnly (x.inSet j) x
  refine ⟨fun p hp => ?_, fun p hp => ?_⟩
  · obtain ⟨z, hz, hk⟩ := hem.foldl_out (x.outSet j) ((x.inSet j).foldl takeBurst x) (portSet_nodup _ _) hp
    exact ⟨z, hz.trans (by rw [htook.outB]), hk⟩
  · refine (congrArg (fun i => mget i p []) (hem.foldl_inB (x.outSet j) ((x.inSet j).foldl takeBurst x))).trans ?_
    exact inB_foldl_takeBurst (x.inSet j) x (portSet_nodup _ _) (fun i hi => head_of_stop h hi) hp

theorem mark_effect {i : Nat} {t : Token} (hr : cellReady s e = some (d, k, v, j)) (hx : x = { elem s e with lastTick := k.tick })
    (h : headsOf x (x.inSet j) = .one i) (hh : x.head i = some t) (hb : burstBad x [i] = none) :
    (roomFor x (x.outSet j) (x.ctoSet j) = false → exec (.structuralEmission e) s = .next s) ∧
    (roomFor x (x.outSet j) (x.ctoSet j) = true → ∃ (t' : State), exec (.structuralEmission e) s = .next t' ∧
      mget (elem t' e).inB i [] = (mget x.inB i []).drop 1 ∧
      (i ≠ 0 → ∀ p, mget (elem t' e).outB p [] = mget x.outB p []) ∧
      (i = 0 → ∀ p ∈ x.outSet j, ∃ (z : Token), mget (elem t' e).outB p [] = mget x.outB p [] ++ [z] ∧
        (t.kind = 10 → z.kind = 10 ∧ z.val = t.val) ∧
        (t.kind ≠ 10 → z.kind = 11 ∧ z.val.toNat = tailCount 0 t x p))) := by
  obtain ⟨hwaits, htakes⟩ := structural_mark hr hx h hh hb
  refine ⟨fun hroom => hwaits (takeMark_waits _ hh hroom), fun hroom => ?_⟩
  obtain ⟨y, hy, heffect⟩ := takeMark_takes (markCh x j) hh hroom
  refine ⟨_, htakes y hy, ?_⟩
  rw [elem_putFired]
  exact heffect

theorem stop_effect {l : Nat} (hr : cellReady s e = some (d, k, v, j)) (hx : x = { elem s e with lastTick := k.tick })
    (h : headsOf x (x.inSet j) = .stop l) (hb : burstBad x (x.inSet j) = none) :
    (roomFor x (x.outSet j) (x.ctoSet j) = false → exec (.structuralEmission e) s = .next s) ∧
    (roomFor x (x.outSet j) (x.ctoSet j) = true → ∃ (t : State), exec (.structuralEmission e) s = .next t ∧
      (∀ p ∈ x.outSet j, ∃ (z : Token), mget (elem t e).outB p [] = mget x.outB p [] ++ [z] ∧ z.kind = l + 1) ∧
      (∀ p ∈ x.inSet j, mget (elem t e).inB p [] = (mget x.inB p []).drop 1)) := by
  have hstop := structural_stop hr hx h hb
  refine ⟨fun hroom => by rw [hstop, if_neg (by simp [hroom])], fun hroom => ⟨_, by rw [hstop, if_pos hroom], ?_⟩⟩
  rw [elem_putFired]
  exact passStop_effect h

theorem done_effect (hr : cellReady s e = some (d, k, v, j)) (hx : x = { elem s e with lastTick := k.tick })
    (h : headsOf x (x.inSet j) = .done) (hb : burstBad x (x.inSet j) = none) :
    ((roomFor x (x.outSet j) (x.ctoSet j) = false ∨ (doneOuts x j).all x.room = false) → exec (.structuralEmission e) s = .next s) ∧
    (roomFor x (x.outSet j) (x.ctoSet j) = true → (doneOuts x j).all x.room = true →
      ∃ (t : State), exec (.structuralEmission e) s = .next t ∧ elem t e = passDone x j) := by
  have hdone := structural_done hr hx h hb
  refine ⟨fun hroom => ?_, fun hroom hall =>
    ⟨putFired d e (passDone x j) s, by rw [hdone, if_neg (by simp [hroom, hall])], elem_putFired _ _ _ _⟩⟩
  obtain hroom | hroom := hroom <;> rw [hdone, if_pos (by simp [hroom])]

/-! ## Control tokens (07 R228; 09 R270) -/

theorem controlTokenTake_quiet (h : active s e = none ∨ (elem s e).branch = none) : exec (.controlTokenTake e) s = .next s := by
  change execControlTokenTake e s = _
  unfold execControlTokenTake
  obtain h | h := h
  · simp only [h]
  · rw [h]
    rcases active s e with _ | ⟨d, k, v⟩ <;> rfl

theorem branchCellFinish_quiet (h : active s e = none ∨ (elem s e).branch = none) : exec (.branchCellFinish e) s = .next s := by
  change execBranchCellFinish e s = _
  unfold execBranchCellFinish
  obtain h | h := h
  · simp only [h]
  · rw [h]
    rcases active s e with _ | ⟨d, k, v⟩ <;> rfl

theorem controlTokenTake_empty (ha : active s e = some (d, k, v)) (hj : (elem s e).branch = some j)
    (h : mget (elem s e).ctB ((elem s e).ctin j) [] = []) : exec (.controlTokenTake e) s = .next s := by
  change execControlTokenTake e s = _
  simp only [execControlTokenTake, ha, hj, h]

/-- Of a token that is owed none, the cell arms the context that it names. -/
theorem controlTokenTake_arms {b : Bool} {rest : List (Bool × Nat)} (ha : active s e = some (d, k, v)) (hj : (elem s e).branch = some j)
    (h : mget (elem s e).ctB ((elem s e).ctin j) [] = (b, v.id) :: rest)
    (h0 : mget (elem s e).counts (ctDropKey ((elem s e).ctin j)) 0 = 0) : ∃ (t : State), exec (.controlTokenTake e) s = .next t ∧
      (elem t e).branch = none ∧ (elem t e).armed = some (if b then (elem s e).next1 j else (elem s e).next0 j) ∧
      mget (elem t e).ctB ((elem s e).ctin j) [] = rest := by
  change ∃ (t : State), execControlTokenTake e s = .next t ∧ _
  unfold execControlTokenTake
  simp only [ha, hj, h, h0, ne_eq, not_true_eq_false, if_false, Nat.lt_irrefl, gt_iff_lt]
  refine ⟨_, rfl, ?_⟩
  rw [elem_fired, elem_setElem_same]
  exact ⟨rfl, rfl, mget_mset_same _ _ _ _⟩

/-- A token that is owed is dropped, and the cell waits on. -/
theorem controlTokenTake_drops {b : Bool} {rest : List (Bool × Nat)} (ha : active s e = some (d, k, v)) (hj : (elem s e).branch = some j)
    (h : mget (elem s e).ctB ((elem s e).ctin j) [] = (b, v.id) :: rest)
    (h0 : mget (elem s e).counts (ctDropKey ((elem s e).ctin j)) 0 ≠ 0) : ∃ (t : State), exec (.controlTokenTake e) s = .next t ∧
      (elem t e).branch = some j ∧ mget (elem t e).ctB ((elem s e).ctin j) [] = rest ∧
      mget (elem t e).counts (ctDropKey ((elem s e).ctin j)) 0 + 1 = mget (elem s e).counts (ctDropKey ((elem s e).ctin j)) 0 := by
  have hpos : mget (elem s e).counts (ctDropKey ((elem s e).ctin j)) 0 > 0 := Nat.pos_of_ne_zero h0
  change ∃ (t : State), execControlTokenTake e s = .next t ∧ _
  unfold execControlTokenTake
  simp only [ha, hj, h, ne_eq, not_true_eq_false, if_false, if_pos hpos]
  refine ⟨_, rfl, ?_⟩
  rw [elem_setElem_same]
  refine ⟨rfl, mget_mset_same _ _ _ _, ?_⟩
  rw [mupd, mget_mset_same]
  omega

/-- The inputs of the two arms of a cell that waits under BRANCH. -/
def armIns (x : Elem) (j : Nat) : List Nat :=
  ports.filter (fun p => (x.inSet (x.next0 j)).contains p || (x.inSet (x.next1 j)).contains p)

/-- The outputs of its active contexts that have not carried DONE. -/
def armOuts (x : Elem) : List Nat := ports.filter (fun p => x.actCtx.any (fun i => (x.outSet i).contains p) && !x.doneOut.contains p)

theorem branchCellFinish_waits (ha : active s e = some (d, k, v)) (hj : (elem s e).branch = some j)
    (h : armIns (elem s e) j = [] ∨ (∃ p ∈ armIns (elem s e) j, ∀ y, (elem s e).head p = some y → y.kind ≠ 8) ∨
      (armOuts (elem s e)).all (elem s e).room = false) : exec (.branchCellFinish e) s = .next s := by
  have hwait : ((armIns (elem s e) j).isEmpty || !(armIns (elem s e) j).all (fun p => ((elem s e).head p).any (fun t => t.kind == 8)) ||
      !(armOuts (elem s e)).all (elem s e).room) = true := by
    obtain h | ⟨p, hp, hk⟩ | h := h
    · simp [h]
    · have hno : (armIns (elem s e) j).all (fun p => ((elem s e).head p).any (fun t => t.kind == 8)) = false := by
        refine List.all_eq_false.2 ⟨p, hp, ?_⟩
        cases hh : (elem s e).head p with
        | none => simp
        | some y => simpa using hk y hh
      simp [hno]
    · simp [h]
  change execBranchCellFinish e s = _
  unfold execBranchCellFinish
  simp only [ha, hj]
  exact congrArg _ (if_pos hwait)

theorem branchCellFinish_finishes (ha : active s e = some (d, k, v)) (hj : (elem s e).branch = some j) (hins : armIns (elem s e) j ≠ [])
    (hdone : ∀ p ∈ armIns (elem s e) j, ∃ (y : Token), (elem s e).head p = some y ∧ y.kind = 8)
    (hroom : (armOuts (elem s e)).all (elem s e).room = true) : ∃ (t : State), exec (.branchCellFinish e) s = .next t ∧
      (elem t e).fin = true ∧ ∀ p ∈ armOuts (elem s e), ∃ (y : Token), mget (elem t e).outB p [] = mget (elem s e).outB p [] ++ [y] ∧ y.kind = 8 := by
  have hall : (armIns (elem s e) j).all (fun p => ((elem s e).head p).any (fun t => t.kind == 8)) = true := by
    refine List.all_eq_true.2 (fun p hp => ?_)
    obtain ⟨y, hy, hk⟩ := hdone p hp
    simp [hy, hk]
  have hgo : ¬ ((armIns (elem s e) j).isEmpty || !(armIns (elem s e) j).all (fun p => ((elem s e).head p).any (fun t => t.kind == 8)) ||
      !(armOuts (elem s e)).all (elem s e).room) = true := by
    simp [hins, hall, hroom]
  change ∃ (t : State), execBranchCellFinish e s = .next t ∧ _
  unfold execBranchCellFinish
  simp only [ha, hj]
  refine ⟨_, congrArg _ (if_neg hgo), ?_⟩
  rw [elem_putFired]
  obtain ⟨hfin, hout⟩ := Elem.finish_keeps (lowestTd (elem s e) (armIns (elem s e) j))
    (emitDone (armOuts (elem s e)) (if (elem s e).chmode j then (((armIns (elem s e) j).head?.bind (elem s e).head).map (fun t => t.ch)).getD 0
      else (elem s e).och j) (lowestTd (elem s e) (armIns (elem s e) j)) ((armIns (elem s e) j).foldl takeBurst (elem s e)))
  refine ⟨hfin, fun p hp => ?_⟩
  obtain ⟨y, hy, hk⟩ := outB_emitDone (List.Nodup.filter _ (by decide) : (armOuts (elem s e)).Nodup) _ _
    ((armIns (elem s e) j).foldl takeBurst (elem s e)) p hp
  rw [(foldl_takeBurst_tookOnly _ _).outB] at hy
  exact ⟨y, (congrArg (fun o => mget o p []) hout).trans hy, hk⟩

end

end Sys2Proof.Machine
end

section
/-! PROOFS. O50, from the hops of a token and the steps of a vector cell. -/

namespace Sys2Proof.Machine

/-! ## The effect of a vector cell -/

/-- A cell whose firing stands behind a break or fault issues no other firing; the next of what is left comes first (07 R223). -/
theorem cellReady_late {s : State} {e : Nat} (h : (elem s e).late ≠ []) : cellReady s e = none := by
  have hlate : (!(elem s e).late.isEmpty) = true := by simp [h]
  unfold cellReady
  split
  · rfl
  · rcases active s e with _ | ⟨d, k, v⟩
    · rfl
    · exact if_pos hlate

theorem vectorCellFiring_late {s : State} {e d : Nat} {k : District} {v : Inv} (ha : active s e = some (d, k, v))
    (hk : elemKind e = .vector) (h : (elem s e).late ≠ []) : exec (.vectorCellFiring e) s = .next (fireEnd d e v s) := by
  change execVectorCellFiring e s = _
  simp only [execVectorCellFiring, cellReady_late h, ha, hk, if_true]

theorem structuralEmission_late {s : State} {e : Nat} (h : (elem s e).late ≠ []) : exec (.structuralEmission e) s = .next s := by
  change execStructuralEmission e s = _
  simp only [execStructuralEmission, cellReady_late h]

/-- Settles O50: each hop is `portToLink`, `switchMove` or `hopArrive` of its lemmas above; a firing is `FireRun.effect` behind its checks,
and an emission a case of the heads that the context finds. -/
theorem fabricHopsAndCellFirings : Obligations.FabricHopsAndCellFirings := by
  unfold Obligations.FabricHopsAndCellFirings
  intro passes
  refine ⟨tokenHop_port_effect, fun s e p b i x rest hb hi hc he hp hg hx hboth hpass =>
    tokenHop_link_effect hb hi hc he hp hg hx hboth hpass, ?_, ?_, ?_, ?_, ?_⟩
  · intro s b d x rest hx
    refine ⟨fun hg => tokenHop_gated hx hg, fun hg => ⟨fun hd hp => ⟨fun hr => ⟨fun hroute => tokenHop_data_met hx hg hd hp hr hroute,
      fun p w more d' k' i hbad hroute hat hj hpe => tokenHop_data_bad hx hg hd hp hr hbad hroute hat hj hpe⟩,
      fun hr => tokenHop_full hx hg hd (arrive_data_full hp hr)⟩, fun hd hp => ⟨fun hw hr => tokenHop_control hx hg hd hp hw hr,
      fun h => tokenHop_full hx hg hd (arrive_control_shut hp h)⟩, fun nb e l hd ha hz => tokenHop_bollard hx hg hd ha hz,
      fun nb e l hd ha hz => tokenHop_bollard_counts hx hg hd ha hz,
      fun nb e l i hd ha hz hi hnb hsrc hgn hboth hpass => tokenHop_track hx hg hd ha hz hi hnb hsrc hgn hboth hpass⟩⟩
  · intro s s1 e d j n k v x x1 y env f regs hr hx hn hx1 hregs hstages hy
    have hregs' : regs = checkedLanes (elem s e) j := by rw [hregs, hx]; rfl
    have hparity : x.parity = (elem s e).parity := by rw [hx]
    have hreplay : x.replay = (elem s e).replay := by rw [hx]
    have hexec := exec_vectorCellFiring hr hx
    subst hregs'
    refine ⟨fun hh => ⟨fun hroom => by rw [hexec, if_neg (by simp [hroom])], fun hroom => ?_⟩,
      fun hh => by rw [hexec, if_neg (fun h => hh h.1)], structural_idle hr hx, fun c => structural_mixed hr hx,
      fun i h hh hhead => ⟨fun c hb => structural_burst hr hx (.inl ⟨i, hh, rfl⟩) hb, mark_effect hr hx hh hhead⟩,
      fun l hh => ⟨fun c hb => structural_burst hr hx (.inr ⟨.inl ⟨l, hh⟩, rfl⟩) hb, stop_effect hr hx hh⟩,
      fun c hh hb => structural_burst hr hx (.inr ⟨.inr hh, rfl⟩) hb, done_effect hr hx⟩
    rw [if_pos ⟨hh, hroom⟩] at hexec
    exact ⟨fun c hb => by rw [hexec, fireData_burst hx hb],
      fun hb hbad => by rw [hexec, fireData_parity hx hb (cellParity_fails hparity hreplay hbad)], cellParity_repairs hparity hreplay,
      fun hb hc => FireRun.effect ⟨hx, hn, hx1, hstages, hy, hb, hc⟩ hexec⟩
  · intro s e d j st k v c rest ha hk hlate
    have hne : (elem s e).late ≠ [] := by simp [hlate]
    rw [vectorCellFiring_late ha hk hne]
    refine ⟨fun hc => ?_, fun hc => by rw [fireEnd_fault v hlate hc], structuralEmission_late hne⟩
    subst hc
    rw [fireEnd_break v hlate]
  · intro s e d j k v b rest ha hj
    refine ⟨fun h => ⟨controlTokenTake_arms ha hj h, controlTokenTake_drops ha hj h⟩, controlTokenTake_empty ha hj,
      fun ins outs hins houts => ?_⟩
    subst hins houts
    exact ⟨branchCellFinish_finishes ha hj, branchCellFinish_waits ha hj⟩
  · exact fun s e h => ⟨controlTokenTake_quiet h, branchCellFinish_quiet h⟩

end Sys2Proof.Machine
end

section
/-! PROOFS. Words and their fields (03 R85): the bytes of a word, the fields of each format, and which words have an extension word. -/

namespace Sys2Proof

/-! ## Bytes of a word -/

theorem wordBytes_leWord (b0 b1 b2 b3 : Byte) : wordBytes (leWord b0 b1 b2 b3) = [b0, b1, b2, b3] := by
  have h0 := b0.isLt
  have h1 := b1.isLt
  have h2 := b2.isLt
  have h3 := b3.isLt
  simp only [wordBytes, leWord, List.cons.injEq, and_true]
  refine ⟨?_, ?_, ?_, ?_⟩ <;> apply BitVec.eq_of_toNat_eq <;> simp only [BitVec.toNat_ofNat] <;> omega

theorem leWord_ofNat {w : Nat} (h : w < 2 ^ 32) :
    leWord (BitVec.ofNat 8 w) (BitVec.ofNat 8 (w / 2 ^ 8)) (BitVec.ofNat 8 (w / 2 ^ 16)) (BitVec.ofNat 8 (w / 2 ^ 24)) = w := by
  simp only [leWord, BitVec.toNat_ofNat]
  omega

theorem leWord_lt (b0 b1 b2 b3 : Byte) : leWord b0 b1 b2 b3 < 2 ^ 32 := by
  have h0 := b0.isLt
  have h1 := b1.isLt
  have h2 := b2.isLt
  have h3 := b3.isLt
  simp only [leWord]
  omega

/-- The bytes of a word whose opcode takes no extension word decode as the word does. -/
theorem decode_word {w : Nat} (h : w < 2 ^ 32) (hx : isX w = false) (rest : List Byte) :
    decode (wordBytes w ++ rest) = (decodeWords w 0).map (·, rest) := by
  simp only [wordBytes, List.cons_append, List.nil_append, decode, leWord_ofNat h, hx, Bool.false_eq_true, if_false]

/-- The bytes of a word and of its extension word decode as the two words do. -/
theorem decode_twoWords {w e : Nat} (h : w < 2 ^ 32) (he : e < 2 ^ 32) (hx : isX w = true) (rest : List Byte) :
    decode (wordBytes w ++ (wordBytes e ++ rest)) = (decodeWords w e).map (·, rest) := by
  simp only [wordBytes, List.cons_append, List.nil_append, decode, leWord_ofNat h, leWord_ofNat he, hx, if_true]

/-! ## Fields of the formats -/

/-- The fields of a word of the R format. -/
structure FieldsR (w op rd ra rb g fn : Nat) : Prop where
  op : fld w 25 7 = op
  rd : fld w 20 5 = rd
  ra : fld w 15 5 = ra
  rb : fld w 10 5 = rb
  g  : fld w 7 3 = g
  fn : fld w 0 7 = fn

/-- The fields of a word of the I or the S format. -/
structure FieldsI (w op rd ra g imm : Nat) : Prop where
  op  : fld w 25 7 = op
  rd  : fld w 20 5 = rd
  ra  : fld w 15 5 = ra
  g   : fld w 12 3 = g
  imm : fld w 0 12 = imm

/-- The fields of a word of the B format. -/
structure FieldsB (w op ra rb off : Nat) : Prop where
  op  : fld w 25 7 = op
  ra  : fld w 20 5 = ra
  rb  : fld w 15 5 = rb
  off : fld w 0 15 = off

/-- The fields of a word of the J or the U format. -/
structure FieldsJ (w op rd imm : Nat) : Prop where
  op  : fld w 25 7 = op
  rd  : fld w 20 5 = rd
  imm : fld w 0 20 = imm

theorem mkR_fields {op rd ra rb g fn : Nat} (h : op < 128 ∧ rd < 32 ∧ ra < 32 ∧ rb < 32 ∧ g < 8 ∧ fn < 128) :
    mkR op rd ra rb g fn < 2 ^ 32 ∧ FieldsR (mkR op rd ra rb g fn) op rd ra rb g fn := by
  refine ⟨?_, ?_, ?_, ?_, ?_, ?_, ?_⟩ <;> simp only [fld, mkR] <;> omega

theorem mkI_fields {op rd ra g imm : Nat} (h : op < 128 ∧ rd < 32 ∧ ra < 32 ∧ g < 8 ∧ imm < 4096) :
    mkI op rd ra g imm < 2 ^ 32 ∧ FieldsI (mkI op rd ra g imm) op rd ra g imm := by
  refine ⟨?_, ?_, ?_, ?_, ?_, ?_⟩ <;> simp only [fld, mkI] <;> omega

theorem mkB_fields {op ra rb off : Nat} (h : op < 128 ∧ ra < 32 ∧ rb < 32 ∧ off < 32768) :
    mkB op ra rb off < 2 ^ 32 ∧ FieldsB (mkB op ra rb off) op ra rb off := by
  refine ⟨?_, ?_, ?_, ?_, ?_⟩ <;> simp only [fld, mkB] <;> omega

theorem mkJ_fields {op rd imm : Nat} (h : op < 128 ∧ rd < 32 ∧ imm < 1048576) :
    mkJ op rd imm < 2 ^ 32 ∧ FieldsJ (mkJ op rd imm) op rd imm := by
  refine ⟨?_, ?_, ?_, ?_⟩ <;> simp only [fld, mkJ] <;> omega

/-- The fields of a format say all of a word. -/
theorem FieldsR.word {w op rd ra rb g fn : Nat} (h : FieldsR w op rd ra rb g fn) (hw : w < 2 ^ 32) : mkR op rd ra rb g fn = w := by
  obtain ⟨rfl, rfl, rfl, rfl, rfl, rfl⟩ := h
  simp only [fld, mkR]
  omega

theorem FieldsI.word {w op rd ra g imm : Nat} (h : FieldsI w op rd ra g imm) (hw : w < 2 ^ 32) : mkI op rd ra g imm = w := by
  obtain ⟨rfl, rfl, rfl, rfl, rfl⟩ := h
  simp only [fld, mkI]
  omega

theorem FieldsB.word {w op ra rb off : Nat} (h : FieldsB w op ra rb off) (hw : w < 2 ^ 32) : mkB op ra rb off = w := by
  obtain ⟨rfl, rfl, rfl, rfl⟩ := h
  simp only [fld, mkB]
  omega

theorem FieldsJ.word {w op rd imm : Nat} (h : FieldsJ w op rd imm) (hw : w < 2 ^ 32) : mkJ op rd imm = w := by
  obtain ⟨rfl, rfl, rfl⟩ := h
  simp only [fld, mkJ]
  omega

theorem fld_lt (w lo n : Nat) : fld w lo n < 2 ^ n := Nat.mod_lt _ (Nat.two_pow_pos n)

/-- Does a major opcode take an extension word (03 R87)? -/
def isXOp (op : Nat) : Bool := op == 0x09 || op == 0x42 || op == 0x44 || op == 0x46

theorem isX_eq {w op : Nat} (h : fld w 25 7 = op) : isX w = isXOp op := by
  simp only [isX, isXOp, h]

theorem guardI_eq_some {b : Bool} {i j : Instr} : guardI b i = some j ↔ b = true ∧ i = j := by
  cases b <;> simp [guardI]

end Sys2Proof
end

section
/-! PROOFS. O2: the words of every well-formed encoded instruction decode to it (03 R85 to R89). -/

namespace Sys2Proof

/-- The decoder reads the words of a list as an instruction: one word, or two where the first takes an extension word. -/
def Reads : List Nat → Instr → Prop
  | [w], i => w < 2 ^ 32 ∧ isX w = false ∧ decodeWords w 0 = some i
  | [w, e], i => w < 2 ^ 32 ∧ e < 2 ^ 32 ∧ isX w = true ∧ decodeWords w e = some i
  | _, _ => False

/-- Words that the decoder reads as an instruction stand in memory as bytes that decode to it. -/
theorem Reads.decode {ws : List Nat} {i : Instr} (h : Reads ws i) (rest : List Byte) :
    decode (ws.flatMap wordBytes ++ rest) = some (i, rest) := by
  match ws, h with
  | [w], ⟨hw, hx, hd⟩ => simp [decode_word hw hx, hd]
  | [w, e], ⟨hw, he, hx, hd⟩ => simp [decode_twoWords hw he hx, hd]

/-- The decoder of an R-format major opcode, over the fields of the word (03 R88). -/
def registerDecoder : Nat → Option (Nat → Nat → Nat → Nat → Nat → Option Instr)
  | 0x01 => some decodeInteger
  | 0x10 => some decodePredicate
  | 0x34 => some decodeTagged
  | 0x38 => some decodeAtomic
  | 0x3A => some decodeOrder
  | 0x3C => some decodeLockReq
  | 0x3D => some decodeLockRel
  | 0x3E => some decodeTx
  | 0x40 => some decodeTask
  | 0x41 => some decodeDistrict
  | 0x43 => some decodeBin
  | 0x45 => some decodeTid
  | 0x53 => some decodeSig
  | 0x54 => some decodeClock
  | _ => none

/-- The decoder of a major opcode with an extension word (03 R87, R88). -/
def extendedDecoder : Nat → Option (Nat → Nat → Nat → Nat → Nat → Nat → Option Instr)
  | 0x09 => some decodeConst
  | 0x42 => some decodeDma
  | 0x44 => some decodeRemote
  | 0x46 => some decodeMatrix
  | _ => none

theorem decodeWords_register {w e op rd ra rb g fn : Nat} {D : Nat → Nat → Nat → Nat → Nat → Option Instr}
    (hD : registerDecoder op = some D) (h : FieldsR w op rd ra rb g fn) : isX w = false ∧ decodeWords w e = D rd ra rb g fn := by
  obtain ⟨hop, rfl, rfl, rfl, rfl, rfl⟩ := h
  unfold registerDecoder at hD
  split at hD
  all_goals cases hD
  all_goals
    refine ⟨?_, ?_⟩
    · simp only [isX, hop]; rfl
    · unfold decodeWords; rw [hop]; rfl

theorem decodeWords_extended {w e op rd ra rb g fn : Nat} {D : Nat → Nat → Nat → Nat → Nat → Nat → Option Instr}
    (hD : extendedDecoder op = some D) (h : FieldsR w op rd ra rb g fn) : isX w = true ∧ decodeWords w e = D rd ra rb g fn e := by
  obtain ⟨hop, rfl, rfl, rfl, rfl, rfl⟩ := h
  unfold extendedDecoder at hD
  split at hD
  all_goals cases hD
  all_goals
    refine ⟨?_, ?_⟩
    · simp only [isX, hop]; rfl
    · unfold decodeWords; rw [hop]; rfl

theorem reads_register {op rd ra rb g fn : Nat} {D : Nat → Nat → Nat → Nat → Nat → Option Instr} {i : Instr}
    (hD : registerDecoder op = some D) (h : op < 128 ∧ rd < 32 ∧ ra < 32 ∧ rb < 32 ∧ g < 8 ∧ fn < 128)
    (hi : D rd ra rb g fn = some i) : Reads [mkR op rd ra rb g fn] i :=
  have ⟨hw, hf⟩ := mkR_fields h
  have ⟨hx, hd⟩ := decodeWords_register hD hf
  ⟨hw, hx, hd.trans hi⟩

theorem reads_extended {op rd ra rb g fn e : Nat} {D : Nat → Nat → Nat → Nat → Nat → Nat → Option Instr} {i : Instr}
    (hD : extendedDecoder op = some D) (h : op < 128 ∧ rd < 32 ∧ ra < 32 ∧ rb < 32 ∧ g < 8 ∧ fn < 128) (he : e < 2 ^ 32)
    (hi : D rd ra rb g fn e = some i) : Reads [mkR op rd ra rb g fn, e] i :=
  have ⟨hw, hf⟩ := mkR_fields h
  have ⟨hx, hd⟩ := decodeWords_extended hD hf
  ⟨hw, he, hx, hd.trans hi⟩

theorem reads_mkI {op rd ra g imm : Nat} {i : Instr} (hx : isXOp op = false) (h : op < 128 ∧ rd < 32 ∧ ra < 32 ∧ g < 8 ∧ imm < 4096)
    (hd : ∀ w, FieldsI w op rd ra g imm → decodeWords w 0 = some i) : Reads [mkI op rd ra g imm] i :=
  have ⟨hw, hf⟩ := mkI_fields h
  ⟨hw, (isX_eq hf.op).trans hx, hd _ hf⟩

theorem reads_mkB {op ra rb off : Nat} {i : Instr} (hx : isXOp op = false) (h : op < 128 ∧ ra < 32 ∧ rb < 32 ∧ off < 32768)
    (hd : ∀ w, FieldsB w op ra rb off → decodeWords w 0 = some i) : Reads [mkB op ra rb off] i :=
  have ⟨hw, hf⟩ := mkB_fields h
  ⟨hw, (isX_eq hf.op).trans hx, hd _ hf⟩

theorem reads_mkJ {op rd imm : Nat} {i : Instr} (hx : isXOp op = false) (h : op < 128 ∧ rd < 32 ∧ imm < 1048576)
    (hd : ∀ w, FieldsJ w op rd imm → decodeWords w 0 = some i) : Reads [mkJ op rd imm] i :=
  have ⟨hw, hf⟩ := mkJ_fields h
  ⟨hw, (isX_eq hf.op).trans hx, hd _ hf⟩

/-- The words of a well-formed instruction that has an encoding decode to it, by the format of its encoding. -/
theorem encode_reads {i : Instr} (he : i.encoded = true) (hw : i.wf = true) : Reads (encode i) i := by
  cases i <;> unfold Instr.wf at hw <;> simp only [Bool.and_eq_true, decide_eq_true_eq] at hw
  case add | sub | and | or | xor | andn | sll | srl | sra | mul | mulhI64 | mulhN64 | divI64 | divN64 | remI64 | remN64 | minI64
      | maxI64 | minN64 | maxN64 | addsI32 | subsI32 | addsI64 | subsI64 | sel | amoAddF32 | amoSnap | bind | joinInit | dacq
      | cfgLoad | invoke | binApp | binPlay | sethnd | gcJoin =>
    exact reads_register rfl (by omega) rfl
  case clz | ctz | popc | cmpEq | cmpNe | cmpLtI64 | cmpGeI64 | cmpLtN64 | cmpGeN64 | kand | kor | kxor | kandn | knot | kmov
      | kget | tldTake | tldKeep | tstFill | tstSet | tagGet | tagClr | amoVaddN32 | amoVaddF32 | unbind | lkRel | lkRelall
      | lkQuery | txBegin | txEnd | txAbort | txStat | spawn | done | chunk | drel | cfgConst | sbind | push | pull | drain
      | ctxset | mstone | tdown | tidWr | tidRd | sig | gcLeave | gcAnn | gcQuery =>
    exact reads_register rfl (by omega) (guardI_eq_some.2 ⟨by simp [hw], rfl⟩)
  case addi | andi | ori | xori | callr | ldI8 | ldN8 | ldI16 | ldN16 | ldI32 | ldN32 | ldI64 | stN8 | stN16 | stN32 | stN64
      | xinvVa =>
    exact reads_mkI rfl (by omega) fun w h => by unfold decodeWords; rw [h.op, h.rd, h.ra, h.g, h.imm]; rfl
  case cmpiEq | cmpiLtI64 | cmpiLtN64 | loop | mfs | mts =>
    refine reads_mkI rfl (by omega) fun w h => ?_
    unfold decodeWords; rw [h.op, h.rd, h.ra, h.g, h.imm]
    exact guardI_eq_some.2 ⟨by simp [hw], rfl⟩
  case ldhi | addpc | call =>
    exact reads_mkJ rfl (by omega) fun w h => by unfold decodeWords; rw [h.op, h.rd, h.imm]; rfl
  case beq | bne | bltI64 | bgeI64 | bltN64 | bgeN64 =>
    exact reads_mkB rfl (by omega) fun w h => by unfold decodeWords; rw [h.op, h.ra, h.rb, h.off]; rfl
  case bk | bnk =>
    refine reads_mkB rfl (by omega) fun w h => ?_
    unfold decodeWords; rw [h.op, h.ra, h.rb, h.off]
    exact guardI_eq_some.2 ⟨by simp [hw], rfl⟩
  case dmaLd | dmaSt | dmaCp | dmaGath | rput | rget | mtile | mbload | maccCp =>
    exact reads_extended rfl (by omega) (by omega) rfl
  case li | lih | ramo | maccZero =>
    exact reads_extended rfl (by omega) (by omega) (guardI_eq_some.2 ⟨by simp [hw], rfl⟩)
  case amoAdd w | amoAnd w | amoOr w | amoXor w | amoMinSigned w | amoMaxSigned w | amoMinUnsigned w | amoMaxUnsigned w
      | amoSwap w | amoCas w =>
    refine reads_register rfl (by omega) ?_
    obtain rfl | rfl : w = 0 ∨ w = 1 := by omega
    all_goals rfl
  case amoLd w =>
    refine reads_register rfl (by omega) ?_
    obtain rfl | rfl : w = 0 ∨ w = 1 := by omega
    all_goals rfl
  case fence sc | acq sc | rel sc =>
    refine reads_register rfl (by omega) ?_
    obtain rfl | rfl | rfl | rfl | rfl : sc = 0 ∨ sc = 1 ∨ sc = 2 ∨ sc = 3 ∨ sc = 4 := by omega
    all_goals rfl
  case slli n | srli n | srai n =>
    have hdiv : n / 64 = 0 ∧ (n + 64) / 64 = 1 ∧ (n + 128) / 64 = 2 := by omega
    have hmod : n % 64 = n ∧ (n + 64) % 64 = n ∧ (n + 128) % 64 = n := by omega
    refine reads_mkI rfl (by omega) fun w h => ?_
    unfold decodeWords; rw [h.op, h.rd, h.ra, h.g, h.imm]
    simp only [decodeShift, hdiv, hmod]
  case barInit n | barArrive n | barWait n | barSync n =>
    have hdiv : n / 128 = 0 ∧ (n + 128) / 128 = 1 ∧ (n + 256) / 128 = 2 ∧ (n + 384) / 128 = 3 := by omega
    have hmod : n % 128 = n ∧ (n + 128) % 128 = n ∧ (n + 256) % 128 = n ∧ (n + 384) % 128 = n := by omega
    refine reads_mkI rfl (by omega) fun w h => ?_
    unfold decodeWords; rw [h.op, h.rd, h.ra, h.g, h.imm]
    simp only [decodeBarrier, hdiv, hmod]
    exact guardI_eq_some.2 ⟨by simp [hw], rfl⟩
  case lkReq lv md | lkTry lv md | lkUp lv md =>
    have hdiv : (lv * 8 + md) / 32 = 0 ∧ (lv * 8 + md + 32) / 32 = 1 ∧ (lv * 8 + md + 64) / 32 = 2 := by omega
    have hlv : (lv * 8 + md) / 8 % 4 = lv ∧ (lv * 8 + md + 32) / 8 % 4 = lv ∧ (lv * 8 + md + 64) / 8 % 4 = lv := by omega
    have hmd : (lv * 8 + md) % 8 = md ∧ (lv * 8 + md + 32) % 8 = md ∧ (lv * 8 + md + 64) % 8 = md := by omega
    refine reads_register rfl (by omega) ?_
    simp only [decodeLockReq, hdiv, hlv, hmd]
    exact guardI_eq_some.2 ⟨by simp [hw], rfl⟩
  case trap | tack | eret | idle | icinvAll | icinvLine | xinvAll | xinvSpace =>
    refine reads_mkI rfl (by omega) fun w h => ?_
    unfold decodeWords; rw [h.op, h.rd, h.ra, h.g, h.imm]
    simp [decodeSystem, guardI, hw]
  case brk => exact ⟨by decide, by decide, by decide⟩
  all_goals exact absurd he Bool.false_ne_true

/-- Settles O2: the words of the instruction are read as it. -/
theorem encodedBytesDecode : Obligations.EncodedBytesDecode := by
  unfold Obligations.EncodedBytesDecode
  exact fun i rest he hw => (encode_reads he hw).decode rest

end Sys2Proof
end

section
/-! PROOFS. O3: the words that decode are those of the well-formed instruction that they decode to (03 R85 to R89). A decoder of a major
opcode is taken over fields in their ranges; each of its answers is an instruction whose fields it has checked. -/

namespace Sys2Proof

/-- An instruction is well formed, and these are its words. -/
def EncodesTo (i : Instr) (ws : List Nat) : Prop := i.wf = true ∧ encode i = ws

theorem EncodesTo.word {i : Instr} {v w : Nat} (hi : i.wf = true) (hv : encode i = [v]) (hw : v = w) : EncodesTo i [w] :=
  ⟨hi, hw ▸ hv⟩

theorem EncodesTo.twoWords {i : Instr} {v w e : Nat} (hi : i.wf = true) (hv : encode i = [v, e]) (hw : v = w) : EncodesTo i [w, e] :=
  ⟨hi, hw ▸ hv⟩

/-- An answer that a decoder gives without a check, in the form of one with a check. -/
theorem some_eq_some_guarded {i j : Instr} : some i = some j ↔ True ∧ i = j := by simp

/-! ## The decoders -/

/-- An answer of an R-format decoder has the fields it was read from, or zero for those that the decoder has found zero. -/
theorem registerDecoder_encodes {op rd ra rb g fn : Nat} {D : Nat → Nat → Nat → Nat → Nat → Option Instr} {i : Instr}
    (hD : registerDecoder op = some D) (hr : rd < 32 ∧ ra < 32 ∧ rb < 32 ∧ g < 8) (h : D rd ra rb g fn = some i) :
    EncodesTo i [mkR op rd ra rb g fn] := by
  unfold registerDecoder at hD
  split at hD <;> cases hD
  all_goals
    delta decodeInteger decodePredicate decodeTagged decodeAtomic decodeOrder decodeLockReq decodeLockRel decodeTx decodeTask
      decodeDistrict decodeBin decodeTid decodeSig decodeClock at h
    split at h <;> simp only [some_eq_some_guarded, guardI_eq_some, reduceCtorEq, Bool.and_eq_true, decide_eq_true_eq] at h
  all_goals
    obtain ⟨hc, rfl⟩ := h
    exact .word (by unfold Instr.wf; simp only [Bool.and_eq_true, decide_eq_true_eq]; omega) rfl (by unfold mkR; omega)

theorem extendedDecoder_encodes {op rd ra rb g fn e : Nat} {D : Nat → Nat → Nat → Nat → Nat → Nat → Option Instr} {i : Instr}
    (hD : extendedDecoder op = some D) (hr : rd < 32 ∧ ra < 32 ∧ rb < 32 ∧ g < 8) (he : e < 2 ^ 32) (h : D rd ra rb g fn e = some i) :
    EncodesTo i [mkR op rd ra rb g fn, e] := by
  unfold extendedDecoder at hD
  split at hD <;> cases hD
  all_goals
    delta decodeConst decodeDma decodeRemote decodeMatrix at h
    split at h <;> simp only [some_eq_some_guarded, guardI_eq_some, reduceCtorEq, Bool.and_eq_true, decide_eq_true_eq] at h
  all_goals
    obtain ⟨hc, rfl⟩ := h
    exact .twoWords (by unfold Instr.wf; simp only [Bool.and_eq_true, decide_eq_true_eq, hc, and_true]; omega) rfl
      (by unfold mkR; omega)

section
variable {i : Instr} {rd ra g imm : Nat} (hr : rd < 32 ∧ ra < 32 ∧ g < 8 ∧ imm < 4096)
include hr

theorem decodeShift_encodes (h : decodeShift rd ra g imm = some i) : EncodesTo i [mkI 0x06 rd ra g imm] := by
  unfold decodeShift at h
  split at h <;> simp only [some_eq_some_guarded, reduceCtorEq] at h
  all_goals
    obtain ⟨hc, rfl⟩ := h
    exact .word (by unfold Instr.wf; simp only [Bool.and_eq_true, decide_eq_true_eq]; omega) rfl (by unfold mkI; omega)

theorem decodeBarrier_encodes (h : decodeBarrier rd ra g imm = some i) : EncodesTo i [mkI 0x3B rd ra g imm] := by
  unfold decodeBarrier at h
  split at h <;> simp only [guardI_eq_some, reduceCtorEq, Bool.and_eq_true, decide_eq_true_eq] at h
  all_goals
    obtain ⟨hc, rfl⟩ := h
    exact .word (by unfold Instr.wf; simp only [Bool.and_eq_true, decide_eq_true_eq]; omega) rfl (by unfold mkI; omega)

theorem decodeSystem_encodes (h : decodeSystem rd ra g imm = some i) : EncodesTo i [mkI 0x52 rd ra g imm] := by
  unfold decodeSystem at h
  split at h
  on_goal 2 => split at h
  all_goals simp only [some_eq_some_guarded, guardI_eq_some, reduceCtorEq, Bool.and_eq_true, decide_eq_true_eq] at h
  all_goals
    obtain ⟨hc, rfl⟩ := h
    exact .word (by unfold Instr.wf; simp only [Bool.and_eq_true, decide_eq_true_eq]; omega) rfl (by unfold mkI; omega)

end

/-! ## Words -/

/-- The words that the decoder reads: one, or two where the first takes an extension word (03 R87). -/
def wordsRead (w e : Nat) : List Nat := if isX w then [w, e] else [w]

theorem EncodesTo.ofWord {w e op v : Nat} {i : Instr} (hop : fld w 25 7 = op) (hx : isXOp op = false) (hi : i.wf = true)
    (hv : encode i = [v]) (hvw : v = w) : EncodesTo i (wordsRead w e) := by
  rw [wordsRead, isX_eq hop, hx]
  exact .word hi hv hvw

section
variable {w e op : Nat} {i : Instr} (hw : w < 2 ^ 32) (hop : fld w 25 7 = op)
include hw hop

theorem EncodesTo.ofR (hx : isXOp op = false)
    (h : EncodesTo i [mkR op (fld w 20 5) (fld w 15 5) (fld w 10 5) (fld w 7 3) (fld w 0 7)]) : EncodesTo i (wordsRead w e) :=
  .ofWord hop hx h.1 h.2 (FieldsR.word ⟨hop, rfl, rfl, rfl, rfl, rfl⟩ hw)

theorem EncodesTo.ofR_ext (hx : isXOp op = true)
    (h : EncodesTo i [mkR op (fld w 20 5) (fld w 15 5) (fld w 10 5) (fld w 7 3) (fld w 0 7), e]) : EncodesTo i (wordsRead w e) := by
  rw [FieldsR.word ⟨hop, rfl, rfl, rfl, rfl, rfl⟩ hw] at h
  rwa [wordsRead, isX_eq hop, hx]

theorem EncodesTo.ofI (hx : isXOp op = false) (h : EncodesTo i [mkI op (fld w 20 5) (fld w 15 5) (fld w 12 3) (fld w 0 12)]) :
    EncodesTo i (wordsRead w e) :=
  .ofWord hop hx h.1 h.2 (FieldsI.word ⟨hop, rfl, rfl, rfl, rfl⟩ hw)

end

/-- Words that decode are those of a well-formed instruction. -/
theorem decodeWords_encodes {w e : Nat} {i : Instr} (hw : w < 2 ^ 32) (he : e < 2 ^ 32) (h : decodeWords w e = some i) :
    EncodesTo i (wordsRead w e) := by
  have hr : fld w 20 5 < 32 ∧ fld w 15 5 < 32 ∧ fld w 10 5 < 32 ∧ fld w 7 3 < 8 := ⟨fld_lt .., fld_lt .., fld_lt .., fld_lt ..⟩
  have hi : fld w 20 5 < 32 ∧ fld w 15 5 < 32 ∧ fld w 12 3 < 8 ∧ fld w 0 12 < 4096 := ⟨fld_lt .., fld_lt .., fld_lt .., fld_lt ..⟩
  have hb : fld w 0 15 < 32768 := fld_lt ..
  have hj : fld w 0 20 < 1048576 := fld_lt ..
  unfold decodeWords at h
  dsimp only at h
  split at h
  -- The cases are the rows of `decodeWords` in its order; those that are not of a decoder stand for one instruction each.
  case h_1 hop | h_10 hop | h_36 hop | h_37 hop | h_38 hop | h_40 hop | h_41 hop | h_42 hop | h_43 hop | h_44 hop | h_46 hop | h_48 hop
      | h_53 hop | h_54 hop =>
    exact .ofR hw hop rfl (registerDecoder_encodes rfl hr h)
  case h_9 hop | h_45 hop | h_47 hop | h_49 hop => exact .ofR_ext hw hop rfl (extendedDecoder_encodes rfl hr he h)
  case h_6 hop => exact .ofI hw hop rfl (decodeShift_encodes hi h)
  case h_39 hop => exact .ofI hw hop rfl (decodeBarrier_encodes hi h)
  case h_52 hop => exact .ofI hw hop rfl (decodeSystem_encodes hi h)
  case h_55 hop =>
    obtain ⟨hz, rfl⟩ := guardI_eq_some.1 h
    exact .ofWord hop rfl rfl rfl (by simp only [fld, decide_eq_true_eq] at hop hz; omega)
  case h_2 hop | h_3 hop | h_4 hop | h_5 hop | h_23 hop | h_25 hop | h_26 hop | h_27 hop | h_28 hop | h_29 hop | h_30 hop | h_31 hop
      | h_32 hop | h_33 hop | h_34 hop | h_35 hop =>
    cases h
    exact .ofI hw hop rfl ⟨by simp [Instr.wf, hi], rfl⟩
  case h_11 hop | h_12 hop | h_13 hop | h_24 hop =>
    obtain ⟨hc, rfl⟩ := guardI_eq_some.1 h
    exact .ofI hw hop rfl ⟨by simpa [Instr.wf, hi] using hc, rfl⟩
  case h_50 hop | h_51 hop =>
    obtain ⟨hc, rfl⟩ := guardI_eq_some.1 h
    exact .ofI hw hop rfl ⟨by simp [Instr.wf, hi], by rw [of_decide_eq_true hc]; rfl⟩
  case h_7 hop | h_8 hop | h_22 hop =>
    cases h
    exact .ofWord hop rfl (by simp [Instr.wf, hi, hj]) rfl (FieldsJ.word ⟨hop, rfl, rfl⟩ hw)
  case h_14 hop | h_15 hop | h_16 hop | h_17 hop | h_18 hop | h_19 hop =>
    cases h
    exact .ofWord hop rfl (by simp [Instr.wf, hi, hb]) rfl (FieldsB.word ⟨hop, rfl, rfl, rfl⟩ hw)
  case h_20 hop | h_21 hop =>
    obtain ⟨hc, rfl⟩ := guardI_eq_some.1 h
    obtain ⟨hk, hz⟩ : fld w 20 5 < 8 ∧ fld w 15 5 = 0 := by simpa using hc
    exact .ofWord hop rfl (by simp [Instr.wf, hk, hb]) rfl (FieldsB.word ⟨hop, rfl, hz, rfl⟩ hw)
  case h_56 => cases h

/-! ## Bytes -/

/-- What has been read where the decoder answers. -/
theorem decode_reads {bs rest : List Byte} {i : Instr} (h : decode bs = some (i, rest)) :
    ∃ w e, w < 2 ^ 32 ∧ e < 2 ^ 32 ∧ decodeWords w e = some i ∧ bs = (wordsRead w e).flatMap wordBytes ++ rest := by
  unfold decode at h
  split at h
  · next b0 b1 b2 b3 rest' =>
    dsimp only at h
    split at h
    · next hx =>
      split at h
      · next c0 c1 c2 c3 rest'' =>
        obtain ⟨j, hj, heq⟩ := Option.map_eq_some_iff.1 h
        cases heq
        exact ⟨_, _, leWord_lt .., leWord_lt .., hj, by simp [wordsRead, hx, wordBytes_leWord]⟩
      · cases h
    · next hx =>
      obtain ⟨j, hj, heq⟩ := Option.map_eq_some_iff.1 h
      cases heq
      exact ⟨_, 0, leWord_lt .., by decide, hj, by simp [wordsRead, hx, wordBytes_leWord]⟩
  · cases h

/-- Settles O3, from the words that the decoder has read. -/
theorem decodedBytesEncode : Obligations.DecodedBytesEncode := by
  unfold Obligations.DecodedBytesEncode
  intro bs i rest h
  obtain ⟨w, e, hw, he, hd, rfl⟩ := decode_reads h
  obtain ⟨hi, hwords⟩ := decodeWords_encodes hw he hd
  refine ⟨hi, ?_, by rw [encodeBytes, hwords]⟩
  rw [Instr.encoded, hwords, wordsRead]
  split <;> rfl

end Sys2Proof
end

section
/-! PROOFS. System registers (03 R76 to R84; 04 R122): which accesses are refused, the fields of a word, and O18 and O19. -/

namespace Sys2Proof.Machine

/-! ## Permission (03 R76, R90) -/

section
variable {rd ra g n : Nat} {s : State}

theorem exec_mfs_unknown (h : sysKnown n = false) : exec (.mfs rd g n) s = .next (trap 0x001 (firstWord (.mfs rd g n)) s) := by
  change execMfs rd g n s = _
  simp only [execMfs, h, Bool.not_false, if_true]; rfl

theorem exec_mts_unknown (h : sysKnown n = false) : exec (.mts ra g n) s = .next (trap 0x001 (firstWord (.mts ra g n)) s) := by
  change execMts ra g n s = _
  simp only [execMts, h, Bool.not_false, if_true]; rfl

theorem exec_mfs_refused (hk : sysKnown n = true) (hu : (th s).status.supv = false) (hn : sysUserRead n = false) :
    exec (.mfs rd g n) s = .next (trap 0x002 (firstWord (.mfs rd g n)) s) := by
  change execMfs rd g n s = _
  simp only [execMfs, hk, hu, hn]; rfl

theorem exec_mts_refused (hk : sysKnown n = true) (hu : (th s).status.supv = false) (hn : sysUserWrite n = false) :
    exec (.mts ra g n) s = .next (trap 0x002 (firstWord (.mts ra g n)) s) := by
  change execMts ra g n s = _
  simp only [execMts, hk, hu, hn]; rfl

theorem exec_mfs_permitted (hk : sysKnown n = true) (hp : (th s).status.supv = true ∨ sysUserRead n = true) :
    exec (.mfs rd g n) s = issue g 4 (sysRegs n) s (fun s => retX rd (sysRead s.cur n s) s) := by
  have hno : (!(th s).status.supv && !sysUserRead n) = false := by
    rcases hp with h | h <;> simp [h]
  change execMfs rd g n s = _
  simp only [execMfs, hk, hno]; rfl

theorem exec_mts_permitted (hk : sysKnown n = true) (hp : (th s).status.supv = true ∨ sysUserWrite n = true) :
    exec (.mts ra g n) s = issue g 4 [ra] s (fun s => advance 4 (sysWrite s.cur n (rx s ra) s)) := by
  have hno : (!(th s).status.supv && !sysUserWrite n) = false := by
    rcases hp with h | h <;> simp [h]
  change execMts ra g n s = _
  simp only [execMts, hk, hno]; rfl

end

/-- The numbers of R76 are those of its rows. -/
theorem sysKnown_of_not_mem {n : Nat} (h : n ∉ [0x000, 0x001, 0x002, 0x003, 0x004, 0x005, 0x006, 0x007, 0x008, 0x010, 0x011, 0x012,
    0x013, 0x020, 0x021, 0x022, 0x023, 0x024, 0x030, 0x031, 0x032, 0x033, 0x040, 0x041]) : sysKnown n = false := by
  by_contra hk
  rw [Bool.not_eq_false] at hk
  have hlt : n < 0x042 := by simp [sysKnown] at hk; omega
  have rows : ∀ n < 0x042, sysKnown n = true → n ∈ [0x000, 0x001, 0x002, 0x003, 0x004, 0x005, 0x006, 0x007, 0x008, 0x010, 0x011, 0x012,
    0x013, 0x020, 0x021, 0x022, 0x023, 0x024, 0x030, 0x031, 0x032, 0x033, 0x040, 0x041] := by decide
  exact h (rows n hlt hk)

theorem sys_closed_to_user_reads : ∀ n ∈ [0x002, 0x003, 0x004, 0x005, 0x006, 0x007, 0x008, 0x010, 0x011, 0x012, 0x013, 0x020, 0x040, 0x041],
    sysKnown n = true ∧ sysUserRead n = false := by decide

theorem sys_closed_to_user_writes : ∀ n ∈ [0x000, 0x001, 0x002, 0x003, 0x004, 0x005, 0x006, 0x007, 0x008, 0x010, 0x011, 0x012, 0x013,
    0x020, 0x021, 0x022, 0x023, 0x040, 0x041], sysKnown n = true ∧ sysUserWrite n = false := by decide

/-- Settles O18: the supervisor-only instructions by `issueSupv_user`, the system registers by the rows of R76. -/
theorem userModeRefusesSupervisorInstructions : Obligations.UserModeRefusesSupervisorInstructions := by
  unfold Obligations.UserModeRefusesSupervisorInstructions
  intro s rd ra rb g imm
  refine ⟨fun hu => ?_, fun h => ⟨exec_mfs_unknown (sysKnown_of_not_mem h), exec_mts_unknown (sysKnown_of_not_mem h)⟩⟩
  have user : ∀ {i : Instr} {regs : List Nat} (f : State → State), issueSupv i g regs s f = .next (trap 0x002 (firstWord i) s) :=
    issueSupv_user hu
  refine ⟨user _, user _, user _, user _, user _, user _, user _, user _, user _, user _, user _, user _, fun h => ?_, fun h => ?_⟩
  · obtain ⟨hk, hn⟩ := sys_closed_to_user_reads imm h
    exact exec_mfs_refused hk hu hn
  · obtain ⟨hk, hn⟩ := sys_closed_to_user_writes imm h
    exact exec_mts_refused hk hu hn

/-! ## Fields of a word (03 R77) -/

/-- A mask whose lowest field has len bits from bit lo on: the field stays, and the rest of the mask acts on the bits above. -/
theorem and_field (n lo len m : Nat) :
    n &&& 2 ^ lo * (2 ^ len * m + (2 ^ len - 1)) = 2 ^ lo * (2 ^ len * (n / 2 ^ lo / 2 ^ len &&& m) + n / 2 ^ lo % 2 ^ len) := by
  refine Nat.eq_of_testBit_eq fun i => ?_
  have hpos := Nat.two_pow_pos len
  rw [Nat.testBit_and, Nat.testBit_two_pow_mul, Nat.testBit_two_pow_mul, Nat.testBit_two_pow_mul_add _ (by omega),
    Nat.testBit_two_pow_mul_add _ (Nat.mod_lt _ hpos), Nat.testBit_two_pow_sub_one, Nat.testBit_mod_two_pow, Nat.testBit_and,
    Nat.testBit_div_two_pow, Nat.testBit_div_two_pow, Nat.testBit_div_two_pow]
  by_cases hi : lo ≤ i
  · by_cases hl : i - lo < len
    · simp [hi, hl]
    · simp [hi, hl, show i - lo - len + len + lo = i by omega]
  · simp [hi]

/-- A field of one bit in the number of a word. -/
theorem ite_eq_mul_toNat (b : Bool) (k : Nat) : (if b = true then k else 0) = k * b.toNat := by
  cases b <;> simp

theorem word_and (v : Word) (m : Nat) : v &&& BitVec.ofNat 64 m = BitVec.ofNat 64 (v.toNat &&& m) := by
  apply BitVec.eq_of_toNat_eq
  rw [BitVec.toNat_and, BitVec.toNat_ofNat, BitVec.toNat_ofNat, Nat.and_mod_two_pow, Nat.mod_eq_of_lt v.isLt]

theorem Status.word_ofWord (v : Word) : (Status.ofWord v).word = v &&& 0x337 := by
  have h0 : v.toNat &&& 0x337 = _ := and_field v.toNat 0 3 0x66
  have h1 : v.toNat / 2 ^ 0 / 2 ^ 3 &&& 0x66 = _ := and_field _ 1 2 0xC
  have h2 : v.toNat / 2 ^ 0 / 2 ^ 3 / 2 ^ 1 / 2 ^ 2 &&& 0xC = _ := and_field _ 2 2 0
  rw [show (0x337 : Word) = BitVec.ofNat 64 0x337 from rfl, word_and, h0, h1, h2, Nat.and_zero]
  simp only [Status.word, ite_eq_mul_toNat]
  simp only [Status.ofWord, BitVec.toNat_ofNat, bits, bit, Nat.toNat_testBit]
  congr 1
  omega

theorem Cause.word_ofWord (v : Word) : (Cause.ofWord v).word = v &&& 0x13FF := by
  have h0 : v.toNat &&& 0x13FF = _ := and_field v.toNat 0 10 4
  have h1 : v.toNat / 2 ^ 0 / 2 ^ 10 &&& 4 = _ := and_field _ 2 1 0
  rw [show (0x13FF : Word) = BitVec.ofNat 64 0x13FF from rfl, word_and, h0, h1, Nat.and_zero]
  simp only [Cause.word, ite_eq_mul_toNat]
  simp only [Cause.ofWord, BitVec.toNat_ofNat, bits, bit, Nat.toNat_testBit]
  congr 1
  omega

theorem address_word (v : Word) : BitVec.ofNat 64 ((BitVec.ofNat 54 (bits v 55 2)).toNat * 4) = v &&& 0x00FFFFFFFFFFFFFC := by
  have h0 : v.toNat &&& 0x00FFFFFFFFFFFFFC = _ := and_field v.toNat 2 54 0
  rw [show (0x00FFFFFFFFFFFFFC : Word) = BitVec.ofNat 64 0x00FFFFFFFFFFFFFC from rfl, word_and, h0, Nat.and_zero]
  simp only [BitVec.toNat_ofNat, bits]
  congr 1
  omega

theorem vector_word (v : Word) : BitVec.ofNat 64 ((BitVec.ofNat 48 (bits v 55 8)).toNat * 256) = v &&& 0x00FFFFFFFFFFFF00 := by
  have h0 : v.toNat &&& 0x00FFFFFFFFFFFF00 = _ := and_field v.toNat 8 48 0
  rw [show (0x00FFFFFFFFFFFF00 : Word) = BitVec.ofNat 64 0x00FFFFFFFFFFFF00 from rfl, word_and, h0, Nat.and_zero]
  simp only [BitVec.toNat_ofNat, bits]
  congr 1
  omega

theorem low_word (v : Word) (k : Nat) :
    BitVec.ofNat 64 (BitVec.ofNat (k + 1) (bits v k 0)).toNat = v &&& BitVec.ofNat 64 (2 ^ (k + 1) - 1) := by
  rw [word_and, Nat.and_two_pow_sub_one_eq_mod]
  simp only [BitVec.toNat_ofNat, bits, Nat.pow_zero, Nat.div_one, Nat.sub_zero, Nat.mod_mod]

theorem HwLoop.word_setWord (l : HwLoop) (v : Word) : (l.setWord v).word = v &&& 0xFFFFFFFF0000FFFF := by
  have h0 : v.toNat &&& 0xFFFFFFFF0000FFFF = _ := and_field v.toNat 0 16 0xFFFFFFFF0000
  have h1 : v.toNat / 2 ^ 0 / 2 ^ 16 &&& 0xFFFFFFFF0000 = _ := and_field _ 16 32 0
  rw [show (0xFFFFFFFF0000FFFF : Word) = BitVec.ofNat 64 0xFFFFFFFF0000FFFF from rfl, word_and, h0, h1, Nat.and_zero]
  simp only [HwLoop.word, HwLoop.setWord, BitVec.toNat_ofNat, bits]
  congr 1
  omega

/-- CC_PRED as the sum of its bits. -/
theorem Thread.pred_eq (t : Thread) : t.pred = BitVec.ofNat 64 (1 + 2 * (t.getK 1).toNat + 4 * (t.getK 2).toNat + 8 * (t.getK 3).toNat +
    16 * (t.getK 4).toNat + 32 * (t.getK 5).toNat + 64 * (t.getK 6).toNat + 128 * (t.getK 7).toNat) := by
  have hadd : ∀ (b : Bool) (a k : Nat), (if b = true then a + k else a) = a + k * b.toNat := by
    intro b a k; cases b <;> simp
  simp only [Thread.pred, List.range, List.range.loop, List.foldl, hadd]
  rfl

theorem Thread.getK_setPred (t : Thread) (v : Word) (i : Nat) (hi : 0 < i ∧ i < 8) : (t.setPred v).getK i = bit v i := by
  simp [Thread.getK, Thread.setPred, hi, show i ≠ 0 by omega]

theorem Thread.pred_setPred (t : Thread) (v : Word) : (t.setPred v).pred = (v &&& 0xFE) ||| 1 := by
  have h0 : v.toNat &&& 0xFE = _ := and_field v.toNat 1 7 0
  rw [Thread.pred_eq, Thread.getK_setPred _ _ 1 (by decide), Thread.getK_setPred _ _ 2 (by decide), Thread.getK_setPred _ _ 3 (by decide),
    Thread.getK_setPred _ _ 4 (by decide), Thread.getK_setPred _ _ 5 (by decide), Thread.getK_setPred _ _ 6 (by decide),
    Thread.getK_setPred _ _ 7 (by decide), show (0xFE : Word) = BitVec.ofNat 64 0xFE from rfl, word_and, h0, Nat.and_zero,
    Nat.mul_zero, Nat.zero_add]
  have hlt : 2 ^ 1 * (v.toNat / 2 ^ 1 % 2 ^ 7) < 2 ^ 64 := by omega
  simp only [bit, Nat.toNat_testBit]
  apply BitVec.eq_of_toNat_eq
  rw [BitVec.toNat_or, BitVec.toNat_ofNat, BitVec.toNat_ofNat, Nat.mod_eq_of_lt hlt, show (1 : Word).toNat = 1 from rfl,
    ← Nat.two_pow_add_eq_or_of_lt (by decide)]
  omega

/-! ## What a write leaves to be read (03 R77 to R84) -/

theorem core_updThr_same (s : State) (c : Nat) (f : Thread → Thread) : core (updThr s c f) c = { core s c with t := f (core s c).t } := by
  simp [updThr]

/-- A write of CC_STATUS only takes IE. -/
theorem Status.word_withIe (t : Status) (v : Word) : ({ t with ie := bit v 1 } : Status).word = (t.word &&& ~~~(2 : Word)) ||| (v &&& 2) := by
  have hv : v &&& 2 = BitVec.ofNat 64 (2 * (bit v 1).toNat) := by
    have h0 : v.toNat &&& 2 = _ := and_field v.toNat 1 1 0
    rw [show (2 : Word) = BitVec.ofNat 64 2 from rfl, word_and, h0, Nat.and_zero, Nat.mul_zero, Nat.zero_add, bit, Nat.toNat_testBit]
    rfl
  obtain ⟨p, txn, wpend, intrap, ie, supv⟩ := t
  rw [hv]
  generalize bit v 1 = b
  revert p txn wpend intrap ie supv b
  decide

/-- What reads of hardware's own fields see does not depend on IE. -/
theorem hwSeen_updThr (s : State) (c : Nat) (f : Thread → Thread)
    (hf : (f (thr s c)).status.txn = (thr s c).status.txn ∧ (f (thr s c)).status.wpend = (thr s c).status.wpend) :
    hwSeen (updThr s c f) c = hwSeen s c := by
  obtain ⟨ht, hw⟩ := hf
  simp only [thr] at ht hw
  simp only [hwSeen, core_updThr_same, updThr_fc, ht, hw]

/-- CC_AGE is written only without lock records and outside a transaction (03 R82). -/
theorem sysWrite_age (s : State) (c : Nat) (v : Word) : sysWrite c 0x021 v s =
    if (thr s c).status.txn = true ∨ recordsOf s (thr s c).id ≠ [] then s else updThr s c (Thread.setAge v) := by
  simp [sysWrite]

/-- A write of CC_MSGSTAT clears OVF by a 1, unless hardware has set it in this fc (03 R84). -/
theorem sysWrite_msgstat (s : State) (c : Nat) (v : Word) : sysWrite c 0x040 v s =
    updCore s c (fun k => { k with msgOvf := k.msgOvf && (!v.getLsbD 8 || (hwSeen s c).ovfSet) }) := rfl

/-- A write of CC_MSGSTAT that clears nothing leaves what is seen of OVF and of the messages that wait. -/
theorem hwSeen_msgstat {s : State} {c : Nat} {v : Word} (hv : v.getLsbD 8 = false) : hwSeen (sysWrite c 0x040 v s) c = hwSeen s c := by
  simp only [sysWrite_msgstat, hv, Bool.not_false, Bool.true_or, Bool.and_true, hwSeen, core_updCore_same, updCore_fc]

/-- Settles O19: the two instructions behind their checks, then each register by the fields of its word. -/
theorem systemRegisterFields : Obligations.SystemRegisterFields := by
  unfold Obligations.SystemRegisterFields
  refine ⟨fun s rd g n hk hp hr => ?_, fun s ra g n hk hp hr => ?_, fun s c v => ?_⟩
  · rw [exec_mfs_permitted hk hp, issue_ready hr]
  · rw [exec_mts_permitted hk hp, issue_ready hr]
  refine ⟨?_, ?_, ?_, ?_, ?_, ?_, ?_, ?_, ?_, ?_, ?_, ?_, ?_, ?_, ?_, ?_, ?_, ?_, ?_⟩
  · simp only [sysRead, sysWrite]
    rw [hwSeen_updThr _ _ _ ⟨rfl, rfl⟩, core_updThr_same]
    exact Status.word_withIe { (core s c).t.status with txn := (hwSeen s c).txn, wpend := (hwSeen s c).wpend } v
  · simp only [sysRead, sysWrite, core_updThr_same, Status.word_ofWord]
  · simp only [sysRead, sysWrite, core_updThr_same, Cause.word_ofWord]
  · simp only [sysRead, sysWrite, core_updThr_same, address_word]
  · simp only [sysRead, sysWrite, core_updThr_same]
  · simp only [sysRead, sysWrite, core_updCore_same, sysRead.t_vec, vector_word]
  · simp only [sysRead, sysWrite, core_updThr_same]
  · simp only [sysRead, sysWrite, core_updThr_same]
    exact low_word v 15
  · rw [sysWrite_age]
    split
    · rfl
    · simp only [sysRead, core_updThr_same, Thread.setAge]
  · simp only [sysRead, sysWrite, core_updCore_same, Thread.pred_setPred]
  · simp only [sysRead, sysWrite, core_updThr_same, HwLoop.word_setWord]
  · simp only [sysRead, sysWrite, core_updThr_same]
    exact address_word v
  · simp only [sysRead, sysWrite, core_updThr_same, HwLoop.word_setWord]
  · simp only [sysRead, sysWrite, core_updThr_same]
    exact address_word v
  · simp only [sysRead, sysWrite, core_updThr_same]
    exact low_word v 31
  · intro ht hl
    simp [sysWrite_age, ht, hl, Thread.setAge]
  · intro hv
    simp only [sysWrite_msgstat, core_updCore_same, hv, Bool.not_true, Bool.false_or]
  · intro hv
    simp only [sysRead, hwSeen_msgstat hv]
  · intro n hn
    simp only [List.mem_cons, List.not_mem_nil, or_false] at hn
    rcases hn with rfl | rfl | rfl | rfl | rfl | rfl | rfl | rfl <;> rfl

end Sys2Proof.Machine
end

section
/-! PROOFS. O1, O4, O5, O6, O7 and O15: decoding and fetching, reset, what a result leaves alone, and false guards. -/

namespace Sys2Proof.Machine

/-! ## Fetching (03 R73, R90) -/

/-- Four bytes at a word of a line of 64 bytes are the line's bytes there. -/
theorem placeRead_line (s : State) (b o : Nat) (ho : o + 4 ≤ 64) :
    ((placeRead s (.dev b) 64).drop o).take 4 = placeRead s (.dev (b + o)) 4 := by
  apply List.ext_getElem
  · simp [placeRead]; omega
  · intro j h1 h2
    simp [placeRead, Place.plus, Nat.add_assoc]

/-- A word of a line of device memory is bad where the line carries poison there. -/
theorem lineBad_contains (s : State) (b j : Nat) (hj : j < 16) :
    (lineBad s (.dev b)).contains j = placeReadPois s (.dev (b + 4 * j)) 4 := by
  have hplus : (Place.dev b).plus (4 * j) = .dev (b + 4 * j) := rfl
  rw [Bool.eq_iff_iff]
  simp [lineBad, hj, hplus]

/-- A line of device memory that is not cached is read from memory, with the marks that it carries. -/
theorem fetchLine_miss {s : State} {c va a : Nat} (h : mget? (core s c).icache (lineKey (thr s c).asid.toNat va) = none) :
    (fetchLine s c va (.dev a)).1 = ⟨placeRead s (.dev (a / 64 * 64)) 64, lineBad s (.dev (a / 64 * 64))⟩ := by
  simp only [fetchLine, h, Place.line]

theorem fetchLine_hit {s : State} {c va : Nat} {l : ILine} (p : Place)
    (h : mget? (core s c).icache (lineKey (thr s c).asid.toNat va) = some l) : fetchLine s c va p = (l, s) := by
  simp only [fetchLine, h]

/-- A fetch of a byte whose place is found reads the line there, unless the line is on a page that moves. -/
theorem fetchWord_place {s s1 : State} {c va : Nat} {p : Place} (hp : bytePlace s c va needX true = (.ok p, s1)) (hhub : isHub p = false)
    (hmig : (mget? (core s1 c).icache (lineKey (thr s1 c).asid.toNat va)).isNone = true → migAt s1 p = none) :
    fetchWord s c va = if (fetchLine s1 c va p).1.bad.contains (va % 64 / 4) = true
      then (.error (.cause 0x109 (BitVec.ofNat 64 va)), (fetchLine s1 c va p).2)
      else (.ok (leNat (((fetchLine s1 c va p).1.bytes.drop (va % 64)).take 4)), (fetchLine s1 c va p).2) := by
  have hm : ((mget? (core s1 c).icache (lineKey (thr s1 c).asid.toNat va)).isNone && (migAt s1 p).isSome) = false := by
    rw [Bool.and_eq_false_imp]
    intro h
    rw [hmig h]; rfl
  simp only [fetchWord, hp, hhub, hm, Bool.false_eq_true, if_false]

/-- Settles O5: a fetch reads the line at the place of the byte, from memory or from the cache, and the decoder reads the word. -/
theorem fetchReadsInstructionBytes : Obligations.FetchReadsInstructionBytes := by
  unfold Obligations.FetchReadsInstructionBytes
  refine ⟨?_, ?_, ?_, ?_, ?_⟩
  · intro s s1 c va a hp hline hword hmiss hmig
    have hw := fetchWord_place hp rfl fun _ => hmig
    have hb : a / 64 * 64 + 4 * (va % 64 / 4) = a := by omega
    have ho : a / 64 * 64 + va % 64 = a := by omega
    rw [fetchLine_miss hmiss, lineBad_contains _ _ _ (by omega), hb, placeRead_line _ _ _ (by omega), ho] at hw
    exact ⟨fun hclean => by rw [hw, hclean]; rfl, fun hbad => by rw [hw, hbad]; rfl⟩
  · intro s s1 c va p l hp hhub hhit hgood
    rw [fetchWord_place hp hhub (by simp [hhit]), fetchLine_hit p hhit]
    simp [hgood]
  · intro s s1 c w i hw hx hi
    simp only [fetchInstr, hw, hx, hi, Bool.false_eq_true, if_false]
  · intro s s1 s2 c w e i hw hx he hi
    simp only [fetchInstr, hw, hx, he, hi, if_true]
  · intro s s1 c w hw hx hi
    simp only [fetchInstr, hw, hx, hi, Bool.false_eq_true, if_false]

/-- Settles O1: each word is decoded. -/
theorem specWordsDecode : Obligations.SpecWordsDecode := by
  unfold Obligations.SpecWordsDecode
  decide

/-- Settles O4: the turn is core c's, and every test of it lets the fetched instruction run. -/
theorem stepRunsDecodedInstruction : Obligations.StepRunsDecodedInstruction := by
  unfold Obligations.StepRunsDecodedInstruction
  intro s s2 c i hturn hc hruns hboundary hissues hfetch
  have hcore : coreTurn c (takeTurn s).2 = .run i s2 := by
    simp only [coreTurn, hruns, hboundary, hissues, hfetch, Bool.not_true, Bool.false_eq_true, if_false, if_true]
  simp only [step, runTurn, hturn, coreStep, hc, hcore, if_true]

/-! ## Reset (03 R71 to R84) -/

theorem core_reset (c : Nat) : core State.reset c = .reset c := rfl

theorem Status.word_reset : Status.reset.word = 1 := by decide

theorem Status.word_zero : Status.zero.word = 0 := by decide

theorem Cause.word_zero : Cause.zero.word = 0 := by decide

theorem HwLoop.word_zero : HwLoop.zero.word = 0 := by decide

theorem HwLoop.startWord_zero : HwLoop.zero.startWord = 0 := by decide

theorem time_reset : State.reset.fc = 0 ∧ State.reset.ns = 0 := ⟨rfl, rfl⟩

theorem hwSeen_reset (c : Nat) : hwSeen State.reset c = ⟨0, false, false, false, 0, false⟩ := rfl

theorem ccId_reset {c : Nat} (hc : c < 256) :
    ccId State.reset c = BitVec.ofNat 64 (0xFF0001 + 256 * c + if c % 64 = 0 then 128 else 0) := by
  unfold ccId
  congr 1
  rw [show State.reset.device = 255 from rfl, Nat.mod_eq_of_lt hc]
  split <;> omega

/-- Settles O6: a core that no list names is in its own reset state. -/
theorem resetRegistersOfCores : Obligations.ResetRegistersOfCores := by
  unfold Obligations.ResetRegistersOfCores
  intro c hc
  refine ⟨fun r => ?_, fun r => ?_, rfl, rfl, rfl, ccId_reset hc, Status.word_reset, fun n hn => ?_, rfl, rfl⟩
  · change (if r = 0 then 0 else 0) = (0 : Word)
    simp
  · change (r == 0 || false) = (r == 0)
    simp
  · simp only [List.mem_cons, List.not_mem_nil, or_false] at hn
    rcases hn with rfl | rfl | rfl | rfl | rfl | rfl | rfl | rfl | rfl | rfl | rfl | rfl | rfl | rfl | rfl | rfl | rfl | rfl | rfl | rfl
    all_goals
      simp [sysRead, sysRead.t_vec, core_reset, hwSeen_reset, CoreState.reset, Thread.reset, time_reset, Status.word_zero, Cause.word_zero,
        HwLoop.word_zero, HwLoop.startWord_zero]

/-! ## Results (03 R71; 04 R101, R118) -/

theorem core_advance_wx_other (s : State) (n i c : Nat) (v : Word) (h : c ≠ s.cur) : core (advance n (wx s i v)) c = core s c :=
  (core_advance_other n (wx s i v) c h).trans (core_updCore_other s s.cur c _ h)

theorem core_advance_wk_other (s : State) (n i c : Nat) (b : Bool) (h : c ≠ s.cur) : core (advance n (wk s i b)) c = core s c :=
  (core_advance_other n (wk s i b) c h).trans (core_updCore_other s s.cur c _ h)

theorem core_jump_other (n c : Nat) (s : State) (h : c ≠ s.cur) : core (jump n s) c = core s c := core_updThr_other s s.cur c _ h

theorem th_retX (rd : Nat) (v : Word) (s : State) : th (retX rd v s) = ((th s).setX rd v).step 4 := by simp [retX]

theorem th_retK (rd : Nat) (b : Bool) (s : State) : th (retK rd b s) = ((th s).setK rd b).step 4 := by simp [retK]

theorem th_jump (n : Nat) (s : State) : th (jump n s) = { th s with pc := pcOf n, wait := .none } := by simp [jump]

theorem rx_retX (rd r : Nat) (v : Word) (s : State) : rx (retX rd v s) r = rx (wx s rd v) r := by simp [rx, th_retX]

theorem rk_retK (rd r : Nat) (b : Bool) (s : State) : rk (retK rd b s) r = rk (wk s rd b) r := by simp [rk, th_retK]

/-- Settles O7: the values by what `wx` and `wk` leave to be read, the rest field by field through `setX`, `setK` and `step`. -/
theorem resultFrame : Obligations.ResultFrame := by
  unfold Obligations.ResultFrame
  intro s t rd n v b ht
  refine ⟨?_, fun r hr => ?_, fun r => ?_, ?_, fun r hr => ?_, fun r => ?_, fun r => ?_, ?_⟩
  · rw [rx_retX]
    split
    · next h => rw [h, rx_zero]
    · next h => exact rx_wx_same s rd v h
  · rw [rx_retX, rx_wx_other s rd r v (.inl hr)]
  · simp [rk, th_retX]
  · rw [rk_retK]
    by_cases h : rd = 0
    · simp [h, rk, Thread.getK]
    · simp [rk_wk_same s rd b h, h]
  · rw [rk_retK, rk_wk_other s rd r b (.inl hr)]
  · simp [rx, th_retK]
  · simp [rx, rk, th_jump, Thread.getX, Thread.getK]
  · rcases ht with rfl | rfl | rfl | rfl
    · simp +contextual [retX, core_advance_wx_other]
    · simp +contextual [retK, core_advance_wk_other]
    · simp +contextual [core_advance_other]
    · simp +contextual [th_jump, core_jump_other]

/-! ## False guards (03 R91) -/

/-- Settles O15: each instruction is `issue` under its guard; a supervisor-only one and a system register access only behind its check. -/
theorem falseGuardOnlyAdvances : Obligations.FalseGuardOnlyAdvances := by
  unfold Obligations.FalseGuardOnlyAdvances
  intro s rd ra rb g imm w sc lv md lp hparity hg
  have hclean : Clean s [32 + g] := by simpa [Clean] using hparity
  have skip {len : Nat} {regs : List Nat} (f : State → State) : issue g len regs s f = .next (advance len s) := issue_skip hg hclean f
  refine ⟨?_, fun hs => ?_, fun hk hp => ?_, fun hk hp => ?_⟩
  · and_intros
    all_goals (unfold exec; exact skip _)
  · have skipSupv {i : Instr} {regs : List Nat} (f : State → State) : issueSupv i g regs s f = .next (advance 4 s) := by
      rw [issueSupv, if_pos hs]
      exact skip f
    and_intros
    all_goals (unfold exec; exact skipSupv _)
  · rw [exec_mfs_permitted hk hp]
    exact skip _
  · rw [exec_mts_permitted hk hp]
    exact skip _

end Sys2Proof.Machine
end

section
/-! PROOFS. Values of the scalar instructions (04 R101 to R113): the model's integers, bits and comparisons as operations of bit vectors. -/

namespace Sys2Proof.Machine

/-! ## Wrap, Sext and Sat (00 R14; 01 R22; 04 R101) -/

theorem wrap64_add (a b : Word) : wrap64 (a.toInt + b.toInt) = a + b := by
  rw [wrap64, BitVec.ofInt_add, BitVec.ofInt_toInt, BitVec.ofInt_toInt]

theorem wrap64_sub (a b : Word) : wrap64 (a.toInt - b.toInt) = a - b := by
  rw [wrap64, Int.sub_eq_add_neg, BitVec.ofInt_add, BitVec.ofInt_neg, BitVec.ofInt_toInt, BitVec.ofInt_toInt, BitVec.sub_eq_add_neg]

theorem wrap64_mul (a b : Word) : wrap64 (a.toInt * b.toInt) = a * b := by
  rw [wrap64, BitVec.ofInt_mul, BitVec.ofInt_toInt, BitVec.ofInt_toInt]

/-- Bits [127:64] of a number of 128 bits. -/
theorem extractHigh_ofInt (z : Int) : (BitVec.ofInt 128 z).extractLsb' 64 64 = BitVec.ofInt 64 (z / 2 ^ 64) := by
  apply BitVec.eq_of_toNat_eq
  rw [BitVec.extractLsb'_toNat, BitVec.toNat_ofInt, BitVec.toNat_ofInt, Nat.shiftRight_eq_div_pow]
  omega

theorem wrap64_mulHigh (a b : Word) : wrap64 (a.toInt * b.toInt / 2 ^ 64) = (a.signExtend 128 * b.signExtend 128).extractLsb' 64 64 := by
  have hext (v : Word) : v.signExtend 128 = BitVec.ofInt 128 v.toInt := rfl
  rw [hext, hext, ← BitVec.ofInt_mul, extractHigh_ofInt, wrap64]

theorem mulHigh_unsigned (a b : Word) :
    BitVec.ofNat 64 (a.toNat * b.toNat / 2 ^ 64) = (a.setWidth 128 * b.setWidth 128).extractLsb' 64 64 := by
  have hlt : a.toNat * b.toNat < 2 ^ 64 * 2 ^ 64 := Nat.mul_lt_mul'' a.isLt b.isLt
  apply BitVec.eq_of_toNat_eq
  rw [BitVec.extractLsb'_toNat, BitVec.toNat_ofNat, BitVec.toNat_mul, BitVec.toNat_setWidth_of_le (by decide),
    BitVec.toNat_setWidth_of_le (by decide), Nat.shiftRight_eq_div_pow, Nat.mod_eq_of_lt (a := a.toNat * b.toNat) (by omega)]

/-- Int of the low n bits (00 R14). -/
theorem sval_eq_toInt (n v : Nat) (hn : 0 < n) : sval n v = (BitVec.ofNat n v).toInt := by
  obtain ⟨k, rfl⟩ : ∃ k, n = k + 1 := ⟨n - 1, by omega⟩
  have hpow : (2 : Nat) ^ (k + 1) = 2 * 2 ^ k := by rw [Nat.pow_succ, Nat.mul_comm]
  have hlow : v % 2 ^ (k + 1) < 2 ^ k ↔ 2 * (v % 2 ^ (k + 1)) < 2 ^ (k + 1) := by omega
  rw [sval, BitVec.toInt_eq_toNat_cond, BitVec.toNat_ofNat, Nat.add_sub_cancel]
  simp only [hlow]
  push_cast
  rfl

theorem sext64_eq_signExtend (n v : Nat) (hn : 0 < n) : sext64 n v = (BitVec.ofNat n v).signExtend 64 := by
  rw [sext64, sval_eq_toInt n v hn]; rfl

theorem sval_lo32 (v : Word) : sval 32 v.toNat = (v.setWidth 32).toInt := sval_eq_toInt 32 v.toNat (by decide)

theorem satI_eq (w : Nat) (v : Int) : satI w v = max (-2 ^ (w - 1)) (min (2 ^ (w - 1) - 1) v) := by
  have hpos : (0 : Int) < 2 ^ (w - 1) := by positivity
  simp only [satI]
  split
  · omega
  · split <;> omega

/-! ## Shift amounts (04 R103) -/

theorem bits_amount (b : Word) : bits b 5 0 = (b &&& 63).toNat := by
  rw [BitVec.toNat_and, show (63 : Word).toNat = 2 ^ 6 - 1 from rfl, Nat.and_two_pow_sub_one_eq_mod]
  simp [bits]

/-! ## Counts of bits (04 R103) -/

theorem bit_eq_getLsbD (v : Word) (i : Nat) : bit v i = v.getLsbD i := rfl

theorem clz64_zero : clz64 0 = 64 := by decide

/-- The highest one bit of a word stands below the zero bits that clz counts. -/
theorem clz64_bounds {a : Word} (h : a ≠ 0) : clz64 a < 64 ∧ 2 ^ (63 - clz64 a) ≤ a.toNat ∧ a.toNat < 2 ^ (64 - clz64 a) := by
  have hne : a.toNat ≠ 0 := fun h0 => h (BitVec.eq_of_toNat_eq h0)
  have hlow := Nat.log2_self_le hne
  have hhigh := Nat.lt_log2_self (n := a.toNat)
  have hlog : a.toNat.log2 < 64 := (Nat.log2_lt hne).2 a.isLt
  have hclz : clz64 a = 63 - a.toNat.log2 := by simp only [clz64, bitLen, hne, if_false]; omega
  rw [hclz, show 63 - (63 - a.toNat.log2) = a.toNat.log2 by omega, show 64 - (63 - a.toNat.log2) = a.toNat.log2 + 1 by omega]
  exact ⟨by omega, hlow, hhigh⟩

theorem ctz64_zero : ctz64 0 = 64 := by decide

/-- The bit that ctz counts up to is the lowest one bit. -/
theorem ctz64_lowest {a : Word} (h : a ≠ 0) : a.getLsbD (ctz64 a) = true ∧ ∀ i, i < ctz64 a → a.getLsbD i = false := by
  cases hf : (List.range 64).find? (fun i => bit a i) with
  | none =>
    refine absurd (BitVec.eq_of_getLsbD_eq fun i hi => ?_) h
    have hzero := List.find?_eq_none.1 hf i (List.mem_range.2 hi)
    rw [bit_eq_getLsbD] at hzero
    simpa using hzero
  | some n =>
    obtain ⟨hone, -, hbelow⟩ := List.find?_range_eq_some.1 hf
    rw [ctz64, hf, Option.getD_some]
    exact ⟨hone, fun i hi => by simpa [bit_eq_getLsbD] using hbelow i hi⟩

theorem popc64_eq_card (a : Word) : popc64 a = (Finset.univ.filter (fun i : Fin 64 => a.getLsbD i = true)).card := by
  have hmap : (Finset.univ.filter (fun i : Fin 64 => a.getLsbD i = true)).map Fin.valEmbedding =
      (Finset.range 64).filter (fun i => a.getLsbD i = true) := by
    ext i
    simp [Fin.exists_iff]
    tauto
  rw [← Finset.card_map Fin.valEmbedding, hmap, Finset.card_def, Finset.filter_val, Finset.range_val, ← Multiset.coe_range,
    Multiset.filter_coe, Multiset.coe_card]
  simp [popc64, bit_eq_getLsbD]

/-! ## Division (04 R104) -/

/-- A quotient rounded towards minus infinity is negative where the signs differ. -/
theorem fdiv_neg_iff {n m : Int} (hn : n ≠ 0) (hm : m ≠ 0) : n.fdiv m < 0 ↔ (n < 0 ↔ 0 < m) := by
  rcases lt_or_gt_of_ne hm with h | h <;> rcases lt_or_gt_of_ne hn with h' | h'
  · have := Int.fdiv_nonneg_of_nonpos_of_nonpos h'.le h.le
    omega
  · have := Int.fdiv_neg_of_neg_of_pos (neg_neg_of_pos h') (neg_pos_of_neg h)
    rw [Int.neg_fdiv_neg] at this
    omega
  · have := Int.fdiv_neg_of_neg_of_pos h' h
    omega
  · have := Int.fdiv_nonneg h'.le h.le
    omega
/-- TruncQ of the listing is division that rounds towards zero. -/
theorem truncQ_eq_tdiv {n m : Int} (hm : m ≠ 0) : truncQ n m = n.tdiv m := by
  have hdiv : n.fdiv m * m = n ↔ m ∣ n := ⟨fun h => ⟨n.fdiv m, by rw [Int.mul_comm]; exact h.symm⟩, Int.fdiv_mul_cancel⟩
  rw [Int.tdiv_eq_fdiv]
  simp only [truncQ, ne_eq, hdiv]
  by_cases hd : m ∣ n
  · simp [hd]
  · have hn : n ≠ 0 := fun h => hd (h ▸ dvd_zero m)
    simp only [hd, not_false_eq_true, and_true, if_false, fdiv_neg_iff hn hm]
    rcases lt_or_gt_of_ne hm with h | h
    · rw [Int.sign_eq_neg_one_of_neg h]
      grind
    · rw [Int.sign_eq_one_of_pos h]
      grind

end Sys2Proof.Machine
end

section
/-! PROOFS. O8 to O12: the ends of hardware loops, and the integer, constant and predicate instructions (04 R103 to R113, R120). -/

namespace Sys2Proof.Machine

/-! ## Completion (04 R120) -/

theorem pcOf_word (v : BitVec 54) : pcOf (v.toNat * 4) = BitVec.ofNat 64 (v.toNat * 4) := by
  have := v.isLt
  rw [pcOf]
  congr 1
  omega

/-- Does the instruction whose last word is at `last` end an active level? -/
abbrev HwLoop.endsAt (l : HwLoop) (last : Nat) : Prop := l.body ≠ 0 ∧ last = l.last

section
variable {t : Thread} {len : Nat}

/-- An active level 1 that ends here and is not done starts again. -/
theorem Thread.step_restart1 (h : t.loop1.endsAt (t.pc.toNat + len - 4)) (hc : t.loop1.count ≠ 0) : t.step len =
    { t with wait := .none, loop1 := { t.loop1 with count := t.loop1.count - 1 }, pc := pcOf t.loop1.start4 } :=
  if_pos ⟨h.1, h.2, hc⟩

/-- Level 1 once it is past the check of an instruction that does not start it again: one that ends here is inactive. -/
def Thread.past1 (t : Thread) (last : Nat) : HwLoop :=
  if t.loop1.endsAt last then { t.loop1 with body := 0 } else t.loop1

theorem Thread.past1_ends {last : Nat} (h : t.loop1.endsAt last) : t.past1 last = { t.loop1 with body := 0 } := if_pos h

theorem Thread.past1_not {last : Nat} (h : ¬ t.loop1.endsAt last) : t.past1 last = t.loop1 := if_neg h

/-- Where level 1 does not start again, level 0 is checked. -/
theorem Thread.step_level0 (h : ¬ (t.loop1.endsAt (t.pc.toNat + len - 4) ∧ t.loop1.count ≠ 0)) : t.step len =
    if t.loop0.endsAt (t.pc.toNat + len - 4) then
      if t.loop0.count ≠ 0 then
        { t with wait := .none, loop1 := t.past1 (t.pc.toNat + len - 4),
                 loop0 := { t.loop0 with count := t.loop0.count - 1 }, pc := pcOf t.loop0.start4 }
      else { t with wait := .none, loop1 := t.past1 (t.pc.toNat + len - 4), loop0 := { t.loop0 with body := 0 }, pc := pcOf (t.pc.toNat + len) }
    else { t with wait := .none, loop1 := t.past1 (t.pc.toNat + len - 4), pc := pcOf (t.pc.toNat + len) } := by
  rw [and_assoc] at h
  simp only [Thread.step, Thread.past1, if_neg h]
  split <;> rfl

theorem Thread.step_loop1_of_not (h : ¬ (t.loop1.endsAt (t.pc.toNat + len - 4) ∧ t.loop1.count ≠ 0)) :
    (t.step len).loop1 = t.past1 (t.pc.toNat + len - 4) := by
  rw [Thread.step_level0 h]
  split
  · split <;> rfl
  · rfl

end

/-- Settles O8: level 1 by `step_restart1` where it starts again, else level 0 by `step_level0`. -/
theorem completionChecksLoopEnds : Obligations.CompletionChecksLoopEnds := by
  unfold Obligations.CompletionChecksLoopEnds
  rintro t len _ rfl
  refine ⟨fun h hc => ?_, fun h hc => ?_, fun h => ?_, fun h h0 hc => ?_, fun h h0 hc => ?_, fun h h0 => ?_, fun r => ?_, fun r => ?_, ?_⟩
  · rw [Thread.step_restart1 h hc]
    exact ⟨rfl, rfl, rfl, pcOf_word _⟩
  · rw [Thread.step_loop1_of_not (fun hn => hn.2 hc), Thread.past1_ends h]
  · rw [Thread.step_loop1_of_not (fun hn => h hn.1), Thread.past1_not h]
  · rw [Thread.step_level0 h, if_pos (c := t.loop0.endsAt _) h0, if_pos hc]
    exact ⟨rfl, rfl, pcOf_word _⟩
  · rw [Thread.step_level0 h, if_pos (c := t.loop0.endsAt _) h0, if_neg (not_not_intro hc)]
    exact ⟨rfl, rfl⟩
  · rw [Thread.step_level0 h, if_neg (c := t.loop0.endsAt _) h0]
    exact ⟨rfl, rfl⟩
  · simp
  · simp
  · simp

/-! ## Integer instructions (04 R103) -/

section
variable {s : State} {rd ra rb g imm : Nat}

theorem aluR_ready {f : Word → Word → Word} {v : Word} (h : Ready s g [ra, rb]) (hv : f (rx s ra) (rx s rb) = v) :
    aluR rd ra rb g f s = .next (retX rd v s) := by
  rw [aluR, issue_ready h, hv]

theorem aluI_ready {f : Word → Word} {v : Word} (h : Ready s g [ra]) (hv : f (rx s ra) = v) :
    aluI rd ra g f s = .next (retX rd v s) := by
  rw [aluI, issue_ready h, hv]

theorem cmpR_ready {c : Cond} {b : Bool} (h : Ready s g [ra, rb]) (hb : c.holds (rx s ra) (rx s rb) = b) :
    cmpR c rd ra rb g s = .next (retK rd b s) := by
  rw [cmpR, issue_ready h, hb]

theorem cmpI_ready {c : Cond} {b : Bool} (h : Ready s g [ra]) (hb : c.holds (rx s ra) (imm12 imm) = b) :
    cmpI c rd ra g imm s = .next (retK rd b s) := by
  rw [cmpI, issue_ready h, hb]

theorem predR_ready {f : Bool → Bool → Bool} (h : Ready s g [32 + ra, 32 + rb]) :
    predR f rd ra rb g s = .next (retK rd (f (rk s ra) (rk s rb)) s) := issue_ready h _

end

theorem shiftLeft_amount (a b : Word) : a <<< bits b 5 0 = a <<< (b &&& 63) := by rw [bits_amount, BitVec.shiftLeft_eq']

theorem ushiftRight_amount (a b : Word) : a >>> bits b 5 0 = a >>> (b &&& 63) := by rw [bits_amount, BitVec.ushiftRight_eq']

theorem sshiftRight_amount (a b : Word) : a.sshiftRight (bits b 5 0) = a.sshiftRight' (b &&& 63) := by
  rw [bits_amount, BitVec.sshiftRight_eq']

theorem minI_eq (a b : Word) : (if b.toInt < a.toInt then b else a) = if a.slt b then a else b := by
  simp only [BitVec.slt_iff_toInt_lt]
  split <;> split
  · omega
  · rfl
  · rfl
  · exact BitVec.toInt_inj.1 (by omega)

theorem maxI_eq (a b : Word) : (if a.toInt < b.toInt then b else a) = if a.slt b then b else a := by
  simp only [BitVec.slt_iff_toInt_lt]

theorem maxN_eq (a b : Word) : (if a.toNat < b.toNat then b else a) = if a < b then b else a := rfl

theorem minN_eq (a b : Word) : (if b.toNat < a.toNat then b else a) = if a < b then a else b := by
  simp only [BitVec.lt_def]
  split <;> split
  · omega
  · rfl
  · rfl
  · exact BitVec.eq_of_toNat_eq (by omega)

/-- Settles O9: each instruction by `aluR_ready` or `aluI_ready`, with the value of its operation. -/
theorem integerInstructions : Obligations.IntegerInstructions := by
  unfold Obligations.IntegerInstructions
  rintro s rd ra rb g _ _ rfl rfl
  refine ⟨fun h => ?_, fun h => ⟨⟨clz64 (rx s ra), ?_, fun h0 => ?_, clz64_bounds⟩, ⟨ctz64 (rx s ra), ?_, fun h0 => ?_, ctz64_lowest⟩, ?_⟩⟩
  · exact ⟨(aluR_ready h (wrap64_add _ _) : execAdd rd ra rb g s = _), (aluR_ready h (wrap64_sub _ _) : execSub rd ra rb g s = _),
      (aluR_ready h rfl : execAnd rd ra rb g s = _), (aluR_ready h rfl : execOr rd ra rb g s = _),
      (aluR_ready h rfl : execXor rd ra rb g s = _), (aluR_ready h rfl : execAndn rd ra rb g s = _),
      (aluR_ready h (shiftLeft_amount _ _) : execSll rd ra rb g s = _),
      (aluR_ready h (ushiftRight_amount _ _) : execSrl rd ra rb g s = _),
      (aluR_ready h (sshiftRight_amount _ _) : execSra rd ra rb g s = _), (aluR_ready h (wrap64_mul _ _) : execMul rd ra rb g s = _),
      (aluR_ready h (wrap64_mulHigh _ _) : execMulhI64 rd ra rb g s = _),
      (aluR_ready h (mulHigh_unsigned _ _) : execMulhN64 rd ra rb g s = _), (aluR_ready h (minI_eq _ _) : execMinI64 rd ra rb g s = _),
      (aluR_ready h (maxI_eq _ _) : execMaxI64 rd ra rb g s = _), (aluR_ready h (minN_eq _ _) : execMinN64 rd ra rb g s = _),
      (aluR_ready h (maxN_eq _ _) : execMaxN64 rd ra rb g s = _),
      (aluR_ready h (by rw [sval_lo32, sval_lo32, satI_eq]; rfl) : execAddsI32 rd ra rb g s = _),
      (aluR_ready h (by rw [sval_lo32, sval_lo32, satI_eq]; rfl) : execSubsI32 rd ra rb g s = _),
      (aluR_ready h (by rw [satI_eq]; rfl) : execAddsI64 rd ra rb g s = _),
      (aluR_ready h (by rw [satI_eq]; rfl) : execSubsI64 rd ra rb g s = _)⟩
  · exact (aluI_ready h rfl : execClz rd ra g s = _)
  · rw [h0, clz64_zero]
  · exact (aluI_ready h rfl : execCtz rd ra g s = _)
  · rw [h0, ctz64_zero]
  · rw [← popc64_eq_card]
    exact (aluI_ready h rfl : execPopc rd ra g s = _)

/-! ## Division (04 R104) -/

theorem divS_quotient (a b : Word) : (divS a b).1 =
    if b.toInt = 0 then -1 else if a.toInt = -2 ^ 63 ∧ b.toInt = -1 then -2 ^ 63 else truncQ a.toInt b.toInt := by
  by_cases hb : b.toInt = 0
  · simp [divS, hb]
  · simp [divS, hb, truncQ_eq_tdiv hb, apply_ite Prod.fst]

theorem divS_remainder (a b : Word) : (divS a b).2 = if b.toInt = 0 then a.toInt
    else if a.toInt = -2 ^ 63 ∧ b.toInt = -1 then 0 else a.toInt - truncQ a.toInt b.toInt * b.toInt := by
  by_cases hb : b.toInt = 0
  · simp [divS, hb]
  · simp [divS, hb, truncQ_eq_tdiv hb, apply_ite Prod.snd]

theorem divU_quotient (a b : Word) : (divU a b).1 = if b.toNat = 0 then 2 ^ 64 - 1 else a.toNat / b.toNat := by
  rw [divU]
  split <;> rfl

theorem divU_remainder (a b : Word) : (divU a b).2 = if b.toNat = 0 then a.toNat else a.toNat - a.toNat / b.toNat * b.toNat := by
  rw [divU, ← Nat.mod_eq_sub_div_mul]
  split <;> rfl

/-- The remainder of division that rounds towards zero has the sign of the dividend. -/
theorem truncQ_remainder {n m : Int} (hm : m ≠ 0) : (0 ≤ n → 0 ≤ n - truncQ n m * m) ∧ (n ≤ 0 → n - truncQ n m * m ≤ 0) := by
  have hmod : n - truncQ n m * m = n.tmod m := by rw [truncQ_eq_tdiv hm, Int.tmod_def, Int.mul_comm]
  rw [hmod]
  refine ⟨Int.tmod_nonneg m, fun hn => ?_⟩
  have hneg := Int.tmod_nonneg m (Int.neg_nonneg_of_nonpos hn)
  rw [Int.neg_tmod] at hneg
  omega

/-- Settles O10: the quotient and the remainder of each division as the listing has them. -/
theorem divisionRoundsTowardsZero : Obligations.DivisionRoundsTowardsZero := by
  unfold Obligations.DivisionRoundsTowardsZero
  rintro s rd ra rb g _ _ _ _ h rfl rfl rfl rfl
  have hq : execDivI64 rd ra rb g s = _ := aluR_ready h (by rw [divS_quotient, wrap64])
  have hr : execRemI64 rd ra rb g s = _ := aluR_ready h (by rw [divS_remainder, wrap64])
  exact ⟨hq, hr, (aluR_ready h (by rw [divU_quotient]) : execDivN64 rd ra rb g s = _),
    (aluR_ready h (by rw [divU_remainder]) : execRemN64 rd ra rb g s = _), truncQ_remainder,
    fun hn hm => ⟨hq.trans (by rw [hn, hm]; rfl), hr.trans (by rw [hn, hm]; rfl)⟩⟩

/-! ## Immediates and constants (04 R105 to R108) -/

theorem imm12_eq (imm : Nat) : imm12 imm = (BitVec.ofNat 12 imm).signExtend 64 := sext64_eq_signExtend _ _ (by decide)

theorem imm20_eq (imm : Nat) : imm20 imm = ((BitVec.ofNat 20 imm) ++ (0 : BitVec 12)).signExtend 64 := by
  rw [imm20, sext64_eq_signExtend _ _ (by decide)]
  congr 1
  apply BitVec.eq_of_toNat_eq
  simp only [BitVec.toNat_append, BitVec.toNat_ofNat, Nat.shiftLeft_eq, show (0 : BitVec 12).toNat = 0 from rfl, Nat.or_zero]
  omega

theorem sx32_eq (v : Nat) : sx32 v = (BitVec.ofNat 32 v).signExtend 64 := sext64_eq_signExtend _ _ (by decide)

/-- The two halves that `lih` puts together. -/
theorem lih_halves (ext : Nat) (v : Word) : BitVec.ofNat 64 (ext % 2 ^ 32 * 2 ^ 32 + bits v 31 0) =
    (BitVec.ofNat 32 ext) ++ v.setWidth 32 := by
  apply BitVec.eq_of_toNat_eq
  rw [BitVec.toNat_append, ← Nat.shiftLeft_add_eq_or_of_lt (BitVec.isLt _), Nat.shiftLeft_eq]
  simp only [bits, BitVec.toNat_ofNat, BitVec.toNat_setWidth]
  omega

theorem Clean.nil (s : State) : Clean s [] := fun _ hr => absurd hr (List.not_mem_nil)

/-- Settles O11: each instruction by its operands as bit vectors. -/
theorem immediateAndConstantInstructions : Obligations.ImmediateAndConstantInstructions := by
  unfold Obligations.ImmediateAndConstantInstructions
  rintro s rd ra g imm n ext _ _ _ rfl rfl rfl
  rw [← imm12_eq, ← imm20_eq, ← sx32_eq, ← lih_halves]
  refine ⟨fun h => ?_, issueB_clean (Clean.nil s) _, issueB_clean (Clean.nil s) _, fun h => ?_, fun h => ?_⟩
  · exact ⟨(aluI_ready h (wrap64_add _ _) : execAddi rd ra g imm s = _), (aluI_ready h rfl : execAndi rd ra g imm s = _),
      (aluI_ready h rfl : execOri rd ra g imm s = _), (aluI_ready h rfl : execXori rd ra g imm s = _),
      (aluI_ready h rfl : execSlli rd ra g n s = _), (aluI_ready h rfl : execSrli rd ra g n s = _),
      (aluI_ready h rfl : execSrai rd ra g n s = _)⟩
  · exact (issue_ready h _ : execLi rd g ext s = _)
  · exact (issue_ready h _ : execLih rd g ext s = _)

/-! ## Comparisons and predicates (04 R110 to R113) -/

theorem holds_ne (a b : Word) : Cond.ne.holds a b = decide (a ≠ b) := by
  rw [Cond.holds, decide_not]; rfl

/-- Settles O12: a comparison by the condition's own meaning over words, a predicate operation by its row. -/
theorem comparisonsAndPredicateLogic : Obligations.ComparisonsAndPredicateLogic := by
  unfold Obligations.ComparisonsAndPredicateLogic
  rintro s rd ra rb g imm _ _ _ rfl rfl rfl
  rw [← imm12_eq]
  refine ⟨fun h => ?_, fun h => ?_, fun h => ?_, fun h => ⟨issue_ready h _, issue_ready h _, issue_ready h _⟩, fun h => issueB_clean h _⟩
  · exact ⟨(cmpR_ready h rfl : execCmpEq rd ra rb g s = _), (cmpR_ready h (holds_ne _ _) : execCmpNe rd ra rb g s = _),
      (cmpR_ready h rfl : execCmpLtI64 rd ra rb g s = _), (cmpR_ready h rfl : execCmpGeI64 rd ra rb g s = _),
      (cmpR_ready h rfl : execCmpLtN64 rd ra rb g s = _), (cmpR_ready h rfl : execCmpGeN64 rd ra rb g s = _)⟩
  · exact ⟨(cmpI_ready h rfl : execCmpiEq rd ra g imm s = _), (cmpI_ready h rfl : execCmpiLtI64 rd ra g imm s = _),
      (cmpI_ready h rfl : execCmpiLtN64 rd ra g imm s = _)⟩
  · exact ⟨(predR_ready h : execKand rd ra rb g s = _), (predR_ready h : execKor rd ra rb g s = _),
      (predR_ready h : execKxor rd ra rb g s = _), (predR_ready h : execKandn rd ra rb g s = _)⟩

end Sys2Proof.Machine
end

section
/-! PROOFS. O13, O14 and O16: branches, calls, hardware loops, trap entry and the returns from it (04 R114 to R119, R124 to R129). -/

namespace Sys2Proof.Machine

/-! ## Branches (04 R114, R115, R118) -/

theorem relTarget_eq (s : State) (n ofs : Nat) (hn : 0 < n) :
    relTarget s n ofs = (((th s).pc.toNat + 4 * (BitVec.ofNat n ofs).toInt) % 2 ^ 56).toNat := by
  rw [relTarget, sext64, sval_eq_toInt n ofs hn, BitVec.toNat_add, BitVec.toNat_mul, BitVec.toNat_ofInt,
    show (4 : Word).toNat = 4 from rfl]
  omega

theorem branchR_clean {c : Cond} {s : State} {ra rb ofs : Nat} {p : Prop} [Decidable p] (h : Clean s [ra, rb])
    (hp : c.holds (rx s ra) (rx s rb) = true ↔ p) :
    branchR c ra rb ofs s = .next (if p then jump (relTarget s 15 ofs) s else advance 4 s) := by
  rw [branchR, issueB_clean h, branch]
  simp only [hp]

/-- An aligned target below 2^56 is the program counter after the jump. -/
theorem jump_pc {n : Nat} {s : State} (h4 : n % 4 = 0) (hlt : n < 2 ^ 56) : (th (jump n s)).pc = BitVec.ofNat 64 n := by
  rw [th_jump]
  change pcOf n = _
  rw [pcOf]
  congr 1
  omega

/-- Settles O13: each branch by its condition, through `branchR_clean`. -/
theorem branchesCompareAndJump : Obligations.BranchesCompareAndJump := by
  unfold Obligations.BranchesCompareAndJump
  rintro s ra rb ofs _ _ _ rfl rfl rfl
  rw [← relTarget_eq s 15 ofs (by decide)]
  refine ⟨fun h => ?_, fun h => ⟨issueB_clean h _, ?_⟩, fun h4 => jump_pc ?_ ?_, ?_, ?_⟩
  · exact ⟨(branchR_clean h beq_iff_eq : execBeq ra rb ofs s = _), (branchR_clean h bne_iff_ne : execBne ra rb ofs s = _),
      (branchR_clean h Iff.rfl : execBltI64 ra rb ofs s = _), (branchR_clean h Iff.rfl : execBgeI64 ra rb ofs s = _),
      (branchR_clean h Iff.rfl : execBltN64 ra rb ofs s = _), (branchR_clean h Iff.rfl : execBgeN64 ra rb ofs s = _)⟩
  · refine (issueB_clean h _ : execBnk ra ofs s = _).trans ?_
    rw [branch]
    cases rk s ra <;> rfl
  · rw [relTarget_eq s 15 ofs (by decide)]
    omega
  · exact Nat.mod_lt _ (by decide)
  · rw [th_jump]
  · rw [th_jump]

/-! ## Calls (04 R116 to R118) -/

theorem callr_misaligned (t : Word) : (bits t 1 0 ≠ 0 ∨ bits t 63 56 ≠ 0) ↔ (t.toNat % 4 ≠ 0 ∨ 2 ^ 56 ≤ t.toNat) := by
  have := t.isLt
  simp only [bits]
  omega

/-! ## Hardware loops (04 R119) -/

/-- Does `loop` find its level or the other one in the way (04 R119)? -/
def loopNests (t : Thread) (n len : Nat) : Prop :=
  (t.loopAt n).body ≠ 0 ∨ (n = 0 ∧ t.loop1.body ≠ 0) ∨
    (n = 1 ∧ t.loop0.body ≠ 0 ∧ t.pc.toNat + 4 + 4 * len > t.loop0.start4 + 4 * t.loop0.body.toNat)

section
variable {t : Thread} {n len : Nat} {c : Word}

theorem loopCause_nests (h : loopNests t n len) : loopCause t n len c = some 0x005 := by
  rw [loopCause]
  by_cases hl : (t.loopAt n).body ≠ 0
  · rw [if_pos hl]
  · rw [if_neg hl]
    rcases h with h | h | h
    · exact absurd h hl
    · rw [if_pos h, ite_self]
    · rw [if_pos h]

theorem loopCause_opens (h : ¬ loopNests t n len) : loopCause t n len c = if c.toNat > 2 ^ 32 then some 0x006 else none := by
  simp only [loopNests, not_or] at h
  obtain ⟨hl, h0, h1⟩ := h
  rw [loopCause, if_neg hl, if_neg h1, if_neg h0]

end

section
variable {s : State} {lv ra g len : Nat}

theorem loop_traps {x : BitVec 10} (h : Ready s g [ra]) (hx : loopCause (th s) lv len (rx s ra) = some x) :
    exec (.loop lv ra g len) s = .next (trap x (rx s ra) s) := by
  change execLoop lv ra g len s = _
  simp only [execLoop, issue_ready h, hx]

theorem loop_skips (h : Ready s g [ra]) (hx : loopCause (th s) lv len (rx s ra) = none) (h0 : rx s ra = 0) :
    exec (.loop lv ra g len) s = .next (jump (((th s).pc.toNat + 4 + 4 * len) % 2 ^ 56) s) := by
  change execLoop lv ra g len s = _
  simp only [execLoop, issue_ready h, hx, if_pos h0]

theorem loop_opens (h : Ready s g [ra]) (hx : loopCause (th s) lv len (rx s ra) = none) (h0 : rx s ra ≠ 0) :
    exec (.loop lv ra g len) s = .next (updMe (advance 4 s) (fun t => t.setLoop lv
      ⟨BitVec.ofNat 32 ((rx s ra).toNat - 1), BitVec.ofNat 16 len, BitVec.ofNat 54 (((th s).pc.toNat + 4) % 2 ^ 56 / 4)⟩)) := by
  change execLoop lv ra g len s = _
  simp only [execLoop, issue_ready h, hx, if_neg h0]

end

theorem Thread.setLoop_pc (t : Thread) (n : Nat) (l : HwLoop) : (t.setLoop n l).pc = t.pc := by
  rw [Thread.setLoop]; split <;> rfl

theorem Thread.getX_setLoop (t : Thread) (n r : Nat) (l : HwLoop) : (t.setLoop n l).getX r = t.getX r := by
  rw [Thread.setLoop]; split <;> rfl

theorem Thread.loopAt_setLoop (t : Thread) (n : Nat) (l : HwLoop) : (t.setLoop n l).loopAt n = l := by
  by_cases h : n = 0 <;> simp [Thread.setLoop, Thread.loopAt, h]

/-- Settles O14: the calls by their targets, `loop` by the cause that R119 gives it or none. -/
theorem callsAndHardwareLoops : Obligations.CallsAndHardwareLoops := by
  unfold Obligations.CallsAndHardwareLoops
  refine ⟨fun s rd ofs => ?_, ?_, ?_⟩
  · rw [← relTarget_eq s 20 ofs (by decide)]
    exact (issueB_clean (Clean.nil s) _ : execCall rd ofs s = _)
  · rintro s rd ra g imm _ h rfl
    refine (issue_ready h _ : execCallr rd ra g imm s = _).trans ?_
    simp only [wrap64_add, imm12_eq, callr_misaligned]
    rfl
  · rintro s lv ra g len _ nest h hlv rfl hnest
    change nest ↔ loopNests (th s) lv len at hnest
    have hopen (hn : ¬ nest) (hc : (rx s ra).toNat ≤ 2 ^ 32) : loopCause (th s) lv len (rx s ra) = none := by
      rw [loopCause_opens (fun hl => hn (hnest.2 hl)), if_neg (by omega)]
    refine ⟨fun hn => ?_, fun hn hc => ?_, fun hn hc => ?_, fun hn hpos hc => ?_⟩
    · exact loop_traps h (loopCause_nests (hnest.1 hn))
    · exact loop_traps h (by rw [loopCause_opens (fun hl => hn (hnest.2 hl)), if_pos hc])
    · exact loop_skips h (hopen hn (by omega)) (BitVec.eq_of_toNat_eq hc)
    · refine ⟨_, loop_opens h (hopen hn hc) (fun h0 => by simp [h0] at hpos), ?_, fun r => ?_, ?_⟩
      · rw [th_updMe, Thread.setLoop_pc]
      · rw [rx, th_updMe, Thread.getX_setLoop, th_advance, Thread.getX_step, rx]
      · rw [th_updMe]
        exact Thread.loopAt_setLoop _ _ _

/-! ## Trap entry (04 R124) -/

theorem me_enterTrap (s : State) (async : Bool) (code : BitVec 10) (tval iter : Word) : me (enterTrap s.cur async code tval iter s) =
    { me s with t := (th s).trap async code tval iter (th s).pc (me s).vector } :=
  core_updCore_same s s.cur _

theorem enterTrap_entered (s : State) (code : BitVec 10) (v : Word) : TrapEntered code v s (enterTrap s.cur false code v 0 s) := by
  have hth : th (enterTrap s.cur false code v 0 s) = (th s).trap false code v 0 (th s).pc (me s).vector := by rw [th, me_enterTrap]
  exact {
    sstatus := by rw [hth]; rfl
    status := by rw [hth]; rfl
    cause := by rw [hth]; rfl
    epc := by rw [hth]; rfl
    tval := by rw [hth]; rfl
    iter := by rw [hth]; rfl
    pc := by rw [hth]; rfl
    x := fun r => by rw [rx, hth]; rfl
    k := fun r => by rw [rk, hth]; rfl
    loops := by rw [hth]; exact ⟨rfl, rfl⟩
    tvec := by rw [me_enterTrap]
    cores := fun c hc => core_updCore_other s s.cur c _ hc
    mem := ⟨rfl, rfl, rfl⟩ }

/-! ## tack, eret and idle (04 R127 to R129) -/

/-- Where an instruction completes depends on the program counter and the hardware loops alone. -/
theorem Thread.step_pc_congr {t u : Thread} (hpc : t.pc = u.pc) (h0 : t.loop0 = u.loop0) (h1 : t.loop1 = u.loop1) (n : Nat) :
    (t.step n).pc = (u.step n).pc := by
  simp only [Thread.step, hpc, h0, h1]
  split_ifs <;> rfl

/-- Settles O16: trap entry by `enterTrap_entered`, the rest by the effect behind the guard. -/
theorem trapEntryAndSystemReturn : Obligations.TrapEntryAndSystemReturn := by
  unfold Obligations.TrapEntryAndSystemReturn
  refine ⟨fun s code v h => ?_, fun s g n h => ?_, fun s => ?_, fun s g h hs => ?_, fun s g h hs => ?_, fun s g h hs => ⟨fun hp => ?_, fun hp => ?_⟩⟩
  · rw [trap_enters code v h]
    exact enterTrap_entered s code v
  · exact (issue_ready h _ : execTrap g n s = _)
  · exact (issueB_clean (Clean.nil s) _ : execBrk s = _)
  · refine ⟨_, (issueSupv_ready hs h _ : execTack g s = _), ?_⟩
    have hth : th (advance 4 (updMe s (fun t => { t with status := { t.status with intrap := false } }))) =
        { th s with status := { (th s).status with intrap := false } }.step 4 := by rw [th_advance, th_updMe]
    refine ⟨?_, ?_, fun r => ?_, ?_, ?_, ?_⟩
    · rw [hth, Thread.step_status]
    · rw [hth, th_advance]
      apply Thread.step_pc_congr <;> rfl
    · rw [rx, hth, Thread.getX_step]; rfl
    · rw [hth, Thread.step_cause]
    · rw [hth, Thread.step_epc]
    · rw [hth, Thread.step_tval]
  · refine ⟨_, (issueSupv_ready hs h _ : execEret g s = _), ?_⟩
    simp [rx, Thread.getX, pcOf_word]
  · refine (issueSupv_ready hs h _ : execIdle g s = _).trans ?_
    rw [hp]; rfl
  · refine ⟨_, (issueSupv_ready hs h _ : execIdle g s = _), ?_⟩
    simp [hp, await, Thread.waits]

end Sys2Proof.Machine
end

section
/-! PROOFS. O20: the invalidation of instruction caches and of cached translations (04 R135, R136). -/

namespace Sys2Proof.Machine

/-! ## Cores -/

theorem core_of_cores {s t : State} (h : s.cores = t.cores) (c : Nat) : core s c = core t c := by rw [core, core, h]

theorem me_updMe (s : State) (f : Thread → Thread) : me (updMe s f) = { me s with t := f (th s) } := core_updThr_same s s.cur f

theorem th_await (w : Wait) (s : State) : th (await w s) = (th s).waits w s.fc := th_updMe s _

/-! ## icinv at its own core (04 R135) -/

/-- An instruction cache without one line, or without any. -/
def dropped (l : Option Nat) (m : SMap ILine) : SMap ILine :=
  match l with
  | none => []
  | some k => mdel m k

theorem dropLines_eq (c : Nat) (l : Option Nat) (s : State) :
    dropLines c l s = updCore s c (fun k => { k with icache := dropped l k.icache }) := by
  cases l <;> rfl

/-- `icinv` has dropped the lines of its own core and asks every other core. -/
def icinvSent (l : Option Nat) (s : State) : State :=
  { dropLines s.cur l (settle 3 s.cur s) with
    icinv := s.icinv ++ ((List.range 256).filter (· != s.cur)).map (fun d => (s.cur, d, l)) }

theorem icinv_waits {s : State} (l : Option Nat) (h : fenceWaits s s.cur = true) : icinv l s = spin false s := by
  simp [icinv, releasing, h]

theorem icinv_sends {s : State} (l : Option Nat) (h : fenceWaits s s.cur = false) : icinv l s = await .icinv (icinvSent l s) := by
  simp only [icinv, releasing, h, Bool.and_false, Bool.false_eq_true, if_false]
  rfl

theorem me_icinvSent (l : Option Nat) (s : State) : me (icinvSent l s) = { me s with icache := dropped l (me s).icache } := by
  have hcores : (icinvSent l s).cores = (dropLines s.cur l (settle 3 s.cur s)).cores := rfl
  rw [me, core_of_cores hcores, show (icinvSent l s).cur = s.cur from rfl, dropLines_eq, core_updCore_same]
  rfl

/-- Once a fence need not wait, no access of the thread is on its way but the stores posted to peers, which count as performed. -/
theorem settled_reqs {s : State} (h : fenceWaits s s.cur = false) : ∀ q ∈ (settle 3 s.cur s).reqs, q.thread ≠ (th s).id := by
  intro q hq hthread
  have hout : outstandingOf (settle 3 s.cur s) (th s).id = true := by
    rw [outstandingOf, List.any_eq_true]
    exact ⟨q, List.mem_append_left _ hq, by simp [hthread]⟩
  have hsame : fenceWaits s s.cur = outstandingOf (settle 3 s.cur s) (th s).id := rfl
  rw [hsame, hout] at h
  cases h

/-- What an `icinv` that need not wait leaves behind. -/
theorem icinv_effect {s : State} (l : Option Nat) (h : fenceWaits s s.cur = false) :
    (me (icinv l s)).icache = dropped l (me s).icache ∧ (th (icinv l s)).wait = .icinv ∧ (th (icinv l s)).pc = (th s).pc ∧
    (∀ q ∈ (icinv l s).reqs, q.thread ≠ (th s).id) ∧ ∀ d, d < 256 → d ≠ s.cur → (s.cur, d, l) ∈ (icinv l s).icinv := by
  rw [icinv_sends l h, th_await]
  refine ⟨?_, rfl, ?_, settled_reqs h, fun d hd hne => ?_⟩
  · rw [await, me_updMe, me_icinvSent]
  · rw [th, me_icinvSent]; rfl
  · exact List.mem_append_right _ (List.mem_map.2 ⟨d, by simp [hd, hne], rfl⟩)

/-! ## Acknowledgements (04 R135) -/

theorem mget?_mdel_none {α : Type} {m : SMap α} {k : Nat} (j : Nat) (h : mget? m k = none) : mget? (mdel m j) k = none := by
  by_cases hk : k = j
  · rw [hk, mget?_mdel_same]
  · rw [mget?_mdel_other _ _ _ hk, h]

theorem thr_dropLines (c : Nat) (l : Option Nat) (s : State) (r : Nat) : thr (dropLines c l s) r = thr s r := by
  rw [dropLines_eq, thr]
  by_cases h : r = c
  · rw [h, core_updCore_same]; rfl
  · rw [core_updCore_other _ _ _ _ h]; rfl

theorem icache_dropLines (c : Nat) (l : Option Nat) (s : State) : (core (dropLines c l s) c).icache = dropped l (core s c).icache := by
  rw [dropLines_eq, core_updCore_same]

/-- A core drops the lines of the entries es. -/
def dropAll (c : Nat) (es : List (Nat × Nat × Option Nat)) (s : State) : State := es.foldl (fun s e => dropLines c e.2.2 s) s

theorem dropAll_icinv (c : Nat) (es : List (Nat × Nat × Option Nat)) (s : State) : (dropAll c es s).icinv = s.icinv := by
  induction es generalizing s with
  | nil => rfl
  | cons e es ih => exact ih _

theorem thr_dropAll (c : Nat) (es : List (Nat × Nat × Option Nat)) (s : State) (r : Nat) : thr (dropAll c es s) r = thr s r := by
  induction es generalizing s with
  | nil => rfl
  | cons e es ih =>
    exact (ih _).trans (thr_dropLines c e.2.2 s r)

theorem icache_dropAll (c : Nat) (es : List (Nat × Nat × Option Nat)) (s : State) :
    (core (dropAll c es s) c).icache = es.foldl (fun m e => dropped e.2.2 m) (core s c).icache := by
  induction es generalizing s with
  | nil => rfl
  | cons e es ih =>
    refine (ih _).trans ?_
    rw [icache_dropLines]
    rfl

theorem foldl_dropped_nil (es : List (Nat × Nat × Option Nat)) : es.foldl (fun m e => dropped e.2.2 m) [] = [] := by
  induction es with
  | nil => rfl
  | cons e es ih =>
    obtain ⟨r, d, l⟩ := e
    cases l <;> exact ih

theorem foldl_dropped_all {es : List (Nat × Nat × Option Nat)} {r d : Nat} (h : (r, d, none) ∈ es) (m : SMap ILine) :
    es.foldl (fun m e => dropped e.2.2 m) m = [] := by
  induction es generalizing m with
  | nil => cases h
  | cons e es ih =>
    rcases List.mem_cons.1 h with rfl | h
    · exact foldl_dropped_nil es
    · exact ih h _

theorem foldl_dropped_keeps {k : Nat} (es : List (Nat × Nat × Option Nat)) {m : SMap ILine} (h : mget? m k = none) :
    mget? (es.foldl (fun m e => dropped e.2.2 m) m) k = none := by
  induction es generalizing m with
  | nil => exact h
  | cons e es ih =>
    obtain ⟨r, d, l⟩ := e
    cases l with
    | none => exact ih rfl
    | some j => exact ih (mget?_mdel_none j h)

theorem foldl_dropped_line {es : List (Nat × Nat × Option Nat)} {r d k : Nat} (h : (r, d, some k) ∈ es) (m : SMap ILine) :
    mget? (es.foldl (fun m e => dropped e.2.2 m) m) k = none := by
  induction es generalizing m with
  | nil => cases h
  | cons e es ih =>
    rcases List.mem_cons.1 h with rfl | h
    · exact foldl_dropped_keeps es (mget?_mdel_same m k)
    · exact ih h _

/-- The `icinv` of core r completes, if it still waits. -/
def icinvEnd (s : State) (r : Nat) : State := if (thr s r).wait = .icinv then advanceCore r 4 s else s

theorem icinvEnd_icinv (s : State) (r : Nat) : (icinvEnd s r).icinv = s.icinv := by
  rw [icinvEnd]; split <;> rfl

theorem icache_icinvEnd (s : State) (r c : Nat) : (core (icinvEnd s r) c).icache = (core s c).icache := by
  rw [icinvEnd]
  split
  · by_cases h : c = r
    · rw [h, advanceCore, core_updThr_same]
    · rw [advanceCore, core_updThr_other _ _ _ _ h]
  · rfl

theorem thr_icinvEnd_same {s : State} {r : Nat} (h : (thr s r).wait = .icinv) : thr (icinvEnd s r) r = (thr s r).step 4 := by
  rw [icinvEnd, if_pos h, advanceCore, thr_updThr_same]

theorem thr_icinvEnd_other {s : State} {r c : Nat} (h : c ≠ r) : thr (icinvEnd s r) c = thr s c := by
  rw [icinvEnd]
  split
  · rw [thr, advanceCore, core_updThr_other _ _ _ _ h]; rfl
  · rfl

theorem foldl_icinvEnd_icinv (l : List Nat) (s : State) : (l.foldl icinvEnd s).icinv = s.icinv := by
  induction l generalizing s with
  | nil => rfl
  | cons a l ih => exact (ih _).trans (icinvEnd_icinv s a)

theorem icache_foldl_icinvEnd (l : List Nat) (s : State) (c : Nat) : (core (l.foldl icinvEnd s) c).icache = (core s c).icache := by
  induction l generalizing s with
  | nil => rfl
  | cons a l ih => exact (ih _).trans (icache_icinvEnd s a c)

/-- A core that no longer waits stays where it is. -/
theorem thr_foldl_icinvEnd_rests {r : Nat} (l : List Nat) {s : State} (h : (thr s r).wait ≠ .icinv) :
    thr (l.foldl icinvEnd s) r = thr s r := by
  induction l generalizing s with
  | nil => rfl
  | cons a l ih =>
    have ha : thr (icinvEnd s a) r = thr s r := by
      by_cases hra : r = a
      · rw [← hra, icinvEnd, if_neg h]
      · exact thr_icinvEnd_other hra
    exact (ih (by rwa [ha])).trans ha

/-- However often a waiting core stands in the list, it completes once. -/
theorem thr_foldl_icinvEnd {r : Nat} {l : List Nat} (hr : r ∈ l) {s : State} (h : (thr s r).wait = .icinv) :
    thr (l.foldl icinvEnd s) r = (thr s r).step 4 := by
  induction l generalizing s with
  | nil => cases hr
  | cons a l ih =>
    by_cases hra : r = a
    · rw [← hra, List.foldl_cons]
      refine (thr_foldl_icinvEnd_rests l ?_).trans (thr_icinvEnd_same h)
      rw [thr_icinvEnd_same h, Thread.step_wait]
      decide
    · have ha := thr_icinvEnd_other (s := s) hra
      refine (ih ((List.mem_cons.1 hr).resolve_left hra) (by rwa [ha])).trans (by rw [ha])

/-- Core c has dropped the lines that it was asked to, and its acknowledgements are given. -/
def icinvAcked (c : Nat) (s : State) : State :=
  { dropAll c (s.icinv.filter (fun e => e.2.1 == c)) s with icinv := s.icinv.filter (fun e => e.2.1 != c) }

/-- The cores whose last acknowledgement is core c's. -/
def icinvDone (c : Nat) (s : State) : List Nat :=
  ((s.icinv.filter (fun e => e.2.1 == c)).map (fun e => e.1)).filter
    (fun r => !(icinvAcked c s).icinv.any (fun e => e.1 == r) && (thr (icinvAcked c s) r).wait == .icinv)

theorem icinvAcknowledge_eq {s : State} {c : Nat} (h : (thr s c).wait.midway = false) :
    exec (.icinvAcknowledge c) s = .next ((icinvDone c s).foldl icinvEnd (icinvAcked c s)) := by
  change execIcinvAcknowledge c s = _
  have hq := dropAll_icinv c (s.icinv.filter (fun e => e.2.1 == c)) s
  rw [dropAll] at hq
  simp only [execIcinvAcknowledge, h, Bool.false_eq_true, if_false, hq]
  rfl

theorem icinvAcknowledge_effect {s : State} {c : Nat} (h : (thr s c).wait.midway = false) :
    ∃ (t : State), exec (.icinvAcknowledge c) s = .next t ∧ t.icinv = s.icinv.filter (fun e => e.2.1 != c) ∧
      (∀ r, (r, c, none) ∈ s.icinv → (core t c).icache = []) ∧
      (∀ r l, (r, c, some l) ∈ s.icinv → mget? (core t c).icache l = none) ∧
      (∀ r l, (r, c, l) ∈ s.icinv → (thr s r).wait = .icinv → (∀ e ∈ t.icinv, e.1 ≠ r) →
        (thr t r).wait = .none ∧ (thr t r).pc = ((thr s r).step 4).pc) := by
  have hmine {r : Nat} {l : Option Nat} (hm : (r, c, l) ∈ s.icinv) : (r, c, l) ∈ s.icinv.filter (fun e => e.2.1 == c) :=
    List.mem_filter.2 ⟨hm, by simp⟩
  have hcache : (core ((icinvDone c s).foldl icinvEnd (icinvAcked c s)) c).icache = _ :=
    (icache_foldl_icinvEnd _ _ c).trans (icache_dropAll c (s.icinv.filter (fun e => e.2.1 == c)) s)
  have hthr (r : Nat) : thr (icinvAcked c s) r = thr s r := thr_dropAll c _ s r
  have hleft : ((icinvDone c s).foldl icinvEnd (icinvAcked c s)).icinv = (icinvAcked c s).icinv := foldl_icinvEnd_icinv _ _
  refine ⟨_, icinvAcknowledge_eq h, hleft, fun r hr => ?_, fun r l hr => ?_, fun r l hr hw hall => ?_⟩
  · rw [hcache, foldl_dropped_all (hmine hr)]
  · rw [hcache, foldl_dropped_line (hmine hr)]
  · have hr' : r ∈ icinvDone c s := by
      refine List.mem_filter.2 ⟨List.mem_map.2 ⟨_, hmine hr, rfl⟩, ?_⟩
      rw [hthr, hw]
      rw [hleft] at hall
      simpa using hall
    rw [thr_foldl_icinvEnd hr' (by rw [hthr, hw]), hthr]
    exact ⟨Thread.step_wait _ _, rfl⟩

/-! ## xinv (04 R136) -/

/-- `xinv` has dropped the translations, and the stores of the spaces that are posted to peers count as performed. -/
def xlatDropped (p : XEnt → Bool) (a : Option Nat) (s : State) : State :=
  { dropXlat p (inSpace a) s with reqs := s.reqs.filter (fun r => !(r.posted && inSpace a r.asid)) }

theorem xinv_eq (p : XEnt → Bool) (a : Option Nat) (rs : Option (List (Nat × Nat))) (s : State) : xinv p a rs s =
    if xlatPending a rs (xlatDropped p a s) then await (.xinv a rs) (xlatDropped p a s) else advance 4 (xlatDropped p a s) := rfl

theorem mem_mset {α : Type} {m : SMap α} {k : Nat} {v : α} {e : Nat × α} (h : e ∈ mset m k v) : e = (k, v) ∨ e ∈ m := by
  induction m with
  | nil => simpa [mset] using h
  | cons a m ih =>
    simp only [mset] at h
    split at h
    · rcases List.mem_cons.1 h with h | h
      · exact .inl h
      · exact .inr (List.mem_cons_of_mem _ h)
    · split at h
      · exact List.mem_cons.1 h
      · rcases List.mem_cons.1 h with h | h
        · exact .inr (h ▸ List.mem_cons_self)
        · exact (ih h).imp_right (List.mem_cons_of_mem _)

theorem mem_of_mget? {α : Type} {m : SMap α} {k : Nat} {v : α} (h : mget? m k = some v) : (k, v) ∈ m := by
  induction m with
  | nil => cases h
  | cons a m ih =>
    obtain ⟨j, w⟩ := a
    simp only [mget?] at h
    split at h
    · next hj => cases h; rw [hj]; exact List.mem_cons_self
    · exact List.mem_cons_of_mem _ (ih h)

/-- What holds of every cached translation of the cores still holds after a change of the running thread. -/
theorem tlb_updMe {s : State} {P : XEnt → Prop} (h : ∀ p ∈ s.cores, ∀ e ∈ p.2.tlb, P e) (f : Thread → Thread) :
    ∀ p ∈ (updMe s f).cores, ∀ e ∈ p.2.tlb, P e := by
  intro p hp e he
  rcases mem_mset hp with rfl | hp
  · change e ∈ (core s s.cur).tlb at he
    rw [core, mget] at he
    cases hk : mget? s.cores s.cur with
    | none => rw [hk] at he; cases he
    | some k => rw [hk] at he; exact h _ (mem_of_mget? hk) e he
  · exact h p hp e he

theorem xinv_shape (p : XEnt → Bool) (a : Option Nat) (rs : Option (List (Nat × Nat))) (s : State) :
    ∃ f, xinv p a rs s = updMe (xlatDropped p a s) f := by
  rw [xinv_eq]
  split
  · exact ⟨_, rfl⟩
  · exact ⟨_, rfl⟩

/-- Every cached translation that `xinv` names is gone, and every range table of the spaces. -/
theorem xinv_drops (p : XEnt → Bool) (a : Option Nat) (rs : Option (List (Nat × Nat))) (s : State) :
    (∀ k ∈ (xinv p a rs s).cores, ∀ e ∈ k.2.tlb, p e = false) ∧
    ∀ q ∈ (xinv p a rs s).quarters, (∀ e ∈ q.2.xlat, p e = false) ∧ ∀ e ∈ q.2.rtab, inSpace a e.1 = false := by
  obtain ⟨f, hf⟩ := xinv_shape p a rs s
  rw [hf]
  refine ⟨tlb_updMe (fun k hk e he => ?_) f, fun q hq => ?_⟩
  · obtain ⟨k0, -, rfl⟩ := List.mem_map.1 hk
    simpa using (List.mem_filter.1 he).2
  · obtain ⟨q0, -, rfl⟩ := List.mem_map.1 hq
    exact ⟨fun e he => by simpa using (List.mem_filter.1 he).2, fun e he => by simpa using (List.mem_filter.1 he).2⟩

theorem mget?_map {α β : Type} (m : SMap α) (g : α → β) (k : Nat) : mget? (m.map (fun e => (e.1, g e.2))) k = (mget? m k).map g := by
  induction m with
  | nil => rfl
  | cons a m ih =>
    simp only [List.map_cons, mget?]
    split
    · rfl
    · exact ih

/-- A core without the cached translations that p names. -/
def CoreState.dropTlb (p : XEnt → Bool) (k : CoreState) : CoreState := { k with tlb := k.tlb.filter (fun e => !p e) }

theorem thr_xlatDropped (p : XEnt → Bool) (a : Option Nat) (s : State) (c : Nat) : thr (xlatDropped p a s) c = thr s c := by
  have hmap : mget? (xlatDropped p a s).cores c = (mget? s.cores c).map (CoreState.dropTlb p) :=
    mget?_map s.cores (CoreState.dropTlb p) c
  rw [thr, thr, core, core, mget, mget, hmap]
  cases mget? s.cores c <;> rfl

theorem tagSpace_xlatDropped (p : XEnt → Bool) (a : Option Nat) (s : State) (w : TagWait) :
    tagSpace (xlatDropped p a s) w = tagSpace s w := by
  cases hw : w.who with
  | core c => simp only [tagSpace, hw, thr_xlatDropped]
  | node e k => simp only [tagSpace, hw]; rfl
  | peer n => simp only [tagSpace, hw]

section
variable {p : XEnt → Bool} {a : Option Nat} {rs : Option (List (Nat × Nat))} {s : State}

/-- The requests of the spaces are performed where all of them are posted stores. -/
theorem reqs_xlatDropped (h : ∀ q ∈ s.reqs, inSpace a q.asid = true → q.posted = true) :
    ∀ q ∈ (xlatDropped p a s).reqs, inSpace a q.asid = false := by
  intro q hq
  obtain ⟨hmem, hkeep⟩ := List.mem_filter.1 hq
  by_contra hin
  rw [Bool.not_eq_false] at hin
  simp [hin, h q hmem hin] at hkeep

/-- No access that `xinv` must wait for is left. -/
theorem xlatPending_dropped (hreq : ∀ q ∈ s.reqs, inSpace a q.asid = true → q.posted = true)
    (hmig : ∀ q ∈ s.quarters, ∀ m, q.2.mig = some m → ∀ r ∈ m.reqs, inSpace a r.asid = false)
    (htag : ∀ w ∈ s.tagq, region w.va = 0 → ∀ n, tagSpace s w = some n → (inSpace a n && inRanges rs w.va) = false)
    (hhold : ∀ d ∈ s.districts, ∀ h ∈ d.2.hold, (inSpace a d.2.asid.toNat && inRanges rs h.va) = false) :
    xlatPending a rs (xlatDropped p a s) = false := by
  simp only [xlatPending, Bool.or_eq_false_iff, List.any_eq_false, Bool.not_eq_true]
  refine ⟨⟨fun r hr => ?_, fun w hw => ?_⟩, fun d hd => ?_⟩
  · rcases List.mem_append.1 hr with hr | hr
    · exact reqs_xlatDropped hreq r hr
    · obtain ⟨q, hq, hr⟩ := List.mem_flatMap.1 hr
      obtain ⟨q0, hq0, rfl⟩ := List.mem_map.1 hq
      cases hm : q0.2.mig with
      | none => simp [hm] at hr
      | some m => simp only [hm] at hr; exact hmig q0 hq0 m hm r hr
  · rw [tagSpace_xlatDropped]
    by_cases hva : region w.va = 0
    · cases hs : tagSpace s w with
      | none => simp
      | some n => simp only [htag w hw hva n hs, Bool.and_false]
    · simp [hva]
  · simpa using hhold d hd

/-- Then the instruction completes. -/
theorem xinv_completes (h : xlatPending a rs (xlatDropped p a s) = false) : (th (xinv p a rs s)).pc = (th (advance 4 s)).pc ∧
    (th (xinv p a rs s)).wait = .none ∧ (xinv p a rs s).reqs = (xlatDropped p a s).reqs := by
  have hth : th (xlatDropped p a s) = th s := thr_xlatDropped p a s s.cur
  rw [xinv_eq, if_neg (by simp [h]), th_advance, th_advance, hth]
  exact ⟨rfl, Thread.step_wait _ _, rfl⟩

end

/-! ## The spaces that xinv names -/

theorem inSpace_some {k n : Nat} : inSpace (some k) n = true ↔ n = k := beq_iff_eq

theorem inSpace_some_false {k n : Nat} : inSpace (some k) n = false ↔ n ≠ k := beq_eq_false_iff_ne

theorem inRanges_some_false {l : List (Nat × Nat)} {v : Nat} : inRanges (some l) v = false ↔ ∀ r ∈ l, ¬ (r.1 ≤ v ∧ v < r.2) := by
  simp [inRanges]

/-- What `xinv` of every space does. -/
theorem xinv_everySpace (s : State) :
    (∀ p ∈ (xinv (fun _ => true) none none s).cores, p.2.tlb = []) ∧
    (∀ p ∈ (xinv (fun _ => true) none none s).quarters, p.2.xlat = [] ∧ p.2.rtab = []) ∧
    ((∀ q ∈ s.reqs, q.posted = true) → (∀ p ∈ s.quarters, ∀ m, p.2.mig = some m → m.reqs = []) →
      (∀ w ∈ s.tagq, region w.va ≠ 0) → (∀ d ∈ s.districts, d.2.hold = []) →
      (th (xinv (fun _ => true) none none s)).pc = (th (advance 4 s)).pc ∧ (th (xinv (fun _ => true) none none s)).wait = .none ∧
      (xinv (fun _ => true) none none s).reqs = []) := by
  obtain ⟨hcores, hquarters⟩ := xinv_drops (fun _ => true) none none s
  refine ⟨fun p hp => ?_, fun p hp => ⟨?_, ?_⟩, fun hreq hmig htag hhold => ?_⟩
  · exact List.eq_nil_iff_forall_not_mem.2 fun e he => Bool.noConfusion (hcores p hp e he)
  · exact List.eq_nil_iff_forall_not_mem.2 fun e he => Bool.noConfusion ((hquarters p hp).1 e he)
  · exact List.eq_nil_iff_forall_not_mem.2 fun e he => Bool.noConfusion ((hquarters p hp).2 e he)
  · have hposted : ∀ q ∈ s.reqs, inSpace none q.asid = true → q.posted = true := fun q hq _ => hreq q hq
    obtain ⟨hpc, hwait, hreqs⟩ := xinv_completes (xlatPending_dropped (p := fun _ => true) (rs := none) hposted
      (fun q hq m hm r hr => by simp [hmig q hq m hm] at hr) (fun w hw hva => absurd hva (htag w hw))
      (fun d hd h hh => by simp [hhold d hd] at hh))
    refine ⟨hpc, hwait, ?_⟩
    rw [hreqs]
    exact List.eq_nil_iff_forall_not_mem.2 fun q hq => Bool.noConfusion (reqs_xlatDropped hposted q hq)

/-- What `xinv` of space k does, of all its translations or of those that p names. -/
theorem xinv_oneSpace (p : XEnt → Bool) (k : Nat) (rs : Option (List (Nat × Nat))) (s : State) :
    (∀ c ∈ (xinv p (some k) rs s).cores, ∀ e ∈ c.2.tlb, p e = false) ∧
    (∀ q ∈ (xinv p (some k) rs s).quarters, (∀ e ∈ q.2.xlat, p e = false) ∧ ∀ e ∈ q.2.rtab, e.1 ≠ k) ∧
    ((∀ q ∈ s.reqs, q.asid = k → q.posted = true) → (∀ q ∈ s.quarters, ∀ m, q.2.mig = some m → ∀ r ∈ m.reqs, r.asid ≠ k) →
      (∀ w ∈ s.tagq, region w.va = 0 → tagSpace s w = some k → inRanges rs w.va = false) →
      (∀ d ∈ s.districts, d.2.asid.toNat = k → ∀ h ∈ d.2.hold, inRanges rs h.va = false) →
      (th (xinv p (some k) rs s)).pc = (th (advance 4 s)).pc ∧ (th (xinv p (some k) rs s)).wait = .none ∧
      ∀ q ∈ (xinv p (some k) rs s).reqs, q.asid ≠ k) := by
  obtain ⟨hcores, hquarters⟩ := xinv_drops p (some k) rs s
  refine ⟨hcores, fun q hq => ⟨(hquarters q hq).1, fun e he => inSpace_some_false.1 ((hquarters q hq).2 e he)⟩,
    fun hreq hmig htag hhold => ?_⟩
  have hposted : ∀ q ∈ s.reqs, inSpace (some k) q.asid = true → q.posted = true := fun q hq hin => hreq q hq (inSpace_some.1 hin)
  obtain ⟨hpc, hwait, hreqs⟩ := xinv_completes (xlatPending_dropped (p := p) (rs := rs) hposted
    (fun q hq m hm r hr => inSpace_some_false.2 (hmig q hq m hm r hr))
    (fun w hw hva n hn => Bool.and_eq_false_imp.2 fun hin => htag w hw hva (by rw [hn, inSpace_some.1 hin]))
    (fun d hd h hh => Bool.and_eq_false_imp.2 fun hin => hhold d hd (inSpace_some.1 hin) h hh))
  refine ⟨hpc, hwait, fun q hq => ?_⟩
  rw [hreqs] at hq
  exact inSpace_some_false.1 (reqs_xlatDropped hposted q hq)

theorem bits_low16 (v : Word) : bits v 15 0 = v.toNat % 2 ^ 16 := by simp [bits]

/-- Settles O20: `icinv` by `icinv_waits` and `icinv_effect`, its acknowledgement by `icinvAcknowledge_effect`, `xinv` by `xinv_drops` and
`xinv_completes`. -/
theorem cacheInvalidations : Obligations.CacheInvalidations := by
  unfold Obligations.CacheInvalidations
  refine ⟨?_, fun s c h => icinvAcknowledge_effect h, ?_⟩
  · rintro s ra g _ hs rfl
    have hall (h : Ready s g []) : exec (.icinvAll g) s = .next (icinv none s) := (issueSupv_ready hs h _ : execIcinvAll g s = _)
    have hline (h : Ready s g [ra]) : exec (.icinvLine ra g) s =
        .next (icinv (some (lineKey (th s).asid.toNat ((rx s ra).toNat % 2 ^ 56))) s) := (issueSupv_ready hs h _ : execIcinvLine ra g s = _)
    refine ⟨fun hw => ⟨fun h => ?_, fun h => ?_⟩, fun hw => ⟨fun h => ⟨_, hall h, ?_⟩, fun h => ⟨_, hline h, ?_⟩⟩⟩
    · rw [hall h, icinv_waits _ hw]
    · rw [hline h, icinv_waits _ hw]
    · exact icinv_effect none hw
    · obtain ⟨hcache, hrest⟩ := icinv_effect (some (lineKey (th s).asid.toNat ((rx s ra).toNat % 2 ^ 56))) hw
      rw [hcache]
      exact ⟨mget?_mdel_same _ _, hrest⟩
  · rintro s rd ra g _ _ hs rfl rfl
    rw [← bits_low16]
    have hva (h : Ready s g [rd, ra]) : exec (.xinvVa rd ra g) s =
        .next (xinv (fun e => entNames e (bits (rx s rd) 15 0) ((rx s ra).toNat % 2 ^ 56)) (some (bits (rx s rd) 15 0))
          (some (droppedRanges s (bits (rx s rd) 15 0) ((rx s ra).toNat % 2 ^ 56))) s) :=
      (issueSupv_ready hs h _ : execXinvVa rd ra g s = _)
    refine ⟨fun h => ⟨_, (issueSupv_ready hs h _ : execXinvAll g s = _), xinv_everySpace s⟩,
      fun h => ⟨_, (issueSupv_ready hs h _ : execXinvSpace rd g s = _), ?_⟩, fun h => ⟨_, hva h, ?_⟩⟩
    · obtain ⟨hcores, hquarters, hdone⟩ := xinv_oneSpace (fun e => e.asid == bits (rx s rd) 15 0) (bits (rx s rd) 15 0) none s
      refine ⟨fun p hp e he => beq_eq_false_iff_ne.1 (hcores p hp e he), fun p hp => ⟨fun e he => ?_, (hquarters p hp).2⟩,
        fun hreq hmig htag hhold => hdone hreq hmig (fun w hw hva hin => absurd hin (htag w hw hva))
          (fun d hd ha h hh => by simp [hhold d hd ha] at hh)⟩
      exact beq_eq_false_iff_ne.1 ((hquarters p hp).1 e he)
    · obtain ⟨hcores, hquarters, hdone⟩ := xinv_oneSpace (fun e => entNames e (bits (rx s rd) 15 0) ((rx s ra).toNat % 2 ^ 56))
        (bits (rx s rd) 15 0) (some (droppedRanges s (bits (rx s rd) 15 0) ((rx s ra).toNat % 2 ^ 56))) s
      exact ⟨hcores, hquarters, fun hreq hmig htag hhold => hdone hreq hmig
        (fun w hw hva hin => inRanges_some_false.2 (htag w hw hva hin))
        (fun d hd ha h hh => inRanges_some_false.2 (hhold d hd ha h hh))⟩

end Sys2Proof.Machine
end

section
/-! PROOFS. What the withdrawal of a thread's lock request leaves alone: its own core (05 R162; 14 R365). -/

namespace Sys2Proof.Machine

/-! ## Grants -/

theorem putRecord_keeps (s : State) (w : LockWait) : (putRecord s w).cores = s.cores ∧ (putRecord s w).lockq = s.lockq := by
  rw [putRecord]; split <;> exact ⟨rfl, rfl⟩

theorem escalate_keeps (s : State) (w : LockWait) : (escalate s w).cores = s.cores ∧ (escalate s w).lockq = s.lockq := putRecord_keeps s w

theorem acquireBy_keeps (t : Thread) (o : Word) (sc : Nat) (s : State) :
    (acquireBy t o sc s).cores = s.cores ∧ (acquireBy t o sc s).lockq = s.lockq := by
  rw [acquireBy]; split <;> exact ⟨rfl, rfl⟩

theorem foldl_acquireBy_keeps (t : Thread) (sc : Nat) (os : List Word) (s : State) :
    (os.foldl (fun s o => acquireBy t o sc s) s).cores = s.cores ∧ (os.foldl (fun s o => acquireBy t o sc s) s).lockq = s.lockq := by
  induction os generalizing s with
  | nil => exact ⟨rfl, rfl⟩
  | cons o os ih =>
    obtain ⟨hc, hq⟩ := ih (acquireBy t o sc s)
    obtain ⟨hc', hq'⟩ := acquireBy_keeps t o sc s
    exact ⟨hc.trans hc', hq.trans hq'⟩

theorem grantAcquire_keeps (w : LockWait) (s : State) : (grantAcquire w s).cores = s.cores ∧ (grantAcquire w s).lockq = s.lockq := by
  rw [grantAcquire]
  split
  · split
    · exact ⟨rfl, rfl⟩
    · exact foldl_acquireBy_keeps _ _ _ _
  · exact ⟨rfl, rfl⟩

/-! ## A core with no waiting request -/

/-- Core c is as k says, and no request of its thread waits. -/
structure NoRequest (c : Nat) (k : CoreState) (s : State) : Prop where
  core : core s c = k
  lockq : ∀ w ∈ s.lockq, w.thread ≠ k.t.id

section
variable {c : Nat} {k : CoreState} {s t : State} {w : LockWait}

theorem NoRequest.of_same (h : NoRequest c k s) (hkeep : t.cores = s.cores ∧ t.lockq = s.lockq) : NoRequest c k t :=
  ⟨(core_of_cores hkeep.1 c).trans h.core, hkeep.2 ▸ h.lockq⟩

/-- The answer to another thread's request completes no instruction of the core. -/
theorem NoRequest.answerLock (h : NoRequest c k s) (hw : w.thread ≠ k.t.id) (status : Word) : NoRequest c k (answerLock w status s) := by
  have hgrant : NoRequest c k (if status = 3 then s else grantAcquire w s) := by
    split
    · exact h
    · exact h.of_same (grantAcquire_keeps w s)
  rw [Machine.answerLock]
  split
  · next rd hrd =>
    have hne : c ≠ w.core := by
      rintro rfl
      rw [waitRd] at hrd
      split at hrd
      · split at hrd
        · next hid => rw [thr, h.core] at hid; exact hw hid.symm
        · cases hrd
      · cases hrd
    exact ⟨(core_updThr_other _ _ _ _ hne).trans hgrant.core, hgrant.lockq⟩
  · exact hgrant

theorem NoRequest.queueLock (h : NoRequest c k s) (hw : w.thread ≠ k.t.id) : NoRequest c k (queueLock w s) := by
  refine ⟨h.core, fun v hv => ?_⟩
  rcases List.mem_append.1 hv with hv | hv
  · exact h.lockq v hv
  · rw [List.mem_singleton.1 hv]
    exact hw

theorem tileRequest_thread (s : State) (w : LockWait) : (tileRequest s w).thread = w.thread := by
  rw [tileRequest]

theorem escalation_thread {v : LockWait} (h : escalation s w = some v) : v.thread = w.thread := by
  rw [escalation] at h
  split at h
  · cases h
  · split at h
    · cases h
    · split at h
      · cases h
      · rw [← Option.some.inj h, tileRequest_thread]

theorem NoRequest.grantWaiting (h : NoRequest c k s) (hw : w.thread ≠ k.t.id) : NoRequest c k (grantWaiting w s) := by
  have hrest : NoRequest c k { s with lockq := s.lockq.filter (fun v => v != w) } :=
    ⟨h.core, fun v hv => h.lockq v (List.mem_of_mem_filter hv)⟩
  rw [Machine.grantWaiting]
  split
  · exact (hrest.of_same (escalate_keeps _ w)).answerLock hw 1
  · split
    · exact (hrest.of_same (putRecord_keeps _ w)).answerLock hw 0
    · next v hv =>
      have hv' : v.thread ≠ k.t.id := escalation_thread hv ▸ hw
      split
      · exact (hrest.of_same (escalate_keeps _ v)).answerLock hv' 1
      · exact hrest.queueLock hv'

theorem foldl_oldest_mem (l : List LockWait) (w : LockWait) :
    l.foldl (fun a b => if b.age.toNat < a.age.toNat then b else a) w ∈ w :: l := by
  induction l generalizing w with
  | nil => exact List.mem_singleton.2 rfl
  | cons v l ih =>
    rw [List.foldl_cons]
    split
    · exact List.mem_cons_of_mem _ (ih v)
    · rcases List.mem_cons.1 (ih w) with h | h
      · rw [h]; exact List.mem_cons_self
      · exact List.mem_cons_of_mem _ (List.mem_cons_of_mem _ h)

theorem nextGrant_mem (h : nextGrant s = some w) : w ∈ s.lockq := by
  rw [nextGrant] at h
  split at h
  · cases h
  · next v l hl =>
    cases h
    have hmem := foldl_oldest_mem l v
    rw [← hl] at hmem
    exact List.mem_of_mem_filter hmem

theorem NoRequest.regrant (n : Nat) (h : NoRequest c k s) : NoRequest c k (regrant n s) := by
  induction n generalizing s with
  | zero => exact h
  | succ n ih =>
    rw [Machine.regrant]
    split
    · exact h
    · next w hw => exact ih (h.grantWaiting (h.lockq w (nextGrant_mem hw)))

theorem woundMore_cores (s : State) : (woundMore s).cores = s.cores := by
  refine List.foldlRecOn (motive := fun t : State => t.cores = s.cores) s.lockq _ rfl fun t ht w _ => ?_
  split
  · exact ht
  · exact ht

theorem core_reexamine (h : NoRequest c k s) : core (reexamine s) c = k :=
  (core_of_cores (woundMore_cores _) c).trans (h.regrant _).core

end

/-- The withdrawal of a thread's requests may complete other cores' instructions, never its own core's. -/
theorem core_withdrawLock (s : State) (c : Nat) : core (withdrawLock (thr s c).id s) c = core s c := by
  rw [withdrawLock]
  split
  · exact core_reexamine ⟨rfl, fun w hw => by simpa [thr] using (List.mem_filter.1 hw).2⟩
  · rfl

end Sys2Proof.Machine
end

section
/-! PROOFS. Messages (04 R130 to R134): what accepting, refusing and parking a message change, and where a message goes that arrives. -/

namespace Sys2Proof.Machine

/-! ## Threads behind an update of a core -/

theorem thr_updCore {s : State} {c : Nat} {f : CoreState → CoreState} (hf : (f (core s c)).t = (core s c).t) (d : Nat) :
    thr (updCore s c f) d = thr s d := by
  by_cases h : d = c
  · rw [h, thr, core_updCore_same, hf, thr]
  · rw [thr, core_updCore_other _ _ _ _ h, thr]

theorem thr_of_cores {s t : State} (h : s.cores = t.cores) (c : Nat) : thr s c = thr t c := by rw [thr, core_of_cores h, thr]

/-- A change of core d's thread leaves all else of a core alone. -/
theorem core_updThr (s : State) (d c : Nat) (f : Thread → Thread) : core (updThr s d f) c = { core s c with t := thr (updThr s d f) c } := by
  by_cases h : c = d
  · rw [h, thr, core_updThr_same]
  · rw [thr, core_updThr_other _ _ _ _ h]

/-! ## Accepting and refusing (04 R131, R132) -/

/-- The messages under way but one. -/
def State.without (s : State) (m : Msg) : State := { s with sigs := s.sigs.filter (fun x => x != m) }

section
variable {m : Msg} {s : State}

theorem msgAccepted_eq (h : m.src < 256) : msgAccepted m s = advanceCore m.src 4 (s.without m) := by
  rw [msgAccepted, if_pos h]; rfl

theorem msgRefused_eq (code : BitVec 10) (h : m.src < 256) : msgRefused m code s = trapCore m.src code m.target (s.without m) := by
  rw [msgRefused, if_pos h]; rfl

theorem msgAccepted_sigs : (msgAccepted m s).sigs = s.sigs.filter (fun x => x != m) := by
  rw [msgAccepted]; split <;> rfl

theorem msgAccepted_cur : (msgAccepted m s).cur = s.cur := by
  rw [msgAccepted]; split <;> rfl

theorem core_msgAccepted (c : Nat) : core (msgAccepted m s) c = { core s c with t := thr (msgAccepted m s) c } := by
  rw [msgAccepted]
  split
  · exact core_updThr (s.without m) m.src c _
  · rfl

theorem thr_msgAccepted (h : m.src < 256) : thr (msgAccepted m s) m.src = (thr s m.src).step 4 := by
  rw [msgAccepted_eq h, advanceCore, thr_updThr_same]; rfl

/-! ## Joining the delivery queue (04 R133) -/

theorem thr_joinDelivery (c : Nat) : thr (joinDelivery m s) c = thr s c := thr_updCore rfl c

theorem delivery_joinDelivery : (core (joinDelivery m s) m.dst).delivery =
    (core s m.dst).delivery ++ [{ m with entry := (handler s m.dst m.index).addr }] := by
  rw [joinDelivery, core_updCore_same]; rfl

theorem unclaimed_joinDelivery (c : Nat) : (core (joinDelivery m s) c).unclaimed = (core s c).unclaimed := by
  rw [joinDelivery]
  by_cases h : c = m.dst
  · rw [h, core_updCore_same]
  · rw [core_updCore_other _ _ _ _ h]

/-- A message that joins its queue and is accepted: what the sender and the target see. -/
theorem accepted_joinDelivery (hsrc : m.src < 256) : (msgAccepted m (joinDelivery m s)).sigs = s.sigs.filter (fun x => x != m) ∧
    (core (msgAccepted m (joinDelivery m s)) m.dst).delivery =
      (core s m.dst).delivery ++ [{ m with entry := (handler s m.dst m.index).addr }] ∧
    thr (msgAccepted m (joinDelivery m s)) m.src = (thr s m.src).step 4 := by
  refine ⟨msgAccepted_sigs, ?_, ?_⟩
  · rw [core_msgAccepted]; exact delivery_joinDelivery
  · rw [thr_msgAccepted hsrc, thr_joinDelivery]

/-! ## Parking (04 R132 step 2) -/

theorem core_noteHw (c : Nat) (ovf : Bool) (s : State) : ∃ h, core (noteHw c ovf s) c = { core s c with hw := h } :=
  ⟨_, core_updCore_same s c _⟩

theorem thr_noteHw (c : Nat) (ovf : Bool) (s : State) (d : Nat) : thr (noteHw c ovf s) d = thr s d := thr_updCore rfl d

theorem core_park (m : Msg) (s : State) : ∃ h, core (park m s) m.dst =
    { core s m.dst with hw := h, unclaimed := (core s m.dst).unclaimed ++ [{ m with arrived := true }] } := by
  obtain ⟨h, hh⟩ := core_noteHw m.dst false s
  exact ⟨h, by rw [park, core_updCore_same, hh]⟩

theorem thr_park (m : Msg) (s : State) (d : Nat) : thr (park m s) d = thr s d := (thr_updCore rfl d).trans (thr_noteHw _ _ _ d)

theorem core_raise (c : Nat) (code : BitVec 10) (tval iter : Word) (s : State) :
    core (raise c code tval iter s) c = { core s c with events := (core s c).events ++ [⟨code, tval, iter⟩] } := core_updCore_same s c _

theorem thr_raise (c : Nat) (code : BitVec 10) (tval iter : Word) (s : State) (d : Nat) : thr (raise c code tval iter s) d = thr s d :=
  thr_updCore rfl d

/-- A message for an invalid entry is parked, and UNCLAIMED tells its target. -/
theorem accepted_park (m : Msg) (s : State) (hsrc : m.src < 256) (v : Word) :
    (msgAccepted m (raise m.dst 0x00A v 0 (park m s))).sigs = s.sigs.filter (fun x => x != m) ∧
    (core (msgAccepted m (raise m.dst 0x00A v 0 (park m s))) m.dst).unclaimed = (core s m.dst).unclaimed ++ [{ m with arrived := true }] ∧
    (core (msgAccepted m (raise m.dst 0x00A v 0 (park m s))) m.dst).events = (core s m.dst).events ++ [⟨0x00A, v, 0⟩] ∧
    thr (msgAccepted m (raise m.dst 0x00A v 0 (park m s))) m.src = (thr s m.src).step 4 := by
  obtain ⟨h, hh⟩ := core_park m s
  refine ⟨msgAccepted_sigs, ?_, ?_, ?_⟩
  · rw [core_msgAccepted, core_raise, hh]
  · rw [core_msgAccepted, core_raise, hh]
  · rw [thr_msgAccepted hsrc, thr_raise, thr_park]

/-! ## A message at its entry (04 R132) -/

theorem handleMsg_held (hw : (handler s m.dst m.index).w = true) (ha : m.arrived = false) :
    handleMsg m s = { s with sigs := s.sigs.filter (fun x => x != m) ++ [{ m with arrived := true, at_ := s.fc }] } := by
  simp only [handleMsg, hw, if_true, replaceMsg, ha, Bool.false_eq_true, if_false]

theorem handleMsg_parks (hw : (handler s m.dst m.index).w = false) (hv : (handler s m.dst m.index).v = false)
    (hroom : (core s m.dst).unclaimed.length < 8) :
    handleMsg m s = msgAccepted m (raise m.dst 0x00A (BitVec.ofNat 64 m.index) 0 (park m s)) := by
  simp only [handleMsg, hw, hv, Bool.false_eq_true, if_false, Bool.not_false, if_true, ge_iff_le, Nat.not_le.2 hroom]

theorem handleMsg_full (hw : (handler s m.dst m.index).w = false) (hv : (handler s m.dst m.index).v = false)
    (hfull : 8 ≤ (core s m.dst).unclaimed.length) : handleMsg m s = msgRefused m 0x008 (setOvf m.dst s) := by
  simp only [handleMsg, hw, hv, Bool.false_eq_true, if_false, Bool.not_false, if_true, ge_iff_le, hfull]

theorem handleMsg_wrongSpace (hw : (handler s m.dst m.index).w = false) (hv : (handler s m.dst m.index).v = true)
    (hs : spaceRefused (handler s m.dst m.index) m = true) : handleMsg m s = msgRefused m 0x00C s := by
  simp only [handleMsg, hw, hv, hs, Bool.false_eq_true, if_false, Bool.not_true, if_true]

theorem handleMsg_valid (hw : (handler s m.dst m.index).w = false) (hv : (handler s m.dst m.index).v = true)
    (hs : spaceRefused (handler s m.dst m.index) m = false) : handleMsg m s =
      if (core s m.dst).delivery.length < 8 ∧ ¬ s.sigs.any (fun x => x.dst == m.dst && x.room) then msgAccepted m (joinDelivery m s)
      else replaceMsg m { m with arrived := true, room := true, at_ := s.fc } s := by
  simp only [handleMsg, hw, hv, hs, Bool.false_eq_true, if_false, Bool.not_true]

theorem spaceRefused_false {h : HandlerEntry} : spaceRefused h m = false ↔ m.user = false ∨ m.space = h.space := by
  cases hu : m.user <;> simp [spaceRefused, hu]

theorem spaceRefused_true {h : HandlerEntry} : spaceRefused h m = true ↔ m.user = true ∧ m.space ≠ h.space := by
  simp [spaceRefused]

theorem roomWaits_false {s : State} {d : Nat} : s.sigs.any (fun x => x.dst == d && x.room) = false ↔ ∀ x ∈ s.sigs, x.dst = d → x.room = false := by
  simp

theorem handleMsg_joins (hw : (handler s m.dst m.index).w = false) (hv : (handler s m.dst m.index).v = true)
    (hs : m.user = false ∨ m.space = (handler s m.dst m.index).space) (hroom : (core s m.dst).delivery.length < 8)
    (hfirst : ∀ x ∈ s.sigs, x.dst = m.dst → x.room = false) : handleMsg m s = msgAccepted m (joinDelivery m s) := by
  rw [handleMsg_valid hw hv (spaceRefused_false.2 hs), roomWaits_false.2 hfirst, if_pos ⟨hroom, Bool.false_ne_true⟩]

theorem handleMsg_waits (hw : (handler s m.dst m.index).w = false) (hv : (handler s m.dst m.index).v = true) (ha : m.arrived = false)
    (hs : m.user = false ∨ m.space = (handler s m.dst m.index).space)
    (hwait : 8 ≤ (core s m.dst).delivery.length ∨ ∃ x ∈ s.sigs, x.dst = m.dst ∧ x.room = true) : handleMsg m s =
      { s with sigs := s.sigs.filter (fun x => x != m) ++ [{ m with arrived := true, room := true, at_ := s.fc }] } := by
  rw [handleMsg_valid hw hv (spaceRefused_false.2 hs), if_neg ?_, replaceMsg, ha]
  · rfl
  · rintro ⟨hroom, hany⟩
    rcases hwait with h | ⟨x, hx, hd, hr⟩
    · omega
    · exact hany (List.any_eq_true.2 ⟨x, hx, by simp [hd, hr]⟩)

end

/-! ## Arrival (04 R131, R132) -/

section
variable {m : Msg} {s : State} {n : Nat}

theorem sigMessageArrival_here (hm : s.sigs[n]? = some m) (ha : m.arrived = false) (hd : m.device = 0xFF ∨ m.device = s.device) :
    exec (.sigMessageArrival n) s = .next (handleMsg m s) := by
  change execSigMessageArrival n s = _
  simp only [execSigMessageArrival, hm, ha, Bool.false_eq_true, if_false, if_pos hd]

/-- A message to another device is accepted or refused there. -/
theorem sigMessageArrival_away (hm : s.sigs[n]? = some m) (ha : m.arrived = false) (hsrc : m.src < 256) (h1 : m.device ≠ 0xFF)
    (h2 : m.device ≠ s.device) : exec (.sigMessageArrival n) s = .next (advanceCore m.src 4 ((drawFree s).2.without m)) ∨
      ∃ c, (c = 0x008 ∨ c = 0x009 ∨ c = 0x00C) ∧
        exec (.sigMessageArrival n) s = .next (trapCore m.src c m.target ((drawFree s).2.without m)) := by
  have hexec : exec (.sigMessageArrival n) s = execSigMessageArrival n s := rfl
  rw [hexec]
  simp only [execSigMessageArrival, hm, ha, Bool.false_eq_true, if_false, if_neg (not_or.2 ⟨h1, h2⟩)]
  split
  · exact .inl (by rw [msgAccepted_eq hsrc])
  · exact .inr ⟨0x008, .inl rfl, by rw [msgRefused_eq _ hsrc]⟩
  · exact .inr ⟨0x009, .inr (.inl rfl), by rw [msgRefused_eq _ hsrc]⟩
  · exact .inr ⟨0x00C, .inr (.inr rfl), by rw [msgRefused_eq _ hsrc]⟩

end

/-! ## sig (04 R131) -/

/-- The message that `sig` sends. -/
def sigMsg (ra rb : Nat) (s : State) : Msg where
  src := s.cur
  dst := bits (rx s ra) 7 0
  device := bits (rx s ra) 15 8
  index := bits (rx s ra) 21 16
  payload := rx s rb
  space := (th s).asid
  user := !(th s).status.supv
  entry := 0
  arrived := false
  room := false
  at_ := s.fc
  bound := (th s).tagwait.toNat

theorem sig_target (a : Word) : bits a 63 22 ≠ 0 ↔ 2 ^ 22 ≤ a.toNat := by
  have := a.isLt
  simp only [bits]
  omega

section
variable {s : State} {ra rb g : Nat}

theorem exec_sig (h : Ready s g [ra, rb]) (ht : (th s).status.txn = false) : exec (.sig ra rb g) s =
    .next (if 2 ^ 22 ≤ (rx s ra).toNat ∨ ¬ (bits (rx s ra) 15 8 = 0xFF ∨ isMember s (bits (rx s ra) 15 8)) then trap 0x00B (rx s ra) s
      else await .sig { s with sigs := s.sigs ++ [sigMsg ra rb s] }) := by
  refine (issue_ready h _ : execSig ra rb g s = _).trans ?_
  rw [noTx, ht]
  simp only [Bool.false_eq_true, if_false, sig_target]
  rfl

theorem sig_sends (h : Ready s g [ra, rb]) (ht : (th s).status.txn = false) (ha : (rx s ra).toNat < 2 ^ 22)
    (hd : bits (rx s ra) 15 8 = 0xFF ∨ isMember s (bits (rx s ra) 15 8) = true) :
    exec (.sig ra rb g) s = .next (await .sig { s with sigs := s.sigs ++ [sigMsg ra rb s] }) := by
  rw [exec_sig h ht, if_neg]
  rintro (h1 | h1)
  · omega
  · exact h1 hd

theorem sig_refused (h : Ready s g [ra, rb]) (ht : (th s).status.txn = false)
    (hbad : 2 ^ 22 ≤ (rx s ra).toNat ∨ (bits (rx s ra) 15 8 ≠ 0xFF ∧ isMember s (bits (rx s ra) 15 8) = false)) :
    exec (.sig ra rb g) s = .next (trap 0x00B (rx s ra) s) := by
  rw [exec_sig h ht, if_pos]
  exact hbad.imp_right fun hd => by simp [hd]

end

end Sys2Proof.Machine
end

section
/-! PROOFS. Parked and held messages, `sethnd`, the entry of messages and events, and O46 (04 R124, R130 to R134). -/

namespace Sys2Proof.Machine

/-! ## Parked messages (04 R134) -/

section
variable {s : State} {c : Nat} {m : Msg}

theorem moveAllParked_none (n : Nat) (h : (core s c).unclaimed = []) : moveAllParked c n s = s := by
  cases n with
  | zero => rfl
  | succ n =>
    rw [moveAllParked, parkedReady, h]
    split <;> rfl

/-- A parked message has left its list. -/
def parkedLeft (c : Nat) (m : Msg) (s : State) : State :=
  updCore (noteHw c false s) c (fun k => { k with unclaimed := k.unclaimed.erase m })

theorem core_parkedLeft (c : Nat) (m : Msg) (s : State) : ∃ h, core (parkedLeft c m s) c =
    { core s c with hw := h, unclaimed := (core s c).unclaimed.erase m } := by
  obtain ⟨h, hh⟩ := core_noteHw c false s
  exact ⟨h, by rw [parkedLeft, core_updCore_same, hh]⟩

theorem moveParked_joins (hs : spaceRefused (handler s c m.index) m = false) : moveParked c m s = joinDelivery m (parkedLeft c m s) := by
  rw [moveParked, hs]; rfl

theorem moveParked_drops (hs : spaceRefused (handler s c m.index) m = true) : moveParked c m s = setOvf c (parkedLeft c m s) := by
  rw [moveParked, hs]; rfl

theorem unclaimed_setOvf (c : Nat) (s : State) : (core (setOvf c s) c).unclaimed = (core s c).unclaimed := by
  obtain ⟨h, hh⟩ := core_noteHw c true s
  rw [setOvf, core_updCore_same, hh]

theorem unclaimed_moveParked (c : Nat) (m : Msg) (s : State) : (core (moveParked c m s) c).unclaimed = (core s c).unclaimed.erase m := by
  obtain ⟨h, hh⟩ := core_parkedLeft c m s
  cases hs : spaceRefused (handler s c m.index) m with
  | true => rw [moveParked_drops hs, unclaimed_setOvf, hh]
  | false => rw [moveParked_joins hs, unclaimed_joinDelivery, hh]

/-- A parked message of the right space joins the delivery queue. -/
theorem delivery_moveParked (hd : m.dst = c) (hs : spaceRefused (handler s c m.index) m = false) :
    (core (moveParked c m s) c).delivery = (core s c).delivery ++ [{ m with entry := (handler s c m.index).addr }] := by
  subst hd
  obtain ⟨h, hh⟩ := core_parkedLeft m.dst m s
  rw [moveParked_joins hs, delivery_joinDelivery, handler, hh]; rfl

/-- A parked message of the wrong space is dropped, and OVF is set. -/
theorem dropped_moveParked (hs : spaceRefused (handler s c m.index) m = true) :
    (core (moveParked c m s) c).delivery = (core s c).delivery ∧ (core (moveParked c m s) c).msgOvf = true := by
  obtain ⟨h, hh⟩ := core_parkedLeft c m s
  obtain ⟨h', hh'⟩ := core_noteHw c true (parkedLeft c m s)
  rw [moveParked_drops hs, setOvf, core_updCore_same, hh', hh]
  exact ⟨rfl, rfl⟩

/-- The only parked message moves, and then none is left to move. -/
theorem moveAllParked_one (hu : (core s c).unclaimed = [m]) (hroom : (core s c).delivery.length < 8)
    (hv : (handler s c m.index).v = true) (hw : (handler s c m.index).w = false) : moveAllParked c 8 s = moveParked c m s := by
  have hready : parkedReady s c = some m := by simp [parkedReady, hu, hv, hw]
  rw [moveAllParked, if_neg (Nat.not_le.2 hroom), hready]
  exact moveAllParked_none 7 (by rw [unclaimed_moveParked, hu, List.erase_cons_head])

end

/-! ## What other senders' messages leave alone -/

/-- Core c runs on as it did, with the handlers it had. -/
structure Stays (c : Nat) (s t : State) : Prop where
  thr : thr t c = thr s c
  handlers : (core t c).handlers = (core s c).handlers
  cur : t.cur = s.cur

section
variable {c d : Nat} {s t u : State} {m : Msg}

theorem Stays.refl (c : Nat) (s : State) : Stays c s s := ⟨rfl, rfl, rfl⟩

theorem Stays.trans (h : Stays c s t) (h' : Stays c t u) : Stays c s u :=
  ⟨h'.thr.trans h.thr, h'.handlers.trans h.handlers, h'.cur.trans h.cur⟩

theorem Stays.of_cores (h : t.cores = s.cores) (hc : t.cur = s.cur) : Stays c s t := ⟨thr_of_cores h c, by rw [core_of_cores h], hc⟩

theorem stays_updCore {f : CoreState → CoreState} (ht : (f (core s d)).t = (core s d).t)
    (hh : (f (core s d)).handlers = (core s d).handlers) : Stays c s (updCore s d f) := by
  refine ⟨thr_updCore ht c, ?_, rfl⟩
  by_cases h : c = d
  · rw [h, core_updCore_same, hh]
  · rw [core_updCore_other _ _ _ _ h]

theorem stays_updCore_other {f : CoreState → CoreState} (h : c ≠ d) : Stays c s (updCore s d f) := by
  have hcore := core_updCore_other s d c f h
  exact ⟨by rw [Machine.thr, hcore, Machine.thr], by rw [hcore], rfl⟩

theorem stays_advanceCore (h : c ≠ d) (n : Nat) : Stays c s (advanceCore d n s) := by
  rw [advanceCore, updThr]
  exact stays_updCore_other h

theorem stays_hostEvent (b : BitVec 16) : Stays c s (hostEvent b s) := Stays.of_cores rfl rfl

theorem stays_raise (code : BitVec 10) (tval iter : Word) : Stays c s (raise d code tval iter s) := stays_updCore rfl rfl

theorem stays_doubleFault (h : c ≠ d) (code : BitVec 10) (v : Word) : Stays c s (doubleFault d code v s) := by
  rw [doubleFault]
  refine Stays.trans ?_ (stays_hostEvent _)
  split
  · exact stays_updCore_other h
  · exact (stays_updCore_other h).trans (stays_raise _ _ _)

theorem stays_trapCore (h : c ≠ d) (code : BitVec 10) (v : Word) : Stays c s (trapCore d code v s) := by
  rw [trapCore]
  split
  · exact stays_doubleFault h code v
  · exact stays_updCore_other h

theorem stays_joinDelivery : Stays c s (joinDelivery m s) := stays_updCore rfl rfl

theorem stays_noteHw (ovf : Bool) : Stays c s (noteHw d ovf s) := stays_updCore rfl rfl

theorem stays_setOvf : Stays c s (setOvf d s) := (stays_noteHw true).trans (stays_updCore rfl rfl)

theorem stays_without : Stays c s (s.without m) := Stays.of_cores rfl rfl

theorem stays_msgAccepted (h : m.src ≠ c) : Stays c s (msgAccepted m s) := by
  by_cases hsrc : m.src < 256
  · rw [msgAccepted_eq hsrc]
    exact stays_without.trans (stays_advanceCore h.symm 4)
  · rw [msgAccepted, if_neg hsrc]
    exact stays_without

theorem stays_msgRefused (h : m.src ≠ c) (code : BitVec 10) : Stays c s (msgRefused m code s) := by
  by_cases hsrc : m.src < 256
  · rw [msgRefused_eq code hsrc]
    exact stays_without.trans (stays_trapCore h.symm _ _)
  · rw [msgRefused, if_neg hsrc]
    exact stays_without

theorem stays_replaceMsg (m' : Msg) : Stays c s (replaceMsg m m' s) := by
  rw [replaceMsg]
  split <;> exact Stays.of_cores rfl rfl

/-- A message of another core, wherever it goes. -/
theorem stays_handleMsg (h : m.src ≠ c) : Stays c s (handleMsg m s) := by
  rw [handleMsg]
  split
  · exact stays_replaceMsg _
  · split
    · split
      · exact stays_setOvf.trans (stays_msgRefused h _)
      · exact (((stays_noteHw false).trans (stays_updCore rfl rfl)).trans (stays_updCore rfl rfl)).trans (stays_msgAccepted h)
    · split
      · exact stays_msgRefused h _
      · split
        · exact stays_joinDelivery.trans (stays_msgAccepted h)
        · exact stays_replaceMsg _

theorem stays_unholdMsg (h : m.src ≠ c) : Stays c s (unholdMsg s m) := by
  rw [unholdMsg]
  split
  · exact stays_msgRefused h _
  · exact stays_handleMsg h

theorem stays_foldl_unholdMsg {l : List Msg} (h : ∀ x ∈ l, x.src ≠ c) (s : State) : Stays c s (l.foldl unholdMsg s) := by
  induction l generalizing s with
  | nil => exact Stays.refl c s
  | cons a l ih =>
    exact (stays_unholdMsg (h a List.mem_cons_self)).trans (ih (fun x hx => h x (List.mem_cons_of_mem _ hx)) _)

theorem stays_moveParked : Stays c s (moveParked d m s) := by
  rw [moveParked]
  have hleft : Stays c s (updCore (noteHw d false s) d (fun k => { k with unclaimed := k.unclaimed.erase m })) :=
    (stays_noteHw false).trans (stays_updCore rfl rfl)
  split
  · exact hleft.trans stays_setOvf
  · exact hleft.trans stays_joinDelivery

theorem moveParked_sigs (m : Msg) (s : State) : (moveParked c m s).sigs = s.sigs := by
  rw [moveParked]
  split <;> rfl

theorem stays_moveAllParked (n : Nat) (s : State) : Stays c s (moveAllParked d n s) := by
  induction n generalizing s with
  | zero => exact Stays.refl c s
  | succ n ih =>
    rw [moveAllParked]
    split
    · exact Stays.refl c s
    · split
      · exact Stays.refl c s
      · exact stays_moveParked.trans (ih _)

theorem moveAllParked_sigs (n : Nat) (s : State) : (moveAllParked c n s).sigs = s.sigs := by
  induction n generalizing s with
  | zero => rfl
  | succ n ih =>
    rw [moveAllParked]
    split
    · rfl
    · split
      · rfl
      · exact (ih _).trans (moveParked_sigs _ s)

end

/-! ## Waits that end (04 R132) -/

section
variable {s : State} {c : Nat} {m : Msg}

theorem sigHoldTimeout_refuses (hsrc : m.src < 256) (hm : s.sigs.find? (fun m => m.dst == c && holdOverrun s m) = some m) :
    exec (.sigHoldTimeout c) s = .next (trapCore m.src 0x009 m.target (s.without m)) := by
  change execSigHoldTimeout c s = _
  rw [execSigHoldTimeout, hm, ← msgRefused_eq _ hsrc]

theorem sigHoldTimeout_waits (h : ∀ m ∈ s.sigs, m.dst = c → ¬ (m.arrived = true ∧ m.room = false ∧ m.at_ + 256 ≤ s.fc)) :
    exec (.sigHoldTimeout c) s = .next s := by
  have hnone : s.sigs.find? (fun m => m.dst == c && holdOverrun s m) = none := by
    refine List.find?_eq_none.2 fun m hm hover => ?_
    simp only [holdOverrun, Bool.and_eq_true, beq_iff_eq, Bool.not_eq_true', decide_eq_true_eq] at hover
    obtain ⟨hd, ⟨ha, hr⟩, hfc⟩ := hover
    exact h m hm hd ⟨ha, hr, hfc⟩
  change execSigHoldTimeout c s = _
  rw [execSigHoldTimeout, hnone]

/-- Once the parked messages have moved, the first message that waits for room joins. -/
theorem sigQueueEntry_joins (hu : (core s c).unclaimed = []) (hm : s.sigs.find? (fun m => m.dst == c && m.room) = some m)
    (hroom : (core s c).delivery.length < 8) : exec (.sigQueueEntry c) s = .next (msgAccepted m (joinDelivery m s)) := by
  change execSigQueueEntry c s = _
  simp only [execSigQueueEntry, moveAllParked_none 8 hu, hm, if_pos hroom]

theorem sigQueueEntry_refuses (hu : (core s c).unclaimed = []) (hfull : 8 ≤ (core s c).delivery.length) (hsrc : m.src < 256)
    (hm : s.sigs.find? (fun x => x.dst == c && x.room && roomOverrun s x) = some m) :
    exec (.sigQueueEntry c) s = .next (trapCore m.src 0x008 m.target (s.without m)) := by
  have hsome : ∃ x, s.sigs.find? (fun m => m.dst == c && m.room) = some x := by
    refine Option.isSome_iff_exists.1 (List.find?_isSome.2 ⟨m, List.mem_of_find?_eq_some hm, ?_⟩)
    have hp := List.find?_some hm
    exact (Bool.and_eq_true_iff.1 hp).1
  obtain ⟨x, hx⟩ := hsome
  change execSigQueueEntry c s = _
  simp only [execSigQueueEntry, moveAllParked_none 8 hu, hx, if_neg (Nat.not_lt.2 hfull), hm, msgRefused_eq _ hsrc]

/-- With no message waiting for room, only the parked messages move. -/
theorem sigQueueEntry_moves (h : ∀ x ∈ s.sigs, x.dst = c → x.room = false) :
    exec (.sigQueueEntry c) s = .next (moveAllParked c 8 s) := by
  have hnone : (moveAllParked c 8 s).sigs.find? (fun m => m.dst == c && m.room) = none := by
    refine List.find?_eq_none.2 fun x hx hroom => ?_
    rw [moveAllParked_sigs] at hx
    simp only [Bool.and_eq_true, beq_iff_eq] at hroom
    obtain ⟨hd, hr⟩ := hroom
    rw [h x hx hd] at hr
    cases hr
  change execSigQueueEntry c s = _
  simp only [execSigQueueEntry, hnone]

end

/-! ## Entry (04 R124, R133) -/

theorem core_abandon (c : Nat) (s : State) : core (abandon c s) c = core s c := core_withdrawLock _ c

section
variable {s : State} {c : Nat}

theorem msgDelivery_closed (h : canEnter s c = false) : exec (.msgDelivery c) s = .next s := by
  change execMsgDelivery c s = _
  rw [execMsgDelivery, deliver, h]
  split <;> rfl

/-- The core as the head of its delivery queue has entered. -/
theorem msgDelivery_enters {m : Msg} {rest : List Msg} (hq : (core s c).delivery = m :: rest) (h : canEnter s c = true) :
    ∃ t, exec (.msgDelivery c) s = .next t ∧ core t c = { core s c with
      delivery := rest, t := (thr s c).trap true 0x00D m.payload 0 (thr s c).pc (m.entry.toNat * 4) } := by
  refine ⟨deliver c s, rfl, ?_⟩
  rw [deliver, hq]
  simp only [h, if_true, core_updCore_same, core_abandon]
  rfl

theorem asyncEventEntry_closed (h : canEnter s c = false) : exec (.asyncEventEntry c) s = .next s := by
  change execAsyncEventEntry c s = _
  rw [execAsyncEventEntry, enterEvent, h]
  split <;> rfl

/-- The core as its oldest event has entered. -/
theorem asyncEventEntry_enters {e : AsyncEvent} {rest : List AsyncEvent} (hq : (core s c).events = e :: rest) (h : canEnter s c = true) :
    ∃ t, exec (.asyncEventEntry c) s = .next t ∧ core t c = { core s c with
      events := rest, t := (thr s c).trap true e.cause e.tval e.iter (thr s c).pc (core s c).vector } := by
  refine ⟨enterEvent c s, rfl, ?_⟩
  have hleft : core (if e.cause = 0x048 then
      updQuarter (updCore (abandon c s) c (fun k => { k with events := rest })) (coreQuarter c) (fun k => { k with migEvents := k.migEvents - 1 })
      else updCore (abandon c s) c (fun k => { k with events := rest })) c = { core s c with events := rest } := by
    rw [← core_abandon c s, ← core_updCore_same (abandon c s) c (fun k => { k with events := rest })]
    split <;> rfl
  rw [enterEvent, hq]
  simp only [h, if_true, enterTrap, core_updCore_same, hleft]
  rfl

end

/-! ## sethnd (04 R134) -/

/-- The handler entry that `sethnd` writes. -/
def newEntry (a b : Word) : HandlerEntry := ⟨BitVec.ofNat 54 (bits b 55 2), bit b 0, bit b 1, BitVec.ofNat 16 (bits a 31 16)⟩

/-- What `sethnd` returns of the old entry. -/
def oldEntry (s : State) (ix : Nat) : Word :=
  BitVec.ofNat 64 ((handler s s.cur ix).addr.toNat * 4 + (if (handler s s.cur ix).v then 1 else 0))

/-- The entry is written and the old one returned. -/
def entrySet (rd ix : Nat) (e : HandlerEntry) (s : State) : State :=
  retX rd (oldEntry s ix) (updCore s s.cur (fun k => { k with handlers := mset k.handlers ix e }))

/-- What was parked or held for the entry moves on. -/
def entryMoves (ix : Nat) (e : HandlerEntry) (s : State) : State :=
  let s2 := if e.v then moveAllParked s.cur 8 s else s
  (heldMsgs s2 s.cur ix).foldl unholdMsg s2

section
variable {s : State} {rd ra rb g : Nat}

theorem sethnd_reserved (h : Ready s g [ra, rb]) (hs : (th s).status.supv = true)
    (hbad : bits (rx s ra) 63 32 ≠ 0 ∨ bits (rx s ra) 15 6 ≠ 0 ∨ bits (rx s rb) 63 56 ≠ 0) :
    exec (.sethnd rd ra rb g) s = .next (trap 0x00B (rx s ra) s) := by
  refine (issueSupv_ready hs h _ : execSethnd rd ra rb g s = _).trans ?_
  rw [if_pos hbad]

theorem sethnd_sets (h : Ready s g [ra, rb]) (hs : (th s).status.supv = true)
    (h1 : bits (rx s ra) 63 32 = 0) (h2 : bits (rx s ra) 15 6 = 0) (h3 : bits (rx s rb) 63 56 = 0) : exec (.sethnd rd ra rb g) s =
    .next (if (newEntry (rx s ra) (rx s rb)).w then entrySet rd (bits (rx s ra) 5 0) (newEntry (rx s ra) (rx s rb)) s
      else entryMoves (bits (rx s ra) 5 0) (newEntry (rx s ra) (rx s rb))
        (entrySet rd (bits (rx s ra) 5 0) (newEntry (rx s ra) (rx s rb)) s)) := by
  refine (issueSupv_ready hs h _ : execSethnd rd ra rb g s = _).trans ?_
  rw [if_neg (by simp [h1, h2, h3])]
  rfl

end

section
variable {s : State} {rd ix : Nat} {e : HandlerEntry}

theorem CoreState.wrote_handlers (k : CoreState) (r : Nat) : (k.wrote r).handlers = k.handlers := by
  rw [CoreState.wrote]; split <;> rfl

theorem CoreState.wrote_delivery (k : CoreState) (r : Nat) : (k.wrote r).delivery = k.delivery := by
  rw [CoreState.wrote]; split <;> rfl

theorem CoreState.wrote_unclaimed (k : CoreState) (r : Nat) : (k.wrote r).unclaimed = k.unclaimed := by
  rw [CoreState.wrote]; split <;> rfl

/-- A written register changes nothing that messages look at. -/
theorem me_retX (rd : Nat) (v : Word) (s : State) : (me (retX rd v s)).handlers = (me s).handlers ∧
    (me (retX rd v s)).delivery = (me s).delivery ∧ (me (retX rd v s)).unclaimed = (me s).unclaimed := by
  have hme : me (retX rd v s) = { (me s).wrote rd with t := th (retX rd v s) } := by
    rw [retX, advance, me_updMe, th_updMe, me, wx_cur, wx, core_updCore_same]
    rfl
  rw [hme]
  exact ⟨CoreState.wrote_handlers _ _, CoreState.wrote_delivery _ _, CoreState.wrote_unclaimed _ _⟩

theorem core_retX_other (rd : Nat) (v : Word) {c : Nat} (h : c ≠ s.cur) : core (retX rd v s) c = core s c :=
  core_advance_wx_other s 4 rd c v h

theorem me_entrySet : (me (entrySet rd ix e s)).handlers = mset (me s).handlers ix e ∧
    (me (entrySet rd ix e s)).delivery = (me s).delivery ∧ (me (entrySet rd ix e s)).unclaimed = (me s).unclaimed := by
  obtain ⟨hh, hd, hu⟩ := me_retX rd (oldEntry s ix) (updCore s s.cur (fun k => { k with handlers := mset k.handlers ix e }))
  have hme : me (updCore s s.cur (fun k => { k with handlers := mset k.handlers ix e })) =
    { me s with handlers := mset (me s).handlers ix e } := core_updCore_same s s.cur _
  rw [hme] at hh hd hu
  exact ⟨hh, hd, hu⟩

theorem handler_entrySet_same : handler (entrySet rd ix e s) s.cur ix = e := by
  have hh : (core (entrySet rd ix e s) s.cur).handlers = _ := me_entrySet.1
  rw [handler, hh, mget_mset_same]

theorem handler_entrySet_other {i : Nat} (h : i ≠ ix) : handler (entrySet rd ix e s) s.cur i = handler s s.cur i := by
  have hh : (core (entrySet rd ix e s) s.cur).handlers = _ := me_entrySet.1
  rw [handler, hh, mget_mset_other _ _ _ _ _ h]
  rfl

theorem thr_entrySet_other {c : Nat} (h : c ≠ s.cur) : thr (entrySet rd ix e s) c = thr s c := by
  exact congrArg CoreState.t ((core_retX_other (s := updCore s s.cur (fun k => { k with handlers := mset k.handlers ix e })) rd _ h).trans
    (core_updCore_other _ _ _ _ h))

theorem th_entrySet : th (entrySet rd ix e s) = ((th s).setX rd (oldEntry s ix)).step 4 := by
  have hth : th (updCore s s.cur (fun k => { k with handlers := mset k.handlers ix e })) = th s := thr_updCore rfl s.cur
  rw [entrySet, th_retX, hth]

theorem entrySet_pc : (th (entrySet rd ix e s)).pc = (th (advance 4 s)).pc := by
  rw [th_entrySet, th_advance]
  exact Thread.step_pc_congr (Thread.setX_pc _ _ _) (Thread.setX_loop0 _ _ _) (Thread.setX_loop1 _ _ _) 4

theorem rx_entrySet (h : rd ≠ 0) : rx (entrySet rd ix e s) rd = oldEntry s ix := by
  rw [rx, th_entrySet, Thread.getX_step]
  simp [Thread.getX, Thread.setX, h]

/-- The messages that move on are other cores', and leave this core's thread and handlers alone. -/
theorem stays_entryMoves (h : ∀ m ∈ s.sigs, m.src ≠ s.cur) : Stays s.cur s (entryMoves ix e s) := by
  have hmove (t : State) (ht : t.sigs = s.sigs) : ∀ m ∈ heldMsgs t s.cur ix, m.src ≠ s.cur := fun m hm =>
    h m (ht ▸ List.mem_of_mem_filter hm)
  rw [entryMoves]
  split
  · exact (stays_moveAllParked 8 s).trans (stays_foldl_unholdMsg (hmove _ (moveAllParked_sigs 8 s)) _)
  · exact stays_foldl_unholdMsg (hmove s rfl) s

/-- With no message under way to this core, only the parked ones move. -/
theorem entryMoves_parked (hv : e.v = true) (h : ∀ x ∈ s.sigs, x.dst ≠ s.cur) : entryMoves ix e s = moveAllParked s.cur 8 s := by
  have hnone : heldMsgs (moveAllParked s.cur 8 s) s.cur ix = [] := by
    rw [heldMsgs, moveAllParked_sigs]
    exact List.filter_eq_nil_iff.2 fun x hx => by simp [h x hx]
  rw [entryMoves, if_pos hv, hnone]
  rfl

/-- With nothing parked and one message held for the entry, that message moves on. -/
theorem entryMoves_held {m : Msg} (hu : (me s).unclaimed = []) (hm : heldMsgs s s.cur ix = [m]) : entryMoves ix e s = unholdMsg s m := by
  rw [entryMoves, moveAllParked_none 8 hu, ite_self, hm]
  rfl

end

end Sys2Proof.Machine
end

section
/-! PROOFS. O46: messages are delivered and entered (04 R124, R130 to R134). -/

namespace Sys2Proof.Machine

/-! ## What `sethnd` leaves behind -/

section
variable {s : State} {rd ix : Nat} {e : HandlerEntry} {m : Msg}

theorem entrySet_cur : (entrySet rd ix e s).cur = s.cur := by
  rw [entrySet, retX, advance_cur, wx_cur]
  rfl

theorem entrySet_sigs : (entrySet rd ix e s).sigs = s.sigs := by
  rw [entrySet, retX, advance, updMe, updThr, wx]
  rfl

theorem entrySet_fc : (entrySet rd ix e s).fc = s.fc := by
  rw [entrySet, retX, advance, updMe, updThr, wx]
  rfl

theorem Stays.th {t : State} (h : Stays s.cur s t) : th t = th s := by
  rw [Machine.th, me, h.cur]
  exact h.thr

theorem Stays.handler {c : Nat} {t : State} (h : Stays c s t) (i : Nat) : handler t c i = handler s c i := by
  rw [Machine.handler, h.handlers, Machine.handler]

/-- The thread and the handlers are those that `entrySet` leaves. -/
theorem entrySet_seen {t : State} (h : Stays s.cur (entrySet rd ix e s) t) : (th t).pc = (th (advance 4 s)).pc ∧
    handler t s.cur ix = e ∧ (∀ i, i ≠ ix → handler t s.cur i = handler s s.cur i) ∧ (rd ≠ 0 → rx t rd = oldEntry s ix) := by
  have hth : th t = th (entrySet rd ix e s) := Stays.th (entrySet_cur.symm ▸ h)
  refine ⟨by rw [hth, entrySet_pc], by rw [h.handler, handler_entrySet_same], fun i hi => ?_, fun hrd => ?_⟩
  · rw [h.handler, handler_entrySet_other hi]
  · rw [rx, hth]
    exact rx_entrySet hrd

/-- The one parked message of the entry joins the delivery queue. -/
theorem entrySet_parked (hu : (me s).unclaimed = [m]) (hix : m.index = ix) (hd : m.dst = s.cur) (hq : ∀ x ∈ s.sigs, x.dst ≠ s.cur)
    (hv : e.v = true) (hw : e.w = false) (hs : m.user = false ∨ m.space = e.space) (hroom : (me s).delivery.length < 8) :
    (me (entryMoves ix e (entrySet rd ix e s))).unclaimed = [] ∧
    (me (entryMoves ix e (entrySet rd ix e s))).delivery = (me s).delivery ++ [{ m with entry := e.addr }] := by
  obtain ⟨-, hdel, hunc⟩ := me_entrySet (s := s) (rd := rd) (ix := ix) (e := e)
  have hent : handler (entrySet rd ix e s) s.cur m.index = e := hix ▸ handler_entrySet_same
  rw [me, entrySet_cur] at hdel hunc
  have hmove : entryMoves ix e (entrySet rd ix e s) = moveParked s.cur m (entrySet rd ix e s) := by
    rw [entryMoves_parked hv (by rwa [entrySet_sigs, entrySet_cur]), entrySet_cur]
    exact moveAllParked_one (hunc.trans hu) (by rwa [hdel]) (by rwa [hent]) (by rwa [hent])
  have hcur : (moveParked s.cur m (entrySet rd ix e s)).cur = s.cur :=
    (stays_moveParked (c := s.cur) (d := s.cur)).cur.trans entrySet_cur
  rw [hmove, me, hcur]
  constructor
  · rw [unclaimed_moveParked, hunc, hu, List.erase_cons_head]
  · rw [delivery_moveParked hd (spaceRefused_false.2 (by rwa [hent])), hdel, hent]

theorem joinDelivery_cur : (joinDelivery m s).cur = s.cur := (stays_joinDelivery (c := s.cur)).cur

theorem of_mem_heldMsgs {c : Nat} (h : m ∈ heldMsgs s c ix) : m.dst = c ∧ m.index = ix ∧ m.arrived = true ∧ m.room = false := by
  have hp := List.of_mem_filter h
  simpa only [Bool.and_eq_true, Bool.not_eq_true', beq_iff_eq, and_assoc] using hp

/-- The one message held for an entry is this core's, has arrived and waits for the entry, not for room. -/
theorem held_of_heldMsgs {c : Nat} (hm : heldMsgs s c ix = [m]) : m.dst = c ∧ m.index = ix ∧ m.arrived = true ∧ m.room = false :=
  of_mem_heldMsgs (hm ▸ List.mem_singleton.2 rfl)

/-- The one message held for the entry moves on. -/
theorem entrySet_held (hu : (me s).unclaimed = []) (hm : heldMsgs s s.cur ix = [m]) :
    entryMoves ix e (entrySet rd ix e s) = unholdMsg (entrySet rd ix e s) m := by
  refine entryMoves_held (me_entrySet.2.2.trans hu) ?_
  rw [heldMsgs, entrySet_sigs, entrySet_cur]
  exact hm

theorem unholdMsg_late (hsrc : m.src < 256) (ha : m.arrived = true) (hr : m.room = false) (h : m.at_ + 256 ≤ s.fc) :
    unholdMsg s m = trapCore m.src 0x009 m.target (s.without m) := by
  have hover : holdOverrun s m = true := by simp [holdOverrun, ha, hr, h]
  rw [unholdMsg, hover, if_pos rfl, msgRefused_eq _ hsrc]

theorem unholdMsg_inTime (h : s.fc < m.at_ + 256) : unholdMsg s m = handleMsg m s := by
  have hover : holdOverrun s m = false := by simp [holdOverrun, h]
  rw [unholdMsg, hover, if_neg Bool.false_ne_true]

/-- A held message in time joins the delivery queue of its new entry. -/
theorem entrySet_heldJoins (hm : heldMsgs s s.cur ix = [m]) (hfirst : ∀ x ∈ s.sigs, x.dst = s.cur → x.room = false)
    (hv : e.v = true) (hw : e.w = false) (hsrc : m.src < 256) (hne : m.src ≠ s.cur) (hroom : (me s).delivery.length < 8)
    (hfc : s.fc < m.at_ + 256) (hs : m.user = false ∨ m.space = e.space) :
    (unholdMsg (entrySet rd ix e s) m).sigs = (s.without m).sigs ∧
    (me (unholdMsg (entrySet rd ix e s) m)).delivery = (me s).delivery ++ [{ m with entry := e.addr }] ∧
    thr (unholdMsg (entrySet rd ix e s) m) m.src = (thr s m.src).step 4 := by
  obtain ⟨hd, hix, -, -⟩ := held_of_heldMsgs hm
  obtain ⟨-, hdel, -⟩ := me_entrySet (s := s) (rd := rd) (ix := ix) (e := e)
  rw [me, entrySet_cur, ← hd] at hdel
  have hent : handler (entrySet rd ix e s) m.dst m.index = e := by rw [hd, hix, handler_entrySet_same]
  have hjoin : unholdMsg (entrySet rd ix e s) m = msgAccepted m (joinDelivery m (entrySet rd ix e s)) := by
    rw [unholdMsg_inTime (by rwa [entrySet_fc])]
    exact handleMsg_joins (by rwa [hent]) (by rwa [hent]) (by rwa [hent]) (by rwa [hdel]) (by rwa [entrySet_sigs, hd])
  obtain ⟨hsigs, hdel', hthr⟩ := accepted_joinDelivery (s := entrySet rd ix e s) hsrc
  have hcur : (msgAccepted m (joinDelivery m (entrySet rd ix e s))).cur = m.dst := by
    rw [msgAccepted_cur, joinDelivery_cur, entrySet_cur, hd]
  rw [hjoin, me, hcur]
  exact ⟨hsigs.trans (congrArg _ entrySet_sigs), by rw [hdel', hdel, hent], by rw [hthr, thr_entrySet_other hne]⟩

end

/-! ## O46 -/

/-- Settles O46: `sig_sends` and the rules of `handleMsg` follow a message to its entry, `moveAllParked_one` and
`entrySet_heldJoins` what was parked or held, and `Thread.trap` gives the core as a message or an event enters. -/
theorem messagesAreDeliveredAndEntered : Obligations.MessagesAreDeliveredAndEntered := by
  unfold Obligations.MessagesAreDeliveredAndEntered
  intro gone
  refine ⟨?_, ?_, ?_, ?_, ?_, ?_, ?_, ?_⟩
  · -- `sig`
    intro s ra rb g h ht
    exact ⟨fun ha hd => ⟨_, sigMsg ra rb s, sig_sends h ht ha hd, rfl, rfl, rfl, rfl, rfl, rfl, rfl, rfl, rfl, rfl, rfl,
      by rw [th_await]; rfl, by rw [th_await]; rfl⟩, sig_refused h ht⟩
  · -- a message arrives
    intro s n m h hm ha hsrc
    refine ⟨fun hd hh => ?_, fun h1 h2 => ⟨(drawFree s).2.without m, rfl, rfl, rfl, sigMessageArrival_away hm ha hsrc h1 h2⟩⟩
    subst hh
    rw [sigMessageArrival_here hm ha hd]
    refine ⟨fun hw => ⟨_, rfl, ?_⟩, fun hw hv hroom => ⟨_, rfl, ?_⟩, fun hw hv hfull => ?_, fun hw hv hu hs => ?_, fun hw hv hs =>
      ⟨fun hroom hfirst => ⟨_, rfl, ?_⟩, fun hwait => ⟨_, rfl, ?_⟩⟩⟩
    · rw [handleMsg_held hw ha]
      exact ⟨rfl, rfl⟩
    · rw [handleMsg_parks hw hv hroom]
      exact accepted_park m s hsrc _
    · rw [handleMsg_full hw hv hfull, msgRefused_eq _ hsrc]
      rfl
    · rw [handleMsg_wrongSpace hw hv (spaceRefused_true.2 ⟨hu, hs⟩), msgRefused_eq _ hsrc]
      rfl
    · rw [handleMsg_joins hw hv hs hroom hfirst]
      exact accepted_joinDelivery hsrc
    · rw [handleMsg_waits hw hv ha hs hwait]
      exact ⟨rfl, rfl⟩
  · -- waits for an entry and for room
    intro s m c hsrc
    refine ⟨sigHoldTimeout_refuses hsrc, fun hu => ⟨fun hm hroom => ⟨_, sigQueueEntry_joins hu hm hroom, ?_⟩, fun hfull hm =>
      sigQueueEntry_refuses hu hfull hsrc hm⟩⟩
    have hd : m.dst = c := by
      have hp := List.find?_some hm
      simp only [Bool.and_eq_true, beq_iff_eq] at hp
      exact hp.1
    subst hd
    exact accepted_joinDelivery hsrc
  · -- no held message has waited too long
    exact fun s c h => sigHoldTimeout_waits h
  · -- the parked message moves
    intro s c m hu hd hfirst hroom hv hw
    refine ⟨_, sigQueueEntry_moves hfirst, ?_⟩
    rw [moveAllParked_one hu hroom hv hw]
    exact ⟨by rw [unclaimed_moveParked, hu, List.erase_cons_head], moveParked_sigs m s,
      fun hs => delivery_moveParked hd (spaceRefused_false.2 hs), fun huser hs => dropped_moveParked (spaceRefused_true.2 ⟨huser, hs⟩)⟩
  · -- the head of the delivery queue enters
    intro s c m rest hq
    refine ⟨msgDelivery_closed, fun h _ => ?_⟩
    obtain ⟨t, hexec, ht⟩ := msgDelivery_enters hq h
    refine ⟨t, hexec, ?_⟩
    rw [thr, ht]
    exact ⟨rfl, rfl, rfl, rfl, rfl, rfl, rfl, rfl⟩
  · -- the oldest event enters
    intro s c e rest hq
    refine ⟨asyncEventEntry_closed, fun h _ => ?_⟩
    obtain ⟨t, hexec, ht⟩ := asyncEventEntry_enters hq h
    refine ⟨t, hexec, ?_⟩
    rw [thr, ht]
    exact ⟨rfl, rfl, rfl, rfl, rfl, rfl, rfl, rfl, rfl⟩
  · -- `sethnd`
    intro s rd ra rb g ix e h hs hix he
    refine ⟨sethnd_reserved h hs, fun h1 h2 h3 => ?_⟩
    have hsets : exec (.sethnd rd ra rb g) s = .next (if e.w then entrySet rd ix e s else entryMoves ix e (entrySet rd ix e s)) := by
      rw [sethnd_sets h hs h1 h2 h3, hix, he]
      rfl
    rw [hsets]
    refine ⟨fun hw => ?_, fun hq => ⟨_, rfl, entrySet_seen ?_⟩, fun m hu hi hd hq hv hw hsp hroom => ⟨_, rfl, ?_⟩,
      fun m hu hm hfirst hv hw hsrc hne hroom => ⟨fun hfc hsp => ⟨_, rfl, ?_⟩, fun hfc =>
        ⟨(entrySet rd ix e s).without m, ?_, congrArg (List.filter _) entrySet_sigs, thr_entrySet_other hne⟩⟩⟩
    · rw [if_pos hw]
      rfl
    · split
      · exact Stays.refl _ _
      · have hmoves := stays_entryMoves (s := entrySet rd ix e s) (ix := ix) (e := e) (by rwa [entrySet_sigs, entrySet_cur])
        rwa [entrySet_cur] at hmoves
    · rw [hw, if_neg Bool.false_ne_true]
      exact entrySet_parked hu hi hd hq hv hw hsp hroom
    · rw [hw, if_neg Bool.false_ne_true, entrySet_held hu hm]
      exact entrySet_heldJoins hm hfirst hv hw hsrc hne hroom hfc hsp
    · obtain ⟨-, -, harr, hr⟩ := held_of_heldMsgs hm
      rw [hw, if_neg Bool.false_ne_true, entrySet_held hu hm, unholdMsg_late hsrc harr hr (by rwa [entrySet_fc])]

end Sys2Proof.Machine
end

section
/-! PROOFS. What keeps the canonical form of memory (`memOk`), for each kind of result that a meaning has. -/

namespace Sys2Proof.Machine

/- The proofs of this part are many: elaborated side by side they need more memory than the check has. -/
set_option Elab.async false

/-- The three memories of every state that a result carries are canonical. -/
def OutOk : Out → Prop
  | .next t => memOk t
  | _ => True

def OptOk : Option State → Prop
  | some t => memOk t
  | none => True

def ExcOk {ε : Type} : Except ε State → Prop
  | .ok t => memOk t
  | .error _ => True

def OptPairOk {α : Type} : Option (α × State) → Prop
  | some x => memOk x.2
  | none => True

def TxAccOk : TxAcc → Prop
  | .held t => memOk t
  | .wait t => memOk t

def RunOk : Run → Prop
  | .over _ _ _ t => memOk t
  | .wait _ => True

def PlayOk : Play → Prop
  | .go t => memOk t
  | .stop _ _ t => memOk t
  | .wait _ => True

def EnqOk : Enq → Prop
  | .queued t => memOk t
  | _ => True

def NodeStepOk : NodeStep → Prop
  | .go t => memOk t
  | _ => True

/-- What an instruction with a completion object sends keeps them too. -/
def IssueOk : Issue × State → Prop
  | (.send f, t) => memOk t ∧ ∀ u, memOk u → memOk (f u)
  | (_, t) => memOk t

def CoreTurnOk : CoreTurn → Prop
  | .rest t => memOk t
  | .run _ t => memOk t

section
variable {s t : State}

theorem memOk_of_snd {α : Type} {p : α × State} {a : α} (e : p = (a, t)) (h : memOk p.2) : memOk t := by rw [e] at h; exact h

theorem memOk_of_snd2 {α β : Type} {p : α × β × State} {a : α} {b : β} (e : p = (a, b, t)) (h : memOk p.2.2) : memOk t := by
  rw [e] at h; exact h

theorem memOk_of_some {o : Option State} (e : o = some t) (h : OptOk o) : memOk t := by rw [e] at h; exact h

theorem memOk_of_somePair {α : Type} {a : α} {o : Option (α × State)} (e : o = some (a, t)) (h : OptPairOk o) : memOk t := by
  rw [e] at h; exact h

theorem memOk_of_ok {ε : Type} {o : Except ε State} (e : o = .ok t) (h : ExcOk o) : memOk t := by rw [e] at h; exact h

theorem memOk_of_next {o : Out} (e : o = .next t) (h : OutOk o) : memOk t := by rw [e] at h; exact h

theorem TxAccOk.of_held {o : TxAcc} (e : o = .held t) (h : TxAccOk o) : memOk t := by rw [e] at h; exact h

theorem TxAccOk.of_wait {o : TxAcc} (e : o = .wait t) (h : TxAccOk o) : memOk t := by rw [e] at h; exact h

theorem EnqOk.of_queued {o : Enq} (e : o = .queued t) (h : EnqOk o) : memOk t := by rw [e] at h; exact h

theorem NodeStepOk.of_go {o : NodeStep} (e : o = .go t) (h : NodeStepOk o) : memOk t := by rw [e] at h; exact h

theorem RunOk.of_over {o : Run} {n far : Nat} {c : Option (BitVec 10)} (e : o = .over n far c t) (h : RunOk o) : memOk t := by
  rw [e] at h; exact h

theorem PlayOk.of_go {o : Play} (e : o = .go t) (h : PlayOk o) : memOk t := by rw [e] at h; exact h

theorem PlayOk.of_stop {o : Play} {c : BitVec 10} {a : Nat} (e : o = .stop c a t) (h : PlayOk o) : memOk t := by rw [e] at h; exact h

theorem CoreTurnOk.of_rest {o : CoreTurn} (e : o = .rest t) (h : CoreTurnOk o) : memOk t := by rw [e] at h; exact h

theorem CoreTurnOk.of_run {o : CoreTurn} {i : Instr} (e : o = .run i t) (h : CoreTurnOk o) : memOk t := by rw [e] at h; exact h

/-- An update of any other field keeps the memories. -/
theorem memOk_with {fc ns nsRem ceiling device cur : Nat} {agenda : List Turn} {freeIx : Nat} {cores : SMap CoreState} {tid : SMap
    (List Word)} {tagq : List TagWait} {reqs : List Req} {sigs : List Msg} {icinv : List (Nat × Nat × Option Nat)} {quarters : SMap
    Quarter} {pins : List (List Word)} {hub : SMap Word} {elems : SMap Elem} {switches : SMap Switch} {allot : List (Nat × Nat × Nat)}
    {districts : SMap District} {nextInv nextThread nextId : Nat} {engines : List Engine} {bins : List BinApp} {locks : List LockRec}
    {lockq : List LockWait} {wounds : List Wound} {dying : List Dying} {weak : List (Upset × Bool)} {cmat : SMap (Nat × Nat)} {lmWounds
    : BitVec 32} {lmEscal lmRevokes : BitVec 16} {queues : SMap Queue} {gangs : List Gang} {decrs : List Decr} {recWait : List QRec}
    {walks : List Walk} {saved : List SavedTask} {pwaitBusy : Option Nat} {rankFirst : Option (Nat × Nat × Nat)} {gc : ClockGroup}
    {links : SMap Link} {members : List Nat} {ids : SMap Nat} {farDown : List (Nat × Nat)} {memberAt : List (Nat × Nat × Bool)} {power
    : Power} {packets : List Packet} {peerSeq : SMap Nat} {trust : Trust} (h : memOk s) :
    memOk ⟨fc, ns, nsRem, ceiling, device, cur, agenda, freeIx, cores, s.dev, s.loc, s.spad, tid, tagq, reqs, sigs, icinv, quarters,
    pins, hub, elems, switches, allot, districts, nextInv, nextThread, nextId, engines, bins, locks, lockq, wounds, dying, weak, cmat,
    lmWounds, lmEscal, lmRevokes, queues, gangs, decrs, recWait, walks, saved, pwaitBusy, rankFirst, gc, links, members, ids, farDown,
    memberAt, power, packets, peerSeq, trust⟩ := h

theorem ite_memOk {c : Prop} [Decidable c] (hs : memOk s) (ht : memOk t) : memOk (if c then s else t) := by
  split
  · exact hs
  · exact ht

theorem foldl_memOk {α : Type} {f : State → α → State} {l : List α} (h : memOk s) (hf : ∀ s x, memOk s → memOk (f s x)) :
    memOk (l.foldl f s) :=
  List.foldlRecOn (motive := memOk) l f h fun _ h x _ => hf _ x h

theorem foldr_memOk {α : Type} {f : α → State → State} {l : List α} (h : memOk s) (hf : ∀ s x, memOk s → memOk (f x s)) :
    memOk (l.foldr f s) :=
  List.foldrRecOn (motive := memOk) l f h fun _ h x _ => hf _ x h

theorem foldl_snd_memOk {α β : Type} {f : β × State → α → β × State} {l : List α} {p : β × State} (h : memOk p.2)
    (hf : ∀ p x, memOk p.2 → memOk (f p x).2) : memOk (l.foldl f p).2 :=
  List.foldlRecOn (motive := fun p => memOk p.2) l f h fun _ h x _ => hf _ x h

theorem Keeps.memOk (k : Keeps s t) (h : memOk s) : memOk t := by
  obtain ⟨h1, h2, h3⟩ := h
  exact ⟨k.dev ▸ h1, k.loc ▸ h2, k.spad ▸ h3⟩

end

end Sys2Proof.Machine
end

section
/-! PROOFS. Each function of the model that answers a state keeps the canonical form of the three memories: one lemma
per function, in the order in which they call one another, up to the meanings of the instructions and machine events. -/

namespace Sys2Proof.Machine

/- The proofs of this part are many: elaborated side by side they need more memory than the check has. -/
set_option Elab.async false

theorem updDist_memOk {s : State} {d : Nat} {f : District → District} (h : memOk s) : memOk (updDist s d f) := by
  unfold updDist
  split
  · exact memOk_with h
  · exact h

theorem execContextCounterAdvance_memOk {d : Nat} {s : State} (h : memOk s) : OutOk (execContextCounterAdvance d s) := by
  unfold execContextCounterAdvance
  split
  · exact h
  · split
    · exact h
    · exact updDist_memOk h

theorem updQuarter_memOk {s : State} {q : Nat} {f : Quarter → Quarter} (h : memOk s) : memOk (updQuarter s q f) :=
  memOk_with h

theorem sendReq_memOk {r : Req} {s : State} (h : memOk s) : memOk (sendReq r s) := by
  unfold sendReq
  split
  · exact memOk_with h
  · split
    · exact memOk_with h
    · split
      · exact updQuarter_memOk h
      · exact memOk_with (updQuarter_memOk h)

theorem hostByte_memOk {a : Nat} {b : Byte} {s : State} (h : memOk s) : memOk (hostByte a b s) := by
  unfold hostByte
  split
  · exact sendReq_memOk h
  · exact placeWrite_memOk _ _ _ h

theorem hostBytes_memOk {a : Nat} {bs : List Byte} {s : State} (h : memOk s) : memOk (hostBytes a bs s) := by
  induction bs generalizing a s with
  | nil => exact h
  | cons b l ih => exact ih (hostByte_memOk h)

theorem execBar2MemoryWrite_memOk {port ofs : Nat} {bytes : List Nat} {s : State} (h : memOk s) : OutOk (execBar2MemoryWrite port ofs bytes
    s) := by
  unfold execBar2MemoryWrite
  split
  · exact hostBytes_memOk h
  · exact h

theorem updLink_memOk {j : Nat} {f : Link → Link} {s : State} (h : memOk s) : memOk (updLink j f s) :=
  memOk_with h

theorem takeNumber_memOk {s : State} (h : memOk s) : memOk (takeNumber s) := by
  unfold takeNumber
  split
  · exact memOk_with h
  · exact h

theorem setCore_memOk {s : State} {c : Nat} {k : CoreState} (h : memOk s) : memOk (setCore s c k) :=
  memOk_with h

theorem updCore_memOk {s : State} {c : Nat} {f : CoreState → CoreState} (h : memOk s) : memOk (updCore s c f) :=
  setCore_memOk h

theorem raise_memOk {c : Nat} {code : BitVec 10} {tval iter : Word} {s : State} (h : memOk s) : memOk (raise c code tval iter s) :=
  updCore_memOk h

theorem hostEvent_memOk {m : BitVec 16} {s : State} (h : memOk s) : memOk (hostEvent m s) :=
  memOk_with h

theorem badAcc_memOk {port : Nat} {s : State} (h : memOk s) : memOk (badAcc port s) := by
  unfold badAcc
  split
  · exact hostEvent_memOk h
  · exact h

theorem refuseCmd_memOk {port : Nat} {v : Word} {s : State} (h : memOk s) : memOk (refuseCmd port v s) := by
  unfold refuseCmd
  split
  · exact badAcc_memOk h
  · split
    · exact h
    · exact raise_memOk h

theorem linkCmd_memOk {port : Nat} {v : Word} {s : State} (h : memOk s) : memOk (linkCmd port v s) := by
  unfold linkCmd
  dsimp only
  split
  · exact h
  · split
    · exact refuseCmd_memOk h
    · split
      · exact updLink_memOk h
      · split
        · exact refuseCmd_memOk h
        · split <;> exact updLink_memOk h

theorem releaseCmds_memOk {l : Nat} {s : State} (h : memOk s) : memOk (releaseCmds l s) := by
  unfold releaseCmds
  split
  · exact foldl_memOk (updLink_memOk h) fun _ _ hs => linkCmd_memOk hs
  · exact h

theorem execRetrainingEnd_memOk {d : LinkSide} {s : State} (h : memOk s) : OutOk (execRetrainingEnd d s) := by
  unfold execRetrainingEnd
  split
  · exact releaseCmds_memOk (takeNumber_memOk (updLink_memOk h))
  · exact h

theorem updTrust_memOk {f : Trust → Trust} {s : State} (h : memOk s) : memOk (updTrust f s) :=
  memOk_with h

theorem setBusy_memOk {p : Nat} {b : Bool} {s : State} (h : memOk s) : memOk (setBusy p b s) :=
  updTrust_memOk h

theorem execAttestComplete_memOk {port : Nat} {s : State} (h : memOk s) : OutOk (execAttestComplete port s) := by
  unfold execAttestComplete
  split
  · exact setBusy_memOk (updTrust_memOk h)
  · exact h

theorem releaseCores_memOk {entry : Nat} {s : State} (h : memOk s) : memOk (releaseCores entry s) :=
  foldl_memOk h fun _ _ hs => updCore_memOk hs

theorem acceptImage_memOk {h body : List Byte} {s : State} (hm : memOk s) : memOk (acceptImage h body s) := by
  unfold acceptImage
  dsimp only
  split
  · exact hostEvent_memOk (updTrust_memOk hm)
  · exact releaseCores_memOk (updTrust_memOk (placeWrite_memOk _ _ _ hm))

theorem loadImage_memOk {s : State} (h : memOk s) : memOk (loadImage s) :=
  acceptImage_memOk h

theorem secCommand_memOk {writer cmd p : Nat} {s : State} (h : memOk s) : memOk (secCommand writer cmd p s) := by
  unfold secCommand
  split
  · exact h
  · split
    · exact hostEvent_memOk h
    · split
      · split
        · exact h
        · exact setBusy_memOk h
      · split
        · exact loadImage_memOk h
        · exact h

theorem execAttest_memOk {port : Nat} {s : State} (h : memOk s) : OutOk (execAttest port s) := by
  unfold execAttest
  split
  · exact secCommand_memOk h
  · exact h

theorem execLoadFirmware_memOk {c : SecWrite} {s : State} (h : memOk s) : OutOk (execLoadFirmware c s) :=
  secCommand_memOk h

theorem execDeviceReset_memOk {s : State} : OutOk (execDeviceReset s) :=
  show memOk (acceptImage _ _ _) from acceptImage_memOk memOk_reset

theorem raise0_memOk {code : BitVec 10} {tval : Nat} {s : State} (h : memOk s) : memOk (raise0 code tval s) :=
  raise_memOk h

theorem raiseThread_memOk {t : Nat} {code : BitVec 10} {tval iter : Word} {s : State} (h : memOk s) : memOk (raiseThread t code tval iter
    s) := by
  unfold raiseThread
  split
  · exact raise_memOk h
  · exact memOk_with h

theorem enterTrap_memOk {c : Nat} {async : Bool} {code : BitVec 10} {tval iter : Word} {s : State} (h : memOk s) : memOk (enterTrap c async
    code tval iter s) :=
  updCore_memOk h

theorem doubleFault_memOk {c : Nat} {code : BitVec 10} {tval : Word} {s : State} (h : memOk s) : memOk (doubleFault c code tval s) := by
  unfold doubleFault
  dsimp only
  refine hostEvent_memOk ?_
  split
  · exact updCore_memOk h
  · exact raise_memOk (updCore_memOk h)

theorem trapCore_memOk {c : Nat} {code : BitVec 10} {tval : Word} {s : State} (h : memOk s) : memOk (trapCore c code tval s) := by
  unfold trapCore
  split
  · exact doubleFault_memOk h
  · exact enterTrap_memOk h

theorem atomicLost_memOk {r : Req} {node : Nat} {s : State} (h : memOk s) : memOk (atomicLost r node s) := by
  unfold atomicLost
  split
  · exact trapCore_memOk h
  · exact raiseThread_memOk h

theorem failAtomic_memOk {n : Nat} {r : Req} {node : Nat} {s : State} (h : memOk s) : memOk (failAtomic n r node s) :=
  atomicLost_memOk (memOk_with h)

theorem settleMarks_memOk {m : Moved} {s : State} (h : memOk s) : memOk (settleMarks m s) :=
  foldl_memOk (foldl_memOk h fun _ _ hs => markPlace_memOk _ _ hs) fun _ _ hs1 => markPlace_memOk _ _ hs1

theorem lookup_memOk {s : State} {w : Who} {va : Nat} (h : memOk s) : memOk (lookup s w va).2 := (lookup_keeps s w va).memOk h

theorem xlate_memOk {s : State} {w : Who} {va : Nat} {n : Need} {count : Bool} (h : memOk s) : memOk (xlate s w va n count).2 :=
  (xlate_keeps s w va n count).memOk h

theorem ownerPlace_memOk {s : State} {o : Owner} {va : Nat} {n : Need} (h : memOk s) : memOk (ownerPlace s o va n).2 := by
  unfold ownerPlace
  split
  · exact xlate_memOk h
  · exact h
  · exact h

theorem cplWrite_memOk {o : Owner} {xc : Word} {ws : List W32} {full : Bool} {s : State} (h : memOk s) : memOk (cplWrite o xc ws full s) :=
    by
  unfold cplWrite
  split
  · next e => exact memOk_of_snd e (ownerPlace_memOk h)
  · next e =>
    split
    · exact sendReq_memOk (memOk_of_snd e (ownerPlace_memOk h))
    · exact placeSetTag_memOk _ _ (placeWrite_memOk _ _ _ (memOk_of_snd e (ownerPlace_memOk h)))

theorem setCpl_memOk {o : Owner} {xc : Word} {status d1 d2 d3 : Nat} {s : State} (h : memOk s) : memOk (setCpl o xc status d1 d2 d3 s) :=
  cplWrite_memOk h

theorem endEngine_memOk {e : Engine} {state cause d1 addr : Nat} {s : State} (h : memOk s) : memOk (endEngine e state cause d1 addr s) :=
  memOk_with (setCpl_memOk h)

theorem meetFrozen_memOk {who : Party} {p : Place} {s : State} (h : memOk s) : memOk (meetFrozen who p s) := by
  unfold meetFrozen
  split
  · exact h
  · split
    · exact h
    · split
      · exact h
      · split <;> exact updQuarter_memOk h

theorem meetAt_memOk {who : Party} {p : Option Place} {s : State} (h : memOk s) : memOk (meetAt who p s) := by
  unfold meetAt
  split
  · exact meetFrozen_memOk h
  · exact h

theorem lcPut_memOk {q k : Nat} {l : MLine} {s : State} (h : memOk s) : memOk (lcPut q k l s) := by
  unfold lcPut
  split
  · exact updQuarter_memOk h
  · exact updQuarter_memOk (memOk_with h)

theorem lcStoreByte_memOk {p : Place} {b : Byte} {pois : Bool} {s : State} (h : memOk s) : memOk (lcStoreByte p b pois s) := by
  unfold lcStoreByte
  split
  · exact lcPut_memOk h
  · exact h

theorem logSpadAt_memOk {wave : Option Nat} {p : Place} {n : Nat} {s : State} (h : memOk s) : memOk (logSpadAt wave p n s) := by
  unfold logSpadAt
  split
  · split
    · exact h
    · split
      · exact h
      · split
        · exact h
        · exact updDist_memOk h
  · exact h

theorem logSpad_memOk {p : Place} {n : Nat} {s : State} (h : memOk s) : memOk (logSpad p n s) :=
  logSpadAt_memOk h

theorem engPlace_memOk {o : Owner} {rect : Option Rect} {va : Nat} {n : Need} {count : Bool} {s : State} (h : memOk s) : memOk (engPlace o
    rect va n count s).2 := by
  unfold engPlace
  split
  · split
    · next e => exact memOk_of_snd e (xlate_memOk h)
    · exact xlate_memOk h
  · split
    · exact h
    · split <;> exact h
  · exact h
  · exact h

theorem engPut_memOk {o : Owner} {rect : Option Rect} {i va : Nat} {b : Byte} {pois : Bool} {s : State} (h : memOk s) : memOk (engPut o
    rect i va b pois s).2 := by
  unfold engPut
  split
  · next e => exact memOk_of_snd e (engPlace_memOk h)
  · next e =>
    split
    · exact memOk_of_snd e (engPlace_memOk h)
    · dsimp only
      split
      · refine lcStoreByte_memOk ?_
        split
        · split
          · exact logSpad_memOk (memOk_of_snd e (engPlace_memOk h))
          · exact memOk_of_snd e (engPlace_memOk h)
        · exact memOk_of_snd e (engPlace_memOk h)
      · refine placeWrite_memOk _ _ _ ?_
        split
        · split
          · exact logSpad_memOk (memOk_of_snd e (engPlace_memOk h))
          · exact memOk_of_snd e (engPlace_memOk h)
        · exact memOk_of_snd e (engPlace_memOk h)

theorem engByte_memOk {o : Owner} {rect : Option Rect} {i : Nat} {x : Option Nat} {s : State} (h : memOk s) : memOk (engByte o rect i x
    s).2 := by
  unfold engByte
  split
  · exact memOk_with h
  · split
    · next e => exact memOk_of_snd e (engPlace_memOk h)
    · next e =>
      split
      · exact memOk_of_snd e (engPlace_memOk h)
      · split
        · split
          · exact memOk_of_snd e (engPlace_memOk h)
          · exact memOk_with (memOk_of_snd e (engPlace_memOk h))
        · exact memOk_of_snd e (engPlace_memOk h)

theorem gwBind_memOk {α β : Type} {r : Gw α × State} {f : α → State → Gw β × State} (h : memOk r.2) (hf : ∀ x0 t1, memOk t1 → memOk (f x0
    t1).2) : memOk (gwBind r f).2 := by
  unfold gwBind
  split
  · exact hf _ _ h
  · exact h
  · exact h

theorem moveByte_memOk {o : Owner} {rect : Option Rect} {i : Nat} {src dst : Option Nat} {s : State} (h : memOk s) : memOk (moveByte o rect
    i src dst s).2 := by
  unfold moveByte
  refine gwBind_memOk (engByte_memOk h) (fun x s hs => ?_)
  split
  · exact hs
  · exact gwBind_memOk (engPut_memOk hs) (fun _ _ hs1 => hs1)

theorem moveBytes_memOk {o : Owner} {rect : Option Rect} {src dst : Side} {k j : Nat} {m : Moved} {s : State} (h : memOk s) : memOk
    (moveBytes o rect src dst k j m s).2 := by
  induction k generalizing j m s with
  | zero => exact h
  | succ n ih =>
    unfold moveBytes
    split
    · next e => exact memOk_of_snd e (moveByte_memOk h)
    · next e => exact memOk_of_snd e (moveByte_memOk h)
    · next e => exact ih (memOk_of_snd e (moveByte_memOk h))

theorem drawFree_memOk {s : State} (h : memOk s) : memOk (drawFree s).2 :=
  memOk_with h

theorem freeBelow_memOk {n : Nat} {s : State} (h : memOk s) : memOk (freeBelow n s).2 :=
  drawFree_memOk h

/-- What a stopped engine has moved is open, unless it waits behind another. -/
theorem freeUnless_memOk {b : Bool} {n : Nat} {s : State} (h : memOk s) : memOk (if b then (0, s) else freeBelow n s).2 := by
  split
  · exact h
  · exact freeBelow_memOk h

theorem failEngine_memOk {e : Engine} {s : State} (h : memOk s) : memOk (failEngine e s) := by
  unfold failEngine
  exact ite_memOk (meetAt_memOk h) (endEngine_memOk (settleMarks_memOk (moveBytes_memOk (freeUnless_memOk h))))

theorem failPacket_memOk {p : Packet} {s : State} (h : memOk s) : memOk (failPacket p s) := by
  unfold failPacket
  split
  · split
    · exact failEngine_memOk h
    · exact h
  · split
    · exact h
    · split
      · exact failAtomic_memOk h
      · exact h

theorem execScaleoutRetransmit_memOk {n : Nat} {s : State} (h : memOk s) : OutOk (execScaleoutRetransmit n s) := by
  unfold execScaleoutRetransmit
  split
  · exact h
  · dsimp only
    split
    · exact h
    · split
      · exact memOk_with h
      · split
        · exact memOk_with (failPacket_memOk (memOk_with h))
        · exact raise0_memOk (failPacket_memOk (memOk_with h))

theorem posted_memOk {r : Req} {x : Option Nat × State} (h : memOk x.2) : memOk (posted r x) := by
  unfold posted
  split
  · exact h
  · exact raiseThread_memOk h

theorem wxCore_memOk {c i : Nat} {v : Word} {s : State} (h : memOk s) : memOk (wxCore c i v s) :=
  updCore_memOk h

theorem updThr_memOk {s : State} {c : Nat} {f : Thread → Thread} (h : memOk s) : memOk (updThr s c f) :=
  updCore_memOk h

theorem advanceCore_memOk {c len : Nat} {s : State} (h : memOk s) : memOk (advanceCore c len s) :=
  updThr_memOk h

theorem amoReply_memOk {c : Nat} {r : Except (BitVec 10) Nat} {s : State} (h : memOk s) : memOk (amoReply c r s) := by
  unfold amoReply
  dsimp only
  split
  · split
    · exact advanceCore_memOk (wxCore_memOk h)
    · exact trapCore_memOk h
  · split
    · exact advanceCore_memOk (wxCore_memOk h)
    · exact trapCore_memOk h
  · exact h

theorem amoComplete_memOk {c : Nat} {old : Option Nat} {s : State} (h : memOk s) : memOk (amoComplete c old s) :=
  amoReply_memOk h

theorem amoPerform_memOk {fn w b expect : Nat} {p : Place} {s : State} (h : memOk s) : memOk (amoPerform fn w b expect p s).2 := by
  unfold amoPerform
  split
  · exact h
  · dsimp only
    split
    · exact h
    · exact placeWrite_memOk _ _ _ h

theorem vaddPerform_memOk {fl : Bool} {p : Place} {vs : List W32} {s : State} (h : memOk s) : OptOk (vaddPerform fl p vs s) := by
  unfold vaddPerform
  split
  · exact trivial
  · exact foldl_memOk h fun _ _ hs => placeWrite_memOk _ _ _ hs

theorem snapClear_memOk {p : Place} {s : State} (h : memOk s) : memOk (snapClear p s) :=
  placeWrite_memOk _ _ _ h

theorem snapWrite_memOk {q : Place} {cs : List W32} {s : State} (h : memOk s) : memOk (snapWrite q cs s) :=
  placeWrite_memOk _ _ _ h

theorem lcEach_memOk {f : SMap MLine → SMap MLine} {s : State} (h : memOk s) : memOk (lcEach f s) :=
  memOk_with h

theorem lcWriteBack_memOk {p : Nat → Bool} {s : State} (h : memOk s) : memOk (lcWriteBack p s) :=
  lcEach_memOk h

theorem lcInvalidate_memOk {p : Nat → Bool} {s : State} (h : memOk s) : memOk (lcInvalidate p s) :=
  lcEach_memOk h

theorem lcDrop_memOk {p : Place} {n : Nat} {s : State} (h : memOk s) : memOk (lcDrop p n s) :=
  lcInvalidate_memOk (lcWriteBack_memOk h)

theorem snapSend_memOk {c rd b : Nat} {q : Place} {cs : List W32} {s : State} (h : memOk s) : memOk (snapSend c rd b q cs s) := by
  unfold snapSend
  refine sendReq_memOk ?_
  split
  · exact lcDrop_memOk h
  · exact h

theorem bytePlace_memOk {s : State} {c va : Nat} {n : Need} {count : Bool} (h : memOk s) : memOk (bytePlace s c va n count).2 :=
  (bytePlace_keeps s c va n count).memOk h

theorem access_memOk {s : State} {c va w : Nat} {n : Need} {strict : Bool} (h : memOk s) : memOk (access s c va w n strict).2 :=
  (access_keeps s c va w n strict).memOk h

theorem snapFinish_memOk {c : Nat} {cs : List W32} {s : State} (h : memOk s) : memOk (snapFinish c cs s) := by
  unfold snapFinish
  split
  · split
    · next e =>
      dsimp only
      split
      · split
        · exact snapSend_memOk (memOk_of_snd e (access_memOk h))
        · exact advanceCore_memOk (wxCore_memOk (snapWrite_memOk (memOk_of_snd e (access_memOk h))))
      · split
        · exact snapSend_memOk (memOk_of_snd e (access_memOk h))
        · exact advanceCore_memOk (wxCore_memOk (snapWrite_memOk (memOk_of_snd e (access_memOk h))))
  · exact h

theorem performAmo_memOk {r : Req} {p : Place} {s : State} (h : memOk s) : memOk (performAmo r p s) := by
  unfold performAmo
  split
  · split
    · exact trapCore_memOk h
    · exact snapFinish_memOk (snapClear_memOk h)
  · split
    · split
      · next e => exact memOk_of_some e (vaddPerform_memOk h)
      · exact raiseThread_memOk h
    · dsimp only
      split
      · exact amoComplete_memOk (amoPerform_memOk h)
      · exact posted_memOk (amoPerform_memOk h)

theorem sendPeer_memOk {r : Req} {s : State} (h : memOk s) : memOk (sendPeer r s) := by
  unfold sendPeer
  split
  · exact h
  · split
    · exact h
    · split
      · exact sendReq_memOk h
      · exact updQuarter_memOk h

theorem peerAtomic_memOk {fn w pa : Nat} {b expect : Word} {ws : List W32} {s : State} (h : memOk s) : memOk (peerAtomic fn w pa b expect
    ws s) := by
  unfold peerAtomic
  dsimp only
  split
  · split
    · exact h
    · split
      · exact sendPeer_memOk h
      · exact performAmo_memOk h
  · split
    · exact h
    · split
      · exact sendPeer_memOk h
      · exact performAmo_memOk h

theorem peerStore_memOk {pa : Nat} {bytes : List Byte} {s : State} (h : memOk s) : memOk (peerStore pa bytes s) := by
  unfold peerStore
  split
  · exact h
  · split
    · exact sendPeer_memOk h
    · exact placeWrite_memOk _ _ _ h

theorem packetEffect_memOk {o : PacketOp} {s : State} (h : memOk s) : memOk (packetEffect o s) := by
  unfold packetEffect
  split
  · exact peerStore_memOk h
  · exact peerAtomic_memOk h
  · exact h

theorem execScaleoutPacketReceive_memOk {node : Nat} {h : PacketHead} {o : PacketOp} {s : State} (hm : memOk s) : OutOk
    (execScaleoutPacketReceive node h o s) := by
  unfold execScaleoutPacketReceive
  split
  · dsimp only
    split
    · exact packetEffect_memOk (memOk_with hm)
    · exact memOk_with hm
  · exact hm

theorem execOwnerStale_memOk {s : State} (h : memOk s) : OutOk (execOwnerStale s) := by
  unfold execOwnerStale
  split
  · exact updTrust_memOk h
  · exact h

theorem beat_memOk {port : Nat} {s : State} (h : memOk s) : memOk (beat port s) := by
  unfold beat
  split
  · exact updTrust_memOk h
  · exact h

theorem execOwnerHeartbeat_memOk {port : Nat} {s : State} (h : memOk s) : OutOk (execOwnerHeartbeat port s) :=
  beat_memOk h

theorem casWrite_memOk {port : Nat} {v : Word} {s : State} (h : memOk s) : memOk (casWrite port v s) := by
  unfold casWrite
  dsimp only
  split
  · exact hostEvent_memOk (raise0_memOk (updTrust_memOk h))
  · exact h

theorem execOwnerCas_memOk {port v : Nat} {s : State} (h : memOk s) : OutOk (execOwnerCas port v s) :=
  casWrite_memOk h

theorem dueMember_memOk {tm dev : Nat} {entry : Bool} {s : State} (h : memOk s) : memOk (dueMember tm dev entry s) :=
  memOk_with h

theorem execDomainJoin_memOk {dev : Nat} {e : Entry} {s : State} (h : memOk s) : OutOk (execDomainJoin dev e s) := by
  unfold execDomainJoin
  split
  · exact h
  · refine dueMember_memOk ?_
    split
    · exact takeNumber_memOk h
    · exact memOk_with h

theorem updGc_memOk {f : ClockGroup → ClockGroup} {s : State} (h : memOk s) : memOk (updGc f s) :=
  memOk_with h

theorem updMember_memOk {id : Nat} {f : Member → Member} {s : State} (h : memOk s) : memOk (updMember id f s) := by
  unfold updMember
  split
  · exact h
  · exact updGc_memOk h

theorem declareSilent_memOk {id : Nat} {s : State} (h : memOk s) : memOk (declareSilent id s) :=
  raise0_memOk (updGc_memOk (updMember_memOk h))

theorem silenceDevice_memOk {dev : Nat} {s : State} (h : memOk s) : memOk (silenceDevice dev s) := by
  unfold silenceDevice
  split
  · exact foldl_memOk h fun _ _ hs => declareSilent_memOk hs
  · exact h

theorem execDeviceDeparture_memOk {dev : Nat} {s : State} (h : memOk s) : OutOk (execDeviceDeparture dev s) := by
  unfold execDeviceDeparture
  dsimp only
  split
  · split
    · exact silenceDevice_memOk (dueMember_memOk h)
    · exact h
  · split
    · exact silenceDevice_memOk (dueMember_memOk h)
    · exact h

theorem noteCap_memOk {s : State} (h : memOk s) : memOk (noteCap s) :=
  memOk_with h

theorem setElem_memOk {s : State} {e : Nat} {v : Elem} (h : memOk s) : memOk (setElem s e v) :=
  memOk_with h

theorem updElem_memOk {s : State} {e : Nat} {f : Elem → Elem} (h : memOk s) : memOk (updElem s e f) :=
  setElem_memOk h

theorem tagAnswer_memOk {w : TagWait} {v : LaneVal} {s : State} (h : memOk s) : memOk (tagAnswer w v s) := by
  unfold tagAnswer
  split
  · refine advanceCore_memOk ?_
    split
    · exact h
    · exact wxCore_memOk h
  · exact updElem_memOk h
  · exact h

theorem tagSetWord_memOk {p : Place} {v : LaneVal} {s : State} (h : memOk s) : memOk (tagSetWord p v s) :=
  placeSetTag_memOk _ _ (placeWrite_memOk _ _ _ (logSpad_memOk h))

theorem tagEffect_memOk {p : Place} {op : Nat} {v : LaneVal} {s : State} (h : memOk s) : memOk (tagEffect p op v s).2 := by
  unfold tagEffect
  split
  · exact placeSetTag_memOk _ _ (logSpad_memOk h)
  · split
    · exact h
    · exact tagSetWord_memOk h

theorem serveOne_memOk {w : TagWait} {s : State} (h : memOk s) : memOk (serveOne w s) := by
  unfold serveOne
  dsimp only
  split
  · split
    · exact trapCore_memOk (memOk_with h)
    · exact tagAnswer_memOk (tagEffect_memOk (memOk_with h))
  · exact tagAnswer_memOk (tagEffect_memOk (logSpadAt_memOk (memOk_with h)))

theorem firstCheck_memOk {c : Nat} {s : State} (h : memOk s) : memOk (firstCheck c s) :=
  updThr_memOk h

theorem performTag_memOk {r : Req} {p : Place} {s : State} (h : memOk s) : memOk (performTag r p s) := by
  unfold performTag
  split
  · exact tagSetWord_memOk h
  · dsimp only
    split
    · split
      · exact firstCheck_memOk (memOk_with h)
      · exact memOk_with h
    · exact serveOne_memOk (memOk_with h)

theorem writePlaces_memOk {s : State} {ps : List Place} {bs : List Byte} {pois : Bool} (h : memOk s) : memOk (writePlaces s ps bs pois) :=
    by
  unfold writePlaces
  split
  · exact h
  · split
    · exact placeWrite_memOk _ _ _ h
    · exact placeWrite_memOk _ _ _ h
    · exact foldl_memOk h fun _ _ hs => placeWrite_memOk _ _ _ hs

theorem snapDone_memOk {r : Req} {s : State} (h : memOk s) : memOk (snapDone r s) := by
  unfold snapDone
  split
  · split
    · exact advanceCore_memOk (wxCore_memOk h)
    · exact h
  · exact h

theorem finishLoad_memOk {c : Nat} {r : Req} {v : Nat} {s : State} (h : memOk s) : memOk (finishLoad c r v s) := by
  unfold finishLoad
  split
  · exact advanceCore_memOk (wxCore_memOk h)
  · exact h

theorem performHere_memOk {r : Req} {ps : List Place} {s : State} (h : memOk s) : memOk (performHere r ps s) := by
  unfold performHere
  dsimp only
  split
  · split
    · exact trapCore_memOk h
    · exact finishLoad_memOk h
  · exact snapDone_memOk (writePlaces_memOk h)
  · exact performTag_memOk h
  · exact placeSetTag_memOk _ _ (writePlaces_memOk h)
  · exact performAmo_memOk h

theorem forwardReq_memOk {m : Migration} {s : State} {r : Req} (h : memOk s) : memOk (forwardReq m s r) := by
  unfold forwardReq
  split
  · split
    · exact performHere_memOk h
    · split
      · exact memOk_with h
      · exact h
  · exact performHere_memOk h
  · exact h

theorem closeMigration_memOk {q : Nat} {m : Migration} {s : State} (h : memOk s) : memOk (closeMigration q m s) := by
  unfold closeMigration
  split
  · dsimp only
    split <;> exact setCpl_memOk (updQuarter_memOk (memOk_with h))

theorem serveQueue_memOk {q k : Nat} {s : State} (h : memOk s) : memOk (serveQueue q k s) := by
  induction k generalizing s with
  | zero => exact h
  | succ n ih =>
    unfold serveQueue
    split
    · exact h
    · dsimp only
      split
      · exact closeMigration_memOk h
      · exact ih (forwardReq_memOk (updQuarter_memOk h))
      · exact memOk_with (updQuarter_memOk h)

theorem openPage_memOk {q : Nat} {m : Migration} {w : Nat × Nat × Bool} {s : State} (h : memOk s) : memOk (openPage q m w s) :=
  serveQueue_memOk (updQuarter_memOk h)

theorem failMigration_memOk {q : Nat} {m : Migration} {s : State} (h : memOk s) : memOk (failMigration q m s) :=
  openPage_memOk h

theorem failStore_memOk {r : Req} {s : State} (h : memOk s) : memOk (failStore r s) := by
  unfold failStore
  dsimp only
  split
  · exact snapDone_memOk (memOk_with h)
  · exact raiseThread_memOk (snapDone_memOk (memOk_with h))

theorem loseReq_memOk {dev : Nat} {s : State} {r : Req} (h : memOk s) : memOk (loseReq dev s r) := by
  unfold loseReq
  split
  · exact atomicLost_memOk h
  · split
    · exact h
    · split
      · exact failStore_memOk h
      · split
        · exact updThr_memOk h
        · exact raiseThread_memOk h

theorem dropReqs_memOk {c kind : Nat} {s : State} (h : memOk s) : memOk (dropReqs c kind s) :=
  memOk_with h

theorem dropTag_memOk {c : Nat} {s : State} (h : memOk s) : memOk (dropTag c s) :=
  dropReqs_memOk (memOk_with h)

theorem loseTags_memOk {dev : Nat} {s : State} (h : memOk s) : memOk (loseTags dev s) := by
  unfold loseTags
  refine foldl_memOk h fun s x hs => ?_
  split
  · exact updThr_memOk (dropTag_memOk hs)
  · exact hs

theorem loseAt_memOk {dev : Nat} {s : State} (h : memOk s) : memOk (loseAt dev s) :=
  foldl_memOk (loseTags_memOk (foldl_memOk (memOk_with h) fun _ _ hs => loseReq_memOk hs)) fun _ _ hs1 => failEngine_memOk hs1

theorem depart_memOk {dev : Nat} {s : State} (h : memOk s) : memOk (depart dev s) := by
  unfold depart
  refine loseAt_memOk (foldl_memOk (memOk_with h) fun s x hs => ?_)
  split
  · split
    · exact failMigration_memOk hs
    · exact hs
  · exact hs

theorem changeMember_memOk {c : Nat × Nat × Bool} {s : State} (h : memOk s) : memOk (changeMember c s) := by
  unfold changeMember
  dsimp only
  split
  · exact h
  · refine hostEvent_memOk (raise0_memOk (noteCap_memOk ?_))
    split
    · exact memOk_with h
    · exact depart_memOk h

theorem execMembershipChange_memOk {s : State} (h : memOk s) : OutOk (execMembershipChange s) :=
  foldl_memOk (memOk_with h) fun _ _ hs => changeMember_memOk hs

theorem execLeave_memOk {port : Nat} {s : State} (h : memOk s) : OutOk (execLeave port s) := by
  unfold execLeave
  split
  · dsimp only
    split
    · exact updGc_memOk (dueMember_memOk h)
    · exact dueMember_memOk h
  · exact h

theorem noteDown_memOk {l dir : Nat} {s : State} (h : memOk s) : memOk (noteDown l dir s) := by
  unfold noteDown
  split
  · exact h
  · exact hostEvent_memOk (raise0_memOk (updLink_memOk h))

theorem failLane_memOk {l i : Nat} {s : State} (h : memOk s) : memOk (failLane l i s) :=
  noteDown_memOk (noteDown_memOk (raise0_memOk (updLink_memOk h)))

theorem execLaneTrained_memOk {l ok : Nat} {s : State} (h : memOk s) : OutOk (execLaneTrained l ok s) := by
  unfold execLaneTrained
  split
  · exact h
  · split
    · exact failLane_memOk h
    · exact takeNumber_memOk (updLink_memOk h)

theorem cmdWrite_memOk {op port v : Nat} {s : State} (h : memOk s) : memOk (cmdWrite op port v s) := by
  unfold cmdWrite
  split
  · exact linkCmd_memOk h
  · exact h

theorem execIdleLane_memOk {port v : Nat} {s : State} (h : memOk s) : OutOk (execIdleLane port v s) :=
  cmdWrite_memOk h

theorem execTurn_memOk {port v : Nat} {s : State} (h : memOk s) : OutOk (execTurn port v s) :=
  cmdWrite_memOk h

theorem execSpare_memOk {port v : Nat} {s : State} (h : memOk s) : OutOk (execSpare port v s) :=
  cmdWrite_memOk h

theorem execLaneFail_memOk {l i : Nat} {s : State} (h : memOk s) : OutOk (execLaneFail l i s) := by
  unfold execLaneFail
  split
  · exact failLane_memOk h
  · exact h

theorem execLinkRetrain_memOk {l dir : Nat} {s : State} (h : memOk s) : OutOk (execLinkRetrain l dir s) := by
  unfold execLinkRetrain
  split
  · exact updLink_memOk h
  · exact h

theorem execNakReplay_memOk {l seq : Nat} {s : State} (h : memOk s) : OutOk (execNakReplay l seq s) := by
  unfold execNakReplay
  split
  · exact updLink_memOk h
  · exact h

theorem execFlitReceive_memOk {l seq good : Nat} {s : State} (h : memOk s) : OutOk (execFlitReceive l seq good s) := by
  unfold execFlitReceive
  split
  · split
    · exact updLink_memOk h
    · split
      · exact updLink_memOk h
      · exact h
  · exact h

theorem updPower_memOk {f : Power → Power} {s : State} (h : memOk s) : memOk (updPower f s) :=
  memOk_with h

theorem execEmergencyRelease_memOk {t pct : Nat} {s : State} (h : memOk s) : OutOk (execEmergencyRelease t pct s) :=
  updPower_memOk h

theorem execEmergencyThrottle_memOk {t rails : Nat} {s : State} (h : memOk s) : OutOk (execEmergencyThrottle t rails s) := by
  unfold execEmergencyThrottle
  dsimp only
  split
  · exact updPower_memOk h
  · exact hostEvent_memOk (raise0_memOk (updPower_memOk h))

theorem execRackShareReceive_memOk {dev p weight budget group : Nat} {s : State} (h : memOk s) : OutOk (execRackShareReceive dev p weight
    budget group s) := by
  unfold execRackShareReceive
  split
  · exact noteCap_memOk (updPower_memOk h)
  · exact h

theorem execRackShareSend_memOk {s : State} (h : memOk s) : OutOk (execRackShareSend s) := by
  unfold execRackShareSend
  split
  · exact updPower_memOk h
  · exact h

theorem announce_memOk {te : Nat} {s : State} (h : memOk s) : memOk (announce te s) :=
  updGc_memOk h

theorem announceChange_memOk {s : State} (h : memOk s) : memOk (announceChange s) := by
  unfold announceChange
  split
  · exact h
  · exact announce_memOk h

theorem execPowerCapTick_memOk {w : Nat} {s : State} (h : memOk s) : OutOk (execPowerCapTick w s) := by
  unfold execPowerCapTick
  dsimp only
  split
  · exact h
  · exact announceChange_memOk (updPower_memOk h)

theorem execCurrentTick_memOk {pct : Nat} {s : State} (h : memOk s) : OutOk (execCurrentTick pct s) := by
  unfold execCurrentTick
  split
  · exact h
  · exact announceChange_memOk (updPower_memOk h)

theorem execThermalTick_memOk {t : Nat} {s : State} (h : memOk s) : OutOk (execThermalTick t s) := by
  unfold execThermalTick
  split
  · exact updPower_memOk h
  · exact announceChange_memOk (updPower_memOk h)

theorem passBoundary_memOk {s : State} (h : memOk s) : memOk (passBoundary s) := by
  unfold passBoundary
  dsimp only
  refine announceChange_memOk ?_
  split
  · refine memOk_with ?_
    split
    · split
      · exact updGc_memOk (memOk_with h)
      · exact memOk_with h
    · split
      · exact updGc_memOk (memOk_with h)
      · exact memOk_with h
  · split
    · split
      · exact updGc_memOk (memOk_with h)
      · exact memOk_with h
    · split
      · exact updGc_memOk (memOk_with h)
      · exact memOk_with h

theorem execCeilingChange_memOk {s : State} (h : memOk s) : OutOk (execCeilingChange s) :=
  passBoundary_memOk h

theorem execExpelReceive_memOk {grp : Nat} {s : State} (h : memOk s) : OutOk (execExpelReceive grp s) := by
  unfold execExpelReceive
  split
  · exact raise0_memOk (updGc_memOk h)
  · exact h

theorem applyMsg_memOk {id : Nat} {q : W32} {m : GcMsg} {s : State} (h : memOk s) : memOk (applyMsg id q m s) := by
  unfold applyMsg
  split
  · dsimp only
    refine updMember_memOk ?_
    split
    · exact updGc_memOk h
    · exact h
  · exact updMember_memOk h
  · exact updMember_memOk h
  · exact updMember_memOk h
  · exact h

theorem drainMsgs_memOk {id k : Nat} {s : State} (h : memOk s) : memOk (drainMsgs id k s) := by
  induction k generalizing s with
  | zero => exact h
  | succ n ih =>
    unfold drainMsgs
    split
    · exact h
    · split
      · exact h
      · exact ih (applyMsg_memOk (updMember_memOk h))

theorem takeMsg_memOk {id : Nat} {q : W32} {x : GcMsg} {s : State} (h : memOk s) : memOk (takeMsg id q x s) := by
  unfold takeMsg
  split
  · exact h
  · split
    · exact h
    · exact updMember_memOk (drainMsgs_memOk (updMember_memOk h))

theorem receive_memOk {grp id : Nat} {q : W32} {x : GcMsg} {s : State} (h : memOk s) : memOk (receive grp id q x s) := by
  unfold receive
  split
  · exact takeMsg_memOk h
  · split
    · exact updGc_memOk h
    · exact h

theorem execSilentReceive_memOk {grp : Nat} {m : MsgHead} {r : Removal} {s : State} (h : memOk s) : OutOk (execSilentReceive grp m r s) :=
  receive_memOk h

theorem execSilentDeclare_memOk {id : Nat} {s : State} (h : memOk s) : OutOk (execSilentDeclare id s) := by
  unfold execSilentDeclare
  split
  · exact h
  · split
    · exact declareSilent_memOk h
    · exact h

theorem execLeaveReceive_memOk {grp : Nat} {m : MsgHead} {tl : Nat} {s : State} (h : memOk s) : OutOk (execLeaveReceive grp m tl s) :=
  receive_memOk h

theorem joinDone_memOk {v : Word} {s : State} (h : memOk s) : memOk (joinDone v s) := by
  unfold joinDone
  split
  · exact h
  · split
    · exact advanceCore_memOk (wxCore_memOk h)
    · exact h

theorem joined_memOk {notice tj : Nat} {members : SMap Member} {s : State} (h : memOk s) : memOk (joined notice tj members s) :=
  announce_memOk (updGc_memOk h)

theorem execGroupFound_memOk {s : State} (h : memOk s) : OutOk (execGroupFound s) := by
  unfold execGroupFound
  split
  · exact updGc_memOk (joined_memOk (joinDone_memOk h))
  · exact h

theorem takeEarly_memOk {l : List (Nat × W32 × GcMsg)} {s : State} (h : memOk s) : memOk (takeEarly l s) :=
  foldl_memOk h fun _ _ hs => takeMsg_memOk hs

theorem learnMember_memOk {anns : List StateRow} {s : State} {i : StateRow} (h : memOk s) : memOk (learnMember anns s i) := by
  unfold learnMember
  dsimp only
  split
  · exact updGc_memOk h
  · exact updMember_memOk h

theorem execStateReceive_memOk {grp : Nat} {m : MsgHead} {notice tj : Nat} {members anns : List StateRow} {s : State} (h : memOk s) : OutOk
    (execStateReceive grp m notice tj members anns s) := by
  unfold execStateReceive
  split
  · split
    · exact updGc_memOk (joinDone_memOk h)
    · exact updGc_memOk (takeEarly_memOk (takeMsg_memOk (foldl_memOk (joined_memOk (joinDone_memOk h)) fun _ _ hs => learnMember_memOk hs)))
  · split
    · exact takeMsg_memOk (foldl_memOk h fun _ _ hs => learnMember_memOk hs)
    · exact h

theorem execJoinReceive_memOk {grp : Nat} {m : MsgHead} {n _notice : Nat} {s : State} (h : memOk s) : OutOk (execJoinReceive grp m n
    _notice s) := by
  unfold execJoinReceive
  split
  · exact updGc_memOk h
  · exact h

theorem execHeartbeatReceive_memOk {grp : Nat} {m : MsgHead} {_n top : Nat} {s : State} (h : memOk s) : OutOk (execHeartbeatReceive grp m
    _n top s) := by
  unfold execHeartbeatReceive
  dsimp only
  split
  · exact updMember_memOk (receive_memOk h)
  · exact receive_memOk h

theorem execHeartbeatSend_memOk {s : State} (h : memOk s) : OutOk (execHeartbeatSend s) := by
  unfold execHeartbeatSend
  split
  · exact updGc_memOk h
  · exact h

theorem execAnnounceReceive_memOk {grp id seq n te : Nat} {s : State} (h : memOk s) : OutOk (execAnnounceReceive grp id seq n te s) := by
  unfold execAnnounceReceive
  split
  · exact receive_memOk h
  · exact h

theorem singleWrite_memOk {port ofs : Nat} {v : Word} {s : State} (h : memOk s) : memOk (singleWrite port ofs v s) := by
  unfold singleWrite
  split
  · split
    · exact memOk_with h
    · exact h
  · exact updGc_memOk h
  · exact updTrust_memOk h
  · split
    · split
      · next e => exact memOk_of_next e (execLeave_memOk h)
      · exact h
    · exact h
  · exact linkCmd_memOk h
  · exact h

theorem clearCounts_memOk {q : Nat} {s : State} (h : memOk s) : memOk (clearCounts q s) :=
  updQuarter_memOk h

theorem rpCtl_memOk {q : Nat} {v : Word} {s : State} (h : memOk s) : memOk (rpCtl q v s) := by
  unfold rpCtl
  dsimp only
  split
  · exact clearCounts_memOk (updQuarter_memOk h)
  · exact updQuarter_memOk h

theorem remapWrite_memOk {q : Nat} {v : Word} {s : State} (h : memOk s) : memOk (remapWrite q v s) := by
  unfold remapWrite
  dsimp only
  split <;> exact updQuarter_memOk h

theorem findLeaf_memOk {asid va : Nat} {s : State} (h : memOk s) : memOk (findLeaf asid va s).2 := by
  unfold findLeaf
  split
  · exact h
  · dsimp only
    split
    · exact h
    · split
      · exact h
      · exact drawFree_memOk h

theorem emptyCpl_memOk {o : Owner} {xc : Word} {s : State} (h : memOk s) : memOk (emptyCpl o xc s) :=
  cplWrite_memOk h

theorem startMigration_memOk {port q : Nat} {v : Word} {s : State} (h : memOk s) : memOk (startMigration port q v s) := by
  unfold startMigration
  dsimp only
  split
  · exact setCpl_memOk (emptyCpl_memOk h)
  · split
    · next e => exact setCpl_memOk (memOk_of_snd e (findLeaf_memOk (emptyCpl_memOk h)))
    · next e =>
      split
      · exact setCpl_memOk (memOk_of_snd e (findLeaf_memOk (emptyCpl_memOk h)))
      · exact updQuarter_memOk (memOk_of_snd e (findLeaf_memOk (emptyCpl_memOk h)))

theorem zoneWrite_memOk {q n : Nat} {v : Word} {s : State} (h : memOk s) : memOk (zoneWrite q n v s) :=
  updQuarter_memOk h

theorem areaWrite_memOk {port q r : Nat} {v : Word} {s : State} (h : memOk s) : memOk (areaWrite port q r v s) := by
  unfold areaWrite
  split
  · exact zoneWrite_memOk h
  · split
    · exact updQuarter_memOk h
    · split
      · exact updQuarter_memOk h
      · exact updQuarter_memOk h
      · exact updQuarter_memOk h
      · exact startMigration_memOk h
      · exact remapWrite_memOk h
      · exact rpCtl_memOk h
      · exact updQuarter_memOk h
      · exact h

theorem sysWrite_memOk {c n : Nat} {v : Word} {s : State} (h : memOk s) : memOk (sysWrite c n v s) := by
  unfold sysWrite
  split
  · exact updThr_memOk h
  · exact updThr_memOk h
  · exact updThr_memOk h
  · exact updThr_memOk h
  · exact updThr_memOk h
  · exact updCore_memOk h
  · exact updThr_memOk h
  · exact updThr_memOk h
  · split
    · exact h
    · exact updThr_memOk h
  · exact updCore_memOk h
  · exact updThr_memOk h
  · exact updThr_memOk h
  · exact updThr_memOk h
  · exact updThr_memOk h
  · exact updCore_memOk h
  · exact updThr_memOk h
  · exact h

theorem endTask_memOk {c : Nat} {s : State} (h : memOk s) : memOk (endTask c s) :=
  updCore_memOk (memOk_with h)

theorem oweJoin_memOk {t : Task} {asid : BitVec 16} {supv cancel : Bool} {s : State} (h : memOk s) : memOk (oweJoin t asid supv cancel s)
    := by
  unfold oweJoin
  split
  · exact h
  · exact memOk_with h

theorem sendWounds_memOk {w : LockWait} {s : State} (h : memOk s) : memOk (sendWounds w s).2 :=
  memOk_with h

theorem queueLock_memOk {w : LockWait} {s : State} (h : memOk s) : memOk (queueLock w s) := by
  unfold queueLock
  split
  · next e => exact memOk_with (memOk_of_snd e (sendWounds_memOk h))

theorem putRecord_memOk {s : State} {w : LockWait} (h : memOk s) : memOk (putRecord s w) := by
  unfold putRecord
  split <;> exact memOk_with h

theorem settleWounds_memOk {s : State} (h : memOk s) : memOk (settleWounds s) :=
  memOk_with h

theorem foldLines_memOk {s : State} {w : LockWait} (h : memOk s) : memOk (foldLines s w) :=
  settleWounds_memOk (memOk_with (putRecord_memOk h))

theorem escalate_memOk {s : State} {w : LockWait} (h : memOk s) : memOk (escalate s w) :=
  memOk_with (foldLines_memOk h)

theorem acquireBy_memOk {t : Thread} {o : Word} {sc : Nat} {s : State} (h : memOk s) : memOk (acquireBy t o sc s) := by
  unfold acquireBy
  split
  · exact lcInvalidate_memOk (lcWriteBack_memOk h)
  · exact h

theorem grantAcquire_memOk {w : LockWait} {s : State} (h : memOk s) : memOk (grantAcquire w s) := by
  unfold grantAcquire
  split
  · split
    · exact h
    · exact foldl_memOk h fun _ _ hs => acquireBy_memOk hs
  · exact h

theorem answerLock_memOk {w : LockWait} {status : Word} {s : State} (h : memOk s) : memOk (answerLock w status s) := by
  unfold answerLock
  dsimp only
  split
  · refine updThr_memOk ?_
    split
    · exact h
    · exact grantAcquire_memOk h
  · split
    · exact h
    · exact grantAcquire_memOk h

theorem grantWaiting_memOk {w : LockWait} {s : State} (h : memOk s) : memOk (grantWaiting w s) := by
  unfold grantWaiting
  dsimp only
  split
  · exact answerLock_memOk (escalate_memOk (memOk_with h))
  · split
    · exact answerLock_memOk (putRecord_memOk (memOk_with h))
    · split
      · exact answerLock_memOk (escalate_memOk (memOk_with h))
      · exact queueLock_memOk (memOk_with h)

theorem regrant_memOk {k : Nat} {s : State} (h : memOk s) : memOk (regrant k s) := by
  induction k generalizing s with
  | zero => exact h
  | succ n ih =>
    unfold regrant
    split
    · exact h
    · exact ih (grantWaiting_memOk h)

theorem woundMore_memOk {s : State} (h : memOk s) : memOk (woundMore s) := by
  unfold woundMore
  refine foldl_memOk h fun s x hs => ?_
  split
  · split
    · next e1 => exact memOk_with (memOk_of_snd e1 (sendWounds_memOk hs))
  · exact hs

theorem reexamine_memOk {s : State} (h : memOk s) : memOk (reexamine s) :=
  woundMore_memOk (regrant_memOk h)

theorem withdrawLock_memOk {t : Nat} {s : State} (h : memOk s) : memOk (withdrawLock t s) := by
  unfold withdrawLock
  split
  · exact reexamine_memOk (memOk_with h)
  · exact h

theorem orphanReqs_memOk {c : Nat} {s : State} (h : memOk s) : memOk (orphanReqs c s) :=
  memOk_with h

theorem withdrawWaits_memOk {c : Nat} {s : State} (h : memOk s) : memOk (withdrawWaits c s) :=
  withdrawLock_memOk (memOk_with (orphanReqs_memOk (foldl_memOk h fun _ _ hs => dropReqs_memOk hs)))

theorem noteHw_memOk {c : Nat} {ovf : Bool} {s : State} (h : memOk s) : memOk (noteHw c ovf s) :=
  updCore_memOk h

theorem noteThread_memOk {t : Nat} {s : State} (h : memOk s) : memOk (noteThread t s) := by
  unfold noteThread
  split
  · exact noteHw_memOk h
  · exact h

theorem updThread_memOk {s : State} {t : Nat} {f : Thread → Thread} (h : memOk s) : memOk (updThread s t f) := by
  unfold updThread
  split
  · exact updThr_memOk h
  · exact memOk_with h

theorem lcDel_memOk {k : Nat} {s : State} (h : memOk s) : memOk (lcDel k s) :=
  lcEach_memOk h

theorem lcRestore_memOk {q : Nat} {e : Nat × Option MLine} {s : State} (h : memOk s) : memOk (lcRestore q e s) := by
  unfold lcRestore
  split
  · exact lcPut_memOk h
  · exact lcDel_memOk h

theorem undoTx_memOk {q : Nat} {x : Tx} {s : State} (h : memOk s) : memOk (undoTx q x s) :=
  foldl_memOk (foldl_memOk h fun _ _ hs => undoLine_memOk _ hs) fun _ _ hs1 => lcRestore_memOk hs1

theorem releaseIf_memOk {p : LockRec → Bool} {s : State} (h : memOk s) : memOk (releaseIf p s) :=
  reexamine_memOk (settleWounds_memOk (memOk_with h))

theorem releaseAll_memOk {t : Nat} {s : State} (h : memOk s) : memOk (releaseAll t s) :=
  releaseIf_memOk (memOk_with h)

theorem stripLocks_memOk {t : Nat} {s : State} (h : memOk s) : memOk (stripLocks t s) := by
  unfold stripLocks
  split
  · exact releaseAll_memOk h
  · exact releaseAll_memOk (updThread_memOk (noteThread_memOk (undoTx_memOk h)))

theorem dieThread_memOk {c : Nat} {t : Thread} {s : State} (h : memOk s) : memOk (dieThread c t s) := by
  unfold dieThread
  split
  · exact updThread_memOk (memOk_with h)
  · exact stripLocks_memOk h

theorem setSeqCpl_memOk {k : District} {q : SeqInstr} {state cause : Nat} {s : State} (h : memOk s) : memOk (setSeqCpl k q state cause s) :=
  setCpl_memOk h

theorem cancelObjects_memOk {k : District} {s : State} (h : memOk s) : memOk (cancelObjects k s) := by
  unfold cancelObjects
  dsimp only
  split
  · exact setCpl_memOk (foldl_memOk (foldl_memOk h fun _ _ hs => setCpl_memOk hs) fun _ _ hs1 => setSeqCpl_memOk hs1)
  · exact foldl_memOk (foldl_memOk h fun _ _ hs => setCpl_memOk hs) fun _ _ hs1 => setSeqCpl_memOk hs1

theorem freeTracks_memOk {s : State} (h : memOk s) : memOk (freeTracks s) :=
  memOk_with h

theorem wipeRect_memOk {r : Rect} {s : State} (h : memOk s) : memOk (wipeRect r s) :=
  freeTracks_memOk (memOk_with h)

theorem freeDistrict_memOk {d : Nat} {s : State} (h : memOk s) : memOk (freeDistrict d s) := by
  unfold freeDistrict
  split
  · exact h
  · exact updThread_memOk (wipeRect_memOk (memOk_with h))

theorem cancelMiles_memOk {k : District} {s : State} (h : memOk s) : memOk (cancelMiles k s) :=
  foldl_memOk h fun _ _ hs => setCpl_memOk hs

theorem setInvCpl_memOk {k : District} {v : Inv} {state cause : Nat} {s : State} (h : memOk s) : memOk (setInvCpl k v state cause s) :=
  setCpl_memOk h

theorem dropTokens_memOk {k : District} {dead : Nat → Bool} {s : State} (h : memOk s) : memOk (dropTokens k dead s) :=
  memOk_with h

theorem stopElems_memOk {k : District} {dead : Nat → Bool} {earlier : Option Nat} {s : State} (h : memOk s) : memOk (stopElems k dead
    earlier s) :=
  memOk_with h

theorem lcCleanAt_memOk {p : Place} {n : Nat} {s : State} (h : memOk s) : memOk (lcCleanAt p n s) := by
  unfold lcCleanAt
  split
  · exact lcPut_memOk h
  · exact h

theorem lcStoreRun_memOk {p : Place} {bytes : List Byte} {pois : Bool} {s : State} (h : memOk s) : memOk (lcStoreRun p bytes pois s) := by
  unfold lcStoreRun
  refine foldl_memOk ?_ fun _ _ hs => lcStoreByte_memOk hs
  split
  · exact h
  · exact lcCleanAt_memOk h

theorem commitOne_memOk {k : District} {h : Held} {s : State} (hm : memOk s) : memOk (commitOne k h s) := by
  unfold commitOne
  split
  · split
    · exact sendReq_memOk hm
    · exact placeWrite_memOk _ _ _ hm
  · split
    · exact lcStoreRun_memOk hm
    · exact sendReq_memOk hm

theorem commitHeld_memOk {d : Nat} {p : Held → Bool} {s : State} (h : memOk s) : memOk (commitHeld d p s) := by
  unfold commitHeld
  split
  · exact h
  · exact foldl_memOk (updDist_memOk h) fun _ _ hs => commitOne_memOk hs

theorem killFrom_memOk {d i : Nat} {first : Nat × Nat} {s0 : State} (h : memOk s0) : memOk (killFrom d i first s0) := by
  unfold killFrom
  dsimp only
  split
  · split
    · split
      · split
        · split
          · exact commitHeld_memOk h
          · exact h
        · exact h
      · exact h
    · exact h
  · refine foldl_memOk ?_ fun s x hs => ?_
    · split
      · refine cancelMiles_memOk (updDist_memOk (stopElems_memOk (dropTokens_memOk ?_)))
        split
        · split
          · split
            · split
              · exact commitHeld_memOk h
              · exact h
            · exact h
          · exact h
        · exact h
      · refine updDist_memOk (stopElems_memOk (dropTokens_memOk ?_))
        split
        · split
          · split
            · split
              · exact commitHeld_memOk h
              · exact h
            · exact h
          · exact h
        · exact h
    · split <;> exact setInvCpl_memOk hs

theorem killDistrict_memOk {d : Nat} {s : State} (h : memOk s) : memOk (killDistrict d s) := by
  unfold killDistrict
  split
  · exact h
  · dsimp only
    refine freeDistrict_memOk (cancelObjects_memOk ?_)
    split
    · exact killFrom_memOk h
    · exact cancelMiles_memOk h

theorem runSegs_memOk {e : Engine} {limit : Nat} {l1 : List Seg} {n : Nat} {s : State} (h : memOk s) : RunOk (runSegs e limit l1 n s) := by
  induction l1 generalizing n s with
  | nil => exact h
  | cons x l ih =>
    unfold runSegs
    dsimp only
    split
    · split
      · exact trivial
      · split
        · exact settleMarks_memOk (moveBytes_memOk h)
        · split
          · exact settleMarks_memOk (moveBytes_memOk h)
          · exact ih (settleMarks_memOk (moveBytes_memOk h))
    · split
      · exact trivial
      · split
        · exact settleMarks_memOk (moveBytes_memOk h)
        · split
          · exact settleMarks_memOk (moveBytes_memOk h)
          · exact ih (settleMarks_memOk (moveBytes_memOk h))

theorem peerBytes_memOk {p : Place} {n : Nat} {s : State} (h : memOk s) : memOk (peerBytes p n s).2 :=
  memOk_with h

theorem runGath_memOk {e : Engine} {limit k j n1 : Nat} {s : State} (h : memOk s) : RunOk (runGath e limit k j n1 s) := by
  induction k generalizing j n1 s with
  | zero => exact h
  | succ n ih =>
    unfold runGath
    dsimp only
    split
    · next e => exact memOk_of_snd e (engPlace_memOk h)
    · next e =>
      split
      · exact trivial
      · split
        · split
          · exact peerBytes_memOk (memOk_of_snd e (engPlace_memOk h))
          · split
            · exact peerBytes_memOk (memOk_of_snd e (engPlace_memOk h))
            · split
              · next e1 => exact RunOk.of_over e1 (runSegs_memOk (peerBytes_memOk (memOk_of_snd e (engPlace_memOk h))))
              · next e1 =>
                split
                · exact RunOk.of_over e1 (runSegs_memOk (peerBytes_memOk (memOk_of_snd e (engPlace_memOk h))))
                · exact ih (RunOk.of_over e1 (runSegs_memOk (peerBytes_memOk (memOk_of_snd e (engPlace_memOk h)))))
              · exact trivial
        · split
          · exact memOk_of_snd e (engPlace_memOk h)
          · split
            · exact memOk_of_snd e (engPlace_memOk h)
            · split
              · next e1 => exact RunOk.of_over e1 (runSegs_memOk (memOk_of_snd e (engPlace_memOk h)))
              · next e1 =>
                split
                · exact RunOk.of_over e1 (runSegs_memOk (memOk_of_snd e (engPlace_memOk h)))
                · exact ih (RunOk.of_over e1 (runSegs_memOk (memOk_of_snd e (engPlace_memOk h))))
              · exact trivial

theorem runDma_memOk {e : Engine} {limit : Nat} {s : State} (h : memOk s) : RunOk (runDma e limit s) := by
  unfold runDma
  split
  · exact runSegs_memOk h
  · exact runGath_memOk h
  · exact runSegs_memOk h

theorem runUpTo_memOk {e : Engine} {limit : Nat} {s : State} (h : memOk s) : RunOk (runUpTo e limit s) := by
  unfold runUpTo
  split
  · split
    · split
      · next e =>
        split
        · exact trivial
        · exact settleMarks_memOk (memOk_of_snd e (moveBytes_memOk h))
  · split
    · exact runSegs_memOk h
    · split
      · exact runSegs_memOk h
      · exact runDma_memOk h

theorem cancelEngine_memOk {s : State} {e : Engine} (h : memOk s) : memOk (cancelEngine s e) := by
  have hr := runUpTo_memOk (e := e) (limit := 64 * (if e.behind s then (0, s) else freeBelow (e.len / 64) s).1)
    (freeUnless_memOk (b := e.behind s) (n := e.len / 64) h)
  unfold cancelEngine
  split
  · exact endEngine_memOk h
  · dsimp only
    split
    · next e => exact endEngine_memOk (RunOk.of_over e hr)
    · next e => exact endEngine_memOk (RunOk.of_over e hr)
    · exact endEngine_memOk (freeUnless_memOk h)

theorem killTask_memOk {c : Nat} {s : State} (h : memOk s) : memOk (killTask c s) := by
  unfold killTask
  dsimp only
  refine endTask_memOk (updCore_memOk ?_)
  split
  · refine oweJoin_memOk (dieThread_memOk (withdrawWaits_memOk ?_))
    split
    · exact killDistrict_memOk (foldl_memOk h fun _ _ hs2 => cancelEngine_memOk hs2)
    · exact foldl_memOk h fun _ _ hs2 => cancelEngine_memOk hs2
  · refine dieThread_memOk (withdrawWaits_memOk ?_)
    split
    · exact killDistrict_memOk (foldl_memOk h fun _ _ hs2 => cancelEngine_memOk hs2)
    · exact foldl_memOk h fun _ _ hs2 => cancelEngine_memOk hs2

theorem joinDelivery_memOk {m : Msg} {s : State} (h : memOk s) : memOk (joinDelivery m s) :=
  updCore_memOk h

theorem park_memOk {m : Msg} {s : State} (h : memOk s) : memOk (park m s) :=
  updCore_memOk (noteHw_memOk h)

theorem msgAccepted_memOk {m : Msg} {s : State} (h : memOk s) : memOk (msgAccepted m s) := by
  unfold msgAccepted
  dsimp only
  split
  · exact advanceCore_memOk (memOk_with h)
  · exact memOk_with h

theorem setOvf_memOk {c : Nat} {s : State} (h : memOk s) : memOk (setOvf c s) :=
  updCore_memOk (noteHw_memOk h)

theorem msgRefused_memOk {m : Msg} {code : BitVec 10} {s : State} (h : memOk s) : memOk (msgRefused m code s) := by
  unfold msgRefused
  dsimp only
  split
  · exact trapCore_memOk (memOk_with h)
  · exact memOk_with h

theorem replaceMsg_memOk {m m' : Msg} {s : State} (h : memOk s) : memOk (replaceMsg m m' s) := by
  unfold replaceMsg
  split <;> exact memOk_with h

theorem handleMsg_memOk {m : Msg} {s : State} (h : memOk s) : memOk (handleMsg m s) := by
  unfold handleMsg
  dsimp only
  split
  · exact replaceMsg_memOk h
  · split
    · split
      · exact msgRefused_memOk (setOvf_memOk h)
      · exact msgAccepted_memOk (raise_memOk (park_memOk h))
    · split
      · exact msgRefused_memOk h
      · split
        · exact msgAccepted_memOk (joinDelivery_memOk h)
        · exact replaceMsg_memOk h

theorem unholdMsg_memOk {s : State} {m : Msg} (h : memOk s) : memOk (unholdMsg s m) := by
  unfold unholdMsg
  split
  · exact msgRefused_memOk h
  · exact handleMsg_memOk h

theorem resetCore_memOk {c : Nat} {s : State} (h : memOk s) : memOk (resetCore c s) :=
  foldl_memOk (memOk_with (setCore_memOk h)) fun _ _ hs => unholdMsg_memOk hs

theorem restartCore_memOk {c : Nat} {s : State} (h : memOk s) : memOk (restartCore c s) := by
  unfold restartCore
  split
  · exact h
  · split
    · exact updCore_memOk h
    · exact resetCore_memOk (killTask_memOk h)

theorem runCore_memOk {c : Nat} {s : State} (h : memOk s) : memOk (runCore c s) := by
  unfold runCore
  split
  · exact updCore_memOk h
  · exact h

theorem abandon_memOk {c : Nat} {s : State} (h : memOk s) : memOk (abandon c s) :=
  withdrawLock_memOk (dropReqs_memOk (memOk_with h))

theorem stopCore_memOk {c : Nat} {s : State} (h : memOk s) : memOk (stopCore c s) := by
  unfold stopCore
  split
  · exact h
  · dsimp only
    refine updCore_memOk ?_
    split
    · exact updThr_memOk (abandon_memOk h)
    · exact h

theorem unhaltCore_memOk {c : Nat} {s : State} (h : memOk s) : memOk (unhaltCore c s) := by
  unfold unhaltCore
  split
  · dsimp only
    split
    · exact updDist_memOk (updCore_memOk h)
    · exact updCore_memOk h
  · exact h

theorem haltCore_memOk {c : Nat} {s : State} (h : memOk s) : memOk (haltCore c s) := by
  unfold haltCore
  split
  · exact h
  · split
    · exact updDist_memOk (updCore_memOk h)
    · exact h

theorem beginSave_memOk {c : Nat} {s : State} (h : memOk s) : memOk (beginSave c s) := by
  unfold beginSave
  dsimp only
  refine memOk_with ?_
  split
  · refine updDist_memOk (updCore_memOk ?_)
    split
    · refine dropReqs_memOk ?_
      split
      · exact updThr_memOk (withdrawLock_memOk (memOk_with h))
      · exact h
    · split
      · exact updThr_memOk (withdrawLock_memOk (memOk_with h))
      · exact h
  · refine updCore_memOk ?_
    split
    · refine dropReqs_memOk ?_
      split
      · exact updThr_memOk (withdrawLock_memOk (memOk_with h))
      · exact h
    · split
      · exact updThr_memOk (withdrawLock_memOk (memOk_with h))
      · exact h

theorem startSave_memOk {c : Nat} {s : State} (h : memOk s) : memOk (startSave c s) := by
  unfold startSave
  dsimp only
  split
  · exact foldl_memOk h fun _ _ hs => beginSave_memOk hs
  · exact h

theorem coreCmd_memOk {cmd c : Nat} {s : State} (h : memOk s) : memOk (coreCmd cmd c s) := by
  unfold coreCmd
  split
  · exact startSave_memOk h
  · exact haltCore_memOk h
  · exact unhaltCore_memOk h
  · exact stopCore_memOk h
  · exact runCore_memOk h
  · exact restartCore_memOk h
  · exact h

theorem coreWrite_memOk {port c r : Nat} {v : Word} {s : State} (h : memOk s) : memOk (coreWrite port c r v s) := by
  unfold coreWrite
  split
  · exact coreCmd_memOk h
  · exact updCore_memOk h
  · exact updCore_memOk h
  · split
    · exact sysWrite_memOk h
    · exact badAcc_memOk h
  · exact h

theorem updQueue_memOk {q : Nat} {f : Queue → Queue} {s : State} (h : memOk s) : memOk (updQueue q f s) :=
  memOk_with h

theorem lateRestart_memOk {s : State} {c : Nat} (h : memOk s) : memOk (lateRestart s c) := by
  unfold lateRestart
  split
  · exact resetCore_memOk h
  · exact h

theorem settleBusy_memOk {s : State} (h : memOk s) : memOk (settleBusy s) :=
  memOk_with h

theorem killSaved_memOk {x : SavedTask} {s : State} (h : memOk s) : memOk (killSaved x s) := by
  unfold killSaved
  dsimp only
  refine memOk_with ?_
  split
  · refine oweJoin_memOk (dieThread_memOk ?_)
    split
    · exact foldl_memOk h fun _ _ hs2 => cancelEngine_memOk hs2
    · exact cancelObjects_memOk (cancelMiles_memOk (foldl_memOk (foldl_memOk h fun _ _ hs2 => cancelEngine_memOk hs2) fun _ _ hs3 =>
        setInvCpl_memOk hs3))
  · refine dieThread_memOk ?_
    split
    · exact foldl_memOk h fun _ _ hs2 => cancelEngine_memOk hs2
    · exact cancelObjects_memOk (cancelMiles_memOk (foldl_memOk (foldl_memOk h fun _ _ hs2 => cancelEngine_memOk hs2) fun _ _ hs3 =>
        setInvCpl_memOk hs3))

theorem discardRec_memOk {q : Nat} {x : QRec} {s : State} (h : memOk s) : memOk (discardRec q x s) := by
  unfold discardRec
  split
  · exact h
  · exact memOk_with h

theorem discardAll_memOk {q : Nat} {p : QRec → Bool} {s : State} (h : memOk s) : memOk (discardAll q p s) :=
  foldl_memOk (memOk_with (updQueue_memOk h)) fun _ _ hs => discardRec_memOk hs

theorem cancelWalks_memOk {q : Nat} {s : State} (h : memOk s) : memOk (cancelWalks q s) :=
  memOk_with h

theorem endWalks_memOk {s : State} (h : memOk s) : memOk (endWalks s) :=
  memOk_with h

theorem teardownQueue_memOk {q : Nat} {s : State} (h : memOk s) : memOk (teardownQueue q s) :=
  endWalks_memOk (cancelWalks_memOk (discardAll_memOk (updQueue_memOk h)))

theorem resetQueue_memOk {q : Nat} {s : State} (h : memOk s) : memOk (resetQueue q s) :=
  settleBusy_memOk (foldl_memOk (updQueue_memOk (memOk_with (foldl_memOk (updQueue_memOk (teardownQueue_memOk h)) fun _ _ hs =>
    killSaved_memOk hs))) fun _ _ hs1 => lateRestart_memOk (killTask_memOk hs1))

theorem queueCmd_memOk {cmd q : Nat} {s : State} (h : memOk s) : memOk (queueCmd cmd q s) := by
  unfold queueCmd
  dsimp only
  split
  · split
    · exact updQueue_memOk h
    · split
      · exact updQueue_memOk h
      · exact h
  · split
    · exact updQueue_memOk h
    · exact h
  · split
    · exact teardownQueue_memOk h
    · exact h
  · split
    · exact resetQueue_memOk h
    · exact h
  · split
    · exact updQueue_memOk h
    · exact h
  · exact h

theorem cfgErr_memOk {q : Nat} {s : State} (h : memOk s) : memOk (cfgErr q s) :=
  updQueue_memOk h

theorem ctlWrite_memOk {q : Nat} {v : Word} {s : State} (h : memOk s) : memOk (ctlWrite q v s) := by
  unfold ctlWrite
  dsimp only
  refine queueCmd_memOk (updQueue_memOk ?_)
  split
  · exact updQueue_memOk h
  · split
    · exact cfgErr_memOk h
    · exact h

theorem hqBase_memOk {q : Nat} {v : Word} {s : State} (h : memOk s) : memOk (hqBase q v s) := by
  unfold hqBase
  dsimp only
  split
  · exact cfgErr_memOk h
  · exact updQueue_memOk h

theorem queueWrite_memOk {q r : Nat} {v : Word} {s : State} (h : memOk s) : memOk (queueWrite q r v s) := by
  unfold queueWrite
  split
  · exact hqBase_memOk h
  · exact ctlWrite_memOk h
  · exact updQueue_memOk h
  · exact h

theorem reload_memOk {v : Word} {s : State} (h : memOk s) : memOk (reload v s) := by
  unfold reload
  split
  · exact memOk_with h
  · exact h

theorem plainWrite_memOk {ofs m : Nat} {v : Word} {s : State} (h : memOk s) : memOk (plainWrite ofs m v s) := by
  unfold plainWrite
  dsimp only
  split
  · exact noteCap_memOk (memOk_with h)
  · exact memOk_with h

theorem ownerWrite_memOk {port ofs : Nat} {v : Word} {s : State} (h : memOk s) : memOk (ownerWrite port ofs v s) := by
  unfold ownerWrite
  split
  · dsimp only
    split
    · exact reload_memOk (plainWrite_memOk h)
    · exact plainWrite_memOk h
  · split
    · exact queueWrite_memOk h
    · split
      · exact coreWrite_memOk h
      · exact areaWrite_memOk h
    · exact singleWrite_memOk h

theorem secCmd_memOk {port : Nat} {v : Word} {s : State} (h : memOk s) : memOk (secCmd port v s) :=
  secCommand_memOk h

theorem openWrite_memOk {port ofs : Nat} {v : Word} {s : State} (h : memOk s) : OptOk (openWrite port ofs v s) := by
  unfold openWrite
  split
  · dsimp only
    split
    · exact h
    · exact updTrust_memOk h
  · split
    · exact casWrite_memOk h
    · exact beat_memOk h
    · exact secCmd_memOk h
    · exact trivial

theorem ringWrite_memOk {q p slot : Nat} {r : Rec} {s : State} (h : memOk s) : memOk (ringWrite q p slot r s) := by
  unfold ringWrite
  dsimp only
  split
  · exact placeWrite_memOk _ _ _ h
  · exact h

theorem laneEnter_memOk {q : Nat} {x : QRec} {s : State} (h : memOk s) : memOk (laneEnter q x s) :=
  ringWrite_memOk (updQueue_memOk h)

theorem enter_memOk {q : Nat} {x : QRec} {s : State} (h : memOk s) : EnqOk (enter q x s) := by
  unfold enter
  dsimp only
  split
  · split
    · exact trivial
    · exact laneEnter_memOk h
  · split
    · split
      · exact trivial
      · exact memOk_with h
    · split
      · exact trivial
      · split
        · exact trivial
        · exact memOk_with h

theorem incDrops_memOk {q : Nat} {s : State} (h : memOk s) : memOk (incDrops q s) :=
  updQueue_memOk h

theorem noteErr_memOk {q flags cause : Nat} {s : State} (h : memOk s) : memOk (noteErr q flags cause s) :=
  updQueue_memOk h

theorem windowRecord_memOk {q : Nat} {r : Rec} {s : State} (h : memOk s) : memOk (windowRecord q r s) := by
  have hs : memOk (if r.bad (queue s q).asid false then noteErr q 0x08 0x241 s else s) := by
    split
    · exact noteErr_memOk h
    · exact h
  have he : EnqOk (if copyWaits s q r then .full else enter q ⟨r, 0, none, none⟩ s) := by
    split
    · trivial
    · exact enter_memOk h
  unfold windowRecord
  dsimp only
  split
  · exact incDrops_memOk hs
  · split
    · next e => exact EnqOk.of_queued e he
    · exact incDrops_memOk (noteErr_memOk h)
    · exact incDrops_memOk (noteErr_memOk h)

theorem windowWrite_memOk {port ofs : Nat} {bs : List Byte} {s : State} (h : memOk s) : memOk (windowWrite port ofs bs s) := by
  unfold windowWrite
  dsimp only
  split
  · exact badAcc_memOk h
  · split
    · exact incDrops_memOk (updQueue_memOk h)
    · split
      · exact incDrops_memOk (updQueue_memOk h)
      · exact windowRecord_memOk h

theorem hubWrite_memOk {port ofs : Nat} {v : Word} {s : State} (h : memOk s) : memOk (hubWrite port ofs v s) := by
  unfold hubWrite
  split
  · exact windowWrite_memOk h
  · split
    · exact badAcc_memOk h
    · split
      · next e => exact memOk_of_some e (openWrite_memOk h)
      · split
        · exact ownerWrite_memOk h
        · exact h

theorem execRegisterWrite_memOk {port ofs : Nat} {d : WriteData} {s : State} (h : memOk s) : OutOk (execRegisterWrite port ofs d s) := by
  unfold execRegisterWrite
  split
  · exact windowWrite_memOk h
  · split
    · exact badAcc_memOk h
    · exact hubWrite_memOk h

theorem execLmReload_memOk {port v : Nat} {s : State} (h : memOk s) : OutOk (execLmReload port v s) := by
  unfold execLmReload
  split
  · exact ownerWrite_memOk h
  · exact h

theorem execRpCountClear_memOk {port q : Nat} {s : State} (h : memOk s) : OutOk (execRpCountClear port q s) := by
  unfold execRpCountClear
  split
  · exact clearCounts_memOk h
  · exact h

theorem execRpRemapWrite_memOk {port q v : Nat} {s : State} (h : memOk s) : OutOk (execRpRemapWrite port q v s) := by
  unfold execRpRemapWrite
  split
  · exact remapWrite_memOk h
  · exact h

theorem execZoneMapWrite_memOk {port q n v : Nat} {s : State} (h : memOk s) : OutOk (execZoneMapWrite port q n v s) := by
  unfold execZoneMapWrite
  split
  · exact zoneWrite_memOk h
  · exact h

theorem execPinLoad_memOk {port : Nat} {s : State} (h : memOk s) : OutOk (execPinLoad port s) := by
  unfold execPinLoad
  split
  · exact memOk_with h
  · exact h

theorem pageArrives_memOk {pa : Nat} {s : State} (h : memOk s) : memOk (pageArrives pa s) :=
  memOk_with (foldl_memOk (placeWrite_memOk _ _ _ (memOk_with h)) fun _ _ hs => placeSetTag_memOk _ _ hs)

theorem Migration.carry_memOk {m : Migration} {s : State} (h : memOk s) : memOk (Migration.carry m s) :=
  memOk_with h

theorem dropXlat_memOk {p : XEnt → Bool} {names : Nat → Bool} {s : State} (h : memOk s) : memOk (dropXlat p names s) :=
  memOk_with h

theorem shootDown_memOk {m : Migration} {s : State} (h : memOk s) : memOk (shootDown m s) :=
  lcInvalidate_memOk (lcWriteBack_memOk (dropXlat_memOk h))

theorem endMigration_memOk {q : Nat} {m : Migration} {s : State} (h : memOk s) : memOk (endMigration q m s) := by
  unfold endMigration
  dsimp only
  refine openPage_memOk ?_
  split
  · refine foldl_memOk (memOk_with (Migration.carry_memOk ?_)) fun _ _ hs1 => forwardReq_memOk hs1
    split
    · refine foldl_memOk (pageArrives_memOk (shootDown_memOk ?_)) fun _ _ hs2 => placeWrite_memOk _ _ _ hs2
      split
      · exact placeWrite_memOk _ _ _ h
      · exact h
    · refine shootDown_memOk ?_
      split
      · exact placeWrite_memOk _ _ _ h
      · exact h
  · refine drawFree_memOk (foldl_memOk (memOk_with (Migration.carry_memOk ?_)) fun _ _ hs1 => forwardReq_memOk hs1)
    split
    · refine foldl_memOk (pageArrives_memOk (shootDown_memOk ?_)) fun _ _ hs2 => placeWrite_memOk _ _ _ hs2
      split
      · exact placeWrite_memOk _ _ _ h
      · exact h
    · refine shootDown_memOk ?_
      split
      · exact placeWrite_memOk _ _ _ h
      · exact h

theorem execMigrationEnd_memOk {q : Nat} {s : State} (h : memOk s) : OutOk (execMigrationEnd q s) := by
  unfold execMigrationEnd
  split
  · exact h
  · split
    · exact serveQueue_memOk h
    · exact endMigration_memOk h

theorem execMigrationStart_memOk {port q v : Nat} {s : State} (h : memOk s) : OutOk (execMigrationStart port q v s) := by
  unfold execMigrationStart
  split
  · exact startMigration_memOk h
  · exact h

theorem execQcSdataRead_memOk {port c : Nat} {s : State} (h : memOk s) : OutOk (execQcSdataRead port c s) := by
  unfold execQcSdataRead
  split
  · exact badAcc_memOk h
  · exact h

theorem execQcSdataWrite_memOk {port c v : Nat} {s : State} (h : memOk s) : OutOk (execQcSdataWrite port c v s) := by
  unfold execQcSdataWrite
  split
  · exact h
  · split
    · exact sysWrite_memOk h
    · exact badAcc_memOk h

theorem execRestart_memOk {port c : Nat} {s : State} (h : memOk s) : OutOk (execRestart port c s) := by
  unfold execRestart
  split
  · exact restartCore_memOk h
  · exact h

theorem execRun_memOk {port c : Nat} {s : State} (h : memOk s) : OutOk (execRun port c s) := by
  unfold execRun
  split
  · exact runCore_memOk h
  · exact h

theorem execStop_memOk {port c : Nat} {s : State} (h : memOk s) : OutOk (execStop port c s) := by
  unfold execStop
  split
  · exact stopCore_memOk h
  · exact h

theorem execUnhalt_memOk {port c : Nat} {s : State} (h : memOk s) : OutOk (execUnhalt port c s) := by
  unfold execUnhalt
  split
  · exact unhaltCore_memOk h
  · exact h

theorem execHalt_memOk {port c : Nat} {s : State} (h : memOk s) : OutOk (execHalt port c s) := by
  unfold execHalt
  split
  · exact haltCore_memOk h
  · exact h

theorem forgetFirst_memOk {c : Cand} {s : State} (h : memOk s) : memOk (forgetFirst c s) :=
  memOk_with h

theorem takeCand_memOk {c : Cand} {s0 : State} (h : memOk s0) : memOk (takeCand c s0) := by
  unfold takeCand
  dsimp only
  split
  · exact memOk_with (forgetFirst_memOk h)
  · split
    · exact memOk_with (forgetFirst_memOk h)
    · exact updQueue_memOk (forgetFirst_memOk h)

theorem seqByte_memOk {k : District} {i va : Nat} {s : State} (h : memOk s) : memOk (seqByte k i va s).2 := by
  unfold seqByte
  split
  · exact h
  · exact engByte_memOk h

theorem seqBytes_memOk {k : District} {va : Nat} {l1 : List Nat} {s1 : SMap PByte} {s : State} (h : memOk s) : memOk (seqBytes k va l1 s1
    s).2 := by
  induction l1 generalizing s1 s with
  | nil => exact h
  | cons x l ih =>
    unfold seqBytes
    exact gwBind_memOk (seqByte_memOk h) (fun _ _ hs => ih hs)

theorem seqScales_memOk {k : District} {e : Ent} {r c n : Nat} {s : State} (h : memOk s) : memOk (seqScales k e r c n s).2 := by
  unfold seqScales
  dsimp only
  split
  · exact h
  · exact gwBind_memOk (seqBytes_memOk h) (fun _ _ hs => hs)

theorem seqCodes_memOk {k : District} {e : Ent} {planes r c n : Nat} {s : State} (h : memOk s) : memOk (seqCodes k e planes r c n s).2 :=
  gwBind_memOk (seqBytes_memOk h) (fun _ _ hs => hs)

theorem fetchB_memOk {k : District} {q : SeqInstr} {mk : MKind} {j n1 : Nat} {l : List BElem} {l1 : List BScale} {n2 : Nat × Nat} {s :
    State} (h : memOk s) : memOk (fetchB k q mk j n1 l l1 n2 s).2 := by
  induction j generalizing n1 l l1 n2 s with
  | zero => exact h
  | succ n ih =>
    unfold fetchB
    split
    · exact h
    · refine gwBind_memOk (seqCodes_memOk h) (fun _ _ hs => gwBind_memOk (seqScales_memOk hs) (fun x s hs1 => ?_))
      split
      · exact ih hs1

theorem reloadMacro_memOk {k : District} {e : Nat} {s : State} (h : memOk s) : OptOk (reloadMacro k e s) := by
  unfold reloadMacro
  split
  · exact h
  · dsimp only
    split
    · exact updElem_memOk h
    · split
      · exact trivial
      · next e => exact updElem_memOk (memOk_of_snd e (fetchB_memOk h))
      · next e => exact updElem_memOk (memOk_of_snd e (fetchB_memOk h))

theorem reloadAll_memOk {k : District} {l1 : List Nat} {s : State} (h : memOk s) : OptOk (reloadAll k l1 s) := by
  induction l1 generalizing s with
  | nil => exact h
  | cons x l ih =>
    unfold reloadAll
    split
    · exact trivial
    · next e => exact ih (memOk_of_some e (reloadMacro_memOk h))

theorem restoreDistrict_memOk {y : SavedTask} {k : District} {s : State} (h : memOk s) : OptOk (restoreDistrict y k s) := by
  obtain ⟨hd, hl, hs⟩ := wipeRect_memOk (r := k.rect) h
  exact reloadAll_memOk ⟨hd, hl, TagMem.add_wf _ (TagMem.part_wf _ hs)⟩

theorem restoreTask_memOk {order : Nat} {x : QRec} {s : State} (h : memOk s) : OptOk (restoreTask order x s) := by
  unfold restoreTask
  split
  · exact h
  · dsimp only
    split
    · exact updCore_memOk (memOk_with h)
    · exact restoreDistrict_memOk (updCore_memOk (memOk_with h))

theorem restoreAll_memOk {order : Nat} {l1 : List QRec} {s : State} (h : memOk s) : OptOk (restoreAll order l1 s) := by
  induction l1 generalizing s with
  | nil => exact h
  | cons x l ih =>
    unfold restoreAll
    split
    · exact trivial
    · next e => exact ih (memOk_of_some e (restoreTask_memOk h))

theorem execTaskRestore_memOk {n : Nat} {s : State} (h : memOk s) : OutOk (execTaskRestore n s) := by
  unfold execTaskRestore
  split
  · split
    · split
      · next e => exact memOk_of_some e (restoreAll_memOk (takeCand_memOk (memOk_with h)))
      · exact h
    · exact h
  · exact h

theorem laneReturn_memOk {q : Nat} {x : QRec} {s : State} (h : memOk s) : memOk (laneReturn q x s) :=
  ringWrite_memOk (updQueue_memOk h)

theorem requeue_memOk {l : List (Nat × QRec)} {s : State} (h : memOk s) : memOk (requeue l s) :=
  foldr_memOk (memOk_with h) fun _ _ hs => laneReturn_memOk hs

theorem liftDistrict_memOk {d : Nat} {k : District} {x : SavedTask} {s : State} (h : memOk s) : memOk (liftDistrict d k x s).2 :=
  freeTracks_memOk (memOk_with h)

theorem saveRegion_memOk {c : Nat} {s : State} (h : memOk s) : memOk (saveRegion c s) :=
  ⟨devWrite_wf _ _ _ h.1, h.2.1, h.2.2⟩

theorem saveTask_memOk {group c : Nat} {s0 : State} (h : memOk s0) : memOk (saveTask group c s0).2 := by
  unfold saveTask
  dsimp only
  refine updCore_memOk (memOk_with ?_)
  split
  · exact saveRegion_memOk h
  · split
    · exact liftDistrict_memOk (saveRegion_memOk h)
    · exact saveRegion_memOk h

theorem saveAll_memOk {group : Nat} {l1 : List Nat} {l2 : List (Nat × QRec)} {s : State} (h : memOk s) : memOk (saveAll group l1 l2 s).2 :=
    by
  induction l1 generalizing l2 s with
  | nil => exact h
  | cons x l ih =>
    unfold saveAll
    split
    · next e => exact ih (memOk_of_snd e (saveTask_memOk h))

theorem execPreemptSaveComplete_memOk {c : Nat} {s : State} (h : memOk s) : OutOk (execPreemptSaveComplete c s) := by
  unfold execPreemptSaveComplete
  split
  · exact h
  · dsimp only
    split
    · exact h
    · exact settleBusy_memOk (foldl_memOk (requeue_memOk (saveAll_memOk h)) fun _ _ hs => lateRestart_memOk hs)

theorem execPreempt_memOk {port c : Nat} {s : State} (h : memOk s) : OutOk (execPreempt port c s) := by
  unfold execPreempt
  split
  · exact startSave_memOk h
  · exact h

theorem execSchCtlWrite_memOk {port v : Nat} {s : State} (h : memOk s) : OutOk (execSchCtlWrite port v s) := by
  unfold execSchCtlWrite
  split
  · exact memOk_with h
  · exact h

theorem updWalk_memOk {w : Walk} {f : Walk → Walk} {s : State} (h : memOk s) : memOk (updWalk w f s) :=
  memOk_with h

theorem stepPath_memOk {w : Walk} {p : WPath} {l : List WPath} {f : Walk → Walk} {s : State} (h : memOk s) : memOk (stepPath w p l f s) :=
  endWalks_memOk (updWalk_memOk h)

theorem walkFault_memOk {w : Walk} {node cause : Nat} {s : State} (h : memOk s) : memOk (walkFault w node cause s) :=
  endWalks_memOk (memOk_with (updQueue_memOk h))

theorem hubBytes_memOk {p : Place} {n : Nat} {s : State} (h : memOk s) : memOk (hubBytes p n s).2 := by
  unfold hubBytes
  split
  · exact memOk_with h
  · exact h

theorem hubXlate_memOk {s : State} {asid : BitVec 16} {supv : Bool} {va : Nat} {n : Need} {count : Bool} (h : memOk s) : memOk (hubXlate s
    asid supv va n count).2 := by
  unfold hubXlate
  split
  · exact h
  · split
    · next e => exact memOk_of_snd e (xlate_memOk h)
    · exact xlate_memOk h

theorem walkRead_memOk {w : Walk} {va n : Nat} {s : State} (h : memOk s) : memOk (walkRead w va n s).2 := by
  unfold walkRead
  split
  · next e => exact memOk_of_snd e (hubXlate_memOk h)
  · next e =>
    split
    · exact memOk_of_snd e (hubXlate_memOk h)
    · split
      · exact memOk_of_snd e (hubXlate_memOk h)
      · split
        · next e1 => exact memOk_of_snd e1 (hubBytes_memOk (memOk_of_snd e (hubXlate_memOk h)))

theorem atNode_memOk {n : Nat} {kinds : List Nat} {s : State} {f : Walk → WPath → GNode → State → State} (h : memOk s) (hf : ∀ x0 x1 x2 t3,
    memOk t3 → memOk (f x0 x1 x2 t3)) : OutOk (atNode n kinds s f) := by
  unfold atNode
  split
  · exact h
  · split
    · exact meetAt_memOk h
    · next e => exact walkFault_memOk (memOk_of_snd e (walkRead_memOk h))
    · next e =>
      split
      · exact walkFault_memOk (memOk_of_snd e (walkRead_memOk h))
      · split
        · exact hf _ _ _ _ (memOk_of_snd e (walkRead_memOk h))
        · exact h

theorem execGraphJoinNode_memOk {n : Nat} {s : State} (h : memOk s) : OutOk (execGraphJoinNode n s) := by
  unfold execGraphJoinNode
  refine atNode_memOk h (fun x x x s hs => ?_)
  dsimp only
  split <;> exact stepPath_memOk hs

theorem loopDesc_memOk {w : Walk} {g : GNode} {s : State} (h : memOk s) : memOk (loopDesc w g s).2 := by
  unfold loopDesc
  split
  · next e => exact memOk_of_snd e (hubXlate_memOk h)
  · next e =>
    split
    · exact memOk_of_snd e (hubXlate_memOk h)
    · split
      · exact memOk_of_snd e (hubXlate_memOk h)
      · split
        · next e1 => exact memOk_of_snd e1 (hubBytes_memOk (memOk_of_snd e (hubXlate_memOk h)))

theorem nodeTasks_memOk {w : Walk} {p : WPath} {g : GNode} {k : Nat} {s : State} (h : memOk s) : memOk (nodeTasks w p g k s).2 := by
  induction k generalizing s with
  | zero => exact h
  | succ n ih =>
    unfold nodeTasks
    split
    · next e =>
      dsimp only
      split
      · exact h
      · split
        · next e1 => exact ih (EnqOk.of_queued e1 (enter_memOk (memOk_of_snd e (drawFree_memOk h))))
        · exact h

theorem loopTasks_memOk {w : Walk} {p : WPath} {g : GNode} {s : State} (h : memOk s) : memOk (loopTasks w p g s) := by
  unfold loopTasks
  split
  · next e => exact stepPath_memOk (memOk_of_snd e (nodeTasks_memOk h))

theorem execGraphLoopNode_memOk {n : Nat} {s : State} (h : memOk s) : OutOk (execGraphLoopNode n s) := by
  unfold execGraphLoopNode
  refine atNode_memOk h (fun x x x s hs => ?_)
  split
  · exact loopTasks_memOk hs
  · split
    · exact meetAt_memOk h
    · next e1 => exact walkFault_memOk (memOk_of_snd e1 (loopDesc_memOk hs))
    · next e1 =>
      split
      · exact walkFault_memOk (memOk_of_snd e1 (loopDesc_memOk hs))
      · exact loopTasks_memOk (placeWrite_memOk _ _ _ (memOk_of_snd e1 (loopDesc_memOk hs)))

theorem execGraphWhileNode_memOk {n : Nat} {s : State} (h : memOk s) : OutOk (execGraphWhileNode n s) := by
  unfold execGraphWhileNode
  refine atNode_memOk h (fun x x x s hs => ?_)
  split
  · exact meetAt_memOk h
  · next e1 => exact walkFault_memOk (memOk_of_snd e1 (walkRead_memOk hs))
  · next e1 =>
    dsimp only
    split
    · exact stepPath_memOk (memOk_of_snd e1 (walkRead_memOk hs))
    · split
      · exact walkFault_memOk (memOk_of_snd e1 (walkRead_memOk hs))
      · exact stepPath_memOk (memOk_of_snd e1 (walkRead_memOk hs))

theorem execGraphCondNode_memOk {n : Nat} {s : State} (h : memOk s) : OutOk (execGraphCondNode n s) := by
  unfold execGraphCondNode
  refine atNode_memOk h (fun x x x s hs => ?_)
  split
  · exact meetAt_memOk h
  · next e1 => exact walkFault_memOk (memOk_of_snd e1 (walkRead_memOk hs))
  · next e1 => exact stepPath_memOk (memOk_of_snd e1 (walkRead_memOk hs))

theorem execGraphTaskNode_memOk {n : Nat} {s : State} (h : memOk s) : OutOk (execGraphTaskNode n s) := by
  unfold execGraphTaskNode
  refine atNode_memOk h (fun x x x s hs => ?_)
  split
  · next e1 => exact stepPath_memOk (memOk_of_snd e1 (nodeTasks_memOk hs))
  · exact h

theorem execGraphWalkStart_memOk {s : State} (h : memOk s) : OutOk (execGraphWalkStart s) := by
  unfold execGraphWalkStart
  split
  · exact h
  · split
    · exact h
    · split
      · exact h
      · dsimp only
        split
        · exact walkFault_memOk (takeCand_memOk (memOk_with h))
        · split
          · exact meetAt_memOk h
          · next e => exact walkFault_memOk (takeCand_memOk (memOk_with (memOk_of_snd e (walkRead_memOk h))))
          · next e =>
            split
            · exact walkFault_memOk (takeCand_memOk (memOk_with (memOk_of_snd e (walkRead_memOk h))))
            · exact memOk_with (takeCand_memOk (memOk_with (memOk_of_snd e (walkRead_memOk h))))

theorem copyEnter_memOk {x : QRec} {s : State} (h : memOk s) : EnqOk (copyEnter x s) := by
  unfold copyEnter
  dsimp only
  split
  · exact trivial
  · split
    · exact trivial
    · split
      · exact trivial
      · exact enter_memOk h

theorem execRecCopyEnter_memOk {n : Nat} {s : State} (h : memOk s) : OutOk (execRecCopyEnter n s) := by
  unfold execRecCopyEnter
  split
  · exact h
  · dsimp only
    split
    · exact h
    · split
      · next e => exact EnqOk.of_queued e (copyEnter_memOk (memOk_with h))
      · exact h
      · exact discardRec_memOk (memOk_with h)

theorem copyRec_memOk {x : QRec} {s : State} (h : memOk s) : memOk (copyRec x s) := by
  unfold copyRec
  split
  · exact memOk_with h
  · split
    · next e => exact EnqOk.of_queued e (copyEnter_memOk h)
    · exact memOk_with h
    · exact discardRec_memOk h

theorem makeCopy_memOk {d : Decr} {ra : Nat} {cancel : Bool} {s : State} (h : memOk s) : memOk (makeCopy d ra cancel s) := by
  unfold makeCopy
  split
  · next e => exact noteErr_memOk (memOk_of_snd e (hubXlate_memOk h))
  · next e =>
    split
    · exact noteErr_memOk (memOk_of_snd e (hubXlate_memOk h))
    · split
      · next e1 => exact copyRec_memOk (memOk_of_snd e1 (hubBytes_memOk (memOk_of_snd e (hubXlate_memOk h))))

theorem decrAt_memOk {d : Decr} {p : Place} {s : State} (h : memOk s) : memOk (decrAt d p s) := by
  unfold decrAt
  split
  · exact noteErr_memOk h
  · split
    · next e =>
      dsimp only
      split
      · exact updQueue_memOk (memOk_of_snd e (hubBytes_memOk h))
      · split
        · exact makeCopy_memOk (placeWrite_memOk _ _ _ (memOk_of_snd e (hubBytes_memOk h)))
        · exact placeWrite_memOk _ _ _ (memOk_of_snd e (hubBytes_memOk h))

theorem decrMem_memOk {d : Decr} {s : State} (h : memOk s) : memOk (decrMem d s) := by
  unfold decrMem
  split
  · next e => exact noteErr_memOk (memOk_of_snd e (hubXlate_memOk h))
  · next e =>
    split
    · exact meetFrozen_memOk (memOk_with (memOk_of_snd e (hubXlate_memOk h)))
    · exact decrAt_memOk (hubXlate_memOk h)

theorem walkDecr_memOk {wid pid : Nat} {cancel : Bool} {s : State} (h : memOk s) : memOk (walkDecr wid pid cancel s) := by
  unfold walkDecr
  split
  · exact h
  · split
    · exact h
    · dsimp only
      split
      · exact stepPath_memOk h
      · split
        · exact stepPath_memOk h
        · exact stepPath_memOk (memOk_with h)

theorem execJoinDecrement_memOk {s : State} (h : memOk s) : OutOk (execJoinDecrement s) := by
  unfold execJoinDecrement
  split
  · exact h
  · dsimp only
    split
    · exact walkDecr_memOk (memOk_with h)
    · exact decrMem_memOk (memOk_with h)

theorem noteFirst_memOk {s : State} (h : memOk s) : memOk (noteFirst s) :=
  memOk_with h

theorem execPwaitPreemption_memOk {s0 : State} (h : memOk s0) : OutOk (execPwaitPreemption s0) := by
  unfold execPwaitPreemption
  dsimp only
  split
  · split
    · exact noteFirst_memOk h
    · split
      · exact noteFirst_memOk h
      · exact startSave_memOk (memOk_with (noteFirst_memOk h))
  · exact noteFirst_memOk h

theorem startTask_memOk {q order : Nat} {s : State} {p : QRec × Nat × Option Rect} (h : memOk s) : memOk (startTask q order s p) :=
  memOk_with (updCore_memOk h)

theorem dispatchCand_memOk {c : Cand} {l : List (Nat × Option Rect)} {s : State} (h : memOk s) : memOk (dispatchCand c l s) :=
  foldl_memOk (takeCand_memOk (memOk_with h)) fun _ _ hs => startTask_memOk hs

theorem execHubDispatch_memOk {s : State} (h : memOk s) : OutOk (execHubDispatch s) := by
  unfold execHubDispatch
  refine noteFirst_memOk ?_
  split
  · exact dispatchCand_memOk h
  · exact foldl_memOk (takeCand_memOk h) fun _ _ hs1 => discardRec_memOk hs1
  · exact h

theorem execQueueTorn_memOk {q : Nat} {s : State} (h : memOk s) : OutOk (execQueueTorn q s) := by
  unfold execQueueTorn
  split
  · exact updQueue_memOk h
  · exact h

theorem portCmd_memOk {cmd port q : Nat} {s : State} (h : memOk s) : memOk (portCmd cmd port q s) := by
  unfold portCmd
  split
  · exact queueCmd_memOk h
  · exact h

theorem execOff_memOk {port q : Nat} {s : State} (h : memOk s) : OutOk (execOff port q s) :=
  portCmd_memOk h

theorem execReset_memOk {port q : Nat} {s : State} (h : memOk s) : OutOk (execReset port q s) :=
  portCmd_memOk h

theorem execTeardown_memOk {port q : Nat} {s : State} (h : memOk s) : OutOk (execTeardown port q s) :=
  portCmd_memOk h

theorem execDisable_memOk {port q : Nat} {s : State} (h : memOk s) : OutOk (execDisable port q s) :=
  portCmd_memOk h

theorem execEnable_memOk {port q : Nat} {s : State} (h : memOk s) : OutOk (execEnable port q s) :=
  portCmd_memOk h

theorem execHqBaseWrite_memOk {port q v : Nat} {s : State} (h : memOk s) : OutOk (execHqBaseWrite port q v s) := by
  unfold execHqBaseWrite
  split
  · exact hqBase_memOk h
  · exact h

theorem execLaunchWindowWrite_memOk {port ofs : Nat} {bytes : List Nat} {s : State} (h : memOk s) : OutOk (execLaunchWindowWrite port ofs
    bytes s) :=
  windowWrite_memOk h

theorem execWaveCommit_memOk {d : Nat} {s : State} (h : memOk s) : OutOk (execWaveCommit d s) := by
  unfold execWaveCommit
  split
  · exact h
  · split
    · split
      · exact meetAt_memOk h
      · exact commitHeld_memOk h
    · exact h

theorem noteFault_memOk {d : Nat} {f : FaultDue} {s : State} (h : memOk s) : memOk (noteFault d f s) :=
  updDist_memOk h

theorem invFault_memOk {d i : Nat} {cause : BitVec 10} {tval : Nat} {s : State} (h : memOk s) : memOk (invFault d i cause tval s) :=
  noteFault_memOk h

theorem markGang_memOk {k : District} {s : State} (h : memOk s) : memOk (markGang k s) := by
  unfold markGang
  split
  · exact h
  · refine foldl_memOk h fun s x hs => ?_
    split
    · exact updDist_memOk hs
    · exact hs

theorem endFault_memOk {d i : Nat} {cause : BitVec 10} {tval : Nat} {s : State} (h : memOk s) : memOk (endFault d i cause tval s) := by
  unfold endFault
  split
  · exact h
  · split
    · exact h
    · exact raiseThread_memOk (markGang_memOk (killFrom_memOk h))

theorem logError_memOk {q kind cause src : Nat} {isCore : Bool} {addr wave asid : Nat} {s : State} (h : memOk s) : memOk (logError q kind
    cause src isCore addr wave asid s) := by
  unfold logError
  dsimp only
  split
  · exact h
  · refine updQuarter_memOk ?_
    split
    · exact placeWrite_memOk _ _ _ h
    · exact h

theorem retire_memOk {d i e : Nat} {s : State} (h : memOk s) : memOk (retire d i e s) :=
  raise_memOk (endFault_memOk (logError_memOk (updQuarter_memOk h)))

theorem regionError_memOk {d i e : Nat} {poison : Bool} {tval : Nat} {s : State} (h : memOk s) : memOk (regionError d i e poison tval s) :=
    by
  unfold regionError
  dsimp only
  split
  · split
    · split
      · exact endFault_memOk h
      · exact retire_memOk h
    · exact endFault_memOk h
  · exact foldl_memOk (updDist_memOk h) fun _ _ hs => updDist_memOk hs

theorem elemFault_memOk {d : Nat} {v : Inv} {e : Nat} {cause : BitVec 10} {tval : Nat} {s : State} (h : memOk s) : memOk (elemFault d v e
    cause tval s) := by
  unfold elemFault
  split
  · exact regionError_memOk h
  · exact invFault_memOk h

theorem updNode_memOk {e k : Nat} {f : Node → Node} {s : State} (h : memOk s) : memOk (updNode e k f s) :=
  updElem_memOk h

theorem fired_memOk {d : Nat} {s : State} (h : memOk s) : memOk (fired d s) :=
  updDist_memOk h

theorem gwPlace_memOk {k : District} {va : Nat} {n : Need} {count : Bool} {s : State} (h : memOk s) : memOk (gwPlace k va n count s).2 := by
  unfold gwPlace
  split
  · exact h
  · split
    · next e => exact memOk_of_snd e (xlate_memOk h)
    · next e => exact memOk_of_snd e (xlate_memOk h)
    · next e => split <;> exact memOk_of_snd e (xlate_memOk h)

theorem gwHelds_memOk {k : District} {v : Inv} {wave : Nat} {pois : Bool} {l1 : List (Nat × Nat)} {l2 : List Byte} {b : Bool} {s : State}
    (h : memOk s) : memOk (gwHelds k v wave pois l1 l2 b s).2 := by
  induction l1 generalizing l2 b s with
  | nil => exact h
  | cons x l ih =>
    unfold gwHelds
    exact gwBind_memOk (gwPlace_memOk h) (fun _ _ hs => gwBind_memOk (ih hs) (fun _ _ hs1 => hs1))

theorem gwStore_memOk {d : Nat} {v : Inv} {wave va : Nat} {bytes : List Byte} {pois : Bool} {s : State} (h : memOk s) : memOk (gwStore d v
    wave va bytes pois s).2 := by
  unfold gwStore
  split
  · exact h
  · refine gwBind_memOk (gwHelds_memOk h) (fun x s hs => ?_)
    split
    · exact hs
    · exact updDist_memOk hs

theorem gwStores_memOk {d : Nat} {v : Inv} {wave : Nat} {l1 : List (Nat × List Byte × Bool)} {s : State} (h : memOk s) : memOk (gwStores d
    v wave l1 s).2 := by
  induction l1 generalizing s with
  | nil => exact h
  | cons x l ih =>
    unfold gwStores
    exact gwBind_memOk (gwStore_memOk h) (fun _ _ hs => ih hs)

theorem execHeldStoreEntry_memOk {e k : Nat} {s : State} (h : memOk s) : OutOk (execHeldStoreEntry e k s) := by
  unfold execHeldStoreEntry
  split
  · exact h
  · split
    · split
      · split
        · next e => exact fired_memOk (updNode_memOk (memOk_of_snd e (gwStores_memOk h)))
        · exact elemFault_memOk h
        · exact meetAt_memOk h
      · exact h
    · exact h

theorem execStallWatchdogExpiry_memOk {d : Nat} {s : State} (h : memOk s) : OutOk (execStallWatchdogExpiry d s) := by
  unfold execStallWatchdogExpiry
  split
  · exact h
  · split
    · exact h
    · split
      · exact noteFault_memOk h
      · exact h

theorem execGangfault_memOk {d : Nat} {s : State} (h : memOk s) : OutOk (execGangfault d s) := by
  unfold execGangfault
  split
  · exact h
  · dsimp only
    split
    · exact invFault_memOk (updDist_memOk h)
    · exact updDist_memOk h

theorem clearInv_memOk {d i : Nat} {k : District} {s : State} (h : memOk s) : memOk (clearInv d i k s) :=
  updDist_memOk (memOk_with h)

theorem execInvocationEnd_memOk {d : Nat} {s : State} (h : memOk s) : OutOk (execInvocationEnd d s) := by
  unfold execInvocationEnd
  split
  · exact h
  · split
    · exact h
    · split
      · exact h
      · split
        · exact meetAt_memOk h
        · split
          · exact invFault_memOk h
          · exact setInvCpl_memOk (clearInv_memOk (commitHeld_memOk h))

theorem addSnap_memOk {d wave e : Nat} {s : State} (h : memOk s) : memOk (addSnap d wave e s) :=
  updDist_memOk h

theorem joinElem_memOk {d i e : Nat} {s : State} (h : memOk s) : memOk (joinElem d i e s) :=
  addSnap_memOk (updElem_memOk h)

theorem updInv_memOk {d i : Nat} {f : Inv → Inv} {s : State} (h : memOk s) : memOk (updInv d i f s) :=
  updDist_memOk h

theorem execInvokeStart_memOk {d : Nat} {s : State} (h : memOk s) : OutOk (execInvokeStart d s) := by
  unfold execInvokeStart
  split
  · exact h
  · split
    · exact h
    · split
      · exact h
      · split
        · exact updInv_memOk h
        · dsimp only
          split
          · exact h
          · split
            · exact invFault_memOk (updInv_memOk h)
            · exact foldl_memOk (updInv_memOk h) fun _ _ hs => joinElem_memOk hs

theorem execElementJoin_memOk {e : Nat} {s : State} (h : memOk s) : OutOk (execElementJoin e s) := by
  unfold execElementJoin
  split
  · exact h
  · split
    · exact h
    · split
      · exact h
      · split
        · exact invFault_memOk h
        · exact joinElem_memOk h

theorem uncorrectableAt_memOk {line : Nat} {s : State} (h : memOk s) : memOk (uncorrectableAt line s) :=
  logError_memOk (updQuarter_memOk (s := { s with dev := setPois s.dev line true }) ⟨setPois_wf _ _ h.1, h.2.1, h.2.2⟩)

theorem correctedAt_memOk {line : Nat} {s : State} (h : memOk s) : memOk (correctedAt line s) := by
  unfold correctedAt
  dsimp only
  split
  · exact logError_memOk (updQuarter_memOk (logError_memOk (updQuarter_memOk h)))
  · exact logError_memOk (updQuarter_memOk h)

theorem noteRead_memOk {u : Upset} {f : Found} {s : State} (h : memOk s) : memOk (noteRead u f s) :=
  memOk_with h

theorem lineRead_memOk {line : Nat} {f : Found} {s : State} (h : memOk s) : memOk (lineRead line f s) := by
  unfold lineRead
  split
  · exact h
  · refine noteRead_memOk ?_
    split
    · exact h
    · exact correctedAt_memOk h
    · exact uncorrectableAt_memOk h

theorem execPatrolRead_memOk {line err : Nat} {s : State} (h : memOk s) : OutOk (execPatrolRead line err s) :=
  lineRead_memOk h

theorem ungate_memOk {d : Nat} {s : State} (h : memOk s) : memOk (ungate d s) :=
  updDist_memOk h

theorem rollFail_memOk {e d : Nat} {s : State} (h : memOk s) : memOk (rollFail e d s) := by
  unfold rollFail
  split
  · exact h
  · split
    · exact endFault_memOk h
    · exact h

theorem waitAgain_memOk {e : Nat} {s : State} (h : memOk s) : memOk (waitAgain e s) := by
  unfold waitAgain
  split
  · exact h
  · exact memOk_with h

theorem rollDistrict_memOk {d : Nat} {s : State} (h : memOk s) : memOk (rollDistrict d s) := by
  unfold rollDistrict
  split
  · exact h
  · dsimp only
    exact updDist_memOk (foldl_memOk (foldl_memOk (foldl_memOk (foldl_memOk (undoSpad_memOk _ (dropTokens_memOk h)) fun _ _ hs =>
      setElem_memOk hs) fun _ _ hs1 => updElem_memOk hs1) fun _ _ hs2 => updElem_memOk hs2) fun _ _ hs3 => waitAgain_memOk hs3)

theorem execRollback_memOk {d : Nat} {s : State} (h : memOk s) : OutOk (execRollback d s) := by
  unfold execRollback
  split
  · exact h
  · split
    · exact h
    · dsimp only
      refine foldl_memOk ?_ fun _ _ hs => ungate_memOk hs
      split
      · exact foldl_memOk (logError_memOk (updQuarter_memOk h)) fun _ _ hs1 => rollDistrict_memOk hs1
      · exact foldl_memOk (logError_memOk (updQuarter_memOk h)) fun _ _ hs1 => rollFail_memOk hs1

theorem execMilestoneTake_memOk {e : Nat} {s : State} (h : memOk s) : OutOk (execMilestoneTake e s) := by
  unfold execMilestoneTake
  split
  · exact h
  · dsimp only
    split
    · exact elemFault_memOk h
    · exact h
    · split
      · exact h
      · split
        · exact fired_memOk (updElem_memOk h)
        · split
          · exact h
          · split
            · exact regionError_memOk h
            · exact addSnap_memOk (fired_memOk (updElem_memOk h))

theorem execNodeTagTimeout_memOk {e k : Nat} {s : State} (h : memOk s) : OutOk (execNodeTagTimeout e k s) := by
  unfold execNodeTagTimeout
  split
  · exact h
  · split
    · exact elemFault_memOk h
    · exact h

theorem gwPieces_memOk {k : District} {l1 : List (Nat × Nat)} {s : State} (h : memOk s) : memOk (gwPieces k l1 s).2 := by
  induction l1 generalizing s with
  | nil => exact h
  | cons x l ih =>
    unfold gwPieces
    refine gwBind_memOk (gwPlace_memOk h) (fun _ _ hs => gwBind_memOk (ih ?_) (fun _ _ hs1 => hs1))
    split
    · exact memOk_with hs
    · exact hs

theorem gwRead_memOk {k : District} {va n : Nat} {s : State} (h : memOk s) : memOk (gwRead k va n s).2 :=
  gwPieces_memOk h

theorem oneBurst_memOk {k : District} {b : BurstReq} {ch c n : Nat} {s : State} (h : memOk s) : memOk (oneBurst k b ch c n s).2 := by
  unfold oneBurst
  dsimp only
  refine gwBind_memOk ?_ (fun _ _ hs => gwBind_memOk (gwRead_memOk hs) (fun _ _ hs1 => hs1))
  split
  · exact h
  · exact gwRead_memOk h

theorem allBursts_memOk {k : District} {b : BurstReq} {ch j n1 : Nat} {s : State} (h : memOk s) : memOk (allBursts k b ch j n1 s).2 := by
  induction j generalizing n1 s with
  | zero => exact h
  | succ n ih =>
    unfold allBursts
    split
    · exact h
    · exact gwBind_memOk (oneBurst_memOk h) (fun _ _ hs => gwBind_memOk (ih hs) (fun _ _ hs1 => hs1))

theorem execRowBurst_memOk {e k : Nat} {s : State} (h : memOk s) : OutOk (execRowBurst e k s) := by
  unfold execRowBurst
  split
  · exact h
  · split
    · exact h
    · split
      · exact elemFault_memOk h
      · split
        · exact elemFault_memOk h
        · exact meetAt_memOk h
        · next e => exact fired_memOk (updNode_memOk (memOk_of_snd e (allBursts_memOk h)))

theorem execMemoryNodeReturn_memOk {e k : Nat} {s : State} (h : memOk s) : OutOk (execMemoryNodeReturn e k s) := by
  unfold execMemoryNodeReturn
  split
  · exact h
  · split
    · exact h
    · split
      · exact h
      · dsimp only
        split <;> exact fired_memOk (updElem_memOk (updNode_memOk h))

theorem passNode_memOk {e k : Nat} {t : Token} {s : State} (h : memOk s) : memOk (passNode e k t s) := by
  unfold passNode
  split
  · exact updNode_memOk h
  · exact h

theorem addReq_memOk {e k : Nat} {r : NodeReq} {s : State} (h : memOk s) : memOk (addReq e k r s) :=
  updNode_memOk h

theorem popOut_memOk {e n : Nat} {s : State} (h : memOk s) : memOk (popOut e n s) :=
  updElem_memOk h

theorem tagLane_memOk {e k op : Nat} {v : LaneVal} {va L : Nat} {p : Place} {s : State} (h : memOk s) : memOk (tagLane e k op v va L p s).2
    := by
  unfold tagLane
  split
  · exact memOk_with h
  · split
    · next e => exact memOk_of_snd e (tagEffect_memOk (logSpadAt_memOk h))

theorem spadLane_memOk {e k ch : Nat} {v : LaneVal} {va L : Nat} {p : Place} {s : State} (h : memOk s) : memOk (spadLane e k ch v va L p
    s).2 := by
  unfold spadLane
  dsimp only
  split
  · exact h
  · exact placeWrite_memOk _ _ _ (logSpadAt_memOk h)
  · exact tagLane_memOk h
  · exact tagLane_memOk h
  · exact tagLane_memOk h
  · exact tagSetWord_memOk (logSpadAt_memOk h)

theorem spadPerform_memOk {e k : Nat} {t : Token} {v : Option Token} {ps : List (Nat × Place)} {s : State} (h : memOk s) :
    memOk (spadPerform e k t v ps s) :=
  addReq_memOk (foldl_snd_memOk h fun _ _ hs => spadLane_memOk hs)

theorem gwLoad_memOk {k : District} {va n : Nat} {s : State} (h : memOk s) : memOk (gwLoad k va n s).2 :=
  gwBind_memOk (gwRead_memOk h) (fun _ _ hs => hs)

theorem devLoads_memOk {k : District} {e : Ent} {l1 : List (Nat × Nat)} {s : State} (h : memOk s) : memOk (devLoads k e l1 s).2 := by
  induction l1 generalizing s with
  | nil => exact h
  | cons x l ih =>
    unfold devLoads
    exact gwBind_memOk (gwLoad_memOk h) (fun _ _ hs => gwBind_memOk (ih hs) (fun _ _ hs1 => hs1))

theorem devRequest_memOk {d : Nat} {k : District} {v : Inv} {e n : Nat} {t : Token} {val : Option Token} {s : State} (h : memOk s) :
    NodeStepOk (devRequest d k v e n t val s) := by
  unfold devRequest
  split
  · exact trivial
  · split
    · exact trivial
    · split
      · exact trivial
      · split
        · split
          · next e => exact addReq_memOk (memOk_of_snd e (devLoads_memOk h))
          · exact trivial
          · exact trivial
        · split
          · next e => exact addReq_memOk (memOk_of_snd e (gwStores_memOk h))
          · exact trivial
          · exact trivial
          · exact addReq_memOk h

theorem runRequest_memOk {d : Nat} {k : District} {v : Inv} {e n : Nat} {t : Token} {val : Option Token} {s : State} (h : memOk s) :
    NodeStepOk (runRequest d k v e n t val s) := by
  unfold runRequest
  dsimp only
  split
  · split
    · exact trivial
    · split
      · exact trivial
      · exact addReq_memOk h
  · split
    · exact trivial
    · split
      · exact devRequest_memOk h
      · split
        · exact trivial
        · split
          · exact trivial
          · exact spadPerform_memOk h

theorem execMemoryNodeRequest_memOk {e k : Nat} {s : State} (h : memOk s) : OutOk (execMemoryNodeRequest e k s) := by
  unfold execMemoryNodeRequest
  split
  · exact h
  · dsimp only
    split
    · exact h
    · split
      · exact h
      · split
        · exact elemFault_memOk h
        · split
          · exact elemFault_memOk h
          · split
            · split
              · exact elemFault_memOk h
              · split
                · next e => exact fired_memOk (NodeStepOk.of_go e (runRequest_memOk (popOut_memOk h)))
                · exact meetAt_memOk h
                · exact elemFault_memOk h
            · split
              · exact fired_memOk (addReq_memOk (passNode_memOk (popOut_memOk h)))
              · split
                · exact elemFault_memOk h
                · split
                  · exact fired_memOk (updNode_memOk (popOut_memOk h))
                  · split
                    · next e => exact fired_memOk (NodeStepOk.of_go e (runRequest_memOk (popOut_memOk h)))
                    · exact meetAt_memOk h
                    · exact elemFault_memOk h

theorem execMatrixDonePass_memOk {e : Nat} {s : State} (h : memOk s) : OutOk (execMatrixDonePass e s) := by
  unfold execMatrixDonePass
  split
  · exact h
  · dsimp only
    split
    · exact h
    · split
      · exact h
      · split
        · exact elemFault_memOk h
        · split
          · exact h
          · exact fired_memOk (setElem_memOk h)

theorem execMatrixBurstTake_memOk {e : Nat} {s : State} (h : memOk s) : OutOk (execMatrixBurstTake e s) := by
  unfold execMatrixBurstTake
  split
  · exact h
  · next d k v _ =>
    have hp : ∀ x : Elem, memOk (fired d (setElem s e x)) := fun x => fired_memOk (setElem_memOk h)
    have hf : ∀ c, memOk (elemFault d v e c e s) := fun c => elemFault_memOk h
    refine ite_memOk h ?_
    split
    · exact h
    · exact ite_memOk (hf _) (ite_memOk (ite_memOk (hp _) (hf _)) (ite_memOk (ite_memOk (hf _) (hp _))
        (ite_memOk (ite_memOk (hf _) (ite_memOk (hp _) (hf _))) (ite_memOk (hf _) (ite_memOk h
          (ite_memOk (hf _) (ite_memOk h (ite_memOk h (hp _)))))))))

theorem putFired_memOk {d e : Nat} {x : Elem} {s : State} (h : memOk s) : memOk (putFired d e x s) := by
  unfold putFired
  dsimp only
  split
  · exact updDist_memOk (fired_memOk (setElem_memOk h))
  · exact fired_memOk (setElem_memOk h)

theorem execMatrixRowFiring_memOk {e : Nat} {s : State} (h : memOk s) : OutOk (execMatrixRowFiring e s) := by
  unfold execMatrixRowFiring
  split
  · exact h
  · dsimp only
    split
    · split
      · exact fired_memOk (setElem_memOk h)
      · exact h
    · split
      · exact h
      · split
        · exact h
        · exact putFired_memOk h

theorem lwPut_memOk {d : Nat} {v : Inv} {ws : List (Nat × List Byte × Bool)} {r : UStep} {x : Elem} {s : State} (h : memOk s) : memOk
    (lwPut d v ws r x s).2 := by
  unfold lwPut
  split
  · next e => exact memOk_of_snd e (gwStores_memOk h)
  · next e => exact memOk_of_snd e (gwStores_memOk h)
  · exact h

theorem lwStep_memOk {d : Nat} {k : District} {v : Inv} {x : Elem} {s : State} (h : memOk s) : memOk (lwStep d k v x s).2 := by
  unfold lwStep
  dsimp only
  split
  · exact lwPut_memOk h
  · split
    · exact h
    · split
      · exact h
      · split
        · exact h
        · split
          · exact h
          · split
            · split
              · exact h
              · exact lwPut_memOk h
            · split
              · split
                · exact h
                · exact lwPut_memOk h
              · exact lwPut_memOk h

theorem runUnit_memOk {kd : Kind} {e : Nat} {s : State} {f : District → Inv → Elem → State → UStep × State} (h : memOk s) (hf : ∀ x0 x1 x2
    t3, memOk t3 → memOk (f x0 x1 x2 t3).2) : OutOk (runUnit kd e s f) := by
  unfold runUnit
  split
  · exact h
  · split
    · exact h
    · split
      · exact h
      · dsimp only
        split
        · exact elemFault_memOk h
        · split
          · next e => exact fired_memOk (setElem_memOk (memOk_of_snd e (hf _ _ _ _ h)))
          · next e => exact meetAt_memOk (memOk_of_snd e (hf _ _ _ _ h))
          · next e => exact elemFault_memOk (memOk_of_snd e (hf _ _ _ _ h))
          · next e => exact fired_memOk (setElem_memOk (memOk_of_snd e (hf _ _ _ _ h)))

theorem execLevelWriterStep_memOk {e : Nat} {s : State} (h : memOk s) : OutOk (execLevelWriterStep e s) := by
  unfold execLevelWriterStep
  refine runUnit_memOk h (fun x x x s hs => ?_)
  split
  · exact lwStep_memOk hs
  · exact hs

theorem pureStep_memOk {f : Elem → UStep} {d : District} {i : Inv} {e : Elem} {s : State} (h : memOk s) : memOk (pureStep f d i e s).2 :=
  h

theorem execReducerStep_memOk {e : Nat} {s : State} (h : memOk s) : OutOk (execReducerStep e s) :=
  runUnit_memOk h (fun _ _ _ _ hs => pureStep_memOk hs)

theorem execRepeaterFibreReplay_memOk {e : Nat} {s : State} (h : memOk s) : OutOk (execRepeaterFibreReplay e s) := by
  unfold execRepeaterFibreReplay
  split
  · exact runUnit_memOk h (fun _ _ _ _ hs => pureStep_memOk hs)
  · exact h

theorem execRepeaterFibreLoad_memOk {e : Nat} {s : State} (h : memOk s) : OutOk (execRepeaterFibreLoad e s) := by
  unfold execRepeaterFibreLoad
  split
  · exact runUnit_memOk h (fun _ _ _ _ hs => pureStep_memOk hs)
  · exact h

theorem execRepeaterRefStep_memOk {e : Nat} {s : State} (h : memOk s) : OutOk (execRepeaterRefStep e s) := by
  unfold execRepeaterRefStep
  split
  · exact h
  · exact runUnit_memOk h (fun _ _ _ _ hs => pureStep_memOk hs)

theorem execMergeUnionStep_memOk {e : Nat} {s : State} (h : memOk s) : OutOk (execMergeUnionStep e s) := by
  unfold execMergeUnionStep
  split
  · exact h
  · exact runUnit_memOk h (fun _ _ _ _ hs => pureStep_memOk hs)

theorem sendSkip_memOk {e p v n : Nat} {s : State} (h : memOk s) : memOk (sendSkip e p v n s) := by
  unfold sendSkip
  split
  · exact updElem_memOk h
  · exact h

theorem execMergeIntersectStep_memOk {e : Nat} {s : State} (h : memOk s) : OutOk (execMergeIntersectStep e s) := by
  unfold execMergeIntersectStep
  split
  · exact h
  · refine runUnit_memOk h (fun x x x s hs => ?_)
    split
    · exact sendSkip_memOk hs
    · exact hs

theorem scanWord_memOk {k : District} {e : Nat} {crd : Bool} {va : Nat} {s : State} (h : memOk s) : memOk (scanWord k e crd va s).2 := by
  unfold scanWord
  dsimp only
  split
  · exact updElem_memOk h
  · exact gwBind_memOk (gwLoad_memOk h) (fun _ _ hs => updElem_memOk hs)

theorem scanNeed_memOk {k : District} {e : Nat} {crd : Bool} {va : Nat} {s : State} (h : memOk s) : memOk (scanNeed k e crd va s).2 :=
  gwBind_memOk (scanWord_memOk h) (fun _ _ hs => hs)

theorem fibrePos_memOk {k : District} {e : Nat} {L : Level} {p : Nat} {s : State} (h : memOk s) : memOk (fibrePos k e L p s).2 :=
  gwBind_memOk (scanNeed_memOk h) (fun _ _ hs => gwBind_memOk (scanNeed_memOk hs) (fun _ _ hs1 => hs1))

theorem bitmapEnd_memOk {k : District} {e : Nat} {L : Level} {p m : Nat} {s : State} (h : memOk s) : memOk (bitmapEnd k e L p m s).2 :=
  gwBind_memOk (fibrePos_memOk h) (fun _ _ hs => hs)

theorem gwStep_memOk {α : Type} {r : Gw α × State} {f : α → State → UStep × State} (h : memOk r.2) (hf : ∀ x0 t1, memOk t1 → memOk (f x0
    t1).2) : memOk (gwStep r f).2 := by
  unfold gwStep
  split
  · exact hf _ _ h
  · exact h
  · exact h

theorem closeFibre_memOk {k : District} {e : Nat} {L : Level} {p : Nat} {x : Elem} {s : State} (h : memOk s) : memOk (closeFibre k e L p x
    s).2 := by
  unfold closeFibre
  split
  · exact h
  · exact gwStep_memOk (bitmapEnd_memOk h) (fun _ _ hs => hs)

theorem nextBit_memOk {k : District} {e : Nat} {L : Level} {p j n1 : Nat} {s : State} (h : memOk s) : memOk (nextBit k e L p j n1 s).2 := by
  induction j generalizing n1 s with
  | zero => exact h
  | succ n ih =>
    unfold nextBit
    split
    · exact h
    · dsimp only
      refine gwBind_memOk (scanNeed_memOk h) (fun x s hs => ?_)
      split
      · exact hs
      · exact ih hs

theorem countBits_memOk {k : District} {e : Nat} {L : Level} {p t j n1 n2 : Nat} {s : State} (h : memOk s) : memOk (countBits k e L p t j
    n1 n2 s).2 := by
  induction j generalizing n1 n2 s with
  | zero => exact h
  | succ n ih =>
    unfold countBits
    split
    · exact h
    · exact gwBind_memOk (scanNeed_memOk h) (fun _ _ hs => ih hs)

theorem skipEntry_memOk {k : District} {e : Nat} {L : Level} {v fin j n1 : Nat} {s : State} (h : memOk s) : memOk (skipEntry k e L v fin j
    n1 s).2 := by
  induction j generalizing n1 s with
  | zero => exact h
  | succ n ih =>
    unfold skipEntry
    split
    · exact h
    · refine gwBind_memOk (scanNeed_memOk h) (fun x s hs => ?_)
      split
      · exact hs
      · exact ih hs

theorem skipTo_memOk {k : District} {e : Nat} {L : Level} {p pos fin v : Nat} {s : State} (h : memOk s) : memOk (skipTo k e L p pos fin v
    s).2 := by
  unfold skipTo
  split
  · exact gwBind_memOk (skipEntry_memOk h) (fun _ _ hs => hs)
  · split
    · exact h
    · exact gwBind_memOk (countBits_memOk h) (fun _ _ hs => gwBind_memOk (nextBit_memOk hs) (fun _ _ hs1 => hs1))
  · exact h
  · exact h

theorem scanSkip_memOk {d : Nat} {k : District} {v : Inv} {e t : Nat} {s : State} (h : memOk s) : memOk (scanSkip d k v e t s) := by
  unfold scanSkip
  dsimp only
  split
  · exact h
  · split
    · next e => exact updElem_memOk (memOk_of_snd e (skipTo_memOk h))
    · next e =>
      split
      · next e1 => exact setElem_memOk (memOk_of_snd e1 (closeFibre_memOk (memOk_of_snd e (skipTo_memOk h))))
      · next e1 => exact elemFault_memOk (memOk_of_snd e1 (closeFibre_memOk (memOk_of_snd e (skipTo_memOk h))))
      · exact h
    · exact h

theorem execSkipRequest_memOk {e : Nat} {s : State} (h : memOk s) : OutOk (execSkipRequest e s) := by
  unfold execSkipRequest
  split
  · dsimp only
    split
    · exact updElem_memOk h
    · split
      · exact scanSkip_memOk (updElem_memOk h)
      · split
        · exact updElem_memOk (updElem_memOk h)
        · exact updElem_memOk h
  · exact h

theorem refillWindow_memOk {k : District} {e : Nat} {s : State} {crd : Bool} (h : memOk s) : memOk (refillWindow k e s crd) := by
  unfold refillWindow
  split
  · exact h
  · split
    · exact h
    · split
      · next e => exact updElem_memOk (memOk_of_snd e (gwLoad_memOk h))
      · exact meetAt_memOk h
      · exact h

theorem execFibreBufferRefill_memOk {e : Nat} {s : State} (h : memOk s) : OutOk (execFibreBufferRefill e s) := by
  unfold execFibreBufferRefill
  split
  · exact h
  · split
    · exact h
    · exact foldl_memOk h fun _ _ hs => refillWindow_memOk hs

theorem fibreNext_memOk {k : District} {e : Nat} {L : Level} {p pos fin : Nat} {s : State} (h : memOk s) : memOk (fibreNext k e L p pos fin
    s).2 := by
  unfold fibreNext
  split
  · exact nextBit_memOk h
  · exact h

theorem fibreAt_memOk {k : District} {e : Nat} {L : Level} {p pos m : Nat} {s : State} (h : memOk s) : memOk (fibreAt k e L p pos m s).2 :=
    by
  unfold fibreAt
  split
  · exact h
  · exact h
  · exact gwBind_memOk (scanNeed_memOk h) (fun _ _ hs => hs)
  · exact gwBind_memOk (fibrePos_memOk h) (fun _ _ hs => hs)

theorem scanEmit_memOk {k : District} {e : Nat} {L : Level} {p pos fin ch : Nat} {x : Elem} {s : State} (h : memOk s) : memOk (scanEmit k e
    L p pos fin ch x s).2 := by
  unfold scanEmit
  split
  · exact h
  · refine gwStep_memOk (fibreAt_memOk h) (fun x s hs => ?_)
    split
    · exact hs
    · refine gwStep_memOk (fibreNext_memOk hs) (fun x s hs1 => ?_)
      dsimp only
      split
      · exact hs1
      · exact closeFibre_memOk hs1

theorem fibreOpen_memOk {k : District} {e : Nat} {L : Level} {p : Nat} {s : State} (h : memOk s) : memOk (fibreOpen k e L p s).2 := by
  unfold fibreOpen
  split
  · exact h
  · exact h
  · exact gwBind_memOk (fibrePos_memOk h) (fun _ _ hs => hs)
  · exact gwBind_memOk (fibrePos_memOk h) (fun _ _ hs => gwBind_memOk (nextBit_memOk hs) (fun _ _ hs1 => hs1))

theorem scanBegin_memOk {k : District} {e : Nat} {L : Level} {p ch : Nat} {x : Elem} {s : State} (h : memOk s) : memOk (scanBegin k e L p
    ch x s).2 := by
  unfold scanBegin
  refine gwStep_memOk (fibreOpen_memOk h) (fun x s hs => ?_)
  dsimp only
  split
  · split
    · exact hs
    · split
      · exact hs
      · exact closeFibre_memOk hs
  · split
    · exact scanEmit_memOk hs
    · exact closeFibre_memOk hs

theorem rootStep_memOk {k : District} {v : Inv} {e : Nat} {L : Level} {ch : Nat} {x : Elem} {s : State} (h : memOk s) : memOk (rootStep k v
    e L ch x s).2 := by
  unfold rootStep
  dsimp only
  split
  · exact scanBegin_memOk h
  · split
    · exact h
    · split <;> exact h

theorem scanNextStep_memOk {k : District} {e : Nat} {L : Level} {p pos fin ch : Nat} {x : Elem} {s : State} (h : memOk s) : memOk
    (scanNextStep k e L p pos fin ch x s).2 := by
  unfold scanNextStep
  dsimp only
  split
  · exact scanEmit_memOk h
  · split
    · exact scanEmit_memOk h
    · exact closeFibre_memOk h

theorem scanStep_memOk {e : Nat} {k : District} {v : Inv} {x : Elem} {s : State} (h : memOk s) : memOk (scanStep e k v x s).2 := by
  unfold scanStep
  dsimp only
  split
  · exact scanNextStep_memOk h
  · split
    · exact rootStep_memOk h
    · split
      · exact h
      · split
        · split
          · exact h
          · exact scanBegin_memOk h
        · split
          · exact h
          · split
            · exact h
            · split <;> exact h

theorem execScannerStep_memOk {e : Nat} {s : State} (h : memOk s) : OutOk (execScannerStep e s) :=
  runUnit_memOk h (fun _ _ _ _ hs => scanStep_memOk hs)

theorem execBranchCellFinish_memOk {e : Nat} {s : State} (h : memOk s) : OutOk (execBranchCellFinish e s) := by
  unfold execBranchCellFinish
  split
  · dsimp only
    split
    · exact h
    · exact putFired_memOk h
  · exact h

theorem execControlTokenTake_memOk {e : Nat} {s : State} (h : memOk s) : OutOk (execControlTokenTake e s) := by
  unfold execControlTokenTake
  split
  · dsimp only
    split
    · split
      · exact h
      · split
        · exact setElem_memOk h
        · exact fired_memOk (setElem_memOk h)
    · exact h
  · exact h

theorem execStructuralEmission_memOk {e : Nat} {s : State} (h : memOk s) : OutOk (execStructuralEmission e s) := by
  unfold execStructuralEmission
  split
  · exact h
  · dsimp only
    split
    · exact h
    · exact h
    · exact elemFault_memOk h
    · split
      · exact elemFault_memOk h
      · split
        · exact putFired_memOk h
        · exact h
    · split
      · exact elemFault_memOk h
      · split
        · exact h
        · exact putFired_memOk h
    · split
      · exact elemFault_memOk h
      · split
        · exact h
        · exact putFired_memOk h

theorem cellBreak_memOk {d e j st : Nat} {v : Inv} {s : State} (h : memOk s) : memOk (cellBreak d e j st v s) := by
  unfold cellBreak
  split
  · exact h
  · exact raiseThread_memOk (updDist_memOk (updCore_memOk h))

theorem fireEnd_memOk {d e : Nat} {v : Inv} {s : State} (h : memOk s) : memOk (fireEnd d e v s) := by
  unfold fireEnd
  split
  · exact h
  · dsimp only
    split
    · exact cellBreak_memOk (updElem_memOk h)
    · exact elemFault_memOk (updElem_memOk h)

theorem countRepair_memOk {d e word : Nat} {s : State} (h : memOk s) : memOk (countRepair d e word s) :=
  logError_memOk (updQuarter_memOk h)

theorem cellParity_memOk {d e j : Nat} {s : State} (h : memOk s) : OptOk (cellParity d e j s) := by
  unfold cellParity
  dsimp only
  split
  · exact trivial
  · exact foldl_memOk h fun _ _ hs => countRepair_memOk (updElem_memOk hs)

theorem fireData_memOk {d : Nat} {k : District} {v : Inv} {e j : Nat} {s0 : State} (h : memOk s0) : memOk (fireData d k v e j s0) := by
  unfold fireData
  dsimp only
  split
  · exact elemFault_memOk h
  · split
    · exact regionError_memOk h
    · next e => split <;> exact fireEnd_memOk (putFired_memOk (memOk_of_some e (cellParity_memOk h)))

theorem execVectorCellFiring_memOk {e : Nat} {s : State} (h : memOk s) : OutOk (execVectorCellFiring e s) := by
  unfold execVectorCellFiring
  split
  · split
    · split
      · exact fireEnd_memOk h
      · exact h
    · exact h
  · dsimp only
    split
    · exact fireData_memOk h
    · exact h

theorem updSwitch_memOk {s : State} {b : Nat} {f : Switch → Switch} (h : memOk s) : memOk (updSwitch s b f) :=
  memOk_with h

theorem placeHop_memOk {b d i : Nat} {t : Token} {s : State} (h : memOk s) : memOk (placeHop b d i t s) :=
  updSwitch_memOk h

theorem enterStream_memOk {d key port : Nat} {t : Token} {s : State} (h : memOk s) : memOk (enterStream d key port t s).2 := by
  unfold enterStream
  split
  · exact h
  · dsimp only
    split
    · exact updDist_memOk h
    · exact h

theorem relabel_memOk {s : State} {b i : Nat} {t : Token} (h : memOk s) : memOk (relabel s b i t).2 := by
  unfold relabel
  split
  · split
    · exact h
    · exact enterStream_memOk h
  · exact h

theorem relabelHeads_memOk {b : Nat} {heads : List (Nat × Option Token)} {s : State} (h : memOk s) : memOk (relabelHeads b heads s).2 := by
  unfold relabelHeads
  refine foldl_snd_memOk h fun p x hs => ?_
  split
  · exact hs
  · split
    · next e1 => exact memOk_of_snd e1 (relabel_memOk hs)

theorem switchClear_memOk {b dest : Nat} {s : State} (h : memOk s) : memOk (switchClear b dest s) :=
  freeTracks_memOk (updSwitch_memOk h)

theorem leaveTrack_memOk {b d : Nat} {t : Token} {s : State} (h : memOk s) : memOk (leaveTrack b d t s) := by
  unfold leaveTrack
  split
  · exact h
  · dsimp only
    split
    · exact switchClear_memOk (updSwitch_memOk h)
    · exact updSwitch_memOk h

theorem sourceSet_memOk {b i : Nat} {l : List Token} {s : State} (h : memOk s) : memOk (sourceSet b i l s) := by
  unfold sourceSet
  split
  · exact updElem_memOk h
  · split
    · exact updSwitch_memOk h
    · exact h

theorem switchMove_memOk {b i : Nat} {s : State} (h : memOk s) : memOk (switchMove b i s) := by
  unfold switchMove
  dsimp only
  split
  · exact h
  · refine foldl_memOk (relabelHeads_memOk (foldl_memOk h fun s x hs => ?_)) fun _ _ hs1 => placeHop_memOk hs1
    split
    · exact hs
    · split
      · exact leaveTrack_memOk (sourceSet_memOk hs)
      · exact sourceSet_memOk hs

theorem faultQueue_memOk {asid elemA zs zf track iter : Nat} {s : State} (h : memOk s) : memOk (faultQueue asid elemA zs zf track iter s)
    := by
  unfold faultQueue
  dsimp only
  split
  · exact h
  · exact placeWrite_memOk _ _ _ (placeWrite_memOk _ _ _ h)

theorem loseDone_memOk {i : Nat} {s : State} (h : memOk s) : memOk (loseDone i s) :=
  memOk_with h

theorem bollard_memOk {b d nb : Nat} {t : Token} {s : State} (h : memOk s) : memOk (bollard b d nb t s) := by
  unfold bollard
  dsimp only
  split
  · split
    · exact loseDone_memOk (updQuarter_memOk h)
    · exact updQuarter_memOk h
  · split
    · split
      · exact loseDone_memOk (updQuarter_memOk h)
      · exact updQuarter_memOk h
    · split
      · split
        · exact loseDone_memOk (updQuarter_memOk h)
        · exact updQuarter_memOk h
      · refine raise_memOk (faultQueue_memOk (updSwitch_memOk ?_))
        split
        · exact loseDone_memOk (updQuarter_memOk h)
        · exact updQuarter_memOk h

theorem arrive_memOk {b d : Nat} {t : Token} {s : State} (h : memOk s) : OptOk (arrive b d t s) := by
  unfold arrive
  dsimp only
  split
  · split
    · exact updElem_memOk h
    · exact trivial
  · split
    · exact updElem_memOk h
    · exact trivial

theorem hopOnward_memOk {b d : Nat} {s : State} (h : memOk s) : memOk (hopOnward b d s) := by
  unfold hopOnward
  split
  · exact h
  · split
    · exact h
    · dsimp only
      split
      · split
        · next e => exact leaveTrack_memOk (updSwitch_memOk (memOk_of_some e (arrive_memOk h)))
        · exact h
      · split
        · exact h
        · split
          · exact bollard_memOk (leaveTrack_memOk (updSwitch_memOk h))
          · exact switchMove_memOk h

theorem routeCheck_memOk {e port : Nat} {s : State} (h : memOk s) : memOk (routeCheck e port s) := by
  unfold routeCheck
  split
  · exact h
  · split
    · exact h
    · dsimp only
      split
      · exact regionError_memOk (updElem_memOk h)
      · exact updElem_memOk h

theorem hopArrive_memOk {b d : Nat} {s : State} (h : memOk s) : memOk (hopArrive b d s) := by
  unfold hopArrive
  dsimp only
  split
  · exact hopOnward_memOk h
  · exact routeCheck_memOk (hopOnward_memOk h)

theorem portToLink_memOk {e k : Nat} {s : State} (h : memOk s) : memOk (portToLink e k s) := by
  unfold portToLink
  dsimp only
  split
  · exact h
  · split
    · split
      · exact h
      · exact setElem_memOk h
    · split
      · exact h
      · split
        · exact setElem_memOk h
        · exact h

theorem execTokenHop_memOk {kind at_ port : Nat} {s : State} (h : memOk s) : OutOk (execTokenHop kind at_ port s) := by
  unfold execTokenHop
  split
  · exact portToLink_memOk h
  · split
    · exact switchMove_memOk h
    · split
      · exact hopArrive_memOk h
      · exact hopOnward_memOk h

theorem allotTrack_memOk {k : District} {b i : Nat} {drives : Bool} {s : State} (h : memOk s) : memOk (allotTrack k b i drives s) := by
  unfold allotTrack
  dsimp only
  split
  · exact h
  · exact memOk_with h

theorem switchSet_memOk {k : District} {b dest src : Nat} {s : State} (h : memOk s) : memOk (switchSet k b dest src s) :=
  allotTrack_memOk (allotTrack_memOk (updSwitch_memOk h))

theorem execPendingSwitchApply_memOk {b : Nat} {s : State} (h : memOk s) : OutOk (execPendingSwitchApply b s) := by
  unfold execPendingSwitchApply
  split
  · exact h
  · dsimp only
    split
    · exact switchClear_memOk (updSwitch_memOk h)
    · split
      · split
        · exact updSwitch_memOk (switchSet_memOk (updSwitch_memOk h))
        · exact updSwitch_memOk h
      · exact updSwitch_memOk h
    · exact updSwitch_memOk h

theorem clearSwitch_memOk {b : Nat} {s : State} (h : memOk s) : memOk (clearSwitch b s) :=
  foldl_memOk h fun _ _ hs => switchClear_memOk hs

theorem clearElem_memOk {e : Nat} {keep : Bool} {s : State} (h : memOk s) : memOk (clearElem e keep s) := by
  unfold clearElem
  dsimp only
  split
  · refine clearSwitch_memOk ?_
    split
    · exact updElem_memOk h
    · exact memOk_with h
  · split
    · exact updElem_memOk h
    · exact memOk_with h

theorem applyClear_memOk {e : Nat} {keep : Bool} {s : State} (h : memOk s) : memOk (applyClear e keep s) := by
  unfold applyClear
  dsimp only
  split
  · exact updSwitch_memOk (clearElem_memOk h)
  · exact clearElem_memOk h

theorem execPendingCommandApply_memOk {e : Nat} {s : State} (h : memOk s) : OutOk (execPendingCommandApply e s) := by
  unfold execPendingCommandApply
  split
  · exact h
  · dsimp only
    split
    · exact h
    · split
      · exact h
      · split
        · exact updElem_memOk h
        · exact updElem_memOk (applyClear_memOk h)

theorem pendSwitch_memOk {k : District} {b dest : Nat} {src : Option Nat} {s : State} (h : memOk s) : memOk (pendSwitch k b dest src s) :=
    by
  unfold pendSwitch
  dsimp only
  split
  · exact allotTrack_memOk (allotTrack_memOk (updSwitch_memOk h))
  · exact updSwitch_memOk h

theorem pendClear_memOk {k : District} {e : Nat} {s : State} (h : memOk s) : memOk (pendClear k e s) := by
  unfold pendClear
  dsimp only
  split
  · exact pendSwitch_memOk (updElem_memOk h)
  · exact updElem_memOk h

theorem cmdClear_memOk {k : District} {run : CfgRun} {s : State} (h : memOk s) : ExcOk (cmdClear k run s) := by
  unfold cmdClear
  split
  · exact trivial
  · split
    · exact trivial
    · split
      · exact pendClear_memOk h
      · split
        · exact trivial
        · exact clearElem_memOk h

theorem setField_memOk {e f : Nat} {v : W32} {s : State} (h : memOk s) : memOk (setField e f v s) :=
  updElem_memOk h

theorem commitGroup_memOk {d : Nat} {l : List (Nat × Nat × W32)} {s : State} (h : memOk s) : memOk (commitGroup d l s) :=
  foldl_memOk (updDist_memOk h) fun _ _ hs => setField_memOk hs

theorem cmdControl_memOk {d : Nat} {k : District} {run : CfgRun} {w : Nat} {s : State} (h : memOk s) : ExcOk (cmdControl d k run w s) := by
  unfold cmdControl
  dsimp only
  split
  · split
    · exact trivial
    · split
      · split
        · exact trivial
        · exact updDist_memOk h
      · split
        · exact trivial
        · split
          · exact trivial
          · exact updDist_memOk (commitGroup_memOk h)
      · exact updDist_memOk h
      · exact updDist_memOk h
      · exact cmdClear_memOk h
      · exact h
  · split
    · exact trivial
    · split
      · split
        · exact trivial
        · exact updDist_memOk h
      · split
        · exact trivial
        · split
          · exact trivial
          · exact updDist_memOk (commitGroup_memOk h)
      · exact updDist_memOk h
      · exact updDist_memOk h
      · exact cmdClear_memOk h
      · exact h

theorem directWrite_memOk {d : Nat} {k : District} {e f : Nat} {v : W32} {s : State} (h : memOk s) : ExcOk (directWrite d k e f v s) := by
  unfold directWrite
  split
  · split
    · exact setField_memOk h
    · split
      · exact trivial
      · exact updDist_memOk h
  · split
    · exact trivial
    · split
      · split
        · exact switchSet_memOk h
        · exact switchClear_memOk h
      · exact setField_memOk h

theorem pendWrite_memOk {k : District} {e f : Nat} {v : W32} {s : State} (h : memOk s) : memOk (pendWrite k e f v s) := by
  unfold pendWrite
  split
  · exact pendSwitch_memOk h
  · exact updElem_memOk h

theorem fieldWrite_memOk {d : Nat} {k : District} {run : CfgRun} {e f : Nat} {v : W32} {s : State} (h : memOk s) : ExcOk (fieldWrite d k
    run e f v s) := by
  unfold fieldWrite
  split
  · exact trivial
  · split
    · exact pendWrite_memOk h
    · exact directWrite_memOk h

theorem cmdWide_memOk {d : Nat} {k : District} {run : CfgRun} {w v : Nat} {s : State} (h : memOk s) : ExcOk (cmdWide d k run w v s) := by
  unfold cmdWide
  dsimp only
  split
  · exact trivial
  · split
    · exact trivial
    · split
      · exact trivial
      · next e => exact updDist_memOk (memOk_of_ok e (fieldWrite_memOk h))

theorem cmdCursor_memOk {d : Nat} {k : District} {w : Nat} {s : State} (h : memOk s) : ExcOk (cmdCursor d k w s) := by
  unfold cmdCursor
  split
  · exact trivial
  · split
    · exact trivial
    · exact updDist_memOk h

theorem cmdPlain_memOk {d : Nat} {k : District} {run : CfgRun} {w : Nat} {s : State} (h : memOk s) : ExcOk (cmdPlain d k run w s) := by
  unfold cmdPlain
  split
  · exact trivial
  · split
    · exact trivial
    · split
      · exact trivial
      · next e =>
        split
        · exact updDist_memOk (memOk_of_ok e (fieldWrite_memOk h))
        · exact memOk_of_ok e (fieldWrite_memOk h)

theorem cfgStop_memOk {d : Nat} {cause : BitVec 10} {index word read : Nat} {s : State} (h : memOk s) : memOk (cfgStop d cause index word
    read s) :=
  updDist_memOk h

theorem cfgWord_memOk {k : District} {run : CfgRun} {i : Nat} {s : State} (h : memOk s) : memOk (cfgWord k run i s).2 := by
  unfold cfgWord
  split
  · next e => exact memOk_of_snd e (ownerPlace_memOk h)
  · next e =>
    split
    · exact memOk_of_snd e (ownerPlace_memOk h)
    · split
      · exact memOk_of_snd e (ownerPlace_memOk h)
      · split
        · split
          · next e1 => exact memOk_of_snd e1 (peerBytes_memOk (memOk_of_snd e (ownerPlace_memOk h)))
        · split <;> exact memOk_of_snd e (ownerPlace_memOk h)

theorem startLoad_memOk {d : Nat} {s : State} (h : memOk s) : memOk (startLoad d s) :=
  updDist_memOk h

theorem command_memOk {kind d : Nat} {s0 : State} (h : memOk s0) : memOk (command kind d s0) := by
  unfold command
  dsimp only
  split
  · exact startLoad_memOk h
  · split
    · exact startLoad_memOk h
    · split
      · exact startLoad_memOk h
      · split
        · next e => exact meetAt_memOk (memOk_of_snd e (cfgWord_memOk (startLoad_memOk h)))
        · next e => exact cfgStop_memOk (memOk_of_snd e (cfgWord_memOk (startLoad_memOk h)))
        · next e =>
          split
          · exact memOk_of_snd e (cfgWord_memOk (startLoad_memOk h))
          · split
            · exact memOk_of_snd e (cfgWord_memOk (startLoad_memOk h))
            · split
              · split
                · exact cfgStop_memOk (memOk_of_snd e (cfgWord_memOk (startLoad_memOk h)))
                · next e1 => exact updDist_memOk (memOk_of_ok e1 (cmdPlain_memOk (memOk_of_snd e (cfgWord_memOk (startLoad_memOk h)))))
              · split
                · exact cfgStop_memOk (memOk_of_snd e (cfgWord_memOk (startLoad_memOk h)))
                · next e1 => exact updDist_memOk (memOk_of_ok e1 (cmdCursor_memOk (memOk_of_snd e (cfgWord_memOk (startLoad_memOk h)))))
              · split
                · exact cfgStop_memOk (memOk_of_snd e (cfgWord_memOk (startLoad_memOk h)))
                · split
                  · next e1 => exact meetAt_memOk (memOk_of_snd e1 (cfgWord_memOk (memOk_of_snd e (cfgWord_memOk (startLoad_memOk h)))))
                  · next e1 => exact cfgStop_memOk (memOk_of_snd e1 (cfgWord_memOk (memOk_of_snd e (cfgWord_memOk (startLoad_memOk h)))))
                  · next e1 =>
                    split
                    · exact cfgStop_memOk (memOk_of_snd e1 (cfgWord_memOk (memOk_of_snd e (cfgWord_memOk (startLoad_memOk h)))))
                    · next e2 => exact updDist_memOk (memOk_of_ok e2 (cmdWide_memOk (memOk_of_snd e1 (cfgWord_memOk (memOk_of_snd e
                                   (cfgWord_memOk (startLoad_memOk h)))))))
              · split
                · exact cfgStop_memOk (memOk_of_snd e (cfgWord_memOk (startLoad_memOk h)))
                · next e1 => exact updDist_memOk (memOk_of_ok e1 (cmdControl_memOk (memOk_of_snd e (cfgWord_memOk (startLoad_memOk h)))))

theorem execClear_memOk {d : Nat} {s : State} (h : memOk s) : OutOk (execClear d s) :=
  command_memOk h

theorem execWave_memOk {d : Nat} {s : State} (h : memOk s) : OutOk (execWave d s) :=
  command_memOk h

theorem execAbandon_memOk {d : Nat} {s : State} (h : memOk s) : OutOk (execAbandon d s) :=
  command_memOk h

theorem execCommit_memOk {d : Nat} {s : State} (h : memOk s) : OutOk (execCommit d s) :=
  command_memOk h

theorem execStage_memOk {d : Nat} {s : State} (h : memOk s) : OutOk (execStage d s) :=
  command_memOk h

theorem execNop_memOk {d : Nat} {s : State} (h : memOk s) : OutOk (execNop d s) :=
  command_memOk h

theorem execWideWrite_memOk {d : Nat} {s : State} (h : memOk s) : OutOk (execWideWrite d s) :=
  command_memOk h

theorem execSetElementCursor_memOk {d : Nat} {s : State} (h : memOk s) : OutOk (execSetElementCursor d s) :=
  command_memOk h

theorem execPlainWrite_memOk {d : Nat} {s : State} (h : memOk s) : OutOk (execPlainWrite d s) :=
  command_memOk h

theorem enterEvent_memOk {c : Nat} {s : State} (h : memOk s) : memOk (enterEvent c s) := by
  unfold enterEvent
  split
  · exact h
  · split
    · dsimp only
      refine enterTrap_memOk ?_
      split
      · exact updQuarter_memOk (updCore_memOk (abandon_memOk h))
      · exact updCore_memOk (abandon_memOk h)
    · exact h

theorem execAsyncEventEntry_memOk {c : Nat} {s : State} (h : memOk s) : OutOk (execAsyncEventEntry c s) :=
  enterEvent_memOk h

theorem trap_memOk {code : BitVec 10} {tval : Word} {s : State} (h : memOk s) : memOk (trap code tval s) :=
  trapCore_memOk h

theorem coreParityFail_memOk {c r : Nat} {s : State} (h : memOk s) : memOk (coreParityFail c r s) :=
  updCore_memOk (doubleFault_memOk (logError_memOk (updQuarter_memOk h)))

theorem parityFail_memOk {r : Nat} {s : State} (h : memOk s) : memOk (parityFail r s) :=
  coreParityFail_memOk h

theorem countCoreRepair_memOk {c r : Nat} {s : State} (h : memOk s) : memOk (countCoreRepair c r s) :=
  logError_memOk (updQuarter_memOk h)

theorem parityFix_memOk {regs : List Nat} {s : State} (h : memOk s) : ExcOk (parityFix regs s) := by
  unfold parityFix
  dsimp only
  split
  · exact trivial
  · exact foldl_memOk h fun _ _ hs => countCoreRepair_memOk (updCore_memOk hs)

theorem issueB_memOk {regs : List Nat} {s : State} {f : State → State} (h : memOk s) (hf : ∀ t, memOk t → memOk (f t)) : OutOk (issueB regs
    s f) := by
  unfold issueB
  split
  · exact parityFail_memOk h
  · next e => exact hf _ (memOk_of_ok e (parityFix_memOk h))

theorem execBrk_memOk {s : State} (h : memOk s) : OutOk (execBrk s) :=
  issueB_memOk h (fun _ hs => trap_memOk hs)

theorem wx_memOk {s : State} {i : Nat} {v : Word} (h : memOk s) : memOk (wx s i v) :=
  updCore_memOk h

theorem updMe_memOk {s : State} {f : Thread → Thread} (h : memOk s) : memOk (updMe s f) :=
  updThr_memOk h

theorem advance_memOk {len : Nat} {s : State} (h : memOk s) : memOk (advance len s) :=
  updMe_memOk h

theorem retX_memOk {rd : Nat} {v : Word} {s : State} (h : memOk s) : memOk (retX rd v s) :=
  advance_memOk (wx_memOk h)

theorem ceilingNow_memOk {s : State} (h : memOk s) : memOk (ceilingNow s).2 := by
  unfold ceilingNow
  split
  · exact h
  · split
    · next e => exact memOk_of_snd e (drawFree_memOk h)

theorem issue_memOk {g len : Nat} {regs : List Nat} {s : State} {f : State → State} (h : memOk s) (hf : ∀ t, memOk t → memOk (f t)) : OutOk
    (issue g len regs s f) := by
  unfold issue
  split
  · exact parityFail_memOk h
  · next e =>
    split
    · split
      · exact parityFail_memOk (memOk_of_ok e (parityFix_memOk h))
      · next e1 => exact hf _ (memOk_of_ok e1 (parityFix_memOk (memOk_of_ok e (parityFix_memOk h))))
    · exact advance_memOk (memOk_of_ok e (parityFix_memOk h))

theorem execGcQuery_memOk {rd ra g : Nat} {s : State} (h : memOk s) : OutOk (execGcQuery rd ra g s) := by
  unfold execGcQuery
  refine issue_memOk h (fun s hs => ?_)
  split
  · split
    · next e1 => exact retX_memOk (memOk_of_snd e1 (ceilingNow_memOk hs))
  · exact retX_memOk hs
  · exact retX_memOk hs
  · exact retX_memOk hs
  · exact retX_memOk hs
  · exact trap_memOk hs

theorem aged_memOk {s : State} (h : memOk s) : memOk (aged s) := by
  unfold aged
  split
  · exact h
  · exact updCore_memOk h

theorem spin_memOk {timer : Bool} {s : State} (h : memOk s) : memOk (spin timer s) :=
  updMe_memOk h

theorem withAge_memOk {s : State} {f : State → State} (h : memOk s) (hf : ∀ t, memOk t → memOk (f t)) : memOk (withAge s f) := by
  unfold withAge
  split
  · exact spin_memOk h
  · exact hf _ (aged_memOk h)

theorem issueSupv_memOk {i : Instr} {g : Nat} {regs : List Nat} {s : State} {f : State → State} (h : memOk s) (hf : ∀ t, memOk t → memOk (f
    t)) : OutOk (issueSupv i g regs s f) := by
  unfold issueSupv
  split
  · exact issue_memOk h hf
  · exact trap_memOk h

theorem execGcAnn_memOk {ra rb g : Nat} {s : State} (h : memOk s) : OutOk (execGcAnn ra rb g s) := by
  unfold execGcAnn
  refine issueSupv_memOk h (fun s hs => ?_)
  dsimp only
  split
  · exact trap_memOk hs
  · split
    · exact trap_memOk hs
    · split
      · exact trap_memOk hs
      · exact withAge_memOk hs (fun _ hs1 => advance_memOk (announce_memOk (updGc_memOk hs1)))

theorem execGcLeave_memOk {rd g : Nat} {s : State} (h : memOk s) : OutOk (execGcLeave rd g s) := by
  unfold execGcLeave
  refine issueSupv_memOk h (fun _ hs => withAge_memOk hs (fun s hs1 => ?_))
  split
  · exact retX_memOk hs1
  · exact retX_memOk (updGc_memOk hs1)

theorem await_memOk {w : Wait} {s : State} (h : memOk s) : memOk (await w s) :=
  updMe_memOk h

theorem execGcJoin_memOk {rd ra rb g : Nat} {s : State} (h : memOk s) : OutOk (execGcJoin rd ra rb g s) := by
  unfold execGcJoin
  refine issueSupv_memOk h (fun s hs => ?_)
  dsimp only
  split
  · exact trap_memOk hs
  · refine withAge_memOk hs (fun s hs1 => ?_)
    split
    · exact retX_memOk hs1
    · exact await_memOk (updGc_memOk hs1)

theorem moveParked_memOk {c : Nat} {m : Msg} {s : State} (h : memOk s) : memOk (moveParked c m s) := by
  unfold moveParked
  dsimp only
  split
  · exact setOvf_memOk (updCore_memOk (noteHw_memOk h))
  · exact joinDelivery_memOk (updCore_memOk (noteHw_memOk h))

theorem moveAllParked_memOk {c k : Nat} {s : State} (h : memOk s) : memOk (moveAllParked c k s) := by
  induction k generalizing s with
  | zero => exact h
  | succ n ih =>
    unfold moveAllParked
    split
    · exact h
    · split
      · exact h
      · exact ih (moveParked_memOk h)

theorem execSethnd_memOk {rd ra rb g : Nat} {s : State} (h : memOk s) : OutOk (execSethnd rd ra rb g s) := by
  unfold execSethnd
  refine issueSupv_memOk h (fun s hs => ?_)
  dsimp only
  split
  · exact trap_memOk hs
  · split
    · exact retX_memOk (updCore_memOk hs)
    · refine foldl_memOk ?_ fun _ _ hs1 => unholdMsg_memOk hs1
      split
      · exact moveAllParked_memOk (retX_memOk (updCore_memOk hs))
      · exact retX_memOk (updCore_memOk hs)

theorem deliver_memOk {c : Nat} {s : State} (h : memOk s) : memOk (deliver c s) := by
  unfold deliver
  split
  · exact h
  · split
    · exact updCore_memOk (abandon_memOk h)
    · exact h

theorem execMsgDelivery_memOk {c : Nat} {s : State} (h : memOk s) : OutOk (execMsgDelivery c s) :=
  deliver_memOk h

theorem execSigQueueEntry_memOk {c : Nat} {s : State} (h : memOk s) : OutOk (execSigQueueEntry c s) := by
  unfold execSigQueueEntry
  dsimp only
  split
  · exact moveAllParked_memOk h
  · split
    · exact msgAccepted_memOk (joinDelivery_memOk (moveAllParked_memOk h))
    · split
      · exact msgRefused_memOk (moveAllParked_memOk h)
      · exact moveAllParked_memOk h

theorem execSigHoldTimeout_memOk {c : Nat} {s : State} (h : memOk s) : OutOk (execSigHoldTimeout c s) := by
  unfold execSigHoldTimeout
  split
  · exact h
  · exact msgRefused_memOk h

theorem execSigMessageArrival_memOk {n : Nat} {s : State} (h : memOk s) : OutOk (execSigMessageArrival n s) := by
  unfold execSigMessageArrival
  split
  · exact h
  · split
    · exact h
    · split
      · exact handleMsg_memOk h
      · split
        · next e =>
          split
          · exact msgAccepted_memOk (memOk_of_snd e (drawFree_memOk h))
          · exact msgRefused_memOk (memOk_of_snd e (drawFree_memOk h))
          · exact msgRefused_memOk (memOk_of_snd e (drawFree_memOk h))
          · exact msgRefused_memOk (memOk_of_snd e (drawFree_memOk h))

theorem takeWounds_memOk {t : Nat} {p : Wound → Bool} {s : State} (h : memOk s) : memOk (takeWounds t p s) := by
  unfold takeWounds
  dsimp only
  split
  · exact updThread_memOk (memOk_with h)
  · exact memOk_with h

theorem abortThread_memOk {tid reason code : Nat} {s : State} (h : memOk s) : memOk (abortThread tid reason code s) := by
  unfold abortThread
  split
  · exact h
  · exact releaseIf_memOk (memOk_with (takeWounds_memOk (updThread_memOk (undoTx_memOk h))))

theorem txAbort_memOk {reason code : Nat} {s : State} (h : memOk s) : memOk (txAbort reason code s) :=
  abortThread_memOk h

theorem noTx_memOk {f : State → State} {s : State} (hf : ∀ t, memOk t → memOk (f t)) (h : memOk s) : memOk (noTx f s) := by
  unfold noTx
  split
  · exact txAbort_memOk h
  · exact hf _ h

theorem execSig_memOk {ra rb g : Nat} {s : State} (h : memOk s) : OutOk (execSig ra rb g s) := by
  unfold execSig
  refine issue_memOk h (fun _ hs => noTx_memOk (fun s hs1 => ?_) hs)
  dsimp only
  split
  · exact trap_memOk hs1
  · exact await_memOk (memOk_with hs1)

theorem xinv_memOk {p : XEnt → Bool} {a : Option Nat} {rs : Option (List (Nat × Nat))} {s : State} (h : memOk s) : memOk (xinv p a rs s) :=
    by
  unfold xinv
  dsimp only
  split
  · exact await_memOk (memOk_with (dropXlat_memOk h))
  · exact advance_memOk (memOk_with (dropXlat_memOk h))

theorem execXinvVa_memOk {rd ra g : Nat} {s : State} (h : memOk s) : OutOk (execXinvVa rd ra g s) :=
  issueSupv_memOk h (fun _ hs => xinv_memOk hs)

theorem execXinvSpace_memOk {rd g : Nat} {s : State} (h : memOk s) : OutOk (execXinvSpace rd g s) :=
  issueSupv_memOk h (fun _ hs => xinv_memOk hs)

theorem execXinvAll_memOk {g : Nat} {s : State} (h : memOk s) : OutOk (execXinvAll g s) :=
  issueSupv_memOk h (fun _ hs => xinv_memOk hs)

theorem dropLines_memOk {c : Nat} {line : Option Nat} {s : State} (h : memOk s) : memOk (dropLines c line s) :=
  updCore_memOk h

theorem execIcinvAcknowledge_memOk {c : Nat} {s : State} (h : memOk s) : OutOk (execIcinvAcknowledge c s) := by
  unfold execIcinvAcknowledge
  split
  · exact h
  · dsimp only
    refine foldl_memOk (memOk_with (foldl_memOk h fun _ _ hs => dropLines_memOk hs)) fun s x hs1 => ?_
    split
    · exact advanceCore_memOk hs1
    · exact hs1

theorem settle_memOk {sc c : Nat} {s : State} (h : memOk s) : memOk (settle sc c s) := by
  unfold settle
  split
  · exact h
  · exact memOk_with h

theorem releaseBy_memOk {t : Thread} {o : Word} {s : State} (h : memOk s) : memOk (releaseBy t o s) :=
  lcWriteBack_memOk h

theorem releasing_memOk {sc : Nat} {objs : List Word} {s : State} {f : State → State} (h : memOk s) (hf : ∀ t, memOk t → memOk (f t)) :
    memOk (releasing sc objs s f) := by
  unfold releasing
  split
  · exact spin_memOk h
  · exact hf _ (foldl_memOk (settle_memOk h) fun _ _ hs => releaseBy_memOk hs)

theorem icinv_memOk {line : Option Nat} {s : State} (h : memOk s) : memOk (icinv line s) :=
  releasing_memOk h (fun _ hs => await_memOk (memOk_with (dropLines_memOk hs)))

theorem execIcinvLine_memOk {ra g : Nat} {s : State} (h : memOk s) : OutOk (execIcinvLine ra g s) :=
  issueSupv_memOk h (fun _ hs => icinv_memOk hs)

theorem execIcinvAll_memOk {g : Nat} {s : State} (h : memOk s) : OutOk (execIcinvAll g s) :=
  issueSupv_memOk h (fun _ hs => icinv_memOk hs)

theorem execIdle_memOk {g : Nat} {s : State} (h : memOk s) : OutOk (execIdle g s) := by
  unfold execIdle
  refine issueSupv_memOk h (fun s hs => ?_)
  split
  · exact advance_memOk hs
  · exact await_memOk hs

theorem execEret_memOk {g : Nat} {s : State} (h : memOk s) : OutOk (execEret g s) :=
  issueSupv_memOk h (fun _ hs => updMe_memOk hs)

theorem execTack_memOk {g : Nat} {s : State} (h : memOk s) : OutOk (execTack g s) :=
  issueSupv_memOk h (fun _ hs => advance_memOk (updMe_memOk hs))

theorem execTrap_memOk {g n : Nat} {s : State} (h : memOk s) : OutOk (execTrap g n s) :=
  issue_memOk h (fun _ hs => trap_memOk hs)

theorem refuseWord_memOk {code : BitVec 10} {i : Instr} {s : State} (h : memOk s) : OutOk (refuseWord code i s) :=
  trap_memOk h

theorem execMts_memOk {ra g imm : Nat} {s : State} (h : memOk s) : OutOk (execMts ra g imm s) := by
  unfold execMts
  split
  · exact refuseWord_memOk h
  · split
    · exact refuseWord_memOk h
    · exact issue_memOk h (fun _ hs => advance_memOk (sysWrite_memOk hs))

theorem execMfs_memOk {rd g imm : Nat} {s : State} (h : memOk s) : OutOk (execMfs rd g imm s) := by
  unfold execMfs
  split
  · exact refuseWord_memOk h
  · split
    · exact refuseWord_memOk h
    · exact issue_memOk h (fun _ hs => retX_memOk hs)

theorem execSeqSetCompletion_memOk {d : Nat} {s : State} (h : memOk s) : OutOk (execSeqSetCompletion d s) := by
  unfold execSeqSetCompletion
  split
  · exact h
  · split
    · exact foldl_memOk (updDist_memOk (setSeqCpl_memOk h)) fun _ _ hs => setSeqCpl_memOk hs
    · split
      · exact h
      · exact setSeqCpl_memOk (updDist_memOk h)

theorem setHead_memOk {d : Nat} {q : SeqInstr} {s : State} (h : memOk s) : memOk (setHead d q s) :=
  updDist_memOk h

theorem seqStore_memOk {k : District} {va : Nat} {l1 : List PByte} {n : Nat} {m : Moved} {s : State} (h : memOk s) : memOk (seqStore k va
    l1 n m s).2 := by
  induction l1 generalizing n m s with
  | nil => exact h
  | cons x l ih =>
    unfold seqStore
    dsimp only
    split
    · exact h
    · split
      · next e => exact memOk_of_snd e (engPut_memOk h)
      · next e => exact memOk_of_snd e (engPut_memOk h)
      · next e => exact ih (memOk_of_snd e (engPut_memOk h))

theorem stopHead_memOk {d : Nat} {q : SeqInstr} {c : BitVec 10} {s : State} (h : memOk s) : memOk (stopHead d q c s) :=
  setHead_memOk h

theorem copyRow_memOk {d : Nat} {k : District} {q : SeqInstr} {s : State} (h : memOk s) : memOk (copyRow d k q s) := by
  unfold copyRow
  dsimp only
  split
  · split
    · next e => exact stopHead_memOk (memOk_of_snd e (seqCodes_memOk h))
    · exact meetAt_memOk h
    · next e => exact setHead_memOk (updElem_memOk (memOk_of_snd e (seqCodes_memOk h)))
  · split
    · exact meetAt_memOk h
    · split
      · exact stopHead_memOk h
      · exact setHead_memOk (settleMarks_memOk (seqStore_memOk h))

theorem execSeqAccRowMove_memOk {d : Nat} {s : State} (h : memOk s) : OutOk (execSeqAccRowMove d s) := by
  unfold execSeqAccRowMove
  split
  · exact h
  · split
    · split
      · exact h
      · exact copyRow_memOk h
    · split
      · exact setHead_memOk (updElem_memOk h)
      · exact h

theorem execSeqAAccumulate_memOk {d : Nat} {s : State} (h : memOk s) : OutOk (execSeqAAccumulate d s) := by
  unfold execSeqAAccumulate
  split
  · exact h
  · split
    · exact h
    · dsimp only
      exact setHead_memOk (updElem_memOk h)

theorem execSeqABroadcast_memOk {d : Nat} {s : State} (h : memOk s) : OutOk (execSeqABroadcast d s) := by
  unfold execSeqABroadcast
  split
  · exact h
  · split
    · exact h
    · exact setHead_memOk h

theorem execSeqAAlign_memOk {d : Nat} {s : State} (h : memOk s) : OutOk (execSeqAAlign d s) := by
  unfold execSeqAAlign
  split
  · exact h
  · split
    · exact h
    · split
      · exact stopHead_memOk h
      · split
        · exact setHead_memOk h

theorem execSeqAFetch_memOk {d : Nat} {s : State} (h : memOk s) : OutOk (execSeqAFetch d s) := by
  unfold execSeqAFetch
  split
  · exact h
  · split
    · exact h
    · split
      · exact stopHead_memOk h
      · dsimp only
        split
        · next e => exact stopHead_memOk (memOk_of_snd e (gwBind_memOk (seqCodes_memOk h) (fun _ _ hs => gwBind_memOk (seqScales_memOk hs)
                      (fun _ _ hs1 => hs1))))
        · exact meetAt_memOk h
        · next e => exact setHead_memOk (memOk_of_snd e (gwBind_memOk (seqCodes_memOk h) (fun _ _ hs => gwBind_memOk (seqScales_memOk hs)
                      (fun _ _ hs1 => hs1))))

theorem execSeqBWrite_memOk {d : Nat} {s : State} (h : memOk s) : OutOk (execSeqBWrite d s) := by
  unfold execSeqBWrite
  split
  · exact h
  · split
    · exact h
    · exact setHead_memOk (updElem_memOk h)

theorem execSeqBFetch_memOk {d : Nat} {s : State} (h : memOk s) : OutOk (execSeqBFetch d s) := by
  unfold execSeqBFetch
  split
  · exact h
  · split
    · exact h
    · split
      · exact stopHead_memOk h
      · split
        · next e => exact stopHead_memOk (memOk_of_snd e (fetchB_memOk h))
        · exact meetAt_memOk h
        · next e => exact setHead_memOk (memOk_of_snd e (fetchB_memOk h))

theorem spinMoved_memOk {timer : Bool} {p : Place} {s : State} (h : memOk s) : memOk (spinMoved timer p s) :=
  spin_memOk (meetFrozen_memOk h)

theorem cplPlace_memOk {s : State} {c a : Nat} (h : memOk s) : memOk (cplPlace s c a).2 := by
  unfold cplPlace
  split
  · exact h
  · split
    · next e => exact memOk_of_snd e (access_memOk h)
    · next e => split <;> exact memOk_of_snd e (access_memOk h)

theorem issueCpl_memOk {xc : Word} {s : State} {f : State → Issue × State} (h : memOk s) (hf : ∀ t, memOk t → IssueOk (f t)) :
    memOk (issueCpl xc s f) := by
  have hp := cplPlace_memOk (c := s.cur) (a := addr56 xc) h
  unfold issueCpl
  dsimp only
  split
  · next e => exact trap_memOk (memOk_of_snd e hp)
  · next p s1 e =>
    have hi := hf s1 (memOk_of_snd e hp)
    split
    · next e => rw [e] at hi; exact trap_memOk hi
    · next e => rw [e] at hi; exact spin_memOk hi
    · next e =>
      rw [e] at hi
      split
      · exact spinMoved_memOk hi.1
      · exact hi.2 _ (placeSetTag_memOk _ _ (placeWrite_memOk _ _ _ hi.1))

theorem matForm_memOk {fn rd ra rb ext : Nat} {s : State} (h : memOk s) : memOk (matForm fn rd ra rb ext s) := by
  unfold matForm
  dsimp only
  refine issueCpl_memOk h (fun s hs => ?_)
  split
  · exact hs
  · split
    · exact hs
    · split
      · exact hs
      · split
        · exact hs
        · split
          · exact hs
          · split
            · exact hs
            · split
              · exact hs
              · exact ⟨hs, fun _ hs1 => advance_memOk (updDist_memOk hs1)⟩

theorem execMaccZero_memOk {rd ra g ext : Nat} {s : State} (h : memOk s) : OutOk (execMaccZero rd ra g ext s) :=
  issue_memOk h (fun _ hs => noTx_memOk (fun _ hs1 => matForm_memOk hs1) hs)

theorem execMaccCp_memOk {rd ra rb g ext : Nat} {s : State} (h : memOk s) : OutOk (execMaccCp rd ra rb g ext s) :=
  issue_memOk h (fun _ hs => noTx_memOk (fun _ hs1 => matForm_memOk hs1) hs)

theorem execMbload_memOk {rd ra rb g ext : Nat} {s : State} (h : memOk s) : OutOk (execMbload rd ra rb g ext s) :=
  issue_memOk h (fun _ hs => noTx_memOk (fun _ hs1 => matForm_memOk hs1) hs)

theorem execMtile_memOk {rd ra rb g ext : Nat} {s : State} (h : memOk s) : OutOk (execMtile rd ra rb g ext s) :=
  issue_memOk h (fun _ hs => noTx_memOk (fun _ hs1 => matForm_memOk hs1) hs)

theorem postWords_memOk {p : Place} {va : Nat} {ws : List W32} {pois : Bool} {s : State} (h : memOk s) : memOk (postWords p va ws pois s) :=
  sendReq_memOk h

theorem lcOverwrite_memOk {p : Place} {bs : List Byte} {pois : List Bool} {s : State} (h : memOk s) :
    OptOk (lcOverwrite p bs pois s) := by
  unfold lcOverwrite
  cases lcFind s (lcKey p) with
  | none => trivial
  | some l => exact lcPut_memOk h

theorem storeLine_memOk {p : Place} {a : Nat} {bs : List Byte} {pois : List Bool} {s : State} (h : memOk s) : memOk (storeLine p a bs pois
    s) := by
  unfold storeLine
  split
  · next e => exact memOk_of_some e (lcOverwrite_memOk h)
  · exact postWords_memOk h

theorem payloadPlace_memOk {s : State} {a : Nat} {n : Need} (h : memOk s) : memOk (payloadPlace s a n).2 := by
  unfold payloadPlace
  split
  · exact h
  · split
    · exact h
    · split
      · next e => split <;> exact memOk_of_snd e (access_memOk h)
      · exact access_memOk h

theorem tidForm_memOk {ra rb : Nat} {n : Need} {s : State} {f : Nat → Nat → List Place → State → State} (h : memOk s) (hf : ∀ x0 x1 x2 t3,
    memOk t3 → memOk (f x0 x1 x2 t3)) : memOk (tidForm ra rb n s f) := by
  unfold tidForm
  dsimp only
  split
  · exact trap_memOk h
  · split
    · next e => exact trap_memOk (memOk_of_snd e (payloadPlace_memOk h))
    · next e =>
      split
      · exact spinMoved_memOk (memOk_of_snd e (payloadPlace_memOk h))
      · split
        · exact spin_memOk (memOk_of_snd e (payloadPlace_memOk h))
        · exact hf _ _ _ _ (memOk_of_snd e (payloadPlace_memOk h))

theorem execTidRd_memOk {ra rb g : Nat} {s : State} (h : memOk s) : OutOk (execTidRd ra rb g s) := by
  unfold execTidRd
  refine issue_memOk h (fun _ hs => noTx_memOk (fun _ hs1 => tidForm_memOk hs1 (fun _ _ _ _ hs2 => advance_memOk ?_)) hs)
  split
  · exact storeLine_memOk hs2
  · exact placeWrite_memOk _ _ _ hs2

theorem tidStore_memOk {n : Nat} {ws : List Word} {s : State} (h : memOk s) : memOk (tidStore n ws s) := by
  unfold tidStore
  dsimp only
  split
  · exact advance_memOk (memOk_with h)
  · split
    · exact spinMoved_memOk h
    · exact advance_memOk (placeWrite_memOk _ _ _ (memOk_with h))

theorem cachedLine_memOk {s : State} {k : Nat} (h : memOk s) : memOk (cachedLine s k).2 := by
  unfold cachedLine
  split
  · exact h
  · split
    · next e =>
      split
      · exact lcDel_memOk (memOk_of_snd e (drawFree_memOk h))
      · exact memOk_of_snd e (drawFree_memOk h)

theorem peerLine_memOk {p : Place} {s : State} (h : memOk s) : memOk (peerLine p s).2.2 := by
  unfold peerLine
  split
  · next e => exact memOk_of_snd e (cachedLine_memOk h)
  · next e => exact memOk_with (memOk_of_snd e (cachedLine_memOk h))

theorem execTidWr_memOk {ra rb g : Nat} {s : State} (h : memOk s) : OutOk (execTidWr ra rb g s) := by
  unfold execTidWr
  refine issue_memOk h (fun _ hs => noTx_memOk (fun _ hs1 => tidForm_memOk hs1 (fun x x x s hs2 => ?_)) hs)
  dsimp only
  split
  · split
    · exact trap_memOk (peerLine_memOk hs2)
    · split
      · exact trap_memOk (peerLine_memOk hs2)
      · exact tidStore_memOk (peerLine_memOk hs2)
  · split
    · exact trap_memOk hs2
    · split
      · exact trap_memOk hs2
      · exact tidStore_memOk hs2

theorem execRemoteLinkFail_memOk {n : Nat} {s : State} (h : memOk s) : OutOk (execRemoteLinkFail n s) := by
  unfold execRemoteLinkFail
  split
  · split
    · exact failEngine_memOk h
    · exact h
  · split
    · exact h
    · split
      · split
        · exact failAtomic_memOk h
        · exact h
      · exact h

theorem sendPacket_memOk {node engine req : Nat} {s : State} (h : memOk s) : memOk (sendPacket node engine req s) := by
  unfold sendPacket
  split
  · exact h
  · exact memOk_with h

theorem amoPosted_memOk {c a : Nat} {r : Option Nat × State} (h : memOk r.2) : memOk (amoPosted c a r) := by
  unfold amoPosted
  split
  · exact h
  · exact raise_memOk h

theorem ramoHere_memOk {fn rd w a b e : Nat} {posted : Bool} {p : Place} {s : State} (h : memOk s) : memOk (ramoHere fn rd w a b e posted p
    s) := by
  unfold ramoHere
  dsimp only
  split
  · split
    · exact advance_memOk (sendReq_memOk h)
    · exact await_memOk (sendReq_memOk h)
  · split
    · exact advance_memOk (amoPosted_memOk (amoPerform_memOk h))
    · split
      · exact advance_memOk (wx_memOk (amoPerform_memOk h))
      · exact trap_memOk (amoPerform_memOk h)

theorem amoAccess_memOk {a w bytes : Nat} {s : State} {f : Place → List Place → State → State} (h : memOk s) (hf : ∀ x0 x1 t2, memOk t2 →
    memOk (f x0 x1 t2)) : memOk (amoAccess a w bytes s f) := by
  unfold amoAccess
  split
  · exact trap_memOk h
  · split
    · next e => exact trap_memOk (memOk_of_snd e (access_memOk h))
    · next e =>
      dsimp only
      split
      · exact trap_memOk (memOk_of_snd e (access_memOk h))
      · split
        · exact spin_memOk (memOk_of_snd e (access_memOk h))
        · refine hf _ _ _ ?_
          split
          · exact lcDrop_memOk (memOk_of_snd e (access_memOk h))
          · exact memOk_of_snd e (access_memOk h)

theorem execRamo_memOk {rd ra rb g ext : Nat} {s : State} (h : memOk s) : OutOk (execRamo rd ra rb g ext s) := by
  unfold execRamo
  dsimp only
  refine issue_memOk h (fun _ hs => noTx_memOk (fun s hs1 => ?_) hs)
  split
  · exact trap_memOk hs1
  · split
    · exact amoAccess_memOk hs1 (fun _ _ _ hs1 => ramoHere_memOk hs1)
    · split
      · exact trap_memOk hs1
      · split
        · split
          · exact trap_memOk hs1
          · split
            · exact advance_memOk (sendPacket_memOk (sendReq_memOk (memOk_with hs1)))
            · exact await_memOk (sendPacket_memOk (sendReq_memOk (memOk_with hs1)))
        · split
          · exact trap_memOk hs1
          · split
            · exact advance_memOk (sendPacket_memOk (sendReq_memOk (memOk_with hs1)))
            · exact await_memOk (sendPacket_memOk (sendReq_memOk (memOk_with hs1)))

theorem sendEngine_memOk {e : Engine} {board : Option (Nat × Nat)} {s : State} (h : memOk s) : memOk (sendEngine e board s) := by
  unfold sendEngine
  dsimp only
  split
  · split
    · exact updDist_memOk (memOk_with h)
    · exact memOk_with h
  · exact memOk_with h

theorem dmaSend_memOk {kind : Nat} {xc : Word} {near far first ext len : Nat} {entry : List Word} {board : Option Nat} {s : State} (h :
    memOk s) : IssueOk (dmaSend kind xc near far first ext len entry board s) := by
  unfold dmaSend
  split
  · exact h
  · exact h
  · split
    · exact h
    · exact ⟨h, fun _ hs => advance_memOk (sendEngine_memOk hs)⟩

theorem sentBy_memOk {node : Nat} {old new : State} (_ : memOk old) (h1 : memOk new) : memOk (sentBy node old new) := by
  unfold sentBy
  split
  · exact sendPacket_memOk h1
  · exact h1

theorem transfer_memOk {kind rd : Nat} {near far : Word} {ext : Nat} {s : State} (h : memOk s) : memOk (transfer kind rd near far ext s) :=
    by
  unfold transfer
  refine sentBy_memOk h (issueCpl_memOk h (fun s hs => ?_))
  dsimp only
  split
  · exact hs
  · exact dmaSend_memOk hs

theorem execRget_memOk {rd ra rb g ext : Nat} {s : State} (h : memOk s) : OutOk (execRget rd ra rb g ext s) :=
  issue_memOk h (fun _ hs => noTx_memOk (fun _ hs1 => transfer_memOk hs1) hs)

theorem execRput_memOk {rd ra rb g ext : Nat} {s : State} (h : memOk s) : OutOk (execRput rd ra rb g ext s) :=
  issue_memOk h (fun _ hs => noTx_memOk (fun _ hs1 => transfer_memOk hs1) hs)

theorem updEngine_memOk {id : Nat} {f : Engine → Engine} {s : State} (h : memOk s) : memOk (updEngine id f s) :=
  memOk_with h

theorem engRead_memOk {o : Owner} {rect : Option Rect} {va k j : Nat} {s : State} (h : memOk s) : memOk (engRead o rect va k j s).2 := by
  induction k generalizing j s with
  | zero => exact h
  | succ n ih =>
    unfold engRead
    exact gwBind_memOk (engByte_memOk h) (fun _ _ hs => gwBind_memOk (ih hs) (fun _ _ hs1 => hs1))

theorem binRead_memOk {o : Owner} {a n : Nat} {s : State} (h : memOk s) : memOk (binRead o a n s).2 :=
  gwBind_memOk (engRead_memOk h) (fun _ _ hs => hs)

theorem playAt_memOk {α : Type} {addr : Nat} {r : Gw α × State} {f : α → State → Play} (h : memOk r.2) (hf : ∀ x0 t1, memOk t1 → PlayOk (f
    x0 t1)) : PlayOk (playAt addr r f) := by
  unfold playAt
  split
  · exact hf _ _ h
  · exact h
  · exact trivial

theorem playRecords_memOk {o : Owner} {rect : Option Rect} {b : BinSet} {g k j : Nat} {s : State} (h : memOk s) : PlayOk (playRecords o
    rect b g k j s) := by
  induction k generalizing j s with
  | zero => exact h
  | succ n ih =>
    unfold playRecords
    refine playAt_memOk (binRead_memOk h) (fun x s hs => ?_)
    dsimp only
    split
    · next e1 => exact memOk_of_snd e1 (engPlace_memOk hs)
    · next e1 =>
      split
      · next e2 => exact memOk_of_snd e2 (amoPerform_memOk (logSpad_memOk (memOk_of_snd e1 (engPlace_memOk hs))))
      · next e2 => exact ih (memOk_of_snd e2 (amoPerform_memOk (logSpad_memOk (memOk_of_snd e1 (engPlace_memOk hs)))))

theorem playCopy_memOk {o : Owner} {rect : Option Rect} {src dst n : Nat} {s : State} (h : memOk s) : PlayOk (playCopy o rect src dst n s)
    := by
  unfold playCopy
  split
  · next e =>
    dsimp only
    split
    · exact trivial
    · split
      · exact settleMarks_memOk (memOk_of_snd e (moveBytes_memOk h))
      · split <;> exact settleMarks_memOk (memOk_of_snd e (moveBytes_memOk h))

theorem Play.bind_memOk {r : Play} {f : State → Play} (h : PlayOk r) (hf : ∀ t, memOk t → PlayOk (f t)) : PlayOk (Play.bind r f) := by
  unfold Play.bind
  split
  · exact hf _ h
  · exact h
  · exact trivial

theorem binFill_memOk {o : Owner} {b : BinSet} {g : Nat} {s : State} (h : memOk s) : memOk (binFill o b g s).2 :=
  gwBind_memOk (binRead_memOk h) (fun _ _ hs => hs)

theorem playIn_memOk {e : Engine} {g : Nat} {s : State} (h : memOk s) : PlayOk (playIn e g s) :=
  playAt_memOk (binFill_memOk h) (fun _ _ hs => Play.bind_memOk (playCopy_memOk hs) (fun _ hs1 => Play.bind_memOk (playRecords_memOk hs1)
    (fun _ hs2 => updEngine_memOk hs2)))

theorem engWrite_memOk {o : Owner} {va : Nat} {l1 : List Byte} {n : Nat} {s : State} (h : memOk s) : memOk (engWrite o va l1 n s).2 := by
  induction l1 generalizing n s with
  | nil => exact h
  | cons x l ih =>
    unfold engWrite
    exact gwBind_memOk (engPut_memOk h) (fun _ _ hs => ih hs)

theorem binWrite_memOk {o : Owner} {a n v : Nat} {s : State} (h : memOk s) : memOk (binWrite o a n v s).2 :=
  engWrite_memOk h

theorem playShift_memOk {o : Owner} {b : BinSet} {g k j n1 : Nat} {s : State} (h : memOk s) : PlayOk (playShift o b g k j n1 s) := by
  induction j generalizing n1 s with
  | zero => exact h
  | succ n ih =>
    unfold playShift
    exact playAt_memOk (binRead_memOk h) (fun _ _ hs => playAt_memOk (binWrite_memOk hs) (fun _ _ hs1 => ih hs1))

theorem playOut_memOk {e : Engine} {g f : Nat} {s : State} (h : memOk s) : PlayOk (playOut e g f s) :=
  Play.bind_memOk (playCopy_memOk h) (fun _ hs => playAt_memOk (binFill_memOk hs) (fun _ _ hs1 => Play.bind_memOk (playShift_memOk hs1)
    (fun _ hs2 => playAt_memOk (binWrite_memOk hs2) (fun _ _ hs3 => updEngine_memOk hs3))))

theorem execBinRegionReplay_memOk {n : Nat} {s : State} (h : memOk s) : OutOk (execBinRegionReplay n s) := by
  unfold execBinRegionReplay
  split
  · exact h
  · next e _ =>
    split
    · exact h
    · split
      · exact endEngine_memOk h
      · split
        · exact endEngine_memOk h
        · have hr : PlayOk (match e.fill with
              | some f => playOut e (e.near + e.done) f s
              | none => if (e.done == 0 && e.behind s) || playing s e.far e.asid (e.near + e.done) then .go s
                  else playIn e (e.near + e.done) s) := by
            split
            · exact playOut_memOk h
            · split
              · exact h
              · exact playIn_memOk h
          dsimp only
          split
          · next e => exact PlayOk.of_go e hr
          · next e => exact endEngine_memOk (PlayOk.of_stop e hr)
          · exact meetAt_memOk h

theorem binDesc_memOk {s : State} {a : Nat} {tv : Word} (h : memOk s) : memOk (binDesc s a tv).2 := by
  unfold binDesc
  split
  · exact h
  · split
    · next e => exact memOk_of_snd e (access_memOk h)
    · next e =>
      dsimp only
      split
      · exact memOk_of_snd e (access_memOk h)
      · split
        · exact meetFrozen_memOk (memOk_of_snd e (access_memOk h))
        · split
          · exact peerLine_memOk (memOk_of_snd e (access_memOk h))
          · exact memOk_of_snd e (access_memOk h)

theorem execBinPlay_memOk {rd ra rb g : Nat} {s : State} (h : memOk s) : OutOk (execBinPlay rd ra rb g s) := by
  unfold execBinPlay
  refine issue_memOk h (fun _ hs => noTx_memOk (fun _ hs1 => issueCpl_memOk hs1 (fun s hs2 => ?_)) hs)
  dsimp only
  split
  · next e1 => exact memOk_of_snd e1 (binDesc_memOk hs2)
  · next e1 => exact memOk_of_snd e1 (binDesc_memOk hs2)
  · next e1 =>
    split
    · exact memOk_of_snd e1 (binDesc_memOk hs2)
    · split
      · exact memOk_of_snd e1 (binDesc_memOk hs2)
      · split
        · exact memOk_of_snd e1 (binDesc_memOk hs2)
        · exact ⟨memOk_of_snd e1 (binDesc_memOk hs2), fun _ hs2 => advance_memOk (sendEngine_memOk hs2)⟩

theorem applyRecord_memOk {o : Owner} {b : BinSet} {g rec_ : Nat} {s : State} (h : memOk s) : memOk (applyRecord o b g rec_ s).2 := by
  unfold applyRecord
  dsimp only
  split
  · next e => exact memOk_of_snd e (engPlace_memOk h)
  · next e =>
    split
    · exact memOk_of_snd e (engPlace_memOk h)
    · split
      · exact memOk_of_snd e (engPlace_memOk h)
      · split
        · exact sendReq_memOk (lcDrop_memOk (memOk_of_snd e (engPlace_memOk h)))
        · exact amoPerform_memOk (memOk_of_snd e (engPlace_memOk h))

theorem flushBin_memOk {o : Owner} {b : BinSet} {g k j : Nat} {s : State} (h : memOk s) : memOk (flushBin o b g k j s).2 := by
  induction k generalizing j s with
  | zero => exact h
  | succ n ih =>
    unfold flushBin
    split
    · next e => exact gwBind_memOk (applyRecord_memOk (memOk_of_snd e (binRead_memOk h))) (fun _ _ hs1 => ih hs1)
    · next e => exact ih (memOk_of_snd e (binRead_memOk h))
    · next e => exact memOk_of_snd e (binRead_memOk h)

theorem binAppend_memOk {o : Owner} {b : BinSet} {desc g rec_ : Nat} {s : State} (h : memOk s) : memOk (binAppend o b desc g rec_ s).2 := by
  unfold binAppend
  refine gwBind_memOk (binFill_memOk h) (fun x s hs => ?_)
  split
  · exact hs
  · refine gwBind_memOk ?_ (fun _ _ hs1 => gwBind_memOk (binWrite_memOk hs1) (fun _ _ hs2 => binWrite_memOk hs2))
    split
    · exact flushBin_memOk hs
    · exact hs

theorem execBinAppendAtEngine_memOk {n : Nat} {s : State} (h : memOk s) : OutOk (execBinAppendAtEngine n s) := by
  unfold execBinAppendAtEngine
  split
  · exact h
  · dsimp only
    split
    · exact h
    · split
      · exact meetAt_memOk h
      · next e => exact memOk_with (memOk_of_snd e (gwBind_memOk (engRead_memOk h) (fun _ _ hs => binAppend_memOk hs)))

theorem execBinApp_memOk {rd ra rb g : Nat} {s : State} (h : memOk s) : OutOk (execBinApp rd ra rb g s) := by
  unfold execBinApp
  refine issue_memOk h (fun _ hs => noTx_memOk (fun s hs1 => ?_) hs)
  dsimp only
  split
  · next e1 => exact trap_memOk (memOk_of_snd e1 (binDesc_memOk hs1))
  · next e1 => exact spin_memOk (memOk_of_snd e1 (binDesc_memOk hs1))
  · next e1 =>
    split
    · exact trap_memOk (memOk_of_snd e1 (binDesc_memOk hs1))
    · exact advance_memOk (memOk_with (memOk_of_snd e1 (binDesc_memOk hs1)))

theorem runAway_memOk {e : Engine} {s : State} (h : memOk s) : RunOk (runAway e s) := by
  unfold runAway
  split
  · next e =>
    split
    · next e1 =>
      dsimp only
      split
      · split
        · split
          · exact trivial
          · split <;> exact settleMarks_memOk (moveBytes_memOk (memOk_of_snd e1 (freeBelow_memOk (memOk_of_snd e (drawFree_memOk h)))))
        · split
          · exact trivial
          · split <;> exact settleMarks_memOk (moveBytes_memOk (memOk_of_snd e1 (freeBelow_memOk (memOk_of_snd e (drawFree_memOk h)))))
      · split
        · split
          · exact trivial
          · split <;> exact settleMarks_memOk (moveBytes_memOk (memOk_of_snd e1 (freeBelow_memOk (memOk_of_snd e (drawFree_memOk h)))))
        · split
          · exact trivial
          · split <;> exact settleMarks_memOk (moveBytes_memOk (memOk_of_snd e1 (freeBelow_memOk (memOk_of_snd e (drawFree_memOk h)))))

theorem execDmaEnd_memOk {n : Nat} {s : State} (h : memOk s) : OutOk (execDmaEnd n s) := by
  unfold execDmaEnd
  split
  · exact h
  · next e _ =>
    have hr := runUpTo_memOk (e := e) (limit := 64 * (if e.behind s then (0, s) else freeBelow (e.len / 64) s).1)
      (freeUnless_memOk (b := e.behind s) (n := e.len / 64) h)
    split
    · exact h
    · split
      · dsimp only
        split
        · next e => exact endEngine_memOk (RunOk.of_over e hr)
        · next e => exact endEngine_memOk (RunOk.of_over e hr)
        · exact meetAt_memOk h
      · split
        · exact h
        · have hd : RunOk (if (awayNode s e).isSome then runAway e s
              else if e.kind = 0x20 then runSegs { e with kind := 0x11 } e.len [⟨0, e.far, e.len⟩] 0 s
              else if e.kind = 0x21 then runSegs { e with kind := 0x12 } e.len [⟨0, e.far, e.len⟩] 0 s
              else runDma e e.len s) := by
            split
            · exact runAway_memOk h
            · split
              · exact runSegs_memOk h
              · split
                · exact runSegs_memOk h
                · exact runDma_memOk h
          dsimp only
          split
          · next e => exact endEngine_memOk (RunOk.of_over e hd)
          · next e => exact endEngine_memOk (RunOk.of_over e hd)
          · exact meetAt_memOk h

theorem execDmaGath_memOk {rd ra rb g ext : Nat} {s : State} (h : memOk s) : OutOk (execDmaGath rd ra rb g ext s) := by
  unfold execDmaGath
  refine issue_memOk h (fun _ hs => noTx_memOk (fun _ hs1 => issueCpl_memOk hs1 (fun s hs2 => ?_)) hs)
  dsimp only
  split
  · exact hs2
  · split
    · exact hs2
    · exact dmaSend_memOk hs2

theorem execDmaCp_memOk {rd ra rb g ext : Nat} {s : State} (h : memOk s) : OutOk (execDmaCp rd ra rb g ext s) :=
  issue_memOk h (fun _ hs => noTx_memOk (fun _ hs1 => issueCpl_memOk hs1 (fun _ hs2 => dmaSend_memOk hs2)) hs)

theorem dmaTile_memOk {kind rd ra rb ext : Nat} {s : State} (h : memOk s) : memOk (dmaTile kind rd ra rb ext s) := by
  unfold dmaTile
  refine issueCpl_memOk h (fun s hs => ?_)
  dsimp only
  split
  · exact hs
  · split
    · exact hs
    · exact dmaSend_memOk hs

theorem execDmaSt_memOk {rd ra rb g ext : Nat} {s : State} (h : memOk s) : OutOk (execDmaSt rd ra rb g ext s) :=
  issue_memOk h (fun _ hs => noTx_memOk (fun _ hs1 => dmaTile_memOk hs1) hs)

theorem execDmaLd_memOk {rd ra rb g ext : Nat} {s : State} (h : memOk s) : OutOk (execDmaLd rd ra rb g ext s) :=
  issue_memOk h (fun _ hs => noTx_memOk (fun _ hs1 => dmaTile_memOk hs1) hs)

theorem execTdownComplete_memOk {d : Nat} {s : State} (h : memOk s) : OutOk (execTdownComplete d s) := by
  unfold execTdownComplete
  split
  · exact h
  · split
    · exact h
    · split
      · exact h
      · dsimp only
        refine setCpl_memOk (updDist_memOk (foldl_memOk (wipeRect_memOk h) fun s x hs => ?_))
        split
        · exact hs
        · exact setElem_memOk hs

theorem execTdown_memOk {rd g : Nat} {s : State} (h : memOk s) : OutOk (execTdown rd g s) := by
  unfold execTdown
  refine issue_memOk h (fun _ hs => noTx_memOk (fun _ hs1 => issueCpl_memOk hs1 (fun s hs2 => ?_)) hs)
  split
  · exact hs2
  · split
    · exact hs2
    · exact ⟨hs2, fun _ hs1 => advance_memOk (updDist_memOk hs1)⟩

theorem settleLogs_memOk {k : District} {s : State} (h : memOk s) : memOk (settleLogs k s) :=
  memOk_with h

theorem execMstoneComplete_memOk {d : Nat} {s : State} (h : memOk s) : OutOk (execMstoneComplete d s) := by
  unfold execMstoneComplete
  split
  · exact h
  · split
    · exact h
    · split
      · exact h
      · dsimp only
        refine setCpl_memOk ?_
        split
        · exact updQuarter_memOk (updDist_memOk (settleLogs_memOk h))
        · exact updDist_memOk (settleLogs_memOk h)

theorem onLink_memOk {d e port : Nat} {f : List Token → List Token} {s : State} (h : memOk s) : memOk (onLink d e port f s) :=
  updDist_memOk (updElem_memOk h)

theorem mileBehind_memOk {d : Nat} {k : District} {e port i w : Nat} {s : State} (h : memOk s) : memOk (mileBehind d k e port i w s) :=
  onLink_memOk h

theorem mileFirst_memOk {d : Nat} {k : District} {e port w : Nat} {s : State} (h : memOk s) : memOk (mileFirst d k e port w s) := by
  unfold mileFirst
  split
  · exact h
  · exact onLink_memOk h

theorem pushMile_memOk {d e port w : Nat} {s : State} (h : memOk s) : memOk (pushMile d e port w s) := by
  unfold pushMile
  split
  · exact h
  · split
    · exact mileFirst_memOk h
    · split
      · exact h
      · split
        · exact updDist_memOk h
        · exact mileBehind_memOk h

theorem execMstone_memOk {rd ra g : Nat} {s : State} (h : memOk s) : OutOk (execMstone rd ra g s) := by
  unfold execMstone
  refine issue_memOk h (fun _ hs => noTx_memOk (fun _ hs1 => issueCpl_memOk hs1 (fun s hs2 => ?_)) hs)
  split
  · exact hs2
  · dsimp only
    split
    · exact hs2
    · split
      · exact hs2
      · exact ⟨hs2, fun _ hs1 => advance_memOk (updDist_memOk (foldl_memOk hs1 fun _ _ hs2 => pushMile_memOk hs2))⟩

theorem withDist_memOk {s : State} {f : Nat → District → State → State} (h : memOk s) (hf : ∀ x0 x1 t2, memOk t2 → memOk (f x0 x1 t2)) :
    memOk (withDist s f) := by
  unfold withDist
  split
  · exact trap_memOk h
  · exact hf _ _ _ h

theorem execCtxset_memOk {ra g : Nat} {s : State} (h : memOk s) : OutOk (execCtxset ra g s) := by
  unfold execCtxset
  refine issue_memOk h (fun _ hs => noTx_memOk (fun _ hs1 => withDist_memOk hs1 (fun x x s hs2 => ?_)) hs)
  dsimp only
  split
  · exact trap_memOk hs2
  · split
    · exact spin_memOk hs2
    · exact advance_memOk (updDist_memOk hs2)

theorem execDrain_memOk {g : Nat} {s : State} (h : memOk s) : OutOk (execDrain g s) := by
  unfold execDrain
  refine issue_memOk h (fun _ hs => noTx_memOk (fun _ hs1 => withDist_memOk hs1 (fun x x s hs2 => ?_)) hs)
  split
  · exact spin_memOk hs2
  · exact releasing_memOk hs2 (fun _ hs1 => advance_memOk hs1)

theorem fetchLine_memOk {s : State} {c va : Nat} {p : Place} (h : memOk s) : memOk (fetchLine s c va p).2 := by
  unfold fetchLine
  dsimp only
  split
  · exact h
  · refine updCore_memOk (memOk_with ?_)
    split
    · exact memOk_with h
    · exact h

theorem fetchWord_memOk {s : State} {c va : Nat} (h : memOk s) : memOk (fetchWord s c va).2 := by
  unfold fetchWord
  dsimp only
  split
  · next e => exact memOk_of_snd e (bytePlace_memOk h)
  · next e =>
    split
    · exact memOk_of_snd e (bytePlace_memOk h)
    · split
      · exact memOk_of_snd e (bytePlace_memOk h)
      · split <;> exact fetchLine_memOk (memOk_of_snd e (bytePlace_memOk h))

theorem fetchInstr_memOk {s : State} {c : Nat} (h : memOk s) : memOk (fetchInstr s c).2 := by
  unfold fetchInstr
  dsimp only
  split
  · next e => exact memOk_of_snd e (fetchWord_memOk h)
  · next e =>
    split
    · split
      · exact fetchWord_memOk (memOk_of_snd e (fetchWord_memOk h))
      · exact memOk_of_snd e (fetchWord_memOk h)
    · split
      · split
        · exact fetchWord_memOk (memOk_of_snd e (fetchWord_memOk h))
        · exact memOk_of_snd e (fetchWord_memOk h)
      · split
        · exact fetchWord_memOk (memOk_of_snd e (fetchWord_memOk h))
        · exact memOk_of_snd e (fetchWord_memOk h)

theorem execStreamWaitTimeout_memOk {c : Nat} {s : State} (h : memOk s) : OutOk (execStreamWaitTimeout c s) := by
  unfold execStreamWaitTimeout
  split
  · split
    · exact trapCore_memOk h
    · exact h
  · exact h

theorem storePayload_memOk {p : Place} {t : Token} {s : State} (h : memOk s) : memOk (storePayload p t s) := by
  unfold storePayload
  dsimp only
  split
  · exact placeWrite_memOk _ _ _ h
  · exact foldl_memOk h fun _ _ hs => placeWrite_memOk _ _ _ hs

theorem pullHead_memOk {d : Nat} {h : Handle} {s : State} (hm : memOk s) : OptPairOk (pullHead d h s) := by
  unfold pullHead
  dsimp only
  split
  · exact trivial
  · exact updDist_memOk (updElem_memOk hm)

theorem dropPulled_memOk {d : Nat} {h : Handle} {s : State} (hm : memOk s) : memOk (dropPulled d h s) := by
  unfold dropPulled
  dsimp only
  split
  · exact hm
  · exact updDist_memOk (updElem_memOk hm)

theorem execPull_memOk {rd ra rb g : Nat} {s : State} (h : memOk s) : OutOk (execPull rd ra rb g s) := by
  unfold execPull
  refine issue_memOk h (fun _ hs => noTx_memOk (fun s hs1 => ?_) hs)
  dsimp only
  split
  · exact trap_memOk hs1
  · split
    · exact trap_memOk hs1
    · split
      · exact trap_memOk hs1
      · split
        · refine trap_memOk ?_
          split
          · exact payloadPlace_memOk hs1
          · exact hs1
        · split
          · refine spin_memOk ?_
            split
            · exact payloadPlace_memOk hs1
            · exact hs1
          · split
            · split
              · exact spinMoved_memOk (payloadPlace_memOk hs1)
              · split
                · exact spin_memOk (payloadPlace_memOk hs1)
                · split
                  · exact spin_memOk (dropPulled_memOk (payloadPlace_memOk hs1))
                  · next e1 =>
                    refine retX_memOk ?_
                    split
                    · exact storeLine_memOk (memOk_of_somePair e1 (pullHead_memOk (dropPulled_memOk (payloadPlace_memOk hs1))))
                    · exact storePayload_memOk (memOk_of_somePair e1 (pullHead_memOk (dropPulled_memOk (payloadPlace_memOk hs1))))
            · split
              · exact spinMoved_memOk hs1
              · split
                · exact spin_memOk hs1
                · split
                  · exact spin_memOk (dropPulled_memOk hs1)
                  · next e1 => exact retX_memOk (memOk_of_somePair e1 (pullHead_memOk (dropPulled_memOk hs1)))

theorem closeBurst_memOk {d : Nat} {h : Handle} {i : Nat} {s : State} (hm : memOk s) : memOk (closeBurst d h i s) := by
  unfold closeBurst
  split
  · exact hm
  · split
    · exact foldl_memOk (updDist_memOk hm) fun _ _ hs => mileBehind_memOk hs

theorem enterToken_memOk {d : Nat} {h : Handle} {t : Token} {s : State} (hm : memOk s) : memOk (enterToken d h t s) := by
  unfold enterToken
  split
  · next e =>
    dsimp only
    split
    · refine updDist_memOk (onLink_memOk ?_)
      split
      · exact closeBurst_memOk (memOk_of_snd e (enterStream_memOk hm))
      · exact memOk_of_snd e (enterStream_memOk hm)
    · split
      · refine closeBurst_memOk (onLink_memOk ?_)
        split
        · exact closeBurst_memOk (memOk_of_snd e (enterStream_memOk hm))
        · exact memOk_of_snd e (enterStream_memOk hm)
      · refine onLink_memOk ?_
        split
        · exact closeBurst_memOk (memOk_of_snd e (enterStream_memOk hm))
        · exact memOk_of_snd e (enterStream_memOk hm)

theorem pushEnter_memOk {h : Handle} {t : Token} {s : State} (hm : memOk s) : memOk (pushEnter h t s) := by
  unfold pushEnter
  split
  · exact spin_memOk hm
  · split
    · exact spin_memOk hm
    · exact advance_memOk (enterToken_memOk hm)

theorem execPush_memOk {rd ra rb g : Nat} {s : State} (h : memOk s) : OutOk (execPush rd ra rb g s) := by
  unfold execPush
  refine issue_memOk h (fun _ hs => noTx_memOk (fun s hs1 => ?_) hs)
  dsimp only
  split
  · exact trap_memOk hs1
  · split
    · exact trap_memOk hs1
    · split
      · exact trap_memOk hs1
      · split
        · split
          · next e1 => exact trap_memOk (memOk_of_snd e1 (payloadPlace_memOk hs1))
          · next e1 =>
            split
            · exact spinMoved_memOk (memOk_of_snd e1 (payloadPlace_memOk hs1))
            · split
              · exact spin_memOk (memOk_of_snd e1 (payloadPlace_memOk hs1))
              · split
                · split
                  · exact trap_memOk (peerLine_memOk (memOk_of_snd e1 (payloadPlace_memOk hs1)))
                  · exact pushEnter_memOk (peerLine_memOk (memOk_of_snd e1 (payloadPlace_memOk hs1)))
                · split
                  · exact trap_memOk (memOk_of_snd e1 (payloadPlace_memOk hs1))
                  · exact pushEnter_memOk (memOk_of_snd e1 (payloadPlace_memOk hs1))
        · exact pushEnter_memOk hs1

theorem bindMiles_memOk {d : Nat} {k : District} {h : Handle} {s : State} (hm : memOk s) : memOk (bindMiles d k h s) := by
  unfold bindMiles
  split
  · exact hm
  · exact foldl_memOk hm fun _ _ hs => mileFirst_memOk hs

theorem execSbind_memOk {rd ra g : Nat} {s : State} (h : memOk s) : OutOk (execSbind rd ra g s) := by
  unfold execSbind
  refine issue_memOk h (fun _ hs => noTx_memOk (fun _ hs1 => withDist_memOk hs1 (fun x x s hs2 => ?_)) hs)
  dsimp only
  split
  · split
    · exact trap_memOk hs2
    · exact advance_memOk (updMe_memOk hs2)
  · split
    · exact trap_memOk hs2
    · exact advance_memOk (updMe_memOk (bindMiles_memOk hs2))

theorem relabelDist_memOk {d i : Nat} {s : State} (h : memOk s) : memOk (relabelDist d i s) := by
  unfold relabelDist
  split
  · exact h
  · exact updDist_memOk (memOk_with h)

theorem execInvoke_memOk {rd ra rb g : Nat} {s : State} (h : memOk s) : OutOk (execInvoke rd ra rb g s) := by
  unfold execInvoke
  refine issue_memOk h (fun _ hs => noTx_memOk (fun _ hs1 => issueCpl_memOk hs1 (fun s hs2 => ?_)) hs)
  split
  · exact hs2
  · dsimp only
    split
    · exact hs2
    · split
      · exact hs2
      · exact ⟨hs2, fun _ hs1 => advance_memOk (relabelDist_memOk (updDist_memOk (memOk_with hs1)))⟩

theorem constApply_memOk {d : Nat} {k : District} {a : Word} {v : W32} {s : State} (h : memOk s) : memOk (constApply d k a v s) := by
  unfold constApply
  dsimp only
  split
  · exact advance_memOk (setField_memOk h)
  · split
    · exact trap_memOk h
    · exact advance_memOk (updDist_memOk h)
  · split
    · exact trap_memOk h
    · exact advance_memOk (commitGroup_memOk h)
  · exact advance_memOk (updDist_memOk h)

theorem constRun_memOk {ra rb : Nat} {s : State} (h : memOk s) : memOk (constRun ra rb s) := by
  unfold constRun
  refine withDist_memOk h (fun x x s hs => ?_)
  dsimp only
  split
  · exact trap_memOk hs
  · split
    · exact trap_memOk hs
    · split
      · exact constApply_memOk hs
      · exact await_memOk hs

theorem execCfgConstApply_memOk {c : Nat} {s : State} (h : memOk s) : OutOk (execCfgConstApply c s) := by
  unfold execCfgConstApply
  split
  · split
    · next e => exact constRun_memOk (memOk_with (memOk_of_snd e (fetchInstr_memOk h)))
    · exact h
  · exact h

theorem execCfgConst_memOk {ra rb g : Nat} {s : State} (h : memOk s) : OutOk (execCfgConst ra rb g s) :=
  issue_memOk h (fun _ hs => noTx_memOk (fun _ hs1 => constRun_memOk hs1) hs)

theorem loadOver_memOk {d : Nat} {s : State} (h : memOk s) : memOk (loadOver d s) :=
  updDist_memOk h

theorem execCfgLoadEnd_memOk {d : Nat} {s : State} (h : memOk s) : OutOk (execCfgLoadEnd d s) := by
  unfold execCfgLoadEnd
  split
  · exact h
  · split
    · exact h
    · split
      · exact h
      · dsimp only
        split
        · exact raiseThread_memOk (setCpl_memOk (updDist_memOk (loadOver_memOk h)))
        · split
          · exact h
          · exact setCpl_memOk (loadOver_memOk h)

theorem execCfgLoad_memOk {rd ra rb g : Nat} {s : State} (h : memOk s) : OutOk (execCfgLoad rd ra rb g s) := by
  unfold execCfgLoad
  refine issue_memOk h (fun _ hs => noTx_memOk (fun _ hs1 => issueCpl_memOk hs1 (fun s hs2 => ?_)) hs)
  split
  · exact hs2
  · dsimp only
    split
    · exact hs2
    · split
      · exact hs2
      · exact ⟨hs2, fun _ hs1 => advance_memOk (updDist_memOk hs1)⟩

theorem execDrel_memOk {g : Nat} {s : State} (h : memOk s) : OutOk (execDrel g s) := by
  unfold execDrel
  refine issue_memOk h (fun _ hs => noTx_memOk (fun _ hs1 => withDist_memOk hs1 (fun x x s hs2 => ?_)) hs)
  split
  · exact trap_memOk hs2
  · split
    · exact spin_memOk hs2
    · exact advance_memOk (freeDistrict_memOk hs2)

theorem dropReserved_memOk {s : State} (h : memOk s) : memOk (dropReserved s) :=
  updMe_memOk h

theorem takeRect_memOk {rd : Nat} {r : Rect} {gang : Nat} {s : State} (h : memOk s) : memOk (takeRect rd r gang s) :=
  retX_memOk (updMe_memOk (memOk_with (wipeRect_memOk (dropReserved_memOk h))))

theorem dacqPlace_memOk {rd : Nat} {a : Word} {gang : Nat} {s : State} (h : memOk s) : memOk (dacqPlace rd a gang s) := by
  unfold dacqPlace
  dsimp only
  split
  · split
    · exact retX_memOk h
    · exact takeRect_memOk h
  · split
    · exact retX_memOk (dropReserved_memOk h)
    · split
      · exact retX_memOk (dropReserved_memOk h)
      · split
        · exact takeRect_memOk (dropReserved_memOk h)
        · split
          · exact await_memOk (dropReserved_memOk h)
          · exact retX_memOk (dropReserved_memOk h)

theorem execDacqWaitGrant_memOk {c : Nat} {s : State} (h : memOk s) : OutOk (execDacqWaitGrant c s) := by
  unfold execDacqWaitGrant
  split
  · split
    · next e =>
      dsimp only
      split
      · exact h
      · exact dacqPlace_memOk (memOk_with (memOk_of_snd e (fetchInstr_memOk h)))
    · exact h
  · exact h

theorem dacqRun_memOk {rd ra rb : Nat} {s : State} (h : memOk s) : memOk (dacqRun rd ra rb s) := by
  unfold dacqRun
  dsimp only
  split
  · exact trap_memOk h
  · split
    · exact trap_memOk h
    · exact dacqPlace_memOk h

theorem execDacq_memOk {rd ra rb g : Nat} {s : State} (h : memOk s) : OutOk (execDacq rd ra rb g s) :=
  issue_memOk h (fun _ hs => noTx_memOk (fun _ hs1 => dacqRun_memOk hs1) hs)

theorem tableWait_memOk {a : Nat} {p : Place} {s : State} {f : State → State} (h : memOk s) (hf : ∀ t, memOk t → memOk (f t)) : memOk
    (tableWait a p s f) := by
  unfold tableWait
  split
  · exact spinMoved_memOk h
  · split
    · exact spin_memOk h
    · exact hf _ h

theorem tablePlace_memOk {s : State} {a : Nat} (h : memOk s) : memOk (tablePlace s a).2 := by
  unfold tablePlace
  dsimp only
  split
  · exact h
  · split
    · next e => exact memOk_of_snd e (access_memOk h)
    · next e =>
      split
      · exact memOk_of_snd e (access_memOk h)
      · split <;> exact memOk_of_snd e (access_memOk h)

theorem execChunk_memOk {rd ra g : Nat} {s : State} (h : memOk s) : OutOk (execChunk rd ra g s) := by
  unfold execChunk
  refine issue_memOk h (fun _ hs => noTx_memOk (fun s hs1 => ?_) hs)
  split
  · next e1 => exact trap_memOk (memOk_of_snd e1 (tablePlace_memOk hs1))
  · next e1 =>
    refine tableWait_memOk (memOk_of_snd e1 (tablePlace_memOk hs1)) (fun s hs2 => ?_)
    split
    · next e3 =>
      dsimp only
      split
      · exact trap_memOk (memOk_of_snd e3 (hubBytes_memOk hs2))
      · split
        · exact retX_memOk (memOk_of_snd e3 (hubBytes_memOk hs2))
        · exact retX_memOk (placeWrite_memOk _ _ _ (memOk_of_snd e3 (hubBytes_memOk hs2)))

theorem execJoinInit_memOk {rd ra rb g : Nat} {s : State} (h : memOk s) : OutOk (execJoinInit rd ra rb g s) := by
  unfold execJoinInit
  refine issue_memOk h (fun _ hs => noTx_memOk (fun s hs1 => ?_) hs)
  split
  · next e1 => exact trap_memOk (memOk_of_snd e1 (tablePlace_memOk hs1))
  · next e1 =>
    refine tableWait_memOk (memOk_of_snd e1 (tablePlace_memOk hs1)) (fun s hs2 => ?_)
    dsimp only
    split
    · exact trap_memOk (hubBytes_memOk hs2)
    · exact advance_memOk (placeWrite_memOk _ _ _ (hubBytes_memOk hs2))

theorem joinCheck_memOk {t : Task} {s : State} (h : memOk s) : memOk (joinCheck t s).2 := by
  unfold joinCheck
  split
  · exact h
  · split
    · next e => exact memOk_of_snd e (hubXlate_memOk h)
    · next e =>
      split
      · exact memOk_of_snd e (hubXlate_memOk h)
      · split <;> exact memOk_of_snd e (hubXlate_memOk h)

theorem relDom_memOk {s : State} (h : memOk s) : memOk (relDom s) :=
  lcWriteBack_memOk (settle_memOk h)

theorem execDone_memOk {g : Nat} {s : State} (h : memOk s) : OutOk (execDone g s) := by
  unfold execDone
  refine issue_memOk h (fun _ hs => noTx_memOk (fun s hs1 => ?_) hs)
  split
  · exact trap_memOk hs1
  · split
    · split
      · exact spin_memOk hs1
      · exact endTask_memOk (relDom_memOk hs1)
    · split
      · next e1 => exact trap_memOk (memOk_of_snd e1 (joinCheck_memOk hs1))
      · next e1 => exact spin_memOk (meetAt_memOk (memOk_of_snd e1 (joinCheck_memOk hs1)))
      · next e1 =>
        split
        · exact spin_memOk (memOk_of_snd e1 (joinCheck_memOk hs1))
        · exact endTask_memOk (oweJoin_memOk (relDom_memOk (memOk_of_snd e1 (joinCheck_memOk hs1))))

theorem execSpawnWaitTimeout_memOk {c : Nat} {s : State} (h : memOk s) : OutOk (execSpawnWaitTimeout c s) := by
  unfold execSpawnWaitTimeout
  split
  · split
    · exact trapCore_memOk h
    · exact h
  · exact h

theorem enqueue_memOk {q : Nat} {r : Rec} {s : State} (h : memOk s) : EnqOk (enqueue q r s) := by
  unfold enqueue
  split
  · exact trivial
  · split
    · exact trivial
    · split
      · exact trivial
      · split
        · exact trivial
        · exact enter_memOk h

theorem spawnEnter_memOk {rd : Nat} {a : Word} {r : Rec} {s : State} (h : memOk s) : memOk (spawnEnter rd a r s) := by
  unfold spawnEnter
  split
  · exact trap_memOk h
  · exact trap_memOk h
  · exact trap_memOk h
  · exact spin_memOk h
  · exact retX_memOk (discardRec_memOk h)
  · next e => exact retX_memOk (EnqOk.of_queued e (enqueue_memOk h))

theorem spawnRecord_memOk {s : State} {a : Nat} (h : memOk s) : memOk (spawnRecord s a).2 := by
  unfold spawnRecord
  dsimp only
  split
  · exact h
  · split
    · exact h
    · split
      · next e => exact memOk_of_snd e (access_memOk h)
      · next e =>
        have h1 := memOk_of_snd e (access_memOk h)
        split
        · exact h1
        · split
          · exact meetFrozen_memOk h1
          · split
            · exact h1
            · show memOk (if _ then _ else _ : List (Byte × Bool) × State).2
              split
              · exact peerBytes_memOk h1
              · exact h1

theorem execSpawn_memOk {rd ra g : Nat} {s : State} (h : memOk s) : OutOk (execSpawn rd ra g s) := by
  unfold execSpawn
  refine issue_memOk h (fun _ hs => noTx_memOk (fun s hs1 => ?_) hs)
  split
  · next e1 => exact trap_memOk (memOk_of_snd e1 (spawnRecord_memOk hs1))
  · next e1 => exact spin_memOk (memOk_of_snd e1 (spawnRecord_memOk hs1))
  · next e1 => exact releasing_memOk (memOk_of_snd e1 (spawnRecord_memOk hs1)) (fun _ hs2 => spawnEnter_memOk hs2)

theorem woundAbort_memOk {t : Nat} {s : State} (h : memOk s) : memOk (woundAbort t s) :=
  abortThread_memOk h

theorem txWound_memOk {c : Nat} {s : State} (h : memOk s) : memOk (txWound c s) := by
  unfold txWound
  split
  · exact woundAbort_memOk (abandon_memOk h)
  · exact h

theorem execTxWoundAbort_memOk {c : Nat} {s : State} (h : memOk s) : OutOk (execTxWoundAbort c s) :=
  txWound_memOk h

theorem releaseWritten_memOk {c : Nat} {s : State} (h : memOk s) : memOk (releaseWritten c s) :=
  foldl_memOk (lcWriteBack_memOk h) fun _ _ hs => releaseBy_memOk hs

theorem commitTx_memOk {c rd : Nat} {s : State} (h : memOk s) : memOk (commitTx c rd s) :=
  releaseIf_memOk (updThr_memOk (releaseWritten_memOk h))

theorem execTxCommit_memOk {c : Nat} {s : State} (h : memOk s) : OutOk (execTxCommit c s) := by
  unfold execTxCommit
  split
  · split
    · exact h
    · split
      · exact woundAbort_memOk h
      · exact commitTx_memOk h
  · exact h

theorem execTxStat_memOk {rd g : Nat} {s : State} (h : memOk s) : OutOk (execTxStat rd g s) :=
  issue_memOk h (fun _ hs => retX_memOk hs)

theorem execTxAbort_memOk {ra g : Nat} {s : State} (h : memOk s) : OutOk (execTxAbort ra g s) := by
  unfold execTxAbort
  refine issue_memOk h (fun s hs => ?_)
  split
  · exact trap_memOk hs
  · exact txAbort_memOk hs

theorem execTxEnd_memOk {rd g : Nat} {s : State} (h : memOk s) : OutOk (execTxEnd rd g s) := by
  unfold execTxEnd
  refine issue_memOk h (fun s hs => ?_)
  split
  · exact trap_memOk hs
  · split
    · exact woundAbort_memOk hs
    · split
      · exact await_memOk hs
      · exact commitTx_memOk hs

theorem execTxBegin_memOk {rd ra g : Nat} {s : State} (h : memOk s) : OutOk (execTxBegin rd ra g s) := by
  unfold execTxBegin
  refine issue_memOk h (fun _ hs => noTx_memOk (fun s hs1 => ?_) hs)
  dsimp only
  split
  · exact trap_memOk hs1
  · exact withAge_memOk hs1 (fun _ hs1 => retX_memOk (updMe_memOk hs1))

theorem endWounds_memOk {t : Nat} {s : State} (h : memOk s) : memOk (endWounds t s) :=
  memOk_with h

theorem revoke_memOk {t : Nat} {name : Word} {s : State} (h : memOk s) : memOk (revoke t name s) :=
  raiseThread_memOk (stripLocks_memOk (endWounds_memOk h))

theorem execLockRevoke_memOk {n : Nat} {s : State} (h : memOk s) : OutOk (execLockRevoke n s) := by
  unfold execLockRevoke
  split
  · exact h
  · dsimp only
    split
    · exact h
    · exact revoke_memOk (memOk_with h)

theorem clearWounds_memOk {t : Nat} {s : State} (h : memOk s) : memOk (clearWounds t s) :=
  takeWounds_memOk h

theorem woundEnter_memOk {c : Nat} {s : State} (h : memOk s) : memOk (woundEnter c s) := by
  unfold woundEnter
  split
  · exact enterTrap_memOk (clearWounds_memOk (abandon_memOk h))
  · exact h

theorem execWoundAsyncEntry_memOk {c : Nat} {s : State} (h : memOk s) : OutOk (execWoundAsyncEntry c s) :=
  woundEnter_memOk h

theorem setWpend_memOk {t : Nat} {s : State} (h : memOk s) : memOk (setWpend t s) :=
  updThread_memOk (noteThread_memOk h)

theorem woundSaved_memOk {w : Wound} {t : Thread} {s : State} (h : memOk s) : memOk (woundSaved w t s) := by
  unfold woundSaved
  dsimp only
  refine memOk_with ?_
  split
  · exact woundAbort_memOk (setWpend_memOk h)
  · exact setWpend_memOk h

theorem woundOnCore_memOk {c : Nat} {w : Wound} {s : State} (h : memOk s) : memOk (woundOnCore c w s) := by
  unfold woundOnCore
  split
  · exact trapCore_memOk (clearWounds_memOk (withdrawLock_memOk h))
  · exact setWpend_memOk h

theorem markWound_memOk {n : Nat} {f : Wound → Wound} {s : State} (h : memOk s) : memOk (markWound n f s) := by
  unfold markWound
  split
  · exact memOk_with h
  · exact h

theorem execWoundArrival_memOk {n : Nat} {s : State} (h : memOk s) : OutOk (execWoundArrival n s) := by
  unfold execWoundArrival
  split
  · exact h
  · split
    · exact h
    · split
      · exact markWound_memOk h
      · split
        · exact memOk_with h
        · split
          · exact memOk_with h
          · dsimp only
            split
            · split
              · exact h
              · exact woundOnCore_memOk (markWound_memOk h)
            · exact woundSaved_memOk (markWound_memOk h)

theorem arriving_memOk {w : LockWait} {s : State} (h : memOk s) : memOk (arriving w s).2 :=
  memOk_with h

theorem arriveLock_memOk {w0 : LockWait} {s : State} (h : memOk s) : memOk (arriveLock w0 s).2 := by
  unfold arriveLock
  split
  · next e =>
    split
    · split
      · exact putRecord_memOk (memOk_of_snd e (arriving_memOk h))
      · split
        · exact escalate_memOk (memOk_of_snd e (arriving_memOk h))
        · exact queueLock_memOk (memOk_of_snd e (arriving_memOk h))
    · exact queueLock_memOk (memOk_of_snd e (arriving_memOk h))

theorem lockAtHome_memOk {w : LockWait} {s : State} (h : memOk s) : memOk (lockAtHome w s) := by
  unfold lockAtHome
  split
  · next e => exact reexamine_memOk (answerLock_memOk (memOk_of_snd e (arriveLock_memOk h)))
  · next e => exact memOk_of_snd e (arriveLock_memOk h)

theorem execLockRequestAtHome_memOk {n : Nat} {s : State} (h : memOk s) : OutOk (execLockRequestAtHome n s) := by
  unfold execLockRequestAtHome
  split
  · exact h
  · split
    · exact h
    · exact lockAtHome_memOk (memOk_with h)

theorem execLkQuery_memOk {rd ra g : Nat} {s : State} (h : memOk s) : OutOk (execLkQuery rd ra g s) :=
  issue_memOk h (fun _ hs => retX_memOk hs)

theorem lockReleasing_memOk {objs : List Word} {s : State} {f : State → State} (h : memOk s) (hf : ∀ t, memOk t → memOk (f t)) : memOk
    (lockReleasing objs s f) := by
  unfold lockReleasing
  split
  · exact spin_memOk h
  · exact releasing_memOk h hf

theorem execLkRelall_memOk {g : Nat} {s : State} (h : memOk s) : OutOk (execLkRelall g s) :=
  issue_memOk h (fun _ hs => noTx_memOk (fun _ hs1 => lockReleasing_memOk hs1 (fun _ hs2 => releaseIf_memOk (advance_memOk hs2))) hs)

theorem execLkRel_memOk {ra g : Nat} {s : State} (h : memOk s) : OutOk (execLkRel ra g s) := by
  unfold execLkRel
  refine issue_memOk h (fun _ hs => noTx_memOk (fun s hs1 => ?_) hs)
  dsimp only
  split
  · exact trap_memOk hs1
  · split
    · exact trap_memOk hs1
    · exact lockReleasing_memOk hs1 (fun _ hs1 => releaseIf_memOk (advance_memOk hs1))

theorem sendLock_memOk {w : LockWait} {s : State} (h : memOk s) : memOk (sendLock w s) :=
  memOk_with h

theorem lockSend_memOk {rd : Nat} {try_ : Bool} {name : Word} {q : Nat} {s : State} (h : memOk s) : memOk (lockSend rd try_ name q s) := by
  unfold lockSend
  dsimp only
  split
  · exact await_memOk (sendLock_memOk h)
  · split
    · split
      · next e => exact reexamine_memOk (retX_memOk (grantAcquire_memOk (memOk_of_snd e (arriveLock_memOk h))))
      · next e => exact memOk_of_snd e (arriveLock_memOk h)
    · split
      · exact retX_memOk h
      · exact await_memOk (sendLock_memOk h)

theorem lockForm_memOk {rd ra g lv md : Nat} {up try_ : Bool} {s : State} (h : memOk s) : OutOk (lockForm rd ra g lv md up try_ s) := by
  unfold lockForm
  refine issue_memOk h (fun _ hs => noTx_memOk (fun s hs1 => ?_) hs)
  dsimp only
  split
  · exact trap_memOk hs1
  · exact trap_memOk (clearWounds_memOk hs1)
  · exact retX_memOk hs1
  · exact withAge_memOk hs1 (fun _ hs1 => lockSend_memOk hs1)

theorem execLkUp_memOk {rd ra g lv md : Nat} {s : State} (h : memOk s) : OutOk (execLkUp rd ra g lv md s) :=
  lockForm_memOk h

theorem execLkTry_memOk {rd ra g lv md : Nat} {s : State} (h : memOk s) : OutOk (execLkTry rd ra g lv md s) :=
  lockForm_memOk h

theorem execLkReq_memOk {rd ra g lv md : Nat} {s : State} (h : memOk s) : OutOk (execLkReq rd ra g lv md s) :=
  lockForm_memOk h

theorem execBarrierWaitTimeout_memOk {c : Nat} {s : State} (h : memOk s) : OutOk (execBarrierWaitTimeout c s) := by
  unfold execBarrierWaitTimeout
  split
  · split
    · exact trapCore_memOk h
    · exact h
  · exact h

theorem setBarrier_memOk {c b : Nat} {v : Barrier} {s : State} (h : memOk s) : memOk (setBarrier c b v s) :=
  updThr_memOk h

theorem barArriveAt_memOk {o b : Nat} {s : State} (h : memOk s) : memOk (barArriveAt o b s).2 :=
  setBarrier_memOk h

theorem clearSynced_memOk {s : State} (h : memOk s) : memOk (clearSynced s) :=
  updMe_memOk h

theorem barCheck_memOk {ra b : Nat} {arrive : Bool} {s : State} {f : Nat → State → State} (h : memOk s) (hf : ∀ x0 t1, memOk t1 → memOk (f
    x0 t1)) : memOk (barCheck ra b arrive s f) := by
  unfold barCheck
  dsimp only
  split
  · exact trap_memOk h
  · split
    · exact trap_memOk h
    · split
      · exact trap_memOk h
      · exact hf _ _ h

theorem execBarSync_memOk {ra g n : Nat} {s : State} (h : memOk s) : OutOk (execBarSync ra g n s) := by
  unfold execBarSync
  refine issue_memOk h (fun _ hs => noTx_memOk (fun s hs1 => ?_) hs)
  split
  · refine barCheck_memOk hs1 (fun x s hs1 => ?_)
    split
    · exact advance_memOk (clearSynced_memOk hs1)
    · exact spin_memOk hs1
  · refine barCheck_memOk hs1 (fun _ _ hs1 => releasing_memOk hs1 (fun s hs2 => ?_))
    split
    · next e2 =>
      split
      · exact advance_memOk (memOk_of_snd e2 (barArriveAt_memOk hs2))
      · exact spin_memOk (updMe_memOk (memOk_of_snd e2 (barArriveAt_memOk hs2)))

theorem execBarWait_memOk {rd ra g n : Nat} {s : State} (h : memOk s) : OutOk (execBarWait rd ra g n s) := by
  unfold execBarWait
  refine issue_memOk h (fun _ hs => noTx_memOk (fun _ hs1 => barCheck_memOk hs1 (fun x s hs2 => ?_)) hs)
  split
  · exact advance_memOk hs2
  · exact spin_memOk hs2

theorem execBarArrive_memOk {rd ra g n : Nat} {s : State} (h : memOk s) : OutOk (execBarArrive rd ra g n s) := by
  unfold execBarArrive
  refine issue_memOk h (fun _ hs => noTx_memOk (fun _ hs1 => barCheck_memOk hs1 (fun _ _ hs2 => releasing_memOk hs2 (fun s hs3 => ?_))) hs)
  split
  · next e1 => exact retX_memOk (memOk_of_snd e1 (barArriveAt_memOk hs3))

theorem execBarInit_memOk {ra g n : Nat} {s : State} (h : memOk s) : OutOk (execBarInit ra g n s) := by
  unfold execBarInit
  refine issue_memOk h (fun _ hs => noTx_memOk (fun s hs1 => ?_) hs)
  dsimp only
  split
  · exact trap_memOk hs1
  · exact advance_memOk (setBarrier_memOk hs1)

theorem execUnbind_memOk {rd g : Nat} {s : State} (h : memOk s) : OutOk (execUnbind rd g s) :=
  issue_memOk h (fun _ hs => advance_memOk (updMe_memOk hs))

theorem execBind_memOk {rd ra rb g : Nat} {s : State} (h : memOk s) : OutOk (execBind rd ra rb g s) := by
  unfold execBind
  refine issue_memOk h (fun s hs => ?_)
  dsimp only
  split
  · exact trap_memOk hs
  · split
    · exact trap_memOk hs
    · exact advance_memOk (updMe_memOk hs)

theorem execRel_memOk {ra g sc : Nat} {s : State} (h : memOk s) : OutOk (execRel ra g sc s) :=
  issue_memOk h (fun _ hs => releasing_memOk hs (fun _ hs1 => advance_memOk hs1))

theorem execAcq_memOk {ra g sc : Nat} {s : State} (h : memOk s) : OutOk (execAcq ra g sc s) :=
  issue_memOk h (fun _ hs => advance_memOk (acquireBy_memOk hs))

theorem execFence_memOk {g sc : Nat} {s : State} (h : memOk s) : OutOk (execFence g sc s) := by
  unfold execFence
  refine issue_memOk h (fun _ hs => releasing_memOk hs (fun _ hs1 => advance_memOk ?_))
  split
  · exact lcInvalidate_memOk (lcWriteBack_memOk hs1)
  · exact hs1

theorem snapReply_memOk {c v : Nat} {s : State} (h : memOk s) : memOk (snapReply c v s) := by
  unfold snapReply
  split
  · split
    · exact snapFinish_memOk (dropReqs_memOk h)
    · split
      · exact trapCore_memOk (dropReqs_memOk h)
      · exact h
  · exact h

theorem execAtomicReply_memOk {c v : Nat} {s : State} (h : memOk s) : OutOk (execAtomicReply c v s) := by
  unfold execAtomicReply
  dsimp only
  split
  · exact snapReply_memOk h
  · split
    · exact h
    · split
      · exact amoReply_memOk (dropReqs_memOk (dropReqs_memOk h))
      · exact h

theorem performPeer_memOk {r : Req} {s : State} (h : memOk s) : memOk (performPeer r s) := by
  unfold performPeer
  split
  · next e =>
    dsimp only
    split
    · exact raiseThread_memOk (memOk_of_snd e (drawFree_memOk h))
    · exact memOk_of_snd e (drawFree_memOk h)

theorem execAtomicAtHome_memOk {n : Nat} {s : State} (h : memOk s) : OutOk (execAtomicAtHome n s) := by
  unfold execAtomicAtHome
  split
  · exact h
  · split
    · exact h
    · dsimp only
      split
      · exact performAmo_memOk (memOk_with h)
      · split
        · exact h
        · exact performPeer_memOk (memOk_with h)

theorem takeImplicit_memOk {l1 : List (Word × Bool × Nat)} {s : State} (h : memOk s) : TxAccOk (takeImplicit l1 s) := by
  induction l1 generalizing s with
  | nil => exact h
  | cons x l ih =>
    unfold takeImplicit
    dsimp only
    split
    · exact ih h
    · split
      · split
        · split
          · next e => exact ih (reexamine_memOk (grantAcquire_memOk (memOk_of_snd e (arriveLock_memOk h))))
          · next e => exact memOk_of_snd e (arriveLock_memOk h)
        · exact sendLock_memOk h
      · split
        · split
          · next e => exact ih (reexamine_memOk (grantAcquire_memOk (memOk_of_snd e (arriveLock_memOk h))))
          · next e => exact memOk_of_snd e (arriveLock_memOk h)
        · exact sendLock_memOk h

theorem txAccess_memOk {va : Nat} {ps : List Place} {write : Bool} {s : State} {f : State → State} (h : memOk s) (hf : ∀ t, memOk t → memOk
    (f t)) : memOk (txAccess va ps write s f) := by
  unfold txAccess
  split
  · exact hf _ h
  · split
    · exact spin_memOk h
    · split
      · next e => exact spin_memOk (TxAccOk.of_wait e (takeImplicit_memOk h))
      · next e =>
        split
        · exact spinMoved_memOk (TxAccOk.of_held e (takeImplicit_memOk h))
        · split
          · exact hf _ (TxAccOk.of_held e (takeImplicit_memOk h))
          · dsimp only
            split
            · exact txAbort_memOk h
            · exact hf _ (updMe_memOk (TxAccOk.of_held e (takeImplicit_memOk h)))

theorem amo_memOk {fn rd ra rb g wbit : Nat} {signed : Bool} {s : State} (h : memOk s) : OutOk (amo fn rd ra rb g wbit signed s) := by
  unfold amo
  refine issue_memOk h (fun _ hs => amoAccess_memOk hs (fun _ _ _ hs1 => txAccess_memOk hs1 (fun s hs2 => ?_)))
  dsimp only
  split
  · split
    · exact advance_memOk (sendReq_memOk hs2)
    · exact await_memOk (sendReq_memOk hs2)
  · split
    · exact advance_memOk (amoPosted_memOk (amoPerform_memOk hs2))
    · split
      · exact retX_memOk (amoPerform_memOk hs2)
      · exact trap_memOk (amoPerform_memOk hs2)

theorem execAmoLd_memOk {rd ra g w : Nat} {s : State} (h : memOk s) : OutOk (execAmoLd rd ra g w s) :=
  amo_memOk h

theorem sourceWords_memOk {src n : Nat} {p : Place} {s : State} (h : memOk s) : memOk (sourceWords src n p s).2 := by
  unfold sourceWords
  split
  · exact h
  · split
    · next e => exact memOk_of_snd e (cachedLine_memOk h)
    · next e => exact memOk_with (memOk_of_snd e (cachedLine_memOk h))

theorem vaddSource_memOk {src n : Nat} {s : State} (h : memOk s) : memOk (vaddSource src n s).2 := by
  unfold vaddSource
  split
  · next e => exact memOk_of_snd e (access_memOk h)
  · next e =>
    dsimp only
    split
    · exact memOk_of_snd e (access_memOk h)
    · split
      · exact memOk_of_snd e (access_memOk h)
      · split <;> exact sourceWords_memOk (memOk_of_snd e (access_memOk h))

theorem amoVadd_memOk {fl : Bool} {ra rb g : Nat} {s : State} (h : memOk s) : OutOk (amoVadd fl ra rb g s) := by
  unfold amoVadd
  refine issue_memOk h (fun _ hs => noTx_memOk (fun s hs1 => ?_) hs)
  dsimp only
  split
  · exact trap_memOk hs1
  · split
    · exact trap_memOk hs1
    · split
      · exact trap_memOk hs1
      · split
        · exact spin_memOk hs1
        · split
          · next e1 => exact trap_memOk (memOk_of_snd e1 (vaddSource_memOk hs1))
          · next e1 => exact spinMoved_memOk (memOk_of_snd e1 (vaddSource_memOk hs1))
          · next e1 =>
            refine amoAccess_memOk (memOk_of_snd e1 (vaddSource_memOk hs1)) (fun x x s hs2 => ?_)
            split
            · exact advance_memOk (sendReq_memOk hs2)
            · split
              · next e3 => exact advance_memOk (memOk_of_some e3 (vaddPerform_memOk hs2))
              · exact advance_memOk (raise_memOk hs2)

theorem execAmoVaddF32_memOk {ra rb g : Nat} {s : State} (h : memOk s) : OutOk (execAmoVaddF32 ra rb g s) :=
  amoVadd_memOk h

theorem execAmoVaddN32_memOk {ra rb g : Nat} {s : State} (h : memOk s) : OutOk (execAmoVaddN32 ra rb g s) :=
  amoVadd_memOk h

theorem execAmoSnap_memOk {rd ra rb g : Nat} {s : State} (h : memOk s) : OutOk (execAmoSnap rd ra rb g s) := by
  unfold execAmoSnap
  refine issue_memOk h (fun _ hs => noTx_memOk (fun s hs1 => ?_) hs)
  dsimp only
  split
  · exact trap_memOk hs1
  · exact trap_memOk hs1
  · split
    · exact trap_memOk hs1
    · refine amoAccess_memOk hs1 (fun x x s hs1 => ?_)
      split
      · next e2 => exact trap_memOk (memOk_of_snd e2 (access_memOk hs1))
      · next e2 =>
        split
        · exact trap_memOk (memOk_of_snd e2 (access_memOk hs1))
        · split
          · exact spin_memOk (memOk_of_snd e2 (access_memOk hs1))
          · split
            · exact spinMoved_memOk (memOk_of_snd e2 (access_memOk hs1))
            · split
              · exact spinMoved_memOk (memOk_of_snd e2 (access_memOk hs1))
              · split
                · exact await_memOk (sendReq_memOk (memOk_of_snd e2 (access_memOk hs1)))
                · split
                  · exact trap_memOk (memOk_of_snd e2 (access_memOk hs1))
                  · split
                    · exact snapSend_memOk (await_memOk (snapClear_memOk (memOk_of_snd e2 (access_memOk hs1))))
                    · exact retX_memOk (snapWrite_memOk (snapClear_memOk (memOk_of_snd e2 (access_memOk hs1))))

theorem execAmoAddF32_memOk {rd ra rb g : Nat} {s : State} (h : memOk s) : OutOk (execAmoAddF32 rd ra rb g s) :=
  amo_memOk h

theorem execAmoCas_memOk {rd ra rb g w : Nat} {s : State} (h : memOk s) : OutOk (execAmoCas rd ra rb g w s) :=
  amo_memOk h

theorem execAmoSwap_memOk {rd ra rb g w : Nat} {s : State} (h : memOk s) : OutOk (execAmoSwap rd ra rb g w s) :=
  amo_memOk h

theorem execAmoMaxUnsigned_memOk {rd ra rb g w : Nat} {s : State} (h : memOk s) : OutOk (execAmoMaxUnsigned rd ra rb g w s) :=
  amo_memOk h

theorem execAmoMinUnsigned_memOk {rd ra rb g w : Nat} {s : State} (h : memOk s) : OutOk (execAmoMinUnsigned rd ra rb g w s) :=
  amo_memOk h

theorem execAmoMaxSigned_memOk {rd ra rb g w : Nat} {s : State} (h : memOk s) : OutOk (execAmoMaxSigned rd ra rb g w s) :=
  amo_memOk h

theorem execAmoMinSigned_memOk {rd ra rb g w : Nat} {s : State} (h : memOk s) : OutOk (execAmoMinSigned rd ra rb g w s) :=
  amo_memOk h

theorem execAmoXor_memOk {rd ra rb g w : Nat} {s : State} (h : memOk s) : OutOk (execAmoXor rd ra rb g w s) :=
  amo_memOk h

theorem execAmoOr_memOk {rd ra rb g w : Nat} {s : State} (h : memOk s) : OutOk (execAmoOr rd ra rb g w s) :=
  amo_memOk h

theorem execAmoAnd_memOk {rd ra rb g w : Nat} {s : State} (h : memOk s) : OutOk (execAmoAnd rd ra rb g w s) :=
  amo_memOk h

theorem execAmoAdd_memOk {rd ra rb g w : Nat} {s : State} (h : memOk s) : OutOk (execAmoAdd rd ra rb g w s) :=
  amo_memOk h

theorem execTagWaitTimeout_memOk {c : Nat} {s : State} (h : memOk s) : OutOk (execTagWaitTimeout c s) := by
  unfold execTagWaitTimeout
  split
  · exact trapCore_memOk (dropTag_memOk h)
  · exact h

theorem serveChain_memOk {p : Place} {k : Nat} {s : State} (h : memOk s) : memOk (serveChain p k s) := by
  induction k generalizing s with
  | zero => exact h
  | succ n ih =>
    unfold serveChain
    split
    · exact h
    · dsimp only
      split
      · exact ih (serveOne_memOk h)
      · exact serveOne_memOk h

theorem servePeer_memOk {w : TagWait} {s : State} (h : memOk s) : memOk (servePeer w s) := by
  unfold servePeer
  split
  · next e =>
    split
    · split
      · exact trapCore_memOk (memOk_of_snd e (drawFree_memOk (memOk_with h)))
      · exact tagAnswer_memOk (memOk_of_snd e (drawFree_memOk (memOk_with h)))
    · exact tagAnswer_memOk (memOk_of_snd e (drawFree_memOk (memOk_with h)))

theorem execTaggedWaiterServe_memOk {n : Nat} {s : State} (h : memOk s) : OutOk (execTaggedWaiterServe n s) := by
  unfold execTaggedWaiterServe
  split
  · exact h
  · split
    · exact servePeer_memOk h
    · exact serveChain_memOk h

theorem tagged_memOk {ra : Nat} {n : Need} {s : State} {f : Nat → Place → State → State} (h : memOk s) (hf : ∀ x0 x1 t2, memOk t2 → memOk
    (f x0 x1 t2)) : memOk (tagged ra n s f) := by
  unfold tagged
  dsimp only
  split
  · exact txAbort_memOk h
  · split
    · next e => exact trap_memOk (memOk_of_snd e (access_memOk h))
    · next e =>
      split
      · exact trap_memOk (memOk_of_snd e (access_memOk h))
      · split
        · exact spin_memOk (memOk_of_snd e (access_memOk h))
        · refine hf _ _ _ ?_
          split
          · exact lcDrop_memOk (memOk_of_snd e (access_memOk h))
          · exact memOk_of_snd e (access_memOk h)

theorem execTagClr_memOk {ra g : Nat} {s : State} (h : memOk s) : OutOk (execTagClr ra g s) := by
  unfold execTagClr
  refine issue_memOk h (fun _ hs => tagged_memOk hs (fun x x s hs1 => ?_))
  split
  · exact spinMoved_memOk hs1
  · exact advance_memOk (placeSetTag_memOk _ _ (logSpad_memOk hs1))

theorem execTagGet_memOk {rd ra g : Nat} {s : State} (h : memOk s) : OutOk (execTagGet rd ra g s) := by
  unfold execTagGet
  refine issue_memOk h (fun _ hs => tagged_memOk hs (fun x x s hs1 => ?_))
  split
  · exact spinMoved_memOk hs1
  · split
    · split
      · next e1 => exact retX_memOk (memOk_of_snd e1 (drawFree_memOk hs1))
    · exact retX_memOk hs1

theorem tagRelease_memOk {a : Nat} {s : State} {f : State → State} (h : memOk s) (hf : ∀ t, memOk t → memOk (f t)) : memOk (tagRelease a s
    f) :=
  releasing_memOk h hf

theorem execTstSet_memOk {ra rb g : Nat} {s : State} (h : memOk s) : OutOk (execTstSet ra rb g s) := by
  unfold execTstSet
  refine issue_memOk h (fun _ hs => tagged_memOk hs (fun x x s hs1 => ?_))
  split
  · exact spinMoved_memOk hs1
  · exact tagRelease_memOk hs1 (fun _ hs1 => advance_memOk (tagSetWord_memOk hs1))

theorem tagCoreOp_memOk {op rd : Nat} {v : W32} {a : Nat} {p : Place} {s : State} (h : memOk s) : memOk (tagCoreOp op rd v a p s) := by
  unfold tagCoreOp
  dsimp only
  split
  · exact await_memOk (sendReq_memOk h)
  · split
    · exact await_memOk (memOk_with h)
    · split
      · exact trap_memOk h
      · refine advance_memOk ?_
        split
        · exact tagEffect_memOk h
        · exact wx_memOk (tagEffect_memOk h)

theorem execTstFill_memOk {ra rb g : Nat} {s : State} (h : memOk s) : OutOk (execTstFill ra rb g s) :=
  issue_memOk h (fun _ hs => tagged_memOk hs (fun _ _ _ hs1 => tagRelease_memOk hs1 (fun _ hs2 => tagCoreOp_memOk hs2)))

theorem execTldKeep_memOk {rd ra g : Nat} {s : State} (h : memOk s) : OutOk (execTldKeep rd ra g s) :=
  issue_memOk h (fun _ hs => tagged_memOk hs (fun _ _ _ hs1 => tagCoreOp_memOk hs1))

theorem execTldTake_memOk {rd ra g : Nat} {s : State} (h : memOk s) : OutOk (execTldTake rd ra g s) :=
  issue_memOk h (fun _ hs => tagged_memOk hs (fun _ _ _ hs1 => tagCoreOp_memOk hs1))

theorem reqPlaces_memOk {r : Req} {k j : Nat} {l : List Place} {s : State} (h : memOk s) : memOk (reqPlaces r k j l s).2 := by
  induction k generalizing j l s with
  | zero => exact h
  | succ n ih =>
    unfold reqPlaces
    split
    · next e => exact memOk_of_snd e (xlate_memOk h)
    · next e => exact ih (memOk_of_snd e (xlate_memOk h))

theorem execMovedRetry_memOk {n : Nat} {s : State} (h : memOk s) : OutOk (execMovedRetry n s) := by
  unfold execMovedRetry
  split
  · exact h
  · split
    · exact h
    · split
      · split
        · exact h
        · exact performHere_memOk (memOk_with h)
      · split
        · exact h
        · next e =>
          dsimp only
          split
          · exact h
          · split
            · exact memOk_with (memOk_of_snd e (reqPlaces_memOk h))
            · exact performHere_memOk (memOk_with (memOk_of_snd e (reqPlaces_memOk h)))

theorem execRemoteStoreFail_memOk {n : Nat} {s : State} (h : memOk s) : OutOk (execRemoteStoreFail n s) := by
  unfold execRemoteStoreFail
  split
  · exact h
  · split
    · exact h
    · exact failStore_memOk (memOk_with h)

theorem sendRun_memOk {a id : Nat} {s : State} {r : StoreRun} (h : memOk s) : memOk (sendRun a id s r) :=
  sendReq_memOk h

theorem lcCleanRun_memOk {k : Nat} {ps : List Place} {s : State} (h : memOk s) : memOk (lcCleanRun k ps s) := by
  unfold lcCleanRun
  split
  · exact h
  · exact lcCleanAt_memOk h

theorem lcWrite_memOk {c k o : Nat} {b : Byte} {dirty : Bool} {s : State} (h : memOk s) : memOk (lcWrite c k o b dirty s) := by
  unfold lcWrite
  split
  · exact lcPut_memOk h
  · exact h

theorem storeByte_memOk {ks : List Nat} {s : State} {x : (Nat × Place) × Byte} (h : memOk s) : memOk (storeByte ks s x) := by
  unfold storeByte
  split
  · exact lcWrite_memOk h
  · split
    · exact h
    · exact placeWrite_memOk _ _ _ h

theorem lcVisit_memOk {ks : List Nat} {s : State} (h : memOk s) : memOk (lcVisit ks s) :=
  foldl_memOk h fun _ _ hs => cachedLine_memOk hs

theorem fillLine_memOk {s : State} (h : memOk s) : memOk (fillLine s).2 :=
  memOk_with h

theorem lcFetch_memOk {c k : Nat} {s : State} (h : memOk s) : memOk (lcFetch c k s) := by
  unfold lcFetch
  split
  · exact h
  · split
    · next e => exact lcPut_memOk (memOk_of_snd e (fillLine_memOk h))

theorem storeBytes_memOk {a : Nat} {ps : List Place} {bs : List Byte} {s : State} (h : memOk s) : memOk (storeBytes a ps bs s) := by
  unfold storeBytes
  dsimp only
  split
  · exact writePlaces_memOk (logSpad_memOk h)
  · split
    · exact foldl_memOk (foldl_memOk (foldl_memOk (foldl_memOk (lcVisit_memOk h) fun _ _ hs => lcFetch_memOk hs) fun _ _ hs1 =>
        storeByte_memOk hs1) fun _ _ hs2 => lcCleanRun_memOk hs2) fun _ _ hs3 => sendRun_memOk hs3
    · exact foldl_memOk (memOk_with (foldl_memOk (foldl_memOk (foldl_memOk (lcVisit_memOk h) fun _ _ hs => lcFetch_memOk hs) fun _ _ hs1 =>
        storeByte_memOk hs1) fun _ _ hs2 => lcCleanRun_memOk hs2)) fun _ _ hs3 => sendRun_memOk hs3

theorem storeAt_memOk {w : Nat} {v : Word} {a : Nat} {ps : List Place} {s : State} (h : memOk s) : memOk (storeAt w v a ps s) := by
  unfold storeAt
  split
  · split
    · exact hubWrite_memOk (advance_memOk h)
    · exact trap_memOk h
  · split
    · exact spin_memOk h
    · exact txAccess_memOk h (fun _ hs => advance_memOk (storeBytes_memOk hs))

theorem store_memOk {w rb ra g imm : Nat} {s : State} (h : memOk s) : OutOk (store w rb ra g imm s) := by
  unfold store
  refine issue_memOk h (fun s hs => ?_)
  dsimp only
  split
  · next e1 => exact trap_memOk (memOk_of_snd e1 (access_memOk hs))
  · next e1 => exact storeAt_memOk (memOk_of_snd e1 (access_memOk hs))

theorem execStN64_memOk {rb ra g imm : Nat} {s : State} (h : memOk s) : OutOk (execStN64 rb ra g imm s) :=
  store_memOk h

theorem execStN32_memOk {rb ra g imm : Nat} {s : State} (h : memOk s) : OutOk (execStN32 rb ra g imm s) :=
  store_memOk h

theorem execStN16_memOk {rb ra g imm : Nat} {s : State} (h : memOk s) : OutOk (execStN16 rb ra g imm s) :=
  store_memOk h

theorem execStN8_memOk {rb ra g imm : Nat} {s : State} (h : memOk s) : OutOk (execStN8 rb ra g imm s) :=
  store_memOk h

theorem keepLines_memOk {c : Nat} {r : Req} {v : Nat} {s : State} (h : memOk s) : memOk (keepLines c r v s) :=
  foldl_memOk (foldl_memOk h fun _ _ hs => lcFetch_memOk hs) fun _ _ hs1 => lcWrite_memOk hs1

theorem execLoadDataReturn_memOk {c v : Nat} {s : State} (h : memOk s) : OutOk (execLoadDataReturn c v s) := by
  unfold execLoadDataReturn
  split
  · exact h
  · split
    · exact trapCore_memOk (dropReqs_memOk h)
    · refine finishLoad_memOk ?_
      split
      · exact keepLines_memOk (dropReqs_memOk h)
      · exact dropReqs_memOk h

theorem loadAway_memOk {rd w : Nat} {signed : Bool} {a : Nat} {ps : List Place} {bs : List (Option (Byte × Bool))} {s : State} (h : memOk
    s) : memOk (loadAway rd w signed a ps bs s) := by
  unfold loadAway
  split
  · exact await_memOk (sendReq_memOk h)

theorem loadAt_memOk {rd w : Nat} {signed : Bool} {a : Nat} {ps : List Place} {s : State} (h : memOk s) : memOk (loadAt rd w signed a ps s)
    := by
  unfold loadAt
  split
  · split
    · exact retX_memOk h
    · exact trap_memOk h
  · split
    · exact spin_memOk h
    · refine txAccess_memOk h (fun s hs => ?_)
      dsimp only
      split
      · exact trap_memOk (lcVisit_memOk hs)
      · split
        · exact retX_memOk (lcVisit_memOk hs)
        · split
          · exact spinMoved_memOk (lcVisit_memOk hs)
          · exact loadAway_memOk (lcVisit_memOk hs)

theorem load_memOk {w : Nat} {signed : Bool} {rd ra g imm : Nat} {s : State} (h : memOk s) : OutOk (load w signed rd ra g imm s) := by
  unfold load
  refine issue_memOk h (fun s hs => ?_)
  dsimp only
  split
  · next e1 => exact trap_memOk (memOk_of_snd e1 (access_memOk hs))
  · next e1 => exact loadAt_memOk (memOk_of_snd e1 (access_memOk hs))

theorem execLdI64_memOk {rd ra g imm : Nat} {s : State} (h : memOk s) : OutOk (execLdI64 rd ra g imm s) :=
  load_memOk h

theorem execLdN32_memOk {rd ra g imm : Nat} {s : State} (h : memOk s) : OutOk (execLdN32 rd ra g imm s) :=
  load_memOk h

theorem execLdI32_memOk {rd ra g imm : Nat} {s : State} (h : memOk s) : OutOk (execLdI32 rd ra g imm s) :=
  load_memOk h

theorem execLdN16_memOk {rd ra g imm : Nat} {s : State} (h : memOk s) : OutOk (execLdN16 rd ra g imm s) :=
  load_memOk h

theorem execLdI16_memOk {rd ra g imm : Nat} {s : State} (h : memOk s) : OutOk (execLdI16 rd ra g imm s) :=
  load_memOk h

theorem execLdN8_memOk {rd ra g imm : Nat} {s : State} (h : memOk s) : OutOk (execLdN8 rd ra g imm s) :=
  load_memOk h

theorem execLdI8_memOk {rd ra g imm : Nat} {s : State} (h : memOk s) : OutOk (execLdI8 rd ra g imm s) :=
  load_memOk h

theorem jump_memOk {t : Nat} {s : State} (h : memOk s) : memOk (jump t s) :=
  updMe_memOk h

theorem execLoop_memOk {lp ra g imm : Nat} {s : State} (h : memOk s) : OutOk (execLoop lp ra g imm s) := by
  unfold execLoop
  refine issue_memOk h (fun s hs => ?_)
  dsimp only
  split
  · exact trap_memOk hs
  · split
    · exact jump_memOk hs
    · exact updMe_memOk (advance_memOk hs)

theorem execCallr_memOk {rd ra g imm : Nat} {s : State} (h : memOk s) : OutOk (execCallr rd ra g imm s) := by
  unfold execCallr
  refine issue_memOk h (fun s hs => ?_)
  dsimp only
  split
  · exact trap_memOk hs
  · exact jump_memOk (wx_memOk hs)

theorem execCall_memOk {rd ofs : Nat} {s : State} (h : memOk s) : OutOk (execCall rd ofs s) :=
  issueB_memOk h (fun _ hs => jump_memOk (wx_memOk hs))

theorem branch_memOk {taken : Bool} {ofs : Nat} {s : State} (h : memOk s) : memOk (branch taken ofs s) := by
  unfold branch
  split
  · exact jump_memOk h
  · exact advance_memOk h

theorem execBnk_memOk {ra ofs : Nat} {s : State} (h : memOk s) : OutOk (execBnk ra ofs s) :=
  issueB_memOk h (fun _ hs => branch_memOk hs)

theorem execBk_memOk {ra ofs : Nat} {s : State} (h : memOk s) : OutOk (execBk ra ofs s) :=
  issueB_memOk h (fun _ hs => branch_memOk hs)

theorem branchR_memOk {c : Cond} {ra rb ofs : Nat} {s : State} (h : memOk s) : OutOk (branchR c ra rb ofs s) :=
  issueB_memOk h (fun _ hs => branch_memOk hs)

theorem execBgeN64_memOk {ra rb ofs : Nat} {s : State} (h : memOk s) : OutOk (execBgeN64 ra rb ofs s) :=
  branchR_memOk h

theorem execBltN64_memOk {ra rb ofs : Nat} {s : State} (h : memOk s) : OutOk (execBltN64 ra rb ofs s) :=
  branchR_memOk h

theorem execBgeI64_memOk {ra rb ofs : Nat} {s : State} (h : memOk s) : OutOk (execBgeI64 ra rb ofs s) :=
  branchR_memOk h

theorem execBltI64_memOk {ra rb ofs : Nat} {s : State} (h : memOk s) : OutOk (execBltI64 ra rb ofs s) :=
  branchR_memOk h

theorem execBne_memOk {ra rb ofs : Nat} {s : State} (h : memOk s) : OutOk (execBne ra rb ofs s) :=
  branchR_memOk h

theorem execBeq_memOk {ra rb ofs : Nat} {s : State} (h : memOk s) : OutOk (execBeq ra rb ofs s) :=
  branchR_memOk h

theorem wk_memOk {s : State} {i : Nat} {b : Bool} (h : memOk s) : memOk (wk s i b) :=
  updCore_memOk h

theorem retK_memOk {rd : Nat} {b : Bool} {s : State} (h : memOk s) : memOk (retK rd b s) :=
  advance_memOk (wk_memOk h)

theorem cmpI_memOk {c : Cond} {rd ra g imm : Nat} {s : State} (h : memOk s) : OutOk (cmpI c rd ra g imm s) :=
  issue_memOk h (fun _ hs => retK_memOk hs)

theorem execCmpiLtN64_memOk {rd ra g imm : Nat} {s : State} (h : memOk s) : OutOk (execCmpiLtN64 rd ra g imm s) :=
  cmpI_memOk h

theorem execCmpiLtI64_memOk {rd ra g imm : Nat} {s : State} (h : memOk s) : OutOk (execCmpiLtI64 rd ra g imm s) :=
  cmpI_memOk h

theorem execCmpiEq_memOk {rd ra g imm : Nat} {s : State} (h : memOk s) : OutOk (execCmpiEq rd ra g imm s) :=
  cmpI_memOk h

theorem execSel_memOk {rd ra rb kg : Nat} {s : State} (h : memOk s) : OutOk (execSel rd ra rb kg s) :=
  issueB_memOk h (fun _ hs => retX_memOk hs)

theorem execKget_memOk {rd ra g : Nat} {s : State} (h : memOk s) : OutOk (execKget rd ra g s) :=
  issue_memOk h (fun _ hs => retX_memOk hs)

theorem execKmov_memOk {rd ra g : Nat} {s : State} (h : memOk s) : OutOk (execKmov rd ra g s) :=
  issue_memOk h (fun _ hs => retK_memOk hs)

theorem execKnot_memOk {rd ra g : Nat} {s : State} (h : memOk s) : OutOk (execKnot rd ra g s) :=
  issue_memOk h (fun _ hs => retK_memOk hs)

theorem predR_memOk {f : Bool → Bool → Bool} {rd ra rb g : Nat} {s : State} (h : memOk s) : OutOk (predR f rd ra rb g s) :=
  issue_memOk h (fun _ hs => retK_memOk hs)

theorem execKandn_memOk {rd ra rb g : Nat} {s : State} (h : memOk s) : OutOk (execKandn rd ra rb g s) :=
  predR_memOk h

theorem execKxor_memOk {rd ra rb g : Nat} {s : State} (h : memOk s) : OutOk (execKxor rd ra rb g s) :=
  predR_memOk h

theorem execKor_memOk {rd ra rb g : Nat} {s : State} (h : memOk s) : OutOk (execKor rd ra rb g s) :=
  predR_memOk h

theorem execKand_memOk {rd ra rb g : Nat} {s : State} (h : memOk s) : OutOk (execKand rd ra rb g s) :=
  predR_memOk h

theorem cmpR_memOk {c : Cond} {rd ra rb g : Nat} {s : State} (h : memOk s) : OutOk (cmpR c rd ra rb g s) :=
  issue_memOk h (fun _ hs => retK_memOk hs)

theorem execCmpGeN64_memOk {rd ra rb g : Nat} {s : State} (h : memOk s) : OutOk (execCmpGeN64 rd ra rb g s) :=
  cmpR_memOk h

theorem execCmpLtN64_memOk {rd ra rb g : Nat} {s : State} (h : memOk s) : OutOk (execCmpLtN64 rd ra rb g s) :=
  cmpR_memOk h

theorem execCmpGeI64_memOk {rd ra rb g : Nat} {s : State} (h : memOk s) : OutOk (execCmpGeI64 rd ra rb g s) :=
  cmpR_memOk h

theorem execCmpLtI64_memOk {rd ra rb g : Nat} {s : State} (h : memOk s) : OutOk (execCmpLtI64 rd ra rb g s) :=
  cmpR_memOk h

theorem execCmpNe_memOk {rd ra rb g : Nat} {s : State} (h : memOk s) : OutOk (execCmpNe rd ra rb g s) :=
  cmpR_memOk h

theorem execCmpEq_memOk {rd ra rb g : Nat} {s : State} (h : memOk s) : OutOk (execCmpEq rd ra rb g s) :=
  cmpR_memOk h

theorem execLih_memOk {rd g ext : Nat} {s : State} (h : memOk s) : OutOk (execLih rd g ext s) :=
  issue_memOk h (fun _ hs => advance_memOk (wx_memOk hs))

theorem execLi_memOk {rd g ext : Nat} {s : State} (h : memOk s) : OutOk (execLi rd g ext s) :=
  issue_memOk h (fun _ hs => advance_memOk (wx_memOk hs))

theorem execAddpc_memOk {rd imm : Nat} {s : State} (h : memOk s) : OutOk (execAddpc rd imm s) :=
  issueB_memOk h (fun _ hs => retX_memOk hs)

theorem execLdhi_memOk {rd imm : Nat} {s : State} (h : memOk s) : OutOk (execLdhi rd imm s) :=
  issueB_memOk h (fun _ hs => retX_memOk hs)

theorem aluI_memOk {rd ra g : Nat} {f : Word → Word} {s : State} (h : memOk s) : OutOk (aluI rd ra g f s) :=
  issue_memOk h (fun _ hs => retX_memOk hs)

theorem execSrai_memOk {rd ra g n : Nat} {s : State} (h : memOk s) : OutOk (execSrai rd ra g n s) :=
  aluI_memOk h

theorem execSrli_memOk {rd ra g n : Nat} {s : State} (h : memOk s) : OutOk (execSrli rd ra g n s) :=
  aluI_memOk h

theorem execSlli_memOk {rd ra g n : Nat} {s : State} (h : memOk s) : OutOk (execSlli rd ra g n s) :=
  aluI_memOk h

theorem execXori_memOk {rd ra g imm : Nat} {s : State} (h : memOk s) : OutOk (execXori rd ra g imm s) :=
  aluI_memOk h

theorem execOri_memOk {rd ra g imm : Nat} {s : State} (h : memOk s) : OutOk (execOri rd ra g imm s) :=
  aluI_memOk h

theorem execAndi_memOk {rd ra g imm : Nat} {s : State} (h : memOk s) : OutOk (execAndi rd ra g imm s) :=
  aluI_memOk h

theorem execAddi_memOk {rd ra g imm : Nat} {s : State} (h : memOk s) : OutOk (execAddi rd ra g imm s) :=
  aluI_memOk h

theorem execPopc_memOk {rd ra g : Nat} {s : State} (h : memOk s) : OutOk (execPopc rd ra g s) :=
  aluI_memOk h

theorem execCtz_memOk {rd ra g : Nat} {s : State} (h : memOk s) : OutOk (execCtz rd ra g s) :=
  aluI_memOk h

theorem execClz_memOk {rd ra g : Nat} {s : State} (h : memOk s) : OutOk (execClz rd ra g s) :=
  aluI_memOk h

theorem aluR_memOk {rd ra rb g : Nat} {f : Word → Word → Word} {s : State} (h : memOk s) : OutOk (aluR rd ra rb g f s) :=
  issue_memOk h (fun _ hs => retX_memOk hs)

theorem execSubsI64_memOk {rd ra rb g : Nat} {s : State} (h : memOk s) : OutOk (execSubsI64 rd ra rb g s) :=
  aluR_memOk h

theorem execAddsI64_memOk {rd ra rb g : Nat} {s : State} (h : memOk s) : OutOk (execAddsI64 rd ra rb g s) :=
  aluR_memOk h

theorem execSubsI32_memOk {rd ra rb g : Nat} {s : State} (h : memOk s) : OutOk (execSubsI32 rd ra rb g s) :=
  aluR_memOk h

theorem execAddsI32_memOk {rd ra rb g : Nat} {s : State} (h : memOk s) : OutOk (execAddsI32 rd ra rb g s) :=
  aluR_memOk h

theorem execMaxN64_memOk {rd ra rb g : Nat} {s : State} (h : memOk s) : OutOk (execMaxN64 rd ra rb g s) :=
  aluR_memOk h

theorem execMinN64_memOk {rd ra rb g : Nat} {s : State} (h : memOk s) : OutOk (execMinN64 rd ra rb g s) :=
  aluR_memOk h

theorem execMaxI64_memOk {rd ra rb g : Nat} {s : State} (h : memOk s) : OutOk (execMaxI64 rd ra rb g s) :=
  aluR_memOk h

theorem execMinI64_memOk {rd ra rb g : Nat} {s : State} (h : memOk s) : OutOk (execMinI64 rd ra rb g s) :=
  aluR_memOk h

theorem execRemN64_memOk {rd ra rb g : Nat} {s : State} (h : memOk s) : OutOk (execRemN64 rd ra rb g s) :=
  aluR_memOk h

theorem execRemI64_memOk {rd ra rb g : Nat} {s : State} (h : memOk s) : OutOk (execRemI64 rd ra rb g s) :=
  aluR_memOk h

theorem execDivN64_memOk {rd ra rb g : Nat} {s : State} (h : memOk s) : OutOk (execDivN64 rd ra rb g s) :=
  aluR_memOk h

theorem execDivI64_memOk {rd ra rb g : Nat} {s : State} (h : memOk s) : OutOk (execDivI64 rd ra rb g s) :=
  aluR_memOk h

theorem execMulhN64_memOk {rd ra rb g : Nat} {s : State} (h : memOk s) : OutOk (execMulhN64 rd ra rb g s) :=
  aluR_memOk h

theorem execMulhI64_memOk {rd ra rb g : Nat} {s : State} (h : memOk s) : OutOk (execMulhI64 rd ra rb g s) :=
  aluR_memOk h

theorem execMul_memOk {rd ra rb g : Nat} {s : State} (h : memOk s) : OutOk (execMul rd ra rb g s) :=
  aluR_memOk h

theorem execSra_memOk {rd ra rb g : Nat} {s : State} (h : memOk s) : OutOk (execSra rd ra rb g s) :=
  aluR_memOk h

theorem execSrl_memOk {rd ra rb g : Nat} {s : State} (h : memOk s) : OutOk (execSrl rd ra rb g s) :=
  aluR_memOk h

theorem execSll_memOk {rd ra rb g : Nat} {s : State} (h : memOk s) : OutOk (execSll rd ra rb g s) :=
  aluR_memOk h

theorem execAndn_memOk {rd ra rb g : Nat} {s : State} (h : memOk s) : OutOk (execAndn rd ra rb g s) :=
  aluR_memOk h

theorem execXor_memOk {rd ra rb g : Nat} {s : State} (h : memOk s) : OutOk (execXor rd ra rb g s) :=
  aluR_memOk h

theorem execOr_memOk {rd ra rb g : Nat} {s : State} (h : memOk s) : OutOk (execOr rd ra rb g s) :=
  aluR_memOk h

theorem execAnd_memOk {rd ra rb g : Nat} {s : State} (h : memOk s) : OutOk (execAnd rd ra rb g s) :=
  aluR_memOk h

theorem execSub_memOk {rd ra rb g : Nat} {s : State} (h : memOk s) : OutOk (execSub rd ra rb g s) :=
  aluR_memOk h

theorem execAdd_memOk {rd ra rb g : Nat} {s : State} (h : memOk s) : OutOk (execAdd rd ra rb g s) :=
  aluR_memOk h

theorem takeTurn_memOk {s : State} (h : memOk s) : memOk (takeTurn s).2 := by
  unfold takeTurn
  split
  · exact h
  · exact memOk_with h

theorem xinvDone_memOk {c : Nat} {s : State} (h : memOk s) : OptOk (xinvDone c s) := by
  unfold xinvDone
  split
  · split
    · exact trivial
    · exact advanceCore_memOk h
  · exact trivial

theorem boundaryTurn_memOk {c : Nat} {s : State} (h : memOk s) : OptOk (boundaryTurn c s) := by
  unfold boundaryTurn
  split
  · exact txWound_memOk h
  · split
    · exact woundEnter_memOk h
    · split
      · split
        · exact advanceCore_memOk h
        · exact trivial
      · split
        · split
          · exact enterEvent_memOk h
          · split
            · exact deliver_memOk h
            · exact trivial
        · exact xinvDone_memOk h

theorem pass_memOk {n : Nat} {s : State} (h : memOk s) : memOk (pass n s) :=
  memOk_with h

theorem passTo_memOk {k j : Nat} {s : State} (h : memOk s) : memOk (passTo k j s) := by
  induction k generalizing j s with
  | zero => exact h
  | succ n ih =>
    unfold passTo
    dsimp only
    split
    · split
      · exact pass_memOk h
      · exact passBoundary_memOk (pass_memOk h)
    · refine ih ?_
      split
      · exact pass_memOk h
      · exact passBoundary_memOk (pass_memOk h)

theorem settleFault_memOk {d : Nat} {s : State} (h : memOk s) : memOk (settleFault d s) := by
  unfold settleFault
  split
  · exact h
  · dsimp only
    split
    · exact updDist_memOk h
    · exact endFault_memOk (updDist_memOk h)

theorem settleFaults_memOk {s : State} (h : memOk s) : memOk (settleFaults s) :=
  foldl_memOk h fun _ _ hs => settleFault_memOk hs

theorem passAll_memOk {n : Nat} {s0 : State} (h : memOk s0) : memOk (passAll n s0) := by
  unfold passAll
  split
  · exact h
  · exact passTo_memOk (memOk_with (settleFaults_memOk h))

theorem issueSlot_memOk {c : Nat} {s : State} (h : memOk s) : memOk (issueSlot c s) := by
  unfold issueSlot
  dsimp only
  refine updCore_memOk ?_
  split
  · exact passAll_memOk (memOk_with h)
  · exact memOk_with h

theorem coreTurn_memOk {c : Nat} {s : State} (h : memOk s) : CoreTurnOk (coreTurn c s) := by
  unfold coreTurn
  dsimp only
  split
  · exact issueSlot_memOk h
  · split
    · next e => exact memOk_of_some e (boundaryTurn_memOk (issueSlot_memOk h))
    · split
      · split
        · next e1 => exact memOk_of_snd e1 (fetchInstr_memOk (issueSlot_memOk h))
        · next e1 => exact trapCore_memOk (memOk_of_snd e1 (fetchInstr_memOk (issueSlot_memOk h)))
        · next e1 => exact meetFrozen_memOk (memOk_of_snd e1 (fetchInstr_memOk (issueSlot_memOk h)))
      · exact issueSlot_memOk h

theorem peerLinkState_memOk {a b : Nat} {down : Bool} {s : State} (h : memOk s) : memOk (peerLinkState a b down s) :=
  memOk_with h

theorem flitAck_memOk {l seq : Nat} {s : State} (h : memOk s) : memOk (flitAck l seq s) := by
  unfold flitAck
  split
  · exact updLink_memOk h
  · exact h

theorem peerDeparture_memOk {dev tm : Nat} {s : State} (h : memOk s) : memOk (peerDeparture dev tm s) := by
  unfold peerDeparture
  split
  · exact silenceDevice_memOk (dueMember_memOk h)
  · exact h

theorem peerLeave_memOk {dev tm : Nat} {s : State} (h : memOk s) : memOk (peerLeave dev tm s) := by
  unfold peerLeave
  split
  · exact dueMember_memOk h
  · exact h

theorem peerRevoke_memOk {t : Nat} {name : Word} {s : State} (h : memOk s) : memOk (peerRevoke t name s) := by
  unfold peerRevoke
  split
  · exact h
  · exact revoke_memOk h

theorem peerWound_memOk {t : Nat} {space : BitVec 16} {name : Word} {addr implicit : Bool} {s : State} (h : memOk s) : memOk (peerWound t
    space name addr implicit s) :=
  memOk_with h

theorem lockGranted_memOk {n status : Nat} {s : State} (h : memOk s) : memOk (lockGranted n status s) := by
  unfold lockGranted
  split
  · exact h
  · split
    · exact h
    · dsimp only
      split
      · exact answerLock_memOk (putRecord_memOk (memOk_with h))
      · split
        · exact answerLock_memOk (foldLines_memOk (memOk_with h))
        · exact h
      · split
        · exact answerLock_memOk (memOk_with h)
        · exact h

theorem peerUnlock_memOk {d n : Nat} {space : BitVec 16} {name : Word} {addr implicit : Bool} {s : State} (h : memOk s) : memOk (peerUnlock
    d n space name addr implicit s) :=
  releaseIf_memOk h

theorem peerLock_memOk {d n : Nat} {space : BitVec 16} {name : Word} {addr : Bool} {mode : Nat} {age : Word} {implicit try_ : Bool} {s :
    State} (h : memOk s) : memOk (peerLock d n space name addr mode age implicit try_ s) := by
  unfold peerLock
  dsimp only
  split
  · exact h
  · exact lockAtHome_memOk h

theorem peerTagged_memOk {op pa : Nat} {v : W32} {s : State} (h : memOk s) : memOk (peerTagged op pa v s) := by
  unfold peerTagged
  dsimp only
  split
  · exact h
  · split
    · exact sendPeer_memOk h
    · exact performTag_memOk h

theorem peerSig_memOk {space : BitVec 16} {user : Bool} {bound dst index : Nat} {payload : Word} {s : State} (h : memOk s) : memOk (peerSig
    space user bound dst index payload s) :=
  handleMsg_memOk (memOk_with h)

theorem peerTurn_memOk {m : PeerMsg} {s : State} (h : memOk s) : memOk (peerTurn m s) := by
  unfold peerTurn
  split
  · exact peerSig_memOk h
  · exact peerStore_memOk h
  · exact peerAtomic_memOk h
  · exact peerTagged_memOk h
  · exact peerLock_memOk h
  · exact peerUnlock_memOk h
  · exact withdrawLock_memOk h
  · exact lockGranted_memOk h
  · exact peerWound_memOk h
  · exact peerRevoke_memOk h
  · exact linkCmd_memOk h
  · exact peerLeave_memOk h
  · exact peerDeparture_memOk h
  · exact flitAck_memOk h
  · exact peerLinkState_memOk h

theorem cellPipeError_memOk {e : Nat} {again : Bool} {s : State} (h : memOk s) : memOk (cellPipeError e again s) := by
  unfold cellPipeError
  split
  · next e =>
    split
    · split
      · exact regionError_memOk (memOk_of_snd e (drawFree_memOk h))
      · exact countRepair_memOk (memOk_of_snd e (drawFree_memOk h))
    · exact h

theorem corePipeError_memOk {c : Nat} {again : Bool} {s : State} (h : memOk s) : memOk (corePipeError c again s) := by
  unfold corePipeError
  split
  · next e =>
    split
    · exact coreParityFail_memOk (memOk_of_snd e (drawFree_memOk h))
    · exact countCoreRepair_memOk (memOk_of_snd e (drawFree_memOk h))

theorem SramWord.log_memOk {w : SramWord} {kind : Nat} {s : State} (h : memOk s) : memOk (SramWord.log w kind s) :=
  logError_memOk h

theorem sramCorrected_memOk {w : SramWord} {u : Upset} {s : State} (h : memOk s) : memOk (sramCorrected w u s) := by
  unfold sramCorrected
  dsimp only
  split
  · exact SramWord.log_memOk (updQuarter_memOk (SramWord.log_memOk (updQuarter_memOk h)))
  · exact SramWord.log_memOk (updQuarter_memOk h)

theorem cleanError_memOk {w : SramWord} {u : Upset} {f : Found} {drop : State → State} {s : State} (hdrop : ∀ t, memOk t → memOk (drop t))
    (h : memOk s) : memOk (cleanError w u f drop s) := by
  unfold cleanError
  refine noteRead_memOk ?_
  split
  · exact h
  · exact sramCorrected_memOk h
  · exact SramWord.log_memOk (updQuarter_memOk (hdrop _ h))

theorem retireElem_memOk {e : Nat} {s : State} (h : memOk s) : memOk (retireElem e s) := by
  unfold retireElem
  split <;> exact retire_memOk h

theorem sramUncorrectable_memOk {w : SramWord} {s : State} (h : memOk s) : memOk (sramUncorrectable w s) :=
  SramWord.log_memOk (updQuarter_memOk h)

theorem wordError_memOk {w : SramWord} {u : Upset} {f : Found} {owner : Option Nat} {now : Bool} {mark : State → State} {s : State} (hmark
    : ∀ t, memOk t → memOk (mark t)) (h : memOk s) : memOk (wordError w u f owner now mark s) := by
  unfold wordError
  refine noteRead_memOk ?_
  split
  · exact h
  · exact sramCorrected_memOk h
  · dsimp only
    split
    · split
      · exact retireElem_memOk (sramUncorrectable_memOk (hmark _ h))
      · exact sramUncorrectable_memOk (hmark _ h)
    · exact sramUncorrectable_memOk (hmark _ h)

theorem cachedError_memOk {line w : Nat} {f : Found} {s : State} (h : memOk s) : memOk (cachedError line w f s) := by
  unfold cachedError
  split
  · split
    · exact h
    · split
      · exact wordError_memOk (fun _ hs => lcPut_memOk hs) h
      · exact cleanError_memOk (fun _ hs => lcDel_memOk hs) h
  · exact h

theorem undoError_memOk {c n : Nat} {f : Found} {s : State} (h : memOk s) : memOk (undoError c n f s) := by
  unfold undoError
  split
  · exact h
  · exact wordError_memOk (fun _ hs => updThr_memOk hs) h

theorem landingError_memOk {e k n : Nat} {f : Found} {s : State} (h : memOk s) : memOk (landingError e k n f s) := by
  unfold landingError
  split
  · exact h
  · split
    · exact h
    · split
      · exact h
      · exact wordError_memOk (fun _ hs => updElem_memOk hs) h

theorem fibreBufError_memOk {e n : Nat} {f : Found} {s : State} (h : memOk s) : memOk (fibreBufError e n f s) := by
  unfold fibreBufError
  split
  · exact h
  · exact wordError_memOk (fun _ hs => updElem_memOk hs) h

theorem heldError_memOk {d n : Nat} {f : Found} {s : State} (h : memOk s) : memOk (heldError d n f s) := by
  unfold heldError
  split
  · exact h
  · split
    · exact h
    · exact wordError_memOk (fun _ hs => updDist_memOk hs) h

theorem matError_memOk {e i : Nat} {u : Upset} {f : Found} {now : Mat → Bool} {mark : Mat → Mat} {s : State} (h : memOk s) : memOk
    (matError e i u f now mark s) :=
  wordError_memOk (fun _ hs => updElem_memOk hs) h

theorem laneError_memOk {e w l : Nat} {f : Found} {s : State} (h : memOk s) : memOk (laneError e w l f s) :=
  wordError_memOk (fun _ hs => updElem_memOk hs) h

theorem upset_memOk {u : Upset} {f : Found} {s : State} (h : memOk s) : memOk (upset u f s) := by
  unfold upset
  split
  · exact lineRead_memOk h
  · split
    · exact wordError_memOk (fun _ hs => markPlace_memOk _ _ hs) h
    · exact h
  · split
    · exact wordError_memOk (fun _ hs => markPlace_memOk _ _ hs) h
    · exact h
  · split
    · exact cleanError_memOk (fun _ hs => dropLines_memOk hs) h
    · exact h
  · split
    · exact laneError_memOk h
    · exact h
  · split
    · exact matError_memOk h
    · exact h
  · split
    · exact matError_memOk h
    · exact h
  · split
    · exact matError_memOk h
    · exact h
  · exact heldError_memOk h
  · split
    · exact h
    · exact wordError_memOk (fun _ hs => updElem_memOk hs) h
  · exact fibreBufError_memOk h
  · exact landingError_memOk h
  · split
    · exact h
    · exact wordError_memOk (fun _ hs => hs) h
  · split
    · exact undoError_memOk h
    · exact h
  · exact cachedError_memOk h
  · split
    · exact updCore_memOk h
    · exact h
  · split
    · exact updElem_memOk h
    · exact h
  · split
    · exact corePipeError_memOk h
    · exact h
  · split
    · exact cellPipeError_memOk h
    · exact h

theorem dieNow_memOk {n : Nat} {s : State} (h : memOk s) : memOk (dieNow n s) := by
  unfold dieNow
  split
  · exact h
  · split
    · exact h
    · exact releaseAll_memOk (undoTx_memOk (memOk_with h))

theorem peerStored_memOk {n : Nat} {s : State} (h : memOk s) : memOk (peerStored n s) := by
  unfold peerStored
  split
  · split
    · exact snapDone_memOk (memOk_with h)
    · exact h
  · exact h

end Sys2Proof.Machine
end

section
/-! PROOFS. 05 R141: the memories stay canonical through every instruction, event and turn (O23). -/

namespace Sys2Proof.Machine

theorem exec_memOk {s : State} (h : memOk s) (i : Instr) : OutOk (exec i s) :=
  match i with
  | .add .. => execAdd_memOk h
  | .sub .. => execSub_memOk h
  | .and .. => execAnd_memOk h
  | .or .. => execOr_memOk h
  | .xor .. => execXor_memOk h
  | .andn .. => execAndn_memOk h
  | .sll .. => execSll_memOk h
  | .srl .. => execSrl_memOk h
  | .sra .. => execSra_memOk h
  | .mul .. => execMul_memOk h
  | .mulhI64 .. => execMulhI64_memOk h
  | .mulhN64 .. => execMulhN64_memOk h
  | .divI64 .. => execDivI64_memOk h
  | .divN64 .. => execDivN64_memOk h
  | .remI64 .. => execRemI64_memOk h
  | .remN64 .. => execRemN64_memOk h
  | .minI64 .. => execMinI64_memOk h
  | .maxI64 .. => execMaxI64_memOk h
  | .minN64 .. => execMinN64_memOk h
  | .maxN64 .. => execMaxN64_memOk h
  | .addsI32 .. => execAddsI32_memOk h
  | .subsI32 .. => execSubsI32_memOk h
  | .addsI64 .. => execAddsI64_memOk h
  | .subsI64 .. => execSubsI64_memOk h
  | .clz .. => execClz_memOk h
  | .ctz .. => execCtz_memOk h
  | .popc .. => execPopc_memOk h
  | .addi .. => execAddi_memOk h
  | .andi .. => execAndi_memOk h
  | .ori .. => execOri_memOk h
  | .xori .. => execXori_memOk h
  | .slli .. => execSlli_memOk h
  | .srli .. => execSrli_memOk h
  | .srai .. => execSrai_memOk h
  | .ldhi .. => execLdhi_memOk h
  | .addpc .. => execAddpc_memOk h
  | .li .. => execLi_memOk h
  | .lih .. => execLih_memOk h
  | .cmpEq .. => execCmpEq_memOk h
  | .cmpNe .. => execCmpNe_memOk h
  | .cmpLtI64 .. => execCmpLtI64_memOk h
  | .cmpGeI64 .. => execCmpGeI64_memOk h
  | .cmpLtN64 .. => execCmpLtN64_memOk h
  | .cmpGeN64 .. => execCmpGeN64_memOk h
  | .kand .. => execKand_memOk h
  | .kor .. => execKor_memOk h
  | .kxor .. => execKxor_memOk h
  | .kandn .. => execKandn_memOk h
  | .knot .. => execKnot_memOk h
  | .kmov .. => execKmov_memOk h
  | .kget .. => execKget_memOk h
  | .sel .. => execSel_memOk h
  | .cmpiEq .. => execCmpiEq_memOk h
  | .cmpiLtI64 .. => execCmpiLtI64_memOk h
  | .cmpiLtN64 .. => execCmpiLtN64_memOk h
  | .beq .. => execBeq_memOk h
  | .bne .. => execBne_memOk h
  | .bltI64 .. => execBltI64_memOk h
  | .bgeI64 .. => execBgeI64_memOk h
  | .bltN64 .. => execBltN64_memOk h
  | .bgeN64 .. => execBgeN64_memOk h
  | .bk .. => execBk_memOk h
  | .bnk .. => execBnk_memOk h
  | .call .. => execCall_memOk h
  | .callr .. => execCallr_memOk h
  | .loop .. => execLoop_memOk h
  | .ldI8 .. => execLdI8_memOk h
  | .ldN8 .. => execLdN8_memOk h
  | .ldI16 .. => execLdI16_memOk h
  | .ldN16 .. => execLdN16_memOk h
  | .ldI32 .. => execLdI32_memOk h
  | .ldN32 .. => execLdN32_memOk h
  | .ldI64 .. => execLdI64_memOk h
  | .loadDataReturn .. => execLoadDataReturn_memOk h
  | .stN8 .. => execStN8_memOk h
  | .stN16 .. => execStN16_memOk h
  | .stN32 .. => execStN32_memOk h
  | .stN64 .. => execStN64_memOk h
  | .remoteStoreFail .. => execRemoteStoreFail_memOk h
  | .movedRetry .. => execMovedRetry_memOk h
  | .tldTake .. => execTldTake_memOk h
  | .tldKeep .. => execTldKeep_memOk h
  | .tstFill .. => execTstFill_memOk h
  | .tstSet .. => execTstSet_memOk h
  | .tagGet .. => execTagGet_memOk h
  | .tagClr .. => execTagClr_memOk h
  | .taggedWaiterServe .. => execTaggedWaiterServe_memOk h
  | .tagWaitTimeout .. => execTagWaitTimeout_memOk h
  | .amoAdd .. => execAmoAdd_memOk h
  | .amoAnd .. => execAmoAnd_memOk h
  | .amoOr .. => execAmoOr_memOk h
  | .amoXor .. => execAmoXor_memOk h
  | .amoMinSigned .. => execAmoMinSigned_memOk h
  | .amoMaxSigned .. => execAmoMaxSigned_memOk h
  | .amoMinUnsigned .. => execAmoMinUnsigned_memOk h
  | .amoMaxUnsigned .. => execAmoMaxUnsigned_memOk h
  | .amoSwap .. => execAmoSwap_memOk h
  | .amoCas .. => execAmoCas_memOk h
  | .amoAddF32 .. => execAmoAddF32_memOk h
  | .amoSnap .. => execAmoSnap_memOk h
  | .amoVaddN32 .. => execAmoVaddN32_memOk h
  | .amoVaddF32 .. => execAmoVaddF32_memOk h
  | .amoLd .. => execAmoLd_memOk h
  | .atomicAtHome .. => execAtomicAtHome_memOk h
  | .atomicReply .. => execAtomicReply_memOk h
  | .fence .. => execFence_memOk h
  | .acq .. => execAcq_memOk h
  | .rel .. => execRel_memOk h
  | .bind .. => execBind_memOk h
  | .unbind .. => execUnbind_memOk h
  | .barInit .. => execBarInit_memOk h
  | .barArrive .. => execBarArrive_memOk h
  | .barWait .. => execBarWait_memOk h
  | .barSync .. => execBarSync_memOk h
  | .barrierWaitTimeout .. => execBarrierWaitTimeout_memOk h
  | .lkReq .. => execLkReq_memOk h
  | .lkTry .. => execLkTry_memOk h
  | .lkUp .. => execLkUp_memOk h
  | .lkRel .. => execLkRel_memOk h
  | .lkRelall .. => execLkRelall_memOk h
  | .lkQuery .. => execLkQuery_memOk h
  | .lockRequestAtHome .. => execLockRequestAtHome_memOk h
  | .woundArrival .. => execWoundArrival_memOk h
  | .woundAsyncEntry .. => execWoundAsyncEntry_memOk h
  | .lockRevoke .. => execLockRevoke_memOk h
  | .txBegin .. => execTxBegin_memOk h
  | .txEnd .. => execTxEnd_memOk h
  | .txAbort .. => execTxAbort_memOk h
  | .txStat .. => execTxStat_memOk h
  | .txCommit .. => execTxCommit_memOk h
  | .txWoundAbort .. => execTxWoundAbort_memOk h
  | .spawn .. => execSpawn_memOk h
  | .spawnWaitTimeout .. => execSpawnWaitTimeout_memOk h
  | .done .. => execDone_memOk h
  | .joinInit .. => execJoinInit_memOk h
  | .chunk .. => execChunk_memOk h
  | .dacq .. => execDacq_memOk h
  | .dacqWaitGrant .. => execDacqWaitGrant_memOk h
  | .drel .. => execDrel_memOk h
  | .cfgLoad .. => execCfgLoad_memOk h
  | .cfgLoadEnd .. => execCfgLoadEnd_memOk h
  | .cfgConst .. => execCfgConst_memOk h
  | .cfgConstApply .. => execCfgConstApply_memOk h
  | .invoke .. => execInvoke_memOk h
  | .sbind .. => execSbind_memOk h
  | .push .. => execPush_memOk h
  | .pull .. => execPull_memOk h
  | .streamWaitTimeout .. => execStreamWaitTimeout_memOk h
  | .drain .. => execDrain_memOk h
  | .ctxset .. => execCtxset_memOk h
  | .mstone .. => execMstone_memOk h
  | .mstoneComplete .. => execMstoneComplete_memOk h
  | .tdown .. => execTdown_memOk h
  | .tdownComplete .. => execTdownComplete_memOk h
  | .dmaLd .. => execDmaLd_memOk h
  | .dmaSt .. => execDmaSt_memOk h
  | .dmaCp .. => execDmaCp_memOk h
  | .dmaGath .. => execDmaGath_memOk h
  | .dmaEnd .. => execDmaEnd_memOk h
  | .binApp .. => execBinApp_memOk h
  | .binAppendAtEngine .. => execBinAppendAtEngine_memOk h
  | .binPlay .. => execBinPlay_memOk h
  | .binRegionReplay .. => execBinRegionReplay_memOk h
  | .rput .. => execRput_memOk h
  | .rget .. => execRget_memOk h
  | .ramo .. => execRamo_memOk h
  | .remoteLinkFail .. => execRemoteLinkFail_memOk h
  | .tidWr .. => execTidWr_memOk h
  | .tidRd .. => execTidRd_memOk h
  | .mtile .. => execMtile_memOk h
  | .mbload .. => execMbload_memOk h
  | .maccCp .. => execMaccCp_memOk h
  | .maccZero .. => execMaccZero_memOk h
  | .seqBFetch .. => execSeqBFetch_memOk h
  | .seqBWrite .. => execSeqBWrite_memOk h
  | .seqAFetch .. => execSeqAFetch_memOk h
  | .seqAAlign .. => execSeqAAlign_memOk h
  | .seqABroadcast .. => execSeqABroadcast_memOk h
  | .seqAAccumulate .. => execSeqAAccumulate_memOk h
  | .seqAccRowMove .. => execSeqAccRowMove_memOk h
  | .seqSetCompletion .. => execSeqSetCompletion_memOk h
  | .mfs .. => execMfs_memOk h
  | .mts .. => execMts_memOk h
  | .trap .. => execTrap_memOk h
  | .tack .. => execTack_memOk h
  | .eret .. => execEret_memOk h
  | .idle .. => execIdle_memOk h
  | .icinvAll .. => execIcinvAll_memOk h
  | .icinvLine .. => execIcinvLine_memOk h
  | .icinvAcknowledge .. => execIcinvAcknowledge_memOk h
  | .xinvAll .. => execXinvAll_memOk h
  | .xinvSpace .. => execXinvSpace_memOk h
  | .xinvVa .. => execXinvVa_memOk h
  | .sig .. => execSig_memOk h
  | .sigMessageArrival .. => execSigMessageArrival_memOk h
  | .sigHoldTimeout .. => execSigHoldTimeout_memOk h
  | .sigQueueEntry .. => execSigQueueEntry_memOk h
  | .msgDelivery .. => execMsgDelivery_memOk h
  | .sethnd .. => execSethnd_memOk h
  | .gcJoin .. => execGcJoin_memOk h
  | .gcLeave .. => execGcLeave_memOk h
  | .gcAnn .. => execGcAnn_memOk h
  | .gcQuery .. => execGcQuery_memOk h
  | .brk => execBrk_memOk h
  | .asyncEventEntry .. => execAsyncEventEntry_memOk h
  | .plainWrite .. => execPlainWrite_memOk h
  | .setElementCursor .. => execSetElementCursor_memOk h
  | .wideWrite .. => execWideWrite_memOk h
  | .nop .. => execNop_memOk h
  | .stage .. => execStage_memOk h
  | .commit .. => execCommit_memOk h
  | .abandon .. => execAbandon_memOk h
  | .wave .. => execWave_memOk h
  | .clear .. => execClear_memOk h
  | .pendingCommandApply .. => execPendingCommandApply_memOk h
  | .pendingSwitchApply .. => execPendingSwitchApply_memOk h
  | .tokenHop .. => execTokenHop_memOk h
  | .vectorCellFiring .. => execVectorCellFiring_memOk h
  | .structuralEmission .. => execStructuralEmission_memOk h
  | .controlTokenTake .. => execControlTokenTake_memOk h
  | .branchCellFinish .. => execBranchCellFinish_memOk h
  | .scannerStep .. => execScannerStep_memOk h
  | .fibreBufferRefill .. => execFibreBufferRefill_memOk h
  | .skipRequest .. => execSkipRequest_memOk h
  | .mergeIntersectStep .. => execMergeIntersectStep_memOk h
  | .mergeUnionStep .. => execMergeUnionStep_memOk h
  | .repeaterRefStep .. => execRepeaterRefStep_memOk h
  | .repeaterFibreLoad .. => execRepeaterFibreLoad_memOk h
  | .repeaterFibreReplay .. => execRepeaterFibreReplay_memOk h
  | .reducerStep .. => execReducerStep_memOk h
  | .levelWriterStep .. => execLevelWriterStep_memOk h
  | .matrixRowFiring .. => execMatrixRowFiring_memOk h
  | .matrixBurstTake .. => execMatrixBurstTake_memOk h
  | .matrixDonePass .. => execMatrixDonePass_memOk h
  | .memoryNodeRequest .. => execMemoryNodeRequest_memOk h
  | .memoryNodeReturn .. => execMemoryNodeReturn_memOk h
  | .rowBurst .. => execRowBurst_memOk h
  | .nodeTagTimeout .. => execNodeTagTimeout_memOk h
  | .milestoneTake .. => execMilestoneTake_memOk h
  | .rollback .. => execRollback_memOk h
  | .patrolRead .. => execPatrolRead_memOk h
  | .elementJoin .. => execElementJoin_memOk h
  | .invokeStart .. => execInvokeStart_memOk h
  | .invocationEnd .. => execInvocationEnd_memOk h
  | .gangfault .. => execGangfault_memOk h
  | .stallWatchdogExpiry .. => execStallWatchdogExpiry_memOk h
  | .heldStoreEntry .. => execHeldStoreEntry_memOk h
  | .waveCommit .. => execWaveCommit_memOk h
  | .launchWindowWrite .. => execLaunchWindowWrite_memOk h
  | .hqBaseWrite .. => execHqBaseWrite_memOk h
  | .enable .. => execEnable_memOk h
  | .disable .. => execDisable_memOk h
  | .teardown .. => execTeardown_memOk h
  | .reset .. => execReset_memOk h
  | .off .. => execOff_memOk h
  | .queueTorn .. => execQueueTorn_memOk h
  | .hubDispatch => execHubDispatch_memOk h
  | .pwaitPreemption => execPwaitPreemption_memOk h
  | .joinDecrement => execJoinDecrement_memOk h
  | .recCopyEnter .. => execRecCopyEnter_memOk h
  | .graphWalkStart => execGraphWalkStart_memOk h
  | .graphTaskNode .. => execGraphTaskNode_memOk h
  | .graphCondNode .. => execGraphCondNode_memOk h
  | .graphWhileNode .. => execGraphWhileNode_memOk h
  | .graphLoopNode .. => execGraphLoopNode_memOk h
  | .graphJoinNode .. => execGraphJoinNode_memOk h
  | .schCtlWrite .. => execSchCtlWrite_memOk h
  | .preempt .. => execPreempt_memOk h
  | .preemptSaveComplete .. => execPreemptSaveComplete_memOk h
  | .taskRestore .. => execTaskRestore_memOk h
  | .halt .. => execHalt_memOk h
  | .unhalt .. => execUnhalt_memOk h
  | .stop .. => execStop_memOk h
  | .run .. => execRun_memOk h
  | .restart .. => execRestart_memOk h
  | .qcSdataWrite .. => execQcSdataWrite_memOk h
  | .qcSdataRead .. => execQcSdataRead_memOk h
  | .migrationStart .. => execMigrationStart_memOk h
  | .migrationEnd .. => execMigrationEnd_memOk h
  | .pinLoad .. => execPinLoad_memOk h
  | .zoneMapWrite .. => execZoneMapWrite_memOk h
  | .rpRemapWrite .. => execRpRemapWrite_memOk h
  | .rpCountClear .. => execRpCountClear_memOk h
  | .lmReload .. => execLmReload_memOk h
  | .registerWrite .. => execRegisterWrite_memOk h
  | .announceReceive .. => execAnnounceReceive_memOk h
  | .heartbeatSend => execHeartbeatSend_memOk h
  | .heartbeatReceive _ _ k _ => execHeartbeatReceive_memOk (_n := k) h
  | .joinReceive _ _ _ k => execJoinReceive_memOk (_notice := k) h
  | .stateReceive .. => execStateReceive_memOk h
  | .groupFound => execGroupFound_memOk h
  | .leaveReceive .. => execLeaveReceive_memOk h
  | .silentDeclare .. => execSilentDeclare_memOk h
  | .silentReceive .. => execSilentReceive_memOk h
  | .expelReceive .. => execExpelReceive_memOk h
  | .ceilingChange => execCeilingChange_memOk h
  | .thermalTick .. => execThermalTick_memOk h
  | .currentTick .. => execCurrentTick_memOk h
  | .powerCapTick .. => execPowerCapTick_memOk h
  | .rackShareSend => execRackShareSend_memOk h
  | .rackShareReceive .. => execRackShareReceive_memOk h
  | .emergencyThrottle .. => execEmergencyThrottle_memOk h
  | .emergencyRelease .. => execEmergencyRelease_memOk h
  | .flitReceive .. => execFlitReceive_memOk h
  | .nakReplay .. => execNakReplay_memOk h
  | .linkRetrain .. => execLinkRetrain_memOk h
  | .laneFail .. => execLaneFail_memOk h
  | .spare .. => execSpare_memOk h
  | .turn .. => execTurn_memOk h
  | .idleLane .. => execIdleLane_memOk h
  | .laneTrained .. => execLaneTrained_memOk h
  | .leave .. => execLeave_memOk h
  | .membershipChange => execMembershipChange_memOk h
  | .deviceDeparture .. => execDeviceDeparture_memOk h
  | .domainJoin .. => execDomainJoin_memOk h
  | .ownerCas .. => execOwnerCas_memOk h
  | .ownerHeartbeat .. => execOwnerHeartbeat_memOk h
  | .ownerStale => execOwnerStale_memOk h
  | .scaleoutPacketReceive .. => execScaleoutPacketReceive_memOk h
  | .scaleoutRetransmit .. => execScaleoutRetransmit_memOk h
  | .deviceReset => execDeviceReset_memOk
  | .loadFirmware .. => execLoadFirmware_memOk h
  | .attest .. => execAttest_memOk h
  | .attestComplete .. => execAttestComplete_memOk h
  | .retrainingEnd .. => execRetrainingEnd_memOk h
  | .bar2MemoryWrite .. => execBar2MemoryWrite_memOk h
  | .contextCounterAdvance .. => execContextCounterAdvance_memOk h

/-- The event keeps the three memories. -/
def EventOk (f : Event) : Prop := ∀ {t}, memOk t → OutOk (f t)

def EventsOk (l : List Event) : Prop := ∀ f ∈ l, EventOk f

/-- The events of a list that is written out, one by one. -/
theorem EventsOk.of {l : List Event} (h : l.Forall EventOk) : EventsOk l := List.forall_iff_forall_mem.mp h

theorem EventsOk.append {l m : List Event} (hl : EventsOk l) (hm : EventsOk m) : EventsOk (l ++ m) :=
  List.forall_mem_append.mpr ⟨hl, hm⟩

theorem EventsOk.map {α : Type} {l : List α} {f : α → Event} (hf : ∀ x, EventOk (f x)) : EventsOk (l.map f) :=
  List.forall_mem_map.mpr fun x _ => hf x

theorem EventsOk.each {n : Nat} {f : Nat → Event} (hf : ∀ k, EventOk (f k)) : EventsOk (each n f) := .map hf

theorem EventsOk.flatMap {α : Type} {l : List α} {f : α → List Event} (hf : ∀ x, EventsOk (f x)) : EventsOk (l.flatMap f) := by
  intro g hg
  obtain ⟨x, -, hx⟩ := List.mem_flatMap.mp hg
  exact hf x g hx

theorem EventsOk.eachPath {s : State} {f : Nat → Event} (hf : ∀ k, EventOk (f k)) : EventsOk (eachPath s f) :=
  .flatMap fun _ => .map fun _ => hf _

theorem coreEvents_ok {c : Nat} : EventsOk (coreEvents c) :=
  .append (.of ⟨execSigHoldTimeout_memOk, execSigQueueEntry_memOk, execTagWaitTimeout_memOk, execBarrierWaitTimeout_memOk,
      execSpawnWaitTimeout_memOk, execStreamWaitTimeout_memOk⟩)
    (.of ⟨execDacqWaitGrant_memOk, execCfgConstApply_memOk, execTxCommit_memOk, execPreemptSaveComplete_memOk⟩)

theorem queueEvents_ok {s : State} : EventsOk (queueEvents s) :=
  .append (.append (.append (.append (.append (.append (.append (.append (.append (.map fun _ => execIcinvAcknowledge_memOk)
    (.each fun _ => execLockRequestAtHome_memOk))
    (.each fun _ => execWoundArrival_memOk))
    (.each fun _ => execLockRevoke_memOk))
    (.each fun _ => execTaggedWaiterServe_memOk))
    (.each fun _ => execSigMessageArrival_memOk))
    (.each fun _ => execAtomicAtHome_memOk))
    (.each fun _ => execMovedRetry_memOk))
    (.each fun _ => peerStored_memOk))
    (.each fun _ => dieNow_memOk)

theorem engineEvents_ok {s : State} : EventsOk (engineEvents s) :=
  .append (.append (.append (.each fun _ => execDmaEnd_memOk)
    (.each fun _ => execBinRegionReplay_memOk))
    (.each fun _ => execBinAppendAtEngine_memOk))
    (.each fun _ => execMigrationEnd_memOk)

theorem hubEvents_ok {s : State} : EventsOk (hubEvents s) :=
  .append (.append (.append (.append (.append (.append (.append (.append (.append (.append (.append (.append (.append (.append (.append
      (.append (.append (.each fun _ => execJoinDecrement_memOk)
    (.each fun _ => execRecCopyEnter_memOk))
    (.of execGraphWalkStart_memOk))
    (.eachPath fun _ => execGraphTaskNode_memOk))
    (.eachPath fun _ => execGraphCondNode_memOk))
    (.eachPath fun _ => execGraphWhileNode_memOk))
    (.eachPath fun _ => execGraphLoopNode_memOk))
    (.eachPath fun _ => execGraphJoinNode_memOk))
    (.of execHubDispatch_memOk))
    (.each fun _ => execTaskRestore_memOk))
    (.of execPwaitPreemption_memOk))
    (.each fun _ => execQueueTorn_memOk))
    (.of ⟨execHeartbeatSend_memOk, execGroupFound_memOk⟩))
    (.map fun _ => execSilentDeclare_memOk))
    (.of ⟨execMembershipChange_memOk, execCeilingChange_memOk⟩))
    (.of ⟨execRackShareSend_memOk, execOwnerStale_memOk⟩))
    (.each fun _ => execScaleoutRetransmit_memOk))
    (.each fun _ => execAttestComplete_memOk)

theorem districtEvents_ok {d : Nat} : EventsOk (districtEvents d) :=
  .append (.append (.of ⟨execContextCounterAdvance_memOk, execPlainWrite_memOk, execSetElementCursor_memOk, execWideWrite_memOk,
      execNop_memOk, execStage_memOk, execCommit_memOk, execAbandon_memOk, execWave_memOk, execClear_memOk, execCfgLoadEnd_memOk⟩)
    (.of ⟨execInvokeStart_memOk, execSeqBFetch_memOk, execSeqBWrite_memOk, execSeqAFetch_memOk, execSeqAAlign_memOk,
      execSeqABroadcast_memOk, execSeqAAccumulate_memOk, execSeqAccRowMove_memOk, execSeqSetCompletion_memOk⟩))
    (.of ⟨execRollback_memOk, execGangfault_memOk, execStallWatchdogExpiry_memOk, execWaveCommit_memOk, execMstoneComplete_memOk,
      execInvocationEnd_memOk, execTdownComplete_memOk⟩)

theorem elemEvents_ok {e : Nat} : EventsOk (elemEvents e) :=
  .append (.append (.append (.append (.of ⟨execElementJoin_memOk, execPendingCommandApply_memOk, execMilestoneTake_memOk,
      execControlTokenTake_memOk, execStructuralEmission_memOk, execVectorCellFiring_memOk, execBranchCellFinish_memOk⟩)
    (.of ⟨execScannerStep_memOk, execFibreBufferRefill_memOk, execSkipRequest_memOk, execMergeIntersectStep_memOk,
      execMergeUnionStep_memOk, execRepeaterRefStep_memOk, execRepeaterFibreLoad_memOk, execRepeaterFibreReplay_memOk⟩))
    (.of ⟨execReducerStep_memOk, execLevelWriterStep_memOk, execMatrixBurstTake_memOk, execMatrixRowFiring_memOk,
      execMatrixDonePass_memOk⟩))
    (.flatMap fun _ => .of ⟨execMemoryNodeRequest_memOk, execRowBurst_memOk, execHeldStoreEntry_memOk, execNodeTagTimeout_memOk,
      execMemoryNodeReturn_memOk⟩))
    (.flatMap fun _ => .of ⟨execTokenHop_memOk, execTokenHop_memOk⟩)

theorem switchEvents_ok {p : Nat × Switch} : EventsOk (switchEvents p) :=
  List.forall_mem_cons.mpr ⟨execPendingSwitchApply_memOk, EventsOk.map fun _ => execTokenHop_memOk⟩

theorem fcEvents_ok {s : State} : EventsOk (fcEvents s) :=
  .append (.append (.append (.append (.append (.append (.flatMap fun _ => coreEvents_ok)
    (queueEvents_ok))
    (engineEvents_ok))
    (hubEvents_ok))
    (.flatMap fun _ => districtEvents_ok))
    (.flatMap fun _ => elemEvents_ok))
    (.flatMap fun _ => switchEvents_ok)

theorem partyEvents_ok {p : Party} {s : State} : EventsOk (partyEvents p s) := by
  unfold partyEvents
  split
  · exact .of trivial
  · exact .of execMigrationEnd_memOk
  · exact .of ⟨execRowBurst_memOk, execMemoryNodeRequest_memOk, execHeldStoreEntry_memOk⟩
  · exact .of ⟨execMilestoneTake_memOk, execScannerStep_memOk, execFibreBufferRefill_memOk, execRepeaterFibreLoad_memOk,
      execLevelWriterStep_memOk, execMatrixBurstTake_memOk⟩
  · split
    · exact .of ⟨execDmaEnd_memOk, execBinRegionReplay_memOk⟩
    · exact .of trivial
  · exact .of execBinAppendAtEngine_memOk
  · exact .of ⟨execPlainWrite_memOk, execCfgLoadEnd_memOk, execSeqBFetch_memOk, execSeqAFetch_memOk, execSeqAccRowMove_memOk,
      execWaveCommit_memOk, execInvocationEnd_memOk⟩
  · exact .append (.append (.append (.of ⟨execJoinDecrement_memOk, execGraphWalkStart_memOk⟩) (.eachPath fun _ => execGraphCondNode_memOk))
      (.eachPath fun _ => execGraphWhileNode_memOk)) (.eachPath fun _ => execGraphLoopNode_memOk)

theorem runEvents_memOk {l : List Event} {s : State} (h : memOk s) (hl : EventsOk l) : OutOk (runEvents l s) := by
  induction l generalizing s with
  | nil => exact h
  | cons f l ih =>
    obtain ⟨hf, hl⟩ := List.forall_mem_cons.mp hl
    have hfs := hf h
    unfold runEvents
    split
    · next e => exact ih (memOk_of_next e hfs) hl
    · exact hfs

theorem fabricTurn_memOk {s : State} (h : memOk s) : OutOk (fabricTurn s) := by
  have hr := runEvents_memOk h (fcEvents_ok (s := s))
  unfold fabricTurn
  split
  · next e => exact passAll_memOk (memOk_of_next e hr)
  · exact hr

theorem coreStep_memOk {c : Nat} {s : State} (h : memOk s) : OutOk (coreStep c s) := by
  have ht := coreTurn_memOk (c := c) h
  unfold coreStep
  split
  · split
    · next e => exact ht.of_rest e
    · next e => exact exec_memOk (ht.of_run e) _
  · trivial

theorem runTurn_memOk {t : Turn} {s : State} (h : memOk s) : OutOk (runTurn t s) := by
  cases t with
  | pass n => exact passAll_memOk h
  | fabric => exact fabricTurn_memOk h
  | upset u f => exact upset_memOk h
  | event i =>
    simp only [runTurn]
    split
    · exact h
    · exact exec_memOk h i
  | peer m => exact peerTurn_memOk h
  | party p =>
    cases p with
    | core c => exact coreStep_memOk h
    | _ => exact runEvents_memOk h partyEvents_ok
  | core c => exact coreStep_memOk h

theorem step_memOk {s : State} (h : memOk s) : OutOk (step s) := runTurn_memOk (takeTurn_memOk h)

/-- Settles O23: reset gives empty memories, and no step leaves the canonical form, as each of its parts keeps it. -/
theorem memoryStaysCanonical : Obligations.MemoryStaysCanonical :=
  ⟨memOk_reset, fun i _ _ h e => memOk_of_next e (exec_memOk h i), fun _ _ h e => memOk_of_next e (step_memOk h)⟩

end Sys2Proof.Machine
end

section
/-! PROOFS. 05 R138 to R140, R149: an access that the checks refuse raises its cause (O24). -/

namespace Sys2Proof.Machine

/-- An instruction that reads fewer registers is ready too. -/
theorem Ready.mono {s : State} {g : Nat} {l m : List Nat} (h : Ready s g l) (hm : m ⊆ l) : Ready s g m :=
  ⟨h.1, fun r hr => h.2 r (by
    rcases List.mem_cons.mp hr with hr | hr
    · exact hr ▸ List.mem_cons_self ..
    · exact List.mem_cons_of_mem _ (hm hr))⟩

/-- The effective address of 05 R138. -/
theorem effAddr_eq (v : Word) (imm : Nat) : effAddr v imm = (v + (BitVec.ofNat 12 imm).signExtend 64).toNat % 2 ^ 56 := by
  rw [← imm12_eq]
  rfl

section
variable {s : State} {c a w : Nat} {n : Need} {strict : Bool}

theorem bytePlace_hole {b : Bool} (h : region a = 3) : bytePlace s c a n b = (.error 0x106, s) := by simp [bytePlace, h]

theorem bytePlace_noDistrict {b : Bool} (h : region a = 1) (hd : (thr s c).district = none) :
    bytePlace s c a n b = (.error 0x107, s) := by simp [bytePlace, h, hd]

/-- A cause of the window or the hole comes before every other check (05 R140). -/
theorem access_firstCause {x : BitVec 10} (hr : region a = 1 ∨ region a = 3) (h : (bytePlace s c a n false).1 = .error x) :
    access s c a w n strict = (.fault x (BitVec.ofNat 64 a), s) := by simp [access, hr, h]

theorem access_hole (h : region a = 3) : access s c a w n strict = (.fault 0x106 (BitVec.ofNat 64 a), s) :=
  access_firstCause (.inr h) (by rw [bytePlace_hole h])

theorem access_noDistrict (h : region a = 1) (hd : (thr s c).district = none) :
    access s c a w n strict = (.fault 0x107 (BitVec.ofNat 64 a), s) :=
  access_firstCause (.inl h) (by rw [bytePlace_noDistrict h hd])

theorem access_misaligned (h : region a = 0) (ha : a % w ≠ 0) : access s c a w n true = (.fault 0x104 (BitVec.ofNat 64 a), s) := by
  simp [access, h, ha]

end

theorem amoPlaceCause_dev {a : Nat} (h : region a = 0) : amoPlaceCause a = none := by simp [amoPlaceCause, h]

/-- No atomic reaches the window or local memory (05 R149). -/
theorem amoPlaceCause_sram {a : Nat} (h : region a = 1 ∨ region a = 2) : amoPlaceCause a = some 0x10B := by
  rcases h with h | h <;> simp [amoPlaceCause, h]

section
variable {s s1 : State} {w a rd ra rb g imm : Nat} {signed : Bool} {c : BitVec 10} {v : Word}

/-- A load whose access the checks refuse raises the cause. -/
theorem load_cause (hr : Ready s g [ra]) (ha : a = effAddr (rx s ra) imm) (h : access s s.cur a w needR false = (.fault c v, s1)) :
    load w signed rd ra g imm s = .next (trap c v s1) := by
  subst ha
  simp [load, issue_ready hr, h]

theorem store_cause (hr : Ready s g [rb, ra]) (ha : a = effAddr (rx s ra) imm) (h : access s s.cur a w needW false = (.fault c v, s1)) :
    store w rb ra g imm s = .next (trap c v s1) := by
  subst ha
  simp [store, issue_ready hr, h]

theorem tagged_cause {n : Need} {f : Nat → Place → State → State} (ha : a = addr56 (rx s ra)) (htx : (th s).status.txn = false)
    (h : access s s.cur a 4 n true = (.fault c v, s1)) : tagged ra n s f = trap c v s1 := by
  subst ha
  simp [tagged, htx, h]

theorem amoAccess_cause {bytes : Nat} {f : Place → List Place → State → State} (hp : amoPlaceCause a = none)
    (h : access s s.cur a w needRW true = (.fault c v, s1)) : amoAccess a w bytes s f = trap c v s1 := by
  simp [amoAccess, hp, h]

theorem amoAccess_placeCause {bytes : Nat} {f : Place → List Place → State → State} (hp : amoPlaceCause a = some c) :
    amoAccess a w bytes s f = trap c (BitVec.ofNat 64 a) s := by
  simp [amoAccess, hp]

end

/-- Settles O24, from the place and the cause of each check. -/
theorem accessChecksRaiseTheirCauses : Obligations.AccessChecksRaiseTheirCauses := by
  unfold Obligations.AccessChecksRaiseTheirCauses
  intro s rd ra rb g imm a b w hr hw ha hb
  rw [← effAddr_eq] at ha
  change b = addr56 (rx s ra) at hb
  have hra : Ready s g [ra] := hr.mono (by simp)
  have hba : Ready s g [rb, ra] := hr.mono (by simp)
  refine ⟨fun h => ⟨?_, ?_, ?_⟩, fun h hd => ⟨?_, ?_⟩, fun htx h hm => ⟨?_, ?_, ?_⟩, fun h => ?_⟩
  · exact load_cause hra ha (access_hole h)
  · exact load_cause hra ha (access_hole h)
  · exact store_cause hba ha (access_hole h)
  · exact load_cause hra ha (access_noDistrict h hd)
  · exact store_cause hba ha (access_noDistrict h hd)
  · exact (issue_ready hra _).trans (congrArg _ (tagged_cause hb htx (access_misaligned h hm)))
  · exact (issue_ready hr _).trans (congrArg _ (tagged_cause hb htx (access_misaligned h hm)))
  · have hm8 : b % (if w = 1 then 8 else 4) ≠ 0 := by split <;> omega
    refine (issue_ready hr _).trans (congrArg _ ?_)
    subst hb
    exact amoAccess_cause (amoPlaceCause_dev h) (access_misaligned h hm8)
  · refine (issue_ready hr _).trans (congrArg _ ?_)
    subst hb
    exact amoAccess_placeCause (amoPlaceCause_sram h)

end Sys2Proof.Machine
end

section
/-! PROOFS. 05 R138, R141, R142: what a load comes to (O21). -/

namespace Sys2Proof.Machine

/-! ## The places of an access -/

section
variable {s : State} {a w : Nat} {ps : List Place}

theorem isPeer_of_here {p : Place} (h : faraway s p = false) : isPeer p = false := (Bool.or_eq_false_iff.mp h).1

theorem migAt_of_here {p : Place} (h : faraway s p = false) : migAt s p = none := by
  simpa using (Bool.or_eq_false_iff.mp h).2

theorem migAt_peer {p : Place} (h : isPeer p = true) : migAt s p = none := by
  cases p with
  | peer => rfl
  | _ => exact absurd h Bool.false_ne_true

theorem noHub_of_peers (h : ps.all isPeer = true) : ps.any isHub = false := by
  simp only [List.any_eq_false, List.all_eq_true] at h ⊢
  intro p hp
  cases p with
  | hub o => exact absurd (h _ hp) Bool.false_ne_true
  | _ => exact Bool.false_ne_true

theorem map_snd_bytesAt : (bytesAt a ps).map Prod.snd = ps := by
  simp [bytesAt, List.map_snd_zip]

theorem mem_of_mem_bytesAt {x : Nat × Place} (h : x ∈ bytesAt a ps) : x.2 ∈ ps := by
  rw [← map_snd_bytesAt (a := a) (ps := ps)]
  exact List.mem_map_of_mem h

/-- A map over the bytes of an access that looks at their places alone. -/
theorem map_bytesAt {α : Type} {f : Nat × Place → α} {k : Place → α} (h : ∀ x ∈ bytesAt a ps, f x = k x.2) :
    (bytesAt a ps).map f = ps.map k := by
  rw [List.map_congr_left h, show (fun x : Nat × Place => k x.2) = k ∘ Prod.snd from rfl, ← List.map_map, map_snd_bytesAt]

/-- An access that reaches no peer meets no cached line. -/
theorem lcLines_here (h : ps.any (faraway s) = false) : lcLines s a ps = [] := by
  have hnone : (bytesAt a ps).filter (fun x => isPeer x.2 && pageMode s (coreWho s s.cur) x.1 == 1) = [] := by
    rw [List.filter_eq_nil_iff]
    intro x hx
    simp [isPeer_of_here (Bool.eq_false_iff.mpr (List.any_eq_false.mp h x.2 (mem_of_mem_bytesAt hx)))]
  simp [lcLines, hnone]

theorem lcLines_of_lcMode (h : lcMode s a ps = false) : lcLines s a ps = [] := by simpa [lcMode] using h

/-- Outside a transaction, and outside device memory, an access takes no lock and logs nothing. -/
theorem txAccess_noTx {write : Bool} {f : State → State} (h : (th s).status.txn = false ∨ region a ≠ 0) :
    txAccess a ps write s f = f s := by
  rcases h with h | h <;> simp [txAccess, h]

end

/-! ## The bytes of a load -/

/-- What a load does once it may go ahead: the last part of `loadAt`. -/
def loadBytes (rd w : Nat) (signed : Bool) (a : Nat) (ps : List Place) (s0 : State) : State :=
  let ks := lcLines s0 a ps
  let s := lcVisit ks s0
  let bs := (bytesAt a ps).map (hereByte s ks)
  if bs.any (fun b => b.any Prod.snd) then trap 0x109 (BitVec.ofNat 64 a) s
  else if bs.all Option.isSome then retX rd (loadValue w signed (leNat (bs.map (fun b => (b.map Prod.fst).getD 0)))) s
  else match ps.find? (fun p => (migAt s p).isSome), ps.any isPeer with
    | some p, true => spinMoved false p s
    | _, _ => loadAway rd w signed a ps bs s

section
variable {s s1 s2 : State} {rd ra g imm a w n d x k : Nat} {signed : Bool} {ps hs : List Place}

theorem loadAt_eq (hh : ps.any isHub = false) (hw : winBusy s a w = false) :
    loadAt rd w signed a ps s = txAccess a ps false s (loadBytes rd w signed a ps) := by
  simp only [loadAt, hh, hw, Bool.false_eq_true, if_false]
  rfl

theorem loadAt_noTx (hh : ps.any isHub = false) (hw : winBusy s a w = false) (ht : (th s).status.txn = false ∨ region a ≠ 0) :
    loadAt rd w signed a ps s = loadBytes rd w signed a ps s := by
  rw [loadAt_eq hh hw, txAccess_noTx ht]

/-- A hub register is read in one piece of 8 bytes (13 R336). -/
theorem loadAt_hub {o : Nat} :
    loadAt rd w signed a (.hub o :: ps) s = if w = 8 ∧ a % 8 = 0 then retX rd (hubRead s o) s else trap 0x104 (BitVec.ofNat 64 a) s := by
  simp [loadAt, isHub, hubOff]

theorem hereByte_here {ks : List Nat} {y : Nat × Place} (h : faraway s y.2 = false) :
    hereByte s ks y = some (placeByte s y.2, placePois s y.2) := by
  simp [hereByte, isPeer_of_here h, migAt_of_here h]

theorem hereByte_peer {y : Nat × Place} (h : isPeer y.2 = true) : hereByte s [] y = none := by
  simp [hereByte, h]

theorem any_poison_here : (ps.map (fun p => some (placeByte s p, placePois s p))).any (fun b => b.any Prod.snd) = poisPlaces s ps := by
  simp [poisPlaces, List.any_map, Function.comp_def]

/-- The bytes of a load whose places are all here. -/
theorem loadBytes_here (h : ps.any (faraway s) = false) :
    loadBytes rd w signed a ps s = if poisPlaces s ps then trap 0x109 (BitVec.ofNat 64 a) s
      else retX rd (loadValue w signed (leNat (readPlaces s ps))) s := by
  have hks := lcLines_here (a := a) h
  have hbs : (bytesAt a ps).map (hereByte s []) = ps.map (fun p => some (placeByte s p, placePois s p)) :=
    map_bytesAt fun y hy => hereByte_here (Bool.eq_false_iff.mpr (List.any_eq_false.mp h y.2 (mem_of_mem_bytesAt hy)))
  have hv : lcVisit [] s = s := rfl
  simp only [loadBytes, hks, hv, hbs, any_poison_here]
  simp [readPlaces, List.map_map, Function.comp_def]

theorem leNat_append_zero (l : List Byte) : leNat (l ++ [0]) = leNat l := by
  induction l with
  | nil => rfl
  | cons b l ih => rw [List.cons_append, leNat, ih, leNat]

/-- Adding places that are not here to a load adds nothing to the mask of the bytes that are. -/
theorem localBytes_append_none (bs cs : List (Option (Byte × Bool))) (hc : ∀ b ∈ cs, b = none) :
    localBytes (bs ++ cs) = localBytes bs := by
  induction cs using List.reverseRecOn with
  | nil => rw [List.append_nil]
  | append_singleton cs c ih =>
    have hc0 : c = none := hc c (by simp)
    have hcs := ih fun b hb => hc b (by simp [hb])
    rw [← List.append_assoc, hc0, ← hcs]
    simp only [localBytes, List.map_append, List.length_append, List.map_cons, List.map_nil, List.length_singleton, List.range_succ]
    rw [List.zip_append (by simp)]
    simp only [Option.map_none, Option.getD_none, leNat_append_zero, List.zip_cons_cons, List.zip_nil_right,
      List.foldl_append, List.foldl_cons, List.foldl_nil, Option.isSome_none, Bool.false_eq_true, if_false]

theorem localBytes_some (l : List (Byte × Bool)) : localBytes (l.map some) = (leNat (l.map Prod.fst), 2 ^ l.length - 1) := by
  induction l using List.reverseRecOn with
  | nil => rfl
  | append_singleton l b ih =>
    simp only [localBytes, Prod.mk.injEq, List.length_map] at ih ⊢
    refine ⟨by simp [Function.comp_def], ?_⟩
    have hpos := Nat.two_pow_pos l.length
    rw [List.map_append, List.length_append, List.map_singleton, List.length_singleton, List.range_succ, List.zip_append (by simp),
      List.foldl_append, ih.2, List.zip_cons_cons, List.zip_nil_right, List.foldl_cons, List.foldl_nil, pow_succ]
    show 2 ^ l.length - 1 + 2 ^ l.length = 2 ^ l.length * 2 - 1
    omega

/-- The request of a load of which a part stands here: hs here, then the run of a peer's bytes. -/
theorem loadBytes_away {q : Place} {qs : List Place} (hh : hs.any (faraway s) = false) (hp : poisPlaces s hs = false)
    (hq : (q :: qs).all isPeer = true) (hl : lcMode s a (hs ++ q :: qs) = false) :
    loadBytes rd w signed a (hs ++ q :: qs) s = await (.load rd w signed a) (sendReq (mkReq s q a 0 (if signed then 1 else 0)
      (BitVec.ofNat 64 (leNat (readPlaces s hs))) (BitVec.ofNat 64 (2 ^ hs.length - 1)) w rd true) s) := by
  have hks := lcLines_of_lcMode hl
  have here : ∀ p ∈ hs, faraway s p = false := fun p h => Bool.eq_false_iff.mpr (List.any_eq_false.mp hh p h)
  have peer : ∀ p ∈ q :: qs, isPeer p = true := fun p h => List.all_eq_true.mp hq p h
  have hbs : (bytesAt a (hs ++ q :: qs)).map (hereByte s []) =
      (hs.map (fun p => (placeByte s p, placePois s p))).map some ++ (q :: qs).map (fun _ => none) := by
    rw [map_bytesAt (f := hereByte s []) (k := fun p => hereByte s [] (0, p)) fun _ _ => rfl, List.map_append, List.map_map]
    exact congrArg₂ _ (List.map_congr_left fun p h => hereByte_here (y := (0, p)) (here p h))
      (List.map_congr_left fun p h => hereByte_peer (y := (0, p)) (peer p h))
  have hmig : (hs ++ q :: qs).find? (fun p => (migAt s p).isSome) = none := by
    rw [List.find?_eq_none]
    intro p h
    rcases List.mem_append.mp h with h | h
    · simp [migAt_of_here (here p h)]
    · simp [migAt_peer (peer p h)]
  have hfirst : (((hs ++ q :: qs).zip ((hs.map (fun p => (placeByte s p, placePois s p))).map some ++ (q :: qs).map (fun _ => none))).find?
      (fun x => x.2.isNone)).map Prod.fst = some q := by
    rw [List.zip_append (by simp), List.find?_append, List.find?_eq_none.mpr]
    · simp
    · intro x hx
      obtain ⟨y, -, hy⟩ := List.mem_map.mp (List.of_mem_zip hx).2
      simp [← hy]
  have hpois : (((hs.map (fun p => (placeByte s p, placePois s p))).map some ++ (q :: qs).map (fun _ => none))).any
      (fun b => b.any Prod.snd) = false := by
    rw [List.any_append, List.map_map]
    have h1 := any_poison_here (s := s) (ps := hs)
    simp_all
  have hv : lcVisit [] s = s := rfl
  have hloc : localBytes ((hs.map (fun p => (placeByte s p, placePois s p))).map some ++ (q :: qs).map (fun _ => none)) =
      (leNat (readPlaces s hs), 2 ^ hs.length - 1) := by
    rw [localBytes_append_none _ _ (by simp), localBytes_some]
    simp [readPlaces, Function.comp_def]
  simp only [loadBytes, hks, hv, hbs, hpois, hmig, loadAway, hfirst, hloc]
  simp

/-- The bytes of a load that stand in cached lines of peers' pages in local-caching mode. -/
theorem loadBytes_cached (h2 : s2 = lcVisit (lcLines s a ps) s) (hp : ps.all isPeer = true)
    (hc : ∀ p ∈ ps, lcKey p ∈ lcLines s a ps ∧ (lcByte s2 p).isSome = true) :
    loadBytes rd w signed a ps s = if ps.any (fun p => (lcByte s2 p).any Prod.snd) then trap 0x109 (BitVec.ofNat 64 a) s2
      else retX rd (loadValue w signed (leNat (ps.map (fun p => ((lcByte s2 p).map Prod.fst).getD 0)))) s2 := by
  have hbs : (bytesAt a ps).map (hereByte s2 (lcLines s a ps)) = ps.map (lcByte s2) := map_bytesAt fun y hy => by
    have hy := mem_of_mem_bytesAt hy
    simp [hereByte, List.all_eq_true.mp hp _ hy, (hc _ hy).1]
  have hall : (ps.map (lcByte s2)).all Option.isSome = true := by
    rw [List.all_map, List.all_eq_true]
    exact fun p h => (hc p h).2
  simp only [loadBytes, ← h2, hbs, hall]
  simp [List.any_map, Function.comp_def]

/-- A load of a transaction, once its lines' implicit locks are taken (05 R165). -/
theorem loadAt_tx_held (hh : ps.any isHub = false) (hw : winBusy s a w = false) (ht : (th s).status.txn = true) (hr : region a = 0)
    (hq : s.lockq.any (fun l => l.thread == (th s).id && l.implicit) = false)
    (hl : takeImplicit ((accLines a ps).flatMap (fun l => implicitLocks s (th s).asid.toNat l.1 l.2 false)) s = .held s2)
    (hf : ps.any (faraway s2) = false) : loadAt rd w signed a ps s = loadBytes rd w signed a ps s2 := by
  have hmig : ps.find? (fun p => (migAt s2 p).isSome) = none := by
    rw [List.find?_eq_none]
    intro p h
    simp [migAt_of_here (Bool.eq_false_iff.mpr (List.any_eq_false.mp hf p h))]
  rw [loadAt_eq hh hw]
  simp [txAccess, ht, hr, hq, hl, hmig]

theorem loadAt_tx_wait (hh : ps.any isHub = false) (hw : winBusy s a w = false) (ht : (th s).status.txn = true) (hr : region a = 0)
    (hq : s.lockq.any (fun l => l.thread == (th s).id && l.implicit) = false)
    (hl : takeImplicit ((accLines a ps).flatMap (fun l => implicitLocks s (th s).asid.toNat l.1 l.2 false)) s = .wait s2) :
    loadAt rd w signed a ps s = spin false s2 := by
  rw [loadAt_eq hh hw]
  simp [txAccess, ht, hr, hq, hl]

/-! ## The instruction -/

theorem load_checked (hr : Ready s g [ra]) (ha : a = effAddr (rx s ra) imm) (h : access s s.cur a w needR false = (.ok ps, s1)) :
    load w signed rd ra g imm s = .next (loadAt rd w signed a ps s1) := by
  subst ha
  simp [load, issue_ready hr, h]

/-- A load whose access the checks let through to this device's memory. -/
theorem load_plain (hr : Ready s g [ra]) (ha : a = effAddr (rx s ra) imm) (h : PlainAccess s a w needR false ps s1) :
    load w signed rd ra g imm s = .next (if poisPlaces s1 ps then trap 0x109 (BitVec.ofNat 64 a) s1
      else retX rd (loadValue w signed (leNat (readPlaces s1 ps))) s1) := by
  rw [load_checked hr ha h.checked, loadAt_noTx h.noHub h.free h.noTx, loadBytes_here h.here]

theorem loadValue_signed (w n : Nat) : loadValue w true n = (BitVec.ofNat (8 * w) n).signExtend 64 := rfl

theorem loadValue_unsigned (w n : Nat) : loadValue w false n = (BitVec.ofNat (8 * w) n).setWidth 64 := by
  apply BitVec.eq_of_toNat_eq
  simp [loadValue]

/-- The value of a plain load of clean bytes. -/
theorem load_plain_clean (hr : Ready s g [ra]) (ha : a = effAddr (rx s ra) imm) (hp : poisPlaces s1 ps = false)
    (h : PlainAccess s a w needR false ps s1) (hn : n = leNat (readPlaces s1 ps)) :
    load w signed rd ra g imm s = .next (retX rd (loadValue w signed n) s1) := by
  rw [load_plain hr ha h, hp, hn]
  rfl

end

/-- The loads of 05 R141: each is the `load` of its width and sign. -/
theorem exec_eq_load {i : Instr} {w : Nat} {sg : Bool} {rd ra g imm : Nat}
    (h : w = 1 ∧ (i = .ldI8 rd ra g imm ∧ sg = true ∨ i = .ldN8 rd ra g imm ∧ sg = false) ∨
        w = 2 ∧ (i = .ldI16 rd ra g imm ∧ sg = true ∨ i = .ldN16 rd ra g imm ∧ sg = false) ∨
        w = 4 ∧ (i = .ldI32 rd ra g imm ∧ sg = true ∨ i = .ldN32 rd ra g imm ∧ sg = false) ∨
        w = 8 ∧ i = .ldI64 rd ra g imm ∧ sg = true) (s : State) : exec i s = load w sg rd ra g imm s := by
  rcases h with ⟨rfl, ⟨rfl, rfl⟩ | ⟨rfl, rfl⟩⟩ | ⟨rfl, ⟨rfl, rfl⟩ | ⟨rfl, rfl⟩⟩ | ⟨rfl, ⟨rfl, rfl⟩ | ⟨rfl, rfl⟩⟩ | ⟨rfl, rfl, rfl⟩ <;> rfl

/-- Settles O21: the load of its width, by where the bytes of its access stand. -/
theorem loadsReturnTheirBytes : Obligations.LoadsReturnTheirBytes := by
  unfold Obligations.LoadsReturnTheirBytes
  intro s s1 rd ra g imm a n ps hr ha hn
  rw [← effAddr_eq] at ha
  refine ⟨fun hp => ⟨fun h => ?_, fun h => ?_, fun h => ?_, fun h => ?_, fun h => ?_, fun h => ?_, fun h => ?_⟩, ?_⟩
  · exact load_plain_clean hr ha hp h hn
  · exact (load_plain_clean hr ha hp h hn).trans (by rw [loadValue_unsigned])
  · exact load_plain_clean hr ha hp h hn
  · exact (load_plain_clean hr ha hp h hn).trans (by rw [loadValue_unsigned])
  · exact load_plain_clean hr ha hp h hn
  · exact (load_plain_clean hr ha hp h hn).trans (by rw [loadValue_unsigned])
  · exact (load_plain_clean hr ha hp h hn).trans (by rw [loadValue_signed, show (8 * 8 : Nat) = 64 from rfl, BitVec.signExtend_eq])
  intro i w sg hi
  rw [exec_eq_load hi]
  refine ⟨fun hp h => ?_, fun c v h => load_cause hr ha h, fun o qs h => ?_, fun d x qs h hq hl hw ht => ?_,
    fun hs d x k h hhub hh hp hl hw ht => ?_, fun s2 qs h _ hq hw ht h2 hc => ?_,
    fun qs h hhub hw ht hreg hlq => ⟨fun s2 hheld hf hp => ?_, fun s2 hwait => ?_⟩⟩
  · rw [load_plain hr ha h, hp]
    rfl
  · rw [load_checked hr ha h, loadAt_hub]
  · have hq : (Place.peer d x :: qs).all isPeer = true := hq
    rw [load_checked hr ha h, loadAt_noTx (noHub_of_peers hq) hw (.inl ht)]
    exact congrArg _ (loadBytes_away (hs := []) rfl rfl hq hl)
  · rw [List.range_succ_eq_map, List.map_cons] at h hl
    have hq : (Place.peer d (x + 0) :: ((List.range k).map Nat.succ).map (fun j => .peer d (x + j))).all isPeer = true := by simp [isPeer]
    have hnohub := List.any_append.trans (congrArg₂ or hhub (noHub_of_peers hq))
    rw [load_checked hr ha h, loadAt_noTx hnohub hw (.inl ht), loadBytes_away hh hp hq hl]
    rfl
  · rw [load_checked hr ha h, loadAt_noTx (noHub_of_peers hq) hw (.inl ht), loadBytes_cached h2 hq hc]
  · rw [load_checked hr ha h, loadAt_tx_held hhub hw ht hreg hlq hheld hf, loadBytes_here hf, hp]
    rfl
  · rw [load_checked hr ha h, loadAt_tx_wait hhub hw ht hreg hlq hwait]

end Sys2Proof.Machine
end

section
/-! PROOFS. 05 R138, R139: the places of an access that the checks let through, and what a store of bytes writes at them (O22). -/

namespace Sys2Proof.Machine

/-! ## The places of an access -/

section
variable {s s1 : State} {c va w : Nat} {n : Need} {strict b : Bool} {p : Place} {ps : List Place} {a : Nat} {pl : Nat → Place}

/-- Is a place one that a translation gives: device memory, here or at a peer, or a hub register? -/
def isMapped : Place → Bool
  | .loc _ _ => false
  | .spad _ _ => false
  | _ => true

theorem entPlace_mapped {e : XEnt} (h : entPlace s e va = .ok p) : isMapped p = true := by
  unfold entPlace at h
  dsimp only at h
  split_ifs at h <;> cases h <;> rfl

theorem xlate_mapped {who : Who} (h : xlate s who va n b = (.ok p, s1)) : isMapped p = true := by
  unfold xlate at h
  split at h
  · cases h
  · split at h
    · cases h
    · next q he =>
      split at h
      · cases h
      · cases h
        exact entPlace_mapped he

theorem bytePlace_mapped (hr : region va = 0) (h : bytePlace s c va n b = (.ok p, s1)) : isMapped p = true := by
  simp only [bytePlace, hr] at h
  exact xlate_mapped h

theorem bytePlace_loc (hr : region va = 2) : bytePlace s c va n b = (.ok (.loc c (locOff va)), s) := by
  simp [bytePlace, hr]

/-- The store cell and byte of an address of the window in the district of a core's thread. -/
def winAt (s : State) (c va : Nat) : Option Place :=
  ((thr s c).district.bind (mget? s.districts)).bind (fun k => winPlace k.rect (winOff va))

theorem bytePlace_window (hr : region va = 1) (h : bytePlace s c va n b = (.ok p, s1)) : winAt s c va = some p ∧ s1 = s := by
  simp only [bytePlace, hr] at h
  split at h
  · cases h
  · next d hd =>
    split at h
    · cases h
    · next k hk =>
      split at h
      · cases h
      · next q hq =>
        cases h
        simp [winAt, hd, hk, hq]

/-- The places of the later bytes, where the place of a byte depends on its address alone and none changes the state. -/
theorem restPlaces_fixed {r0 : Nat} (hb : ∀ a p t b, region a = r0 → bytePlace s c a n b = (.ok p, t) → p = pl a ∧ t = s) :
    ∀ {k j : Nat} {acc : List Place}, restPlaces s c va r0 n k j acc = (.ok ps, s1) →
      ps = acc.reverse ++ (List.range k).map (fun i => pl (va + (j + i))) ∧ ∀ i < k, region (va + (j + i)) = r0 := by
  intro k
  induction k with
  | zero =>
    intro j acc h
    cases h
    simp
  | succ k ih =>
    intro j acc h
    unfold restPlaces at h
    dsimp only at h
    split at h
    · cases h
    · next hreg =>
      push Not at hreg
      obtain ⟨hreg, hlt⟩ := hreg
      rw [Nat.mod_eq_of_lt hlt] at h hreg
      split at h
      · cases h
      · next q t hq =>
        obtain ⟨rfl, rfl⟩ := hb _ _ _ _ hreg hq
        obtain ⟨rfl, hall⟩ := ih h
        refine ⟨?_, fun i hi => ?_⟩
        · rw [List.reverse_cons, List.append_assoc, List.range_succ_eq_map, List.map_cons, List.map_map]
          simp [Function.comp_def, Nat.add_comm, Nat.add_left_comm]
        · cases i with
          | zero => exact hreg
          | succ i => exact (by omega : j + 1 + i = j + (i + 1)) ▸ hall i (by omega)

theorem access_fixed (hw : 0 < w) (hb : ∀ a p t b, region a = region va → bytePlace s c a n b = (.ok p, t) → p = pl a ∧ t = s)
    (h : access s c va w n strict = (.ok ps, s1)) :
    ps = (List.range w).map (fun i => pl (va + i)) ∧ ∀ i < w, region (va + i) = region va := by
  unfold access at h
  dsimp only at h
  split at h
  · cases h
  · split at h
    · cases h
    · split at h
      · cases h
      · next q t hq =>
        obtain ⟨rfl, rfl⟩ := hb _ _ _ _ rfl hq
        obtain ⟨rfl, hall⟩ := restPlaces_fixed hb h
        obtain ⟨w, rfl⟩ := Nat.exists_eq_add_of_lt hw
        refine ⟨?_, fun i hi => ?_⟩
        · rw [Nat.zero_add, Nat.add_sub_cancel, List.range_succ_eq_map, List.map_cons, List.map_map]
          simp [Function.comp_def, Nat.add_comm]
        · cases i with
          | zero => rfl
          | succ i => exact (by omega : 1 + i = i + 1) ▸ hall i (by omega)

theorem restPlaces_mapped (hr : ∀ p ∈ ps, isMapped p = true) :
    ∀ {k j : Nat} {s s1 : State} {qs : List Place}, restPlaces s c va 0 n k j ps = (.ok qs, s1) → ∀ p ∈ qs, isMapped p = true := by
  intro k
  induction k generalizing ps with
  | zero =>
    intro j s s1 qs h
    cases h
    simpa using hr
  | succ k ih =>
    intro j s s1 qs h
    unfold restPlaces at h
    dsimp only at h
    split at h
    · cases h
    · next hreg =>
      push Not at hreg
      split at h
      · cases h
      · next q t hq => exact ih (List.forall_mem_cons.mpr ⟨bytePlace_mapped hreg.1 hq, hr⟩) h

/-- The bytes of an access to device memory stand in device memory or are hub registers. -/
theorem access_mapped (hr : region va = 0) (h : access s c va w n strict = (.ok ps, s1)) : ∀ p ∈ ps, isMapped p = true := by
  unfold access at h
  dsimp only at h
  split at h
  · cases h
  · split at h
    · cases h
    · split at h
      · cases h
      · next q t hq =>
        rw [hr] at h
        exact restPlaces_mapped (by simpa using bytePlace_mapped hr hq) h

theorem region_loc : region va = 2 ↔ locBase ≤ va ∧ va < locTop := by
  simp only [region, winBase, winTop, locBase, locTop]
  grind

theorem locOff_add {i : Nat} (h : region va = 2) (hi : region (va + i) = 2) : locOff (va + i) = locOff va + i := by
  rw [region_loc, locBase, locTop] at h hi
  rw [locOff, locOff]
  omega

/-- The bytes of an access to local memory follow one another. -/
theorem access_loc (hw : 0 < w) (hr : region va = 2) (h : access s c va w n strict = (.ok ps, s1)) :
    ps = (List.range w).map (Place.loc c (locOff va)).plus := by
  obtain ⟨rfl, hall⟩ := access_fixed (pl := fun a => .loc c (locOff a)) hw (by
    intro a p t b ha hb
    rw [bytePlace_loc (ha.trans hr)] at hb
    cases hb
    exact ⟨rfl, rfl⟩) h
  refine List.map_congr_left fun i hi => ?_
  rw [locOff_add hr ((hall i (List.mem_range.mp hi)).trans hr)]
  rfl

/-- Within a doubleword of the window the bytes follow one another in one store cell. -/
theorem winPlace_add {r : Rect} {o i : Nat} (ho : o % 8 + i < 8) : winPlace r (o + i) = (winPlace r o).map (·.plus i) := by
  have h1 : nb (o + i) 22 20 = nb o 22 20 := by simp only [nb]; omega
  have h2 : nb (o + i) 25 23 = nb o 25 23 := by simp only [nb]; omega
  have h3 : nb (o + i) 19 15 = nb o 19 15 := by simp only [nb]; omega
  have h4 : nb (o + i) 14 0 = nb o 14 0 + i := by simp only [nb]; omega
  simp only [winPlace, h1, h2, h3, h4]
  split <;> rfl

theorem access_aligned (hr : region va = 1) (h : access s c va w n strict = (.ok ps, s1)) : va % w = 0 := by
  unfold access at h
  dsimp only at h
  split at h
  · cases h
  · split at h
    · cases h
    · next hn => 
      by_contra hne
      exact hn ⟨hne, .inr hr⟩

theorem access_first (h : access s c va w n strict = (.ok ps, s1)) : ∃ p t, bytePlace s c va n true = (.ok p, t) := by
  unfold access at h
  dsimp only at h
  split at h
  · cases h
  · split at h
    · cases h
    · split at h
      · cases h
      · next q t hq => exact ⟨q, t, hq⟩

theorem winAt_spad (h : winAt s c va = some p) : ∃ e o, p = .spad e o := by
  obtain ⟨k, -, hk⟩ := Option.bind_eq_some_iff.mp h
  unfold winPlace at hk
  dsimp only at hk
  split at hk <;> cases hk
  exact ⟨_, _, rfl⟩

theorem winAt_add {i : Nat} (hi : va % 8 + i < 8) : winAt s c (va + i) = (winAt s c va).map (·.plus i) := by
  have ho : winOff (va + i) = winOff va + i := by
    rw [winOff, winOff]
    omega
  have ho8 : winOff va % 8 + i < 8 := by
    rw [winOff]
    omega
  rw [winAt, winAt, ho, Option.map_bind]
  exact congrArg _ (funext fun k => winPlace_add ho8)

/-- The bytes of an access to the window follow one another in one store cell. -/
theorem access_window (hw : w = 1 ∨ w = 2 ∨ w = 4 ∨ w = 8) (hr : region va = 1) (h : access s c va w n strict = (.ok ps, s1)) :
    ∃ e o, ps = (List.range w).map (Place.spad e o).plus := by
  have hal := access_aligned hr h
  obtain ⟨p, t, hp⟩ := access_first h
  obtain ⟨hwin, -⟩ := bytePlace_window hr hp
  obtain ⟨e, o, rfl⟩ := winAt_spad hwin
  obtain ⟨rfl, -⟩ := access_fixed (pl := fun a => (winAt s c a).getD (.dev 0)) (by omega) (by
    intro a p t b ha hb
    obtain ⟨h1, h2⟩ := bytePlace_window (ha.trans hr) hb
    exact ⟨by rw [h1]; rfl, h2⟩) h
  refine ⟨e, o, List.map_congr_left fun i hi => ?_⟩
  have hi := List.mem_range.mp hi
  rw [winAt_add (by rcases hw with rfl | rfl | rfl | rfl <;> omega), hwin]
  rfl

end
end Sys2Proof.Machine
end

section
/-! PROOFS. 05 R141; 17 R394: the bytes that a store of clean bytes leaves in each memory (O22). -/

namespace Sys2Proof.Machine

/-! ## SRAM -/

/-- A byte reads as a run of bytes has written it. -/
theorem cellGet_writeBytes_at {bs : List Byte} : ∀ {l : List Host.Cell} {a j : Nat} {b : Byte}, cellsWf l = true → bs[j]? = some b →
    cellGet (writeBytes l a bs) (a + j) = b := by
  induction bs with
  | nil => intro l a j b _ h; simp at h
  | cons c bs ih =>
    intro l a j b hl h
    have hw := cellSet_wf a c hl
    cases j with
    | zero =>
      cases h
      rw [Nat.add_zero, writeBytes, cellGet_writeBytes_other _ _ _ _ (by omega), cellGet_cellSet_same _ _ hl]
    | succ j =>
      rw [writeBytes, show a + (j + 1) = a + 1 + j by omega]
      exact ih hw h

@[simp] theorem setPois_cells (m : TagMem) (u : Nat) (p : Bool) : (setPois m u p).cells = m.cells := rfl

@[simp] theorem setPois_full (m : TagMem) (u : Nat) (p : Bool) : (setPois m u p).full = m.full := rfl

/-- An SRAM store writes its bytes; the rest of it concerns the marks alone. -/
theorem sramWrite_cells_full (m : TagMem) (whole : Bool) (a : Nat) (bs : List Byte) (p : Bool) :
    (sramWrite m whole a bs p).cells = writeBytes m.cells a bs ∧ (sramWrite m whole a bs p).full = m.full := by
  unfold sramWrite
  refine List.foldlRecOn (motive := fun n : TagMem => n.cells = writeBytes m.cells a bs ∧ n.full = m.full) _ _ ⟨rfl, rfl⟩
    fun n hn j _ => ?_
  dsimp only
  split_ifs <;> exact hn

/-! ## Device memory -/

/-- Clean bytes stored one after another, each with its address. -/
def devStore (l : List (Nat × Byte)) (m : TagMem) : TagMem := l.foldl (fun m x => devSetByte m x.1 x.2 false) m

section
variable {m : TagMem} {a : Nat} {b : Byte} {l : List (Nat × Byte)}

theorem isPois_setPois_false {u v : Nat} : isPois (setPois m u false) v = (isPois m v && v != u) := by
  rw [Bool.eq_iff_iff]
  simp [isPois, setPois, setDel]

theorem isPois_cells {cells : List Host.Cell} {v : Nat} : isPois { m with cells := cells } v = isPois m v := rfl

theorem isPois_devSetByte {v : Nat} : isPois (devSetByte m a b false) v = (isPois m v && v != a / 64) := by
  simp only [devSetByte, Bool.false_eq_true, if_false]
  split
  · rw [isPois_cells, isPois_setPois_false]
  · next h =>
    rw [isPois_cells]
    by_cases hv : v = a / 64
    · simp [hv, h]
    · simp [hv]

theorem devSetByte_full : (devSetByte m a b false).full = m.full := by
  simp only [devSetByte, Bool.false_eq_true, if_false]
  split <;> rfl

theorem cellGet_devSetByte_same (h : Memory.wf m = true) : cellGet (devSetByte m a b false).cells a = b := by
  have hc := (Memory.wf_iff.1 h).1
  simp only [devSetByte, Bool.false_eq_true, if_false]
  split
  · rw [cellGet_cellSet_same]
    exact writeBytes_wf _ _ hc
  · rw [cellGet_cellSet_same _ _ hc]

theorem cellGet_writeBytes_zero {cells : List Host.Cell} {x c n : Nat} (h : cellsWf cells = true) (hx : c ≤ x ∧ x < c + n) :
    cellGet (writeBytes cells c (List.replicate n 0)) x = 0 := by
  obtain ⟨j, rfl⟩ := Nat.exists_eq_add_of_le hx.1
  exact cellGet_writeBytes_at h (by rw [List.getElem?_replicate, if_pos (by omega)])

/-- A clean byte empties the rest of a marked line, and leaves every other byte alone. -/
theorem cellGet_devSetByte_else {x : Nat} (h : Memory.wf m = true) (hx : x ≠ a) :
    cellGet (devSetByte m a b false).cells x = if isPois m (x / 64) && x / 64 == a / 64 then 0 else cellGet m.cells x := by
  by_cases hl : x / 64 = a / 64
  · by_cases hm : isPois m (a / 64) = true
    · simp only [devSetByte, hm, hl, Bool.false_eq_true, if_false, if_true, Bool.and_self, beq_self_eq_true]
      rw [cellGet_cellSet_other _ _ _ _ hx]
      exact cellGet_writeBytes_zero (Memory.wf_iff.1 h).1 (by omega)
    · rw [cellGet_devSetByte_other _ _ _ _ _ hx (.inr (.inl (by simpa using hm)))]
      simp [hl, hm]
  · rw [cellGet_devSetByte_other _ _ _ _ _ hx (.inl hl)]
    simp [hl]

theorem devStore_full : (devStore l m).full = m.full :=
  List.foldlRecOn (motive := fun n : TagMem => n.full = m.full) _ _ rfl fun _ hn _ _ => devSetByte_full.trans hn

/-- A byte that none of the stores names. -/
theorem cellGet_devStore_else {x : Nat} (h : Memory.wf m = true) (hx : ∀ y ∈ l, y.1 ≠ x) :
    cellGet (devStore l m).cells x = if isPois m (x / 64) && l.any (fun y => y.1 / 64 == x / 64) then 0 else cellGet m.cells x := by
  induction l generalizing m with
  | nil => simp [devStore]
  | cons y l ih =>
    obtain ⟨hy, hl⟩ := List.forall_mem_cons.mp hx
    rw [devStore, List.foldl_cons]
    refine (ih (devSetByte_wf _ _ _ h) hl).trans ?_
    rw [isPois_devSetByte, cellGet_devSetByte_else h (Ne.symm hy), List.any_cons]
    by_cases he : x / 64 = y.1 / 64
    · simp [he]
    · have h1 : (x / 64 == y.1 / 64) = false := by simpa using he
      have h2 : (y.1 / 64 == x / 64) = false := by simpa using Ne.symm he
      simp only [bne, h1, h2, Bool.and_false, Bool.false_or, Bool.not_false, Bool.and_true, Bool.false_eq_true, if_false]

/-- A byte that a store names, and no later one. -/
theorem cellGet_devStore_at {x j : Nat} (h : Memory.wf m = true) (hj : l[j]? = some (x, b))
    (hlast : ∀ k y, j < k → l[k]? = some y → y.1 ≠ x) : cellGet (devStore l m).cells x = b := by
  induction l generalizing m j with
  | nil => simp at hj
  | cons y l ih =>
    have hw := devSetByte_wf y.1 y.2 false h
    cases j with
    | zero =>
      cases hj
      refine (cellGet_devStore_else hw fun z hz => ?_).trans ?_
      · obtain ⟨k, hk⟩ := List.mem_iff_getElem?.mp hz
        exact hlast (k + 1) z (by omega) hk
      · rw [isPois_devSetByte, cellGet_devSetByte_same h]
        simp
    | succ j => exact ih hw hj fun k z hk hz => hlast (k + 1) z (by omega) hz

end

/-! ## Places -/

section
variable {s s1 t : State} {a w : Nat} {ps : List Place} {bs : List Byte} {p : Place}

theorem logSpadAt_districts (wave : Option Nat) (p : Place) (n : Nat) (s : State) : ∃ ds, logSpadAt wave p n s = { s with districts := ds } := by
  unfold logSpadAt
  split
  · split
    · exact ⟨_, rfl⟩
    · split
      · exact ⟨_, rfl⟩
      · split
        · exact ⟨_, rfl⟩
        · unfold updDist
          split <;> exact ⟨_, rfl⟩
  · exact ⟨_, rfl⟩

section
variable (wave : Option Nat) (p : Place) (n : Nat) (s : State)

/-- Logging a store cell's words changes the districts alone. -/
theorem logSpadAt_frame {α : Type} (f : State → α) (hf : ∀ s ds, f { s with districts := ds } = f s) : f (logSpadAt wave p n s) = f s := by
  obtain ⟨ds, h⟩ := logSpadAt_districts wave p n s
  rw [h, hf]

@[simp] theorem logSpad_dev : (logSpad p n s).dev = s.dev := logSpadAt_frame _ _ _ _ State.dev fun _ _ => rfl
@[simp] theorem logSpad_loc : (logSpad p n s).loc = s.loc := logSpadAt_frame _ _ _ _ State.loc fun _ _ => rfl
@[simp] theorem logSpad_spad : (logSpad p n s).spad = s.spad := logSpadAt_frame _ _ _ _ State.spad fun _ _ => rfl
@[simp] theorem th_logSpad : th (logSpad p n s) = th s := logSpadAt_frame _ _ _ _ th fun _ _ => rfl

end

/-- Clean bytes stored at places of device memory. -/
theorem writePlaces_dev (as : List Nat) (bs : List Byte) (s : State) :
    writePlaces s (as.map .dev) bs false = { s with dev := devStore (as.zip bs) s.dev } := by
  have hf : ∀ (l : List (Nat × Byte)) (s : State), (l.map (Prod.map Place.dev id)).foldl (fun s x => placeWrite s x.1 [x.2] false) s =
      { s with dev := devStore l s.dev } := by
    intro l
    induction l with
    | nil => intro s; rfl
    | cons x l ih => intro s; exact ih _
  cases as with
  | nil => rfl
  | cons a as =>
    have hz : ((a :: as).map Place.dev).zip bs = ((a :: as).zip bs).map (Prod.map Place.dev id) := by
      rw [← List.zip_map, List.map_id]
    rw [List.map_cons] at hz
    simp only [List.map_cons, writePlaces, hz, hf]

/-- What a completed store of the bytes bs at ps leaves in the three memories, from s to t: the part of `Stored` that speaks of them. -/
structure MemStored (s t : State) (ps : List Place) (bs : List Byte) : Prop where
  written : ∀ (j : Nat) (p : Place) (b : Byte), ps[j]? = some p → bs[j]? = some b →
    (∀ (k : Nat) (q : Place), j < k → ps[k]? = some q → sameByte p q = false) → placeByte t p = b
  others : ∀ p, (∀ q ∈ ps, sameByte p q = false) → placeByte t p = if wiped s ps p then 0 else placeByte s p
  tags : t.dev.full = s.dev.full ∧ t.loc.full = s.loc.full ∧ t.spad.full = s.spad.full

theorem memStored_dev {as : List Nat} (h : memOk s) (hlen : as.length = bs.length) :
    MemStored s (writePlaces s (as.map .dev) bs false) (as.map .dev) bs := by
  rw [writePlaces_dev]
  refine ⟨fun j p b hp hb hlast => ?_, fun p hp => ?_, devStore_full, rfl, rfl⟩
  · rw [List.getElem?_map] at hp
    obtain ⟨x, hx, rfl⟩ := Option.map_eq_some_iff.mp hp
    refine cellGet_devStore_at (j := j) h.1 (List.getElem?_zip_eq_some.mpr ⟨hx, hb⟩) fun k y hk hy => ?_
    have hq := hlast k (.dev y.1) hk (by rw [List.getElem?_map, (List.getElem?_zip_eq_some.mp hy).1]; rfl)
    exact fun he => by simp [sameByte, he] at hq
  · cases p with
    | dev x =>
      refine (cellGet_devStore_else h.1 fun y hy => ?_).trans ?_
      · have hq := hp (.dev y.1) (List.mem_map_of_mem (List.of_mem_zip hy).1)
        exact fun he => by simp [sameByte, he] at hq
      · have hany : ((as.zip bs).any fun y => y.1 / 64 == x / 64) = as.any (fun y => y / 64 == x / 64) := by
          conv_rhs => rw [← List.map_fst_zip (l₁ := as) (l₂ := bs) (by omega), List.any_map]
          rfl
        rw [hany, wiped, List.any_map]
        rfl
    | _ => rfl

theorem wiped_sram (h : ∀ q ∈ ps, ∀ x, q ≠ .dev x) : wiped s ps p = false := by
  cases p with
  | dev a =>
    simp only [wiped, Bool.and_eq_false_iff]
    refine .inr (List.any_eq_false.mpr fun q hq => ?_)
    cases q with
    | dev b => exact absurd rfl (h _ hq b)
    | _ => exact Bool.false_ne_true
  | _ => rfl

theorem getElem?_run {n j : Nat} {q : Place} (h : ((List.range n).map p.plus)[j]? = some q) : j < n ∧ q = p.plus j := by
  obtain ⟨i, hi, rfl⟩ := Option.map_eq_some_iff.mp (List.getElem?_map .. ▸ h)
  obtain ⟨hlt, rfl⟩ := List.getElem?_eq_some_iff.mp hi
  simpa using hlt

/-- A byte outside a run that an SRAM store has written. -/
theorem cellGet_writeBytes_else {cells : List Host.Cell} {c x : Nat} (h : ∀ j < bs.length, c + j ≠ x) :
    cellGet (writeBytes cells c bs) x = cellGet cells x := by
  refine cellGet_writeBytes_other _ _ _ _ ?_
  by_contra hn
  exact h (x - c) (by omega) (by omega)

theorem locKey_add (c o j : Nat) : locKey c (o + j) = locKey c o + j := (Nat.add_assoc ..).symm

theorem spadKey_add (e o j : Nat) : spadKey e (o + j) = spadKey e o + j := (Nat.add_assoc ..).symm

theorem memStored_loc {c o : Nat} (h : memOk s) :
    MemStored s (placeWrite s (.loc c o) bs false) ((List.range bs.length).map (Place.loc c o).plus) bs := by
  obtain ⟨hcells, hfull⟩ := sramWrite_cells_full s.loc true (locKey c o) bs false
  refine ⟨fun j p b hp hb _ => ?_, fun p hp => ?_, rfl, hfull, rfl⟩
  · obtain ⟨-, rfl⟩ := getElem?_run hp
    show cellGet (sramWrite _ _ _ _ _).cells (locKey c (o + j)) = b
    rw [hcells, locKey_add]
    exact cellGet_writeBytes_at (Memory.wf_iff.1 h.2.1).1 hb
  · rw [wiped_sram (by simp [Place.plus])]
    cases p with
    | loc d u =>
      show cellGet (sramWrite _ _ _ _ _).cells (locKey d u) = cellGet s.loc.cells (locKey d u)
      rw [hcells]
      refine cellGet_writeBytes_else fun j hj he => ?_
      have hq := hp ((Place.loc c o).plus j) (List.mem_map_of_mem (List.mem_range.mpr hj))
      simp [sameByte, Place.plus, locKey_add, he] at hq
    | _ => rfl

theorem memStored_spad {e o : Nat} (h : memOk s) :
    MemStored s (placeWrite s (.spad e o) bs false) ((List.range bs.length).map (Place.spad e o).plus) bs := by
  obtain ⟨hcells, hfull⟩ := sramWrite_cells_full s.spad false (spadKey e o) bs false
  refine ⟨fun j p b hp hb _ => ?_, fun p hp => ?_, rfl, rfl, hfull⟩
  · obtain ⟨-, rfl⟩ := getElem?_run hp
    show cellGet (sramWrite _ _ _ _ _).cells (spadKey e (o + j)) = b
    rw [hcells, spadKey_add]
    exact cellGet_writeBytes_at (Memory.wf_iff.1 h.2.2).1 hb
  · rw [wiped_sram (by simp [Place.plus])]
    cases p with
    | spad d u =>
      show cellGet (sramWrite _ _ _ _ _).cells (spadKey d u) = cellGet s.spad.cells (spadKey d u)
      rw [hcells]
      refine cellGet_writeBytes_else fun j hj he => ?_
      have hq := hp ((Place.spad e o).plus j) (List.mem_map_of_mem (List.mem_range.mpr hj))
      simp [sameByte, Place.plus, spadKey_add, he] at hq
    | _ => rfl

theorem writePlaces_run {n : Nat} {q : Place} (hn : 0 < n) (hq : isMapped q = false) :
    writePlaces s ((List.range n).map q.plus) bs false = placeWrite s q bs false := by
  obtain ⟨n, rfl⟩ := Nat.exists_eq_add_of_lt hn
  cases q with
  | loc c o => simp [writePlaces, List.range_succ_eq_map, Place.plus]
  | spad e o => simp [writePlaces, List.range_succ_eq_map, Place.plus]
  | _ => cases hq

theorem region_cases (a : Nat) : region a = 0 ∨ region a = 1 ∨ region a = 2 ∨ region a = 3 := by
  unfold region
  split_ifs <;> simp

/-- Places of this device's memory are places of `dev`, where they come from a translation. -/
theorem exists_devs (hm : ∀ p ∈ ps, isMapped p = true) (hh : ps.any isHub = false) (hf : ps.any (faraway s) = false) :
    ∃ as : List Nat, ps = as.map .dev := by
  induction ps with
  | nil => exact ⟨[], rfl⟩
  | cons p ps ih =>
    simp only [List.any_cons, Bool.or_eq_false_iff] at hh hf
    obtain ⟨as, rfl⟩ := ih (fun q hq => hm q (List.mem_cons_of_mem _ hq)) hh.2 hf.2
    have hp := isPeer_of_here hf.1
    have hm0 := hm p (List.mem_cons_self ..)
    cases p with
    | dev a => exact ⟨a :: as, rfl⟩
    | peer d a => cases hp
    | hub o => cases hh.1
    | _ => cases hm0

theorem length_restPlaces {c va r0 : Nat} {n : Need} {k : Nat} : ∀ {j : Nat} {acc : List Place} {s s1 : State},
    restPlaces s c va r0 n k j acc = (.ok ps, s1) → ps.length = acc.length + k := by
  induction k with
  | zero =>
    intro j acc s s1 h
    cases h
    simp
  | succ k ih =>
    intro j acc s s1 h
    unfold restPlaces at h
    dsimp only at h
    split at h
    · cases h
    · split at h
      · cases h
      · next q t hq =>
        rw [ih h, List.length_cons]
        omega

theorem length_access {c va : Nat} {n : Need} {strict : Bool} (hw : 0 < w) (h : access s c va w n strict = (.ok ps, s1)) :
    ps.length = w := by
  unfold access at h
  dsimp only at h
  split at h
  · cases h
  · split at h
    · cases h
    · split at h
      · cases h
      · rw [length_restPlaces h, List.length_singleton]
        omega

theorem access_hole_ne {c va : Nat} {n : Need} {strict : Bool} (h : access s c va w n strict = (.ok ps, s1)) : region va ≠ 3 := by
  intro hr
  rw [access_hole hr] at h
  cases h

/-- A store of clean bytes at the places of a plain access. -/
theorem memStored_plain {s2 : State} (h : memOk s2) (hp : PlainAccess s a w needW false ps s1) (hw : w = 1 ∨ w = 2 ∨ w = 4 ∨ w = 8)
    (hb : bs.length = w) : MemStored s2 (writePlaces s2 ps bs false) ps bs := by
  have hpos : 0 < w := by omega
  have hlen := length_access hpos hp.checked
  rcases region_cases a with hr | hr | hr | hr
  · obtain ⟨as, rfl⟩ := exists_devs (access_mapped hr hp.checked) hp.noHub hp.here
    exact memStored_dev h (by rw [hb, ← hlen, List.length_map])
  · obtain ⟨e, o, rfl⟩ := access_window hw hr hp.checked
    rw [writePlaces_run hpos rfl, ← hb]
    exact memStored_spad h
  · obtain rfl := access_loc hpos hr hp.checked
    rw [writePlaces_run hpos rfl, ← hb]
    exact memStored_loc h
  · exact absurd hr (access_hole_ne hp.checked)

theorem writePlaces_mem (s : State) (ps : List Place) (bs : List Byte) (b : Bool) :
    ∃ d l p, writePlaces s ps bs b = { s with dev := d, loc := l, spad := p } := by
  have hplace : ∀ (s : State) (p : Place) (bs : List Byte), ∃ d l q, placeWrite s p bs b = { s with dev := d, loc := l, spad := q } := by
    intro s p bs
    cases p <;> exact ⟨_, _, _, rfl⟩
  have hfold : ∃ d l q, (ps.zip bs).foldl (fun s x => placeWrite s x.1 [x.2] b) s = { s with dev := d, loc := l, spad := q } :=
    List.foldlRecOn (motive := fun t : State => ∃ d l q, t = { s with dev := d, loc := l, spad := q }) _ _ ⟨_, _, _, rfl⟩
      fun t ht x _ => by
        obtain ⟨_, _, _, rfl⟩ := ht
        exact hplace _ x.1 [x.2]
  unfold writePlaces
  split
  · exact ⟨_, _, _, rfl⟩
  · split
    · exact hplace s _ bs
    · exact hplace s _ bs
    · exact hfold

/-! ## The instruction -/

theorem store_checked {rb ra g imm : Nat} (hr : Ready s g [rb, ra]) (ha : a = effAddr (rx s ra) imm)
    (h : access s s.cur a w needW false = (.ok ps, s1)) : store w rb ra g imm s = .next (storeAt w (rx s rb) a ps s1) := by
  subst ha
  simp [store, issue_ready hr, h]

/-- What a store does once it may go ahead: the last part of `storeAt`. -/
def storeGo (w : Nat) (v : Word) (a : Nat) (ps : List Place) (s : State) : State := advance 4 (storeBytes a ps (toBytes w v.toNat) s)

theorem storeAt_eq {v : Word} (hh : ps.any isHub = false) (hw : winBusy s a w = false) :
    storeAt w v a ps s = txAccess a ps true s (storeGo w v a ps) := by
  simp only [storeAt, hh, hw, Bool.false_eq_true, if_false]
  rfl

theorem storeAt_noTx {v : Word} (hh : ps.any isHub = false) (hw : winBusy s a w = false) (ht : (th s).status.txn = false ∨ region a ≠ 0) :
    storeAt w v a ps s = storeGo w v a ps s := by
  rw [storeAt_eq hh hw, txAccess_noTx ht]

theorem storeBytes_here (h : ps.any (faraway s) = false) :
    storeBytes a ps bs s = writePlaces (logSpad (ps.headD (.dev 0)) bs.length s) ps bs false := by
  simp [storeBytes, h]

theorem writePlaces_frame {α : Type} (f : State → α) (hf : ∀ s d l p, f { s with dev := d, loc := l, spad := p } = f s)
    (s : State) (ps : List Place) (bs : List Byte) (b : Bool) : f (writePlaces s ps bs b) = f s := by
  obtain ⟨d, l, p, h⟩ := writePlaces_mem s ps bs b
  rw [h, hf]

@[simp] theorem th_writePlaces {b : Bool} : th (writePlaces s ps bs b) = th s := writePlaces_frame th (fun _ _ _ _ => rfl) _ _ _ _

theorem placeByte_congr (hd : t.dev = s.dev) (hl : t.loc = s.loc) (hs : t.spad = s.spad) (p : Place) : placeByte t p = placeByte s p := by
  cases p <;> simp [placeByte, hd, hl, hs]

theorem wiped_congr (hd : t.dev = s.dev) (ps : List Place) (p : Place) : wiped t ps p = wiped s ps p := by
  cases p <;> simp [wiped, hd]

/-- A store to this device's memory: what it writes, and that it completes. -/
theorem store_plain {rb ra g imm : Nat} (hr : Ready s g [rb, ra]) (ha : a = effAddr (rx s ra) imm)
    (hw : w = 1 ∨ w = 2 ∨ w = 4 ∨ w = 8) (hm : memOk s) (h : PlainAccess s a w needW false ps s1) :
    ∃ t, store w rb ra g imm s = .next t ∧ Stored s t ps (toBytes w (rx s rb).toNat) := by
  have hk : Keeps s s1 := by
    have hk := access_keeps s s.cur a w needW false
    rwa [h.checked] at hk
  generalize hbs : toBytes w (rx s rb).toNat = bs
  have hlen : bs.length = w := hbs ▸ toBytes_length ..
  generalize hs2 : logSpad (ps.headD (.dev 0)) bs.length s1 = s2
  have hdev : s2.dev = s.dev := by rw [← hs2, logSpad_dev, hk.dev]
  have hloc : s2.loc = s.loc := by rw [← hs2, logSpad_loc, hk.loc]
  have hspad : s2.spad = s.spad := by rw [← hs2, logSpad_spad, hk.spad]
  have hth : th s2 = th s := by rw [← hs2, th_logSpad, access_th h.checked]
  have hm2 : memOk s2 := by rwa [memOk, hdev, hloc, hspad]
  obtain ⟨written, others, tags⟩ := memStored_plain hm2 h hw hlen
  refine ⟨advance 4 (writePlaces s2 ps bs false), ?_, ?_⟩
  · rw [store_checked hr ha h.checked, storeAt_noTx h.noHub h.free h.noTx, storeGo, storeBytes_here h.here, hbs, hs2]
  · exact {
      written := written
      others := fun q hq => (others q hq).trans (by rw [wiped_congr hdev, placeByte_congr hdev hloc hspad])
      x := fun r => by simp [rx, hth]
      k := fun r => by simp [rk, hth]
      tags := hdev ▸ hloc ▸ hspad ▸ tags
      thread := by simp [hth]
      pc := by simp [hth] }

end
end Sys2Proof.Machine
end

section
/-! PROOFS. 05 R142; 10 R284: a store whose bytes stand at another device, or in a cached line of one (O22). -/

namespace Sys2Proof.Machine

/-! ## A run of bytes at a peer -/

section
variable {s : State} {a d x : Nat} {hs ps : List Place} {bs : List Byte}

theorem bytesAt_cons (a : Nat) (p : Place) (ps : List Place) : bytesAt a (p :: ps) = (a, p) :: bytesAt (a + 1) ps := by
  simp [bytesAt, List.range_succ_eq_map, Function.comp_def, Nat.add_comm, Nat.add_left_comm]

/-- n bytes of a peer's memory from a physical address. -/
def peerRun (d x n : Nat) : List Place := (List.range n).map (fun j => .peer d (x + j))

theorem peerRun_succ (d x n : Nat) : peerRun d x (n + 1) = .peer d x :: peerRun d (x + 1) n := by
  simp [peerRun, List.range_succ_eq_map, Function.comp_def, Nat.add_comm, Nat.add_left_comm]

theorem isPeer_peerRun {n : Nat} : (peerRun d x n).all isPeer = true := by
  simp [peerRun, isPeer]

theorem any_faraway_peerRun {n : Nat} : (hs ++ peerRun d x (n + 1)).any (faraway s) = true := by
  simp [peerRun_succ, faraway, isPeer]

theorem storeRuns_cons {p : Place} {b : Byte} : storeRuns [] a (p :: ps) (b :: bs) s =
    if faraway s p then joinRun ((a, p), b) (storeRuns [] (a + 1) ps bs s) else storeRuns [] (a + 1) ps bs s := by
  simp only [storeRuns, bytesAt_cons, List.zip_cons_cons, List.filter_cons]
  cases faraway s p <;> simp

/-- The bytes of a run on one page are one request. -/
theorem storeRuns_peerRun {n : Nat} (hb : bs.length = n + 1) (hpage : a % 4096 + (n + 1) ≤ 4096) :
    storeRuns [] a (peerRun d x (n + 1)) bs s = [(a, .peer d x, bs)] := by
  induction n generalizing a x bs with
  | zero =>
    obtain ⟨b, rfl⟩ := List.length_eq_one_iff.mp hb
    rw [peerRun_succ, storeRuns_cons]
    simp [faraway, isPeer, peerRun, storeRuns, bytesAt, joinRun]
  | succ n ih =>
    obtain ⟨b, bs, rfl⟩ := List.exists_cons_of_length_eq_add_one hb
    have hbs : bs.length = n + 1 := by simpa using hb
    rw [peerRun_succ, storeRuns_cons, ih hbs (by omega)]
    have hp : (a + 1) % 4096 ≠ 0 := by omega
    simp [faraway, isPeer, joinRun, Place.plus, hp]

theorem storeRuns_here (hh : hs.any (faraway s) = false) (hb : hs.length ≤ bs.length) :
    storeRuns [] a (hs ++ ps) bs s = storeRuns [] (a + hs.length) ps (bs.drop hs.length) s := by
  induction hs generalizing a bs with
  | nil => rfl
  | cons p hs ih =>
    obtain ⟨b, bs, rfl⟩ := List.exists_cons_of_length_pos (l := bs) (by simp at hb; omega)
    simp only [List.any_cons, Bool.or_eq_false_iff, List.length_cons, Nat.add_le_add_iff_right] at hh hb
    rw [List.cons_append, storeRuns_cons, hh.1, ih hh.2 hb, List.length_cons, List.drop_succ_cons, Nat.add_right_comm, Nat.add_assoc]
    simp

theorem faraway_placeWrite (s : State) (p : Place) (bs : List Byte) (b : Bool) : faraway (placeWrite s p bs b) = faraway s := by
  cases p <;> rfl

theorem storeByte_here {y : (Nat × Place) × Byte} (h : faraway s y.1.2 = false) :
    storeByte [] s y = placeWrite s y.1.2 [y.2] false := by
  simp [storeByte, h]

theorem storeByte_away {y : (Nat × Place) × Byte} (h : faraway s y.1.2 = true) : storeByte [] s y = s := by
  simp [storeByte, h]

theorem foldl_storeByte_away (hp : ∀ p ∈ ps, faraway s p = true) : ((bytesAt a ps).zip bs).foldl (storeByte []) s = s := by
  induction ps generalizing a bs with
  | nil => rfl
  | cons p ps ih =>
    obtain ⟨h1, h2⟩ := List.forall_mem_cons.mp hp
    cases bs with
    | nil => simp
    | cons b bs =>
      rw [bytesAt_cons, List.zip_cons_cons, List.foldl_cons, storeByte_away h1]
      exact ih h2

/-- The bytes of a store that stand here are written; those of a peer are not. -/
theorem foldl_storeByte (hh : hs.any (faraway s) = false) (hp : ∀ p ∈ ps, isPeer p = true) :
    ((bytesAt a (hs ++ ps)).zip bs).foldl (storeByte []) s = (hs.zip bs).foldl (fun s y => placeWrite s y.1 [y.2] false) s := by
  induction hs generalizing a bs s with
  | nil => exact foldl_storeByte_away fun p h => by simp [faraway, hp p h]
  | cons p hs ih =>
    simp only [List.any_cons, Bool.or_eq_false_iff] at hh
    cases bs with
    | nil => simp
    | cons b bs =>
      rw [List.cons_append, bytesAt_cons, List.zip_cons_cons, List.zip_cons_cons, List.foldl_cons, List.foldl_cons, storeByte_here hh.1]
      exact ih (by rw [faraway_placeWrite]; exact hh.2)

/-- A store whose first bytes stand here and whose rest is a run of a peer's bytes on one page. -/
theorem storeBytes_away {n : Nat} (hh : hs.any (faraway s) = false) (hl : lcMode s a (hs ++ peerRun d x (n + 1)) = false)
    (hb : bs.length = hs.length + (n + 1)) (hpage : (a + hs.length) % 4096 + (n + 1) ≤ 4096) :
    storeBytes a (hs ++ peerRun d x (n + 1)) bs s =
      sendRun a 0 ((hs.zip bs).foldl (fun s y => placeWrite s y.1 [y.2] false) s) (a + hs.length, .peer d x, bs.drop hs.length) := by
  have hruns : storeRuns [] a (hs ++ peerRun d x (n + 1)) bs s = [(a + hs.length, .peer d x, bs.drop hs.length)] := by
    rw [storeRuns_here hh (by omega), storeRuns_peerRun (by rw [List.length_drop]; omega) hpage]
  have hbytes := foldl_storeByte (a := a) (bs := bs) hh (List.all_eq_true.mp (isPeer_peerRun (d := d) (x := x) (n := n + 1)))
  simp only [storeBytes, any_faraway_peerRun, lcLines_of_lcMode hl, lcVisit, List.foldl_nil, hruns, hbytes]
  rfl

end

/-! ## Cached lines of a peer's page -/

/-- Only the caches of the quarters and the free values drawn differ. -/
structure CacheOnly (s t : State) : Prop where
  cur : t.cur = s.cur
  cores : t.cores = s.cores
  dev : t.dev = s.dev
  loc : t.loc = s.loc
  spad : t.spad = s.spad
  reqs : t.reqs = s.reqs

theorem CacheOnly.refl (s : State) : CacheOnly s s := ⟨rfl, rfl, rfl, rfl, rfl, rfl⟩

theorem CacheOnly.trans {s t u : State} (h : CacheOnly s t) (k : CacheOnly t u) : CacheOnly s u :=
  ⟨k.cur.trans h.cur, k.cores.trans h.cores, k.dev.trans h.dev, k.loc.trans h.loc, k.spad.trans h.spad, k.reqs.trans h.reqs⟩

theorem CacheOnly.th {s t : State} (h : CacheOnly s t) : th t = th s := by
  simp only [Machine.th, me, core, h.cur, h.cores]

section
variable {s t : State} {c q k a d x o : Nat} {l : MLine} {b : Byte} {bs : List Byte}

theorem cacheOnly_lcPut : CacheOnly s (lcPut q k l s) := by
  unfold lcPut
  split <;> exact ⟨rfl, rfl, rfl, rfl, rfl, rfl⟩

theorem cacheOnly_cachedLine : CacheOnly s (cachedLine s k).2 := by
  unfold cachedLine
  split
  · exact .refl s
  · dsimp only
    split <;> exact ⟨rfl, rfl, rfl, rfl, rfl, rfl⟩

theorem cacheOnly_lcFetch : CacheOnly s (lcFetch c k s) := by
  unfold lcFetch
  split
  · exact .refl s
  · exact CacheOnly.trans (t := (fillLine s).2) ⟨rfl, rfl, rfl, rfl, rfl, rfl⟩ cacheOnly_lcPut

theorem cacheOnly_lcWrite {w : Bool} : CacheOnly s (lcWrite c k o b w s) := by
  unfold lcWrite
  split
  · exact cacheOnly_lcPut
  · exact .refl s

theorem cacheOnly_lcCleanAt {p : Place} {n : Nat} : CacheOnly s (lcCleanAt p n s) := by
  unfold lcCleanAt
  split
  · exact cacheOnly_lcPut
  · exact .refl s

theorem lcHolder_eq_some {h : Nat} : lcHolder s k = some h ↔
    (mget? (quarter s h).msc k).isSome = true ∧ h < 4 ∧ ∀ j < h, mget? (quarter s j).msc k = none := by
  rw [lcHolder, List.find?_range_eq_some]
  simp

theorem lcFind_of_holder {h : Nat} (hk : mget? (quarter s h).msc k = some l) (hh : h < 4)
    (hj : ∀ j < h, mget? (quarter s j).msc k = none) : lcFind s k = some l := by
  have hold : lcHolder s k = some h := lcHolder_eq_some.mpr ⟨by rw [hk]; rfl, hh, hj⟩
  rw [lcFind, hold]
  exact hk

theorem lcFind_none (h : ∀ q < 4, mget? (quarter s q).msc k = none) : lcFind s k = none := by
  have hn : lcHolder s k = none := by
    rw [lcHolder, List.find?_eq_none]
    intro q hq
    simp [h q (List.mem_range.mp hq)]
  rw [lcFind, hn]

theorem mget?_mscAdd_same {free : Nat} {m : SMap MLine} : mget? (mscAdd free m k l) k = some l := by
  unfold mscAdd
  split <;> exact mget?_mset_same ..

/-- A line that is put stands in a cache. -/
theorem lcFind_lcPut (hq : q < 4) : lcFind (lcPut q k l s) k = some l := by
  unfold lcPut
  split
  · next h e =>
    obtain ⟨-, h4, hj⟩ := lcHolder_eq_some.mp e
    refine lcFind_of_holder (h := h) ?_ h4 fun j hlt => ?_
    · rw [quarter_updQuarter_same]
      exact mget?_mset_same ..
    · rw [quarter_updQuarter_other _ _ _ _ (by omega)]
      exact hj j hlt
  · next e =>
    rw [lcHolder, List.find?_eq_none] at e
    refine lcFind_of_holder (h := q) ?_ hq fun j hlt => ?_
    · rw [quarter_updQuarter_same]
      exact mget?_mscAdd_same
    · rw [quarter_updQuarter_other _ _ _ _ (by omega)]
      show mget? (quarter s j).msc k = none
      simpa using e j (List.mem_range.mpr (by omega))

theorem quarter_lcEach {f : SMap MLine → SMap MLine} (hf : f [] = []) : (quarter (lcEach f s) q).msc = f (quarter s q).msc := by
  have hm := mget?_map s.quarters (fun x : Quarter => { x with msc := f x.msc }) q
  rw [quarter, mget, lcEach, hm, quarter, mget]
  cases mget? s.quarters q with
  | none => exact hf.symm
  | some k => rfl

theorem lcFind_lcDel : lcFind (lcDel k s) k = none :=
  lcFind_none fun q _ => by rw [lcDel, quarter_lcEach rfl, mget?_mdel_same]

/-- The line of a key as an access finds it, fetched where it has left: it stands in a cache, whole. -/
theorem lcFind_fetched (hc : c < 256) (h : ∀ l, lcFind s k = some l → l.bytes.length = 64) :
    ∃ l, lcFind (lcFetch c k (lcVisit [k] s)) k = some l ∧ l.bytes.length = 64 := by
  have hv : ∀ l, lcFind (lcVisit [k] s) k = some l → l.bytes.length = 64 := by
    intro l hl
    simp only [lcVisit, List.foldl_cons, List.foldl_nil, cachedLine] at hl
    split at hl
    · exact h l hl
    · split at hl
      · rw [lcFind_lcDel] at hl
        cases hl
      · exact h l hl
  unfold lcFetch
  split
  · next l e => exact ⟨l, e, hv l e⟩
  · exact ⟨_, lcFind_lcPut (by rw [coreQuarter]; omega), by simp [freeBytes]⟩

theorem length_listSet {α : Type} (l : List α) (n : Nat) (v : α) : (listSet l n v).length = l.length := by
  induction l generalizing n with
  | nil => rfl
  | cons y l ih => cases n <;> simp [listSet, ih]

theorem getElem?_listSet_same {α : Type} {l : List α} {n : Nat} {v : α} (h : n < l.length) : (listSet l n v)[n]? = some v := by
  induction l generalizing n with
  | nil => simp at h
  | cons y l ih =>
    cases n with
    | zero => rfl
    | succ n => simpa [listSet] using ih (by simpa using h)

theorem getElem?_listSet_other {α : Type} {l : List α} {n m : Nat} {v : α} (h : m ≠ n) : (listSet l n v)[m]? = l[m]? := by
  induction l generalizing n m with
  | nil => rfl
  | cons y l ih =>
    cases n with
    | zero =>
      cases m with
      | zero => exact absurd rfl h
      | succ m => rfl
    | succ n =>
      cases m with
      | zero => rfl
      | succ m => simpa [listSet] using ih (by omega)

/-- The line of a key stands in a cache of t, whole and dirty, with the bytes bs from offset o on and those of l before them; nothing
but caches differs from s. -/
structure LineHolds (k o : Nat) (bs : List Byte) (l : MLine) (s t : State) (l' : MLine) : Prop where
  found : lcFind t k = some l'
  whole : l'.bytes.length = 64
  dirty : bs ≠ [] ∨ l.dirty = true → l'.dirty = true
  here : ∀ j < bs.length, l'.bytes[o + j]? = bs[j]?
  before : ∀ j < o, l'.bytes[j]? = l.bytes[j]?
  only : CacheOnly s t

/-- The bytes of a store into one cached line. -/
theorem lineHolds_foldl (hk : lcKey (.peer d x) = k) (hx : x % 64 + bs.length ≤ 64) (hc : s.cur < 256) (hl : lcFind s k = some l)
    (hlen : l.bytes.length = 64) :
    ∃ l', LineHolds k (x % 64) bs l s (((bytesAt a (peerRun d x bs.length)).zip bs).foldl (storeByte [k]) s) l' := by
  induction bs generalizing s a x l with
  | nil => exact ⟨l, hl, hlen, fun h => h.resolve_left (absurd rfl), fun j hj => absurd hj (Nat.not_lt_zero j), fun _ _ => rfl, .refl s⟩
  | cons b bs ih =>
    rw [List.length_cons] at hx
    have hw : lcWrite s.cur k (x % 64) b true s = lcPut (coreQuarter s.cur) k { l.setByte (x % 64) b false with dirty := l.dirty || true } s := by
      rw [lcWrite, hl]
    have hs : storeByte [k] s ((a, .peer d x), b) = lcWrite s.cur k (x % 64) b true s := by
      simp [storeByte, isPeer, hk, lcOff]
    rw [List.length_cons, peerRun_succ, bytesAt_cons, List.zip_cons_cons, List.foldl_cons, hs, hw]
    by_cases hb : bs = []
    · subst hb
      refine ⟨_, lcFind_lcPut (by rw [coreQuarter]; omega), by simp [MLine.setByte, length_listSet, hlen], fun _ => by simp, fun j hj => ?_,
        fun j hj => ?_, cacheOnly_lcPut⟩
      · obtain rfl : j = 0 := by simpa using hj
        exact getElem?_listSet_same (by omega)
      · exact getElem?_listSet_other (by omega)
    · have hpos := List.length_pos_iff.mpr hb
      have hx1 : (x + 1) % 64 = x % 64 + 1 := by omega
      obtain ⟨l', h⟩ := ih (s := lcPut (coreQuarter s.cur) k { l.setByte (x % 64) b false with dirty := l.dirty || true } s) (a := a + 1)
        (x := x + 1) (l := { l.setByte (x % 64) b false with dirty := l.dirty || true }) (by rw [← hk]; simp only [lcKey]; omega) (by omega)
        (by rw [cacheOnly_lcPut.cur]; exact hc) (lcFind_lcPut (by rw [coreQuarter]; omega)) (by simp [MLine.setByte, length_listSet, hlen])
      rw [hx1] at h
      refine ⟨l', h.found, h.whole, fun _ => h.dirty (.inl hb), fun j hj => ?_, fun j hj => ?_, cacheOnly_lcPut.trans h.only⟩
      · cases j with
        | zero => exact (h.before _ (by omega)).trans (getElem?_listSet_same (by omega))
        | succ j =>
          rw [show x % 64 + (j + 1) = x % 64 + 1 + j by omega]
          exact h.here j (by simpa using hj)
      · exact (h.before j (by omega)).trans (getElem?_listSet_other (by omega))

/-- A store into one cached line of a peer's page in local-caching mode: the line takes the bytes and becomes dirty. -/
theorem storeBytes_cached {n : Nat} (hk : lcLines s a (peerRun d x (n + 1)) = [lcKey (.peer d x)]) (hx : x % 64 + (n + 1) ≤ 64)
    (hb : bs.length = n + 1) (hc : s.cur < 256) (hl : ∀ l, lcFind s (lcKey (.peer d x)) = some l → l.bytes.length = 64) :
    ∃ l', lcFind (storeBytes a (peerRun d x (n + 1)) bs s) (lcKey (.peer d x)) = some l' ∧ l'.dirty = true ∧
      (∀ j < n + 1, l'.bytes[x % 64 + j]? = bs[j]?) ∧ CacheOnly s (storeBytes a (peerRun d x (n + 1)) bs s) := by
  generalize hK : lcKey (.peer d x) = k at hk hl ⊢
  have hvisit : CacheOnly s (lcVisit [k] s) := cacheOnly_cachedLine
  obtain ⟨l, hfound, hlen⟩ := lcFind_fetched hc hl
  have hfetch : CacheOnly s (lcFetch s.cur k (lcVisit [k] s)) := hvisit.trans cacheOnly_lcFetch
  obtain ⟨l', h⟩ := lineHolds_foldl (a := a) (bs := bs) hK (by omega) (by rw [hfetch.cur]; exact hc) hfound hlen
  rw [hb] at h
  have hkeys : ∀ j < n + 1, lcKey (.peer d (x + j)) = k := fun j hj => by
    rw [← hK]
    simp only [lcKey]
    omega
  have hruns : ∀ s', storeRuns [k] a (peerRun d x (n + 1)) bs s' = [] := fun s' => by
    have hnone : ((bytesAt a (peerRun d x (n + 1))).zip bs).filter
        (fun y => faraway s' y.1.2 && !(isPeer y.1.2 && [k].contains (lcKey y.1.2))) = [] := by
      rw [List.filter_eq_nil_iff]
      intro y hy
      obtain ⟨j, hj, hp⟩ := List.mem_map.mp (mem_of_mem_bytesAt (List.of_mem_zip hy).1)
      simp [← hp, isPeer, hkeys j (List.mem_range.mp hj)]
    rw [storeRuns, hnone]
    rfl
  have hclean : (peerRun d x (n + 1)).filter (fun p => lcKey p == k) = peerRun d x (n + 1) := by
    rw [List.filter_eq_self]
    intro p hp
    obtain ⟨j, hj, rfl⟩ := List.mem_map.mp hp
    simpa using hkeys j (List.mem_range.mp hj)
  have hgo : storeBytes a (peerRun d x (n + 1)) bs s =
      lcCleanAt (.peer d x) ((peerRun d (x + 1) n).length + 1) (((bytesAt a (peerRun d x (n + 1))).zip bs).foldl (storeByte [k])
        (lcFetch s.cur k (lcVisit [k] s))) := by
    have hfar : (peerRun d x (n + 1)).any (faraway s) = true := any_faraway_peerRun (hs := [])
    have hcur : (lcVisit [k] s).cur = s.cur := hvisit.cur
    simp only [storeBytes, hfar, hk, hruns, List.foldl_cons, List.foldl_nil, lcCleanRun, hclean, hcur]
    rw [peerRun_succ]
    rfl
  rw [hgo]
  refine ⟨l'.clean (x % 64) ((peerRun d (x + 1) n).length + 1), ?_, h.dirty (.inl (List.ne_nil_of_length_eq_add_one hb)), fun j hj => h.here j (by omega),
    (hfetch.trans h.only).trans cacheOnly_lcCleanAt⟩
  rw [lcCleanAt, hK, h.found]
  exact lcFind_lcPut (by decide)

end

end Sys2Proof.Machine
end

section
/-! PROOFS. 05 R138 to R142: what a store comes to, by where the bytes of its access stand (O22). -/

namespace Sys2Proof.Machine

section
variable {s s1 s2 : State} {a w d x k : Nat} {v : Word} {ps hs : List Place}

/-- A hub register is written in one piece of 8 bytes (13 R336). -/
theorem storeAt_hub {o : Nat} : storeAt w v a (.hub o :: ps) s =
    if w = 8 ∧ a % 8 = 0 then hubWrite (s.cur + 2) o v (advance 4 s) else trap 0x104 (BitVec.ofNat 64 a) s := by
  simp [storeAt, isHub, hubOff]

theorem access_cur {n : Need} {strict : Bool} {r : Acc} {c : Nat} (h : access s c a w n strict = (r, s1)) : s1.cur = s.cur := by
  have hk := (access_keeps s c a w n strict).cur
  rwa [h] at hk

theorem noHub_peerRun {n : Nat} : (peerRun d x n).any isHub = false := noHub_of_peers isPeer_peerRun

/-- A store of which a part stands at a peer, on one page: that part is posted. -/
theorem storeAt_away (hlen : hs.length + (k + 1) = w) (hpage : (a + hs.length) % 4096 + (k + 1) ≤ 4096) (hhub : hs.any isHub = false)
    (hh : hs.any (faraway s) = false) (hl : lcMode s a (hs ++ peerRun d x (k + 1)) = false) (hw : winBusy s a w = false)
    (ht : (th s).status.txn = false) (h2 : s2 = (hs.zip (toBytes w v.toNat)).foldl (fun s y => placeWrite s y.1 [y.2] false) s) :
    storeAt w v a (hs ++ peerRun d x (k + 1)) s = advance 4 (sendReq (mkReq s2 (.peer d x) (a + hs.length) 1 0
      (BitVec.ofNat 64 (leNat ((toBytes w v.toNat).drop hs.length))) (BitVec.ofNat 64 a) (k + 1) 0 false) s2) := by
  have hnohub := List.any_append.trans (congrArg₂ or hhub (noHub_peerRun (d := d) (x := x) (n := k + 1)))
  have hdrop : ((toBytes w v.toNat).drop hs.length).length = k + 1 := by
    rw [List.length_drop, toBytes_length]
    omega
  rw [storeAt_noTx hnohub hw (.inl ht), storeGo, storeBytes_away hh hl (by rw [toBytes_length]; exact hlen.symm) hpage, ← h2, sendRun, hdrop]

/-- A store of a transaction, once its lines' implicit locks are taken: the log takes the lines (05 R165). -/
theorem storeAt_tx_held (hh : ps.any isHub = false) (hw : winBusy s a w = false) (ht : (th s).status.txn = true) (hr : region a = 0)
    (hq : s.lockq.any (fun l => l.thread == (th s).id && l.implicit) = false)
    (hl : takeImplicit ((accLines a ps).flatMap (fun l => implicitLocks s (th s).asid.toNat l.1 l.2 true)) s = .held s2)
    (hf : ps.any (faraway s2) = false) :
    storeAt w v a ps s = if (logWrite s2 a ps).tx.lines > 8192 then txAbort 4 0 s else storeGo w v a ps (updMe s2 (fun _ => logWrite s2 a ps)) := by
  have hmig : ps.find? (fun p => (migAt s2 p).isSome) = none := by
    rw [List.find?_eq_none]
    intro p h
    simp [migAt_of_here (Bool.eq_false_iff.mpr (List.any_eq_false.mp hf p h))]
  rw [storeAt_eq hh hw]
  simp [txAccess, ht, hr, hq, hl, hmig]

theorem storeAt_tx_wait (hh : ps.any isHub = false) (hw : winBusy s a w = false) (ht : (th s).status.txn = true) (hr : region a = 0)
    (hq : s.lockq.any (fun l => l.thread == (th s).id && l.implicit) = false)
    (hl : takeImplicit ((accLines a ps).flatMap (fun l => implicitLocks s (th s).asid.toNat l.1 l.2 true)) s = .wait s2) :
    storeAt w v a ps s = spin false s2 := by
  rw [storeAt_eq hh hw]
  simp [txAccess, ht, hr, hq, hl]

end

/-- The stores of 05 R141: each is the `store` of its width. -/
theorem exec_eq_store {i : Instr} {w rb ra g imm : Nat}
    (h : w = 1 ∧ i = .stN8 rb ra g imm ∨ w = 2 ∧ i = .stN16 rb ra g imm ∨ w = 4 ∧ i = .stN32 rb ra g imm ∨ w = 8 ∧ i = .stN64 rb ra g imm)
    (s : State) : exec i s = store w rb ra g imm s := by
  rcases h with ⟨rfl, rfl⟩ | ⟨rfl, rfl⟩ | ⟨rfl, rfl⟩ | ⟨rfl, rfl⟩ <;> rfl

/-- Settles O22: the store of its width, by where the bytes of its access stand. -/
theorem storesChangeOnlyTheirBytes : Obligations.StoresChangeOnlyTheirBytes := by
  unfold Obligations.StoresChangeOnlyTheirBytes
  intro s s1 rb ra g imm a ps hr ha
  rw [← effAddr_eq] at ha
  refine ⟨store_plain hr ha (by decide), store_plain hr ha (by decide), store_plain hr ha (by decide), store_plain hr ha (by decide), ?_⟩
  intro i w hi
  have hw8 : w = 1 ∨ w = 2 ∨ w = 4 ∨ w = 8 := by omega
  obtain ⟨n, rfl⟩ : ∃ n, w = n + 1 := ⟨w - 1, by omega⟩
  rw [exec_eq_store hi]
  refine ⟨fun c v h => store_cause hr ha h, fun o qs h => ?_, fun d x h hpage hl hw ht => ?_,
    fun hs s2 d x k h hlen hpage hhub hh hl hw ht h2 => ?_, fun d x h hline hcur hl hw ht hwhole => ?_,
    fun qs h hhub hw ht hreg hlq => ⟨fun s2 hheld hf => ⟨fun hlog => ?_, fun hlog => ?_⟩, fun s2 hwait => ?_⟩⟩
  · rw [store_checked hr ha h, storeAt_hub, access_cur h]
  · have hle : leNat (toBytes (n + 1) (rx s rb).toNat) = (rx s rb).toNat % 2 ^ (8 * (n + 1)) := by
      rw [leNat_toBytes, Nat.pow_mul]
    rw [store_checked hr ha h]
    refine congrArg _ ((storeAt_away (hs := []) (by simp) (by simpa using hpage) rfl rfl hl hw ht rfl).trans ?_)
    rw [List.length_nil, List.drop_zero, hle]
    rfl
  · rw [store_checked hr ha h]
    exact congrArg _ (storeAt_away hlen (by omega) hhub hh hl hw ht h2)
  · obtain ⟨l, hfound, hdirty, hbytes, honly⟩ := storeBytes_cached (bs := toBytes (n + 1) (rx s rb).toNat) hl hline (toBytes_length ..)
      (by rwa [access_cur h]) hwhole
    refine ⟨advance 4 (storeBytes a (peerRun d x (n + 1)) (toBytes (n + 1) (rx s rb).toNat) s1), l, ?_, hfound, hdirty, hbytes,
      honly.reqs, honly.dev, honly.loc, honly.spad, fun r => ?_, ?_⟩
    · rw [store_checked hr ha h]
      exact congrArg _ (storeAt_noTx noHub_peerRun hw (.inl ht))
    · rw [rx, th_advance, Thread.getX_step, honly.th]
      rfl
    · simp [honly.th]
  · rw [store_checked hr ha h, storeAt_tx_held hhub hw ht hreg hlq hheld hf, if_neg (by omega), storeGo,
      storeBytes_here (s := updMe s2 fun _ => logWrite s2 a qs) hf, toBytes_length]
  · rw [store_checked hr ha h, storeAt_tx_held hhub hw ht hreg hlq hheld hf, if_pos hlog]
  · rw [store_checked hr ha h, storeAt_tx_wait hhub hw ht hreg hlq hwait]

end Sys2Proof.Machine
end

section
/-! PROOFS. 05 R142; 13 R345; 18 R408: what comes of an access that was sent away (O25). -/

namespace Sys2Proof.Machine

/-! ## A load that has its data (05 R142) -/

section
variable {s t : State} {c rd w va v n : Nat} {signed : Bool} {r : Req} {ps : List Place}

theorem thr_advanceCore (c len : Nat) (s : State) : thr (advanceCore c len s) c = (thr s c).step len := thr_updThr_same s c _

theorem thr_wxCore (c i : Nat) (v : Word) (s : State) : thr (wxCore c i v s) c = (thr s c).setX i v := by
  rw [thr, wxCore, core_updCore_same]
  rfl

/-- An instruction of core c has completed with a value in its register. -/
theorem thr_completed (c i len : Nat) (v : Word) (s : State) :
    thr (advanceCore c len (wxCore c i v s)) c = ((thr s c).setX i v).step len := by
  rw [thr_advanceCore, thr_wxCore]

theorem Thread.getX_setX (t : Thread) (i j : Nat) (v : Word) :
    (t.setX i v).getX j = if j = i then (if i = 0 then 0 else v) else t.getX j := by
  by_cases hi : i = 0
  · by_cases hj : j = i
    · simp [Thread.getX, hi, hj]
    · simp [Thread.setX, hi, show j ≠ 0 from hi ▸ hj]
  · by_cases hj : j = i
    · simp [Thread.setX, Thread.getX, hi, hj]
    · simp [Thread.setX, Thread.getX, hi, hj]

/-- The program counter moves on as if no register had been written. -/
theorem Thread.pc_step_setX (t : Thread) (i len : Nat) (v : Word) : ((t.setX i v).step len).pc = (t.step len).pc := by
  unfold Thread.setX
  split
  · rfl
  · simp only [Thread.step]
    split_ifs <;> rfl

theorem finishLoad_eq (h : (thr s c).wait = .load rd w signed va) : finishLoad c r v s =
    advanceCore c 4 (wxCore c rd (loadValue w signed (mergeBytes r.expect.toNat r.b.toNat v w)) s) := by
  rw [finishLoad, h]

theorem foldl_cacheOnly {α : Type} {f : State → α → State} (hf : ∀ s x, CacheOnly s (f s x)) (l : List α) (s : State) :
    CacheOnly s (l.foldl f s) :=
  List.foldlRecOn (motive := CacheOnly s) l f (.refl s) fun _ h x _ => h.trans (hf _ x)

theorem keepLines_cacheOnly : CacheOnly s (keepLines c r v s) :=
  (foldl_cacheOnly (fun _ _ => cacheOnly_lcFetch) _ _).trans (foldl_cacheOnly (fun _ _ => cacheOnly_lcWrite) _ _)

theorem CacheOnly.thr (h : CacheOnly s t) (c : Nat) : thr t c = thr s c := by
  rw [Machine.thr, Machine.thr, core, core, h.cores]

theorem reqs_dropReqs {k : Nat} : ∀ q ∈ (dropReqs c k s).reqs, ¬ (q.core = c ∧ q.kind = k ∧ q.wait = true) := by
  intro q hq
  have hq := (List.mem_filter.mp hq).2
  simp only [Bool.not_eq_true', Bool.and_eq_false_iff, beq_eq_false_iff_ne] at hq
  rintro ⟨h1, h2, h3⟩
  simp_all

/-- The data of a load complete it. -/
theorem loadDataReturn_data (hr : s.reqs.find? (fun r => r.core == c && r.kind == 0 && r.wait && !r.moved && isPeer r.place) = some r)
    (hw : (thr s c).wait = .load rd w signed va) (hv : v < 2 ^ 64) :
    ∃ u, exec (.loadDataReturn c v) s = .next (advanceCore c 4 (wxCore c rd (loadValue w signed (mergeBytes r.expect.toNat r.b.toNat v w)) u)) ∧
      CacheOnly (dropReqs c 0 s) u := by
  have hu : ∃ u, CacheOnly (dropReqs c 0 s) u ∧
      (if r.expect = 0 ∧ r.onePage = true then keepLines c r v (dropReqs c 0 s) else dropReqs c 0 s) = u := by
    split
    · exact ⟨_, keepLines_cacheOnly, rfl⟩
    · exact ⟨_, .refl _, rfl⟩
  obtain ⟨u, hu, he⟩ := hu
  refine ⟨u, ?_, hu⟩
  show execLoadDataReturn c v s = _
  rw [execLoadDataReturn, hr]
  simp only [ge_iff_le, Nat.not_le.mpr hv, if_false, he]
  rw [finishLoad_eq ((congrArg Thread.wait (hu.thr c)).trans hw)]

theorem mergeBytes_none (here came n : Nat) : mergeBytes 0 here came n = came % 256 ^ n := by
  induction n with
  | zero => rw [mergeBytes, Nat.pow_zero, Nat.mod_one]
  | succ n ih =>
    rw [mergeBytes, ih, Nat.zero_testBit, Nat.pow_succ, Nat.mod_mul]
    simp [Nat.mul_comm]

theorem loadValue_mod (w n : Nat) (signed : Bool) : loadValue w signed (n % 2 ^ (8 * w)) = loadValue w signed n := by
  cases signed
  · rw [loadValue_unsigned, loadValue_unsigned]
    exact congrArg _ (BitVec.eq_of_toNat_eq (by simp))
  · rw [loadValue_signed, loadValue_signed]
    exact congrArg _ (BitVec.eq_of_toNat_eq (by simp))

/-! ## A store that is lost (18 R408) -/

theorem failStore_posted (h : r.wait = false) : failStore r s =
    if r.fn = 1 then { s with reqs := tellOnce r s.reqs } else raiseThread r.thread 0x10E r.expect 0 { s with reqs := tellOnce r s.reqs } := by
  simp [failStore, snapDone, h]

theorem remoteStoreFail_eq (hr : s.reqs[n]? = some r) (hk : r.kind = 1) :
    exec (.remoteStoreFail n) s = .next (if r.lost s then failStore r { s with reqs := listDel s.reqs n } else s) := by
  show execRemoteStoreFail n s = _
  rw [execRemoteStoreFail, hr]
  cases hl : r.lost s <;> simp [hk, hl]

/-! ## A request that goes to where its page is (13 R345) -/

theorem reqPlaces_keeps {j : Nat} {acc : List Place} : ∀ {k : Nat} {s : State}, Keeps s (reqPlaces r k j acc s).2 := by
  intro k
  induction k generalizing j acc with
  | zero => exact .refl _
  | succ k ih =>
    intro s
    have hx := xlate_keeps s ⟨coreQuarter r.core, r.asid, true, some r.core⟩ ((r.va + j) % 2 ^ 56) ⟨false, false, false⟩ false
    unfold reqPlaces
    split
    · next s1 e => rwa [e] at hx
    · next p s1 e => exact Keeps.trans (by rwa [e] at hx) ih

/-- A request that finds its places here is performed. -/
theorem movedRetry_here {s1 : State} (hr : s.reqs[n]? = some r) (hm : r.moved = true ∨ isPeer r.place = true ∧ r.kind ≠ 4) (hc : r.core < 256)
    (hp : reqPlaces r r.width 0 [] s = (some ps, s1)) (hmig : ps.any (fun p => (migAt s1 p).isSome) = false) (hh : ps.any isHub = false)
    (hpeer : ps.any isPeer = false) : exec (.movedRetry n) s = .next (performHere r ps { s1 with reqs := listDel s1.reqs n }) := by
  have hgo : (!(r.moved || (isPeer r.place && r.kind != 4))) = false := by
    rcases hm with h | ⟨h, hk⟩ <;> simp [*]
  have hnone : ps.find? isPeer = none := by
    rw [List.find?_eq_none]
    exact fun p h => List.any_eq_false.mp hpeer p h
  show execMovedRetry n s = _
  simp only [execMovedRetry, hr, hgo, hp, hmig, hh, hnone, Nat.not_le.mpr hc, Bool.false_eq_true, or_self, if_false]

/-- One whose first place is another device's is sent there. -/
theorem movedRetry_away {s1 : State} (hr : s.reqs[n]? = some r) (hm : r.moved = true ∨ isPeer r.place = true ∧ r.kind ≠ 4) (hc : r.core < 256)
    (hp : reqPlaces r r.width 0 [] s = (some ps, s1)) (hmig : ps.any (fun p => (migAt s1 p).isSome) = false) (hh : ps.any isHub = false)
    (hpeer : isPeer (ps.headD (.dev 0)) = true) : exec (.movedRetry n) s =
      .next { s1 with reqs := listSet s1.reqs n { r with place := ps.headD (.dev 0), moved := false } } := by
  have hgo : (!(r.moved || (isPeer r.place && r.kind != 4))) = false := by
    rcases hm with h | ⟨h, hk⟩ <;> simp [*]
  have hfound : ps.find? isPeer = some (ps.headD (.dev 0)) := by
    cases ps with
    | nil => cases hpeer
    | cons p ps => exact List.find?_cons_of_pos hpeer
  show execMovedRetry n s = _
  simp only [execMovedRetry, hr, hgo, hp, hmig, hh, hfound, hpeer, Nat.not_le.mpr hc, Bool.false_eq_true, or_self, if_false, if_true]

end

/-- Settles O25: each return, loss and retry, from what the request says. -/
theorem returnsOfSentAccesses : Obligations.ReturnsOfSentAccesses := by
  unfold Obligations.ReturnsOfSentAccesses
  refine ⟨fun s c v rd w va sg r hr hw => ⟨fun hv => ?_, fun hv => ?_⟩, fun b v w sg => ?_, fun s n d x r hr hk hp => ⟨fun hd => ?_, fun hd hwait => ?_⟩,
    fun s s1 n r ps hr hm hc hp hmig hh => ⟨fun hpeer => ?_, fun hpeer => ?_⟩⟩
  · obtain ⟨u, he, hu⟩ := loadDataReturn_data hr hw hv
    have hthr : thr u c = thr s c := hu.thr c
    refine ⟨_, he, ?_, fun j hj => ?_, ?_, ?_, fun q hq => ?_⟩
    · rw [thr_completed, Thread.getX_step, Thread.getX_setX, if_pos rfl]
    · rw [thr_completed, Thread.getX_step, Thread.getX_setX, if_neg hj, hthr]
    · rw [thr_completed, Thread.step_wait]
    · rw [thr_completed, Thread.pc_step_setX, hthr]
    · exact reqs_dropReqs q (hu.reqs ▸ hq)
  · show execLoadDataReturn c v s = _
    rw [execLoadDataReturn, hr]
    exact congrArg _ (if_pos hv)
  · rw [mergeBytes_none, ← loadValue_mod w v, Nat.pow_mul]
  · rw [remoteStoreFail_eq hr hk, Req.lost, hp]
    simp [hd]
  · have hlost : r.lost s = true := by
      rw [Req.lost, hp]
      simp [hd]
    have he := remoteStoreFail_eq hr hk
    rw [if_pos hlost, failStore_posted hwait] at he
    refine ⟨fun h => by rw [he, if_pos h], fun h => by rw [he, if_neg h], fun h c hcore => ?_⟩
    have hcore1 : coreOfThread { s with reqs := tellOnce r (listDel s.reqs n) } r.thread = some c := hcore
    rw [if_neg h, raiseThread, hcore1] at he
    refine ⟨_, he, rfl, ?_⟩
    exact congrArg CoreState.events (core_updCore_same ..)
  · have he := movedRetry_here hr hm hc hp hmig hh hpeer
    refine ⟨he, fun hk hwait => he.trans ?_, fun hk rd w va sg hw hpois => ?_⟩
    · simp [performHere, hk, snapDone, hwait]
    · have hthr : thr { s1 with reqs := listDel s1.reqs n } r.core = thr s r.core := by
        have hkeep := reqPlaces_keeps (r := r) (j := 0) (acc := []) (k := r.width) (s := s)
        rw [hp] at hkeep
        exact hkeep.thr r.core
      have hasked : askedPois r ps { s1 with reqs := listDel s1.reqs n } = false := by
        rw [askedPois, List.any_eq_false]
        intro y hy
        have hclean : placePois { s1 with reqs := listDel s1.reqs n } y.2 = false := by
          rw [← hpois y.2 (List.of_mem_zip hy).2]
          cases y.2 <;> rfl
        simp [hclean]
      have hread : readPlaces { s1 with reqs := listDel s1.reqs n } ps = readPlaces s1 ps :=
        List.map_congr_left fun p _ => placeByte_congr rfl rfl rfl p
      simp only [performHere, hk, hasked, hread, Bool.false_eq_true, if_false] at he
      rw [finishLoad_eq ((congrArg Thread.wait hthr).trans hw)] at he
      refine ⟨_, he, ?_, ?_, ?_⟩
      · rw [thr_completed, Thread.getX_step, Thread.getX_setX, if_pos rfl]
      · rw [thr_completed, Thread.step_wait]
      · rw [thr_completed, Thread.pc_step_setX, hthr]
  · exact movedRetry_away hr hm hc hp hmig hh hpeer

end Sys2Proof.Machine
end

section
/-! PROOFS. 05 R149, R150: an atomic on this device's memory (O28). -/

namespace Sys2Proof.Machine

section
variable {s s1 : State} {fn rd ra rb g w k a b e old : Nat} {signed : Bool} {ps : List Place} {p : Place} {n : Need}

/-- The registers that an atomic reads. -/
def amoRegs (fn rd ra rb : Nat) : List Nat := if fn = 0x0E then [ra] else if fn = 9 then [ra, rb, rd] else [ra, rb]

/-- Does an atomic write no register, and so need not wait for its old value (05 R150)? -/
def amoIsPosted (fn rd : Nat) : Bool := rd == 0 && fn != 9 && fn != 0x0E

theorem ready_amoRegs (h : Ready s g [ra, rb, rd]) : Ready s g (amoRegs fn rd ra rb) :=
  h.mono (by unfold amoRegs; split_ifs <;> simp)

/-- The first place of a plain access stands here. -/
theorem PlainAccess.head (h : PlainAccess s a w n true ps s1) (hw : 0 < w) (hp : p = ps.headD (.dev 0)) :
    isHub p = false ∧ isPeer p = false ∧ faraway s1 p = false := by
  have hlen := length_access hw h.checked
  have hhub := h.noHub
  have hfar := h.here
  cases ps with
  | nil => simp at hlen; omega
  | cons q qs =>
    subst hp
    simp only [List.any_cons, Bool.or_eq_false_iff] at hhub hfar
    exact ⟨hhub.1, isPeer_of_here hfar.1, hfar.1⟩

theorem PlainAccess.own (h : PlainAccess s a w n true ps s1) : ownPending s1 a w = false := (Bool.or_eq_false_iff.mp h.free).2

theorem PlainAccess.txn (h : PlainAccess s a w n true ps s1) (hr : region a = 0) : (th s1).status.txn = false :=
  h.noTx.resolve_right fun hne => hne hr

/-- The access of an atomic that the checks let through to this device's memory. -/
theorem amoAccess_plain {bytes : Nat} {f : Place → List Place → State → State} (hr : region a = 0) (hw : 0 < w)
    (h : PlainAccess s a w needRW true ps s1) (hp : p = ps.headD (.dev 0)) (ho : ownPending s1 a bytes = false) :
    amoAccess a w bytes s f = f p ps s1 := by
  obtain ⟨h1, h2, -⟩ := h.head hw hp
  rw [amoAccess, amoPlaceCause_dev hr]
  simp only [h.checked, ← hp, h1, h2, ho, Bool.false_eq_true, if_false]

/-- What an atomic does at a place of this device: the last part of `amo`. -/
def amoHere (fn rd k : Nat) (signed wide : Bool) (a b e : Nat) (p : Place) (s : State) : State :=
  let r := amoPerform fn k b e p s
  if amoIsPosted fn rd then advance 4 (amoPosted s.cur a r)
  else match r.1 with
    | some old => retX rd (amoResult signed wide old) r.2
    | none => trap 0x109 (BitVec.ofNat 64 a) r.2

theorem amo_plain (hready : Ready s g (amoRegs fn rd ra rb)) (hk : k = if w = 1 then 8 else 4) (ha : a = addr56 (rx s ra)) (hr : region a = 0)
    (h : PlainAccess s a k needRW true ps s1) (hp : p = ps.headD (.dev 0)) (hb : b = (rx s rb).toNat % 2 ^ (8 * k))
    (he : e = (rx s rd).toNat % 2 ^ (8 * k)) : amo fn rd ra rb g w signed s = .next (amoHere fn rd k signed (w == 1) a b e p s1) := by
  have hpos : 0 < k := by split at hk <;> omega
  have hrx : ∀ r, rx s1 r = rx s r := fun r => congrArg (Thread.getX · r) (access_th h.checked)
  obtain ⟨-, -, hfar⟩ := h.head hpos hp
  refine (issue_ready hready _).trans (congrArg _ ?_)
  simp only [← hk, ← ha]
  rw [amoAccess_plain hr hpos h hp h.own, txAccess_noTx (.inl (h.txn hr))]
  simp only [hrx, ← hb, ← he, hfar, Bool.false_eq_true, if_false]
  rfl

theorem amoPerform_clean (h : placeReadPois s p k = false) (ho : old = leNat (placeRead s p k)) : amoPerform fn k b e p s =
    (some old, if fn = 0x0E then s else placeWrite s p (toBytes k (amoNew fn k old b e)) false) := by
  simp only [amoPerform, h, Bool.false_eq_true, if_false, ← ho]

theorem amoPerform_poisoned (h : placeReadPois s p k = true) : amoPerform fn k b e p s = (none, s) := by
  simp [amoPerform, h]

theorem placeRead_length (s : State) (p : Place) (n : Nat) : (placeRead s p n).length = n := by
  simp [placeRead]

theorem leNat_placeRead_lt (s : State) (p : Place) (n : Nat) : leNat (placeRead s p n) < 2 ^ (8 * n) := by
  have h := leNat_lt (placeRead s p n)
  rwa [placeRead_length, show (256 : Nat) = 2 ^ 8 from rfl, ← Nat.pow_mul] at h

theorem amoResult_unsigned (ho : old < 2 ^ (8 * k)) (hk : k = if w = 1 then 8 else 4) : amoResult false (w == 1) old = BitVec.ofNat 64 old := by
  by_cases hw : w = 1
  · simp [amoResult, hw]
  · rw [if_neg hw] at hk
    subst hk
    have ho : old < 4294967296 := ho
    simp [amoResult, hw, Nat.mod_eq_of_lt ho]

theorem amoResult_signed (hk : k = if w = 1 then 8 else 4) : amoResult true (w == 1) old = (BitVec.ofNat (8 * k) old).signExtend 64 := by
  by_cases hw : w = 1
  · rw [if_pos hw] at hk
    subst hk
    rw [show (8 * 8 : Nat) = 64 from rfl, BitVec.signExtend_eq]
    simp [amoResult, hw]
  · rw [if_neg hw] at hk
    subst hk
    simp only [amoResult, beq_eq_false_iff_ne.mpr hw, Bool.false_eq_true, if_false, if_true]
    exact sx32_eq old

theorem pick_min (a b : Nat) : pick id true a b = min a b := by
  simp only [pick, id, if_true]
  split <;> omega

theorem pick_max (a b : Nat) : pick id false a b = max a b := by
  simp only [pick, id, Bool.false_eq_true, if_false]
  split <;> omega

theorem pick_signed {so sb : Int} {m : Nat} (ho : so = sval m old) (hb : sb = sval m b) :
    pick (sval m) true old b = (if so ≤ sb then old else b) ∧ pick (sval m) false old b = (if so ≤ sb then b else old) := by
  subst ho hb
  simp only [pick, if_true, Bool.false_eq_true, if_false]
  constructor <;> split <;> split <;> omega

/-- An atomic that returns its old value, on clean memory. -/
theorem amoHere_returns {wide : Bool} {v : Word} {new : Nat} (hposted : amoIsPosted fn rd = false) (hfn : fn ≠ 0x0E)
    (h : placeReadPois s p k = false) (ho : old = leNat (placeRead s p k)) (hv : amoResult signed wide old = v)
    (hnew : amoNew fn k old b e = new) :
    amoHere fn rd k signed wide a b e p s = retX rd v (placeWrite s p (toBytes k new) false) := by
  simp only [amoHere, amoPerform_clean h ho, hposted, hv, hnew, if_neg hfn, Bool.false_eq_true, if_false]

/-- A posted one. -/
theorem amoHere_posts {wide : Bool} {new : Nat} (hposted : amoIsPosted fn rd = true) (hfn : fn ≠ 0x0E)
    (h : placeReadPois s p k = false) (ho : old = leNat (placeRead s p k)) (hnew : amoNew fn k old b e = new) :
    amoHere fn rd k signed wide a b e p s = advance 4 (placeWrite s p (toBytes k new) false) := by
  simp only [amoHere, amoPerform_clean h ho, amoPosted, hposted, hnew, if_neg hfn, if_true]

theorem amoHere_ld {wide : Bool} (h : placeReadPois s p k = false) (ho : old = leNat (placeRead s p k)) :
    amoHere 0x0E rd k signed wide a b e p s = retX rd (amoResult signed wide old) s := by
  simp [amoHere, amoPerform_clean h ho, amoIsPosted]

/-- At poisoned memory it traps, or, posted, tells its core. -/
theorem amoHere_poisoned {wide : Bool} (h : placeReadPois s p k = true) : amoHere fn rd k signed wide a b e p s =
    if amoIsPosted fn rd then advance 4 (raise s.cur 0x109 (BitVec.ofNat 64 a) 0 s) else trap 0x109 (BitVec.ofNat 64 a) s := by
  simp only [amoHere, amoPerform_poisoned h, amoPosted]

theorem amoIsPosted_of_ne (h : rd ≠ 0) : amoIsPosted fn rd = false := by simp [amoIsPosted, h]

theorem amoIsPosted_zero (h9 : fn ≠ 9) (hE : fn ≠ 0x0E) : amoIsPosted fn 0 = true := by simp [amoIsPosted, h9, hE]

end

/-- Settles O28: each atomic is `amo` of its table row, whose new value and result are those of the row. -/
theorem atomicsReplaceAndReturnTheOldValue : Obligations.AtomicsReplaceAndReturnTheOldValue := by
  unfold Obligations.AtomicsReplaceAndReturnTheOldValue
  intro s s1 rd ra rb g w k a old b so sb sold ps p hready hw hk4 ha hr h hp ho hb hso hsb hsold
  have hk : k = if w = 1 then 8 else 4 := by split <;> omega
  have at_home : ∀ fn signed, amo fn rd ra rb g w signed s = .next (amoHere fn rd k signed (w == 1) a b ((rx s rd).toNat % 2 ^ (8 * k)) p s1) :=
    fun fn signed => amo_plain (ready_amoRegs hready) hk ha hr h hp hb rfl
  have ld : amo 0x0E rd ra 0 g w false s = .next (amoHere 0x0E rd k false (w == 1) a _ _ p s1) :=
    amo_plain (hready.mono (by simp [amoRegs])) hk ha hr h hp rfl rfl
  have hlt : old < 2 ^ (8 * k) := ho ▸ leNat_placeRead_lt ..
  have hu : amoResult false (w == 1) old = BitVec.ofNat 64 old := amoResult_unsigned hlt hk
  have hs : amoResult true (w == 1) old = sold := (amoResult_signed hk).trans hsold.symm
  have hpos : 0 < 8 * k := by omega
  obtain ⟨hmin, hmax⟩ := pick_signed (hso.trans (sval_eq_toInt _ old hpos).symm) (hsb.trans (sval_eq_toInt _ b hpos).symm)
  refine ⟨fun hc => ?_, fun hc => ⟨?_, ?_, fun i hi => ?_⟩⟩
  · have ret : ∀ fn signed v new, rd ≠ 0 → fn ≠ 0x0E → amoResult signed (w == 1) old = v →
        amoNew fn k old b ((rx s rd).toNat % 2 ^ (8 * k)) = new →
        amo fn rd ra rb g w signed s = .next (retX rd v (placeWrite s1 p (toBytes k new) false)) :=
      fun fn signed v new hrd hfn hv hnew => (at_home fn signed).trans (congrArg _ (amoHere_returns (amoIsPosted_of_ne hrd) hfn hc ho hv hnew))
    have post : ∀ fn signed new, rd = 0 → fn ≠ 9 → fn ≠ 0x0E → amoNew fn k old b ((rx s rd).toNat % 2 ^ (8 * k)) = new →
        amo fn rd ra rb g w signed s = .next (advance 4 (placeWrite s1 p (toBytes k new) false)) :=
      fun fn signed new hrd h9 hfn hnew => (at_home fn signed).trans
        (congrArg _ (amoHere_posts (by rw [hrd]; exact amoIsPosted_zero h9 hfn) hfn hc ho hnew))
    refine ⟨fun h0 => ret 0 _ _ _ h0 (by decide) hu rfl, fun h0 => post 0 _ _ h0 (by decide) (by decide) rfl,
      fun h0 => ret 1 _ _ _ h0 (by decide) hu rfl, fun h0 => post 1 _ _ h0 (by decide) (by decide) rfl,
      fun h0 => ret 2 _ _ _ h0 (by decide) hu rfl, fun h0 => post 2 _ _ h0 (by decide) (by decide) rfl,
      fun h0 => ret 3 _ _ _ h0 (by decide) hu rfl, fun h0 => post 3 _ _ h0 (by decide) (by decide) rfl,
      fun h0 => ret 6 _ _ _ h0 (by decide) hu (pick_min ..), fun h0 => post 6 _ _ h0 (by decide) (by decide) (pick_min ..),
      fun h0 => ret 7 _ _ _ h0 (by decide) hu (pick_max ..), fun h0 => post 7 _ _ h0 (by decide) (by decide) (pick_max ..),
      fun h0 => ret 8 _ _ _ h0 (by decide) hu rfl, fun h0 => post 8 _ _ h0 (by decide) (by decide) rfl,
      fun h0 => ret 4 _ _ _ h0 (by decide) hs hmin, fun h0 => post 4 _ _ h0 (by decide) (by decide) hmin,
      fun h0 => ret 5 _ _ _ h0 (by decide) hs hmax, fun h0 => post 5 _ _ h0 (by decide) (by decide) hmax, ?_, ?_,
      fun h1 h0 => ?_, fun h1 h0 => ?_⟩
    · exact (at_home 9 false).trans (congrArg _ (amoHere_returns (by simp [amoIsPosted]) (by decide) hc ho hu rfl))
    · exact ld.trans (congrArg _ ((amoHere_ld hc ho).trans (by rw [hu])))
    · subst h1
      obtain rfl : k = 4 := by omega
      exact ret 0xA false _ _ h0 (by decide) hu rfl
    · subst h1
      obtain rfl : k = 4 := by omega
      exact post 0xA false _ h0 (by decide) (by decide) rfl
  · exact (at_home 9 false).trans (congrArg _ ((amoHere_poisoned hc).trans (if_neg (by simp [amoIsPosted]))))
  · exact ld.trans (congrArg _ ((amoHere_poisoned hc).trans (if_neg (by simp [amoIsPosted]))))
  · obtain ⟨fn, signed, he, h9, hE⟩ : ∃ fn signed, exec i s = amo fn rd ra rb g w signed s ∧ fn ≠ 9 ∧ fn ≠ 0x0E := by
      rcases hi with rfl | rfl | rfl | rfl | rfl | rfl | rfl | rfl | rfl | ⟨rfl, rfl⟩
      · exact ⟨0, false, rfl, by decide⟩
      · exact ⟨1, false, rfl, by decide⟩
      · exact ⟨2, false, rfl, by decide⟩
      · exact ⟨3, false, rfl, by decide⟩
      · exact ⟨4, true, rfl, by decide⟩
      · exact ⟨5, true, rfl, by decide⟩
      · exact ⟨6, false, rfl, by decide⟩
      · exact ⟨7, false, rfl, by decide⟩
      · exact ⟨8, false, rfl, by decide⟩
      · exact ⟨0xA, false, rfl, by decide⟩
    rw [he, at_home, amoHere_poisoned hc, access_cur h.checked]
    refine ⟨fun h0 => ?_, fun h0 => ?_⟩
    · rw [amoIsPosted_of_ne h0]
      rfl
    · rw [h0, amoIsPosted_zero h9 hE]
      rfl

end Sys2Proof.Machine
end

section
/-! PROOFS. 05 R154 to R157: fences, acquires, releases and binds (O30). -/

namespace Sys2Proof.Machine

section
variable {s : State} {sc k q : Nat} {objs : List Word} {f : State → State} {o : Word} {p : Nat → Bool} {m : SMap MLine}

/-- A release that need not wait: the posted stores are performed, and what is bound to its objects is written back. -/
theorem releasing_goes (h : sc = 0 ∨ fenceWaits s s.cur = false) :
    releasing sc objs s f = f (objs.foldl (fun s o => releaseBy (th s) o s) (settle sc s.cur s)) := by
  rcases h with h | h <;> simp [releasing, h]

theorem releasing_waits (hs : sc ≠ 0) (h : fenceWaits s s.cur = true) : releasing sc objs s f = spin false s := by
  simp [releasing, hs, h]

theorem settle_cell (c : Nat) (s : State) : settle 0 c s = s := rfl

/-- Past the cell every scope settles alike. -/
theorem settle_beyond (c : Nat) (hs : sc ≠ 0) : settle sc c s = settle 3 c s := by
  rw [settle, settle, if_neg hs, if_neg (by decide)]

@[simp] theorem th_settle (sc c : Nat) (s : State) : th (settle sc c s) = th s := by
  unfold settle
  split <;> rfl

theorem quarters_settle (sc c : Nat) (s : State) : (settle sc c s).quarters = s.quarters := by
  unfold settle
  split <;> rfl

/-- After a release past the cell no request of the thread is on its way. -/
theorem settled (hs : sc ≠ 0) (h : sc = 0 ∨ fenceWaits s s.cur = false) : ∀ r ∈ (settle sc s.cur s).reqs, r.thread ≠ (th s).id := by
  rw [settle_beyond s.cur hs]
  exact settled_reqs (h.resolve_left hs)

@[simp] theorem th_lcEach (f : SMap MLine → SMap MLine) (s : State) : th (lcEach f s) = th s := rfl

theorem mem_quarters_lcEach {f : SMap MLine → SMap MLine} {x : Nat × Quarter} (h : x ∈ (lcEach f s).quarters) :
    ∃ y ∈ s.quarters, x.2.msc = f y.2.msc := by
  obtain ⟨y, hy, rfl⟩ := List.mem_map.mp h
  exact ⟨y, hy, rfl⟩

/-- The lines of a cache after those that p names are written back. -/
def writtenBack (p : Nat → Bool) (m : SMap MLine) : SMap MLine := m.map (fun e => if p e.1 then (e.1, { e.2 with dirty := false }) else e)

theorem lcWriteBack_eq (p : Nat → Bool) (s : State) : lcWriteBack p s = lcEach (writtenBack p) s := rfl

theorem clean_writtenBack {e : Nat × MLine} (h : e ∈ writtenBack p m) (hp : p e.1 = true) : e.2.dirty = false := by
  obtain ⟨y, -, rfl⟩ := List.mem_map.mp h
  cases hy : p y.1 <;> simp_all

theorem mget?_writtenBack (hp : p k = false) : mget? (writtenBack p m) k = mget? m k := by
  induction m with
  | nil => rfl
  | cons y m ih =>
    obtain ⟨j, l⟩ := y
    have hcons : writtenBack p ((j, l) :: m) = (if p j then (j, { l with dirty := false }) else (j, l)) :: writtenBack p m := rfl
    rw [hcons]
    by_cases hj : j = k
    · subst hj
      simp [hp, mget?]
    · cases p j <;> simp [mget?, hj, ih]

/-- The lines of a cache without the clean ones that p names. -/
def dropClean (p : Nat → Bool) (m : SMap MLine) : SMap MLine := m.filter (fun e => e.2.dirty || !p e.1)

theorem lcInvalidate_eq (p : Nat → Bool) (s : State) : lcInvalidate p s = lcEach (dropClean p) s := rfl

theorem mem_dropClean {e : Nat × MLine} (h : e ∈ dropClean p (writtenBack p m)) : p e.1 = false := by
  obtain ⟨hm, hd⟩ := List.mem_filter.mp h
  cases hp : p e.1
  · rfl
  · simp [clean_writtenBack hm hp, hp] at hd

theorem mget?_dropClean (hp : p k = false) : mget? (dropClean p m) k = mget? m k := by
  induction m with
  | nil => rfl
  | cons y m ih =>
    obtain ⟨j, l⟩ := y
    by_cases hj : j = k
    · subst hj
      simp [dropClean, hp, mget?]
    · cases hd : (l.dirty || !p j)
      · simpa [dropClean, hd, mget?, hj] using ih
      · simpa [dropClean, hd, mget?, hj] using ih

/-- A line that p does not name stays as it is where those that p names are written back and dropped. -/
theorem mget?_msc_dropped (hp : p k = false) :
    mget? (quarter (lcInvalidate p (lcWriteBack p s)) q).msc k = mget? (quarter s q).msc k := by
  rw [lcInvalidate_eq, quarter_lcEach rfl, mget?_dropClean hp, lcWriteBack_eq, quarter_lcEach rfl, mget?_writtenBack hp]

theorem mem_msc_dropped {x : Nat × Quarter} {e : Nat × MLine} (hx : x ∈ (lcInvalidate p (lcWriteBack p s)).quarters) (he : e ∈ x.2.msc) :
    p e.1 = false := by
  obtain ⟨y, hy, hmsc⟩ := mem_quarters_lcEach hx
  obtain ⟨z, -, hz⟩ := mem_quarters_lcEach (f := writtenBack p) hy
  rw [hmsc, hz] at he
  exact mem_dropClean he

/-! ## The fence -/

/-- The state that a fence leaves before it completes. -/
def fenced (sc : Nat) (s : State) : State := if sc = 4 then lcInvalidate (fun _ => true) (lcWriteBack (fun _ => true) s) else s

@[simp] theorem th_fenced (sc : Nat) (s : State) : th (fenced sc s) = th s := by
  unfold fenced
  split <;> rfl

theorem reqs_fenced (sc : Nat) (s : State) : (fenced sc s).reqs = s.reqs := by
  unfold fenced
  split <;> rfl

theorem fence_goes {g : Nat} (hr : Ready s g []) (h : sc = 0 ∨ fenceWaits s s.cur = false) :
    exec (.fence g sc) s = .next (advance 4 (fenced sc (settle sc s.cur s))) := by
  show issue g 4 [] s (fun s => releasing sc [] s (fun s => advance 4 (fenced sc s))) = _
  rw [issue_ready hr, releasing_goes h]
  rfl

theorem rel_goes {ra g : Nat} (hr : Ready s g [ra]) (h : sc = 0 ∨ fenceWaits s s.cur = false) :
    exec (.rel ra g sc) s = .next (advance 4 (releaseBy (th s) (rx s ra) (settle sc s.cur s))) :=
  (issue_ready hr _).trans (congrArg _ ((releasing_goes h).trans (by rw [List.foldl_cons, List.foldl_nil, th_settle])))

theorem acq_eq {ra g : Nat} (hr : Ready s g [ra]) : exec (.acq ra g sc) s = .next (advance 4 (acquireBy (th s) (rx s ra) sc s)) :=
  issue_ready hr _

/-! ## The bind table -/

theorem bind_eq {rd ra rb g : Nat} (hr : Ready s g [rd, ra, rb]) : exec (.bind rd ra rb g) s = .next
    (if !objectOk s (rx s rd) || (rx s rb).toNat == 0 || decide ((rx s ra).toNat + (rx s rb).toNat > winBase) then trap 0x113 (rx s rd) s
     else if (th s).bind.length ≥ 16 then trap 0x112 (rx s rd) s
     else advance 4 (updMe s (fun t => { t with bind := t.bind ++ [⟨rx s rd, (rx s ra).toNat, (rx s rb).toNat⟩] }))) :=
  issue_ready hr _

theorem unbind_eq {rd g : Nat} (hr : Ready s g [rd]) : exec (.unbind rd g) s =
    .next (advance 4 (updMe s (fun t => { t with bind := t.bind.filter (fun b => b.obj != rx s rd) }))) :=
  issue_ready hr _

/-- Completing after a change of another field moves the program counter on alike. -/
theorem pc_step_bind (t : Thread) (l : List BindEntry) (n : Nat) : (Thread.step { t with bind := l } n).pc = (t.step n).pc := by
  apply Thread.step_pc_congr <;> rfl

end

/-- Settles O30: each instruction from what it leaves of the requests, the caches and the bind table. -/
theorem fencesAcquiresAndBinds : Obligations.FencesAcquiresAndBinds := by
  unfold Obligations.FencesAcquiresAndBinds
  refine ⟨fun s ra g sc hs hw => ⟨fun hr => ?_, fun hr => ?_⟩, fun s g sc hr hw => ?_,
    fun s ra g sc hr => ⟨fun hs => ?_, fun hs => ?_, fun hw => ?_⟩, fun s rd ra rb g hr => ⟨fun ho hl hb => ⟨fun hn => ?_, fun hn => ?_⟩, fun hbad => ?_⟩,
    fun s rd g hr => ?_⟩
  · show issue g 4 [] s (fun s => releasing sc [] s (fun s => advance 4 (fenced sc s))) = _
    rw [issue_ready hr, releasing_waits hs hw]
  · show issue g 4 [ra] s (fun s => releasing sc [rx s ra] s (advance 4)) = _
    rw [issue_ready hr, releasing_waits hs hw]
  · refine ⟨_, fence_goes hr hw, by simp, by simp, fun hs r hmem => ?_, fun h4 p hp => ?_, fun h4 => ?_, fun h0 => ?_, fun r => by simp [rx]⟩
    · exact settled hs hw r (reqs_fenced sc _ ▸ hmem)
    · subst h4
      refine List.eq_nil_iff_forall_not_mem.mpr fun e he => ?_
      have hdrop := mem_msc_dropped (p := fun _ => true) hp he
      cases hdrop
    · show (fenced sc _).quarters = _
      rw [fenced, if_neg h4, quarters_settle]
    · subst h0
      rfl
  · rw [acq_eq hr, acquireBy, if_neg hs]
  · subst hs
    refine ⟨_, acq_eq hr, by rw [th_advance, th_advance]; rfl, fun p hp e he => mem_msc_dropped hp he, fun q k hk => mget?_msc_dropped hk⟩
  · refine ⟨_, rel_goes hr hw, by simp [releaseBy, lcWriteBack_eq], fun hs r hmem => settled hs hw r hmem, fun p hp e he hb => ?_⟩
    obtain ⟨y, -, hmsc⟩ := mem_quarters_lcEach (f := writtenBack (boundTo (th s) (rx s ra))) hp
    exact clean_writtenBack (hmsc ▸ he) hb
  · have hok : (!objectOk s (rx s rd) || (rx s rb).toNat == 0 || decide ((rx s ra).toNat + (rx s rb).toNat > winBase)) = false := by
      simp [ho, hl, hb]
    have he := bind_eq hr
    rw [hok, if_neg Bool.false_ne_true, if_neg (by omega)] at he
    refine ⟨_, he, by simp, ?_⟩
    rw [th_advance, th_updMe, th_advance, pc_step_bind]
  · have hok : (!objectOk s (rx s rd) || (rx s rb).toNat == 0 || decide ((rx s ra).toNat + (rx s rb).toNat > winBase)) = false := by
      simp [ho, hl, hb]
    rw [bind_eq hr, hok, if_neg Bool.false_ne_true, if_pos hn]
  · have hok : (!objectOk s (rx s rd) || (rx s rb).toNat == 0 || decide ((rx s ra).toNat + (rx s rb).toNat > winBase)) = true := by
      rcases hbad with h | h | h <;> simp [h]
    rw [bind_eq hr, hok, if_pos rfl]
  · refine ⟨_, unbind_eq hr, fun b => ?_, ?_⟩
    · simp
    · rw [th_advance, th_updMe, th_advance, pc_step_bind]

end Sys2Proof.Machine
end

section
/-! PROOFS. 05 R144 to R148: the tagged instructions at a word of this device (O26). -/

namespace Sys2Proof.Machine

section
variable {s s1 : State} {a ra : Nat} {ps : List Place} {p : Place} {n : Need}

theorem tagFull_setTag (m : TagMem) (i : Nat) (f : Bool) : tagFull (setTag m i f) i = f := by
  cases f <;> simp [tagFull, setTag, setDel, mem_setIns]

theorem isPois_setTag (m : TagMem) (i u : Nat) (f : Bool) : isPois (setTag m i f) u = isPois m u := rfl

/-- A tag reads as it was set: of the window a poisoned word reads full (17 R394). -/
theorem placeTag_placeSetTag (f : Bool) (h1 : isPeer p = false) (h2 : isHub p = false) (h3 : placePois s p = false) :
    placeTag (placeSetTag s p f) p = f := by
  cases p with
  | dev a => exact tagFull_setTag ..
  | loc c o => exact tagFull_setTag ..
  | spad e o =>
    have h3 : isPois s.spad (spadKey e o / 4) = false := h3
    simp [placeTag, placeSetTag, tagFull_setTag, isPois_setTag, h3]
  | peer d x => cases h1
  | hub o => cases h2

/-- The low bytes of a number are those of the number. -/
theorem toBytes_mod (n v : Nat) : toBytes n (v % 256 ^ n) = toBytes n v := by
  induction n generalizing v with
  | zero => rfl
  | succ n ih =>
    rw [toBytes, toBytes, pow_succ', Nat.mod_mul_right_div_self, ih]
    congr 1
    apply BitVec.eq_of_toNat_eq
    rw [BitVec.toNat_ofNat, BitVec.toNat_ofNat]
    exact Nat.mod_mul_right_mod v 256 (256 ^ n)

theorem toBytes_lo32 (x : Word) : toBytes 4 (lo32 x).toNat = toBytes 4 x.toNat := by
  rw [lo32, BitVec.toNat_setWidth]
  exact toBytes_mod 4 x.toNat

end

section
variable {s s1 : State} {a ra rd g op : Nat} {ps : List Place} {p : Place} {n : Need} {v : W32}

/-- A tagged instruction whose access the checks let through to this device's memory. -/
theorem tagged_plain {f : Nat → Place → State → State} (ha : a = addr56 (rx s ra)) (h : PlainAccess s a 4 n true ps s1)
    (hp : p = ps.headD (.dev 0)) : tagged ra n s f = f a p s1 := by
  obtain ⟨hhub, hpeer, -⟩ := h.head (by decide) hp
  have htx : ¬ (region a = 0 ∧ (th s).status.txn = true) := fun ⟨hr, ht⟩ => by
    have := h.txn hr
    rw [access_th h.checked, ht] at this
    cases this
  subst ha
  simp only [tagged, if_neg htx, h.checked, ← hp, hhub, hpeer, h.free, Bool.false_eq_true, if_false]

theorem tagged_txn {f : Nat → Place → State → State} (ha : a = addr56 (rx s ra)) (hr : region a = 0) (ht : (th s).status.txn = true) :
    tagged ra n s f = txAbort 3 0 s := by
  subst ha
  simp only [tagged, if_pos (And.intro hr ht)]

/-! ## The operations at a word -/

theorem tagCoreOp_waits (hf : faraway s p = false) (h : tagReady s p op = false ∨ tagBehind s p op = true) :
    tagCoreOp op rd v a p s = await .tag { s with tagq := s.tagq ++ [⟨.core s.cur, p, op, rd, v, a, s.fc⟩] } := by
  have h : isPeer p = true ∨ tagBehind s p op = true ∨ ¬ tagReady s p op = true := by rcases h with h | h <;> simp [h]
  simp only [tagCoreOp, migAt_of_here hf, Option.isSome_none, Bool.false_eq_true, if_false, if_pos h]

theorem tagCoreOp_poisoned (hf : faraway s p = false) (hr : tagReady s p op = true) (hb : tagBehind s p op = false) (ho : op ≠ 2)
    (hp : placeReadPois s p 4 = true) : tagCoreOp op rd v a p s = trap 0x109 (BitVec.ofNat 64 a) s := by
  have hw : (wordAt s p).p = true := hp
  simp [tagCoreOp, migAt_of_here hf, isPeer_of_here hf, hr, hb, ho, hw]

theorem tagCoreOp_goes (hf : faraway s p = false) (hr : tagReady s p op = true) (hb : tagBehind s p op = false)
    (hp : op ≠ 2 → placeReadPois s p 4 = false) : tagCoreOp op rd v a p s =
      advance 4 (if op = 2 then (tagEffect p op ⟨v, false⟩ s).2
        else wx (tagEffect p op ⟨v, false⟩ s).2 rd ((tagEffect p op ⟨v, false⟩ s).1.v.setWidth 64)) := by
  have hw : ¬ (op ≠ 2 ∧ (wordAt s p).p = true) := fun h => by
    have : (wordAt s p).p = false := hp h.1
    simp [this] at h
  simp only [tagCoreOp, migAt_of_here hf, isPeer_of_here hf, hr, hb, if_neg hw]
  simp

theorem wordAt_v (s : State) (p : Place) : (wordAt s p).v.setWidth 64 = BitVec.ofNat 64 (leNat (placeRead s p 4) % 2 ^ 32) := by
  apply BitVec.eq_of_toNat_eq
  simp [wordAt]

/-! ## The release of a tagged store -/

/-- The state in which a tagged store that is a release takes place (05 R148). -/
def released (a : Nat) (s : State) : State := releaseBy (th s) (BitVec.ofNat 64 a) (settle (tagScope a) s.cur s)

theorem released_frame {α : Type} (f : State → α) (hf : ∀ s rs qs, f { s with reqs := rs, quarters := qs } = f s) : f (released a s) = f s := by
  unfold released settle
  split
  · exact hf s s.reqs _
  · exact hf s _ _

theorem mig_lcEach (f : SMap MLine → SMap MLine) (s : State) (q : Nat) : (quarter (lcEach f s) q).mig = (quarter s q).mig := by
  have hm := mget?_map s.quarters (fun x : Quarter => { x with msc := f x.msc }) q
  rw [quarter, mget, lcEach, hm, quarter, mget]
  cases mget? s.quarters q <;> rfl

theorem migAt_lcEach (f : SMap MLine → SMap MLine) (s : State) (p : Place) : migAt (lcEach f s) p = migAt s p := by
  cases p with
  | dev a =>
    simp only [migAt, mig_lcEach]
    rfl
  | _ => rfl

theorem migAt_released (s : State) (p : Place) : migAt (released a s) p = migAt s p :=
  (migAt_lcEach ..).trans (by unfold settle; split <;> rfl)

theorem tagRelease_goes {f : State → State} (h : tagScope a = 0 ∨ fenceWaits s s.cur = false) : tagRelease a s f = f (released a s) := by
  rw [tagRelease, releasing_goes h, List.foldl_cons, List.foldl_nil, th_settle]
  rfl

/-- A word of this device before and after a release of it: the release writes back cached lines of other devices alone. -/
structure SameWord (s t : State) (p : Place) : Prop where
  away : faraway t p = faraway s p
  tag : placeTag t p = placeTag s p
  behind : ∀ op, tagBehind t p op = tagBehind s p op
  thread : th t = th s
  cur : t.cur = s.cur

theorem sameWord_released (a : Nat) (s : State) (p : Place) : SameWord s (released a s) p :=
  ⟨by rw [faraway, migAt_released, faraway], released_frame (placeTag · p) fun _ _ _ => by cases p <;> rfl,
    fun op => released_frame (tagBehind · p op) fun _ _ _ => rfl, released_frame th fun _ _ _ => rfl, released_frame State.cur fun _ _ _ => rfl⟩

end

/-- Settles O26: the access goes to the word, and the operation there goes or waits. -/
theorem taggedWordInstructions : Obligations.TaggedWordInstructions := by
  unfold Obligations.TaggedWordInstructions
  refine ⟨fun s p f h1 h2 h3 => placeTag_placeSetTag f h1 h2 h3, fun s s1 s2 rd ra rb g a ps p v hr ha hp hv h2 => ⟨fun h => ?_, fun h => ?_, fun h => ?_⟩,
    fun s ra g a rd rb hr ha hreg ht => ?_⟩
  · have hr1 : Ready s g [ra] := hr.mono (by simp)
    obtain ⟨-, hpeer, hfar⟩ := h.head (by decide) hp
    have hcur : s1.cur = s.cur := access_cur h.checked
    have hrx : rx s1 rb = rx s rb := congrArg (Thread.getX · rb) (access_th h.checked)
    have take : exec (.tldTake rd ra g) s = .next (tagCoreOp 0 rd 0 a p s1) :=
      (issue_ready hr1 _).trans (congrArg _ (tagged_plain ha h hp))
    have fill : exec (.tstFill ra rb g) s = .next (tagRelease a s1 (tagCoreOp 2 0 (lo32 (rx s1 rb)) a p)) :=
      (issue_ready hr _).trans (congrArg _ (tagged_plain ha h hp))
    have set : exec (.tstSet ra rb g) s = .next (tagRelease a s1 (fun s => advance 4 (tagSetWord p ⟨lo32 (rx s rb), false⟩ s))) := by
      refine (issue_ready hr _).trans (congrArg _ ((tagged_plain ha h hp).trans ?_))
      simp [migAt_of_here hfar]
    refine ⟨fun htag hb hpois => ?_, fun htag hb hpois => ?_, fun hw => ?_, fun hs hw => ⟨?_, ?_⟩, fun hs => ?_⟩
    · rw [take, tagCoreOp_goes (op := 0) hfar htag hb fun _ => hpois, hv, ← wordAt_v]
      rfl
    · rw [take, tagCoreOp_poisoned (op := 0) hfar htag hb (by decide) hpois]
    · rw [take, tagCoreOp_waits (op := 0) hfar hw, hcur]
    · rw [fill, tagRelease, releasing_waits hs hw]
    · rw [set, tagRelease, releasing_waits hs hw]
    · have hs2 : s2 = released a s1 := h2
      have same := hs2 ▸ sameWord_released a s1 p
      have hbytes : toBytes 4 (lo32 (rx s rb)).toNat = toBytes 4 (rx s rb).toNat := toBytes_lo32 _
      have hrx2 : rx s2 rb = rx s rb := (congrArg (Thread.getX · rb) same.thread).trans hrx
      rw [fill, set, tagRelease_goes hs, tagRelease_goes hs, ← hs2, hrx, hrx2]
      refine ⟨fun htag hb => ?_, fun hw => ?_, ?_⟩
      · rw [tagCoreOp_goes (same.away.trans hfar) (by simp [tagReady, same.tag, htag]) ((same.behind 2).trans hb) (absurd rfl)]
        show Host.Outcome.next (advance 4 (tagSetWord p ⟨lo32 (rx s rb), false⟩ s2)) = _
        rw [tagSetWord, hbytes]
      · rw [tagCoreOp_waits (same.away.trans hfar) (by simpa [tagReady, same.tag, same.behind 2] using hw), same.cur, hcur]
        rfl
      · rw [tagSetWord, hbytes]
  · have hr1 : Ready s g [ra] := hr.mono (by simp)
    obtain ⟨-, hpeer, hfar⟩ := h.head (by decide) hp
    have keep : exec (.tldKeep rd ra g) s = .next (tagCoreOp 1 rd 0 a p s1) :=
      (issue_ready hr1 _).trans (congrArg _ (tagged_plain ha h hp))
    refine ⟨fun htag hb hpois => ?_, fun htag hb hpois => ?_, fun hw => ?_, ?_⟩
    · rw [keep, tagCoreOp_goes (op := 1) hfar htag hb fun _ => hpois, hv, ← wordAt_v]
      rfl
    · rw [keep, tagCoreOp_poisoned (op := 1) hfar htag hb (by decide) hpois]
    · rw [keep, tagCoreOp_waits (op := 1) hfar hw, access_cur h.checked]
    · refine (issue_ready hr1 _).trans (congrArg _ ((tagged_plain ha h hp).trans ?_))
      simp [migAt_of_here hfar, hpeer]
  · refine (issue_ready (hr.mono (by simp)) _).trans (congrArg _ ((tagged_plain ha h hp).trans ?_))
    simp [migAt_of_here (h.head (by decide) hp).2.2]
  · have hr1 : Ready s g [ra] := hr.mono (by simp)
    refine ⟨?_, ?_, ?_, ?_, ?_, ?_⟩
    · exact (issue_ready hr1 _).trans (congrArg _ (tagged_txn ha hreg ht))
    · exact (issue_ready hr1 _).trans (congrArg _ (tagged_txn ha hreg ht))
    · exact (issue_ready hr _).trans (congrArg _ (tagged_txn ha hreg ht))
    · exact (issue_ready hr _).trans (congrArg _ (tagged_txn ha hreg ht))
    · exact (issue_ready hr1 _).trans (congrArg _ (tagged_txn ha hreg ht))
    · exact (issue_ready hr1 _).trans (congrArg _ (tagged_txn ha hreg ht))

end Sys2Proof.Machine
end

section
/-! PROOFS. 05 R147: the waiters of a tagged word (O27). -/

namespace Sys2Proof.Machine

/-- A keep of core 0 at the full word at 0x40, which holds 9, and behind it a waiter of core 1 that is none of take, keep and fill. -/
def strayWaiter : State :=
  { State.reset with
    dev := ⟨[(0x40, 9)], [0x10], []⟩
    tagq := [⟨.core 0, .dev 0x40, 1, 5, 0, 0x40, 0⟩, ⟨.core 1, .dev 0x40, 3, 5, 8, 0x40, 0⟩] }

/-- Serving the keep serves the stray waiter too, which writes its own word. -/
theorem serve_strayWaiter (t : State) (h : exec (.taggedWaiterServe 0) strayWaiter = .next t) : placeRead t (.dev 0x40) 4 = [8, 0, 0, 0] := by
  obtain rfl := Host.Outcome.next.inj h
  decide

/-- Refutes O27: the keep is served and the chain goes on; a waiter with an operation above 2 counts as ready at a full word, and what it then
does is what a fill does, so that the word of the keep does not stay. -/
theorem not_waitersAtTaggedWordsAreServed : ¬ Obligations.WaitersAtTaggedWordsAreServed := by
  unfold Obligations.WaitersAtTaggedWordsAreServed
  rintro ⟨h, -⟩
  obtain ⟨-, hkeep, -⟩ := h strayWaiter 0 _ _ (.dev 0x40) 9 rfl rfl rfl rfl rfl (by decide)
  obtain ⟨t, ht, -, hread, -⟩ := hkeep rfl (by decide) 0 rfl (by decide)
  rw [serve_strayWaiter t ht] at hread
  revert hread
  decide

end Sys2Proof.Machine
end

section
/-! PROOFS. 05 R158: the named barriers (O31). -/

namespace Sys2Proof.Machine

section
variable {s : State} {rd ra g n o c : Nat} {arrive : Bool} {f : State → State} {k : Nat → State → State} {b v : Barrier}

theorem noTx_out (h : (th s).status.txn = false) : noTx f s = f s := by simp [noTx, h]

/-! ## The owner -/

theorem barOwner_some (h : ra = 0 ∧ o = s.cur ∨ ra ≠ 0 ∧ (rx s ra).toNat = o ∧ o < 256) : barOwner s ra = some o := by
  rcases h with ⟨h0, ho⟩ | ⟨h0, ho, hlt⟩
  · rw [barOwner, if_pos h0, ho]
  · have hhi : bits (rx s ra) 63 8 = 0 := by simp only [bits]; omega
    have hlo : bits (rx s ra) 7 0 = o := by simp only [bits]; omega
    rw [barOwner, if_neg h0, if_pos hhi, hlo]

theorem barOwner_none (h0 : ra ≠ 0) (h : 256 ≤ (rx s ra).toNat) : barOwner s ra = none := by
  have hhi : bits (rx s ra) 63 8 ≠ 0 := by simp only [bits]; omega
  rw [barOwner, if_neg h0, if_neg hhi]

theorem barCheck_noOwner (h : barOwner s ra = none) : barCheck ra n arrive s k = trap 0x117 (BitVec.ofNat 64 n) s := by
  rw [barCheck, h]

theorem barCheck_space (ho : barOwner s ra = some o) (ha : (thr s o).asid ≠ (th s).asid) :
    barCheck ra n arrive s k = trap 0x115 (BitVec.ofNat 64 n) s := by
  simp [barCheck, ho, barSpaceOk, ha]

theorem barCheck_init (ho : barOwner s ra = some o) (ha : (thr s o).asid = (th s).asid) (ht : (barrier s o n).target = 0) :
    barCheck ra n true s k = trap 0x114 (BitVec.ofNat 64 n) s := by
  simp [barCheck, ho, barSpaceOk, ha, ht]

theorem barCheck_ok (ho : barOwner s ra = some o) (ha : (thr s o).asid = (th s).asid) (ht : arrive = true → (barrier s o n).target ≠ 0) :
    barCheck ra n arrive s k = k o s := by
  have ht : (arrive && (barrier s o n).target == 0) = false := by
    cases arrive
    · rfl
    · exact beq_eq_false_iff_ne.mpr (ht rfl)
  simp only [barCheck, ho, barSpaceOk, ha, ht, BEq.rfl, Bool.not_true, Bool.false_eq_true, if_false]

/-! ## The state of a barrier -/

theorem barrier_setBarrier : barrier (setBarrier o n v s) o n = v := by simp [barrier, setBarrier]

theorem barrier_updCore (f : CoreState → CoreState) (hf : ∀ k, (f k).t.bar = k.t.bar) : barrier (updCore s c f) o n = barrier s o n := by
  by_cases h : o = c
  · subst h
    simp [barrier, thr, hf]
  · simp [barrier, thr, core_updCore_other _ _ _ _ h]

theorem barrier_updMe (f : Thread → Thread) (hf : ∀ t, (f t).bar = t.bar) : barrier (updMe s f) o n = barrier s o n :=
  barrier_updCore _ fun k => hf k.t

theorem barrier_of_cores {t : State} (h : t.cores = s.cores) : barrier t o n = barrier s o n := by
  rw [barrier, thr, core_of_cores h, barrier, thr]

theorem th_setBarrier {α : Type} (f : Thread → α) (hf : ∀ t l, f { t with bar := l } = f t) : f (th (setBarrier o n v s)) = f (th s) := by
  by_cases h : s.cur = o
  · subst h
    have := th_updMe s (fun t => { t with bar := mset t.bar n v })
    exact (congrArg f this).trans (hf _ _)
  · simp [setBarrier, th, me, core_updThr_other _ _ _ _ h]

theorem barrier_advance {len : Nat} : barrier (advance len s) o n = barrier s o n := barrier_updMe _ fun t => by simp

theorem barrier_retX {x : Word} : barrier (retX rd x s) o n = barrier s o n := by
  rw [retX, barrier_advance]
  exact barrier_updCore _ fun k => by simp

/-! ## An arrival -/

/-- The state in which an arrival at a barrier counts: the thread's stores are performed and what is bound to the barrier is written back. -/
def arrivalState (o n : Nat) (s : State) : State := releaseBy (th s) (barObject o n) (settle 3 s.cur s)

theorem cores_arrivalState : (arrivalState o n s).cores = s.cores := rfl

theorem th_arrivalState : th (arrivalState o n s) = th s := rfl

theorem arrival_goes (h : fenceWaits s s.cur = false) : releasing 3 [barObject o n] s f = f (arrivalState o n s) := by
  rw [releasing_goes (.inr h), List.foldl_cons, List.foldl_nil, th_settle]
  rfl

/-- What an arrival makes of a barrier. -/
def Barrier.arrived (b : Barrier) : Barrier :=
  if b.arrivals + 1 = b.target then ⟨b.target, 0, !b.phase⟩ else ⟨b.target, b.arrivals + 1, b.phase⟩

theorem barArriveAt_eq (hb : b = barrier s o n) : barArriveAt o n s = (b.phase, setBarrier o n b.arrived s) := by
  subst hb
  simp only [barArriveAt, Barrier.arrived]

theorem Barrier.arrived_last (h : b.arrivals + 1 = b.target) : b.arrived = ⟨b.target, 0, !b.phase⟩ := if_pos h

theorem Barrier.arrived_notLast (h : b.arrivals + 1 ≠ b.target) : b.arrived = ⟨b.target, b.arrivals + 1, b.phase⟩ := if_neg h

/-! ## The instructions outside a transaction -/

theorem barInit_eq (hr : Ready s g [ra]) (htx : (th s).status.txn = false) : exec (.barInit ra g n) s =
    .next (if bits (rx s ra) 63 16 ≠ 0 then trap 0x117 (BitVec.ofNat 64 n) s
      else advance 4 (setBarrier s.cur n { barrier s s.cur n with target := BitVec.ofNat 16 (rx s ra).toNat, arrivals := 0 } s)) :=
  (issue_ready hr _).trans (congrArg _ (noTx_out htx))

/-- What an arrival does at the owner that it names. -/
def arriveAt (rd n o : Nat) (s : State) : State :=
  releasing 3 [barObject o n] s (fun s => retX rd (if (barArriveAt o n s).1 then 1 else 0) (barArriveAt o n s).2)

/-- What a wait does at the owner that it names. -/
def waitAt (rd n o : Nat) (s : State) : State :=
  if (barrier s o n).phase != bit (rx s rd) 0 then advance 4 s else spin true s

/-- Notes that the `bar.sync` at the program counter has arrived in phase ph. -/
def noteSynced (ph : Bool) (s : State) : State := updMe s (fun t => { t with synced := mset t.synced t.pc.toNat ph })

theorem barrier_noteSynced {ph : Bool} : barrier (noteSynced ph s) o n = barrier s o n := barrier_updMe _ fun _ => rfl

theorem th_noteSynced (ph : Bool) (s : State) : th (noteSynced ph s) = { th s with synced := mset (th s).synced (th s).pc.toNat ph } := th_updMe s _

theorem barrier_clearSynced : barrier (clearSynced s) o n = barrier s o n := barrier_updMe _ fun _ => rfl

theorem pc_step_clearSynced (len : Nat) : ((th (clearSynced s)).step len).pc = ((th s).step len).pc := by
  rw [clearSynced, th_updMe]
  apply Thread.step_pc_congr <;> rfl

theorem barrier_spin {timer : Bool} : barrier (spin timer s) o n = barrier s o n := barrier_updMe _ fun _ => rfl

theorem th_spin (timer : Bool) (s : State) : th (spin timer s) = (th s).waits (.again timer) s.fc := th_updMe s _

/-- What a `bar.sync` does at its owner as it arrives. -/
def syncAt (n o : Nat) (s : State) : State :=
  releasing 3 [barObject o n] s (fun s =>
    if (barrier (barArriveAt o n s).2 o n).phase != (barArriveAt o n s).1 then advance 4 (barArriveAt o n s).2
    else spin true (noteSynced (barArriveAt o n s).1 (barArriveAt o n s).2))

/-- What a `bar.sync` that has arrived in phase ph does at its owner. -/
def resyncAt (n : Nat) (ph : Bool) (o : Nat) (s : State) : State :=
  if (barrier s o n).phase != ph then advance 4 (clearSynced s) else spin true s

theorem barArrive_eq (hr : Ready s g [ra, rd]) (htx : (th s).status.txn = false) :
    exec (.barArrive rd ra g n) s = .next (barCheck ra n true s (arriveAt rd n)) :=
  (issue_ready (hr.mono (by simp)) _).trans (congrArg _ (noTx_out htx))

theorem barWait_eq (hr : Ready s g [ra, rd]) (htx : (th s).status.txn = false) :
    exec (.barWait rd ra g n) s = .next (barCheck ra n false s (waitAt rd n)) :=
  (issue_ready (hr.mono (by simp)) _).trans (congrArg _ (noTx_out htx))

theorem barSync_first (hr : Ready s g [ra, rd]) (htx : (th s).status.txn = false) (hs : mget? (th s).synced (th s).pc.toNat = none) :
    exec (.barSync ra g n) s = .next (barCheck ra n true s (syncAt n)) := by
  refine (issue_ready (hr.mono (by simp)) _).trans (congrArg _ ((noTx_out htx).trans ?_))
  simp only [hs]
  rfl

theorem barSync_again {ph : Bool} (hr : Ready s g [ra, rd]) (htx : (th s).status.txn = false)
    (hs : mget? (th s).synced (th s).pc.toNat = some ph) : exec (.barSync ra g n) s = .next (barCheck ra n false s (resyncAt n ph)) := by
  refine (issue_ready (hr.mono (by simp)) _).trans (congrArg _ ((noTx_out htx).trans ?_))
  simp only [hs]
  rfl

/-- Whether or not it has arrived, a `bar.sync` first checks its owner. -/
theorem barSync_checks (hr : Ready s g [ra, rd]) (htx : (th s).status.txn = false) :
    ∃ arrive k, exec (.barSync ra g n) s = .next (barCheck ra n arrive s k) := by
  cases hs : mget? (th s).synced (th s).pc.toNat with
  | none => exact ⟨_, _, barSync_first hr htx hs⟩
  | some ph => exact ⟨_, _, barSync_again hr htx hs⟩

theorem arriveAt_goes (h : fenceWaits s s.cur = false) (hb : b = barrier s o n) : arriveAt rd n o s =
    retX rd (if b.phase then 1 else 0) (setBarrier o n b.arrived (arrivalState o n s)) := by
  rw [arriveAt, arrival_goes h, barArriveAt_eq (hb.trans (barrier_of_cores cores_arrivalState).symm)]

theorem syncAt_last (h : fenceWaits s s.cur = false) (hb : b = barrier s o n) (hl : b.arrivals + 1 = b.target) : syncAt n o s =
    advance 4 (setBarrier o n ⟨b.target, 0, !b.phase⟩ (arrivalState o n s)) := by
  rw [syncAt, arrival_goes h, barArriveAt_eq (hb.trans (barrier_of_cores cores_arrivalState).symm), Barrier.arrived_last hl, barrier_setBarrier,
    if_pos (by simp)]

theorem syncAt_notLast (h : fenceWaits s s.cur = false) (hb : b = barrier s o n) (hl : b.arrivals + 1 ≠ b.target) : syncAt n o s =
    spin true (noteSynced b.phase (setBarrier o n ⟨b.target, b.arrivals + 1, b.phase⟩ (arrivalState o n s))) := by
  rw [syncAt, arrival_goes h, barArriveAt_eq (hb.trans (barrier_of_cores cores_arrivalState).symm), Barrier.arrived_notLast hl, barrier_setBarrier,
    if_neg (by simp)]

/-- A change of barriers alone does not move where an instruction completes. -/
theorem pc_setBarrier {len : Nat} : ((th (setBarrier o n v s)).step len).pc = ((th s).step len).pc :=
  th_setBarrier (fun t => (t.step len).pc) fun t l => Thread.step_pc_congr (t := { t with bar := l }) (u := t) rfl rfl rfl len

end

/-- Settles O31: the owner that the form names is checked, and the form takes effect there. -/
theorem namedBarriers : Obligations.NamedBarriers := by
  unfold Obligations.NamedBarriers
  refine ⟨fun s ra g n hr htx => ⟨fun hlt => ?_, fun hge => ?_⟩, fun s rd ra g n o b hr htx hown ha hb => ?_,
    fun s rd ra g n hr htx h0 => ⟨fun hge => ?_, fun hlt ha => ?_⟩, fun s c n hw ho hb => ?_⟩
  · have hhi : bits (rx s ra) 63 16 = 0 := by simp only [bits]; omega
    have he := barInit_eq (n := n) hr htx
    rw [if_neg (by simp [hhi])] at he
    refine ⟨_, he, ?_, ?_⟩
    · rw [barrier_advance, barrier_setBarrier]
    · rw [th_advance, pc_setBarrier, th_advance]
  · have hhi : bits (rx s ra) 63 16 ≠ 0 := by simp only [bits]; omega
    rw [barInit_eq hr htx, if_pos hhi]
  · have ho := barOwner_some hown
    have arrive (k) (ht : b.target ≠ 0) : barCheck ra n true s k = k o s := barCheck_ok ho ha fun _ => hb ▸ ht
    have wait (k) : barCheck ra n false s k = k o s := barCheck_ok ho ha fun h => absurd h Bool.false_ne_true
    refine ⟨fun ht hf => ?_, fun ht hf => ⟨?_, fun hs => ?_⟩, fun ht => ⟨?_, fun hs => ?_⟩, fun hph => ?_, fun hph => ?_,
      fun hs ht hf => ⟨fun hl => ?_, fun hl => ?_⟩, fun ph hs => ⟨fun hph => ?_, fun hph => ?_⟩⟩
    · refine ⟨_, (barArrive_eq hr htx).trans (congrArg _ ((arrive _ ht).trans (arriveAt_goes hf hb))), ?_, ?_, ?_, ?_, ?_⟩
      · rw [rx_retX]
        by_cases h0 : rd = 0
        · rw [if_pos h0, h0, rx_zero]
        · rw [if_neg h0, rx_wx_same _ _ _ h0]
      · rw [th_retX, Thread.pc_step_setX, pc_setBarrier, th_advance]
        rfl
      · exact fun q hq => settled (by decide) (.inr hf) q hq
      · intro p hp l hl hbound
        obtain ⟨y, -, hmsc⟩ := mem_quarters_lcEach (f := writtenBack (boundTo (th s) (barObject o n))) hp
        exact clean_writtenBack (hmsc ▸ hl) hbound
      · rw [barrier_retX, barrier_setBarrier]
        rfl
    · rw [barArrive_eq hr htx, arrive _ ht, arriveAt, releasing_waits (by decide) hf]
    · rw [barSync_first hr htx hs, arrive _ ht, syncAt, releasing_waits (by decide) hf]
    · rw [barArrive_eq hr htx, barCheck_init ho ha (hb ▸ ht)]
    · rw [barSync_first hr htx hs, barCheck_init ho ha (hb ▸ ht)]
    · rw [barWait_eq hr htx, wait, waitAt, ← hb, if_pos (by simpa [bit_eq_getLsbD] using hph)]
    · rw [barWait_eq hr htx, wait, waitAt, ← hb, if_neg (by simpa [bit_eq_getLsbD] using hph)]
    · refine ⟨_, (barSync_first hr htx hs).trans (congrArg _ ((arrive _ ht).trans (syncAt_last hf hb hl))), ?_, ?_, ?_⟩
      · rw [th_advance, pc_setBarrier, th_advance]
        rfl
      · rw [th_advance, Thread.step_wait]
      · rw [barrier_advance, barrier_setBarrier]
    · have hpc : ∀ v, (th (setBarrier o n v (arrivalState o n s))).pc = (th s).pc := fun v => th_setBarrier Thread.pc fun _ _ => rfl
      refine ⟨_, (barSync_first hr htx hs).trans (congrArg _ ((arrive _ ht).trans (syncAt_notLast hf hb hl))), ?_, ?_, ?_, ?_⟩
      · rw [th_spin, th_noteSynced]
        exact hpc _
      · rw [th_spin]
        rfl
      · rw [th_spin, th_noteSynced, ← hpc]
        exact mget?_mset_same ..
      · rw [barrier_spin, barrier_noteSynced, barrier_setBarrier]
    · refine ⟨advance 4 (clearSynced s), ?_, ?_, ?_, ?_, ?_⟩
      · rw [barSync_again hr htx hs, wait, resyncAt, ← hb, if_pos (by simpa using hph)]
      · rw [th_advance, pc_step_clearSynced, th_advance]
      · rw [th_advance, Thread.step_wait]
      · simp [clearSynced]
      · rw [barrier_advance, barrier_clearSynced, hb]
    · rw [barSync_again hr htx hs, wait, resyncAt, ← hb, if_neg (by simpa using hph)]
  · have ho := barOwner_none h0 hge
    obtain ⟨arrive, k, hsync⟩ := barSync_checks (n := n) hr htx
    exact ⟨(barArrive_eq hr htx).trans (congrArg _ (barCheck_noOwner ho)), hsync.trans (congrArg _ (barCheck_noOwner ho)),
      (barWait_eq hr htx).trans (congrArg _ (barCheck_noOwner ho))⟩
  · have ho := barOwner_some (.inr ⟨h0, rfl, hlt⟩)
    obtain ⟨arrive, k, hsync⟩ := barSync_checks (n := n) hr htx
    exact ⟨(barArrive_eq hr htx).trans (congrArg _ (barCheck_space ho ha)), hsync.trans (congrArg _ (barCheck_space ho ha)),
      (barWait_eq hr htx).trans (congrArg _ (barCheck_space ho ha))⟩
  · show execBarrierWaitTimeout c s = _
    rw [execBarrierWaitTimeout, if_pos ⟨hw, ho⟩, hb]

end Sys2Proof.Machine
end

section
/-! PROOFS. 14 R365: what the grants that follow a release leave of a thread for which no request waits (O32, O33). -/

namespace Sys2Proof.Machine

/-- Every cached line that P names is clean. -/
def CleanAt (P : Nat → Bool) (s : State) : Prop := ∀ p ∈ s.quarters, ∀ l ∈ p.2.msc, P l.1 = true → l.2.dirty = false

/-- Are all wounds that have reached a thread and that it has not taken wounds on implicit locks? -/
def OnlyImplicit (id : Nat) (s : State) : Prop := ∀ x ∈ pendingWounds s id, x.implicit = true

/-- Thread id runs on core c and on no other. -/
structure RunsOn (c id : Nat) (s : State) : Prop where
  found : coreOfThread s id = some c
  here : (thr s c).id = id
  alone : ∀ d, d ≠ c → (thr s d).id ≠ id

/-- What grants leave alone: the memory of the device, the requests of accesses, that cached lines are clean and wounds implicit, and the
cores on which threads run. -/
structure Grants (s t : State) : Prop where
  cur : t.cur = s.cur
  dev : t.dev = s.dev
  reqs : t.reqs = s.reqs
  clean : ∀ P, CleanAt P s → CleanAt P t
  wounds : ∀ id, OnlyImplicit id s → OnlyImplicit id t
  runs : ∀ c id, RunsOn c id s → RunsOn c id t

/-! ## Where a thread runs -/

section
variable {c d id : Nat} {k : CoreState} {s t : State} {p : Nat × CoreState → Bool}

theorem find?_mset_true (hp : p (d, k) = true) {l : SMap CoreState} (h : ∀ e, l.find? p = some e → e.1 = d) :
    ∃ e, (mset l d k).find? p = some e ∧ e.1 = d := by
  induction l with
  | nil => exact ⟨(d, k), by simp [mset, hp], rfl⟩
  | cons x l ih =>
    obtain ⟨j, w⟩ := x
    rw [mset]
    split
    · exact ⟨(d, k), List.find?_cons_of_pos hp, rfl⟩
    · split
      · exact ⟨(d, k), List.find?_cons_of_pos hp, rfl⟩
      · next hne _ =>
        have hj : p (j, w) = false := by
          cases hj : p (j, w)
          · rfl
          · exact absurd (h _ (List.find?_cons_of_pos hj)).symm hne
        rw [List.find?_cons_of_neg (by simp [hj])]
        exact ih fun e he => h e ((List.find?_cons_of_neg (by simp [hj])).trans he)

theorem find?_mset_false (hp : p (d, k) = false) {l : SMap CoreState} (h : ∀ w, mget? l d = some w → p (d, w) = false) :
    (mset l d k).find? p = l.find? p := by
  induction l with
  | nil => simp [mset, hp]
  | cons x l ih =>
    obtain ⟨j, w⟩ := x
    rw [mset]
    split
    · next hj =>
      subst hj
      rw [List.find?_cons_of_neg (by simp [hp]), List.find?_cons_of_neg (by simp [h w (by simp [mget?])])]
    · split
      · rw [List.find?_cons_of_neg (by simp [hp])]
      · next hne _ =>
        have := ih fun w' hw' => h w' (by simpa [mget?, Ne.symm hne] using hw')
        rw [List.find?_cons, List.find?_cons, this]

theorem id_updThr (e d : Nat) (f : Thread → Thread) (hf : ∀ t, (f t).id = t.id) : (thr (updThr s d f) e).id = (thr s e).id := by
  by_cases h : e = d
  · rw [h, thr_updThr_same, hf]
  · rw [thr, core_updThr_other _ _ _ _ h, thr]

/-- A change of a thread that keeps its number keeps the core of every thread. -/
theorem RunsOn.updThr (h : RunsOn c id s) (d : Nat) {f : Thread → Thread} (hf : ∀ t, (f t).id = t.id) : RunsOn c id (updThr s d f) := by
  refine ⟨?_, (id_updThr c d f hf).trans h.here, fun e he => ?_⟩
  · have hid : (f (thr s d)).id = (thr s d).id := hf _
    have hfound := h.found
    by_cases hd : d = c
    · subst hd
      obtain ⟨e, he, hed⟩ := find?_mset_true (p := fun p => p.2.t.id == id) (k := { core s d with t := f (core s d).t }) (d := d) (l := s.cores)
        (by simpa [thr] using hid.trans h.here) fun e he => by rw [coreOfThread, he] at hfound; exact Option.some.inj hfound
      have he' : (Machine.updThr s d f).cores.find? (fun p => p.2.t.id == id) = some e := he
      rw [coreOfThread, he', ← hed]
    · have hne := h.alone d hd
      have he : (Machine.updThr s d f).cores.find? (fun p => p.2.t.id == id) = s.cores.find? (fun p => p.2.t.id == id) :=
        find?_mset_false (by simpa [thr] using fun hc => hne (hid.symm.trans hc)) fun w hw => by
          have hw : thr s d = w.t := by rw [thr, core, mget, hw]; rfl
          simpa [hw] using hne
      have hcore : (core (Machine.updThr s d f) id).t.id = (core s id).t.id := id_updThr id d f hf
      rw [coreOfThread, he, hcore]
      exact hfound
  · rw [id_updThr e d f hf]
    exact h.alone e he

theorem RunsOn.of_cores (h : RunsOn c id s) (hc : t.cores = s.cores) : RunsOn c id t := by
  refine ⟨?_, (congrArg Thread.id (thr_of_cores hc c)).trans h.here, fun d hd => ?_⟩
  · rw [coreOfThread, hc, core_of_cores hc]
    exact h.found
  · rw [thr_of_cores hc]
    exact h.alone d hd

end

/-! ## Grants -/

section
variable {id c : Nat} {k : CoreState} {s t u : State} {w : LockWait}

theorem Grants.refl (s : State) : Grants s s := ⟨rfl, rfl, rfl, fun _ h => h, fun _ h => h, fun _ _ h => h⟩

theorem Grants.trans (h : Grants s t) (h' : Grants t u) : Grants s u :=
  ⟨h'.cur.trans h.cur, h'.dev.trans h.dev, h'.reqs.trans h.reqs, fun P hP => h'.clean P (h.clean P hP), fun i hi => h'.wounds i (h.wounds i hi),
    fun c i hi => h'.runs c i (h.runs c i hi)⟩

/-- A step that changes what the lock manager keeps, but no wound. -/
theorem Grants.of_same (hc : t.cur = s.cur) (hd : t.dev = s.dev) (hr : t.reqs = s.reqs) (hq : t.quarters = s.quarters) (hw : t.wounds = s.wounds)
    (hk : t.cores = s.cores) : Grants s t :=
  ⟨hc, hd, hr, fun P h => by rw [CleanAt, hq]; exact h, fun i h => by rw [OnlyImplicit, pendingWounds, hw]; exact h, fun c i h => h.of_cores hk⟩

theorem grants_putRecord : Grants s (putRecord s w) := by
  rw [putRecord]
  split
  · exact .of_same rfl rfl rfl rfl rfl rfl
  · exact .of_same rfl rfl rfl rfl rfl rfl

theorem onlyImplicit_settleWounds (h : OnlyImplicit id s) : OnlyImplicit id (settleWounds s) := by
  intro x hx
  obtain ⟨hx, hp⟩ := List.mem_filter.mp hx
  obtain ⟨y, hy, rfl⟩ := List.mem_map.mp hx
  have hy' : y ∈ pendingWounds s id := List.mem_filter.mpr ⟨hy, by split at hp <;> exact hp⟩
  split
  · exact h y hy'
  · exact h y hy'

theorem grants_settleWounds : Grants s (settleWounds s) :=
  ⟨rfl, rfl, rfl, fun _ h => h, fun _ h => onlyImplicit_settleWounds h, fun _ _ h => h.of_cores rfl⟩

theorem grants_escalate : Grants s (escalate s w) := by
  have hfold : Grants (putRecord s w) (foldLines s w) := by
    dsimp only [foldLines]
    refine Grants.trans ?_ grants_settleWounds
    exact .of_same rfl rfl rfl rfl rfl rfl
  exact grants_putRecord.trans (hfold.trans (.of_same rfl rfl rfl rfl rfl rfl))

theorem CleanAt.lcEach {P : Nat → Bool} {f : SMap MLine → SMap MLine} (h : CleanAt P s)
    (hf : ∀ m, ∀ l ∈ f m, ∃ l' ∈ m, l'.1 = l.1 ∧ (l.2.dirty = true → l'.2.dirty = true)) : CleanAt P (lcEach f s) := by
  intro p hp l hl hP
  obtain ⟨y, hy, hmsc⟩ := mem_quarters_lcEach hp
  obtain ⟨l', hl', hkey, hdirty⟩ := hf _ l (hmsc ▸ hl)
  have := h y hy l' hl' (hkey ▸ hP)
  cases hd : l.2.dirty
  · rfl
  · rw [hdirty hd] at this
    cases this

theorem CleanAt.writeBack {P p : Nat → Bool} (h : CleanAt P s) : CleanAt P (lcWriteBack p s) := by
  rw [lcWriteBack_eq]
  refine h.lcEach fun m l hl => ?_
  obtain ⟨y, hy, rfl⟩ := List.mem_map.mp hl
  exact ⟨y, hy, by cases hp : p y.1 <;> simp_all⟩

theorem CleanAt.invalidate {P p : Nat → Bool} (h : CleanAt P s) : CleanAt P (lcInvalidate p s) := by
  rw [lcInvalidate_eq]
  exact h.lcEach fun m l hl => ⟨l, (List.mem_filter.mp hl).1, rfl, fun hd => hd⟩

theorem grants_acquireBy (t : Thread) (o : Word) (sc : Nat) : Grants s (acquireBy t o sc s) := by
  rw [acquireBy]
  split
  · exact ⟨rfl, rfl, rfl, fun P h => h.writeBack.invalidate, fun _ h => h, fun _ _ h => h.of_cores rfl⟩
  · exact .refl s

theorem grants_foldl_acquireBy (t : Thread) (os : List Word) : Grants s (os.foldl (fun s o => acquireBy t o 4 s) s) := by
  induction os generalizing s with
  | nil => exact .refl s
  | cons o os ih => exact (grants_acquireBy t o 4).trans ih

theorem grants_grantAcquire : Grants s (grantAcquire w s) := by
  rw [grantAcquire]
  split
  · split
    · exact .refl s
    · exact grants_foldl_acquireBy _ _
  · exact .refl s

theorem grants_answerLock (status : Word) : Grants s (answerLock w status s) := by
  have hgrant : Grants s (if status = 3 then s else grantAcquire w s) := by
    split
    · exact .refl s
    · exact grants_grantAcquire
  rw [answerLock]
  split
  · exact hgrant.trans ⟨rfl, rfl, rfl, fun _ h => h, fun _ h => h, fun _ _ h => h.updThr w.core fun t => by simp⟩
  · exact hgrant

/-- A wound that is sent has not reached its thread. -/
theorem grants_sendWounds : Grants s (sendWounds w s).2 := by
  refine ⟨rfl, rfl, rfl, fun _ h => h, fun id h x hx => ?_, fun _ _ h => h.of_cores rfl⟩
  obtain ⟨hx, hp⟩ := List.mem_filter.mp hx
  rcases List.mem_append.mp hx with hx | hx
  · exact h x (List.mem_filter.mpr ⟨hx, hp⟩)
  · obtain ⟨v, -, rfl⟩ := List.mem_map.mp hx
    simp [mkWound] at hp

theorem grants_queueLock : Grants s (queueLock w s) := grants_sendWounds.trans (.of_same rfl rfl rfl rfl rfl rfl)

theorem grants_grantWaiting : Grants s (grantWaiting w s) := by
  have hrest : Grants s { s with lockq := s.lockq.filter (fun v => v != w) } := .of_same rfl rfl rfl rfl rfl rfl
  refine hrest.trans ?_
  rw [grantWaiting]
  split
  · exact grants_escalate.trans (grants_answerLock 1)
  · split
    · exact grants_putRecord.trans (grants_answerLock 0)
    · split
      · exact grants_escalate.trans (grants_answerLock 1)
      · exact grants_queueLock

theorem grants_regrant (n : Nat) : Grants s (regrant n s) := by
  induction n generalizing s with
  | zero => exact .refl s
  | succ n ih =>
    rw [regrant]
    split
    · exact .refl s
    · exact grants_grantWaiting.trans ih

theorem grants_woundMore : Grants s (woundMore s) := by
  refine List.foldlRecOn (motive := fun t : State => Grants s t) s.lockq _ (.refl s) fun t ht w _ => ?_
  split
  · exact ht.trans (grants_sendWounds.trans (.of_same rfl rfl rfl rfl rfl rfl))
  · exact ht

theorem grants_reexamine : Grants s (reexamine s) := (grants_regrant _).trans grants_woundMore

/-- Where no request waits, nothing is granted. -/
theorem reexamine_empty (h : s.lockq = []) : reexamine s = s := by
  simp [reexamine, h, regrant, woundMore]

/-! ## The records of a thread for which no request waits -/

/-- The records of a thread stay where a change keeps the threads of all and leaves this thread's alone. -/
theorem filter_map_thread {f : LockRec → LockRec} (l : List LockRec) (ht : ∀ r, (f r).thread = r.thread) (hf : ∀ r, r.thread = id → f r = r) :
    (l.map f).filter (fun r => r.thread == id) = l.filter (fun r => r.thread == id) := by
  rw [List.filter_map]
  have hp : ((fun r : LockRec => r.thread == id) ∘ f) = fun r => r.thread == id := funext fun r => by simp [ht]
  rw [hp]
  exact (List.map_congr_left fun r hr => hf r (by simpa using (List.mem_filter.mp hr).2)).trans (List.map_id' _)

theorem recordsOf_putRecord (hw : w.thread ≠ id) : recordsOf (putRecord s w) id = recordsOf s id := by
  rw [putRecord]
  split
  · refine filter_map_thread s.locks (fun r => ?_) fun r hr => ?_
    · split <;> rfl
    · rw [if_neg fun h => hw (h.1.symm.trans hr)]
  · simp [recordsOf, LockWait.record, hw]

theorem recordsOf_escalate (hw : w.thread ≠ id) : recordsOf (escalate s w) id = recordsOf s id := by
  refine (filter_map_thread (putRecord s w).locks (fun r => ?_) fun r hr => ?_).trans (recordsOf_putRecord hw)
  · split <;> rfl
  · refine if_neg fun h => hw ?_
    have hmem := (List.mem_filter.mp (List.contains_iff_mem.mp h)).2
    simp only [Bool.and_eq_true, beq_iff_eq, and_assoc] at hmem
    exact hmem.1.symm.trans hr

theorem locks_acquireBy (t : Thread) (o : Word) (sc : Nat) : (acquireBy t o sc s).locks = s.locks := by
  rw [acquireBy]
  split <;> rfl

theorem locks_grantAcquire (w : LockWait) (s : State) : (grantAcquire w s).locks = s.locks := by
  rw [grantAcquire]
  split
  · split
    · rfl
    · next t _ _ => exact List.foldlRecOn (motive := fun u : State => u.locks = s.locks) _ _ rfl fun u hu o _ => (locks_acquireBy t o 4).trans hu
  · rfl

theorem locks_answerLock (status : Word) : (answerLock w status s).locks = s.locks := by
  have hgrant : (if status = 3 then s else grantAcquire w s).locks = s.locks := by
    split
    · rfl
    · exact locks_grantAcquire w s
  rw [answerLock]
  split <;> exact hgrant

theorem recordsOf_of_locks (h : t.locks = s.locks) : recordsOf t id = recordsOf s id := by rw [recordsOf, h, recordsOf]

theorem recordsOf_grantWaiting (hw : w.thread ≠ id) : recordsOf (grantWaiting w s) id = recordsOf s id := by
  rw [grantWaiting]
  split
  · exact (recordsOf_of_locks (locks_answerLock 1)).trans (recordsOf_escalate hw)
  · split
    · exact (recordsOf_of_locks (locks_answerLock 0)).trans (recordsOf_putRecord hw)
    · next v hv =>
      have hv' : v.thread ≠ id := escalation_thread hv ▸ hw
      split
      · exact (recordsOf_of_locks (locks_answerLock 1)).trans (recordsOf_escalate hv')
      · rfl

theorem recordsOf_regrant (n : Nat) (h : NoRequest c k s) : recordsOf (regrant n s) k.t.id = recordsOf s k.t.id := by
  induction n generalizing s with
  | zero => rfl
  | succ n ih =>
    rw [regrant]
    split
    · rfl
    · next w hw =>
      have hne := h.lockq w (nextGrant_mem hw)
      exact (ih (h.grantWaiting hne)).trans (recordsOf_grantWaiting hne)

theorem locks_woundMore (s : State) : (woundMore s).locks = s.locks := by
  refine List.foldlRecOn (motive := fun t : State => t.locks = s.locks) s.lockq _ rfl fun t ht w _ => ?_
  split
  · exact ht
  · exact ht

theorem recordsOf_reexamine (h : NoRequest c k s) : recordsOf (reexamine s) k.t.id = recordsOf s k.t.id :=
  (recordsOf_of_locks (locks_woundMore _)).trans (recordsOf_regrant _ h)

theorem mem_recordsOf {r : LockRec} : r ∈ recordsOf s id ↔ r ∈ s.locks ∧ r.thread = id := by simp [recordsOf]

/-! ## A release of records -/

/-- What a release of the records that p names leaves of the thread of core c, for which no request waits. -/
structure ReleasedRecords (p : LockRec → Bool) (c : Nat) (s t : State) : Prop where
  cur : t.cur = s.cur
  core : core t c = core s c
  reqs : t.reqs = s.reqs
  clean : ∀ P, CleanAt P s → CleanAt P t
  own : ∀ r, r.thread = (thr s c).id → (r ∈ t.locks ↔ r ∈ s.locks ∧ p r = false)
  others : s.lockq = [] → ∀ r, r ∈ t.locks ↔ r ∈ s.locks ∧ p r = false

theorem releasedRecords_releaseIf {p : LockRec → Bool} (h : ∀ v ∈ s.lockq, v.thread ≠ (thr s c).id) :
    ReleasedRecords p c s (releaseIf p s) := by
  have hno : NoRequest c (core s c) (settleWounds { s with locks := s.locks.filter (fun r => !p r) }) := ⟨rfl, h⟩
  have hg := grants_reexamine (s := settleWounds { s with locks := s.locks.filter (fun r => !p r) })
  refine ⟨hg.cur, core_reexamine hno, hg.reqs, hg.clean, fun r hr => ?_, fun hq r => ?_⟩
  · have hrec : r ∈ recordsOf (releaseIf p s) (thr s c).id ↔ r ∈ recordsOf (settleWounds { s with locks := s.locks.filter (fun r => !p r) }) (thr s c).id :=
      iff_of_eq (congrArg (r ∈ ·) (recordsOf_reexamine hno))
    rw [mem_recordsOf, mem_recordsOf] at hrec
    simpa [hr, settleWounds] using hrec
  · rw [releaseIf, reexamine_empty (by exact hq)]
    simp [settleWounds]

/-! ## The release that goes before it -/

/-- The state in which locks are released: the thread's stores are performed, and what is bound to the objects is written back. -/
def lockReleased (objs : List Word) (s : State) : State := objs.foldl (fun s o => releaseBy (th s) o s) (settle 4 s.cur s)

theorem lockReleasing_goes {objs : List Word} {f : State → State} (hc : commitWaits s = false) (hf : fenceWaits s s.cur = false) :
    lockReleasing objs s f = f (lockReleased objs s) := by
  rw [lockReleasing, if_neg (by simp [hc]), releasing_goes (.inr hf)]
  rfl

theorem lockReleasing_waits {objs : List Word} {f : State → State} (h : commitWaits s = true ∨ fenceWaits s s.cur = true) :
    lockReleasing objs s f = spin false s := by
  rw [lockReleasing]
  split
  · rfl
  · next hc => exact releasing_waits (by decide) (h.resolve_left hc)

theorem foldl_releaseBy_frame {α : Type} (f : State → α) (hf : ∀ s qs, f { s with quarters := qs } = f s) (os : List Word) (s : State) :
    f (os.foldl (fun s o => releaseBy (th s) o s) s) = f s := by
  induction os generalizing s with
  | nil => rfl
  | cons o os ih => exact (ih _).trans (hf s _)

theorem lockReleased_frame {α : Type} (f : State → α) (hf : ∀ s qs, f { s with quarters := qs } = f s)
    (hr : ∀ s rs, f { s with reqs := rs } = f s) (os : List Word) (s : State) : f (lockReleased os s) = f s :=
  (foldl_releaseBy_frame f hf os _).trans (by rw [settle, if_neg (by decide)]; exact hr s _)

theorem reqs_lockReleased (os : List Word) (s : State) : (lockReleased os s).reqs = (settle 4 s.cur s).reqs :=
  foldl_releaseBy_frame State.reqs (fun _ _ => rfl) os _

theorem th_lockReleased (os : List Word) (s : State) : th (lockReleased os s) = th s :=
  lockReleased_frame th (fun _ _ => rfl) (fun _ _ => rfl) os s

theorem cur_lockReleased (os : List Word) (s : State) : (lockReleased os s).cur = s.cur :=
  lockReleased_frame State.cur (fun _ _ => rfl) (fun _ _ => rfl) os s

theorem locks_lockReleased (os : List Word) (s : State) : (lockReleased os s).locks = s.locks :=
  lockReleased_frame State.locks (fun _ _ => rfl) (fun _ _ => rfl) os s

theorem lockq_lockReleased (os : List Word) (s : State) : (lockReleased os s).lockq = s.lockq :=
  lockReleased_frame State.lockq (fun _ _ => rfl) (fun _ _ => rfl) os s

theorem cleanAt_lockReleased (name : Word) (s : State) : CleanAt (boundTo (th s) name) (lockReleased [name] s) := by
  intro p hp l hl hb
  obtain ⟨y, -, hmsc⟩ := mem_quarters_lcEach (f := writtenBack (boundTo (th s) name)) hp
  exact clean_writtenBack (hmsc ▸ hl) hb

/-- What the release of a thread's locks comes to: the instruction completes, the thread's accesses are performed, and the records that p names
are gone. -/
structure LocksReleased (p : LockRec → Bool) (objs : List Word) (s t : State) : Prop where
  pc : (th t).pc = (th (advance 4 s)).pc
  regs : ∀ i, rx t i = rx s i
  reqs : ∀ q ∈ t.reqs, q.thread ≠ (th s).id
  clean : ∀ P, CleanAt P (lockReleased objs s) → CleanAt P t
  own : ∀ r, r.thread = (th s).id → (r ∈ t.locks ↔ r ∈ s.locks ∧ p r = false)
  others : s.lockq = [] → ∀ r, r ∈ t.locks ↔ r ∈ s.locks ∧ p r = false

theorem locksReleased_of (p : LockRec → Bool) (objs : List Word) (hf : fenceWaits s s.cur = false)
    (hq : ∀ v ∈ s.lockq, v.thread ≠ (th s).id) :
    LocksReleased p objs s (releaseIf p (advance 4 (lockReleased objs s))) := by
  generalize hu : advance 4 (lockReleased objs s) = u
  have hth : th u = (th s).step 4 := by rw [← hu, th_advance, th_lockReleased]
  have hcur : u.cur = s.cur := by rw [← hu]; exact cur_lockReleased objs s
  have hid : (thr u s.cur).id = (th s).id := by rw [← hcur]; exact (congrArg Thread.id hth).trans (Thread.step_id _ _)
  have hlocks : u.locks = s.locks := by rw [← hu]; exact locks_lockReleased objs s
  have hlockq : u.lockq = s.lockq := by rw [← hu]; exact lockq_lockReleased objs s
  have hreqs : u.reqs = (settle 4 s.cur s).reqs := by rw [← hu]; exact reqs_lockReleased objs s
  have h := releasedRecords_releaseIf (p := p) (c := s.cur) (s := u) (by rw [hid, hlockq]; exact hq)
  have hcur' : (releaseIf p u).cur = s.cur := h.cur.trans hcur
  have hth' : th (releaseIf p u) = (th s).step 4 := by
    rw [th, me, hcur', h.core, ← hcur]
    exact hth
  have hown := h.own
  have hothers := h.others
  rw [hid, hlocks] at hown
  rw [hlocks, hlockq] at hothers
  refine ⟨by rw [hth', th_advance], fun i => ?_, fun q hq => ?_, fun P hP => h.clean P ?_, hown, hothers⟩
  · rw [rx, hth', Thread.getX_step, rx]
  · rw [h.reqs, hreqs] at hq
    exact settled (sc := 4) (by decide) (.inr hf) q hq
  · rw [← hu]
    exact hP

/-! ## The instructions outside a transaction -/

/-- The record of a lock that `lk.rel` removes. -/
def isHoldOf (t : Thread) (name : Word) (r : LockRec) : Bool := r.thread == t.id && r.same t.asid name false && !r.implicit

/-- The explicit records of a thread, which `lk.relall` removes. -/
def isExplicitOf (t : Thread) (r : LockRec) : Bool := r.thread == t.id && !r.implicit

theorem isHoldOf_eq_false {t : Thread} {name : Word} {r : LockRec} (h : r.thread = t.id) :
    isHoldOf t name r = false ↔ ¬ (r.space = t.asid ∧ r.name = name ∧ r.addr = false ∧ r.implicit = false) := by
  rw [← Bool.not_eq_true]
  simp [isHoldOf, h, LockRec.same, and_assoc]

theorem isExplicitOf_eq_false {t : Thread} {r : LockRec} (h : r.thread = t.id) : isExplicitOf t r = false ↔ r.implicit = true := by
  simp [isExplicitOf, h]

theorem isHoldOf_other {t : Thread} {name : Word} {r : LockRec} (h : r.thread ≠ t.id) : isHoldOf t name r = false := by simp [isHoldOf, h]

theorem isExplicitOf_other {t : Thread} {r : LockRec} (h : r.thread ≠ t.id) : isExplicitOf t r = false := by simp [isExplicitOf, h]

section
variable {rd ra g : Nat} {name : Word}

theorem lkRel_eq (hr : Ready s g [ra]) (hn : name = rx s ra) (htx : (th s).status.txn = false) : exec (.lkRel ra g) s =
    .next (if (holdOf s (th s).id (th s).asid name false false).isNone then trap 0x1C5 name s
      else if (explicitOf s (th s).id).any (recUnder s (th s).asid name) then trap 0x1C4 name s
      else lockReleasing [name] s (fun u => releaseIf (isHoldOf (th s) name) (advance 4 u))) := by
  subst hn
  exact (issue_ready hr _).trans (congrArg _ (noTx_out htx))

/-- The names of the locks that a thread holds explicitly. -/
def heldNames (s : State) : List Word := (explicitOf s (th s).id).map (fun r => r.name)

theorem lkRelall_eq (hr : Ready s g []) (htx : (th s).status.txn = false) : exec (.lkRelall g) s =
    .next (lockReleasing (heldNames s) s (fun u => releaseIf (isExplicitOf (th s)) (advance 4 u))) :=
  (issue_ready hr _).trans (congrArg _ (noTx_out htx))

/-! ## The word of `lk.query` -/

/-- Is an ancestor of a lock held in a mode that covers? -/
def ancestorCovers (s : State) (name : Word) : Bool :=
  (ancestors s (th s).asid.toNat name).any (fun a => (heldMode s (th s).id (th s).asid a).any coversBelow)

/-- The low bits of the word of `lk.query`: the mode with bit 3 set. -/
def heldBits (s : State) (name : Word) : Nat := ((heldMode s (th s).id (th s).asid name).map (8 + ·)).getD 0

theorem lockQuery_eq (s : State) (name : Word) : lockQuery s name =
    BitVec.ofNat 64 ((explicitOf s (th s).id).length * 65536 + (if ancestorCovers s name then 16 else 0) + heldBits s name) := by
  have hany : (fun a => (heldMode s (th s).id (th s).asid a).any coversBelow) =
      fun a => match heldMode s (th s).id (th s).asid a with | some m => coversBelow m | none => false :=
    funext fun a => by cases heldMode s (th s).id (th s).asid a <;> rfl
  simp only [lockQuery, ancestorCovers, heldBits, hany]
  cases heldMode s (th s).id (th s).asid name <;> rfl

theorem heldBits_lt (hm : ∀ m, heldMode s (th s).id (th s).asid name = some m → m < 8) : heldBits s name < 16 := by
  unfold heldBits
  cases h : heldMode s (th s).id (th s).asid name with
  | none => decide
  | some m =>
    have := hm m h
    simp only [Option.map_some, Option.getD_some]
    omega

theorem ancestorCovers_iff : ancestorCovers s name = true ↔
    ∃ a ∈ ancestors s (th s).asid.toNat name, ∃ m, heldMode s (th s).id (th s).asid a = some m ∧ coversBelow m = true := by
  simp [ancestorCovers, Option.any_eq_true]

/-- The fields of a word made of a count, a bit and a mode. -/
theorem bits_queryWord {n b h : Nat} {v : Word} (hn : n < 2 ^ 48) (hh : h < 16) (hb : b = 0 ∨ b = 16) (hv : v = BitVec.ofNat 64 (n * 65536 + b + h)) :
    bits v 63 16 = n ∧ (bit v 4 = true ↔ b = 16) ∧ bits v 3 0 = h := by
  have hval : v.toNat = n * 65536 + b + h := by rw [hv, BitVec.toNat_ofNat]; omega
  refine ⟨?_, ?_, ?_⟩
  · simp only [bits, hval]; omega
  · simp only [bit, hval, Nat.testBit_eq_decide_div_mod_eq, decide_eq_true_iff]; omega
  · simp only [bits, hval]; omega

end

end

/-- Settles O33: the release waits and is performed, its records go, and what is granted then goes to other threads. -/
theorem lockReleasesAndQueries : Obligations.LockReleasesAndQueries := by
  unfold Obligations.LockReleasesAndQueries
  intro s rd ra g name hr hn
  refine ⟨fun htx => ⟨fun hh => ?_, fun hh => ⟨fun hu => ?_, fun hu => ⟨fun hw => ?_, fun hc hf hq => ?_⟩⟩, fun hw => ?_, fun hc hf hq => ?_⟩, ?_⟩
  · rw [lkRel_eq hr hn htx, if_pos (by simp [hh])]
  · obtain ⟨r, hr1, hr2⟩ := hu
    rw [lkRel_eq hr hn htx, if_neg (by simpa using hh), if_pos (List.any_eq_true.mpr ⟨r, hr1, hr2⟩)]
  · have hu : (explicitOf s (th s).id).any (recUnder s (th s).asid name) = false := by simpa using hu
    rw [lkRel_eq hr hn htx, if_neg (by simpa using hh), if_neg (by simp [hu]), lockReleasing_waits hw]
  · have hu : (explicitOf s (th s).id).any (recUnder s (th s).asid name) = false := by simpa using hu
    have he := lkRel_eq hr hn htx
    rw [if_neg (by simpa using hh), if_neg (by simp [hu]), lockReleasing_goes hc hf] at he
    have h := locksReleased_of (isHoldOf (th s) name) [name] hf hq
    refine ⟨_, he, h.pc, h.regs, h.reqs, h.clean _ (cleanAt_lockReleased name s), fun r hid => ?_, fun he r hid => ?_⟩
    · rw [h.own r hid, isHoldOf_eq_false hid]
    · simp [h.others he r, isHoldOf_other hid]
  · rw [lkRelall_eq (hr.mono (by simp)) htx, lockReleasing_waits hw]
  · have he := lkRelall_eq (hr.mono (by simp)) htx
    rw [lockReleasing_goes hc hf] at he
    have h := locksReleased_of (isExplicitOf (th s)) (heldNames s) hf hq
    refine ⟨_, he, h.pc, h.regs, h.reqs, fun r hid => ?_, fun he r hid => ?_⟩
    · rw [h.own r hid, isExplicitOf_eq_false hid]
    · simp [h.others he r, isExplicitOf_other hid]
  · subst hn
    refine ⟨_, issue_ready hr _, fun hlen hm => ?_⟩
    obtain ⟨h1, h2, h3⟩ := bits_queryWord hlen (heldBits_lt hm) (by cases ancestorCovers s (rx s ra) <;> simp) (lockQuery_eq s (rx s ra))
    refine ⟨h1, h2.trans ?_, h3.trans ?_⟩
    · rw [← ancestorCovers_iff]
      simp
    · unfold heldBits
      cases heldMode s (th s).id (th s).asid (rx s ra) <;> rfl

end Sys2Proof.Machine
end

section
/-! PROOFS. 05 R161, R162: the request forms of locks (O32). -/

namespace Sys2Proof.Machine

/-! ## Steps 1 to 4 -/

section
variable {s : State} {rd ra g lv md : Nat} {up tr : Bool} {name : Word} {e : Instr} {k : LockCheck}

theorem exec_eq_lockForm (h : e = .lkReq rd ra g lv md ∧ up = false ∧ tr = false ∨ e = .lkTry rd ra g lv md ∧ up = false ∧ tr = true ∨
    e = .lkUp rd ra g lv md ∧ up = true ∧ tr = false) : exec e s = lockForm rd ra g lv md up tr s := by
  rcases h with ⟨rfl, rfl, rfl⟩ | ⟨rfl, rfl, rfl⟩ | ⟨rfl, rfl, rfl⟩ <;> rfl

/-- What a request form does once its checks have come to k. -/
def lockAnswer (rd md : Nat) (tr : Bool) (name : Word) (s : State) : LockCheck → State
  | .cause c => trap c name s
  | .wound => trap 0x1C1 name (clearWounds (th s).id s)
  | .status v => retX rd v s
  | .send => withAge s (lockSend rd tr name md)

theorem lockForm_eq (hr : Ready s g [ra]) (hn : name = rx s ra) (htx : (th s).status.txn = false) (hk : lockCheck s up lv md name = k) :
    lockForm rd ra g lv md up tr s = .next (lockAnswer rd md tr name s k) := by
  subst hn
  refine (issue_ready hr _).trans (congrArg _ ((noTx_out htx).trans ?_))
  simp only [hk]
  cases k <;> rfl

theorem lockCheck_name (h : lockNameOk s (th s).asid.toNat name = false ∨ nameLevel name ≠ lv) : lockCheck s up lv md name = .cause 0x1C2 := by
  have h : (!lockNameOk s (th s).asid.toNat name || nameLevel name != lv) = true := by rcases h with h | h <;> simp [h]
  rw [lockCheck, if_pos h]

section
variable (hok : lockNameOk s (th s).asid.toNat name = true) (hlv : nameLevel name = lv)
include hok hlv

theorem lockCheck_mode (hm : modeAt md lv = false) : lockCheck s up lv md name = .cause 0x1C3 := by
  simp [lockCheck, hok, hlv, hm]

theorem lockCheck_wound (hm : modeAt md lv = true) (hw : (th s).status.wpend = true) : lockCheck s up lv md name = .wound := by
  simp [lockCheck, hok, hlv, hm, hw]

theorem lockCheck_hold (hm : modeAt md lv = true) (hw : (th s).status.wpend = false) :
    lockCheck s up lv md name = lockHold s up (th s).asid name md := by
  simp [lockCheck, hok, hlv, hm, hw]

end

/-- Step 4 and the limit: what is left of step 3 where the request asks for more than is held. -/
def lockOrder (s : State) (space : BitVec 16) (name : Word) (q : Nat) (new : Bool) : LockCheck :=
  if !orderOk s (th s).id space name q then .cause 0x1C4
  else if new && decide ((explicitOf s (th s).id).length ≥ 256) then .cause 0x1C6
  else .send

variable {sp : BitVec 16}

theorem lockHold_covered (h : coveredBy s (th s).id sp name md = true) : lockHold s up sp name md = .status 1 := by
  simp [lockHold, h]

section
variable (hc : coveredBy s (th s).id sp name md = false)
include hc

theorem lockHold_held {h : Nat} (hh : heldMode s (th s).id sp name = some h) (hcov : covers h md = true) :
    lockHold s up sp name md = .status 2 := by
  simp [lockHold, hc, hh, hcov]

theorem lockHold_mode {h : Nat} (hh : heldMode s (th s).id sp name = some h) (h1 : covers h md = false) (h2 : covers md h = false) :
    lockHold s up sp name md = .cause 0x1C3 := by
  simp [lockHold, hc, hh, h1, h2]

theorem lockHold_notHeld (hh : heldMode s (th s).id sp name = none) : lockHold s true sp name md = .cause 0x1C5 := by
  simp [lockHold, hc, hh]

/-- A request that asks for more than its thread holds goes on to the order of locks. -/
theorem lockHold_more (h : heldMode s (th s).id sp name = none ∧ up = false ∨
    ∃ h, heldMode s (th s).id sp name = some h ∧ covers h md = false ∧ covers md h = true) :
    lockHold s up sp name md =
      lockOrder s sp name md ((heldMode s (th s).id sp name).isNone && (holdOf s (th s).id sp name false false).isNone) := by
  rcases h with ⟨hh, hup⟩ | ⟨h, hh, h1, h2⟩
  · simp [lockHold, hc, hh, hup, lockOrder]
  · simp [lockHold, hc, hh, h1, h2, lockOrder]

end

theorem lockOrder_order {new : Bool} (h : orderOk s (th s).id sp name md = false) : lockOrder s sp name md new = .cause 0x1C4 := by
  simp [lockOrder, h]

theorem lockOrder_limit (h : orderOk s (th s).id sp name md = true) (hn : 256 ≤ (explicitOf s (th s).id).length) :
    lockOrder s sp name md true = .cause 0x1C6 := by
  simp [lockOrder, h, hn]

theorem lockOrder_send {new : Bool} (h : orderOk s (th s).id sp name md = true)
    (hn : new = true → (explicitOf s (th s).id).length < 256) : lockOrder s sp name md new = .send := by
  cases new
  · simp [lockOrder, h]
  · have := hn rfl
    simp [lockOrder, h, this]

end

/-! ## The age -/

section
variable {s : State}

theorem th_aged {α : Type} (f : Thread → α) (hf : ∀ t a, f (t.setAge a) = f t) : f (th (aged s)) = f (th s) := by
  unfold aged
  split
  · rfl
  · rw [th, me, updCore_cur, core_updCore_same]
    exact hf _ _

theorem aged_frame {α : Type} (f : State → α) (hf : ∀ s c k, f (setCore s c k) = f s) : f (aged s) = f s := by
  unfold aged
  split
  · rfl
  · exact hf _ _ _

end

/-! ## The record of a granted request -/

section
variable {s : State} {w : LockWait}

/-- Is a record the one of a request's lock? -/
def LockWait.isRecord (w : LockWait) (r : LockRec) : Prop :=
  r.thread = w.thread ∧ r.same w.space w.name w.addr = true ∧ r.implicit = w.implicit

theorem isRecord_record (w : LockWait) : w.isRecord w.record := by
  simp [LockWait.isRecord, LockWait.record, LockRec.same]

theorem holdOf_eq_none : holdOf s w.thread w.space w.name w.addr w.implicit = none ↔ ∀ r ∈ s.locks, ¬ w.isRecord r := by
  simp [holdOf, LockWait.isRecord, List.find?_eq_none, and_assoc]

/-- The record that a granted request leaves of one. -/
def LockWait.upgraded (w : LockWait) (r : LockRec) : LockRec := { r with mode := w.mode, folded := false }

theorem mem_putRecord {r : LockRec} : r ∈ (putRecord s w).locks ↔
    r ∈ s.locks ∧ ¬ w.isRecord r ∨ (∃ r0 ∈ s.locks, w.isRecord r0 ∧ r = w.upgraded r0) ∨ (∀ r0 ∈ s.locks, ¬ w.isRecord r0) ∧ r = w.record := by
  rw [putRecord]
  cases h : holdOf s w.thread w.space w.name w.addr w.implicit with
  | none =>
    have h := holdOf_eq_none.mp h
    simp only [List.mem_append, List.mem_singleton]
    constructor
    · rintro (hr | hr)
      · exact .inl ⟨hr, h r hr⟩
      · exact .inr (.inr ⟨h, hr⟩)
    · rintro (⟨hr, -⟩ | ⟨r0, hr0, hrec, -⟩ | ⟨-, hr⟩)
      · exact .inl hr
      · exact absurd hrec (h r0 hr0)
      · exact .inr hr
  | some r1 =>
    have h1 : ¬ ∀ r0 ∈ s.locks, ¬ w.isRecord r0 := fun hn => by
      rw [holdOf_eq_none.mpr hn] at h
      cases h
    simp only [List.mem_map]
    constructor
    · rintro ⟨r0, hr0, rfl⟩
      by_cases hrec : w.isRecord r0
      · exact .inr (.inl ⟨r0, hr0, hrec, if_pos hrec⟩)
      · exact .inl ⟨(if_neg hrec).symm ▸ hr0, (if_neg hrec).symm ▸ hrec⟩
    · rintro (⟨hr, hrec⟩ | ⟨r0, hr0, hrec, rfl⟩ | ⟨hn, -⟩)
      · exact ⟨r, hr, if_neg hrec⟩
      · exact ⟨r0, hr0, if_pos hrec⟩
      · exact absurd hn h1

/-- The record of a granted request stands, in its mode and not folded. -/
theorem exists_mem_putRecord (s : State) (w : LockWait) : ∃ r ∈ (putRecord s w).locks, w.isRecord r ∧ r.mode = w.mode ∧ r.folded = false := by
  by_cases h : ∃ r0 ∈ s.locks, w.isRecord r0
  · obtain ⟨r0, hr0, hrec⟩ := h
    exact ⟨w.upgraded r0, mem_putRecord.mpr (.inr (.inl ⟨r0, hr0, hrec, rfl⟩)), hrec, rfl, rfl⟩
  · exact ⟨w.record, mem_putRecord.mpr (.inr (.inr ⟨by simpa using h, rfl⟩)), isRecord_record w, rfl, rfl⟩

theorem mode_of_mem_putRecord {r : LockRec} (hr : r ∈ (putRecord s w).locks) (hrec : w.isRecord r) : r.mode = w.mode := by
  rcases mem_putRecord.mp hr with ⟨-, hn⟩ | ⟨r0, -, -, rfl⟩ | ⟨-, rfl⟩
  · exact absurd hrec hn
  · rfl
  · rfl

theorem mem_putRecord_other {r : LockRec} (h : ¬ w.isRecord r) : r ∈ (putRecord s w).locks ↔ r ∈ s.locks := by
  rw [mem_putRecord]
  constructor
  · rintro (⟨hr, -⟩ | ⟨r0, -, hrec, rfl⟩ | ⟨-, rfl⟩)
    · exact hr
    · exact absurd hrec h
    · exact absurd (isRecord_record w) h
  · exact fun hr => .inl ⟨hr, h⟩

/-- The mode in which a thread holds a lock depends on its records alone. -/
theorem heldMode_eq (s : State) (t : Nat) (sp : BitVec 16) (name : Word) : heldMode s t sp name =
    ((recordsOf s t).find? (fun r => r.same sp name false && !r.implicit && !r.folded)).map (fun r => r.mode) := by
  rw [heldMode, recordsOf, List.find?_filter]
  simp only [Bool.and_assoc, Bool.decide_and, Bool.decide_eq_true]

theorem heldMode_of_records {t : State} {id : Nat} (h : recordsOf t id = recordsOf s id) (sp : BitVec 16) (name : Word) :
    heldMode t id sp name = heldMode s id sp name := by
  rw [heldMode_eq, h, heldMode_eq]

theorem heldMode_putRecord (ha : w.addr = false) (hi : w.implicit = false) : heldMode (putRecord s w) w.thread w.space w.name = some w.mode := by
  have hp : ∀ r, (r.thread == w.thread && r.same w.space w.name false && !r.implicit && !r.folded) = true ↔ w.isRecord r ∧ r.folded = false := by
    simp [LockWait.isRecord, ha, hi, and_assoc]
  obtain ⟨r, hr, hrec, -, hf⟩ := exists_mem_putRecord s w
  rw [heldMode]
  cases h : (putRecord s w).locks.find? (fun r => r.thread == w.thread && r.same w.space w.name false && !r.implicit && !r.folded) with
  | none => exact absurd ((hp r).mpr ⟨hrec, hf⟩) (List.find?_eq_none.mp h r hr)
  | some r1 =>
    have hfound := List.find?_some h
    have hrec1 := ((hp r1).mp hfound).1
    exact congrArg some (mode_of_mem_putRecord (List.mem_of_find?_eq_some h) hrec1)

/-- The record of an escalated request stands in its mode. -/
theorem exists_mem_escalate (s : State) (w : LockWait) : ∃ r ∈ (escalate s w).locks, w.isRecord r ∧ r.mode = w.mode := by
  obtain ⟨r, hr, hrec, hm, -⟩ := exists_mem_putRecord s w
  refine ⟨_, List.mem_map_of_mem hr, ?_⟩
  split
  · exact ⟨hrec, hm⟩
  · exact ⟨hrec, hm⟩

end

/-! ## The request of a thread whose age is set -/

section
variable {s1 s2 X : State} {rd md : Nat} {tr : Bool} {name : Word} {w w1 v : LockWait}

theorem lockSend_remote (hw : w = mkLock s1 name false md false tr false) (hr : lockRemote s1 (th s1).asid name = true) :
    lockSend rd tr name md s1 = await (.lock rd) { s1 with lockq := s1.lockq ++ [{ w with remote := true }] } := by
  subst hw
  simp only [lockSend, mkLock, hr, if_true]
  rfl

/-- What a request does at its home on this device. -/
def lockSendHome (rd : Nat) (w : LockWait) (s : State) : State :=
  if lockAtOnce s w then
    match arriveLock w s with
    | (some v, s1) => reexamine (retX rd v (grantAcquire (w.granted s1 v) s1))
    | (none, s1) => s1
  else if w.try_ then retX rd 3 s
  else await (.lock rd) (sendLock w s)

theorem lockSend_home (hw : w = mkLock s1 name false md false tr false) (hr : lockRemote s1 (th s1).asid name = false) :
    lockSend rd tr name md s1 = lockSendHome rd w s1 := by
  subst hw
  simp only [lockSend, mkLock, hr, Bool.false_eq_true, if_false, lockSendHome]
  rfl

theorem lockSendHome_answered {x : Word} (h : lockAtOnce s1 w = true) (ha : arriveLock w s1 = (some x, X)) :
    lockSendHome rd w s1 = reexamine (retX rd x (grantAcquire (w.granted X x) X)) := by
  simp only [lockSendHome, h, ha, if_true]

theorem lockSendHome_busy (h : lockAtOnce s1 w = false) :
    lockSendHome rd w s1 = if w.try_ then retX rd 3 s1 else await (.lock rd) (sendLock w s1) := by
  simp only [lockSendHome, h, Bool.false_eq_true, if_false]

section
variable (ha : (w1, s2) = arriving w s1) (hg : grantable s2 w1 = true)
include ha hg

theorem lockSendHome_granted (he : escalation s2 w1 = none) : lockSendHome rd w s1 =
    reexamine (retX rd 0 (grantAcquire (w.granted (putRecord s2 w1) 0) (putRecord s2 w1))) := by
  refine lockSendHome_answered ?_ ?_
  · simp [lockAtOnce, ← ha, hg, he]
  · simp [arriveLock, ← ha, hg, he]

theorem lockSendHome_escalated (he : escalation s2 w1 = some v) (hv : grantable s2 v = true) : lockSendHome rd w s1 =
    reexamine (retX rd 1 (grantAcquire (w.granted (escalate s2 v) 1) (escalate s2 v))) := by
  refine lockSendHome_answered ?_ ?_
  · simp [lockAtOnce, ← ha, hg, he, hv]
  · simp [arriveLock, ← ha, hg, he, hv]

end

/-- What a grant at once leaves: the instruction completes with its status, and the grants that follow go to other threads. -/
structure GrantedAtOnce (rd : Nat) (x : Word) (s1 X t : State) : Prop where
  thread : th t = ((th s1).setX rd x).step 4
  records : recordsOf t (th s1).id = recordsOf X (th s1).id
  others : s1.lockq = [] → ∀ r, r ∈ t.locks ↔ r ∈ X.locks

theorem grantedAtOnce {x : Word} (hcur : X.cur = s1.cur) (hkeep : X.cores = s1.cores ∧ X.lockq = s1.lockq)
    (hno : ∀ v ∈ s1.lockq, v.thread ≠ (th s1).id) : GrantedAtOnce rd x s1 X (reexamine (retX rd x (grantAcquire w X))) := by
  obtain ⟨hc, hq⟩ := grantAcquire_keeps w X
  have hucur : (grantAcquire w X).cur = s1.cur := (grants_grantAcquire (s := X) (w := w)).cur.trans hcur
  have hth : th (retX rd x (grantAcquire w X)) = ((th s1).setX rd x).step 4 := by
    rw [th_retX, th, me, hucur, core_of_cores (hc.trans hkeep.1)]
    rfl
  have hlockq : (retX rd x (grantAcquire w X)).lockq = s1.lockq := hq.trans hkeep.2
  have hrcur : (retX rd x (grantAcquire w X)).cur = s1.cur := hucur
  have hrec : ∀ id, recordsOf (retX rd x (grantAcquire w X)) id = recordsOf X id := fun id =>
    recordsOf_of_locks (locks_grantAcquire w X)
  generalize retX rd x (grantAcquire w X) = u at hth hlockq hrcur hrec ⊢
  have hid : (me u).t.id = (th s1).id := (congrArg Thread.id hth).trans (by simp)
  have hn : NoRequest s1.cur (me u) u := ⟨by rw [← hrcur]; rfl, by rw [hlockq, hid]; exact hno⟩
  have hr := recordsOf_reexamine hn
  rw [hid] at hr
  refine ⟨?_, hr.trans (hrec _), fun he r => ?_⟩
  · rw [← hth, th, me, grants_reexamine.cur, hrcur, core_reexamine hn]
    rfl
  · rw [reexamine_empty (hlockq.trans he)]
    have h := iff_of_eq (congrArg (r ∈ ·) (hrec r.thread))
    simpa [mem_recordsOf] using h

end

theorem escalation_eq {s : State} {w v : LockWait} (h : escalation s w = some v) : v = tileRequest s w := by
  rw [escalation] at h
  split_ifs at h
  exact (Option.some.inj h).symm

/-- A request is one of the current thread for a lock of a tensor, by no implicit lock. -/
structure RequestOf (s : State) (name : Word) (md : Nat) (w : LockWait) : Prop where
  thread : w.thread = (th s).id
  space : w.space = (th s).asid
  name : w.name = name
  addr : w.addr = false
  implicit : w.implicit = false
  mode : w.mode = md

section
variable {s1 s2 : State} {rd md : Nat} {tr : Bool} {name : Word} {w w1 v : LockWait}

theorem requestOf_arriving (hw : w = mkLock s1 name false md false tr false) (ha : (w1, s2) = arriving w s1) : RequestOf s1 name md w1 := by
  obtain ⟨hw1, -⟩ := Prod.mk.inj ha
  subst hw1 hw
  exact ⟨rfl, rfl, rfl, rfl, rfl, rfl⟩

/-- A home that reads its matrix leaves the cores, the queue and the records. -/
theorem arriving_keeps (ha : (w1, s2) = arriving w s1) :
    s2.cur = s1.cur ∧ s2.cores = s1.cores ∧ s2.lockq = s1.lockq ∧ s2.locks = s1.locks := by
  obtain ⟨-, hs2⟩ := Prod.mk.inj ha
  subst hs2
  exact ⟨rfl, rfl, rfl, rfl⟩

theorem RequestOf.isRecord (h : RequestOf s1 name md w1) (r : LockRec) : w1.isRecord r ↔
    r.thread = (th s1).id ∧ r.space = (th s1).asid ∧ r.name = name ∧ r.addr = false ∧ r.implicit = false := by
  simp [LockWait.isRecord, LockRec.same, h.thread, h.space, h.name, h.addr, h.implicit, and_assoc]

theorem tileRequest_same (s : State) (w : LockWait) :
    (tileRequest s w).space = w.space ∧ (tileRequest s w).addr = w.addr ∧ (tileRequest s w).implicit = w.implicit := by
  rw [tileRequest]
  exact ⟨rfl, rfl, rfl⟩

theorem RequestOf.tile (h : RequestOf s1 name md w1) (s : State) :
    RequestOf s1 (tileRequest s w1).name (tileRequest s w1).mode (tileRequest s w1) := by
  obtain ⟨hs, ha, hi⟩ := tileRequest_same s w1
  exact ⟨(tileRequest_thread s w1).trans h.thread, hs.trans h.space, rfl, ha.trans h.addr, hi.trans h.implicit, rfl⟩

theorem cur_putRecord (s : State) (w : LockWait) : (putRecord s w).cur = s.cur := grants_putRecord.cur

theorem cur_escalate (s : State) (w : LockWait) : (escalate s w).cur = s.cur := cur_putRecord s w

section
variable (hw : w = mkLock s1 name false md false tr false) (ha : (w1, s2) = arriving w s1) (hg : grantable s2 w1 = true)
  (hno : ∀ v ∈ s1.lockq, v.thread ≠ (th s1).id)
include hw ha hg hno

/-- A request that its home grants at once: the record stands in its mode, and no other record of the thread changes. -/
theorem lockSendHome_grants (he : escalation s2 w1 = none) : ∃ t, lockSendHome rd w s1 = t ∧ th t = ((th s1).setX rd 0).step 4 ∧
    heldMode t (th s1).id (th s1).asid name = some md ∧
    (∀ r, ¬ (r.thread = (th s1).id ∧ r.space = (th s1).asid ∧ r.name = name ∧ r.addr = false ∧ r.implicit = false) →
      r.thread = (th s1).id → (r ∈ t.locks ↔ r ∈ s1.locks)) ∧
    (s1.lockq = [] → ∀ r, r.thread ≠ (th s1).id → (r ∈ t.locks ↔ r ∈ s1.locks)) := by
  have hreq := requestOf_arriving hw ha
  obtain ⟨hcur, hcores, hlockq, hlocks⟩ := arriving_keeps ha
  obtain ⟨hc, hq⟩ := putRecord_keeps s2 w1
  have h := grantedAtOnce (rd := rd) (x := 0) (w := w.granted (putRecord s2 w1) 0) (X := putRecord s2 w1)
    ((cur_putRecord s2 w1).trans hcur) ⟨hc.trans hcores, hq.trans hlockq⟩ hno
  have hrec : ∀ r, ¬ w1.isRecord r → (r ∈ (putRecord s2 w1).locks ↔ r ∈ s1.locks) := fun r hne => by
    rw [mem_putRecord_other hne, hlocks]
  refine ⟨_, lockSendHome_granted ha hg he, h.thread, ?_, fun r hne hrt => ?_, fun he r hrt => ?_⟩
  · rw [heldMode_of_records h.records, ← hreq.thread, ← hreq.space, ← hreq.name, heldMode_putRecord hreq.addr hreq.implicit, hreq.mode]
  · have hiff := iff_of_eq (congrArg (r ∈ ·) h.records)
    simp only [mem_recordsOf, hrt, and_true] at hiff
    exact hiff.trans (hrec r (mt (hreq.isRecord r).mp hne))
  · exact (h.others he r).trans (hrec r fun hc => hrt (hc.1.trans hreq.thread))

/-- A request whose escalation its home grants at once: the record of the covering lock stands in its mode. -/
theorem lockSendHome_escalates (he : escalation s2 w1 = some v) (hv : grantable s2 v = true) : ∃ t, lockSendHome rd w s1 = t ∧
    th t = ((th s1).setX rd 1).step 4 ∧ ∃ r ∈ t.locks, r.thread = (th s1).id ∧ r.space = (th s1).asid ∧ r.name = v.name ∧ r.addr = false ∧
      r.implicit = false ∧ r.mode = v.mode := by
  have hreq := requestOf_arriving hw ha
  obtain ⟨hcur, hcores, hlockq, -⟩ := arriving_keeps ha
  have hreqv : RequestOf s1 v.name v.mode v := by
    obtain rfl := escalation_eq he
    exact hreq.tile s2
  obtain ⟨hc, hq⟩ := escalate_keeps s2 v
  have h := grantedAtOnce (rd := rd) (x := 1) (w := w.granted (escalate s2 v) 1) (X := escalate s2 v)
    ((cur_escalate s2 v).trans hcur) ⟨hc.trans hcores, hq.trans hlockq⟩ hno
  obtain ⟨r, hr, hrec, hmode⟩ := exists_mem_escalate s2 v
  obtain ⟨hrt, hrs, hrn, hra, hri⟩ := (hreqv.isRecord r).mp hrec
  have hiff := iff_of_eq (congrArg (r ∈ ·) h.records)
  simp only [mem_recordsOf, hrt, and_true] at hiff
  exact ⟨_, lockSendHome_escalated ha hg he hv, h.thread, r, hiff.mpr hr, hrt, hrs, hrn, hra, hri, hmode⟩

end

/-- Where a request completes that is answered once its age is set. -/
theorem pc_aged (s : State) (rd : Nat) (x : Word) : (((th (aged s)).setX rd x).step 4).pc = (th (advance 4 s)).pc := by
  rw [Thread.pc_step_setX, th_advance]
  exact th_aged (fun t => (t.step 4).pc) fun t a => by apply Thread.step_pc_congr <;> rfl

theorem rx_of_step {s t : State} {rd : Nat} {x : Word} (h : th t = ((th s).setX rd x).step 4) : rx t rd = if rd = 0 then 0 else x := by
  rw [rx, h, Thread.getX_step, Thread.getX_setX, if_pos rfl]

end

/-- Settles O32: the checks in their order, then the request as it is sent, granted or waits. -/
theorem lockRequestsAnswerOrWait : Obligations.LockRequestsAnswerOrWait := by
  unfold Obligations.LockRequestsAnswerOrWait
  intro s s1 s2 rd ra g lv md id sp name w w1 e up tr hr htx hn hid hsp he
  subst hid hsp
  rw [exec_eq_lockForm he]
  have form {k} (hk : lockCheck s up lv md name = k) := lockForm_eq (rd := rd) (tr := tr) hr hn htx hk
  refine ⟨fun h => form (lockCheck_name h), fun hok hlv => ⟨fun hm => form (lockCheck_mode hok hlv hm),
    fun hm hw => form (lockCheck_wound hok hlv hm hw), fun hm hw => ?_⟩⟩
  have hold := lockCheck_hold (up := up) hok hlv hm hw
  refine ⟨fun hc => form (hold.trans (lockHold_covered hc)), fun hc => ⟨fun h hh hcov => form (hold.trans (lockHold_held hc hh hcov)),
    fun h hh h1 h2 => form (hold.trans (lockHold_mode hc hh h1 h2)), fun hh hup => ?_, fun hmore => ?_⟩⟩
  · subst hup
    exact form (hold.trans (lockHold_notHeld hc hh))
  have order := hold.trans (lockHold_more hc hmore)
  refine ⟨fun ho => form (order.trans (lockOrder_order ho)), fun ho hh hrec hlen => ?_, fun ho hlen => ?_⟩
  · refine form (k := .cause 0x1C6) (order.trans ?_)
    rw [hh, hrec]
    exact lockOrder_limit ho hlen
  have hsend : lockForm rd ra g lv md up tr s = .next (withAge s (lockSend rd tr name md)) := by
    refine form (order.trans (lockOrder_send ho fun hnew => ?_))
    simp only [Bool.and_eq_true, Option.isNone_iff_eq_none] at hnew
    exact hlen hnew.1 hnew.2
  rw [hsend]
  refine ⟨fun ha => by rw [withAge, if_pos ha], fun ha h1 hwdef harr => ?_⟩
  rw [withAge, if_neg (by simp [ha]), ← h1]
  have hasid : (th s1).asid = (th s).asid := by rw [h1]; exact th_aged Thread.asid fun _ _ => rfl
  have hid1 : (th s1).id = (th s).id := by rw [h1]; exact th_aged Thread.id fun _ _ => rfl
  have hlocks : s1.locks = s.locks := by rw [h1]; exact aged_frame State.locks fun _ _ _ => rfl
  have hlockq : s1.lockq = s.lockq := by rw [h1]; exact aged_frame State.lockq fun _ _ _ => rfl
  have hpc : ∀ x, (((th s1).setX rd x).step 4).pc = (th (advance 4 s)).pc := fun x => by rw [h1, pc_aged]
  rw [← hasid]
  refine ⟨fun hrem => by rw [lockSend_remote hwdef hrem], fun hrem hbusy => ?_, fun hrem hg hq => ?_⟩
  · rw [lockSend_home hwdef hrem, lockSendHome_busy hbusy]
    have htry : w.try_ = tr := by rw [hwdef]; rfl
    rw [htry]
    exact ⟨fun h => by rw [h]; rfl, fun h => by rw [h]; rfl⟩
  · have hno : ∀ v ∈ s1.lockq, v.thread ≠ (th s1).id := by rw [hlockq, hid1]; exact hq
    rw [lockSend_home hwdef hrem, ← hid1, ← hlocks, ← hlockq]
    refine ⟨fun hesc => ?_, fun v hesc hv => ?_⟩
    · obtain ⟨t, ht, hth, hrest⟩ := lockSendHome_grants (rd := rd) hwdef harr hg hno hesc
      exact ⟨t, congrArg _ ht, (rx_of_step hth).trans (ite_self 0), by rw [hth, hpc], hrest⟩
    · obtain ⟨t, ht, hth, hrest⟩ := lockSendHome_escalates (rd := rd) hwdef harr hg hno hesc hv
      exact ⟨t, congrArg _ ht, rx_of_step hth, by rw [hth, hpc], hrest⟩

end Sys2Proof.Machine
end

section
/-! PROOFS. 05 R164 to R167; 14 R372: transactions, their commit and their abort (O35). -/

namespace Sys2Proof.Machine

/-! ## The undo log -/

/-- A line of the device's memory holds the bytes and the marks that an entry of an undo log has. -/
structure LineIs (m : TagMem) (u : Nat × List Byte × Bool × Bool) : Prop where
  bytes : readBytes m.cells (128 * u.1) 128 = u.2.1
  low : isPois m (2 * u.1) = u.2.2.1
  high : isPois m (2 * u.1 + 1) = u.2.2.2

section
variable {s : State} {u v : Nat × List Byte × Bool × Bool}

theorem isPois_setPois (m : TagMem) (u v : Nat) (p : Bool) : isPois (setPois m u p) v = if v = u then p else isPois m v := by
  cases p
  · rw [isPois_setPois_false]
    by_cases h : v = u <;> simp [h]
  · by_cases h : v = u <;> simp [isPois, setPois, mem_setIns, h]

theorem undoLine_cells (s : State) (u : Nat × List Byte × Bool × Bool) :
    (undoLine s u).dev.cells = writeBytes s.dev.cells (128 * u.1) u.2.1 := by
  rw [Nat.mul_comm]
  rfl

theorem isPois_undoLine (s : State) (u : Nat × List Byte × Bool × Bool) (n : Nat) : isPois (undoLine s u).dev n =
    if n = 2 * u.1 + 1 then u.2.2.2 else if n = 2 * u.1 then u.2.2.1 else isPois s.dev n := by
  have h : u.1 * 128 / 64 = 2 * u.1 := by omega
  simp only [undoLine, isPois_setPois, h]
  rfl

theorem readBytes_congr {c c' : List Host.Cell} {a n : Nat} (h : ∀ i < n, cellGet c (a + i) = cellGet c' (a + i)) :
    readBytes c a n = readBytes c' a n := by
  induction n generalizing a with
  | zero => rfl
  | succ n ih =>
    have h0 : cellGet c a = cellGet c' a := h 0 (by omega)
    rw [readBytes, readBytes, h0, ih fun i hi => by rw [Nat.add_assoc, Nat.add_comm 1]; exact h (i + 1) (by omega)]

theorem undoLine_lineIs (hm : memOk s) (hl : u.2.1.length = 128) : LineIs (undoLine s u).dev u := by
  refine ⟨?_, ?_, ?_⟩
  · rw [undoLine_cells, ← hl]
    exact readBytes_writeBytes_same _ _ (Memory.wf_iff.mp hm.1).1
  · rw [isPois_undoLine, if_neg (by omega), if_pos rfl]
  · rw [isPois_undoLine, if_pos rfl]

theorem undoLine_cell {a : Nat} (hl : u.2.1.length = 128) (ha : a / 128 ≠ u.1) : cellGet (undoLine s u).dev.cells a = cellGet s.dev.cells a := by
  rw [undoLine_cells]
  exact cellGet_writeBytes_other _ _ _ _ (by omega)

theorem LineIs.undoLine (h : LineIs s.dev v) (hl : u.2.1.length = 128) (hne : v.1 ≠ u.1) : LineIs (undoLine s u).dev v := by
  refine ⟨(readBytes_congr fun i hi => undoLine_cell hl (by omega)).trans h.bytes, ?_, ?_⟩
  · rw [isPois_undoLine, if_neg (by omega), if_neg (by omega), h.low]
  · rw [isPois_undoLine, if_neg (by omega), if_neg (by omega), h.high]

theorem LineIs.foldl_undoLine {l : List (Nat × List Byte × Bool × Bool)} (h : LineIs s.dev v) (hl : ∀ u ∈ l, u.2.1.length = 128)
    (hv : v.1 ∉ l.map Prod.fst) : LineIs (l.foldl Machine.undoLine s).dev v := by
  induction l generalizing s with
  | nil => exact h
  | cons u l ih =>
    simp only [List.map_cons, List.mem_cons, not_or] at hv
    exact ih (h.undoLine (hl u List.mem_cons_self) hv.1) (fun u hu => hl u (List.mem_cons_of_mem _ hu)) hv.2

/-- The undo log puts every line of it back where each is logged once. -/
theorem foldl_undoLine_lineIs {l : List (Nat × List Byte × Bool × Bool)} (hm : memOk s) (hn : (l.map Prod.fst).Nodup)
    (hl : ∀ u ∈ l, u.2.1.length = 128) : ∀ u ∈ l, LineIs (l.foldl undoLine s).dev u := by
  induction l generalizing s with
  | nil => simp
  | cons u l ih =>
    obtain ⟨hu, hn⟩ := List.nodup_cons.mp hn
    obtain ⟨hlu, hll⟩ := List.forall_mem_cons.mp hl
    refine List.forall_mem_cons.mpr ⟨(undoLine_lineIs hm hlu).foldl_undoLine hll hu, ih (undoLine_memOk u hm) hn hll⟩

theorem foldl_undoLine_cell {l : List (Nat × List Byte × Bool × Bool)} {a : Nat} (hl : ∀ u ∈ l, u.2.1.length = 128)
    (ha : ∀ u ∈ l, a / 128 ≠ u.1) : cellGet (l.foldl undoLine s).dev.cells a = cellGet s.dev.cells a := by
  induction l generalizing s with
  | nil => rfl
  | cons u l ih =>
    obtain ⟨hlu, hll⟩ := List.forall_mem_cons.mp hl
    obtain ⟨hau, hal⟩ := List.forall_mem_cons.mp ha
    exact (ih hll hal).trans (undoLine_cell hlu hau)

theorem lcRestore_frame {α : Type} (f : State → α) (hf : ∀ s qs n, f { s with quarters := qs, freeIx := n } = f s) (q : Nat)
    (e : Nat × Option MLine) (s : State) : f (lcRestore q e s) = f s := by
  rw [lcRestore]
  split
  · rw [lcPut]
    split
    · exact hf s _ s.freeIx
    · exact hf s _ (s.freeIx + 1)
  · exact hf s _ s.freeIx

theorem undoTx_frame {α : Type} (f : State → α) (hf : ∀ s qs n, f { s with quarters := qs, freeIx := n } = f s) (q : Nat) (x : Tx) (s : State) :
    f (undoTx q x s) = f (x.undo.foldl undoLine s) :=
  List.foldlRecOn (motive := fun t : State => f t = f (x.undo.foldl undoLine s)) x.cached _ rfl fun t ht e _ => (lcRestore_frame f hf q e t).trans ht

theorem foldl_undoLine_frame {α : Type} (f : State → α) (hf : ∀ s m, f { s with dev := m } = f s) (l : List (Nat × List Byte × Bool × Bool))
    (s : State) : f (l.foldl undoLine s) = f s :=
  List.foldlRecOn (motive := fun t : State => f t = f s) l _ rfl fun t ht _ _ => (hf t _).trans ht

/-- The undo of a transaction changes memory and caches alone. -/
theorem undoTx_keeps (q : Nat) (x : Tx) (s : State) : (undoTx q x s).cores = s.cores ∧ (undoTx q x s).locks = s.locks ∧
    (undoTx q x s).lockq = s.lockq ∧ (undoTx q x s).wounds = s.wounds :=
  ⟨(undoTx_frame State.cores (fun _ _ _ => rfl) q x s).trans (foldl_undoLine_frame State.cores (fun _ _ => rfl) _ s),
    (undoTx_frame State.locks (fun _ _ _ => rfl) q x s).trans (foldl_undoLine_frame State.locks (fun _ _ => rfl) _ s),
    (undoTx_frame State.lockq (fun _ _ _ => rfl) q x s).trans (foldl_undoLine_frame State.lockq (fun _ _ => rfl) _ s),
    (undoTx_frame State.wounds (fun _ _ _ => rfl) q x s).trans (foldl_undoLine_frame State.wounds (fun _ _ => rfl) _ s)⟩

end

/-! ## A core that waits for no lock -/

/-- A core whose thread waits for no lock. -/
def NotAtLock (k : CoreState) : Prop := ∀ rd, k.t.wait ≠ .lock rd

section
variable {c : Nat} {s t : State} {w : LockWait}

/-- A grant completes no instruction of a core that waits for no lock. -/
theorem core_answerLock (h : NotAtLock (core s c)) (status : Word) : core (answerLock w status s) c = core s c := by
  have hgrant : core (if status = 3 then s else grantAcquire w s) c = core s c := by
    split
    · rfl
    · exact core_of_cores (grantAcquire_keeps w s).1 c
  rw [answerLock]
  split
  · next rd hrd =>
    have hne : c ≠ w.core := by
      rintro rfl
      rw [waitRd] at hrd
      split at hrd
      · next hwait => exact h _ hwait
      · cases hrd
    exact (core_updThr_other _ _ _ _ hne).trans hgrant
  · exact hgrant

theorem core_answered (h : NotAtLock (core s c)) (ht : t.cores = s.cores) (status : Word) : core (answerLock w status t) c = core s c := by
  have hc := core_of_cores ht c
  exact (core_answerLock (hc ▸ h) status).trans hc

theorem core_grantWaiting (h : NotAtLock (core s c)) : core (grantWaiting w s) c = core s c := by
  rw [grantWaiting]
  split
  · exact core_answered h (by exact (escalate_keeps _ w).1) 1
  · split
    · exact core_answered h (by exact (putRecord_keeps _ w).1) 0
    · next v _ =>
      split
      · exact core_answered h (by exact (escalate_keeps _ v).1) 1
      · rfl

theorem core_regrant (n : Nat) (h : NotAtLock (core s c)) : core (regrant n s) c = core s c := by
  induction n generalizing s with
  | zero => rfl
  | succ n ih =>
    rw [regrant]
    split
    · rfl
    · next w _ =>
      have hw := core_grantWaiting (w := w) h
      exact (ih (hw ▸ h)).trans hw

theorem core_releaseIf (p : LockRec → Bool) (h : NotAtLock (core s c)) : core (releaseIf p s) c = core s c :=
  (core_of_cores (woundMore_cores _) c).trans (core_regrant _ h)

theorem grants_releaseIf (p : LockRec → Bool) : Grants s (releaseIf p s) := by
  have h : Grants s { s with locks := s.locks.filter (fun r => !p r) } := .of_same rfl rfl rfl rfl rfl rfl
  exact h.trans (grants_settleWounds.trans grants_reexamine)

theorem locks_releaseIf (p : LockRec → Bool) (h : s.lockq = []) (r : LockRec) : r ∈ (releaseIf p s).locks ↔ r ∈ s.locks ∧ p r = false := by
  rw [releaseIf, reexamine_empty (by exact h)]
  simp [settleWounds]

end

/-! ## The thread of an abort -/

section
variable {c id reason code : Nat} {p : Wound → Bool} {s t : State}

theorem threadOf_of_runsOn (h : RunsOn c id s) : threadOf s id = some (thr s c) := by rw [threadOf, h.found]

theorem updThread_of_runsOn (h : RunsOn c id s) (f : Thread → Thread) : updThread s id f = updThr s c f := by rw [updThread, h.found]

/-- A thread of which no wound is left to take. -/
def Thread.noWound (t : Thread) : Thread := { t with status := { t.status with wpend := false } }

/-- What taking the implicit wounds of the thread on core c changes: its WPEND, which clears where no other wound is left. -/
structure ImplicitTaken (c id : Nat) (s t : State) : Prop where
  thread : thr t c = thr s c ∨ thr t c = (thr s c).noWound
  clear : OnlyImplicit id s → (thr t c).status.wpend = false
  dev : t.dev = s.dev
  locks : t.locks = s.locks
  lockq : t.lockq = s.lockq

theorem implicitTaken_takeWounds (h : RunsOn c id s) : ImplicitTaken c id s (takeWounds id (fun w => w.implicit) s) := by
  have hrun : ∀ ws, RunsOn c id { s with wounds := ws } := fun ws => h.of_cores rfl
  rw [takeWounds]
  split
  · rw [updThread_of_runsOn (hrun _)]
    have hthr : ∀ ws, thr (updThr { s with wounds := ws } c Thread.noWound) c = (thr s c).noWound := fun ws => thr_updThr_same _ _ _
    exact ⟨.inr (hthr _), fun _ => (congrArg (fun t : Thread => t.status.wpend) (hthr _)).trans rfl, rfl, rfl, rfl⟩
  · next hleft =>
    refine ⟨.inl rfl, fun hi => absurd (List.isEmpty_iff.mpr (List.eq_nil_iff_forall_not_mem.mpr fun x hx => ?_)) hleft, rfl, rfl, rfl⟩
    obtain ⟨hx, hp⟩ := List.mem_filter.mp hx
    obtain ⟨y, hy, rfl⟩ := List.mem_map.mp hx
    split at hp
    · simp at hp
    · next hn =>
      have hy' := hi y (List.mem_filter.mpr ⟨hy, hp⟩)
      simp only [Bool.and_eq_true, beq_iff_eq, Bool.not_eq_true'] at hp
      exact hn ⟨hp.1.1, hp.1.2, hy'⟩

/-! ## The abort -/

/-- 05 R166: the transaction of the thread of core c has been aborted with a status, from s to t. -/
structure Aborted (s t : State) (c st : Nat) : Prop where
  txn : (thr t c).status.txn = false
  pc : (thr t c).pc = pcOf (thr s c).tx.restart.toNat
  wait : (thr t c).wait = .none
  undo : (thr t c).tx.undo = []
  attempts : (thr t c).tx.attempts = (thr s c).tx.attempts + 1
  result : (thr s c).tx.rd ≠ 0 → (thr t c).getX (thr s c).tx.rd = BitVec.ofNat 64 st
  last : (thr t c).tx.last = BitVec.ofNat 12 st
  locks : s.lockq = [] → ∀ r, r ∈ t.locks ↔ r ∈ s.locks ∧ ¬ (r.thread = (thr s c).id ∧ r.implicit = true)
  wpend : OnlyImplicit (thr s c).id s → (thr t c).status.wpend = false
  lines : memOk s → ((thr s c).tx.undo.map Prod.fst).Nodup → (∀ u ∈ (thr s c).tx.undo, u.2.1.length = 128) →
    ∀ u ∈ (thr s c).tx.undo, LineIs t.dev u
  bytes : (∀ u ∈ (thr s c).tx.undo, u.2.1.length = 128) →
    ∀ a, (∀ u ∈ (thr s c).tx.undo, a / 128 ≠ u.1) → cellGet t.dev.cells a = cellGet s.dev.cells a

/-- What the abort makes of the thread, whether or not it clears WPEND. -/
theorem abort_thread {u h : Thread} (hu : u = h.abort reason code ∨ u = (h.abort reason code).noWound) :
    u.status.txn = false ∧ u.pc = pcOf h.tx.restart.toNat ∧ u.wait = .none ∧ u.tx.undo = [] ∧ u.tx.attempts = h.tx.attempts + 1 ∧
    (h.tx.rd ≠ 0 → u.getX h.tx.rd = BitVec.ofNat 64 (reason * 256 + code % 256)) ∧ u.tx.last = BitVec.ofNat 12 (reason * 256 + code % 256) := by
  have hx : h.tx.rd ≠ 0 → (h.abort reason code).getX h.tx.rd = BitVec.ofNat 64 (reason * 256 + code % 256) := fun h0 =>
    (Thread.getX_setX h h.tx.rd h.tx.rd (BitVec.ofNat 64 (reason * 256 + code % 256))).trans (by rw [if_pos rfl, if_neg h0])
  rcases hu with rfl | rfl
  · exact ⟨rfl, rfl, rfl, rfl, rfl, hx, rfl⟩
  · exact ⟨rfl, rfl, rfl, rfl, rfl, hx, rfl⟩

theorem aborted_abortThread (hrun : RunsOn c id s) : Aborted s (abortThread id reason code s) c (reason * 256 + code % 256) := by
  have hid := hrun.here
  rw [abortThread, threadOf_of_runsOn hrun]
  dsimp only
  generalize hq : coreQuarter ((coreOfThread s id).getD 0) = q
  have hdev := undoTx_frame State.dev (fun _ _ _ => rfl) q (thr s c).tx s
  obtain ⟨hcores, hlocks, hlockq, hwounds⟩ := undoTx_keeps q (thr s c).tx s
  generalize undoTx q (thr s c).tx s = s1 at hdev hcores hlocks hlockq hwounds ⊢
  have hrun1 := hrun.of_cores hcores
  rw [updThread_of_runsOn hrun1]
  have habort : thr (updThr s1 c (fun h => h.abort reason code)) c = (thr s c).abort reason code := by
    rw [thr_updThr_same, thr_of_cores hcores]
  have htaken := implicitTaken_takeWounds (hrun1.updThr c (f := fun h => h.abort reason code) fun t => by simp [Thread.abort])
  generalize takeWounds id (fun w => w.implicit) (updThr s1 c (fun h => h.abort reason code)) = s2 at htaken ⊢
  have hthread := abort_thread (htaken.thread.imp (·.trans habort) (·.trans (congrArg Thread.noWound habort)))
  have hlockq2 : s.lockq = [] → s2.lockq.filter (fun w => w.thread != id) = [] := fun he => by
    rw [htaken.lockq]
    show s1.lockq.filter _ = []
    rw [hlockq, he]
    rfl
  generalize hp : (fun r : LockRec => r.thread == id && r.implicit) = p
  have hat : NotAtLock (core { s2 with lockq := s2.lockq.filter (fun w => w.thread != id) } c) := fun rd hw => by
    have hnone : (thr s2 c).wait = .none := hthread.2.2.1
    cases hnone.symm.trans hw
  have hcore := core_releaseIf p hat
  have hg := grants_releaseIf (s := { s2 with lockq := s2.lockq.filter (fun w => w.thread != id) }) p
  have hloc := locks_releaseIf (s := { s2 with lockq := s2.lockq.filter (fun w => w.thread != id) }) p
  generalize releaseIf p { s2 with lockq := s2.lockq.filter (fun w => w.thread != id) } = t at hcore hg hloc ⊢
  have ht : thr t c = thr s2 c := congrArg CoreState.t hcore
  have htdev : t.dev = ((thr s c).tx.undo.foldl undoLine s).dev := hg.dev.trans (htaken.dev.trans hdev)
  rw [← ht] at hthread
  obtain ⟨h1, h2, h3, h4, h5, h6, h7⟩ := hthread
  refine ⟨h1, h2, h3, h4, h5, h6, h7, fun he r => ?_, fun hw => ?_, fun hm hn hl u hu => ?_, fun hl a ha => ?_⟩
  · rw [hloc (hlockq2 he) r, ← hp, hid]
    have hl : s2.locks = s.locks := htaken.locks.trans hlocks
    show r ∈ s2.locks ∧ _ ↔ _
    rw [hl]
    simp
  · rw [ht]
    refine htaken.clear ?_
    rw [hid] at hw
    exact fun x hx => hw x (by rw [pendingWounds, ← hwounds]; exact hx)
  · rw [htdev]
    exact foldl_undoLine_lineIs hm hn hl u hu
  · rw [htdev]
    exact foldl_undoLine_cell hl ha

/-! ## The abort of a wound -/

theorem onlyImplicit_of_wounds (h : OnlyImplicit id s) (hw : t.wounds = s.wounds) : OnlyImplicit id t := by
  rw [OnlyImplicit, pendingWounds, hw]
  exact h

theorem withdrawLock_keeps (id : Nat) (s : State) : (withdrawLock id s).dev = s.dev ∧ (s.lockq = [] → withdrawLock id s = s) ∧
    (∀ i, OnlyImplicit i s → OnlyImplicit i (withdrawLock id s)) ∧ ∀ c i, RunsOn c i s → RunsOn c i (withdrawLock id s) := by
  have hsame : Grants s { s with lockq := s.lockq.filter (fun w => w.thread != id) } := .of_same rfl rfl rfl rfl rfl rfl
  have hg := hsame.trans grants_reexamine
  rw [withdrawLock]
  split
  · next h => exact ⟨hg.dev, fun he => by simp [he] at h, hg.wounds, hg.runs⟩
  · exact ⟨rfl, fun _ => rfl, fun _ h => h, fun _ _ h => h⟩

/-- An abort of a thread whose waiting requests have been withdrawn is one of the thread. -/
theorem Aborted.of_abandon {st : Nat} (h : Aborted (abandon c s) t c st) : Aborted s t c st := by
  have hthr : thr (abandon c s) c = thr s c := congrArg CoreState.t (core_abandon c s)
  obtain ⟨hdev, hempty, hwounds, -⟩ := withdrawLock_keeps (thr s c).id (dropReqs c 3 { s with tagq := s.tagq.filter (fun w => w.who != .core c) })
  obtain ⟨h1, h2, h3, h4, h5, h6, h7, h8, h9, h10, h11⟩ := h
  rw [hthr] at h2 h5 h6 h8 h9 h10 h11
  have hdev : (abandon c s).dev = s.dev := hdev
  rw [hdev] at h11
  refine ⟨h1, h2, h3, h4, h5, h6, h7, fun he r => ?_, fun hi => h9 (hwounds _ (onlyImplicit_of_wounds hi rfl)), fun hm => h10 (abandon_memOk hm), h11⟩
  have hsame : abandon c s = dropReqs c 3 { s with tagq := s.tagq.filter (fun w => w.who != .core c) } := hempty he
  rw [hsame] at h8
  exact h8 he r

theorem runsOn_abandon (h : RunsOn c id s) (d : Nat) : RunsOn c id (abandon d s) :=
  (withdrawLock_keeps _ _).2.2.2 c id (h.of_cores rfl)

/-! ## The commit -/

/-- 05 R167: the transaction of the thread of core c has committed, from s to t, with its status in register rd. -/
structure Committed (s t : State) (c rd : Nat) : Prop where
  txn : (thr t c).status.txn = false
  undo : (thr t c).tx.undo = []
  result : (thr t c).getX rd = 0
  pc : (thr t c).pc = ((thr s c).step 4).pc
  dev : t.dev = s.dev
  locks : s.lockq = [] → ∀ r, r ∈ t.locks ↔ r ∈ s.locks ∧ ¬ (r.thread = (thr s c).id ∧ r.implicit = true)
  clean : CleanAt (fun k => (thr s c).tx.cached.any (fun e => e.1 == k)) t

/-- The thread at a commit. -/
def Thread.commit (t : Thread) (rd : Nat) : Thread :=
  ({ t with status := { t.status with txn := false }, tx := t.tx.closed }.setX rd 0).step 4

theorem foldl_releaseBy_keeps (h : Thread) (os : List Word) (s : State) {P : Nat → Bool} (hP : CleanAt P s) :
    CleanAt P (os.foldl (fun s o => releaseBy h o s) s) :=
  List.foldlRecOn (motive := fun t : State => CleanAt P t) os _ hP fun _ ht _ _ => ht.writeBack

theorem foldl_releaseBy_thread_frame {α : Type} (f : State → α) (hf : ∀ s qs, f { s with quarters := qs } = f s) (h : Thread) (os : List Word)
    (s : State) : f (os.foldl (fun s o => releaseBy h o s) s) = f s :=
  List.foldlRecOn (motive := fun t : State => f t = f s) os _ rfl fun t ht _ _ => (hf t _).trans ht

theorem releaseWritten_frame {α : Type} (f : State → α) (hf : ∀ s qs, f { s with quarters := qs } = f s) (c : Nat) (s : State) :
    f (releaseWritten c s) = f s :=
  (foldl_releaseBy_thread_frame f hf _ _ _).trans (hf s _)

theorem cleanAt_writeBack (P : Nat → Bool) (s : State) : CleanAt P (lcWriteBack P s) := by
  intro p hp l hl hb
  obtain ⟨y, -, hmsc⟩ := mem_quarters_lcEach (f := writtenBack P) hp
  exact clean_writtenBack (hmsc ▸ hl) hb

theorem cleanAt_releaseWritten (c : Nat) (s : State) :
    CleanAt (fun k => (thr s c).tx.cached.any (fun e => e.1 == k)) (releaseWritten c s) :=
  foldl_releaseBy_keeps _ _ _ (cleanAt_writeBack _ s)

theorem committed_commitTx (s : State) (c rd : Nat) : Committed s (commitTx c rd s) c rd := by
  have hthr : thr (updThr (releaseWritten c s) c (fun h => h.commit rd)) c = (thr s c).commit rd := by
    rw [thr_updThr_same, thr_of_cores (releaseWritten_frame State.cores (fun _ _ => rfl) c s)]
  generalize hp : (fun r : LockRec => r.thread == (thr s c).id && r.implicit) = p
  have hdef : commitTx c rd s = releaseIf p (updThr (releaseWritten c s) c (fun h => h.commit rd)) := by rw [← hp]; rfl
  have hdev : (updThr (releaseWritten c s) c (fun h => h.commit rd)).dev = s.dev := releaseWritten_frame State.dev (fun _ _ => rfl) c s
  have hlocks : (updThr (releaseWritten c s) c (fun h => h.commit rd)).locks = s.locks := releaseWritten_frame State.locks (fun _ _ => rfl) c s
  have hlockq : (updThr (releaseWritten c s) c (fun h => h.commit rd)).lockq = s.lockq := releaseWritten_frame State.lockq (fun _ _ => rfl) c s
  have hclean : CleanAt (fun k => (thr s c).tx.cached.any (fun e => e.1 == k)) (updThr (releaseWritten c s) c (fun h => h.commit rd)) :=
    cleanAt_releaseWritten c s
  rw [hdef]
  generalize updThr (releaseWritten c s) c (fun h => h.commit rd) = u at hthr hdev hlocks hlockq hclean ⊢
  have hat : NotAtLock (core u c) := fun rd' hw => by
    have hnone : (thr u c).wait = .none := (congrArg Thread.wait hthr).trans (Thread.step_wait _ _)
    cases hnone.symm.trans hw
  have hg := grants_releaseIf (s := u) p
  have ht : thr (releaseIf p u) c = (thr s c).commit rd := (congrArg CoreState.t (core_releaseIf p hat)).trans hthr
  refine ⟨?_, ?_, ?_, ?_, hg.dev.trans hdev, fun he r => ?_, hg.clean _ hclean⟩
  · simp [ht, Thread.commit]
  · simp [ht, Thread.commit, Tx.closed]
  · rw [ht, Thread.commit, Thread.getX_step, Thread.getX_setX]
    simp
  · rw [ht, Thread.commit, Thread.pc_step_setX]
    apply Thread.step_pc_congr <;> rfl
  · rw [locks_releaseIf p (hlockq.trans he), hlocks, ← hp]
    simp

/-! ## The instructions -/

theorem noTx_in {f : State → State} (h : (th s).status.txn = true) : noTx f s = txAbort 3 0 s := if_pos h

/-- The thread as tx.begin opens its transaction. -/
def Thread.opened (t : Thread) (rd : Nat) (a : Word) : Thread :=
  { t with status := { t.status with txn := true }, tx := { t.tx.closed with restart := a, rd := rd } }

section
variable {rd ra rb rn lv md n g : Nat} {e : Instr}

theorem txBegin_eq (hr : Ready s g [ra]) (htx : (th s).status.txn = false) : exec (.txBegin rd ra g) s =
    .next (if bits (rx s ra) 1 0 ≠ 0 ∨ bits (rx s ra) 63 56 ≠ 0 then trap 0x004 (rx s ra) s
      else withAge s (fun s' => retX rd 0 (updMe s' (fun t => t.opened rd (rx s ra))))) :=
  (issue_ready hr _).trans (congrArg _ (noTx_out htx))

theorem age_aged (s : State) : (th (aged s)).age = (if (th s).age = 0 then newAge s else (th s).age) ∧
    (th (aged s)).tx.attempts = if (th s).age = 0 then 0 else (th s).tx.attempts := by
  unfold aged
  by_cases h : (th s).age = 0
  · rw [if_neg (not_not.mpr h), if_pos h, if_pos h, th, me, updCore_cur, core_updCore_same]
    exact ⟨rfl, rfl⟩
  · rw [if_pos h, if_neg h, if_neg h]
    exact ⟨rfl, rfl⟩

theorem th_txBegin (s : State) (rd : Nat) (a : Word) : th (retX rd 0 (updMe (aged s) (fun t => t.opened rd a))) =
    (((th (aged s)).opened rd a).setX rd 0).step 4 := by
  rw [th_retX, th_updMe]

/-- The instructions that abort a transaction whatever their other registers hold (05 R166). -/
theorem exec_forbidden (hr : Ready s g [ra]) (htx : (th s).status.txn = true)
    (he : e = .txBegin rd ra g ∨ e = .lkReq rn ra g lv md ∨ e = .lkTry rn ra g lv md ∨ e = .lkUp rn ra g lv md ∨
      e = .lkRel ra g ∨ e = .lkRelall g ∨ e = .barInit ra g n ∨ e = .barArrive rd ra g n ∨ e = .barSync ra g n) :
    exec e s = .next (txAbort 3 0 s) := by
  have hin : ∀ f, noTx f s = txAbort 3 0 s := fun f => noTx_in htx
  have hr0 : Ready s g [] := hr.mono (by simp)
  rcases he with rfl | rfl | rfl | rfl | rfl | rfl | rfl | rfl | rfl
  · exact (issue_ready hr _).trans (congrArg _ (hin _))
  · exact (issue_ready hr _).trans (congrArg _ (hin _))
  · exact (issue_ready hr _).trans (congrArg _ (hin _))
  · exact (issue_ready hr _).trans (congrArg _ (hin _))
  · exact (issue_ready hr _).trans (congrArg _ (hin _))
  · exact (issue_ready hr0 _).trans (congrArg _ (hin _))
  · exact (issue_ready hr _).trans (congrArg _ (hin _))
  · exact (issue_ready hr _).trans (congrArg _ (hin _))
  · exact (issue_ready hr _).trans (congrArg _ (hin _))

/-- Those that read a second register. -/
theorem exec_forbidden_two (hr : Ready s g [ra, rb]) (htx : (th s).status.txn = true)
    (he : e = .sig ra rb g ∨ e = .amoVaddN32 ra rb g ∨ e = .amoVaddF32 ra rb g ∨ e = .amoSnap rd ra rb g ∨ e = .barWait rb ra g n) :
    exec e s = .next (txAbort 3 0 s) := by
  have hin : ∀ f, noTx f s = txAbort 3 0 s := fun f => noTx_in htx
  have hswap : Ready s g [rb, ra] := hr.mono (by simp)
  rcases he with rfl | rfl | rfl | rfl | rfl
  · exact (issue_ready hr _).trans (congrArg _ (hin _))
  · exact (issue_ready hr _).trans (congrArg _ (hin _))
  · exact (issue_ready hr _).trans (congrArg _ (hin _))
  · exact (issue_ready hr _).trans (congrArg _ (hin _))
  · exact (issue_ready hswap _).trans (congrArg _ (hin _))

theorem txEnd_eq (hr : Ready s g []) : exec (.txEnd rd g) s = .next (if !(th s).status.txn then trap 0x1CA 0 s
    else if (th s).status.wpend then abortThread (th s).id 1 0 s
    else if outstanding s s.cur then await (.tx rd) s
    else commitTx s.cur rd s) := by
  show execTxEnd rd g s = _
  exact issue_ready hr _

theorem txAbort_eq (hr : Ready s g [ra]) : exec (.txAbort ra g) s =
    .next (if !(th s).status.txn then trap 0x1CA 0 s else abortThread (th s).id 2 (bits (rx s ra) 7 0) s) :=
  (issue_ready hr _).trans (congrArg _ rfl)

theorem txWoundAbort_eq (h : txWoundDue s c = true) : exec (.txWoundAbort c) s = .next (abortThread (thr s c).id 1 0 (abandon c s)) :=
  congrArg Host.Outcome.next (if_pos h)

/-- What tx.end that waits does once its accesses are performed. -/
theorem txCommit_eq (hw : (thr s c).wait = .tx rd) : exec (.txCommit c) s = .next (if outstanding s c then s
    else if (thr s c).status.wpend then abortThread (thr s c).id 1 0 s
    else commitTx c rd s) := by
  show Host.Outcome.next _ = _
  rw [hw]
  rfl

end

end

/-- Settles O35: what an abort and a commit leave of the thread's core, its records and the lines that it wrote, and which of the two an
instruction comes to. -/
theorem transactionsCommitAndAbort : Obligations.TransactionsCommitAndAbort := by
  unfold Obligations.TransactionsCommitAndAbort
  intro aborted committed
  have aborts {s t c st} (h : Aborted s t c st) : aborted s t c st :=
    ⟨h.txn, h.pc, h.wait, h.undo, h.attempts, h.result, h.last, h.locks, h.wpend, fun hm hn hl =>
      ⟨fun u hu => ⟨(h.lines hm hn hl u hu).bytes, (h.lines hm hn hl u hu).low, (h.lines hm hn hl u hu).high⟩, h.bytes hl⟩⟩
  have commits (s c rd) : committed s (commitTx c rd s) c rd := by
    have h := committed_commitTx s c rd
    exact ⟨h.txn, h.undo, h.result, h.pc, h.dev, h.locks, fun p hp l hl ⟨x, hx, hxl⟩ =>
      h.clean p hp l hl (List.any_eq_true.mpr ⟨x, hx, by simp [hxl]⟩)⟩
  refine ⟨fun s rd ra rb rn lv md n g hr hf ha => ?_, fun s c rd hw => ?_, fun s c hdue hf ha => ?_⟩
  · have hrun : RunsOn s.cur (th s).id s := ⟨hf, rfl, ha⟩
    have hr0 : Ready s g [] := hr.mono (by simp)
    have abort (reason code) : aborted s (abortThread (th s).id reason code s) s.cur (reason * 256 + code % 256) :=
      aborts (aborted_abortThread hrun)
    refine ⟨fun htx => ⟨fun h4 hlt => ⟨fun hage => ?_, fun hage => ?_⟩, fun hbad => ?_, ?_, ?_⟩,
      fun htx => ⟨fun e he => ?_, fun hc e he => ?_, ?_, fun hw => ?_, fun hw => ⟨fun ho => ?_, fun ho => ?_⟩⟩, ?_⟩
    · rw [txBegin_eq hr htx, if_neg (by simp only [bits]; omega), withAge, if_pos hage]
    · have he := txBegin_eq (rd := rd) hr htx
      rw [if_neg (by simp only [bits]; omega), withAge, if_neg (by simp [hage])] at he
      have hth := th_txBegin s rd (rx s ra)
      obtain ⟨hage, hatt⟩ := age_aged s
      refine ⟨_, he, ?_, ?_, ?_, ?_, ?_, ?_, ?_, ?_⟩
      · rw [hth]; simp [Thread.opened]
      · rw [hth]; simp [Thread.opened]
      · rw [hth]; simp [Thread.opened]
      · rw [hth]; simp [Thread.opened, Tx.closed]
      · rw [rx, hth, Thread.getX_step, Thread.getX_setX]; simp
      · rw [hth, Thread.pc_step_setX, th_advance]
        exact th_aged (fun t => ((t.opened rd (rx s ra)).step 4).pc) (fun t a => by apply Thread.step_pc_congr <;> rfl) |>.trans
          (by apply Thread.step_pc_congr <;> rfl)
      · rw [hth, ← hage]; simp [Thread.opened]
      · rw [hth, ← hatt]; simp [Thread.opened, Tx.closed]
    · rw [txBegin_eq hr htx, if_pos (by simp only [bits]; omega)]
    · rw [txEnd_eq hr0, htx]
      rfl
    · rw [txAbort_eq hr, htx]
      rfl
    · exact ⟨_, exec_forbidden hr htx he, abort 3 0⟩
    · have hr2 : Ready s g [ra, rb] := ⟨hr.1, fun r hmem => by
        rcases List.mem_cons.mp hmem with h | h
        · exact hr.2 r (by simp [h])
        · rcases List.mem_cons.mp h with h | h
          · exact hr.2 r (by simp [h])
          · exact hc r h⟩
      exact ⟨_, exec_forbidden_two hr2 htx he, abort 3 0⟩
    · have h := abort 2 (bits (rx s ra) 7 0)
      have hcode : bits (rx s ra) 7 0 % 256 = (rx s ra).toNat % 256 := by simp [bits]
      rw [hcode] at h
      exact ⟨_, by rw [txAbort_eq hr, htx]; rfl, h⟩
    · exact ⟨_, by rw [txEnd_eq hr0, htx, hw]; rfl, abort 1 0⟩
    · exact ⟨_, by rw [txEnd_eq hr0, htx, hw, ho]; rfl, commits s s.cur rd⟩
    · rw [txEnd_eq hr0, htx, hw, ho]
      rfl
    · show execTxStat rd g s = _
      exact issue_ready hr0 _
  · rw [txCommit_eq hw]
    refine ⟨fun ho => by rw [ho]; rfl, fun ho hwp => ?_, fun ho hwp hf ha => ?_⟩
    · rw [ho, hwp]
      exact ⟨_, rfl, commits s c rd⟩
    · rw [ho, hwp]
      exact ⟨_, rfl, aborts (aborted_abortThread ⟨hf, rfl, ha⟩)⟩
  · have hrun := runsOn_abandon ⟨hf, rfl, ha⟩ c
    exact ⟨_, txWoundAbort_eq hdue, aborts (aborted_abortThread hrun).of_abandon⟩

end Sys2Proof.Machine
end

section
/-! PROOFS. 00 R10; 05 R149 to R153: runs of words written one after another (O29). -/

namespace Sys2Proof.Machine

/-! ## Numbers in bytes -/

theorem toBytes_append (m n v : Nat) : toBytes (m + n) v = toBytes m v ++ toBytes n (v / 256 ^ m) := by
  induction m generalizing v with
  | zero => simp [toBytes]
  | succ m ih => rw [Nat.succ_add, toBytes, toBytes, ih, Nat.div_div_eq_div_mul, ← pow_succ', List.cons_append]

theorem toBytes_leNat (l : List Byte) : toBytes l.length (leNat l) = l := by
  induction l with
  | nil => rfl
  | cons b l ih =>
    have hb := b.isLt
    have hdiv : leNat (b :: l) / 256 = leNat l := by rw [leNat]; omega
    have hlow : BitVec.ofNat 8 (leNat (b :: l)) = b := by
      apply BitVec.eq_of_toNat_eq
      rw [BitVec.toNat_ofNat, leNat]
      omega
    rw [List.length_cons, toBytes, hdiv, hlow, ih]

/-- A number of n words in bytes, word by word. -/
theorem toBytes_words (n v : Nat) : (List.range n).flatMap (fun i => toBytes 4 (v / 2 ^ (32 * i) % 2 ^ 32)) = toBytes (4 * n) v := by
  induction n with
  | zero => rfl
  | succ n ih =>
    have hmod : toBytes 4 (v / 2 ^ (32 * n) % 2 ^ 32) = toBytes 4 (v / 2 ^ (32 * n)) := toBytes_mod 4 _
    have hpow : 256 ^ (4 * n) = 2 ^ (32 * n) := by rw [show 256 = 2 ^ 8 from rfl, ← Nat.pow_mul]; congr 1; omega
    rw [List.range_succ, List.flatMap_append, ih, Nat.mul_succ, toBytes_append, hpow, ← hmod]
    simp

/-! ## Runs of bytes at a place -/

/-- Is a place one of a memory of this device? -/
def inMemory (p : Place) : Bool := !isPeer p && !isHub p

section
variable {s t : State} {p q : Place} {bs : List Byte} {n : Nat}

theorem Place.plus_plus (p : Place) (a b : Nat) : (p.plus a).plus b = p.plus (a + b) := by
  cases p <;> simp [Place.plus, Nat.add_assoc]

theorem inMemory_plus (h : inMemory p = true) (a : Nat) : inMemory (p.plus a) = true := by
  cases p <;> exact h

theorem sameByte_plus (h : inMemory p = true) (a b : Nat) : sameByte (p.plus a) (p.plus b) = (a == b) := by
  cases p with
  | dev x => simp [sameByte, Place.plus]
  | loc c o => simp [sameByte, Place.plus, locKey_add]
  | spad e o => simp [sameByte, Place.plus, spadKey_add]
  | peer d x => cases h
  | hub o => cases h

theorem placeRead_add (s : State) (p : Place) (m n : Nat) : placeRead s p (m + n) = placeRead s p m ++ placeRead s (p.plus m) n := by
  simp [placeRead, List.range_add, Place.plus_plus, Function.comp_def]

theorem devWrite_eq_devStore (m : TagMem) (a : Nat) (bs : List Byte) :
    devWrite m false a bs = devStore (((List.range bs.length).map (a + ·)).zip bs) m := by
  induction bs generalizing m a with
  | nil => rfl
  | cons b bs ih =>
    have hrange : (List.range bs.length).map (fun j => a + (j + 1)) = (List.range bs.length).map (a + 1 + ·) :=
      List.map_congr_left fun j _ => by omega
    rw [devWrite, ih, List.length_cons, List.range_succ_eq_map, List.map_cons, List.zip_cons_cons, List.map_map]
    show _ = devStore (((List.range bs.length).map (fun j => a + (j + 1))).zip bs) (devSetByte m (a + 0) b false)
    rw [hrange]
    rfl

/-- What a clean write of a run of bytes leaves in the memories. -/
theorem memStored_placeWrite (h : memOk s) (hp : inMemory p = true) (bs : List Byte) :
    MemStored s (placeWrite s p bs false) ((List.range bs.length).map p.plus) bs := by
  cases p with
  | dev a =>
    have hrun : (List.range bs.length).map (Place.dev a).plus = ((List.range bs.length).map (a + ·)).map Place.dev := by
      simp [Place.plus, Function.comp_def]
    have heq : placeWrite s (.dev a) bs false = writePlaces s (((List.range bs.length).map (a + ·)).map Place.dev) bs false := by
      rw [writePlaces_dev, ← devWrite_eq_devStore]
      rfl
    rw [hrun, heq]
    exact memStored_dev h (by simp)
  | loc c o => exact memStored_loc h
  | spad e o => exact memStored_spad h
  | peer d x => cases hp
  | hub o => cases hp

theorem placeByte_placeWrite_at {j : Nat} {b : Byte} (h : memOk s) (hp : inMemory p = true) (hb : bs[j]? = some b) :
    placeByte (placeWrite s p bs false) (p.plus j) = b := by
  obtain ⟨hj, -⟩ := List.getElem?_eq_some_iff.mp hb
  refine (memStored_placeWrite h hp bs).written j _ b (by simp [hj]) hb fun k q hk hq => ?_
  obtain ⟨-, rfl⟩ := getElem?_run hq
  rw [sameByte_plus hp]
  simp
  omega

/-- The bytes written read back. -/
theorem placeRead_placeWrite (h : memOk s) (hp : inMemory p = true) (hn : bs.length = n) :
    placeRead (placeWrite s p bs false) p n = bs := by
  subst hn
  refine List.ext_getElem? fun j => ?_
  rw [placeRead, List.getElem?_map]
  by_cases hj : j < bs.length
  · rw [List.getElem?_range hj, Option.map_some, placeByte_placeWrite_at h hp (List.getElem?_eq_getElem hj), List.getElem?_eq_getElem hj]
  · simp [hj]

/-- A byte that a write does not name stays, or is emptied where its line carried a mark. -/
theorem placeByte_placeWrite_else (h : memOk s) (hp : inMemory p = true) (hq : ∀ j < bs.length, sameByte q (p.plus j) = false) :
    placeByte (placeWrite s p bs false) q = placeByte s q ∨ placeByte (placeWrite s p bs false) q = 0 := by
  have hstored := (memStored_placeWrite h hp bs).others q fun x hx => by
    obtain ⟨j, hj, rfl⟩ := List.mem_map.mp hx
    exact hq j (List.mem_range.mp hj)
  rw [hstored]
  split
  · exact .inr rfl
  · exact .inl rfl

/-- A clean byte that a write does not name stays. -/
theorem placeByte_placeWrite_clean (h : memOk s) (hp : inMemory p = true) (hq : ∀ j < bs.length, sameByte q (p.plus j) = false)
    (hc : placePois s q = false) : placeByte (placeWrite s p bs false) q = placeByte s q := by
  have hstored := (memStored_placeWrite h hp bs).others q fun x hx => by
    obtain ⟨j, hj, rfl⟩ := List.mem_map.mp hx
    exact hq j (List.mem_range.mp hj)
  have hw : wiped s ((List.range bs.length).map p.plus) q = false := by
    cases q with
    | dev a =>
      have hc : isPois s.dev (a / 64) = false := hc
      simp [wiped, hc]
    | _ => rfl
  rw [hstored, hw]
  rfl

theorem isPois_devWrite {m : TagMem} {a u : Nat} (h : isPois m u = false) : isPois (devWrite m false a bs) u = false := by
  induction bs generalizing m a with
  | nil => exact h
  | cons b bs ih => exact ih (by rw [isPois_devSetByte, h, Bool.false_and])

theorem isPois_sramWrite {m : TagMem} {whole : Bool} {a u : Nat} (h : isPois m u = false) : isPois (sramWrite m whole a bs false) u = false := by
  refine List.foldlRecOn (motive := fun t : TagMem => isPois t u = false) _ _ h fun t ht i _ => ?_
  have hset : isPois (setPois t (a / 4 + i) false) u = false := by rw [isPois_setPois_false, ht, Bool.false_and]
  cases whole
  · exact hset
  · simp only [Bool.false_eq_true, if_false, if_true]
    split
    · exact hset
    · exact ht

/-- A clean write marks nothing. -/
theorem placePois_placeWrite (h : placePois s q = false) : placePois (placeWrite s p bs false) q = false := by
  cases p with
  | dev a =>
    cases q with
    | dev b => exact isPois_devWrite h
    | _ => exact h
  | loc c o =>
    cases q with
    | loc d u => exact isPois_sramWrite h
    | _ => exact h
  | spad e o =>
    cases q with
    | spad f u => exact isPois_sramWrite h
    | _ => exact h
  | peer d x => exact h
  | hub o => exact h

end

end Sys2Proof.Machine
end

section
/-! PROOFS. 05 R150 to R153: amo.vadd, amo.snap and the home engines (O29). -/

namespace Sys2Proof.Machine

/-! ## Sums of words -/

section
variable {s s1 s2 : State} {fl : Bool} {p q : Place} {vs : List W32} {x : Nat × W32} {n : Nat}

/-- The new value of one target word of amo.vadd. -/
def vaddNew (fl : Bool) (old : Nat) (v : W32) : Nat := if fl then (fadd (BitVec.ofNat 32 old) v 0).toNat else (old + v.toNat) % 2 ^ 32

theorem vaddNew_lt (fl : Bool) (old : Nat) (v : W32) : vaddNew fl old v < 2 ^ 32 := by
  cases fl
  · exact Nat.mod_lt _ (by decide)
  · exact (fadd _ _ _).isLt

/-- The value of word j of a run. -/
def targetWord (s : State) (p : Place) (j : Nat) : Nat := leNat (placeRead s (p.plus (4 * j)) 4)

/-- One addition of amo.vadd. -/
def vaddWord (fl : Bool) (p : Place) (s : State) (x : Nat × W32) : State :=
  placeWrite s (p.plus (4 * x.1)) (toBytes 4 (vaddNew fl (targetWord s p x.1) x.2)) false

theorem vaddPerform_clean (h : placeReadPois s p (4 * vs.length) = false) :
    vaddPerform fl p vs s = some (((List.range vs.length).zip vs).foldl (vaddWord fl p) s) := by
  simp only [vaddPerform, h, Bool.false_eq_true, if_false]
  rfl

theorem vaddPerform_poisoned (h : placeReadPois s p (4 * vs.length) = true) : vaddPerform fl p vs s = none := by
  simp only [vaddPerform, h, if_true]

/-- n words from a place on are clean. -/
def CleanRun (s : State) (p : Place) (n : Nat) : Prop := ∀ k < 4 * n, placePois s (p.plus k) = false

theorem cleanRun_iff : CleanRun s p n ↔ placeReadPois s p (4 * n) = false := by
  simp [CleanRun, placeReadPois]

theorem cleanRun_vaddWord (h : CleanRun s p n) : CleanRun (vaddWord fl p s x) p n := fun k hk => placePois_placeWrite (h k hk)

theorem targetWord_vaddWord_same (hm : memOk s) (hp : inMemory p = true) : targetWord (vaddWord fl p s x) p x.1 = vaddNew fl (targetWord s p x.1) x.2 := by
  rw [targetWord, vaddWord, placeRead_placeWrite hm (inMemory_plus hp _) (toBytes_length 4 _), leNat_toBytes]
  exact Nat.mod_eq_of_lt (vaddNew_lt ..)

theorem targetWord_vaddWord_other {j : Nat} (hm : memOk s) (hp : inMemory p = true) (hc : CleanRun s p n) (hj : j < n) (hne : j ≠ x.1) :
    targetWord (vaddWord fl p s x) p j = targetWord s p j := by
  refine congrArg leNat (List.map_congr_left fun i hi => ?_)
  have hi := List.mem_range.mp hi
  rw [Place.plus_plus]
  refine placeByte_placeWrite_clean hm (inMemory_plus hp _) (fun k hk => ?_) (hc _ (by omega))
  rw [toBytes_length] at hk
  rw [Place.plus_plus, sameByte_plus hp]
  simp
  omega

theorem vaddWord_memOk (h : memOk s) : memOk (vaddWord fl p s x) := placeWrite_memOk _ _ _ h

/-- Additions at distinct words of a clean run: each word named holds its sum, and the others stay. -/
theorem targetWord_foldl_vaddWord {l : List (Nat × W32)} (hn : (l.map Prod.fst).Nodup) (hl : ∀ x ∈ l, x.1 < n) (hm : memOk s)
    (hp : inMemory p = true) (hc : CleanRun s p n) :
    (∀ x ∈ l, targetWord (l.foldl (vaddWord fl p) s) p x.1 = vaddNew fl (targetWord s p x.1) x.2) ∧
    ∀ j < n, j ∉ l.map Prod.fst → targetWord (l.foldl (vaddWord fl p) s) p j = targetWord s p j := by
  induction l generalizing s with
  | nil => exact ⟨by simp, fun _ _ _ => rfl⟩
  | cons x l ih =>
    obtain ⟨hx, hn⟩ := List.nodup_cons.mp hn
    obtain ⟨hxn, hl⟩ := List.forall_mem_cons.mp hl
    obtain ⟨hsum, hstay⟩ := ih hn hl (vaddWord_memOk (fl := fl) (x := x) hm) (cleanRun_vaddWord hc)
    refine ⟨List.forall_mem_cons.mpr ⟨(hstay x.1 hxn hx).trans (targetWord_vaddWord_same hm hp), fun y hy => ?_⟩, fun j hj hnot => ?_⟩
    · have hne : y.1 ≠ x.1 := fun he => hx (he ▸ List.mem_map_of_mem hy)
      exact (hsum y hy).trans (by rw [targetWord_vaddWord_other hm hp hc (hl y hy) hne])
    · simp only [List.map_cons, List.mem_cons, not_or] at hnot
      exact (hstay j hj hnot.2).trans (targetWord_vaddWord_other hm hp hc hj hnot.1)

/-- An indivisible sum of words into clean targets. -/
theorem vaddPerform_sums (hm : memOk s) (hp : inMemory p = true) (hc : placeReadPois s p (4 * vs.length) = false) :
    ∃ t, vaddPerform fl p vs s = some t ∧ ∀ j, j < vs.length → targetWord t p j = vaddNew fl (targetWord s p j) (vs.getD j 0) := by
  refine ⟨_, vaddPerform_clean hc, fun j hj => ?_⟩
  have hfst : ((List.range vs.length).zip vs).map Prod.fst = List.range vs.length := List.map_fst_zip (by simp)
  have hmem : (j, vs.getD j 0) ∈ (List.range vs.length).zip vs := by
    refine List.mem_iff_getElem?.mpr ⟨j, List.getElem?_zip_eq_some.mpr ⟨List.getElem?_range hj, ?_⟩⟩
    simp [hj]
  refine (targetWord_foldl_vaddWord (by rw [hfst]; exact List.nodup_range) (fun x hx => ?_) hm hp (cleanRun_iff.mpr hc)).1 _ hmem
  exact List.mem_range.mp (List.of_mem_zip hx).1

theorem reqs_placeWrite (s : State) (p : Place) (bs : List Byte) (b : Bool) : (placeWrite s p bs b).reqs = s.reqs := by cases p <;> rfl

theorem cores_placeWrite (s : State) (p : Place) (bs : List Byte) (b : Bool) : (placeWrite s p bs b).cores = s.cores := by cases p <;> rfl

theorem th_placeWrite (s : State) (p : Place) (bs : List Byte) (b : Bool) : th (placeWrite s p bs b) = th s := by cases p <;> rfl

theorem fc_placeWrite (s : State) (p : Place) (bs : List Byte) (b : Bool) : (placeWrite s p bs b).fc = s.fc := by cases p <;> rfl

theorem reqs_vaddPerform {t : State} (h : vaddPerform fl p vs s = some t) : t.reqs = s.reqs := by
  rw [vaddPerform] at h
  split at h
  · cases h
  · cases h
    exact List.foldlRecOn (motive := fun u : State => u.reqs = s.reqs) _ _ rfl fun u hu x _ => (reqs_placeWrite u _ _ _).trans hu

/-! ## amo.vadd -/

theorem vaddSource_clean {src : Nat} {qs : List Place} (h : access s s.cur src 4 needR false = (.ok qs, s1)) (hq : q = qs.headD (.dev 0))
    (hhub : isHub q = false) (hf : faraway s1 q = false) (hc : placeReadPois s1 q (4 * n) = false) : vaddSource src n s =
      (.words ((List.range n).map (fun j => BitVec.ofNat 32 (leNat (placeRead s1 (q.plus (4 * j)) 4)))), s1) := by
  have hwords : sourceWords src n q s1 = ((List.range n).map (fun j => wordAt s1 (q.plus (4 * j))), s1) := by
    simp [sourceWords, isPeer_of_here hf]
  have hclean : ((List.range n).map (fun j => wordAt s1 (q.plus (4 * j)))).findIdx? (fun v => v.p) = none := by
    rw [List.findIdx?_eq_none_iff]
    intro v hv
    obtain ⟨j, hj, rfl⟩ := List.mem_map.mp hv
    have hj := List.mem_range.mp hj
    have hc := cleanRun_iff.mpr hc
    have hword : placeReadPois s1 (q.plus (4 * j)) 4 = false := by
      simp only [placeReadPois, List.any_eq_false, List.mem_range, Place.plus_plus]
      exact fun i hi => by rw [hc _ (by omega)]; exact Bool.false_ne_true
    exact hword
  simp only [vaddSource, h, ← hq, hhub, migAt_of_here hf, Option.isSome_none, Bool.false_eq_true, if_false, hwords, hclean, List.map_map]
  rfl

/-- What amo.vadd does at its targets on this device. -/
def vaddHere (fl : Bool) (a : Nat) (p : Place) (vs : List W32) (s : State) : State :=
  match vaddPerform fl p vs s with
  | some s1 => advance 4 s1
  | none => advance 4 (raise s.cur 0x109 (BitVec.ofNat 64 a) 0 s)

theorem amoVadd_here {ra rb g src a : Nat} {ps : List Place} (hr : Ready s g [ra, rb]) (htx : (th s).status.txn = false)
    (hn : n = (rx s rb).toNat % 16 + 1) (hz : (rx s rb).toNat / 16 % 4 = 0) (hsrc : src = (rx s rb).toNat / 64 % 2 ^ 50 * 64)
    (ha : a = (rx s ra).toNat % 2 ^ 56) (hreg : region a = 0) (h4 : a % 4 = 0) (hfit : a % 64 + 4 * n ≤ 64) (hbusy : winBusy s src (4 * n) = false)
    (hsource : vaddSource src n s = (.words vs, s1)) (h : PlainAccess s1 a 4 needRW true ps s2) (hown : ownPending s2 a (4 * n) = false)
    (hp : p = ps.headD (.dev 0)) : amoVadd fl ra rb g s = .next (vaddHere fl a p vs s2) := by
  obtain ⟨-, -, hfar⟩ := h.head (by decide) hp
  have hbz : bits (rx s rb) 5 4 = 0 := by simpa [bits] using hz
  have hbn : bits (rx s rb) 3 0 + 1 = n := by simp [bits, hn]
  have hbs : bits (rx s rb) 55 6 * 64 = src := by simp [bits, hsrc]
  have hba : addr56 (rx s ra) = a := ha.symm
  refine (issue_ready hr _).trans (congrArg _ ((noTx_out htx).trans ?_))
  simp only [hbz, hbn, hbs, hba, amoPlaceCause_dev hreg, hbusy, hsource]
  rw [if_neg (by omega), if_neg (by omega), if_neg Bool.false_ne_true, amoAccess_plain hreg (by decide) h hp hown]
  simp only [hfar, Bool.false_eq_true, if_false]
  rfl

end

/-! ## amo.snap -/

section
variable {s s1 s2 t : State} {p q : Place} {rd ra rb g a b c n x y : Nat} {ps qs : List Place} {cs : List W32}

theorem placeRead_words (s : State) (p : Place) (n : Nat) :
    ((List.range n).map (fun i => BitVec.ofNat 32 (leNat (placeRead s (p.plus (4 * i)) 4)))).flatMap (fun w => toBytes 4 w.toNat) =
      placeRead s p (4 * n) := by
  rw [List.flatMap_map]
  induction n with
  | zero => rfl
  | succ n ih =>
    have hlt := leNat_placeRead_lt s (p.plus (4 * n)) 4
    have hlast : toBytes 4 (BitVec.ofNat 32 (leNat (placeRead s (p.plus (4 * n)) 4))).toNat = placeRead s (p.plus (4 * n)) 4 := by
      have h := toBytes_leNat (placeRead s (p.plus (4 * n)) 4)
      rw [placeRead_length] at h
      rw [BitVec.toNat_ofNat, Nat.mod_eq_of_lt hlt, h]
    rw [List.range_succ, List.flatMap_append, ih, Nat.mul_succ, placeRead_add, ← hlast]
    simp

theorem counterSum_eq (cs : List W32) : counterSum cs = (cs.map BitVec.toNat).sum := List.sum_eq_foldl.symm

theorem counterSum_counters (s : State) (x : Nat) :
    counterSum (counters s (.dev x)) = ((List.range 16).map (fun j => leNat (placeRead s (.dev (x + 4 * j)) 4))).sum := by
  rw [counterSum_eq, counters, List.map_map]
  refine congrArg List.sum (List.map_congr_left fun j _ => ?_)
  exact (BitVec.toNat_ofNat _ _).trans (Nat.mod_eq_of_lt (leNat_placeRead_lt s _ 4))

theorem placeRead_snapClear (h : memOk s) (x : Nat) : placeRead (snapClear (.dev x) s) (.dev x) 64 = List.replicate 64 0 :=
  placeRead_placeWrite h rfl (List.length_replicate ..)

theorem placeRead_snapWrite (h : memOk s) (hp : inMemory p = true) (hc : (cs.flatMap (fun w => toBytes 4 w.toNat)).length = 64) :
    placeRead (snapWrite p cs s) p 64 = cs.flatMap (fun w => toBytes 4 w.toNat) :=
  placeRead_placeWrite h hp hc

/-- Counters written to a block leave a cleared block that it does not reach clear. -/
theorem placeRead_snapWrite_cleared (h : memOk s) (hc : (cs.flatMap (fun w => toBytes 4 w.toNat)).length = 64)
    (hd : x + 64 ≤ y ∨ y + 64 ≤ x) : placeRead (snapWrite (.dev y) cs (snapClear (.dev x) s)) (.dev x) 64 = List.replicate 64 0 := by
  refine List.eq_replicate_iff.mpr ⟨placeRead_length _ _ _, fun v hv => ?_⟩
  obtain ⟨i, hi, rfl⟩ := List.mem_map.mp hv
  have hi := List.mem_range.mp hi
  have hzero : placeByte (snapClear (.dev x) s) ((Place.dev x).plus i) = 0 := placeByte_placeWrite_at h rfl (by rw [List.getElem?_replicate, if_pos hi])
  rcases placeByte_placeWrite_else (q := (Place.dev x).plus i) (snapClear_memOk h) (p := .dev y) rfl (fun j hj => by
    rw [hc] at hj
    simp [sameByte, Place.plus]
    omega) with h | h
  · exact h.trans hzero
  · exact h

theorem snapCause_none (hr : region a = 0) (ha : a % 64 = 0) : snapCause a = none := by
  simp [snapCause, amoPlaceCause_dev hr, ha]

/-- What amo.snap does once both of its blocks have passed their checks. -/
def snapGo (rd a b : Nat) (p q : Place) (s : State) : State :=
  if placeReadPois s p 64 then trap 0x109 (BitVec.ofNat 64 a) s
  else if isPeer q then snapSend s.cur rd b q (counters s p) (await (.snap rd a b q) (snapClear p s))
  else retX rd (BitVec.ofNat 64 (counterSum (counters s p))) (snapWrite q (counters s p) (snapClear p s))

theorem Keeps.faraway (h : Keeps s t) (p : Place) : faraway t p = faraway s p := by
  have hlocal : isLocal t = isLocal s := by funext i; simp [isLocal, h.device]
  cases p with
  | dev a => simp only [Machine.faraway, isPeer, migAt, h.mig, hlocal]
  | _ => rfl

theorem keeps_of_access {w : Nat} {m : Need} {st : Bool} {r : Acc} (h : access s c b w m st = (r, s1)) : Keeps s s1 := by
  have hk := access_keeps s c b w m st
  rwa [h] at hk

theorem amoSnap_go (hr : Ready s g [ra, rb]) (htx : (th s).status.txn = false) (ha : a = (rx s ra).toNat % 2 ^ 56)
    (hb : b = (rx s rb).toNat % 2 ^ 56) (hra : region a = 0) (hrb : region b = 0) (ha6 : a % 64 = 0) (hb6 : b % 64 = 0)
    (hd : a + 64 ≤ b ∨ b + 64 ≤ a) (h : PlainAccess s a 64 needRW true ps s1) (h2 : access s1 s1.cur b 64 needW true = (.ok qs, s2))
    (hp : p = ps.headD (.dev 0)) (hq : q = qs.headD (.dev 0)) (hhub : isHub q = false) (hown : ownPending s2 b 64 = false)
    (hmq : migAt s2 q = none) : exec (.amoSnap rd ra rb g) s = .next (snapGo rd a b p q s2) := by
  obtain ⟨-, hpeer, hfar⟩ := h.head (by decide) hp
  have hmp : migAt s2 p = none := migAt_of_here (((keeps_of_access h2).faraway p).trans hfar)
  have hba : addr56 (rx s ra) = a := ha.symm
  have hbb : addr56 (rx s rb) = b := hb.symm
  refine (issue_ready hr _).trans (congrArg _ ((noTx_out htx).trans ?_))
  simp only [hba, hbb, snapCause_none hra ha6, snapCause_none hrb hb6]
  rw [if_neg (by omega), amoAccess_plain hra (by decide) h hp h.own]
  simp only [h2, ← hq, hhub, hown, hmp, hmq, hpeer, Option.isSome_none, Bool.false_eq_true, if_false]
  rfl

/-- The snapshot of clean counters into a block of this device. -/
theorem snapGo_here (hc : placeReadPois s p 64 = false) (hq : isPeer q = false) : snapGo rd a b p q s =
    retX rd (BitVec.ofNat 64 (counterSum (counters s p))) (snapWrite q (counters s p) (snapClear p s)) := by
  simp [snapGo, hc, hq]

theorem counters_bytes (s : State) (p : Place) : (counters s p).flatMap (fun w => toBytes 4 w.toNat) = placeRead s p 64 := placeRead_words s p 16

theorem length_counters_bytes (s : State) (p : Place) : ((counters s p).flatMap (fun w => toBytes 4 w.toNat)).length = 64 := by
  rw [counters_bytes, placeRead_length]

/-! ### A copy that goes to another device -/

/-- The request that carries the counters of core c's snapshot to a block at a peer. -/
def snapRequest (c rd b : Nat) (q : Place) (cs : List W32) (s : State) : Req :=
  { mkReqOf s c q b 1 0 (BitVec.ofNat 64 (counterSum cs)) (BitVec.ofNat 64 b) 64 rd true with ws := cs }

/-- The state in which a snapshot waits for its copy. -/
def snapWaits (rd a b : Nat) (p q : Place) (s : State) : State := lcDrop q 64 (await (.snap rd a b q) (snapClear p s))

theorem snapGo_peer {d : Nat} (hc : placeReadPois s p 64 = false) : snapGo rd a b p (.peer d y) s =
    { snapWaits rd a b p (.peer d y) s with
      reqs := s.reqs ++ [snapRequest s.cur rd b (.peer d y) (counters s p) (await (.snap rd a b (.peer d y)) (snapClear p s))] } := by
  have hclear : (snapClear p s).reqs = s.reqs := reqs_placeWrite ..
  have hreqs : (snapWaits rd a b p (.peer d y) s).reqs = s.reqs := hclear
  rw [← hreqs]
  simp only [snapGo, hc, Bool.false_eq_true, if_false]
  rfl

theorem th_snapClear (p : Place) (s : State) : th (snapClear p s) = th s := th_placeWrite ..

theorem th_snapWaits : th (snapWaits rd a b p q s) = (th s).waits (.snap rd a b q) s.fc := by
  have h : th (await (.snap rd a b q) (snapClear p s)) = (th (snapClear p s)).waits (.snap rd a b q) (snapClear p s).fc := th_await _ _
  have hfc : (snapClear p s).fc = s.fc := fc_placeWrite ..
  rw [th_snapClear, hfc] at h
  exact h

theorem listDel_append (l : List Req) (r : Req) : listDel (l ++ [r]) l.length = l := by
  induction l with
  | nil => rfl
  | cons x l ih => rw [List.cons_append, List.length_cons, listDel, ih]

/-- The block at a peer is written: the snapshot that waits for it completes. -/
theorem peerStored_snap {r : Req} {l : List Req} {d : Nat} {q0 : Place} (hr : s.reqs = l ++ [r]) (hk : r.kind = 1) (hm : r.moved = false)
    (hp : r.place = .peer d y) (hw : r.wait = true) (hwait : (thr s r.core).wait = .snap rd a b q0) (hid : (thr s r.core).id = r.thread) :
    peerStored l.length s = advanceCore r.core 4 (wxCore r.core rd r.b { s with reqs := l }) := by
  have hget : s.reqs[l.length]? = some r := by rw [hr]; simp
  have hthr : thr { s with reqs := l } r.core = thr s r.core := rfl
  rw [peerStored, hget]
  simp only [hk, hm, hp, isPeer]
  rw [if_pos (by decide), hr, listDel_append, snapDone]
  simp only [hw, hthr, hwait, hid]
  rfl

end

/-! ## The home engines -/

section
variable {s s1 t : State} {n c rd va v a b len : Nat} {wide sg : Bool} {r : Req} {p : Place}

theorem atomicAtHome_performs (hr : s.reqs[n]? = some r) (hk : r.kind = 2 ∨ r.kind = 4) (hm : r.moved = false) (hmig : migAt s r.place = none)
    (hp : isPeer r.place = false) : exec (.atomicAtHome n) s = .next (performAmo r r.place { s with reqs := listDel s.reqs n }) := by
  have hgo : ¬ ((r.kind ≠ 2 ∧ r.kind ≠ 4) ∨ r.moved = true ∨ (migAt s r.place).isSome = true) := by
    rw [hm, hmig]
    simp
    omega
  show Host.Outcome.next _ = _
  rw [hr]
  simp only [if_neg hgo, hp]
  rfl

theorem performAmo_word (hk : r.kind ≠ 5) (h1 : r.fn ≠ 0x0C) (h2 : r.fn ≠ 0x0D) : performAmo r p s =
    if r.wait then amoComplete r.core (amoPerform r.fn r.width r.b.toNat r.expect.toNat p s).1 (amoPerform r.fn r.width r.b.toNat r.expect.toNat p s).2
    else posted r (amoPerform r.fn r.width r.b.toNat r.expect.toNat p s) := by
  simp only [performAmo, if_neg hk, if_neg (show ¬ (r.fn = 0x0C ∨ r.fn = 0x0D) by omega)]

theorem performAmo_vadd (hk : r.kind ≠ 5) (h : r.fn = 0x0C) (hv : vaddPerform false p r.ws s = some t) : performAmo r p s = t := by
  have hfl : (r.fn == 0x0D) = false := by rw [h]; rfl
  simp only [performAmo, if_neg hk, if_pos (Or.inl (b := r.fn = 0x0D) h), hfl, hv]

/-- The old value completes the atomic that waits for it. -/
theorem amoReply_completes (h : (thr s c).wait = .amo rd wide sg va ∧ len = 4 ∨ (thr s c).wait = .ramo rd wide sg va ∧ len = 8) :
    amoReply c (.ok v) s = advanceCore c len (wxCore c rd (amoResult sg wide v) s) := by
  rcases h with ⟨h, rfl⟩ | ⟨h, rfl⟩
  · simp only [amoReply, h]
  · simp only [amoReply, h]

theorem mem_amoReply (c : Nat) (v : Nat) (s : State) : (amoReply c (.ok v) s).reqs = s.reqs ∧ (amoReply c (.ok v) s).dev = s.dev ∧
    (amoReply c (.ok v) s).loc = s.loc ∧ (amoReply c (.ok v) s).spad = s.spad := by
  rw [amoReply]
  split
  · exact ⟨rfl, rfl, rfl, rfl⟩
  · exact ⟨rfl, rfl, rfl, rfl⟩
  · exact ⟨rfl, rfl, rfl, rfl⟩

/-- What an instruction that has completed with a value leaves of its core's thread. -/
theorem completedThread (s : State) (c rd len : Nat) (x : Word) :
    (thr (advanceCore c len (wxCore c rd x s)) c).getX rd = (if rd = 0 then 0 else x) ∧
    (thr (advanceCore c len (wxCore c rd x s)) c).wait = .none ∧
    (thr (advanceCore c len (wxCore c rd x s)) c).pc = ((thr s c).step len).pc := by
  rw [thr_completed]
  exact ⟨by rw [Thread.getX_step, Thread.getX_setX, if_pos rfl], Thread.step_wait _ _, Thread.pc_step_setX _ _ _ _⟩

end

end Sys2Proof.Machine
end

section
/-! PROOFS. 05 R150 to R153: the events of the atomics that are sent, and O29. -/

namespace Sys2Proof.Machine

section
variable {s s1 t : State} {n c rd va v a b len x y d : Nat} {wide sg fl : Bool} {r : Req} {p q : Place} {ps qs : List Place} {vs : List W32}

/-! ### What another device answers -/

theorem reqs_dropReqs_sub {k : Nat} {q : Req} (h : q ∈ (dropReqs c k s).reqs) : q ∈ s.reqs := List.mem_of_mem_filter h

theorem replyOf_word (remote : Bool) (h : v < 2 ^ 64) : replyOf remote v = some (.ok v) := by
  simp only [replyOf, if_pos h]

theorem replyOf_poison (remote : Bool) : replyOf remote (2 ^ 64) = some (.error 0x109) := by
  simp only [replyOf, if_neg (Nat.lt_irrefl _), if_pos]

theorem atomicReply_answers {e : Except (BitVec 10) Nat} (h5 : ∀ q ∈ s.reqs, q.core = c → q.kind ≠ 5)
    (h : ∃ q ∈ s.reqs, q.core = c ∧ q.kind = 2 ∧ q.wait = true ∧ q.moved = false ∧ isPeer q.place = true)
    (he : ∀ remote, replyOf remote v = some e) : exec (.atomicReply c v) s = .next (amoReply c e (dropReqs c 4 (dropReqs c 2 s))) := by
  have hno : s.reqs.any (fun r => r.core == c && r.kind == 5 && r.wait && !r.moved && isPeer r.place) = false := by
    simp only [List.any_eq_false]
    intro q hq hand
    simp only [Bool.and_eq_true, beq_iff_eq] at hand
    exact h5 q hq hand.1.1.1.1 hand.1.1.1.2
  have hyes : s.reqs.any (fun r => r.core == c && r.kind == 2 && r.wait && !r.moved && isPeer r.place) = true := by
    obtain ⟨q, hq, hc, hk, hw, hm, hp⟩ := h
    exact List.any_eq_true.mpr ⟨q, hq, by simp [hc, hk, hw, hm, hp]⟩
  show execAtomicReply c v s = _
  simp only [execAtomicReply, hno, hyes, he, Bool.false_eq_true, if_false, Bool.true_or, if_true]

theorem atomicReply_snapshot (h : ∃ q ∈ s.reqs, q.core = c ∧ q.kind = 5 ∧ q.wait = true ∧ q.moved = false ∧ isPeer q.place = true) :
    exec (.atomicReply c v) s = .next (snapReply c v s) := by
  have hyes : s.reqs.any (fun r => r.core == c && r.kind == 5 && r.wait && !r.moved && isPeer r.place) = true := by
    obtain ⟨q, hq, hc, hk, hw, hm, hp⟩ := h
    exact List.any_eq_true.mpr ⟨q, hq, by simp [hc, hk, hw, hm, hp]⟩
  show execAtomicReply c v s = _
  simp only [execAtomicReply, hyes, if_true]

/-- The 16 counters of a number of 512 bits. -/
def replyCounters (v : Nat) : List W32 := (List.range 16).map (fun i => BitVec.ofNat 32 (v / 2 ^ (32 * i)))

theorem replyCounters_bytes (v : Nat) : (replyCounters v).flatMap (fun w => toBytes 4 w.toNat) = toBytes 64 v := by
  rw [← toBytes_words 16 v, replyCounters, List.flatMap_map]
  simp

theorem counterSum_replyCounters (v : Nat) : counterSum (replyCounters v) = ((List.range 16).map (fun j => v / 2 ^ (32 * j) % 2 ^ 32)).sum := by
  rw [counterSum_eq, replyCounters, List.map_map]
  simp [Function.comp_def]

/-- The counters that come back are written to a block that is here, and the snapshot completes. -/
theorem snapReply_here {q0 : Place} (hw : (thr s c).wait = .snap rd a b q0) (hv : v < 2 ^ 512)
    (h : access (dropReqs c 5 s) c b 64 needW true = (.ok qs, s1)) (hq : q = qs.headD (.dev 0)) (hf : faraway s1 q = false) :
    snapReply c v s =
      advanceCore c 4 (wxCore c rd (BitVec.ofNat 64 (counterSum (replyCounters v))) (snapWrite q (replyCounters v) s1)) := by
  have hwd : (thr (dropReqs c 5 s) c).wait = .snap rd a b q0 := hw
  have hhead : qs.headD q0 = q := by
    have hlen := length_access (by decide) h
    cases qs with
    | nil => cases hlen
    | cons x l => exact hq.symm
  simp only [snapReply, hw, if_pos hv, snapFinish, hwd, h, hhead, hf, Bool.false_eq_true, if_false]
  rfl

theorem thr_placeWrite (s : State) (p : Place) (bs : List Byte) (b : Bool) (c : Nat) : thr (placeWrite s p bs b) c = thr s c := by
  rw [thr, core, cores_placeWrite]
  rfl

/-! ### An atomic performed at its home -/

theorem placeRead_reqs (s : State) (l : List Req) (p : Place) (n : Nat) : placeRead { s with reqs := l } p n = placeRead s p n := by
  cases p <;> rfl

theorem placeReadPois_reqs (s : State) (l : List Req) (p : Place) (n : Nat) : placeReadPois { s with reqs := l } p n = placeReadPois s p n := by
  cases p <;> rfl

theorem placeWrite_reqs (s : State) (l : List Req) (p : Place) (bs : List Byte) (b : Bool) :
    placeWrite { s with reqs := l } p bs b = { placeWrite s p bs b with reqs := l } := by
  cases p <;> rfl

/-- The state that an atomic of one word leaves of the state before. -/
def amoWritten (r : Req) (s : State) : State :=
  if r.fn = 0x0E then s else placeWrite s r.place (toBytes r.width
    (amoNew r.fn r.width (leNat (placeRead s r.place r.width)) r.b.toNat r.expect.toNat)) false

theorem cores_amoWritten : (amoWritten r s).cores = s.cores := by
  unfold amoWritten
  split
  · rfl
  · exact cores_placeWrite ..

theorem thr_amoWritten (c : Nat) : thr (amoWritten r s) c = thr s c := by
  rw [thr, core, cores_amoWritten]
  rfl

theorem amoPerform_home (l : List Req) (hc : placeReadPois s r.place r.width = false) :
    amoPerform r.fn r.width r.b.toNat r.expect.toNat r.place { s with reqs := l } =
      (some (leNat (placeRead s r.place r.width)), { amoWritten r s with reqs := l }) := by
  rw [amoPerform_clean (by rw [placeReadPois_reqs, hc]) (by rw [placeRead_reqs]), amoWritten, placeWrite_reqs]
  split <;> rfl

/-! ## The instructions and the events, as O29 speaks of them -/

theorem placeRead_completed (s : State) (c rd len : Nat) (v : Word) (p : Place) (n : Nat) :
    placeRead (advanceCore c len (wxCore c rd v s)) p n = placeRead s p n := by
  cases p <;> rfl

theorem atomicAtHome_word (hr : s.reqs[n]? = some r) (hk : r.kind = 2 ∨ r.kind = 4) (hm : r.moved = false) (hmig : migAt s r.place = none)
    (hp : isPeer r.place = false) (h1 : r.fn ≠ 0x0C) (h2 : r.fn ≠ 0x0D) (hc : placeReadPois s r.place r.width = false) :
    exec (.atomicAtHome n) s = .next (if r.wait then
      amoReply r.core (.ok (leNat (placeRead s r.place r.width))) { amoWritten r s with reqs := listDel s.reqs n }
      else { amoWritten r s with reqs := listDel s.reqs n }) := by
  rw [atomicAtHome_performs hr hk hm hmig hp, performAmo_word (by omega) h1 h2, amoPerform_home _ hc]
  rfl

theorem atomicAtHome_word_leaves (hr : s.reqs[n]? = some r) (hk : r.kind = 2 ∨ r.kind = 4) (hm : r.moved = false)
    (hmig : migAt s r.place = none) (hp : isPeer r.place = false) (h1 : r.fn ≠ 0x0C) (h2 : r.fn ≠ 0x0D)
    (hc : placeReadPois s r.place r.width = false) :
    ∃ t, exec (.atomicAtHome n) s = .next t ∧ t.reqs = listDel s.reqs n ∧ t.dev = (amoWritten r s).dev ∧ t.loc = (amoWritten r s).loc ∧
      t.spad = (amoWritten r s).spad ∧ (r.wait = false → t.cores = s.cores) ∧
      ∀ rd wide sg va len, r.wait = true → ((thr s r.core).wait = .amo rd wide sg va ∧ len = 4 ∨
          (thr s r.core).wait = .ramo rd wide sg va ∧ len = 8) →
        (thr t r.core).getX rd = (if rd = 0 then 0 else amoResult sg wide (leNat (placeRead s r.place r.width))) ∧
        (thr t r.core).wait = .none ∧ (thr t r.core).pc = ((thr s r.core).step len).pc := by
  refine ⟨_, atomicAtHome_word hr hk hm hmig hp h1 h2 hc, ?_⟩
  cases hw : r.wait with
  | false => exact ⟨rfl, rfl, rfl, rfl, fun _ => cores_amoWritten, fun _ _ _ _ _ h => absurd h Bool.false_ne_true⟩
  | true =>
    obtain ⟨hreqs, hdev, hloc, hspad⟩ := mem_amoReply r.core (leNat (placeRead s r.place r.width)) { amoWritten r s with reqs := listDel s.reqs n }
    refine ⟨hreqs, hdev, hloc, hspad, fun h => absurd h.symm Bool.false_ne_true, fun rd wide sg va len _ hwait => ?_⟩
    have hthr : thr { amoWritten r s with reqs := listDel s.reqs n } r.core = thr s r.core := thr_amoWritten _
    rw [if_pos rfl, amoReply_completes (by rwa [hthr]), ← hthr]
    exact completedThread ..

theorem atomicAtHome_sums (hr : s.reqs[n]? = some r) (hk : r.kind = 2 ∨ r.kind = 4) (hm : r.moved = false) (hmig : migAt s r.place = none)
    (hp : isPeer r.place = false) (hok : memOk s) (h : r.fn = 0x0C) (hc : placeReadPois s r.place (4 * r.ws.length) = false)
    (hh : isHub r.place = false) : ∃ t, exec (.atomicAtHome n) s = .next t ∧ t.reqs = listDel s.reqs n ∧
      ∀ j, j < r.ws.length → targetWord t r.place j = (targetWord s r.place j + (r.ws.getD j 0).toNat) % 2 ^ 32 := by
  have hin : inMemory r.place = true := by rw [inMemory, hp, hh]; rfl
  obtain ⟨t, ht, hsum⟩ := vaddPerform_sums (fl := false) (s := { s with reqs := listDel s.reqs n }) hok hin (by rw [placeReadPois_reqs, hc])
  have hsame : ∀ j, targetWord { s with reqs := listDel s.reqs n } r.place j = targetWord s r.place j := fun j => congrArg leNat (placeRead_reqs ..)
  refine ⟨t, (atomicAtHome_performs hr hk hm hmig hp).trans (congrArg _ (performAmo_vadd (by omega) h ht)), reqs_vaddPerform ht, fun j hj => ?_⟩
  rw [hsum j hj, hsame]
  rfl

/-- The reply with the old value completes the atomic and leaves no request of it. -/
theorem atomicReply_word (h5 : ∀ q ∈ s.reqs, q.core = c → q.kind ≠ 5)
    (h : ∃ q ∈ s.reqs, q.core = c ∧ q.kind = 2 ∧ q.wait = true ∧ q.moved = false ∧ isPeer q.place = true)
    (hw : (thr s c).wait = .amo rd wide sg va) (hv : v < 2 ^ 64) : ∃ t, exec (.atomicReply c v) s = .next t ∧
      (∀ q ∈ t.reqs, ¬ (q.core = c ∧ (q.kind = 2 ∨ q.kind = 4) ∧ q.wait = true)) ∧
      (thr t c).getX rd = (if rd = 0 then 0 else amoResult sg wide v) ∧ (thr t c).wait = .none ∧
      (thr t c).pc = ((thr s c).step 4).pc := by
  have hwd : (thr (dropReqs c 4 (dropReqs c 2 s)) c).wait = .amo rd wide sg va := hw
  refine ⟨_, atomicReply_answers h5 h (fun remote => replyOf_word remote hv), fun q hq => ?_, ?_⟩
  · rw [(mem_amoReply ..).1] at hq
    rintro ⟨hc, hk | hk, hwait⟩
    · exact reqs_dropReqs q (reqs_dropReqs_sub hq) ⟨hc, hk, hwait⟩
    · exact reqs_dropReqs q hq ⟨hc, hk, hwait⟩
  · rw [amoReply_completes (.inl ⟨hwd, rfl⟩)]
    exact completedThread ..

theorem atomicReply_poison (h5 : ∀ q ∈ s.reqs, q.core = c → q.kind ≠ 5)
    (h : ∃ q ∈ s.reqs, q.core = c ∧ q.kind = 2 ∧ q.wait = true ∧ q.moved = false ∧ isPeer q.place = true)
    (hw : (thr s c).wait = .amo rd wide sg va) :
    exec (.atomicReply c (2 ^ 64)) s = .next (trapCore c 0x109 (BitVec.ofNat 64 va) (dropReqs c 4 (dropReqs c 2 s))) := by
  have hwd : (thr (dropReqs c 4 (dropReqs c 2 s)) c).wait = .amo rd wide sg va := hw
  rw [atomicReply_answers h5 h replyOf_poison, amoReply, hwd]

theorem atomicReply_counters {q0 : Place} (h : ∃ q ∈ s.reqs, q.core = c ∧ q.kind = 5 ∧ q.wait = true ∧ q.moved = false ∧ isPeer q.place = true)
    (hok : memOk s) (hw : (thr s c).wait = .snap rd a b q0) (hv : v < 2 ^ 512) (ha : access (dropReqs c 5 s) c b 64 needW true = (.ok qs, s1))
    (hq : qs.headD (.dev 0) = .dev y) (hf : faraway s1 (.dev y) = false) :
    ∃ t, exec (.atomicReply c v) s = .next t ∧ placeRead t (.dev y) 64 = toBytes 64 v ∧
      (thr t c).getX rd = (if rd = 0 then 0 else BitVec.ofNat 64 (((List.range 16).map (fun j => v / 2 ^ (32 * j) % 2 ^ 32)).sum)) ∧
      (thr t c).wait = .none ∧ (thr t c).pc = ((thr s c).step 4).pc := by
  have hok1 : memOk s1 := (keeps_of_access ha).memOk (dropReqs_memOk hok)
  have hthr : thr (snapWrite (.dev y) (replyCounters v) s1) c = thr s c := (thr_placeWrite ..).trans ((keeps_of_access ha).thr c)
  have hlen : ((replyCounters v).flatMap (fun w => toBytes 4 w.toNat)).length = 64 := by rw [replyCounters_bytes, toBytes_length]
  refine ⟨_, (atomicReply_snapshot h).trans (congrArg _ (snapReply_here hw hv ha hq.symm hf)), ?_, ?_⟩
  · rw [placeRead_completed, placeRead_snapWrite hok1 rfl hlen, replyCounters_bytes]
  · rw [counterSum_replyCounters, ← hthr]
    exact completedThread ..

/-! ### The instructions -/

/-- A plain access to device memory stands in a memory of this device. -/
theorem inMemory_of_plain {w : Nat} {m : Need} (h : PlainAccess s a w m true ps s1) (hw : 0 < w) (hp : p = ps.headD (.dev 0)) :
    inMemory p = true := by
  obtain ⟨hhub, hpeer, -⟩ := h.head hw hp
  rw [inMemory, hpeer, hhub]
  rfl

theorem memOk_of_plain {w : Nat} {m : Need} (h : PlainAccess s a w m true ps s1) (hok : memOk s) : memOk s1 := (keeps_of_access h.checked).memOk hok

/-- amo.vadd at clean targets of this device. -/
theorem vaddHere_sums (hok : memOk s) (hp : inMemory p = true) (hc : placeReadPois s p (4 * vs.length) = false) :
    ∃ t, vaddHere fl a p vs s = advance 4 t ∧ ∀ j, j < vs.length → targetWord t p j = vaddNew fl (targetWord s p j) (vs.getD j 0) := by
  obtain ⟨t, ht, hsum⟩ := vaddPerform_sums (fl := fl) hok hp hc
  exact ⟨t, by rw [vaddHere, ht], hsum⟩

theorem vaddHere_poisoned (hc : placeReadPois s p (4 * vs.length) = true) :
    vaddHere fl a p vs s = advance 4 (raise s.cur 0x109 (BitVec.ofNat 64 a) 0 s) := by
  rw [vaddHere, vaddPerform_poisoned hc]

/-- The snapshot of clean counters of device memory into a separate block of this device. -/
theorem snapGo_copies (hok : memOk s) (hc : placeReadPois s (.dev x) 64 = false) (hd : x + 64 ≤ y ∨ y + 64 ≤ x) :
    ∃ t, snapGo rd a b (.dev x) (.dev y) s = retX rd (BitVec.ofNat 64
        (((List.range 16).map (fun j => leNat (placeRead s (.dev (x + 4 * j)) 4))).sum)) t ∧
      placeRead t (.dev y) 64 = placeRead s (.dev x) 64 ∧ placeRead t (.dev x) 64 = List.replicate 64 0 := by
  have hlen := length_counters_bytes s (.dev x)
  have hwritten := placeRead_snapWrite (p := .dev y) (snapClear_memOk (p := .dev x) hok) rfl hlen
  rw [counters_bytes] at hwritten
  refine ⟨_, ?_, hwritten, placeRead_snapWrite_cleared hok hlen hd⟩
  rw [snapGo_here hc rfl, counterSum_counters]

theorem cur_placeWrite (s : State) (p : Place) (bs : List Byte) (b : Bool) : (placeWrite s p bs b).cur = s.cur := by cases p <;> rfl

theorem cur_lcDrop (p : Place) (n : Nat) (s : State) : (lcDrop p n s).cur = s.cur := rfl

theorem cur_await (w : Wait) (s : State) : (await w s).cur = s.cur := rfl

theorem cur_snapWaits (p q : Place) : (snapWaits rd a b p q s).cur = s.cur := by
  rw [snapWaits, cur_lcDrop, cur_await, snapClear, cur_placeWrite]

theorem th_reqs (s : State) (l : List Req) : th { s with reqs := l } = th s := rfl

theorem thr_reqs (s : State) (l : List Req) (c : Nat) : thr { s with reqs := l } c = thr s c := rfl

theorem thr_snapAwait (w : Wait) (p : Place) (s : State) : thr (await w (snapClear p s)) s.cur = (th s).waits w s.fc := by
  have hcur : (snapClear p s).cur = s.cur := cur_placeWrite ..
  have h : th (await w (snapClear p s)) = (th (snapClear p s)).waits w (snapClear p s).fc := th_await _ _
  have hfc : (snapClear p s).fc = s.fc := fc_placeWrite ..
  rw [th_snapClear, hfc] at h
  rw [← hcur]
  exact h

theorem placeRead_snapWaits (p r : Place) (n : Nat) : placeRead (snapWaits rd a b p q s) r n = placeRead (snapClear p s) r n := by
  cases r <;> rfl

/-- The program counter moves on from a wait as it would have without it. -/
theorem Thread.pc_step_waits (u : Thread) (w : Wait) (f len : Nat) : ((u.waits w f).step len).pc = (u.step len).pc := by
  apply Thread.step_pc_congr <;> rfl

/-- The snapshot that waits with its request as the last one completes once that is performed. -/
theorem peerStored_completes {c0 f : Nat} {u : Thread} {l : List Req} {q0 : Place} (hs : s.reqs = l ++ [r]) (hk : r.kind = 1)
    (hm : r.moved = false) (hp : r.place = .peer d y) (hw : r.wait = true) (hc : r.core = c0) (hthr : thr s c0 = u.waits (.snap rd a b q0) f)
    (hid : r.thread = u.id) : (peerStored l.length s).reqs = l ∧ (thr (peerStored l.length s) c0).getX rd = (if rd = 0 then 0 else r.b) ∧
      (thr (peerStored l.length s) c0).wait = .none ∧ (thr (peerStored l.length s) c0).pc = (u.step 4).pc := by
  subst hc
  have hdone := peerStored_snap (s := s) hs hk hm hp hw (congrArg Thread.wait hthr) ((congrArg Thread.id hthr).trans hid.symm)
  obtain ⟨hx, hwait, hpc⟩ := completedThread { s with reqs := l } r.core rd 4 r.b
  have hsame : thr { s with reqs := l } r.core = u.waits (.snap rd a b q0) f := hthr
  rw [hdone]
  exact ⟨rfl, hx, hwait, hpc.trans (by rw [hsame, Thread.pc_step_waits])⟩

/-- The snapshot of clean counters of device memory into a block at a peer: it is sent there, and completes once it is written. -/
theorem snapGo_sends (hok : memOk s) (hc : placeReadPois s (.dev x) 64 = false) :
    ∃ (t : State) (r : Req), snapGo rd a b (.dev x) (.peer d y) s = t ∧ (th t).wait = .snap rd a b (.peer d y) ∧ (th t).pc = (th s).pc ∧
      t.reqs = s.reqs ++ [r] ∧ r.kind = 1 ∧ r.place = .peer d y ∧ r.wait = true ∧ r.ws = counters s (.dev x) ∧
      r.b = BitVec.ofNat 64 (counterSum (counters s (.dev x))) ∧ placeRead t (.dev x) 64 = List.replicate 64 0 ∧
      ∃ u : State, u = peerStored s.reqs.length t ∧ u.reqs = s.reqs ∧
        (thr u s.cur).getX rd = (if rd = 0 then 0 else r.b) ∧ (thr u s.cur).wait = .none ∧ (thr u s.cur).pc = ((th s).step 4).pc := by
  have hth : th (snapWaits rd a b (.dev x) (.peer d y) s) = (th s).waits (.snap rd a b (.peer d y)) s.fc := th_snapWaits
  have hid : (thr (await (.snap rd a b (.peer d y)) (snapClear (.dev x) s)) s.cur).id = (th s).id := by
    rw [thr_snapAwait]
    rfl
  refine ⟨_, _, snapGo_peer hc, ?_, ?_, rfl, rfl, rfl, rfl, rfl, rfl, ?_, _, rfl, ?_⟩
  · rw [th_reqs, hth]; rfl
  · rw [th_reqs, hth]; rfl
  · rw [placeRead_reqs, placeRead_snapWaits, placeRead_snapClear hok]
  · have hthr : thr (snapWaits rd a b (.dev x) (.peer d y) s) s.cur = (th s).waits (.snap rd a b (.peer d y)) s.fc := by
      rw [← cur_snapWaits (rd := rd) (a := a) (b := b) (.dev x) (.peer d y)]
      exact hth
    exact peerStored_completes rfl rfl rfl rfl rfl rfl ((thr_reqs ..).trans hthr) hid

end

/-- Settles O29: each clause is the lemma of its instruction or event; the sums are the word rule of `vaddWord` along the words of the
source, and the snapshot's copy is a clean write of the counters' bytes. -/
theorem vectorAtomicsAndHomeEngines : Obligations.VectorAtomicsAndHomeEngines := by
  unfold Obligations.VectorAtomicsAndHomeEngines
  refine ⟨?vadd, fun _ _ _ _ _ _ h hq hhub hf hc => vaddSource_clean h hq hhub hf hc, ?snap, ?peer, ?home, ?reply, ?counters⟩
  case vadd =>
    intro s s1 s2 ra rb g n a src vs ps p hr htx hn hz hsrc ha hreg h4 hfit hbusy hsource h hown hp
    have hint : exec (.amoVaddN32 ra rb g) s = .next (vaddHere false a p vs s2) :=
      amoVadd_here hr htx hn hz hsrc ha hreg h4 hfit hbusy hsource h hown hp
    have hfloat : exec (.amoVaddF32 ra rb g) s = .next (vaddHere true a p vs s2) :=
      amoVadd_here hr htx hn hz hsrc ha hreg h4 hfit hbusy hsource h hown hp
    refine ⟨fun hok hc => ?_, fun hc => ⟨by rw [hint, vaddHere_poisoned hc], by rw [hfloat, vaddHere_poisoned hc]⟩⟩
    have hok1 : memOk s1 := by
      have hm := vaddSource_memOk (src := src) (n := n) hok
      rwa [hsource] at hm
    have hin := inMemory_of_plain h (by decide) hp
    obtain ⟨t, ht, hsum⟩ := vaddHere_sums (fl := false) (a := a) (memOk_of_plain h hok1) hin hc
    obtain ⟨u, hu, hfsum⟩ := vaddHere_sums (fl := true) (a := a) (memOk_of_plain h hok1) hin hc
    exact ⟨⟨t, by rw [hint, ht], hsum⟩, ⟨u, by rw [hfloat, hu], hfsum⟩⟩
  case snap =>
    intro s s1 s2 rd ra rb g a b x y ps qs hr htx ha hb hra hrb ha6 hb6 hd h h2 hx hy hxy
    obtain ⟨hhub, -, hfar⟩ := h2.head (by decide) hy.symm
    have hgo := amoSnap_go (rd := rd) hr htx ha hb hra hrb ha6 hb6 hd h h2.checked hx.symm hy.symm hhub h2.own (migAt_of_here hfar)
    refine ⟨fun hok hc => ?_, fun hc => ?_⟩
    · obtain ⟨t, ht, hread, hclear⟩ := snapGo_copies (rd := rd) (a := a) (b := b) (memOk_of_plain h2 (memOk_of_plain h hok)) hc hxy
      exact ⟨t, by rw [hgo, ht], hread, hclear⟩
    · rw [hgo, snapGo, if_pos hc]
  case peer =>
    intro s s1 s2 rd ra rb g a b x d y ps qs hr htx ha hb hra hrb ha6 hb6 hd h h2 hx hy hown hok hc
    have hgo := amoSnap_go (rd := rd) hr htx ha hb hra hrb ha6 hb6 hd h h2 hx.symm hy.symm rfl hown (migAt_peer rfl)
    have hth : th s2 = th s := (access_th h2).trans (access_th h.checked)
    have hcur : s2.cur = s.cur := (keeps_of_access h2).cur.trans (keeps_of_access h.checked).cur
    obtain ⟨t, r, ht, hwait, hpc, hrest⟩ := snapGo_sends (rd := rd) (a := a) (b := b) (d := d) (y := y)
      ((keeps_of_access h2).memOk (memOk_of_plain h hok)) hc
    rw [hth] at hpc hrest
    rw [hcur] at hrest
    exact ⟨t, r, by rw [hgo, ht], hwait, hpc, hrest⟩
  case home =>
    intro s n r hr hk hm hmig hp
    refine ⟨fun h1 h2 hc => ?_, fun hok h hc hh => atomicAtHome_sums hr hk hm hmig hp hok h hc hh⟩
    obtain ⟨t, ht, hreqs, hdev, hloc, hspad, hcores, hdone⟩ := atomicAtHome_word_leaves hr hk hm hmig hp h1 h2 hc
    exact ⟨t, amoWritten r s, ht, hreqs, rfl, hdev, hloc, hspad, hcores, hdone⟩
  case reply =>
    intro s c v h5 h rd wide sg va hw
    refine ⟨fun hv => atomicReply_word h5 h hw hv, ?_⟩
    rintro rfl
    exact atomicReply_poison h5 h hw
  case counters =>
    intro s s1 c v rd a b y q0 qs h hok hw hv ha hq hf
    exact atomicReply_counters h hok hw hv ha hq hf

end Sys2Proof.Machine
end
